-- ==== Sys2Proof/Word.lean ====
section
/-! DEFINITION. The machine's words and their plainest arithmetic (00_scope.md R3, R4). -/

namespace Sys2Proof

/-- A scalar register's content, an address being computed, a system register (R160, R285). -/
abbrev Word := BitVec 64

/-- One instruction word (R26). -/
abbrev Word32 := BitVec 32

/-- One byte of memory. -/
abbrev Byte := BitVec 8

/-- A process identifier (05_processes.md R115). -/
abbrev Pid := BitVec 32

/-- Register names of the four classes (02_encoding.md R29); T registers occur alone or in groups. -/
abbrev SReg := Fin 32
abbrev EReg := Fin 16
abbrev GReg := Fin 8
abbrev TReg := Fin 32

/-- The row word of a page's sidecar (07_tiles.md R192): block flags and the four SX9 scale slots. -/
structure RowTag where
  zero   : BitVec 4
  nonfin : BitVec 4
  scale0 : BitVec 9
  scale1 : BitVec 9
  scale2 : BitVec 9
  scale3 : BitVec 9
  deriving DecidableEq, Repr

/-- A page: 64 rows of 64 bytes with their sidecar (R192). Row r holds bytes 64r to 64r + 63, the byte at
the lowest address in bits [7:0] (R4, R5). ftype and wtag are type codes, 0xF for none. -/
structure Page where
  rows   : Vector (BitVec 512) 64
  tags   : Vector RowTag 64
  ftype  : BitVec 4
  wtag   : BitVec 4
  poison : Bool
  deriving DecidableEq, Repr

end Sys2Proof
end

