-- ==== Sys2Proof/Machine/Crypto.lean ====
section
/-! DEFINITION. The cryptographic functions that the manual names: SHA-512 (19_trust.md R469), RSASSA-PSS of PKCS #1 v2.2
(R466), and AES-256-XTS on a sector (R471, R472). Byte strings are lists, first byte first. -/

namespace Sys2Proof.Machine

/-! ### Integers of byte strings (PKCS #1) -/

/-- The integer of a big-endian byte string. -/
def os2ip (l : List Byte) : Nat := l.foldl (fun a b => a * 256 + b.toNat) 0

/-- The n bytes of an integer, the most significant first. -/
def i2osp : Nat → Nat → List Byte
  | 0, _ => []
  | n + 1, x => BitVec.ofNat 8 (x / 256 ^ n) :: i2osp n x

def xorBytes (a b : List Byte) : List Byte := List.zipWith (· ^^^ ·) a b

/-! ### SHA-512 (FIPS 180-4) -/

def shaK0 : List Word :=
  [0x428a2f98d728ae22, 0x7137449123ef65cd, 0xb5c0fbcfec4d3b2f,
   0xe9b5dba58189dbbc, 0x3956c25bf348b538, 0x59f111f1b605d019,
   0x923f82a4af194f9b, 0xab1c5ed5da6d8118, 0xd807aa98a3030242,
   0x12835b0145706fbe, 0x243185be4ee4b28c, 0x550c7dc3d5ffb4e2,
   0x72be5d74f27b896f, 0x80deb1fe3b1696b1, 0x9bdc06a725c71235,
   0xc19bf174cf692694, 0xe49b69c19ef14ad2, 0xefbe4786384f25e3,
   0x0fc19dc68b8cd5b5, 0x240ca1cc77ac9c65]

def shaK1 : List Word :=
  [0x2de92c6f592b0275, 0x4a7484aa6ea6e483, 0x5cb0a9dcbd41fbd4,
   0x76f988da831153b5, 0x983e5152ee66dfab, 0xa831c66d2db43210,
   0xb00327c898fb213f, 0xbf597fc7beef0ee4, 0xc6e00bf33da88fc2,
   0xd5a79147930aa725, 0x06ca6351e003826f, 0x142929670a0e6e70,
   0x27b70a8546d22ffc, 0x2e1b21385c26c926, 0x4d2c6dfc5ac42aed,
   0x53380d139d95b3df, 0x650a73548baf63de, 0x766a0abb3c77b2a8,
   0x81c2c92e47edaee6, 0x92722c851482353b]

def shaK2 : List Word :=
  [0xa2bfe8a14cf10364, 0xa81a664bbc423001, 0xc24b8b70d0f89791,
   0xc76c51a30654be30, 0xd192e819d6ef5218, 0xd69906245565a910,
   0xf40e35855771202a, 0x106aa07032bbd1b8, 0x19a4c116b8d2d0c8,
   0x1e376c085141ab53, 0x2748774cdf8eeb99, 0x34b0bcb5e19b48a8,
   0x391c0cb3c5c95a63, 0x4ed8aa4ae3418acb, 0x5b9cca4f7763e373,
   0x682e6ff3d6b2b8a3, 0x748f82ee5defb2fc, 0x78a5636f43172f60,
   0x84c87814a1f0ab72, 0x8cc702081a6439ec]

def shaK3 : List Word :=
  [0x90befffa23631e28, 0xa4506cebde82bde9, 0xbef9a3f7b2c67915,
   0xc67178f2e372532b, 0xca273eceea26619c, 0xd186b8c721c0c207,
   0xeada7dd6cde0eb1e, 0xf57d4f7fee6ed178, 0x06f067aa72176fba,
   0x0a637dc5a2c898a6, 0x113f9804bef90dae, 0x1b710b35131c471b,
   0x28db77f523047d84, 0x32caab7b40c72493, 0x3c9ebe0a15c9bebc,
   0x431d67c49c100d4c, 0x4cc5d4becb3e42b6, 0x597f299cfc657e2a,
   0x5fcb6fab3ad6faec, 0x6c44198c4a475817]

/-- The round constants: the first 64 bits of the fractions of the cube roots of the first 80 primes. -/
def shaK : List Word := shaK0 ++ shaK1 ++ shaK2 ++ shaK3

/-- The eight words of a hash value or of a round. -/
structure Sha where
  a : Word
  b : Word
  c : Word
  d : Word
  e : Word
  f : Word
  g : Word
  h : Word
  deriving DecidableEq, Repr

def shaInit : Sha :=
  { a := 0x6a09e667f3bcc908, b := 0xbb67ae8584caa73b, c := 0x3c6ef372fe94f82b, d := 0xa54ff53a5f1d36f1
    e := 0x510e527fade682d1, f := 0x9b05688c2b3e6c1f, g := 0x1f83d9abfb41bd6b, h := 0x5be0cd19137e2179 }

/-- One round with the word w of the schedule and the constant k. -/
def Sha.round (x : Sha) (w k : Word) : Sha :=
  let s1 := x.e.rotateRight 14 ^^^ x.e.rotateRight 18 ^^^ x.e.rotateRight 41
  let ch := (x.e &&& x.f) ^^^ (~~~x.e &&& x.g)
  let t1 := x.h + s1 + ch + k + w
  let s0 := x.a.rotateRight 28 ^^^ x.a.rotateRight 34 ^^^ x.a.rotateRight 39
  let maj := (x.a &&& x.b) ^^^ (x.a &&& x.c) ^^^ (x.b &&& x.c)
  { a := t1 + s0 + maj, b := x.a, c := x.b, d := x.c, e := x.d + t1, f := x.e, g := x.f, h := x.g }

/-- The next sixteen words of the schedule, one further. -/
def shaNext (l : List Word) : List Word :=
  let w := fun i => l.getD i 0
  let s0 := (w 1).rotateRight 1 ^^^ (w 1).rotateRight 8 ^^^ (w 1) >>> 7
  let s1 := (w 14).rotateRight 19 ^^^ (w 14).rotateRight 61 ^^^ (w 14) >>> 6
  l.drop 1 ++ [s1 + w 9 + s0 + w 0]

def shaRounds : List Word → List Word → Sha → Sha
  | [], _, x => x
  | k :: rest, l, x => shaRounds rest (shaNext l) (x.round (l.headD 0) k)

/-- One block of 128 bytes. -/
def Sha.block (h : Sha) (m : List Byte) : Sha :=
  let words := (List.range 16).map (fun i => BitVec.ofNat 64 (os2ip ((m.drop (8 * i)).take 8)))
  let x := shaRounds shaK words h
  { a := h.a + x.a, b := h.b + x.b, c := h.c + x.c, d := h.d + x.d
    e := h.e + x.e, f := h.f + x.f, g := h.g + x.g, h := h.h + x.h }

/-- A message with its padding: 0x80, zeros, its length in bits. -/
def shaPad (m : List Byte) : List Byte :=
  m ++ 0x80 :: List.replicate ((239 - m.length % 128) % 128) 0 ++ i2osp 16 (8 * m.length)

def shaBlocks : Nat → List Byte → Sha → Sha
  | 0, _, h => h
  | n + 1, m, h => shaBlocks n (m.drop 128) (h.block (m.take 128))

/-- SHA-512. -/
def sha512Bytes (m : List Byte) : List Byte :=
  let p := shaPad m
  let x := shaBlocks (p.length / 128) p shaInit
  [x.a, x.b, x.c, x.d, x.e, x.f, x.g, x.h].flatMap (fun w => i2osp 8 w.toNat)

/-- A digest as the number whose byte i is byte i of the digest (00_scope.md R4). -/
def sha512 (m : List Byte) : BitVec 512 := BitVec.ofNat 512 ((sha512Bytes m).foldr (fun b a => b.toNat + 256 * a) 0)

/-! ### RSASSA-PSS with SHA-512 (R466) -/

/-- The bits of a number, least significant first. -/
def lowBits : Nat → Nat → List Bool
  | 0, _ => []
  | n + 1, x => (x % 2 == 1) :: lowBits n (x / 2)

/-- a ^ e modulo n, for the bits of e. -/
def powMod (n a : Nat) : List Bool → Nat
  | [] => 1 % n
  | b :: rest =>
    let r := powMod n a rest
    let s := r * r % n
    if b then s * a % n else s

/-- MGF1 with SHA-512: blocks of the mask from a counter on. -/
def mgf1 (seed : List Byte) (n : Nat) : List Byte :=
  ((List.range ((n + 63) / 64)).flatMap (fun c => sha512Bytes (seed ++ i2osp 4 c))).take n

/-- The first bit of the data block is 0: the encoded message has 4,095 bits. -/
def clearTop : List Byte → List Byte
  | [] => []
  | b :: rest => (b &&& 0x7F) :: rest

/-- The hash that binds a message and a salt. -/
def pssHash (m salt : List Byte) : List Byte := sha512Bytes (List.replicate 8 0 ++ sha512Bytes m ++ salt)

/-- EMSA-PSS encoding of a message with a salt of 64 bytes, in 512 bytes. -/
def pssEncode (m salt : List Byte) : List Byte :=
  let h := pssHash m salt
  let db := List.replicate 382 0 ++ 0x01 :: salt
  clearTop (xorBytes db (mgf1 h 447)) ++ h ++ [0xBC]

/-- EMSA-PSS verification of 512 bytes. -/
def pssDecodes (m em : List Byte) : Bool :=
  let masked := em.take 447
  let h := (em.drop 447).take 64
  let db := clearTop (xorBytes masked (mgf1 h 447))
  em.length == 512 && em.getLast? == some 0xBC && decide ((masked.headD 0).toNat < 128)
    && (db.take 382).all (· == 0) && db[382]? == some 0x01 && h == pssHash m (db.drop 383)

/-- The public exponent. -/
def rsaE : Nat := 65537

/-- RSASSA-PSS verification: modulus, message, signature, the first and the last of 512 bytes (R466). -/
def pssVerify (modulus m sig : List Byte) : Bool :=
  let n := os2ip modulus
  let x := os2ip sig
  modulus.length == 512 && sig.length == 512 && decide (2 ^ 4095 ≤ n) && decide (x < n)
    && pssDecodes m (i2osp 512 (powMod n x (lowBits 17 rsaE)))

/-- The inverse of a modulo m by Euclid's algorithm: remainders r0, r1 and their factors t0, t1. -/
def invStep : Nat → Int → Int → Int → Int → Int
  | 0, _, _, t0, _ => t0
  | n + 1, r0, r1, t0, t1 => if r1 = 0 then t0 else invStep n r1 (r0 % r1) t1 (t0 - r0 / r1 * t1)

def invMod (a m : Nat) : Nat := (invStep 8192 m (a % m : Nat) 0 1 % m).toNat

/-- An RSA key pair, by its two primes. -/
structure RsaKey where
  p : Nat
  q : Nat
  deriving DecidableEq, Repr, Inhabited

def RsaKey.modulus (k : RsaKey) : List Byte := i2osp 512 (k.p * k.q)

/-- The private exponent. -/
def RsaKey.secret (k : RsaKey) : Nat := invMod rsaE (Nat.lcm (k.p - 1) (k.q - 1))

/-- The RSASSA-PSS signature of a message by a key, with a salt. -/
def RsaKey.sign (k : RsaKey) (m salt : List Byte) : List Byte :=
  i2osp 512 (powMod (k.p * k.q) (os2ip (pssEncode m salt)) (lowBits 4096 k.secret))

/-! ### AES-256 (FIPS 197) -/

/-- The S-box and its inverse, 64 bytes to a number, entry i in byte i. -/
def sbox0 : Nat := 0x75b227ebe28012079a059618c323c7041531d871f1e5a534ccf73f362693fdb7c072a49cafa2d4adf04759fa7dc982ca76abd7fe2b670130c56f6bf27b777c63
def sbox1 : Nat := 0xd2f3ff1021dab6bcf5389d928f40a351a89f3c507f02f94585334d43fbaaefd0cf584c4a39becb6a5bb1fc20ed00d153842fe329b3d63b52a05a6e1b1a2c8309
def sbox2 : Nat := 0x08ae7a65eaf4566ca94ed58d6d37c8e779e4959162acd3c25c2406490a3a32e0db0b5ede14b8ee4688902a22dc4f816073195d643d7ea7c41744975fec130ccd
def sbox3 : Nat := 0x16bb54b00f2d99416842e6bf0d89a18cdf2855cee9871e9b948ed9691198f8e19e1dc186b95735610ef6034866b53e708a8bbd4b1f74dde8c6b4a61c2e2578ba
def sboxInv0 : Nat := 0x25d18b6d49a25b76b224d92866a12e084ec3fa420b954cee3d23c2a632947b54cbe9dec444438e3487ff2f9b8239e37cfbd7f3819ea340bf38a53630d56a0952
def sboxInv1 : Nat := 0x6b8a130103bdafc1020f3fca8f1e2cd00645b3b80558e4f70ad3bc8c00abd890849d8da75746155edab9edfd5048706c92b6655dcc5ca4d41698688664f6f872
def sboxInv2 : Nat := 0xf45acd78fec0db9a2079d2c64b3e56fc1bbe18aa0e62b76f89c5291d711af1476edf751ce837f9e28535ade72274ac9673e6b4f0cecff297eadc674f4111913a
def sboxInv3 : Nat := 0x7d0c2155631469e126d677ba7e042b17619953833cbbebc8b0f52aae4d3be0a0ef9cc9939f7ae52d0d4ab519a97f51605fec8027591012b131c7078833a8dd1f

/-- Byte i of a table of four numbers. -/
def tableByte (t0 t1 t2 t3 : Nat) (x : Byte) : Byte :=
  let i := x.toNat
  BitVec.ofNat 8 ((if i < 64 then t0 else if i < 128 then t1 else if i < 192 then t2 else t3) >>> (8 * (i % 64)))

def subByte (x : Byte) : Byte := tableByte sbox0 sbox1 sbox2 sbox3 x
def subByteInv (x : Byte) : Byte := tableByte sboxInv0 sboxInv1 sboxInv2 sboxInv3 x

/-- Multiplication by x in GF(2^8). -/
def xtime (b : Byte) : Byte := (b <<< 1) ^^^ (if b.getLsbD 7 then 0x1B else 0)

/-- Multiplication in GF(2^8) by a number of 4 bits. -/
def gfMul (k : Nat) (b : Byte) : Byte :=
  let b2 := xtime b
  let b4 := xtime b2
  (if k.testBit 0 then b else 0) ^^^ (if k.testBit 1 then b2 else 0) ^^^ (if k.testBit 2 then b4 else 0)
    ^^^ (if k.testBit 3 then xtime b4 else 0)

/-- The 16 bytes of a state, column by column, at places of its 4 by 4 matrix. -/
def permute (l : List Byte) (f : Nat → Nat) : List Byte := (List.range 16).map (fun i => l.getD (f i) 0)

/-- Row r moves r columns to the left, or to the right. -/
def shiftRows (l : List Byte) : List Byte := permute l (fun i => (i + 4 * (i % 4)) % 16)
def shiftRowsInv (l : List Byte) : List Byte := permute l (fun i => (i + 12 * (i % 4)) % 16)

/-- Each column times a circulant matrix whose first row is given. -/
def mixWith (m : List Nat) (l : List Byte) : List Byte :=
  (List.range 16).map fun i =>
    (List.range 4).foldl (fun a j => a ^^^ gfMul (m.getD ((j + 4 - i % 4) % 4) 0) (l.getD (i / 4 * 4 + j) 0)) 0

/-- The eight words of a key schedule after a round constant; words of four bytes. -/
def expandWords (rcon : Byte) (k : List (List Byte)) : List (List Byte) :=
  let w := fun i => k.getD i []
  let t := (w 7).map subByte
  let n0 := xorBytes (w 0) (xorBytes (t.drop 1 ++ t.take 1) [rcon, 0, 0, 0])
  let n1 := xorBytes (w 1) n0
  let n2 := xorBytes (w 2) n1
  let n3 := xorBytes (w 3) n2
  let n4 := xorBytes (w 4) (n3.map subByte)
  let n5 := xorBytes (w 5) n4
  let n6 := xorBytes (w 6) n5
  [n0, n1, n2, n3, n4, n5, n6, xorBytes (w 7) n6]

def expandFrom : Nat → Byte → List (List Byte) → List (List Byte)
  | 0, _, k => k
  | n + 1, rcon, k => k ++ expandFrom n (xtime rcon) (expandWords rcon k)

/-- The 15 round keys of a key of 32 bytes. -/
def roundKeys (key : List Byte) : List (List Byte) :=
  let words := expandFrom 7 1 ((List.range 8).map (fun i => (key.drop (4 * i)).take 4))
  (List.range 15).map (fun r => ((words.drop (4 * r)).take 4).flatten)

/-- The block cipher on 16 bytes. -/
def aesEncrypt (key x : List Byte) : List Byte :=
  match roundKeys key with
  | [] => x
  | k0 :: rest =>
    let s := (rest.take 13).foldl (fun s k => xorBytes (mixWith [2, 3, 1, 1] (shiftRows (s.map subByte))) k) (xorBytes x k0)
    xorBytes (shiftRows (s.map subByte)) (rest.getLastD [])

/-- Its inverse. -/
def aesDecrypt (key x : List Byte) : List Byte :=
  match (roundKeys key).reverse with
  | [] => x
  | k14 :: rest =>
    let s := (rest.take 13).foldl
      (fun s k => mixWith [14, 11, 13, 9] (xorBytes ((shiftRowsInv s).map subByteInv) k)) (xorBytes x k14)
    xorBytes ((shiftRowsInv s).map subByteInv) (rest.getLastD [])

/-! ### AES-256-XTS (IEEE 1619) on a sector -/

/-- A block times x in GF(2^128), byte 0 the least significant. -/
def doubleTweak (t : List Byte) : List Byte :=
  let n := 2 * t.foldr (fun b a => b.toNat + 256 * a) 0
  let m := if 2 ^ 128 ≤ n then (n - 2 ^ 128) ^^^ 0x87 else n
  (List.range 16).map (fun i => BitVec.ofNat 8 (m / 256 ^ i))

/-- The two keys of a pair: byte 0 of the pair is the first byte of the data key; the tweak key follows it (log 63). -/
def keyBytes (key : BitVec 512) : List Byte := (List.range 64).map (fun i => BitVec.ofNat 8 (key.toNat / 256 ^ i))

/-- A sector of 32 bytes through a block function of the data key, under the tweak of its physical address. -/
def xts (cipher : List Byte → List Byte → List Byte) (key : BitVec 512) (pa : Nat) (l : List Byte) : List Byte :=
  let k := keyBytes key
  let t0 := aesEncrypt (k.drop 32) ((List.range 16).map (fun i => BitVec.ofNat 8 (pa / 256 ^ i)))
  let t1 := doubleTweak t0
  let one := fun (t x : List Byte) => xorBytes (cipher (k.take 32) (xorBytes x t)) t
  one t0 (l.take 16) ++ one t1 ((l.drop 16).take 16)

/-- A sector as it is stored, and as it is read back (R472). -/
def sealBytes (key : BitVec 512) (pa : Nat) (l : List Byte) : List Byte := xts aesEncrypt key pa l
def openBytes (key : BitVec 512) (pa : Nat) (l : List Byte) : List Byte := xts aesDecrypt key pa l

end Sys2Proof.Machine
end

