-- ==== Sys2Proof/Syntax.lean ====
section
/-! DEFINITION. The instructions and events of the TMK-9690: one constructor of Instr per row of the opcode table.
Fields that a 5-bit or smaller field decides are types with exactly the legal values; the relations between fields
are WellFormed's. Rows 227 to 313 of the table are events: steps of the device, of the host port and of the links. -/

namespace Sys2Proof

/-- Type codes 0x0-0xE (04_numbers.md R75), in code order. -/
inductive Ty where
  | f32 | bf16 | f16 | e4m3 | e5m2 | e2m1 | i32 | i16 | i8 | i4 | n32 | n16 | n8 | n4 | b1
  deriving DecidableEq, Repr

/-- Rounding modes 0-4 (R85). -/
inductive Rnd where
  | rne | rtz | rdn | rup | rna
  deriving DecidableEq, Repr

/-- Scopes of AMO and FENCE (R41, R363). -/
inductive Scope where
  | core | die | dev | sys
  deriving DecidableEq, Repr

/-- Kinds 1-3 of FENCE (R370). -/
inductive FenceKind where
  | loads | stores | all
  deriving DecidableEq, Repr

/-- L2 hints 0-2 (R287). -/
inductive Hint where
  | normal | stream | keep
  deriving DecidableEq, Repr

/-- The SZ field 0-6 (R34). -/
inductive Size where
  | b | h | w | d | bn | hn | wn
  deriving DecidableEq, Repr

/-- Domains of SPAWN and of a record (R116, R151). -/
inductive Domain where
  | quad | die | device
  deriving DecidableEq, Repr

/-- Conditions 0-6 of VCMP (R241). -/
inductive Cond where
  | eq | ne | lt | le | gt | ge | unord
  deriving DecidableEq, Repr

/-- Operations 0-9 of AMO (R307). -/
inductive AmoOp where
  | add | and | or | xor | min | max | minn | maxn | swp | cas
  deriving DecidableEq, Repr

/-- Functions 0-5 of XCOL (R331). -/
inductive XFn where
  | maxf | minf | sumf | sumi | maxi | swp
  deriving DecidableEq, Repr

/-- A count operand (R49): MOD[10:0], or the S register of field C. -/
inductive Count where
  | imm (n : BitVec 11)
  | reg (c : SReg)
  deriving DecidableEq, Repr

/-- A group of 2^w tile registers beginning at base (R30). -/
structure TGrp where
  base : TReg
  w    : Fin 4
  deriving DecidableEq, Repr

/-- MMA family (R222). -/
structure MmaOp where
  d   : TReg
  a   : TGrp
  b   : TGrp
  ta  : Ty
  tb  : Ty
  out  : Ty
  rtz : Bool
  sat : Bool
  deriving DecidableEq, Repr

/-- One-source tile forms with both types (VUNARY, VCVT, VDQN, VRED). -/
structure V2 where
  d   : TGrp
  a   : TGrp
  ti  : Ty
  out  : Ty
  rnd : Rnd
  sat : Bool
  deriving DecidableEq, Repr

/-- Two-source tile forms. -/
structure V3 where
  d   : TGrp
  a   : TGrp
  b   : TGrp
  ti  : Ty
  out  : Ty
  rnd : Rnd
  sat : Bool
  deriving DecidableEq, Repr

/-- Three-source tile forms. -/
structure V4 where
  d   : TGrp
  a   : TGrp
  b   : TGrp
  c   : TGrp
  ti  : Ty
  out  : Ty
  rnd : Rnd
  sat : Bool
  deriving DecidableEq, Repr

/-- Tile and scalar source (VADDS, VMULS). -/
structure VS where
  d   : TGrp
  a   : TGrp
  b   : SReg
  ti  : Ty
  out  : Ty
  rnd : Rnd
  sat : Bool
  deriving DecidableEq, Repr

/-- VFMAS: tile, scalar, tile. -/
structure VS3 where
  d   : TGrp
  a   : TGrp
  b   : SReg
  c   : TGrp
  ti  : Ty
  out  : Ty
  rnd : Rnd
  sat : Bool
  deriving DecidableEq, Repr

/-- VQNT: modes 0 and 1 have no C, modes 2 and 3 one F32 page (R245). -/
inductive QMode where
  | block
  | row
  | givenRow (c : TReg)
  | givenBlock (c : TReg)
  deriving DecidableEq, Repr

/-- The eight words of the CMD block (18_host.md R447, R449). -/
structure Cmd where
  w0 : Word
  w1 : Word
  w2 : Word
  w3 : Word
  w4 : Word
  w5 : Word
  w6 : Word
  w7 : Word
  deriving DecidableEq, Repr

/-- Trap causes (15_traps.md R393). -/
inductive Cause where
  | illegal | privilege | misalign | gfault | gprot | spfault | spprot | poison | memoff
  | chclosed | chmismatch | endpoint | deadlock | brk | watch | trapi | atomic | migfail
  deriving DecidableEq, Repr

/-- What a REGISTER_WRITE names (R407, R447): a system register or a BAR0 word. -/
inductive RegTarget where
  | sys (n : BitVec 15)
  | bar (off : BitVec 16)
  deriving DecidableEq, Repr

/-- The sensors of one core at an evaluation (R438, R439): its temperature and the current of its quad, in mA. -/
structure Reading where
  core    : Nat
  temp    : BitVec 16
  current : Nat
  deriving DecidableEq, Repr

/-- What a peer device asks of this device's HBM (R374). -/
inductive PeerAccess where
  | read  (pa : Nat) (n : Nat)
  | write (pa : Nat) (bytes : List Byte)
  | amo   (pa : Nat) (op : AmoOp) (narrow : Bool) (s : Word) (cmp : Word)
  deriving DecidableEq, Repr

/-- An operation of a remote party on a peer channel (R459, R326). -/
inductive PeerOp where
  | send  (v : Word)
  | recv
  | sendt (pages : List Page)
  | recvt (w : Fin 4)
  | xcol  (f : XFn) (x : Word)
  | txmax (ty : Ty) (pages : List Page)
  | txsum (ty : Ty) (pages : List Page)
  | txmrg (pages : List Page)
  deriving DecidableEq, Repr

/-- A message of a peer device about peer channels (R459). -/
inductive PeerMsg where
  | pair  (dev : Fin 4) (tag : BitVec 6)
  | post  (dev : Fin 4) (tag : BitVec 6) (op : PeerOp)
  | close (dev : Fin 4) (tag : BitVec 6)
  deriving DecidableEq, Repr

inductive Instr where
  -- INT (06_scalar.md R169)
  | add (d a b : SReg) | sub (d a b : SReg) | mul (d a b : SReg) | mulh (d a b : SReg) | mulhn (d a b : SReg)
  | div (d a b : SReg) | divn (d a b : SReg) | rem (d a b : SReg) | remn (d a b : SReg)
  | and (d a b : SReg) | or (d a b : SReg) | xor (d a b : SReg)
  | andn (d a b : SReg) | orn (d a b : SReg) | xnor (d a b : SReg)
  | shl (d a b : SReg) | shr (d a b : SReg) | sra (d a b : SReg) | rol (d a b : SReg) | ror (d a b : SReg)
  | min (d a b : SReg) | max (d a b : SReg) | minn (d a b : SReg) | maxn (d a b : SReg)
  | slt (d a b : SReg) | sltn (d a b : SReg) | seq (d a b : SReg) | sne (d a b : SReg)
  | clz (d a : SReg) | ctz (d a : SReg) | popc (d a : SReg) | brev (d a : SReg)
  | sextb (d a : SReg) | sexth (d a : SReg) | sextw (d a : SReg)
  | zextb (d a : SReg) | zexth (d a : SReg) | zextw (d a : SReg)
  -- immediates, shifts, constants (R171-R173)
  | addi (d a : SReg) (imm : BitVec 15) | andi (d a : SReg) (imm : BitVec 15) | ori (d a : SReg) (imm : BitVec 15)
  | xori (d a : SReg) (imm : BitVec 15) | slti (d a : SReg) (imm : BitVec 15) | sltni (d a : SReg) (imm : BitVec 15)
  | muli (d a : SReg) (imm : BitVec 15)
  | shli (d a : SReg) (k : BitVec 6) | shri (d a : SReg) (k : BitVec 6)
  | srai (d a : SReg) (k : BitVec 6) | rori (d a : SReg) (k : BitVec 6)
  | lih (d : SReg) (imm : BitVec 20) | pcadd (d : SReg) (imm : BitVec 20)
  -- scalar memory (R293, R277)
  | ld (d a : SReg) (sz : Size) (off : BitVec 12) | st (d a : SReg) (sz : Size) (off : BitVec 12)
  | pld (d a : SReg) (sz : Size) (off : BitVec 12) | pst (d a : SReg) (sz : Size) (off : BitVec 12)
  -- branches, jumps (R176-R179)
  | beq (a b : SReg) (off : BitVec 15) | bne (a b : SReg) (off : BitVec 15) | blt (a b : SReg) (off : BitVec 15)
  | bge (a b : SReg) (off : BitVec 15) | bltn (a b : SReg) (off : BitVec 15) | bgen (a b : SReg) (off : BitVec 15)
  | jal (d : SReg) (imm : BitVec 20) | jalr (d a : SReg) (imm : BitVec 15) | loop (a : SReg) (off : BitVec 15)
  -- FPS (R182)
  | fadd (d a b : SReg) | fsub (d a b : SReg) | fmul (d a b : SReg) | fdiv (d a b : SReg) | fsqrt (d a : SReg)
  | fmin (d a b : SReg) | fmax (d a b : SReg) | fabs (d a : SReg) | fneg (d a : SReg)
  | feq (d a b : SReg) | flt (d a b : SReg) | fle (d a b : SReg) | fclass (d a : SReg)
  | fcvtif (d a : SReg) | fcvtnf (d a : SReg) | fcvtfi (d a : SReg) | fcvtfn (d a : SReg)
  -- AMO (11_memory.md R307), narrow = W
  | aadd (d a b : SReg) (narrow : Bool) (sc : Scope) | aand (d a b : SReg) (narrow : Bool) (sc : Scope)
  | aor (d a b : SReg) (narrow : Bool) (sc : Scope) | axor (d a b : SReg) (narrow : Bool) (sc : Scope)
  | amin (d a b : SReg) (narrow : Bool) (sc : Scope) | amax (d a b : SReg) (narrow : Bool) (sc : Scope)
  | aminn (d a b : SReg) (narrow : Bool) (sc : Scope) | amaxn (d a b : SReg) (narrow : Bool) (sc : Scope)
  | aswp (d a b : SReg) (narrow : Bool) (sc : Scope) | acas (d a b : SReg) (narrow : Bool) (sc : Scope)
  -- regions (R309): the gated word lies at offset 8 * unit of the line
  | albGated (d a : SReg) (unit : Fin 16) | alb (a : SReg) | ale (d : SReg)
  | fence (eng : Bool) (kind : FenceKind) (sc : Scope)
  -- CHAN, SEND, RECV, XCOL (12_channels.md R348, R350)
  | chnew (d a : EReg) | chclose (a : EReg) | emov (d a : EReg) | einfo (d : SReg) (a : EReg)
  | brnew (d : EReg) (a : SReg) | brep (d a : EReg) | arrive (a : EReg) | await (a : EReg) | bsync (a : EReg)
  | sende (a b : EReg) | recve (d a : EReg) | send (a : EReg) (b : SReg) | recv (d : SReg) (a : EReg)
  | xmaxf (d a : SReg) (b : EReg) | xminf (d a : SReg) (b : EReg) | xsumf (d a : SReg) (b : EReg)
  | xsumi (d a : SReg) (b : EReg) | xmaxi (d a : SReg) (b : EReg) | xswp (d a : SReg) (b : EReg)
  -- PROC, SPAWN, GSET (05_processes.md R155, R151; R297)
  | exit (a : SReg) | yield | pid (d : SReg) | lcore (d : SReg) | sprio (a : SReg) | gprio (d : SReg)
  | cycle (d : SReg) | part (d : SReg)
  | spawn (d : EReg) (a b : SReg) (dom : Domain) (mask : BitVec 8)
  | gset (d : GReg) (a b : SReg)
  -- SYS, MFSR, MTSR, TRAP (15_traps.md R403-R407)
  | nop | halt | brk | park (a : SReg) | resume (a : SReg) | migr (a b : SReg) | kill (a : SReg)
  | sttw (a b : SReg) | stti (a : SReg) | tlbi (a b : SReg) | tlbia
  | mfsr (d : SReg) (n : BitVec 15) | mtsr (n : BitVec 15) (d : SReg) | trap (code : BitVec 20)
  -- LSCAL (R174-R189)
  | li (d : SReg) (imm : BitVec 32) | lihL (d : SReg) (imm : BitVec 32) | addl (d a : SReg) (imm : BitVec 32)
  | bmap (d a b c : SReg) (table : BitVec 8) | fshl (d a b c : SReg) | fshr (d a b c : SReg)
  | fma (d a b c : SReg) | fms (d a b c : SReg) | fnma (d a b c : SReg) | csel (d a b c : SReg)
  | bfx (d a : SReg) (pos len : BitVec 6) | bfi (d a : SReg) (pos len : BitVec 6)
  -- ALT (R48) and TCHAN (R351)
  | alt (d a : SReg) (b : EReg) (arms dirs prio : BitVec 8) (poll : Bool)
  | sendt (b : EReg) (c : TGrp) | recvt (d : TGrp) (b : EReg)
  | txmax (d a : TGrp) (b : EReg) (ti : Ty) | txsum (d a : TGrp) (b : EReg) (ti : Ty) | txmrg (d a : TGrp) (b : EReg)
  -- TMEM (R300, R278)
  | tld (d : TGrp) (a : SReg) (b : GReg) (h : Hint) | tst (a : SReg) (b : GReg) (c : TGrp) (h : Hint)
  | tldx (d : TGrp) (a : SReg) (b : GReg) (c : TReg) (h : Hint)
  | tstx (d : TGrp) (a : SReg) (b : GReg) (c : TReg) (h : Hint)
  | tpf (a : SReg) (b : GReg) (h : Hint) | tred (a : SReg) (b : GReg) (c : TGrp) (ti : Ty) (h : Hint)
  | spld (d : TGrp) (a : SReg) | spst (a : SReg) (c : TGrp)
  -- TMOVE (07_tiles.md R211)
  | tmov (d a : TGrp) | tzero (d : TGrp) | tfill (d : TGrp) (b : SReg) (ti : Ty)
  | tget (d : SReg) (a : TGrp) (b c : SReg) (ti : Ty) | tins (d a : TGrp) (b c : SReg) (ti : Ty)
  | tiota (d : TGrp) (ti : Ty) (col : Bool)
  -- MMA (08_matrix.md R222)
  | mma (x : MmaOp) | mmz (x : MmaOp) | mmas (x : MmaOp) | mmzs (x : MmaOp)
  -- VARITH (09_vector.md R239)
  | vadd (x : V3) | vsub (x : V3) | vmul (x : V3) | vfma (x : V4) | vfms (x : V4) | vmin (x : V3) | vmax (x : V3)
  | vdiv (x : V3) | vadds (x : VS) | vmuls (x : VS) | vfmas (x : VS3)
  | vcmp (d a b : TGrp) (ti : Ty) (cond : Cond) | vsel (d a b c : TGrp) (ti : Ty) | vclmp (x : V4)
  -- VUNARY (R243), VCONV (R244-R246)
  | vabs (x : V2) | vneg (x : V2) | vexp2 (x : V2) | vlog2 (x : V2) | vrcp (x : V2) | vrsq (x : V2)
  | vsqrt (x : V2) | vtanh (x : V2) | vsigm (x : V2) | verf (x : V2)
  | vcvt (x : V2) | vqnt (x : V2) (mode : QMode) | vdqn (x : V2)
  -- VRED (R247-R250)
  | vrmax (x : V2) | vrmin (x : V2) | vrsum (x : V2) | vramax (x : V2) | vrssq (x : V2)
  | vcmax (x : V2) | vcsum (x : V2) | vrmrg (d a b : TReg) | vbrow (x : V2) | vbcol (x : V2)
  -- VPERM (R252, R253)
  | vtrn (d a : TGrp) (ti : Ty) | vrotr (d a : TGrp) (k : Count) | vrotc (d a : TGrp) (ti : Ty) (k : Count)
  | vpermr (d a : TGrp) (c : TReg) | vbrot (d a : TGrp) (k : Count)
  -- VLOGIC (R254-R257)
  | vand (d a b : TGrp) | vor (d a b : TGrp) | vxor (d a b : TGrp) | vnot (d a : TGrp)
  | vbmap (d a b c : TGrp) (table : BitVec 8)
  | vshl (d a : TGrp) (ti : Ty) (k : Count) | vshr (d a : TGrp) (ti : Ty) (k : Count)
  | vsra (d a : TGrp) (ti : Ty) (k : Count)
  | vfshl (d a b : TGrp) (k : Count) | vfshr (d a b : TGrp) (k : Count) | vpopc (d a : TGrp) (ti out : Ty)
  -- events of the engines, the home slices and the walkers (R204, R206, R295, R314, R315, R381)
  | tileDispatch (core : Nat) (pid : Pid) | engineCompletion (core : Nat) (pid : Pid)
  | storePerform (pid : Pid) (n : Nat)
  | atomicAtHome (pid : Pid) (row : Nat) | atomicReply (pid : Pid) | atomicStop (pid : Pid)
  | walkComplete (quad : Nat)
  -- events of channels and the deadlock service (R327, R334, R342, R343-R346)
  | rendezvous (cell : Nat) | claim (cell : Nat)
  | timerExpiry (part timer : Nat) | timerArm (v : Word) | timerDisarm (v : Word)
  | detectionLaunch (pid : Pid) | probe (init pid : Pid) | probeAnswer (init pid : Pid)
  -- events of scheduling (R125-R148)
  | starvationPromotion (core : Nat) | slotFill (core slot : Nat)
  | stealRequest (victim : Nat) | stealAnswer (core : Nat) | stealRetry (core : Nat)
  | preemption (core : Nat) | blockedPark (core slot : Nat) | imageComplete (pid : Pid) | exitCompletion (pid : Pid)
  | moveComplete (pid : Pid) | moveAbandon (pid : Pid) (addr : Word) | affinityMove (pid : Pid)
  -- events of power and time (R434-R441)
  | evaluation (readings : List Reading) (power : Nat) | pauseEnd (core : Nat)
  | pointWithdrawal (core point : Nat) | refillStep | bucketEmpty (part : Nat)
  -- events of the pager (R270, R202), the meshes (R425-R430), the dies (R431, R444) and the links (R457)
  | pageInComplete (pid : Pid) (page : Nat) | eviction (core : Nat)
  | laneSleep (lane : Nat) | laneWake (lane : Nat) | moduleFailure (module : Nat) | offlineAnswer (pid : Pid)
  | dieDownComplete (die : Nat) | dieUpComplete (die : Nat) | linkPortFailure (port : Nat)
  -- boot and power states (R465-R467, R474)
  | powerOn | bootwinTrigger | bundleVerified | idleEntry | idleExit | suspend | d0Resume
  -- the host port (R449, R450)
  | cmdstatRead | create (c : Cmd) | grant (c : Cmd) | destroy (c : Cmd) | copy (c : Cmd) | spawnCommand (c : Cmd)
  | hsend (c : Cmd) | hrecv (c : Cmd) | hclose (c : Cmd) | exportCmd (c : Cmd) | importCmd (c : Cmd) | release (c : Cmd)
  | diedown (c : Cmd) | dieup (c : Cmd) | event (c : Cmd) | faultend (c : Cmd) | faultEndPlacement (part : Nat)
  -- debug (R409, R412)
  | setMasks (part : Nat) (pid : Pid) (wmask : BitVec 2) (bmask : BitVec 4) | debugHalt (part : Nat) (pid : Pid)
  | debugRelease (part : Nat) (pid : Pid) | debugStep (part : Nat) (pid : Pid)
  -- writes of system registers with a rule of their own, made by the current context (R407)
  | ptrootWrite (v : Word) | fcsrWrite (v : Word) | thrreasonWrite (v : Word) | bucketLevelWrite (bucket : Fin 3) (v : Word)
  | dqovfWrite (v : Word) | spareaWrite (v : Word) | chareaWrite (v : Word) | imgareaWrite (v : Word)
  | linkcfgWrite (v : Word) | registerWrite (r : RegTarget) (v : Word)
  -- what takes the place of an instruction (R52, R55)
  | illegalEncoding (w0 w1 : Word32) | instructionFetchFault (cause : Cause) (addr : Word) (w0 : Word32)
  -- peers, power, bus mastering (R457, R374, R459, R474, R449, R446)
  | linkUp (dev : Fin 4) | peerMemoryAccess (x : PeerAccess) | peerChannelMessage (m : PeerMsg)
  | powerRemoved | doorbellWhileBusy | busMasteringChange (on : Bool)
  deriving DecidableEq, Repr

end Sys2Proof
end

