-- ==== Sys2Proof/Config.lean ====
section
/-! DEFINITION. What one part fixes, and the values the manual leaves open. An opaque constant has no body: nothing
can be proved of its value, so a claim holds whatever it is. -/

namespace Sys2Proof

/-- What the signed configuration record supplies (01_device.md R15, 17_power.md R434, R438, R439, 18_host.md R457): the
harvest map, each logical core's thermal limit, the operating points (MHz, mV), the current limit of each quad in mA, this
device's number, the peer of each port. The manual gives no byte layout of the record; see Config.parseRecord. -/
structure ConfigRecord where
  harvest  : List Nat
  limits   : List (BitVec 16)
  points   : List (Nat × Nat)
  currents : List Nat
  devNo    : Fin 4
  ports    : List (Fin 4)
  deriving DecidableEq, Repr, Inhabited

/-- The thermal limit of a core. -/
def ConfigRecord.limit (r : ConfigRecord) (c : Nat) : BitVec 16 := r.limits.getD c 0

/-- The frequency of an operating point in MHz: 400 at point 0, 1,800 at point 15 (R434). -/
def ConfigRecord.mhz (r : ConfigRecord) (p : Nat) : Nat :=
  if p = 0 then 400 else if p = 15 then 1800 else (r.points.map Prod.fst).getD p 400

/-- A part that fails (19_trust.md R476, R477, 11_memory.md R292, 12_channels.md R329): a sector of memory or a pool page that
will show an error at its next read, a line that an L1 data or an L1 instruction cache holds, the next transfer of a pool page,
entry n of the translation cache of a core or a quad or of a scratchpad TLB. -/
inductive Failure where
  | nothing
  | sector (sec : Nat) (lasting : Bool)
  | line (core line : Nat)
  | fetchLine (core line : Nat)
  | page (id : Nat) (lasting : Bool)
  | transfer (id : Nat)
  | coreEntry (core n : Nat)
  | quadEntry (quad n : Nat)
  | padEntry (core n : Nat)
  deriving DecidableEq, Repr, Inhabited

namespace Config

/-- Which free index of a pool of n free ones the device takes (12_channels.md R321: "in any way"); the argument is
the value of State.draws. A free value (log 10). -/
opaque freeIndex : Nat → Nat

/-- CYCLE periods between one step and the next (00_scope.md R8). A free value (log 6). -/
opaque elapsed : Nat → Nat

/-- The device's random source (19_trust.md R470, R471). A free value (log 11). -/
opaque random : Nat → BitVec 512

/-- The identity key of this part, derived from its PUF (19_trust.md R468). A free value (log 11). -/
opaque identityKey : Machine.RsaKey

/-- Whether the derived key differs from the certified one (R468). -/
opaque identityMismatch : Bool

/-- The vendor modulus whose digest the boot ROM holds (R465). -/
opaque vendorModulus : List Byte

/-- How the boot ROM reads a configuration record; the manual gives no layout (log 11). -/
opaque parseRecord : List Byte → ConfigRecord

/-- The revision field of IDENT (18_host.md R447). -/
opaque revision : BitVec 16

/-- The device's own reference of a pool page in an image (15_traps.md R399). A free value (log 10). -/
opaque pageRef : Nat → BitVec 62

/-- The words of the image the device keeps for itself (R397, offset 0x0300). A free value (log 10). -/
opaque imageOwn : Nat → Word

/-- What one span of time charges to the energy bucket of a partition, in tokens: the device's own estimate (17_power.md
R440). A free value (log 15). -/
opaque energyTokens : Nat → Nat

/-- What the sensors show at an evaluation (17_power.md R438, R439), by the count of free values taken: the temperature of a
core, the current of its quad in mA, the device's estimated power in W. Free values (log 31). -/
opaque sensedTemp : Nat → Nat → BitVec 16
opaque sensedCurrent : Nat → Nat → Nat
opaque sensedPower : Nat → Nat

/-- The points of a core that its regulator is found not to hold at boot (R436). A free value (log 31). -/
opaque bootGone : Nat → Nat → BitVec 16

/-- The slice of its die to which the fixed hash assigns a 4 KiB granule (11_memory.md R286), the set of its slice in which a
line stands, and which of the lines that a line of a set may replace it replaces, by the count of free values taken (R287).
Free values (log 61). -/
opaque l2Slice : Nat → Fin 48
opaque l2Set : Nat → Fin 768
opaque l2Victim : Nat → Nat → Nat

/-- The physical address that a log entry gives for a pool page, which has none (19_trust.md R480). A free value (log 62). -/
opaque poolAddr : Nat → Nat

/-- Whether a lane of the data planes sent a flit in a span of time, or had one waiting for it (16_mesh.md R425). A free value
(log 44). -/
opaque laneBusy : Nat → Nat → Bool

/-- What fails in a span of time. A free value (log 62). -/
opaque failure : Nat → Failure

/-- How many choices are free before the happening that has waited longest is taken (05_processes.md R149). A free value
(log 5). -/
opaque patience : Nat

/-- The features of this part (18_host.md R460, bits 0-4): every one of them is implemented (log 16, DEDUCED). -/
def partFeatures : Word := 0x1F

/-- Sizes of R19, R263, R396, R452. -/
def sttSlotBytes : Nat := 0x208000
def imageSlotBytes : Nat := 0x25000
def supervisorBytes : Nat := 0x230000

/-- The ways of a set of an L2 slice, and those of them within which kept lines are protected (01_device.md R20, 11_memory.md
R287). A slice of 1.5 MiB has 768 sets of 16 lines of 128 bytes. -/
def l2Ways : Nat := 16
def keptWays : Nat := 8

/-- The threshold of R128 and the bound of R130. -/
def blockedLimit : Nat := 65536
def starveLimit : Nat := 4096

end Config
end Sys2Proof
end

