-- ==== Sys2Proof/Machine/State.lean ====
section
/-! DEFINITION. The state of the device: contexts, cores, quads, partitions, channels, memories, the host port and
the links. Every field is plain data. -/

namespace Sys2Proof.Machine

/-- Why a step stops with a fault. -/
inductive Fault where
  /-- Raised by no meaning: an event asked for in a state in which it does not occur changes nothing (log 59). Safe. -/
  | notEnabled (event : String)
  deriving DecidableEq, Repr

/-- Why a step has no meaning. -/
inductive Refusal where
  /-- Raised by exec alone, for an instruction without a meaning yet. Safe: nothing can be proved of it. -/
  | notModelled (mnemonic : String)
  deriving DecidableEq, Repr

/-- A byte memory: (address, byte) pairs, addresses strictly rising, no byte 0; an unlisted address reads 0 (log 1). -/
abbrev Memory := List Host.Cell

/-- Where a tile register's data lies (15_traps.md R399): a pool page, the image's page area, or, from the start of a
process until the register is written or shared, the page R153 gives (log 17). -/
inductive TRef where
  | pool (id : Nat)
  | image
  | zero
  deriving DecidableEq, Repr

/-- One page of a core's pool (07_tiles.md R192): its name, the core, the process that references it, its content, the
stamp of its last use (R202), whether its next transfer will damage it, and the error that its next read finds, with whether it
is lasting (19_trust.md R477). -/
structure PoolPage where
  id    : Nat
  core  : Nat
  owner : Pid
  page  : Page
  stamp : Nat
  hurt  : Bool
  err   : Option Bool
  deriving DecidableEq, Repr

/-- A sector that a slice of the L2 holds (16_mesh.md R429), and the partition whose store last dirtied it, none while it is
clean. -/
structure L2Sector where
  sector : Nat
  dirty  : Option (Option Nat)
  deriving DecidableEq, Repr

/-- A line of a slice (01_device.md R20): its number, the hint under which it was brought in (11_memory.md R287), and those of
its four sectors that it holds. -/
structure L2Line where
  line    : Nat
  hint    : Hint
  sectors : List L2Sector
  deriving DecidableEq, Repr

/-- A retired store that has not performed (11_memory.md R295): physical address, the key and the level of its leaf (R472,
14_translation.md R385), bytes, its hint (R287), whether it is a tile store (R369), the core it retired on, whose lines it
updates, the number of its instruction among the context's waiting stores and the physical pieces of that instruction's byte
interval (07_tiles.md R207). -/
structure PStore where
  va    : Word
  pa    : Nat
  key   : Option Nat
  level : Nat
  bytes : List Byte
  hint  : Hint
  tile  : Bool
  core  : Nat
  op    : Nat
  span  : List (Nat × Nat)
  deriving DecidableEq, Repr

/-- One row of a TRED that waits at its home (R304): row number, physical address of each element, addends, and the key
of each element's leaf. -/
structure TredRow where
  row   : Nat
  va    : Word
  elems : List (Nat × Nat)
  keys  : List (Option Nat)
  deriving DecidableEq, Repr

/-- The operands of an atomic request (R313: "kept in the image in the device's own form"). -/
inductive AtomReq where
  | none
  | amo (op : AmoOp) (narrow : Bool) (scope : Scope) (d : SReg) (s cmp : Word) (pa : Nat)
  | region (line : Word) (pa : Nat) (stores : List (Nat × List Byte)) (gate : Option (Nat × Word)) (hasLoad : Bool)
      (touched : Bool) (d : SReg)
  | tred (ty : Ty) (rows : List TredRow) (span : List (Nat × Nat)) (hint : Hint)
  deriving DecidableEq, Repr

/-- The retry latch (R313). key is that of the leaf of an AMO's or a region's address; result holds what the home
answered until the reply arrives; told says that a stop has reached the context, resent that the request has been sent again and
no instruction issues before its reply (R315, 13_ordering.md R372). -/
structure Latch where
  sent   : Bool
  done   : Bool
  kind   : BitVec 2
  stop   : BitVec 2
  addr   : BitVec 52
  rows   : BitVec 64
  req    : AtomReq
  key    : Option Nat
  seq    : Nat
  result : Option Word
  core   : Nat
  told   : Bool
  resent : Bool
  deriving DecidableEq, Repr

/-- An open atomic region (R310, R311). -/
structure Region where
  ip      : Word
  line    : Word
  pa      : Nat
  copy    : List Byte
  stores  : List (Nat × List Byte)
  gate    : Option (Nat × Word)
  hasLoad : Bool
  touched : Bool
  outside : Bool
  count   : Nat
  access  : Nat
  savedS  : Vector Word 32
  savedF  : Word
  deriving DecidableEq, Repr

/-- A trap or information record (15_traps.md R392). report is empty but for DEADLOCK. -/
structure Record where
  lost   : BitVec 8
  cause  : Cause
  part   : Nat
  pid    : Pid
  ip     : Word
  addr   : Word
  iw0    : Word32
  iw1    : Word32
  latch0 : Word
  latch1 : Word
  cycle  : Word
  lcore  : Nat
  detail : BitVec 40
  report : List Word
  deriving DecidableEq, Repr

/-- The claim key of an ALT (12_channels.md R334). -/
inductive Key where
  | unclaimed
  | provisional (cell : Nat)
  | spent
  deriving DecidableEq, Repr

/-- What a blocked process waits for (R343). -/
inductive Wait where
  | none
  | op (cell : Nat) (side : Bool)
  | alt (d : SReg) (base : EReg) (arms dirs prio : BitVec 8) (key : Key)
  | barrierArrive (entry : Nat)
  | barrierAwait (entry : Nat)
  | barrierSync (entry : Nat)
  deriving DecidableEq, Repr

/-- Where a process is (R114, R141). -/
inductive Place where
  | resident (core slot : Nat)
  | exiting (core slot : Nat)
  | parked
  | moving (source target : Nat)
  | gone
  deriving DecidableEq, Repr

/-- Why a runnable context cannot accept an instruction (R129). -/
inductive Stall where
  | none
  | pageIn (page : Nat)
  | pool (core : Nat)
  | spill
  deriving DecidableEq, Repr

/-- What a trap carries besides the context (15_traps.md R393). bad is the physical address at which an access of the device to
an area found poison, for the retry of 19_trust.md R477. -/
structure TrapInfo where
  cause  : Cause
  addr   : Word
  detail : BitVec 40
  bad    : Option Nat := none
  deriving DecidableEq, Repr

/-- What a copy engine has done for an instruction (07_tiles.md R210): its rows as translated pieces (virtual address,
physical address, length) with the physical pieces of its byte interval (R207), or the trap its checks found; and, for a
load, the bytes that it read for each row, with whether each lies in a bad sector. -/
structure Early where
  rows  : List (List (Word × Nat × Nat))
  span  : List (Nat × Nat)
  fault : Option TrapInfo
  data  : Option (List (List (Byte × Bool)))
  deriving DecidableEq, Repr

/-- The resources that execute tile instructions (07_tiles.md R204). -/
inductive Engine where
  | matrix | vector | copy | channel
  deriving DecidableEq, Repr

/-- A page as a rename knows it (R195, R196): one of the pool, the k-th that an unretired instruction makes, or that of a register
which names none yet. -/
inductive PageName where
  | pool (id : Nat)
  | made (op k : Nat)
  | unnamed
  deriving DecidableEq, Repr

/-- A context as its front end has it, ahead of what has retired: the S and the G registers, where it fetches, and the S registers
whose values an unretired instruction or an outstanding request has still to give. -/
structure Ahead where
  s    : Vector Word 32
  g    : Vector (BitVec 128) 8
  ip   : Word
  late : List SReg
  deriving DecidableEq, Repr

/-- An issued instruction that has not retired (07_tiles.md R203): its number in its context, its address, the instruction
and its words; whether it is a tile instruction, which takes an entry of the reorder buffer; its engine, which a forced copy
of a form without one needs (R204); the fresh pages it has taken at rename (R195, R199); the group and the S register that it
writes; what the registers of its group map, or the entries that it stores (R196); which of the pages that it shares it
copies (R197); the context after it; whether nothing younger issues before it has retired; how far it is; and what a copy
engine has done for it. -/
structure RobEntry where
  op      : Nat
  ip      : Word
  instr   : Instr
  iw0     : Word32
  iw1     : Word32
  tile    : Bool
  eng     : Option Engine
  fresh   : Nat
  group   : Option TGrp
  dest    : Option SReg
  refs    : List PageName
  copies  : List Bool
  ahead   : Ahead
  stops   : Bool
  started : Bool
  done    : Bool
  early   : Option Early
  deriving DecidableEq, Repr

/-- How a process ends (05_processes.md R154, R156): a join channel's child end, a root's host event, neither. -/
inductive Join where
  | chan (cell : Nat)
  | root
  | supervisor
  deriving DecidableEq, Repr

/-- A process and its context (R113). ran is the core it was last resident on (R132); early is what the copy engine has done
for the instruction that retires now, copies what its rename has decided to copy; robNo numbers its instructions; haltOp says
that the halted mark is that of a HALT (15_traps.md R405). -/
structure Proc where
  pid     : Pid
  part    : Nat
  prio    : BitVec 6
  sup     : Bool
  s       : Vector Word 32
  ip      : Word
  fcsr    : Word
  tcsr    : Word
  t       : Vector TRef 32
  e       : Vector Word32 16
  g       : Vector (BitVec 128) 8
  spSlot  : Option Nat
  spDir   : List (Nat × Nat)
  wbSkip  : List Nat
  latch   : Latch
  region  : Option Region
  altLast : Fin 8
  wait    : Wait
  waitGen : Nat
  waitAt  : Word
  probeAt : Word
  place   : Place
  home    : Nat
  ran     : Nat
  faulted : Bool
  held    : Bool
  halted  : Bool
  haltOp  : Bool
  stepping : Bool
  skipBp  : Bool
  stall   : Stall
  pageIns : List Nat
  pagerStop : Option Nat
  imageOk : Bool
  record  : Option Record
  stores  : List PStore
  rob     : List RobEntry
  early   : Option Early
  copies  : Option (List Bool)
  robNo   : Nat
  bmask   : BitVec 4
  wmask   : BitVec 2
  hinge   : Word
  dbgsel  : Word
  join    : Join
  exitCode : Option Word
  killed  : Bool
  since   : Word
  runAt   : Word
  movedAt : Option Word
  nextHome : Option Nat
  iw0     : Word32
  iw1     : Word32
  acc     : List (Word × Bool)
  winAt   : Word
  deriving DecidableEq, Repr

/-- A process record (R116). moved holds handle words. Where an overflow segment holds it: spill and spillVa are the
physical and virtual address of its first byte, seg the first virtual address of that segment, sealed the bytes the
device wrote there, which the seal covers (R117). -/
structure Rec where
  entry  : Word
  arg    : Word
  pid    : Pid
  prio   : BitVec 6
  domain : Domain
  origin : Nat
  part   : Nat
  join   : Join
  seq    : BitVec 32
  moved  : Vector Word32 8
  sup    : Bool
  spSlot : Option Nat
  spDir  : List (Nat × Nat)
  spill  : Option Nat
  spillVa : Word
  seg    : Word
  sealed : List Byte
  bmask  : BitVec 4
  wmask  : BitVec 2
  halted : Bool
  stepping : Bool
  extra  : Vector Word32 8
  skipBp : Bool
  deriving DecidableEq, Repr

/-- A cached translation (14_translation.md R382): tag, leaf. level gives the page's size. -/
structure TEntry where
  asid  : BitVec 12
  level : Nat
  vpn   : Nat
  leaf  : Word
  deriving DecidableEq, Repr

/-- A line of the scalar L1 data cache (11_memory.md R289), and whether its next check finds an error (R292). -/
structure L1Line where
  line  : Nat
  bytes : List Byte
  err   : Bool
  deriving DecidableEq, Repr

/-- A scratchpad TLB entry (10_scratchpad.md R269). -/
structure STlb where
  pid   : Pid
  page  : Nat
  entry : Word
  deriving DecidableEq, Repr

/-- A steal search in progress (05_processes.md R127): the slot it fills, the level tried, the cores left of it. -/
structure Steal where
  slot   : Nat
  level  : Nat
  left   : Nat
  victim : Option Nat
  answer : Option (Option Rec)
  deriving DecidableEq, Repr

/-- What an operation that ends writes into a context: how far IP moves, registers, handles, flags, the arm chosen. -/
structure Writes where
  n    : Nat
  s    : List (SReg × Word)
  e    : List (EReg × Word32)
  fcsr : Word
  tcsr : Word
  alt  : Option (Fin 8)
  deriving DecidableEq, Repr

/-- What reaches a core during a clock pause (15_traps.md R413): a park decision, a trap with the cycle it was decided
in, the start of a move, for heat or not, the writes of an operation that has ended, the pages that an operation has delivered. -/
inductive Latched where
  | park (pid : Pid) (hold : Bool)
  | trap (pid : Pid) (cause : Cause) (addr : Word) (detail : BitVec 40) (iw0 iw1 : Word32) (cycle : Word)
  | move (pid : Pid) (target : Nat) (heat : Bool)
  | writes (pid : Pid) (w : Writes)
  | tiles (pid : Pid) (d : TGrp) (pages : List Page)
  deriving DecidableEq, Repr

/-- A clock pause (R413, 17_power.md R435): the point the core changes to, and what it has latched, in order. -/
structure Pause where
  point  : Nat
  latched : List Latched
  deriving DecidableEq, Repr

/-- One enabled core. spillOff names the segments whose refill has faulted, by partition and first address (R120);
promoted marks the slots whose count has reached the bound of R130, ibad the lines of the instruction cache whose next check finds
an error (19_trust.md R476). -/
structure Core where
  phys     : Nat
  slots    : Vector (Option Pid) 4
  deque    : List Rec
  spilled  : List Rec
  spillOff : List (Nat × Word)
  hold     : List Rec
  seqNext  : BitVec 32
  runq     : List Pid
  rotPtr   : Nat
  reqs     : List Nat
  stealPtr : Vector Nat 3
  steal    : Option Steal
  retryAt  : Option Word
  lastSlot : Vector (Fin 4) 64
  unchosen : Vector Nat 4
  promoted : Vector Bool 4
  engLast  : Vector (Fin 4) 4
  l1d      : List L1Line
  icache   : List (Nat × Word32)
  ibad     : List Nat
  tcache   : List TEntry
  stlb     : List STlb
  wanted   : Option Nat
  point    : Nat
  gone     : List Nat
  pause    : Option Pause
  temp     : BitVec 16
  noMoveTo : Option Word
  deriving DecidableEq, Repr

/-- A piece of a row of a TPF that waits for a walk (11_memory.md R305): its address and length, the mode of its context, its
hint. -/
structure Prefetch where
  va   : Word
  n    : Nat
  sup  : Bool
  hint : Hint
  deriving DecidableEq, Repr

/-- A pending walk of a quad (R383): the partition and the 64 KiB page, the access it was asked for, which check 7 and
8 of R381 are made on (its mode, address and length), and what waits for it. -/
structure Walk where
  part : Nat
  page : Nat
  sup  : Bool
  va   : Word
  n    : Nat
  rows : List Prefetch
  deriving DecidableEq, Repr

/-- A quad: its translation cache and walks (R382, R383) and its throttle reasons (17_power.md R437). -/
structure Quad where
  tcache : List TEntry
  walks  : List Walk
  lowpt  : BitVec 4
  reason : BitVec 5
  deriving DecidableEq, Repr

/-- One token bucket (17_power.md R440, R441); carry is the remainder of the refills in units of
1/2^20 token; owed is what has been used and not charged yet, in parts of a token (2 GHz periods times MHz, bytes, tokens). -/
structure Bucket where
  mark  : BitVec 24
  level : Nat
  cap   : BitVec 32
  rate  : BitVec 32
  carry : Nat
  owed  : Nat
  deriving DecidableEq, Repr

/-- The debug states of a partition (19_trust.md R475). -/
inductive Debug where
  | off | observe | invasive
  deriving DecidableEq, Repr

/-- One timer (12_channels.md R342). -/
structure Timer where
  cell : Nat
  due  : Option Word
  deriving DecidableEq, Repr

/-- A partition (18_host.md R450, R451). keyNo names its key pair: no two partitions have had the same. -/
structure Part where
  num      : Nat
  asid     : BitVec 12
  ceiling  : BitVec 6
  domLimit : Domain
  affinity : Bool
  conf     : Bool
  debug    : Debug
  linkOwn  : Bool
  feat     : Word
  ptroot   : Word
  dlthr    : BitVec 32
  preempt  : BitVec 7
  dqovf    : Word
  sttroot  : Word
  sparea   : Word
  charea   : Word
  imgarea  : Word
  buckets  : Vector Bucket 3
  parked   : Bool
  tmrLast  : Option (Fin 8)
  timers   : Vector Timer 8
  ibp      : Vector Word 4
  dwp      : Vector Word 2
  granted  : List (Nat × Nat)
  sup      : Option Pid
  ended    : Bool
  faultCell : Option Nat
  infos    : List Record
  order    : List (Sum Pid Nat)
  lost     : BitVec 8
  placing  : Option EReg
  mSup     : BitVec 512
  mCode    : BitVec 512
  mDbg     : BitVec 512
  owner    : BitVec 512
  spawned  : Bool
  repSeq   : Nat
  logSeq   : Nat
  key      : BitVec 512
  keyNo    : Nat
  keyDies  : Vector Bool 2
  reported : List (List (Pid × Nat))
  infoSeq  : Nat
  deriving DecidableEq, Repr

/-- Where the pages of a tile operation are: in a group of the process that posted it, pinned by its mapping (R329), or
carried by the operation. -/
inductive Src where
  | regs (g : TGrp)
  | held (pages : List Page)
  deriving DecidableEq, Repr

/-- An operation posted at an end of a cell (R326). -/
inductive Posted where
  | send  (v : Word)
  | recv  (d : SReg)
  | sende (b : EReg)
  | recve (d : EReg)
  | sendt (w : Fin 4) (src : Src)
  | recvt (d : TGrp)
  | xcol  (f : XFn) (x : Word) (d : SReg)
  | txmax (d : TGrp) (ty : Ty) (src : Src)
  | txsum (d : TGrp) (ty : Ty) (src : Src)
  | txmrg (d : TGrp) (src : Src)
  | offer (arm : Fin 8) (isSend : Bool)
  deriving DecidableEq, Repr

/-- Who holds an end of a cell. -/
inductive Holder where
  | proc
  | device
  | slot (n : Nat)
  | peer (dev : Fin 4) (tag : BitVec 6)
  deriving DecidableEq, Repr

/-- One end of a channel cell (R326, R327, R337). way says of a bound end that a send arm was bound. -/
structure EndSt where
  holder : Holder
  closed : Bool
  post   : Option Posted
  held   : Option Word
  bound  : Bool
  way    : Bool
  deriving DecidableEq, Repr

/-- The kind of a channel cell (R318, R508). -/
inductive CellKind where
  | chan | timer | host | fault | peer
  deriving DecidableEq, Repr

/-- A barrier cell (R338). -/
structure Barrier where
  n       : Nat
  k       : Nat
  lower   : Nat
  phase   : Nat
  arrived : Nat
  deriving DecidableEq, Repr

/-- A cell: its name in the model, partition, channel ID, whether the device holds it outside CHAREA (R508). -/
structure Cell where
  id   : Nat
  part : Nat
  chid : Nat
  dh   : Bool
  kind : CellKind
  end0 : EndSt
  end1 : EndSt
  bar  : Option Barrier
  deriving DecidableEq, Repr

/-- An endpoint entry (R319, R320). number is the end, the barrier endpoint's number or the timer's index. -/
structure Entry where
  part    : Nat
  dh      : Bool
  index   : Nat
  gen     : BitVec 10
  cell    : Nat
  number  : Nat
  owner   : Pid
  arrived : Bool
  live    : Bool
  deriving DecidableEq, Repr

/-- An answer to a deadlock probe (R345). -/
inductive Answer where
  | blocked | proceeds | undetermined
  deriving DecidableEq, Repr

/-- A detection of the deadlock service (R346). members: process and the wait generation it was seen with. -/
structure Detect where
  init    : Pid
  round   : Nat
  todo    : List Pid
  answers : List (Pid × Answer × Nat)
  members : List (Pid × Nat)
  first   : List (Pid × Nat)
  deriving DecidableEq, Repr

/-- A host event (18_host.md R455). -/
structure HEvent where
  kind  : Nat
  words : List Word
  deriving DecidableEq, Repr

/-- The host port (R447-R455). -/
structure HostPort where
  cmd      : Vector Word 8
  busy     : Bool
  overrun  : Bool
  code     : BitVec 8
  slots    : Vector (Option (Nat × Nat)) 64
  events   : List HEvent
  dropped  : BitVec 8
  msix     : Nat
  busMaster : Bool
  sel      : Word
  deriving DecidableEq, Repr

/-- Boot (19_trust.md R465-R468). -/
structure Boot where
  ready    : Bool
  hostFw   : Bool
  flashFw  : List Byte
  flashCfg : List Byte
  bootwin  : Memory
  checking : Bool
  firmware : List Byte
  nonce    : Word
  record   : ConfigRecord
  deriving DecidableEq, Repr

/-- The power states (R474). -/
inductive Power where
  | on | oneDie | idle | suspended | off
  deriving DecidableEq, Repr

/-- A die (16_mesh.md R430, R431; 17_power.md R444). -/
inductive DieSt where
  | online | goingDown | offline | comingUp
  deriving DecidableEq, Repr

/-- Kaldar Link (18_host.md R457-R459). ports: alive or failed, 8 of them; tags: peer channel ends waiting for a pair. -/
structure LinkSt where
  up    : BitVec 4
  en    : BitVec 4
  self  : Fin 4
  ports : Vector Bool 8
  tags  : List (Fin 4 × BitVec 6 × Nat × Bool)
  deriving DecidableEq, Repr

/-- The meshes (16_mesh.md R425-R428): lanes asleep, the CYCLE value at which a lane last had a flit where that is not 0, and
failed crossing modules. -/
structure Mesh where
  asleep : List Nat
  busyAt : List (Nat × Word)
  failed : List Nat
  deriving DecidableEq, Repr

/-- An uncorrectable error that a sector will show at its next read (19_trust.md R477). -/
structure SectorErr where
  sector  : Nat
  lasting : Bool
  deriving DecidableEq, Repr

end Sys2Proof.Machine

namespace Sys2Proof.Machine

/-- The events that the device itself brings about; each runs as the constructor of Instr of its name. -/
inductive Happening where
  | tileDispatch (core : Nat) (pid : Pid)
  | engineCompletion (core : Nat) (pid : Pid)
  | storePerform (pid : Pid) (n : Nat)
  | atomicAtHome (pid : Pid) (row : Nat)
  | atomicReply (pid : Pid)
  | atomicStop (pid : Pid)
  | walkComplete (quad : Nat)
  | rendezvous (cell : Nat)
  | claim (cell : Nat)
  | timerExpiry (part : Nat) (timer : Nat)
  | detectionLaunch (pid : Pid)
  | probe (init : Pid) (pid : Pid)
  | probeAnswer (init : Pid) (pid : Pid)
  | starvationPromotion (core : Nat)
  | slotFill (core : Nat) (slot : Nat)
  | stealRequest (victim : Nat)
  | stealAnswer (core : Nat)
  | stealRetry (core : Nat)
  | preemption (core : Nat)
  | blockedPark (core : Nat) (slot : Nat)
  | imageComplete (pid : Pid)
  | exitCompletion (pid : Pid)
  | moveComplete (pid : Pid)
  | affinityMove (pid : Pid)
  | pauseEnd (core : Nat)
  | evaluation
  | refillStep
  | bucketEmpty (part : Nat)
  | pageInComplete (pid : Pid) (page : Nat)
  | eviction (core : Nat)
  | offlineAnswer (pid : Pid)
  | dieDownComplete (die : Nat)
  | dieUpComplete (die : Nat)
  | bundleVerified
  | idleEntry
  | idleExit
  | faultEndPlacement (part : Nat)
  deriving DecidableEq, Repr

/-- One happening: an event, the retirement of the oldest tile instruction of a context, what stands first in the agenda, a
context that issues, time that passes. -/
inductive Action where
  | event (e : Happening)
  | retire (pid : Pid)
  | outside
  | issue (core : Nat)
  | pass
  deriving DecidableEq, Repr

/-- A store handed to a link and not yet complete at its destination (13_ordering.md R367). -/
structure OutStore where
  pid   : Pid
  pa    : Nat
  bytes : List Byte
  deriving DecidableEq, Repr

/-- The device. cur is the process whose instruction executes next, procs the other processes that are not exited. draws
counts the free values taken, agenda holds what the outside and the sensors bring about, in the order in which it happens,
turn is the core whose context executes next; these three, iw0, iw1 of a process, waiting (the happenings that may come, in
the order in which they began to wait), waited (the choices since the first of them was taken) and still (those since CYCLE
moved) are the model's own. seals names the key under which an HBM sector is written, where it is not plain data (19_trust.md
R472); garbled the sectors that the L2 holds as an access under another key has filled them, with that key. -/
structure State where
  cur     : Proc
  procs   : List Proc
  cores   : Vector Core 90
  quads   : Vector Quad 24
  parts   : List Part
  cells   : List Cell
  entries : List Entry
  pages   : List PoolPage
  mem     : Memory
  poison  : List Nat
  errs    : List SectorErr
  seals   : List (Nat × Nat)
  l2      : List L2Line
  garbled : List (Nat × Option Nat)
  hostMem : Memory
  peerMem : Memory
  outbox  : List OutStore
  cycle   : Word
  nextPid : Pid
  dies    : Vector DieSt 2
  mesh    : Mesh
  link    : LinkSt
  host    : HostPort
  boot    : Boot
  power   : Power
  idleAt  : Word
  refillAt : Nat
  evalAt  : Nat
  detects : List Detect
  nextId  : Nat
  draws   : Nat
  turn    : Nat
  agenda  : List Instr
  waiting : List Action
  waited  : Nat
  still   : Nat
  deriving DecidableEq, Repr

/-- No request is latched (R313). -/
def Latch.empty : Latch :=
  { sent := false, done := false, kind := 0, stop := 0, addr := 0, rows := 0, req := .none, key := none, seq := 0, result := none,
    core := 0, told := false, resent := false }

/-- No process: every register 0, exited (PID 0 names none, R115). -/
def Proc.absent : Proc :=
  { pid := 0, part := 0, prio := 0, sup := false, s := Vector.replicate 32 0, ip := 0, fcsr := 0, tcsr := 0,
    t := Vector.replicate 32 .zero, e := Vector.replicate 16 0, g := Vector.replicate 8 0, spSlot := Option.none,
    spDir := [], wbSkip := [], latch := Latch.empty, region := Option.none, altLast := 7, wait := .none, waitGen := 0, waitAt := 0, probeAt := 0,
    place := .gone, home := 0, ran := 0, faulted := false, held := false, halted := false, haltOp := false, stepping := false, skipBp := false,
    stall := .none, pageIns := [], pagerStop := Option.none, imageOk := true, record := Option.none, stores := [], rob := [], early := Option.none, copies := Option.none, robNo := 0, bmask := 0, wmask := 0,
    hinge := 0, dbgsel := 0, join := .root, exitCode := Option.none, killed := false, since := 0, runAt := 0,
    movedAt := Option.none, nextHome := Option.none, iw0 := 0, iw1 := 0, acc := [], winAt := 0 }

/-- A core after reset: nothing resident, every cache empty (log 4), pointers as R124, R127, R129 and R434 give. -/
def Core.reset : Core :=
  { phys := 0, slots := Vector.replicate 4 none, deque := [], spilled := [], spillOff := [], hold := [], seqNext := 0,
    runq := [], rotPtr := 0, reqs := [], stealPtr := Vector.replicate 3 89, steal := none, retryAt := none,
    lastSlot := Vector.replicate 64 3, unchosen := Vector.replicate 4 0, promoted := Vector.replicate 4 false, engLast := Vector.replicate 4 3, l1d := [],
    icache := [], ibad := [], tcache := [], stlb := [], wanted := none, point := 15, gone := [], pause := none, temp := 0,
    noMoveTo := none }

/-- A quad after reset (R437). -/
def Quad.reset : Quad := { tcache := [], walks := [], lowpt := 15, reason := 0 }

/-- The device right after power-on or cold reset, before the boot ROM has run (R465): nothing is ready, no partition
and no process exists, memory lists nothing. The flash contents are the part's own (log 2). -/
def State.reset : State :=
  { cur := Proc.absent, procs := [], cores := Vector.replicate 90 Core.reset, quads := Vector.replicate 24 Quad.reset,
    parts := [], cells := [], entries := [], pages := [], mem := [], poison := [], errs := [], seals := [], l2 := [], garbled := [], hostMem := [],
    peerMem := [], outbox := [], cycle := 0, nextPid := 1, dies := Vector.replicate 2 .online,
    mesh := { asleep := [], busyAt := [], failed := [] },
    link := { up := 0, en := 0, self := 0, ports := Vector.replicate 8 true, tags := [] },
    host := { cmd := Vector.replicate 8 0, busy := false, overrun := false, code := 0,
              slots := Vector.replicate 64 none, events := [], dropped := 0, msix := 0, busMaster := false, sel := 0 },
    boot := { ready := false, hostFw := false, flashFw := [], flashCfg := [], bootwin := [],
              checking := false, firmware := [], nonce := 0,
              record := { harvest := [], limits := [], points := [], currents := [], devNo := 0, ports := [] } },
    power := .off, idleAt := 0, refillAt := 0, evalAt := 0, detects := [], nextId := 1, draws := 0, turn := 0, agenda := [], waiting := [], waited := 0, still := 0 }

end Sys2Proof.Machine
end

