-- ==== Sys2Proof/Machine/Flags.lean ====
section
/-! DEFINITION. The sticky flags of an operation and how they join TCSR (04_numbers.md R95) and FCSR (06_scalar.md
R166). -/

namespace Sys2Proof.Machine

/-- The flags an operation raises. divzero is an exact infinite result of finite operands (R96). -/
structure Flags where
  invalid   : Bool := false
  divzero   : Bool := false
  overflow  : Bool := false
  underflow : Bool := false
  inexact   : Bool := false
  saturated : Bool := false
  deriving DecidableEq, Repr

/-- No flag. -/
def Flags.none : Flags := {}

/-- The union of two sets of flags. -/
def Flags.or (a b : Flags) : Flags :=
  { invalid := a.invalid || b.invalid, divzero := a.divzero || b.divzero, overflow := a.overflow || b.overflow,
    underflow := a.underflow || b.underflow, inexact := a.inexact || b.inexact, saturated := a.saturated || b.saturated }

/-- The union of the flags of many results. -/
def Flags.all (l : List Flags) : Flags := l.foldl Flags.or Flags.none

def bit (b : Bool) : Nat := if b then 1 else 0

/-- The flags as TCSR bits (R95); a division by zero sets overflow there (R96). -/
def Flags.tcsr (f : Flags) : Word :=
  BitVec.ofNat 64 (bit f.invalid + 2 * bit (f.overflow || f.divzero) + 4 * bit f.underflow + 8 * bit f.inexact
    + 16 * bit f.saturated)

/-- The flags as FCSR bits (R166). -/
def Flags.fcsr (f : Flags) : Word :=
  BitVec.ofNat 64 (bit f.invalid + 2 * bit f.divzero + 4 * bit f.overflow + 8 * bit f.underflow + 16 * bit f.inexact
    + 32 * bit f.saturated)

/-- The rounding mode FCSR holds (R166); the other codes are never stored (R167). -/
def rmodeOf (fcsr : Word) : Rnd :=
  match fcsr.toNat / 256 % 8 with
  | 1 => .rtz
  | 2 => .rdn
  | 3 => .rup
  | 4 => .rna
  | _ => .rne

/-- What a write of FCSR stores (R167): reserved bits 0, a mode of 5 to 7 as 0. -/
def fcsrStored (v : Word) : Word :=
  let m := v.toNat / 256 % 8
  BitVec.ofNat 64 (v.toNat % 64 + 256 * (if m ≤ 4 then m else 0))

/-- What a write of TCSR stores (R95): the five flags. -/
def tcsrStored (v : Word) : Word := v &&& 0x1F

end Sys2Proof.Machine
end

