-- ==== Sys2Proof/Machine/Mem.lean ====
section
/-! DEFINITION. Bytes in memory: the canonical byte memory, the physical address map (14_translation.md R374), sectors
and their poison (19_trust.md R477), the error log (R480). -/

namespace Sys2Proof.Machine

/-! ### The byte memory -/

/-- The byte at an address; an address not listed reads 0 (log 1). -/
def Memory.get : Memory → Nat → Byte
  | [], _ => 0
  | (k, v) :: r, a => if k = a then v else if a < k then 0 else Memory.get r a

/-- Writing a byte keeps the addresses rising and lists no zero. -/
def Memory.set : Memory → Nat → Byte → Memory
  | [], a, v => if v = 0 then [] else [(a, v)]
  | (k, w) :: r, a, v =>
    if k = a then (if v = 0 then r else (a, v) :: r)
    else if a < k then (if v = 0 then (k, w) :: r else (a, v) :: (k, w) :: r)
    else (k, w) :: Memory.set r a v

/-- Consecutive bytes, the first at the given address. -/
def Memory.setBytes (m : Memory) (a : Nat) : List Byte → Memory
  | [] => m
  | b :: r => Memory.setBytes (m.set a b) (a + 1) r

/-- n consecutive bytes. -/
def Memory.getBytes (m : Memory) (a : Nat) : Nat → List Byte
  | 0 => []
  | n + 1 => m.get a :: m.getBytes (a + 1) n

/-- Every listed address is at least lo, they rise strictly, and no listed byte is 0. -/
def Memory.wfFrom : Nat → Memory → Bool
  | _, [] => true
  | lo, (k, v) :: r => decide (lo ≤ k) && decide (v ≠ 0) && Memory.wfFrom (k + 1) r

/-- The canonical form. -/
def Memory.wf (m : Memory) : Bool := Memory.wfFrom 0 m

/-! ### Little-endian values (00_scope.md R4) -/

/-- The n low bytes of a value, lowest first. -/
def bytesOf (n v : Nat) : List Byte :=
  match n with
  | 0 => []
  | k + 1 => BitVec.ofNat 8 v :: bytesOf k (v / 256)

/-- The value of bytes, lowest first. -/
def ofBytes : List Byte → Nat
  | [] => 0
  | b :: r => b.toNat + 256 * ofBytes r

/-! ### Physical addresses (R374) -/

/-- The regions of R374. -/
inductive PhysRegion where
  | hbm
  | host
  | peer (dev : Nat)
  | none
  deriving DecidableEq, Repr

def hbmTop : Nat := 0x6000000000
def dieTop : Nat := 0x3000000000
def hostBase : Nat := 0x8000000000000
def peerBase : Nat := 0xC000000000000
def peerStride : Nat := 0x400000000000

/-- The region of a physical address. -/
def physRegion (pa : Nat) : PhysRegion :=
  if pa < hbmTop then .hbm
  else if pa < hostBase then .none
  else if pa < peerBase then .host
  else if pa < peerBase + 4 * peerStride then
    if (pa - peerBase) % peerStride < hbmTop then .peer ((pa - peerBase) / peerStride) else .none
  else .none

/-- The die on which an HBM address is homed (R21). -/
def dieOf (pa : Nat) : Nat := if pa < dieTop then 0 else 1

/-- The state of a die; there are two (R13). -/
def State.die (s : State) (d : Nat) : DieSt := if d = 0 then s.dies[0] else s.dies[1]

/-- Whether a die is away: offline, or on its way back and still fenced (16_mesh.md R430, R431). -/
def State.dieAway (s : State) (d : Nat) : Bool := s.die d == .offline || s.die d == .comingUp

/-- Whether an HBM address is homed on an offline die (R296). -/
def State.offlineAt (s : State) (pa : Nat) : Bool :=
  physRegion pa = .hbm && s.dieAway (dieOf pa)

/-- The byte a physical address reads at its home. -/
def State.physByte (s : State) (pa : Nat) : Byte :=
  match physRegion pa with
  | .hbm => s.mem.get pa
  | .host => s.hostMem.get (pa - hostBase)
  | .peer _ => s.peerMem.get (pa - peerBase)
  | .none => 0

/-- n bytes from a physical address. -/
def State.physBytes (s : State) (pa : Nat) : Nat → List Byte
  | 0 => []
  | n + 1 => s.physByte pa :: s.physBytes (pa + 1) n

/-- Bytes written at a physical address, with no other effect. -/
def State.rawPut (s : State) (pa : Nat) (bytes : List Byte) : State :=
  match physRegion pa with
  | .hbm => { s with mem := s.mem.setBytes pa bytes }
  | .host => { s with hostMem := s.hostMem.setBytes (pa - hostBase) bytes }
  | .peer _ => { s with peerMem := s.peerMem.setBytes (pa - peerBase) bytes }
  | .none => s

/-- Every byte of a range reads 0, whatever the range's length: nothing in it is listed. -/
def Memory.zero (m : Memory) (a n : Nat) : Memory := m.filter (fun c => decide (c.1 < a) || decide (a + n ≤ c.1))

/-- Zero bytes written at a physical range. -/
def State.rawZero (s : State) (pa n : Nat) : State :=
  match physRegion pa with
  | .hbm => { s with mem := s.mem.zero pa n }
  | .host => { s with hostMem := s.hostMem.zero (pa - hostBase) n }
  | .peer _ => { s with peerMem := s.peerMem.zero (pa - peerBase) n }
  | .none => s

/-! ### The L2 (16_mesh.md R429) and encryption (19_trust.md R471, R472) -/

/-- The sectors of a byte range. -/
def sectorsOf (pa n : Nat) : List Nat :=
  if n = 0 then [] else List.range' (pa / 32) ((pa + n - 1) / 32 - pa / 32 + 1)

/-- The line that a slice holds of a number, and the sector. -/
def State.line? (s : State) (line : Nat) : Option L2Line := s.l2.find? (fun x => x.line == line)
def State.held? (s : State) (sec : Nat) : Option L2Sector :=
  (s.line? (sec / 4)).bind (fun l => l.sectors.find? (fun x => x.sector == sec))

/-- The key under which the L2 was filled with a sector that is written under another. -/
def State.garble? (s : State) (sec : Nat) : Option (Option Nat) := (s.garbled.find? (fun x => x.1 == sec)).map Prod.snd

/-- The key under which a sector is written; none is plain data. -/
def State.sealOf (s : State) (sec : Nat) : Option Nat := (s.seals.find? (fun x => x.1 == sec)).map Prod.snd

/-- A seal takes its place in a list without that sector, in order of sector. -/
def insertSeal (sec y : Nat) : List (Nat × Nat) → List (Nat × Nat)
  | [] => [(sec, y)]
  | (k, v) :: r => if sec < k then (sec, y) :: (k, v) :: r else (k, v) :: insertSeal sec y r

/-- The seals with that of one sector changed. -/
def setSeal (sec : Nat) (x : Option Nat) (l : List (Nat × Nat)) : List (Nat × Nat) :=
  let rest := l.filter (fun y => y.1 != sec)
  match x with
  | none => rest
  | some y => insertSeal sec y rest

/-- The key pair of a number, drawn from the random source at a CREATE (R471). -/
def keyPair (k : Nat) : BitVec 512 := Config.random k

/-- The 32 bytes of a sector as HBM stores them, and as a fill under a key takes them. -/
def State.stored (s : State) (sec : Nat) : List Byte :=
  let plain := s.physBytes (sec * 32) 32
  match s.sealOf sec with
  | none => plain
  | some k => sealBytes (keyPair k) (sec * 32) plain
def State.filled (s : State) (key : Option Nat) (sec : Nat) : List Byte :=
  match key with
  | none => s.stored sec
  | some k => openBytes (keyPair k) (sec * 32) (s.stored sec)

/-- The byte an access under a key reads: a hit shows the sector as held, a miss what its key makes of the stored bytes. -/
def State.byteAs (s : State) (key : Option Nat) (pa : Nat) : Byte :=
  if physRegion pa = .hbm then
    match s.garble? (pa / 32) with
    | some k => (s.filled k (pa / 32)).getD (pa % 32) 0
    | none =>
      if key = s.sealOf (pa / 32) ∨ (s.held? (pa / 32)).isSome then s.physByte pa
      else (s.filled key (pa / 32)).getD (pa % 32) 0
  else s.physByte pa

/-- Whether nothing is encrypted or garbled, and no key is used: every access sees plain data. -/
def State.allPlain (s : State) (key : Option Nat) : Bool := key.isNone && s.seals.isEmpty && s.garbled.isEmpty

/-- n bytes of a physical address as an access under a key reads them. -/
def State.bytesAs (s : State) (key : Option Nat) (pa n : Nat) : List Byte :=
  if s.allPlain key then s.physBytes pa n else (List.range n).map (fun i => s.byteAs key (pa + i))

/-- Whether an access under a key that misses or hits a sector sees what is in it. -/
def State.sees (s : State) (key : Option Nat) (sec : Nat) : Bool :=
  (s.garble? sec).isNone && (key == s.sealOf sec || (s.held? sec).isSome)

/-- A read under a key fills the L2 with what it decrypts: under another key than the sector is written under, other bytes,
which every access sees while the L2 holds them. -/
def State.noteKey (s : State) (key : Option Nat) (pa n : Nat) : State :=
  if physRegion pa = .hbm && !s.allPlain key then
    (sectorsOf pa n).foldl (fun s sec =>
      if s.sees key sec || (s.garble? sec).isSome then s else { s with garbled := (sec, key) :: s.garbled }) s
  else s

/-- A store under a key to part or all of a sector: the last access that dirties it decides how it is written back; a
partial store merges with what the L2 holds, or fills. -/
def State.sealSector (key : Option Nat) (pa n : Nat) (s : State) (sec : Nat) : State :=
  if key = s.sealOf sec ∧ (s.garble? sec).isNone then s
  else
    let s1 :=
      if (pa ≤ sec * 32 ∧ sec * 32 + 32 ≤ pa + n) ∨ s.sees key sec then s
      else s.rawPut (sec * 32) ((List.range 32).map (fun i => s.byteAs key (sec * 32 + i)))
    { s1 with seals := setSeal sec key s1.seals, garbled := s1.garbled.filter (fun x => x.1 != sec) }

/-- The seals after a store of n bytes under a key. -/
def State.sealFor (s : State) (key : Option Nat) (pa n : Nat) : State :=
  if physRegion pa = .hbm && !s.allPlain key then (sectorsOf pa n).foldl (State.sealSector key pa n) s else s

/-! ### Partitions -/

def Bucket.fresh : Bucket := { mark := 0, level := 0xFFFFFFFF, cap := 0xFFFFFFFF, rate := 0xFFFFFFFF, carry := 0, owed := 0 }

/-- No partition: what a reference to none reads. -/
def Part.absent : Part :=
  { num := 0, asid := 0, ceiling := 0, domLimit := .quad, affinity := false, conf := false, debug := .off,
    linkOwn := false, feat := 0, ptroot := 0, dlthr := 0x400000, preempt := 8, dqovf := 0, sttroot := 0, sparea := 0,
    charea := 0, imgarea := 0, buckets := Vector.replicate 3 Bucket.fresh, parked := false, tmrLast := Option.none,
    timers := Vector.replicate 8 { cell := 0, due := Option.none }, ibp := Vector.replicate 4 0,
    dwp := Vector.replicate 2 0, granted := [], sup := Option.none, ended := false, faultCell := Option.none,
    infos := [], order := [], lost := 0, placing := Option.none, mSup := 0, mCode := 0, mDbg := 0, owner := 0,
    spawned := false, repSeq := 0, logSeq := 0, key := 0, keyNo := 0, keyDies := Vector.replicate 2 false, reported := [],
    infoSeq := 0 }

def State.part? (s : State) (n : Nat) : Option Part := s.parts.find? (fun p => p.num == n)

/-- The partition of a number, Part.absent when there is none. -/
def State.part (s : State) (n : Nat) : Part := (s.part? n).getD Part.absent

def State.updPart (s : State) (n : Nat) (f : Part → Part) : State :=
  { s with parts := s.parts.map (fun p => if p.num = n then f p else p) }

/-- The base B of the partition's first granted range (18_host.md R452, 19_trust.md R470). -/
def Part.base (p : Part) : Option Nat := (p.granted.head?).map Prod.fst

/-- Whether every address from one to a stop lies in one of some ranges. -/
def covered (l : List (Nat × Nat)) (stop : Nat) : Nat → Nat → Bool
  | 0, a => decide (stop ≤ a)
  | fuel + 1, a =>
    decide (stop ≤ a) || match l.find? (fun g => decide (g.1 ≤ a) && decide (a < g.1 + g.2)) with
      | some g => covered l stop fuel (g.1 + g.2)
      | none => false

/-- Whether every byte of a physical range lies in the grant (R374). -/
def Part.grants (p : Part) (pa n : Nat) : Bool := covered p.granted (pa + n) p.granted.length pa

/-! ### Poison and the error log -/

/-- Insert in a rising list without repeats. -/
def insertNat (a : Nat) : List Nat → List Nat
  | [] => [a]
  | b :: r => if a < b then a :: b :: r else if a = b then b :: r else b :: insertNat a r

/-- The marks of the sectors of a range that is written whole are cleared (R477). -/
def State.wholeMarks (s : State) (pa n : Nat) : State :=
  let here := fun (sec : Nat) => decide (pa ≤ sec * 32) && decide (sec * 32 + 32 ≤ pa + n)
  { s with poison := s.poison.filter (fun x => !here x), errs := s.errs.filter (fun e => !here e.sector) }

/-- One entry of the error log (R480) of a partition, written by physical address, seq last. -/
def State.logEntry (s : State) (part : Nat) (source kind addr : Nat) : State :=
  match (s.part part).base with
  | none => s
  | some b =>
    let q := (s.part part).logSeq + 1
    let at_ := b + 0x22E000 + 64 * (q % 128)
    let s1 := (s.sealFor none at_ 64).wholeMarks at_ 64 |>.rawPut (at_ + 8)
      (bytesOf 8 (source * 256 + kind) ++ bytesOf 8 addr ++ bytesOf 8 s.cycle.toNat ++ List.replicate 32 0)
    (s1.rawPut at_ (bytesOf 8 q)).updPart part (fun p => { p with logSeq := q })

/-- An error of a pool page is logged to the partition of its owner, with source 0 (log 62). -/
def State.logPool (s : State) (part kind id : Nat) : State := s.logEntry part 0 kind (Config.poolAddr id)

/-- The partition whose grant holds a physical address. -/
def State.grantee (s : State) (pa : Nat) : Option Part := s.parts.find? (fun p => p.grants pa 1)

/-- A memory error is logged to the partition whose grant holds the address (R480), with its source. -/
def State.logMemory (s : State) (source kind pa : Nat) : State :=
  match s.grantee pa with
  | some p => s.logEntry p.num source kind pa
  | none => s

/-- Events of kinds 3-5 are logged to every partition (R480). -/
def State.logAll (s : State) (source kind addr : Nat) : State :=
  s.parts.foldl (fun s p => s.logEntry p.num source kind addr) s

/-! ### Stores handed to a link (13_ordering.md R367) -/

/-- A handed-over store reaches its destination; at a peer whose link went down meanwhile it is lost (18_host.md R458). -/
def State.arrive (s : State) (o : OutStore) : State :=
  match physRegion o.pa with
  | .peer d => if s.link.up.getLsbD d && s.link.en.getLsbD d then s.rawPut o.pa o.bytes else s.logAll 4 4 d
  | _ => s.rawPut o.pa o.bytes

/-- The handed-over stores that a test asks for are complete at their destination, and those handed over before them. -/
def State.flushOut (s : State) (f : OutStore → Bool) : State :=
  let left := ((s.outbox.reverse.takeWhile (fun o => !f o)).length)
  let k := s.outbox.length - left
  { (s.outbox.take k).foldl State.arrive s with outbox := s.outbox.drop k }

/-- A read from a link finds what was handed to it before (R359, R367). -/
def State.flushFor (s : State) (pa : Nat) : State :=
  if physRegion pa = .hbm || s.outbox.isEmpty then s else s.flushOut (fun _ => true)

/-- Whether an error is lasting: the retry of a read that a clean L2 sector served goes to HBM, and succeeds (R477). -/
def State.lasts (s : State) (e : SectorErr) : Bool := e.lasting && !(s.held? e.sector).any (fun x => x.dirty.isNone)

/-- Whether a read of an HBM sector finds it poisoned after the retry of R477. -/
def State.sectorBad (s : State) (sec : Nat) : Bool :=
  s.poison.contains sec || s.errs.any (fun e => e.sector == sec && s.lasts e)

/-- Whether any sector of a physical range is poisoned after the retry. -/
def State.rangeBad (s : State) (pa n : Nat) : Bool :=
  physRegion pa = .hbm && (sectorsOf pa n).any s.sectorBad

/-- The first bad byte of a physical range that an access reads at a virtual address: both addresses. -/
def State.firstBad (s : State) (va : Word) (pa n : Nat) : Option (Word × Nat) :=
  if physRegion pa = .hbm then
    ((sectorsOf pa n).find? s.sectorBad).map (fun sec => (va + BitVec.ofNat 64 (sec * 32 - pa), max pa (sec * 32)))
  else none

/-- READ_RETRY (R477): a read that finds an uncorrectable error is retried; transient errors are logged with kind 1,
lasting ones with kind 2 and the sector is marked; the source is the L2 where a slice holds the sector, else HBM. -/
def State.readSector (s : State) (sec : Nat) : State :=
  if s.poison.contains sec then s
  else match s.errs.find? (fun e => e.sector == sec) with
    | none => s
    | some e =>
      let s1 := { s with errs := s.errs.filter (fun x => x.sector != sec) }
      let source := if (s.held? sec).isSome then 2 else 3
      if s.lasts e then ({ s1 with poison := insertNat sec s1.poison }).logMemory source 2 (sec * 32)
      else s1.logMemory source 1 (sec * 32)

/-- The retries of a read of a physical range. -/
def State.readRange (s : State) (pa n : Nat) : State :=
  if physRegion pa = .hbm then (sectorsOf pa n).foldl State.readSector s else s

/-- What a store does to one sector's marks (R477, R295): writing it whole clears them, a partial store finds them. -/
def State.storeSector (pa n : Nat) (s : State) (sec : Nat) : State :=
  if pa ≤ sec * 32 ∧ sec * 32 + 32 ≤ pa + n then
    { s with poison := s.poison.filter (· != sec), errs := s.errs.filter (fun e => e.sector != sec) }
  else s.readSector sec

/-- The marks after a store of n bytes at a physical address. -/
def State.storeMarks (s : State) (pa n : Nat) : State :=
  if physRegion pa = .hbm then (sectorsOf pa n).foldl (State.storeSector pa n) s else s

/-! ### What the L2 holds (16_mesh.md R429) and the bandwidth bucket (17_power.md R440) -/

/-- A bucket that is never charged. -/
def Bucket.unlimited (b : Bucket) : Bool := b.rate == 0xFFFFFFFF

/-- A bucket of a partition: 0 time, 1 bandwidth, 2 energy. -/
def Part.bucket (p : Part) (i : Nat) : Bucket := if h : i < 3 then p.buckets[i] else Bucket.fresh

def State.updBucket (s : State) (part i : Nat) (f : Bucket → Bucket) : State :=
  s.updPart part (fun p => { p with buckets := if h : i < 3 then p.buckets.set i (f p.buckets[i]) else p.buckets })

/-- A partition owes the bandwidth of one sector that moved between HBM and the L2, but in SUSPEND (19_trust.md R474). -/
def State.oweSector (s : State) (part : Option Part) : State :=
  match part with
  | none => s
  | some p =>
    if (p.bucket 1).unlimited || s.power == .suspended then s
    else s.updBucket p.num 1 (fun b => { b with owed := b.owed + 32 })

/-- The home of a line (01_device.md R20, R21, 11_memory.md R286): its die, its slice there, its set in the slice. -/
def lineHome (line : Nat) : Nat × Fin 48 × Fin 768 := (dieOf (line * 128), Config.l2Slice (line * 128 / 4096), Config.l2Set line)

/-- The lines of a set that one of another hint may replace (11_memory.md R287): a streaming line first, and no kept line
for one that is not kept while they are few. -/
def replaceable (h : Hint) (set : List L2Line) : List L2Line :=
  let streaming := set.filter (fun l => l.hint == .stream)
  let other := set.filter (fun l => l.hint != .keep)
  if !streaming.isEmpty then streaming
  else if h != .keep && decide ((set.filter (fun l => l.hint == .keep)).length ≤ Config.keptWays) then other else set

/-- A line leaves the L2: its dirty sectors are written back, for the partitions whose stores dirtied them (16_mesh.md R429). -/
def State.evictLine (s : State) (l : L2Line) : State :=
  l.sectors.foldl (fun s x => s.oweSector ((x.dirty.getD none).bind s.part?))
    { s with l2 := s.l2.filter (fun x => x.line != l.line), garbled := s.garbled.filter (fun x => x.1 / 4 != l.line) }

/-- A set has room for a line that is brought in under a hint; every set has, while the L2 holds fewer lines than a set has
ways. -/
def State.roomInSet (s : State) (h : Hint) (line : Nat) : State :=
  let set := s.l2.filter (fun l => lineHome l.line == lineHome line)
  if s.l2.length < Config.l2Ways ∨ set.length < Config.l2Ways then s
  else
    let l := replaceable h set
    match l[Config.l2Victim s.draws line % l.length]? with
    | some v => s.evictLine v
    | none => s

/-- A sector stands in the L2: in its line, which is brought in where it is not there. -/
def State.holdSector (s : State) (h : Hint) (x : L2Sector) : State :=
  match s.line? (x.sector / 4) with
  | some l =>
    { s with l2 := { l with sectors := x :: l.sectors.filter (fun y => y.sector != x.sector) } ::
        s.l2.filter (fun y => y.line != l.line) }
  | none =>
    let s1 := s.roomInSet h (x.sector / 4)
    { s1 with l2 := { line := x.sector / 4, hint := h, sectors := [x] } :: s1.l2 }

/-- How an access reaches memory: its key (R472), the partition for whose access HBM is read, none for the host's and a peer's
(17_power.md R440), and its hint (11_memory.md R287). -/
structure Via where
  key   : Option Nat
  payer : Option Nat
  hint  : Hint
  deriving DecidableEq, Repr

/-- An access for a partition, under a key; its hint is normal. -/
def Via.of (key : Option Nat) (part : Nat) : Via := { key := key, payer := some part, hint := .normal }

/-- An access of the host or of a peer. -/
def Via.outside : Via := { key := none, payer := none, hint := .normal }

/-- A read brings the sectors of a range into the L2; a miss fills from HBM. -/
def State.fillL2 (s : State) (v : Via) (pa n : Nat) : State :=
  if physRegion pa = .hbm then
    (sectorsOf pa n).foldl (fun s sec =>
      if (s.held? sec).isSome then s
      else (s.oweSector (v.payer.bind s.part?)).holdSector v.hint { sector := sec, dirty := none }) s
  else s

/-- A store dirties the sectors of a range; one that writes a sector in part fills it first. -/
def State.dirtyL2 (s : State) (v : Via) (pa n : Nat) : State :=
  if physRegion pa = .hbm then
    (sectorsOf pa n).foldl (fun s sec =>
      let whole := decide (pa ≤ sec * 32) && decide (sec * 32 + 32 ≤ pa + n)
      let s1 := if whole || (s.held? sec).isSome then s else s.oweSector (v.payer.bind s.part?)
      s1.holdSector v.hint { sector := sec, dirty := some v.payer }) s
  else s

/-- The sectors of a line that a test keeps; none of an empty one. -/
def L2Line.keep (f : Nat → Bool) (l : L2Line) : Option L2Line :=
  let k := l.sectors.filter (fun x => f x.sector)
  if k.isEmpty then none else some { l with sectors := k }

/-- A range of HBM leaves the L2. -/
def State.dropL2 (s : State) (pa n : Nat) : State :=
  let here := fun (sec : Nat) => decide (pa / 32 ≤ sec) && decide (sec * 32 < pa + n)
  { s with l2 := s.l2.filterMap (L2Line.keep (fun x => !here x)), garbled := s.garbled.filter (fun x => !here x.1) }

/-- The device writes bytes at a physical address. -/
def State.physPut (s : State) (v : Via) (pa : Nat) (bytes : List Byte) : State :=
  ((((s.flushFor pa).sealFor v.key pa bytes.length).storeMarks pa bytes.length).rawPut pa bytes).dirtyL2 v pa bytes.length

/-- The device zeroes a physical range. -/
def State.physZero (s : State) (key : Option Nat) (pa n : Nat) : State :=
  ((((s.flushFor pa).sealFor key pa n).storeMarks pa n).rawZero pa n).dropL2 pa n

/-- A read of a physical range: what was handed to a link before has arrived, the retries, what R472 lets a read leave, what the
L2 holds then. -/
def State.noteRead (s : State) (v : Via) (pa n : Nat) : State :=
  (((s.flushFor pa).readRange pa n).noteKey v.key pa n).fillL2 v pa n

/-- The device has changed bytes of a range that the L2 holds: no partition's store dirtied them last (17_power.md R440). -/
def State.holdOwn (s : State) (pa n : Nat) : State :=
  if physRegion pa = .hbm then
    (sectorsOf pa n).foldl (fun s sec => s.holdSector .normal { sector := sec, dirty := some none }) s
  else s

/-- The key of the device's physical-address accesses to a supervisor's table and image (R472). -/
def Part.supKey (p : Part) : Option Nat := if p.conf then some p.keyNo else none

/-- The key of an access through a leaf: that of the partition where enc = 1 (14_translation.md R379). -/
def Part.leafKey (p : Part) (leaf : Word) : Option Nat := if leaf.getLsbD 59 then some p.keyNo else none

/-! ### Free values -/

/-- Count one free value as taken. -/
def State.drew (s : State) : State := { s with draws := s.draws + 1 }

/-- The free 512-bit random value at this state (log 11). -/
def State.randomNow (s : State) : BitVec 512 := Config.random s.draws

/-! ### Cores and quads -/

def State.core (s : State) (c : Nat) : Core := if h : c < 90 then s.cores[c] else Core.reset

def State.updCore (s : State) (c : Nat) (f : Core → Core) : State :=
  if h : c < 90 then { s with cores := s.cores.set c (f s.cores[c]) } else s

/-- The device quad of a logical core (R14), from its physical tile. -/
def State.quadOf (s : State) (c : Nat) : Nat :=
  let p := (s.core c).phys
  let l := p % 48
  12 * (p / 48) + 3 * (l / 6 / 2) + l % 6 / 2

def State.quad (s : State) (q : Nat) : Quad := if h : q < 24 then s.quads[q] else Quad.reset

def State.updQuad (s : State) (q : Nat) (f : Quad → Quad) : State :=
  if h : q < 24 then { s with quads := s.quads.set q (f s.quads[q]) } else s

/-- The die of a logical core (R16). -/
def dieOfCore (c : Nat) : Nat := if c < 45 then 0 else 1

/-- Whether a logical core is online: its die is not away (R18); the cores of a die that goes down are online until it is away
(log 73). -/
def State.coreOnline (s : State) (c : Nat) : Bool := decide (c < 90) && !s.dieAway (dieOfCore c)

/-- Whether the device runs instructions (19_trust.md R474). -/
def State.powered (s : State) : Bool := s.boot.ready && (s.power == .on || s.power == .oneDie)

/-- A core that may start work and be stolen from: its die is neither going down, nor away (17_power.md R444). -/
def State.coreOpen (s : State) (c : Nat) : Bool := s.powered && decide (c < 90) && s.die (dieOfCore c) == .online

/-- The core whose logical number differs by 45 (R142, R148). -/
def twin (c : Nat) : Nat := if c < 45 then c + 45 else c - 45

/-- The home that a process or a record takes on a core: that of its twin once its die is going down (R145, 17_power.md R444). -/
def State.homeAt (s : State) (c : Nat) : Nat := if s.die (dieOfCore c) = .goingDown then twin c else c

/-- Flash invalidation of the core's L1 data cache, and with it of the instruction cache (R291, R164). -/
def State.flushL1 (s : State) (c : Nat) : State := s.updCore c (fun k => { k with l1d := [], icache := [] })

/-! ### Processes -/

/-- The process of a PID: the current one or one of the others. -/
def State.proc? (s : State) (pid : Pid) : Option Proc :=
  if pid = 0 then none else if s.cur.pid = pid then some s.cur else s.procs.find? (fun p => p.pid == pid)

/-- Change one process. -/
def State.updProc (s : State) (pid : Pid) (f : Proc → Proc) : State :=
  if s.cur.pid = pid then { s with cur := f s.cur }
  else { s with procs := s.procs.map (fun p => if p.pid = pid then f p else p) }

/-- An access for a process, whose partition pays for it. -/
def State.viaOf (s : State) (pid : Pid) (key : Option Nat) (hint : Hint) : Via :=
  { key := key, payer := (s.proc? pid).map Proc.part, hint := hint }

/-- Every process that is not exited. -/
def State.allProcs (s : State) : List Proc := if s.cur.pid = 0 then s.procs else s.cur :: s.procs

/-- Every process, the current one included, changed. -/
def State.mapProcs (s : State) (f : Proc → Proc) : State := { s with cur := f s.cur, procs := s.procs.map f }

/-- A process that is not exited any more leaves the state. -/
def State.dropProc (s : State) (pid : Pid) : State :=
  if s.cur.pid = pid then { s with cur := Proc.absent }
  else { s with procs := s.procs.filter (fun p => p.pid != pid) }

/-- The context whose instruction executes changes: the process of the PID becomes cur, cur joins the others. -/
def State.switchTo (s : State) (pid : Pid) : State :=
  if s.cur.pid = pid then s
  else match s.procs.find? (fun p => p.pid == pid) with
    | none => s
    | some p =>
      { s with cur := p, procs := (if s.cur.pid = 0 then [] else [s.cur]) ++ s.procs.filter (fun q => q.pid != pid) }

/-- The logical core of a process: where it is resident, else its home (R126, R392). -/
def Proc.core (p : Proc) : Nat :=
  match p.place with
  | .resident c _ => c
  | .exiting c _ => c
  | .moving _ t => t
  | _ => p.home

/-- Whether a process is in a slot and not exiting. -/
def Proc.isResident (p : Proc) : Bool := match p.place with | .resident _ _ => true | _ => false

/-- Whether a process counts as resident: in a slot, an exiting one included (05_processes.md R156). -/
def Proc.inSlot (p : Proc) : Bool :=
  match p.place with
  | .resident _ _ => true
  | .exiting _ _ => true
  | _ => false

/-- Whether a process is exiting. -/
def Proc.isExiting (p : Proc) : Bool := match p.place with | .exiting _ _ => true | _ => false

/-- A process blocked in a channel wait (R343). -/
def Proc.isBlocked (p : Proc) : Bool := p.wait != .none

end Sys2Proof.Machine
end

