-- ==== Sys2Proof/Machine/Translate.lean ====
section
/-! DEFINITION. Global address translation (14_translation.md R374-R384): the walk, its checks, the translation caches. -/

namespace Sys2Proof.Machine

/-- A trap without detail. -/
def TrapInfo.at (c : Cause) (a : Word) : TrapInfo := { cause := c, addr := a, detail := 0 }

/-- Kinds of access (R381). -/
inductive Access where
  | read | write | fetch | modify
  deriving DecidableEq, Repr

/-- A translated access: physical address and leaf that gave it. -/
structure Xlated where
  pa    : Nat
  level : Nat
  leaf  : Word
  deriving DecidableEq, Repr

/-- The number of offset bits of a leaf at a level (R378). -/
def pageBits (level : Nat) : Nat := if level = 0 then 40 else if level = 1 then 28 else 16

/-- The index bits of a level (R378). -/
def nodeIndex (va : Nat) (level : Nat) : Nat := va / 2 ^ pageBits level % 4096

/-- The frame of a leaf entry: bits [51:16] (R379). -/
def leafFrame (e : Word) : Nat := e.toNat / 2 ^ 16 % 2 ^ 36 * 2 ^ 16

/-- The next node of a table entry: bits [51:15] (R379). -/
def tableNode (e : Word) : Nat := e.toNat / 2 ^ 15 % 2 ^ 37 * 2 ^ 15

/-- Whether the link to a peer device is up and enabled and the partition has peer (18_host.md R458, R374). -/
def State.peerReachable (s : State) (p : Part) (d : Nat) : Bool :=
  d != s.link.self.val && s.link.up.getLsbD d && s.link.en.getLsbD d && p.feat.getLsbD 4

/-- Whether R374 marks a physical address GFAULT for a partition. -/
def State.regionFaults (s : State) (p : Part) (pa : Nat) : Bool :=
  match physRegion pa with
  | .hbm => false
  | .host => false
  | .peer d => !s.peerReachable p d
  | .none => true

/-- Checks 2 and 3 of R381 on a node that is to be read. -/
def State.nodeCheck (s : State) (p : Part) (va : Word) (node : Nat) : Option TrapInfo :=
  if !p.grants node 32768 then some (.at .gprot va)
  else if physRegion node ≠ .hbm then some (.at .gfault va)
  else if s.offlineAt node then some (.at .memoff va)
  else none

/-- One level of the walk and what follows it; fuel counts the levels left (R378, R381 checks 2-5). -/
def State.walkFrom (s : State) (p : Part) (va : Word) (node : Nat) : Nat → Nat → Except TrapInfo (Nat × Word)
  | _, 0 => .error (.at .gfault va)
  | level, fuel + 1 =>
    match s.nodeCheck p va node with
    | some t => .error t
    | none =>
      let ea := node + 8 * nodeIndex va.toNat level
      if s.rangeBad ea 8 then .error (.at .poison va)
      else
        let e : Word := BitVec.ofNat 64 (ofBytes (s.bytesAs none ea 8))
        if e.getLsbD 0 = false then .error (.at .gfault va)
        else if e.getLsbD 1 then
          if leafFrame e % 2 ^ pageBits level = 0 then .ok (level, e) else .error (.at .gfault va)
        else if level = 2 then .error (.at .gfault va)
        else s.walkFrom p va (tableNode e) (level + 1) fuel

/-- The entry address of each level that a walk reads, for the retries of R477: a node that fails check 2 or 3 is not read, and
a poisoned entry leads to none. -/
def State.walkReads (s : State) (p : Part) (node : Nat) (va : Word) : Nat → Nat → List Nat
  | _, 0 => []
  | level, fuel + 1 =>
    let ea := node + 8 * nodeIndex va.toNat level
    let e : Word := BitVec.ofNat 64 (ofBytes (s.bytesAs none ea 8))
    if (s.nodeCheck p va node).isSome then []
    else if !s.rangeBad ea 8 && e.getLsbD 0 && !e.getLsbD 1 && level != 2 then
      ea :: s.walkReads p (tableNode e) va (level + 1) fuel
    else [ea]

/-- The root node of a partition (R376). -/
def Part.rootNode (p : Part) : Nat := p.ptroot.toNat / 2 ^ 15 % 2 ^ 37 * 2 ^ 15

/-- A walk from PTROOT (R381 checks 1-5). -/
def State.walk (s : State) (p : Part) (va : Word) : Except TrapInfo (Nat × Word) :=
  if p.ptroot.getLsbD 0 = false then .error (.at .gfault va) else s.walkFrom p va p.rootNode 0 3

/-- Whether a cached translation covers an address of an address space (R382). -/
def TEntry.covers (e : TEntry) (asid : BitVec 12) (va : Word) : Bool :=
  e.asid == asid && e.vpn == va.toNat / 2 ^ pageBits e.level

/-- The cached leaf of the core, else of its quad (R382). -/
def State.cachedLeaf (s : State) (c : Nat) (p : Part) (va : Word) : Option TEntry :=
  match (s.core c).tcache.find? (fun e => e.covers p.asid va) with
  | some e => some e
  | none => (s.quad (s.quadOf c)).tcache.find? (fun e => e.covers p.asid va)

/-- The physical address a leaf gives (R378). -/
def leafAddr (level : Nat) (leaf : Word) (va : Word) : Nat := leafFrame leaf + va.toNat % 2 ^ pageBits level

/-- Checks 7 and 8 of R381 on the bytes an access touches. -/
def Part.checkLeaf (p : Part) (sup : Bool) (va : Word) (n : Nat) (k : Access) (pa : Nat) (leaf : Word) : Option TrapInfo :=
  if !p.grants pa n || (leaf.getLsbD 59 && physRegion pa != .hbm) then some (.at .gprot va)
  else if (!sup && !leaf.getLsbD 5)
      || (match k with
          | .read => !leaf.getLsbD 2
          | .write => !leaf.getLsbD 3
          | .fetch => !leaf.getLsbD 4
          | .modify => !leaf.getLsbD 2 || !leaf.getLsbD 3) then some (.at .gprot va)
  else none

/-- Translate an access of n bytes that lies in one page, for a process of a partition on a core (R381). A cached leaf
has passed checks 1 to 6 (R382). -/
def State.xlate (s : State) (c : Nat) (p : Part) (sup : Bool) (va : Word) (n : Nat) (k : Access) :
    Except TrapInfo Xlated :=
  if va.toNat / 2 ^ 52 ≠ 0 then .error (.at .gprot va)
  else match s.cachedLeaf c p va with
    | some e =>
      let pa := leafAddr e.level e.leaf va
      match p.checkLeaf sup va n k pa e.leaf with
      | some t => .error t
      | none => .ok { pa := pa, level := e.level, leaf := e.leaf }
    | none =>
      match s.walk p va with
      | .error t => .error t
      | .ok (level, leaf) =>
        let pa := leafAddr level leaf va
        if s.regionFaults p (leafFrame leaf) then .error (.at .gfault va)
        else match p.checkLeaf sup va n k pa leaf with
          | some t => .error t
          | none => .ok { pa := pa, level := level, leaf := leaf }

/-- The key of an access to an address (19_trust.md R472). -/
def State.keyAt (s : State) (c : Nat) (p : Part) (va : Word) : Option Nat :=
  match s.cachedLeaf c p va with
  | some e => p.leafKey e.leaf
  | none => match s.walk p va with
    | .ok x => p.leafKey x.2
    | .error _ => none

/-- The level of the leaf that translates an address. -/
def State.levelAt (s : State) (c : Nat) (p : Part) (va : Word) : Nat :=
  match s.cachedLeaf c p va with
  | some e => e.level
  | none => match s.walk p va with
    | .ok x => x.1
    | .error _ => 2

/-- Remember a translation in the core's cache of 128 entries and its quad's of 2,048 (R382); the oldest entry leaves
a full cache (log 9). -/
def State.cacheXlate (s : State) (c : Nat) (p : Part) (va : Word) (x : Xlated) : State :=
  if (s.cachedLeaf c p va).isSome then s
  else
    let e : TEntry := { asid := p.asid, level := x.level, vpn := va.toNat / 2 ^ pageBits x.level, leaf := x.leaf }
    (s.updCore c (fun k => { k with tcache := (e :: k.tcache).take 128 })).updQuad (s.quadOf c)
      (fun q => { q with tcache := (e :: q.tcache).take 2048 })

/-- Whether a translated address is not to be reached: its die is offline (R296, R381), the host has bus mastering
disabled (18_host.md R446), or the link went down after the translation was cached (R458). -/
def State.memOff (s : State) (p : Part) (pa : Nat) : Bool :=
  match physRegion pa with
  | .hbm => s.offlineAt pa
  | .host => !s.host.busMaster
  | .peer d => !s.peerReachable p d
  | .none => false

/-! ### Walks (R383) -/

/-- The node reads of a walk. -/
def State.readNodes (s : State) (p : Part) (va : Word) : State :=
  if p.ptroot.getLsbD 0 then (s.walkReads p p.rootNode va 0 3).foldl (fun s a => s.noteRead (Via.of none p.num) a 8) s else s

/-- A walk of a page for a partition: checks 1 to 6, and the leaf that passes. -/
def State.walkLeaf (s : State) (p : Part) (va : Word) : Option (Nat × Word) :=
  if va.toNat / 2 ^ 52 ≠ 0 then none
  else match s.walk p va with
    | .error _ => none
    | .ok (level, leaf) => if s.regionFaults p (leafFrame leaf) then none else some (level, leaf)

/-- A piece of a row of a TPF is brought into the L2 under its hint, where the leaf allows the read (11_memory.md R305). -/
def State.prefetch (s : State) (p : Part) (level : Nat) (leaf : Word) (x : Prefetch) : State :=
  let pa := leafAddr level leaf x.va
  if (p.checkLeaf x.sup x.va x.n .read pa leaf).isNone && physRegion pa == .hbm && !s.memOff p pa then
    s.noteRead { key := p.leafKey leaf, payer := some p.num, hint := x.hint } pa x.n
  else s

/-- A pending walk ends: its nodes are read, a leaf is cached that passes every check of R381 for the access that missed, a
fault is not, and what waited for it takes its result. -/
def State.finishWalk (s : State) (quad : Nat) (w : Walk) : State :=
  let p := s.part w.part
  let va : Word := BitVec.ofNat 64 (w.page * 65536)
  let s1 := s.readNodes p va
  let s2 := s1.updQuad quad (fun q => { q with walks := q.walks.filter (fun x => x != w) })
  match s1.walkLeaf p va with
  | none => s2
  | some (level, leaf) =>
    let e : TEntry := { asid := p.asid, level := level, vpn := va.toNat / 2 ^ pageBits level, leaf := leaf }
    let s3 := match p.checkLeaf w.sup w.va w.n .read (leafAddr level leaf w.va) leaf with
      | some _ => s2
      | none => s2.updQuad quad (fun q => { q with tcache := (e :: q.tcache.filter (fun x => x != e)).take 2048 })
    w.rows.foldl (fun s x => s.prefetch p level leaf x) s3

/-- The oldest pending walks of a quad end until one of its 4 walkers is free. -/
def State.freeWalker (s : State) (quad : Nat) : State :=
  ((s.quad quad).walks.take ((s.quad quad).walks.length - 3)).foldl (fun s w => s.finishWalk quad w) s

/-- The walk of a miss (R383, R477): it waits in arrival order for a walker and reads its nodes, or joins the pending walk of
its page. -/
def State.noteWalk (s : State) (c : Nat) (p : Part) (va : Word) : State :=
  if (s.cachedLeaf c p va).isSome || va.toNat / 2 ^ 52 != 0 then s
  else
    let q := s.quadOf c
    let s1 := s.freeWalker q
    match (s1.quad q).walks.find? (fun w => w.part == p.num && w.page == va.toNat / 65536) with
    | some w => s1.finishWalk q w
    | none => if (s1.cachedLeaf c p va).isSome then s1 else s1.readNodes p va

/-- Split a byte range at 64 KiB boundaries, the smallest page (R378, R381). -/
def splitPages (va : Word) (n : Nat) : Nat → List (Word × Nat)
  | 0 => []
  | fuel + 1 =>
    let room := 65536 - va.toNat % 65536
    if n ≤ room then (if n = 0 then [] else [(va, n)])
    else (va, room) :: splitPages (va + BitVec.ofNat 64 room) (n - room) fuel

/-- A memory access across a page boundary goes piece by piece (R381). -/
def pieces (va : Word) (n : Nat) : List (Word × Nat) := splitPages va n (n / 65536 + 2)

/-- Translate every piece in order; the first failure decides. -/
def State.xlateAll (s : State) (c : Nat) (p : Part) (sup : Bool) (k : Access) :
    List (Word × Nat) → Except TrapInfo (List (Word × Nat × Nat))
  | [] => .ok []
  | (va, n) :: r =>
    match s.xlate c p sup va n k with
    | .error t => .error t
    | .ok x =>
      match s.xlateAll c p sup k r with
      | .error t => .error t
      | .ok l => .ok ((va, x.pa, n) :: l)

/-! ### The device's accesses to a supervisor's areas (R264, R321, R396) -/

/-- Translate an access of the device to an area of the partition's supervisor, with supervisor rights. -/
def State.areaXlate (s : State) (p : Part) (va : Word) (n : Nat) (k : Access) : Except TrapInfo Nat :=
  match s.xlate 0 p true va n k with
  | .error t => .error t
  | .ok x => if s.memOff p x.pa then .error (.at .memoff va) else .ok x.pa

/-- The pieces of an access of the device to an area: the state after their walks (R383), and where they lie. -/
def State.areaPieces (s : State) (p : Part) (va : Word) (n : Nat) (k : Access) :
    Except TrapInfo (State × List (Word × Nat × Nat)) :=
  match s.xlateAll 0 p true k (pieces va n) with
  | .error t => .error t
  | .ok l =>
    match l.find? (fun x => s.memOff p x.2.1) with
    | some x => .error (.at .memoff x.1)
    | none => .ok ((pieces va n).foldl (fun s x => s.noteWalk 0 p x.1) s, l)

/-- The device reads and changes n bytes of an area, inside one page, for a cell or an entry of its own (16_mesh.md R429): the
walk, the retries, what the L2 holds. -/
def State.touchOwn (s : State) (p : Part) (va : Word) (n : Nat) : State :=
  match s.areaXlate p va n .modify with
  | .ok pa => ((s.noteWalk 0 p va).noteRead (Via.of (s.keyAt 0 p va) p.num) pa n).holdOwn pa n
  | .error _ => s

/-- Bytes at an area address that may cross pages. -/
def State.areaPut (s : State) (p : Part) (va : Word) (bytes : List Byte) : Except TrapInfo State :=
  (s.areaPieces p va bytes.length .write).map fun (s1, l) =>
    (l.foldl (fun (acc : State × List Byte) x =>
      (acc.1.physPut (Via.of (s.keyAt 0 p x.1) p.num) x.2.1 (acc.2.take x.2.2), acc.2.drop x.2.2)) (s1, bytes)).1

/-- n zero bytes at an area address. -/
def State.areaZero (s : State) (p : Part) (va : Word) (n : Nat) : Except TrapInfo State :=
  (s.areaPieces p va n .write).map fun (s1, l) => l.foldl (fun t x => t.physZero (s.keyAt 0 p x.1) x.2.1 x.2.2) s1

/-- n bytes of an area that may cross pages, and the first bad byte among them. -/
def State.areaRead (s : State) (p : Part) (va : Word) (n : Nat) :
    Except TrapInfo (State × List Byte × Option (Word × Nat)) :=
  (s.areaPieces p va n .read).map fun (s0, l) =>
    let s1 := l.foldl (fun t x => t.noteRead (Via.of (s.keyAt 0 p x.1) p.num) x.2.1 x.2.2) s0
    (s1, l.flatMap (fun x => s1.bytesAs (s.keyAt 0 p x.1) x.2.1 x.2.2), l.findSome? (fun x => s.firstBad x.1 x.2.1 x.2.2))

/-- POISON at the first bad byte that the device reads of an area (19_trust.md R478). -/
def poisonAt (x : Word × Nat) : TrapInfo := { cause := .poison, addr := x.1, detail := 0, bad := some x.2 }

/-- Bytes that must all be good. -/
def allGood : Except TrapInfo (State × List Byte × Option (Word × Nat)) → Except TrapInfo (State × List Byte)
  | .error t => .error t
  | .ok (s, l, none) => .ok (s, l)
  | .ok (_, _, some x) => .error (poisonAt x)

/-- n bytes of an area, all good. -/
def State.areaGet (s : State) (p : Part) (va : Word) (n : Nat) : Except TrapInfo (State × List Byte) := allGood (s.areaRead p va n)

/-! ### The supervisor's own table and image, by physical address (18_host.md R452) -/

/-- MEMOFF where a byte of the range is homed on an offline die. -/
def State.physOff (s : State) (pa n : Nat) : Except TrapInfo Unit :=
  if s.offlineAt pa || s.offlineAt (pa + n - 1) then .error (.at .memoff (BitVec.ofNat 64 pa)) else .ok ()

/-- n bytes of a partition's first granted range, and the first bad byte among them; the address of a fault is the physical
one (log 65). -/
def State.ownRead (s : State) (p : Part) (pa n : Nat) : Except TrapInfo (State × List Byte × Option (Word × Nat)) :=
  (s.physOff pa n).map fun _ =>
    let s1 := s.noteRead (Via.of p.supKey p.num) pa n
    (s1, s1.bytesAs p.supKey pa n, s.firstBad (BitVec.ofNat 64 pa) pa n)

def State.ownGet (s : State) (p : Part) (pa n : Nat) : Except TrapInfo (State × List Byte) := allGood (s.ownRead p pa n)

def State.ownPut (s : State) (p : Part) (pa : Nat) (bytes : List Byte) : Except TrapInfo State :=
  (s.physOff pa bytes.length).map fun _ => s.physPut (Via.of p.supKey p.num) pa bytes

end Sys2Proof.Machine
end

