-- ==== Sys2Proof/Machine/Ops.lean ====
section
/-! DEFINITION. The named operations every meaning uses: scalar registers and retirement, run queues and parking, taking
a trap (15_traps.md R387-R394) and the return from one (RESUME, R404), and how a meaning ends. -/

namespace Sys2Proof.Machine

/-! ### Scalar registers and retirement (06_scalar.md R160, R161, 02_encoding.md R27) -/

/-- Read S[r]; S0 reads 0. -/
def Proc.rd (p : Proc) (r : SReg) : Word := if r = 0 then 0 else p.s[r]

/-- Write S[r]; a write to S0 is discarded. -/
def Proc.wr (p : Proc) (r : SReg) (v : Word) : Proc := if r = 0 then p else { p with s := p.s.set r v }

/-- S[r] of the context that executes. -/
def State.rd (s : State) (r : SReg) : Word := s.cur.rd r

/-- Write S[r] of the context that executes. -/
def State.wr (s : State) (r : SReg) (v : Word) : State := { s with cur := s.cur.wr r v }

/-- E[r] of the context that executes. -/
def State.rdE (s : State) (r : EReg) : Word32 := s.cur.e[r]
def State.wrE (s : State) (r : EReg) (v : Word32) : State := { s with cur := { s.cur with e := s.cur.e.set r v } }

/-- Sequential fetch: IP moves past an instruction of n bytes, modulo 2^64 (R27, R162). -/
def State.next (s : State) (n : Nat) : State := { s with cur := { s.cur with ip := s.cur.ip + BitVec.ofNat 64 n } }

/-- A control transfer. -/
def State.jump (s : State) (target : Word) : State := { s with cur := { s.cur with ip := target } }

/-- Scalar flags join FCSR, tile flags TCSR, at retirement (R97). -/
def State.joinF (s : State) (f : Flags) : State := { s with cur := { s.cur with fcsr := s.cur.fcsr ||| f.fcsr } }
def State.joinT (s : State) (f : Flags) : State := { s with cur := { s.cur with tcsr := s.cur.tcsr ||| f.tcsr } }

/-- The partition and the core of the context that executes. -/
def State.curPart (s : State) : Part := s.part s.cur.part
def State.curCore (s : State) : Nat := s.cur.core

/-! ### Host events (18_host.md R455) -/

/-- A saturating count of 8 bits. -/
def satInc (n : BitVec 8) : BitVec 8 := if n = 0xFF then n else n + 1

/-- Queue a host event: up to 64, later ones are dropped and counted; MSI-X is signalled from empty to nonempty. -/
def State.hostEvent (s : State) (kind : Nat) (words : List Word) : State :=
  let h := s.host
  if 64 ≤ h.events.length then { s with host := { h with dropped := satInc h.dropped } }
  else { s with host := { h with
          events := h.events ++ [{ kind := kind, words := words }]
          msix := if h.events.isEmpty then h.msix + 1 else h.msix } }

/-! ### Run queues (05_processes.md R126) -/

/-- Whether a debugger or a HALT keeps a process from issuing: halted and no step in force (15_traps.md R412). -/
def Proc.stopped (p : Proc) : Bool := p.halted && !p.stepping

/-- Whether a process may stand in a runnable list: parked, not blocked, not held; a parked halted process is held. -/
def Proc.queueable (p : Proc) : Bool :=
  p.place == .parked && p.wait == .none && !p.held && !p.faulted && !p.stopped

/-- Place a PID in a list ordered by priority, highest first, and by the time its process became runnable, earliest
first, after its equals (R126). -/
def State.insertRun (s : State) (pid : Pid) (prio : BitVec 6) (at_ : Word) : List Pid → List Pid
  | [] => [pid]
  | q :: r =>
    match s.proc? q with
    | some p =>
      if p.prio < prio || (p.prio == prio && decide ((s.cycle - p.runAt).toNat < (s.cycle - at_).toNat)) then pid :: q :: r
      else q :: s.insertRun pid prio at_ r
    | none => q :: s.insertRun pid prio at_ r

/-- A runnable parked process takes its place in its home core's runnable list, by the time it became runnable; a search
for work begins again (R127). -/
def State.rejoin (s : State) (pid : Pid) : State :=
  match s.proc? pid with
  | none => s
  | some p =>
    if p.queueable && !(s.core p.home).runq.contains pid then
      s.updCore p.home (fun k => { k with runq := s.insertRun pid p.prio p.runAt k.runq, retryAt := none })
    else s

/-- A process that becomes runnable while parked joins its home core's runnable list now (R126). -/
def State.enqueue (s : State) (pid : Pid) : State :=
  match s.proc? pid with
  | none => s
  | some p =>
    if p.queueable && !(s.core p.home).runq.contains pid then
      (s.updProc pid (fun p => { p with runAt := s.cycle })).rejoin pid
    else s

/-- A process leaves its home core's runnable list. -/
def State.dequeue (s : State) (pid : Pid) : State :=
  match s.proc? pid with
  | none => s
  | some p => s.updCore p.home (fun k => { k with runq := k.runq.filter (· != pid) })

/-- The wait of a process ends (R137): a resident process is runnable, a parked one joins its runnable list. -/
def State.wake (s : State) (pid : Pid) : State :=
  (s.updProc pid (fun p => { p with wait := .none, waitGen := p.waitGen + 1 })).enqueue pid

/-! ### Parking (R132) -/

/-- What an open region has done is undone (11_memory.md R312): registers, flags and IP as at its ALB. -/
def Proc.rollback (p : Proc) : Proc :=
  match p.region with
  | none => p
  | some r => { p with s := r.savedS, fcsr := r.savedF, ip := r.ip, region := none }

/-- What a park drops: the region, the unretired tile instructions, a stall. -/
def Proc.squash (p : Proc) : Proc := { p.rollback with rob := [], stall := .none }

/-- A slot becomes idle. -/
def State.freeSlot (s : State) (c slot : Nat) (pid : Pid) : State :=
  s.updCore c (fun k => { k with
    slots := if h : slot < 4 then k.slots.set slot none else k.slots
    unchosen := if h : slot < 4 then k.unchosen.set slot 0 else k.unchosen
    promoted := if h : slot < 4 then k.promoted.set slot false else k.promoted
    stlb := k.stlb.filter (fun e => e.pid != pid) })

/-- A process parks at its retirement boundary; its home becomes the core it was on, or that core's twin, and it joins the
runnable list there unless it is blocked or held. A parked or moving process only takes the held mark; an exiting one nothing
(R139). -/
def State.parkNow (s : State) (pid : Pid) (hold : Bool) : State :=
  match s.proc? pid with
  | none => s
  | some p =>
    match p.place with
    | .resident c slot =>
      ((s.updProc pid (fun p => { p.squash with
          place := .parked, home := s.homeAt c, ran := c, imageOk := false, held := p.held || hold })).freeSlot c slot pid).enqueue pid
    | .parked =>
      if hold then (s.dequeue pid).updProc pid (fun p => { p with held := true }) else s
    | .moving _ _ => if hold then s.updProc pid (fun p => { p with held := true }) else s
    | _ => s

/-- The core whose clock pause a process stands in (R413). -/
def State.pausedCore (s : State) (pid : Pid) : Option Nat :=
  (s.proc? pid).bind fun p => match p.place with
    | .resident c _ => if (s.core c).pause.isSome then some c else none
    | _ => none

/-- What reaches a core in a clock pause waits for its end. -/
def State.latchAt (s : State) (c : Nat) (l : Latched) : State :=
  s.updCore c (fun k => { k with pause := k.pause.map (fun x => { x with latched := x.latched ++ [l] }) })

/-- A park decision: in a clock pause of the core it is latched (R413). -/
def State.parkProc (s : State) (pid : Pid) (hold : Bool) : State :=
  match s.pausedCore pid with
  | some c => s.latchAt c (.park pid hold)
  | none => s.parkNow pid hold

/-- Writes of an operation that moves IP past n bytes and writes nothing else. -/
def Writes.step (n : Nat) : Writes := { n := n, s := [], e := [], fcsr := 0, tcsr := 0, alt := none }

/-- What follows an instruction has its value of a register ahead, up to the next instruction that writes it. -/
def settleRob (d : SReg) (v : Word) : List RobEntry → List RobEntry
  | [] => []
  | r :: rest =>
    if r.dest = some d then r :: rest
    else
      let r1 := if r.ahead.late.contains d then
          { r with ahead := { r.ahead with s := r.ahead.s.set d v, late := r.ahead.late.filter (· != d) } }
        else r
      r1 :: settleRob d v rest

/-- A page that an instruction has made is known by its place in the pool once that has retired. -/
def Proc.nameOf (p : Proc) (r : RobEntry) : PageName → PageName
  | .made op k =>
    if op = r.op then
      match r.group with
      | some g => if h : g.base.val + k < 32 then (match p.t[g.base.val + k] with | .pool id => .pool id | _ => .unnamed) else .unnamed
      | none => .unnamed
    else .made op k
  | x => x

/-- What is left behind an instruction that has retired: its register and its pages are known. -/
def Proc.robAfter (p : Proc) (r : RobEntry) (rest : List RobEntry) : List RobEntry :=
  let l := rest.map (fun x => { x with refs := x.refs.map (p.nameOf r) })
  match r.dest with
  | some d => settleRob d (p.rd d) l
  | none => l

/-- The oldest instruction, posted and waiting, retires. -/
def Proc.popRob (p : Proc) (ip : Word) : Proc :=
  match p.rob with
  | r :: rest => if r.ip = ip then { p with rob := p.robAfter r rest } else p
  | [] => p

/-- A context takes writes; the instruction that waited for them retires where IP moves. -/
def Proc.take (p : Proc) (w : Writes) : Proc :=
  let q := w.s.foldl (fun p x => { p.wr x.1 x.2 with rob := settleRob x.1 x.2 p.rob }) (if w.n = 0 then p else p.popRob p.ip)
  { q with
    ip := p.ip + BitVec.ofNat 64 w.n, e := w.e.foldl (fun e x => e.set x.1 x.2) p.e
    fcsr := p.fcsr ||| w.fcsr, tcsr := p.tcsr ||| w.tcsr, altLast := w.alt.getD p.altLast }

/-! ### Process records and the state a process starts in (R116, R153) -/

/-- The context of a process that has not run: entry, argument, moved endpoints. -/
def Rec.toProc (r : Rec) : Proc :=
  { Proc.absent with
    pid := r.pid, part := r.part, prio := r.prio, sup := r.sup
    s := (Vector.replicate 32 0).set 1 r.arg
    ip := r.entry
    e := r.moved ++ r.extra
    spSlot := r.spSlot, spDir := r.spDir, bmask := r.bmask, wmask := r.wmask, halted := r.halted, stepping := r.stepping, skipBp := r.skipBp
    join := r.join, place := .parked, home := r.origin, ran := r.origin, imageOk := false }

/-- A stolen record on its way to a core (R127). -/
def Core.inFlight (k : Core) : List Rec :=
  match k.steal with
  | some st => match st.answer with
    | some (some r) => [r]
    | _ => []
  | none => []

/-- The records of a core's deque: spilled, held outside, in hardware (R118, R148). -/
def Core.held (k : Core) : List Rec := k.spilled ++ k.hold ++ k.deque

/-- Every record at a core: its deque's, and a stolen one on its way to it. -/
def Core.records (k : Core) : List Rec := k.held ++ k.inFlight

/-- Every record at a core changed. -/
def Core.mapRecs (k : Core) (f : Rec → Rec) : Core :=
  { k with
    deque := k.deque.map f, spilled := k.spilled.map f, hold := k.hold.map f
    steal := k.steal.map (fun st => { st with answer := st.answer.map (fun a => a.map f) }) }

/-- Only the records that pass a test stay at a core; a steal whose record goes is answered EMPTY. -/
def Core.keepRecs (k : Core) (f : Rec → Bool) : Core :=
  { k with
    deque := k.deque.filter f, spilled := k.spilled.filter f, hold := k.hold.filter f
    steal := k.steal.map (fun st => { st with answer := st.answer.map (fun a => a.filter f) }) }

/-- A record in the device's own hold moves into a hardware entry as soon as one is free (R148). -/
def Core.settleHold (k : Core) : Core :=
  { k with deque := k.deque ++ k.hold.take (64 - k.deque.length), hold := k.hold.drop (64 - k.deque.length) }

/-- A record leaves a core. -/
def Core.without (k : Core) (pid : Pid) : Core := (k.keepRecs (fun x => x.pid != pid)).settleHold

/-- The core and the record of a queued process. -/
def State.queued? (s : State) (pid : Pid) : Option (Nat × Rec) :=
  ((List.range 90).flatMap (fun c => ((s.core c).records.filter (fun r => r.pid == pid)).map (fun r => (c, r)))).head?

/-- The record of a queued process changes. -/
def State.updRec (s : State) (pid : Pid) (f : Rec → Rec) : State :=
  { s with cores := s.cores.map (fun (k : Core) => k.mapRecs (fun r => if r.pid = pid then f r else r)) }

/-- A process, a queued one as it would start (R153). -/
def State.space? (s : State) (pid : Pid) : Option Proc :=
  match s.proc? pid with
  | some p => some p
  | none => (s.queued? pid).map (fun x => { x.2.toProc with home := x.1 })

/-! ### Reading a spilled record back (R117, R120) -/

/-- What reading a record back finds. -/
inductive Refill where
  | ok
  | faulted
  | broken
  deriving DecidableEq, Repr

/-- Where a spilled record lies, and the key of an access to it. -/
def State.spillAt (s : State) (r : Rec) : Except TrapInfo (Nat × Option Nat) :=
  (s.areaXlate (s.part r.part) r.spillVa 64 .read).map (fun pa => (pa, s.keyAt 0 (s.part r.part) r.spillVa))

/-- Whether a record can be read back: through its partition's address space; the seal covers the bytes the device wrote
there, so any change of them breaks it (R117), and poison does. -/
def State.sealCheck (s : State) (r : Rec) : Refill :=
  match r.spill with
  | none => .ok
  | some _ =>
    match s.spillAt r with
    | .error _ => .faulted
    | .ok (pa, key) => if s.rangeBad pa 64 || s.bytesAs key pa 64 != r.sealed then .broken else .ok

/-- The L2 holds the sectors of a record that is read back (16_mesh.md R429). -/
def State.fillSpill (s : State) (r : Rec) : State :=
  match r.spill, s.spillAt r with
  | some _, .ok (pa, key) => s.fillL2 (Via.of key r.part) pa 64
  | _, _ => s

/-- A record is read back. -/
def State.refill (s : State) (r : Rec) : State × Refill :=
  match r.spill, s.spillAt r with
  | some _, .ok (pa, key) =>
    let t := (s.noteWalk 0 (s.part r.part) r.spillVa).noteRead (Via.of key r.part) pa 64
    (t, t.sealCheck r)
  | _, _ => (s, s.sealCheck r)

/-- The segment of a record whose refill faulted counts as empty from then on (R120). -/
def State.segmentOff (s : State) (c : Nat) (r : Rec) : State :=
  s.updCore c (fun k => { k with spillOff := (r.part, r.seg) :: k.spillOff })

/-- A queued process leaves its deque and becomes parked (R404). -/
def State.unqueue (s : State) (c : Nat) (r : Rec) : State :=
  let s1 := s.updCore c (fun k => k.without r.pid)
  { s1 with procs := { r.toProc with home := s.homeAt c } :: s1.procs }

/-! ### Trap records (15_traps.md R392, R393) -/

def Cause.code : Cause → BitVec 8
  | .illegal => 0x01 | .privilege => 0x02 | .misalign => 0x03 | .gfault => 0x04 | .gprot => 0x05 | .spfault => 0x06
  | .spprot => 0x07 | .poison => 0x08 | .memoff => 0x09 | .chclosed => 0x0A | .chmismatch => 0x0B | .endpoint => 0x0C
  | .deadlock => 0x0D | .brk => 0x0E | .watch => 0x0F | .trapi => 0x10 | .atomic => 0x11 | .migfail => 0x12

/-- The two words of the retry latch (R313). -/
def Latch.word0 (l : Latch) : Word :=
  BitVec.ofNat 64 (bit l.sent * 2 ^ 63 + bit l.done * 2 ^ 62 + l.kind.toNat * 2 ^ 60 + l.stop.toNat * 2 ^ 58
    + l.addr.toNat)

def Latch.word1 (l : Latch) : Word := l.rows

/-- The record of a trap of a process, decided now; its IP is the retirement boundary the context stops at. -/
def State.recordOf (s : State) (p : Proc) (t : TrapInfo) (iw0 iw1 : Word32) : Record :=
  { lost := 0, cause := t.cause, part := p.part, pid := p.pid, ip := p.rollback.ip, addr := t.addr, iw0 := iw0,
    iw1 := iw1, latch0 := p.latch.word0, latch1 := p.latch.word1, cycle := s.cycle, lcore := p.core,
    detail := t.detail, report := [] }

/-- The 64 words of a record (R392); a deadlock report takes words 2 to 34. -/
def Record.words (r : Record) : List Word :=
  let w0 := BitVec.ofNat 64 (r.lost.toNat * 2 ^ 56 + (Cause.code r.cause).toNat * 2 ^ 48 + r.part % 2 ^ 16 * 2 ^ 32 + r.pid.toNat)
  let body :=
    if r.cause = .deadlock then [w0, r.ip] ++ r.report
    else [w0, r.ip, r.addr, BitVec.ofNat 64 (r.iw1.toNat * 2 ^ 32 + r.iw0.toNat), r.latch0, r.latch1, r.cycle,
      BitVec.ofNat 64 (r.lcore % 2 ^ 8 * 2 ^ 40 + r.detail.toNat)]
  body ++ List.replicate (64 - body.length) 0

/-- Whether a record goes after another that is made now: it was made in the same cycle and its PID is greater (R390,
log 18). -/
def Record.after (r : Record) (cycle : Word) (pid : Pid) : Bool := r.cycle == cycle && decide (pid < r.pid)

/-- A record takes its place in the order of delivery: after those made before it, and records made in one cycle in
ascending PID order. new is the information record, none for a trap record, which its process keeps. -/
def State.placeRecord (s : State) (x : Sum Pid Nat) (cycle : Word) (pid : Pid) (new : Option Record) :
    List (Sum Pid Nat) → List Record → List (Sum Pid Nat) × List Record
  | [], is => ([x], is ++ new.toList)
  | .inl q :: r, is =>
    if (((s.proc? q).bind Proc.record).map (fun y => y.after cycle pid)).getD false then
      (x :: .inl q :: r, new.toList ++ is)
    else
      let t := s.placeRecord x cycle pid new r is
      (.inl q :: t.1, t.2)
  | .inr n :: r, i :: is =>
    if i.after cycle pid then (x :: .inr n :: r, new.toList ++ i :: is)
    else
      let t := s.placeRecord x cycle pid new r is
      (.inr n :: t.1, i :: t.2)
  | .inr n :: r, [] =>
    let t := s.placeRecord x cycle pid new r []
    (.inr n :: t.1, t.2)

/-- An information record (R390): 64 places; a record that finds none is counted, and the count goes with the next
one that finds a place. -/
def State.infoRecord (s : State) (part : Nat) (r : Record) : State :=
  s.updPart part (fun q =>
    if 64 ≤ q.infos.length then { q with lost := satInc q.lost }
    else
      let l := s.placeRecord (.inr q.infoSeq) r.cycle r.pid (some { r with lost := q.lost }) q.order q.infos
      { q with infos := l.2, order := l.1, infoSeq := q.infoSeq + 1, lost := 0 })

/-- The information a process gives a record of its own: cause, address, detail; words 0 (R392). -/
def State.infoOf (s : State) (p : Proc) (t : TrapInfo) : Record := { s.recordOf p t 0 0 with ip := p.rollback.ip }

/-! ### Taking a trap (R387, R394) -/

/-- A queued process of a partition that has ended leaves its deque; where its segment faults it stays there, and a broken seal
is found again when it is next taken, which discards it (R117). -/
def State.unqueueEnded (s : State) (c : Nat) (r : Rec) : State :=
  match s.sealCheck r with
  | .ok => (s.fillSpill r).unqueue c r
  | .faulted => s.segmentOff c r
  | .broken => s.updRec r.pid (fun x => { x with sealed := [] })

/-- Every process of a partition parks held, queued ones included (R394, R395); keep names one that does not. -/
def State.parkAll (s : State) (part : Nat) (keep : Pid) : State :=
  let s1 := (List.range 90).foldl (fun s c =>
    ((s.core c).records.filter (fun r => r.part == part && r.pid != keep)).foldl (fun s r => s.unqueueEnded c r) s) s
  (s1.allProcs.filter (fun p => p.part == part && p.pid != keep)).foldl (fun s p => s.parkProc p.pid true) s1

/-- A trap of the supervisor, or of an area it provides, ends its partition (R394): every process parks held, no
record is delivered any more, the record goes to the host port as event 1. -/
def State.fatal (s : State) (part : Nat) (r : Record) : State :=
  let s1 := (s.parkAll part 0).updPart part (fun q => { q with ended := true })
  ((match (s.part part).sup with
    | some sup => s1.updProc sup (fun p => { p with faulted := true })
    | none => s1)).hostEvent 1 (r.words.take 63)

/-- Whether a trap that meets a process is void: it is exiting (05_processes.md R139), or faulted already (R114, log 69). -/
def Proc.trapVoid (p : Proc) : Bool := p.isExiting || p.faulted

/-- A trap of any process, with the instruction words its record shows and the cycle in which it was decided: the
process parks, faulted and held, and its record waits for the supervisor. -/
def State.trapNow (s : State) (pid : Pid) (t : TrapInfo) (iw0 iw1 : Word32) (cycle : Word) : State :=
  match s.proc? pid with
  | none => s
  | some p =>
    let r := { s.recordOf p t iw0 iw1 with cycle := cycle }
    if p.trapVoid then s
    else if p.sup then s.fatal p.part r
    else
      (((s.parkNow pid true).dequeue pid).updProc pid (fun p => { p with faulted := true, held := true, stepping := false, record := some r })).updPart
        p.part (fun q => { q with order := (s.placeRecord (.inl pid) cycle pid none q.order q.infos).1 })

/-- A trap that reaches a process: in a clock pause of its core it is latched (R413). -/
def State.trapProc (s : State) (pid : Pid) (t : TrapInfo) (iw0 iw1 : Word32) : State :=
  match s.pausedCore pid with
  | some c => s.latchAt c (.trap pid t.cause t.addr t.detail iw0 iw1 s.cycle)
  | none => s.trapNow pid t iw0 iw1 s.cycle

/-- The instruction that executes takes a trap. -/
def State.takeTrap (s : State) (t : TrapInfo) : State := s.trapNow s.cur.pid t s.cur.iw0 s.cur.iw1 s.cycle

/-- The retry and the mark of poison that an access of the device to an area has met (19_trust.md R477): in the area, or in a
node of the walk to it. -/
def State.noteArea (s : State) (part : Nat) (t : TrapInfo) : State :=
  match t.bad with
  | some pa => s.readRange pa 1
  | none => if t.cause = .poison then s.noteWalk 0 (s.part part) t.addr else s

/-- The device's access to an area of a partition's supervisor failed (R264, R321, R394). -/
def State.areaFault (s : State) (part : Nat) (t : TrapInfo) : State :=
  match (s.part part).sup.bind s.space? with
  | none => s
  | some p =>
    let s1 := s.noteArea part t
    if p.trapVoid then s1 else s1.fatal part (s.recordOf p { t with bad := none } 0 0)

/-- RESUME of a process (R404, R387): the marks are cleared, a pending record is discarded, and the process joins its
runnable list, at once or when its image completes (05_processes.md R139). -/
def State.resumeProc (s : State) (pid : Pid) : State :=
  match s.proc? pid with
  | none => s
  | some p =>
    if p.held || p.faulted || (p.halted && p.place == .parked) then
      let s1 := (s.updProc pid (fun p => { p with
          held := false, faulted := false, halted := false, haltOp := false, stepping := false, record := none, pagerStop := none })).updPart
        p.part (fun q => { q with order := q.order.filter (· != .inl pid) })
      if p.imageOk then s1.enqueue pid else s1
    else s

/-! ### How a meaning ends -/

/-- Why an instruction does not retire: it traps, an area of the supervisor faults, or the context stalls (R129). -/
inductive Halt where
  | trap (t : TrapInfo)
  | area (t : TrapInfo)
  | stall (k : Stall)
  deriving DecidableEq, Repr

/-- The state after an instruction that may not retire. -/
def State.halt (s : State) : Halt → State
  | .trap t => s.takeTrap t
  | .area t => s.areaFault s.cur.part t
  | .stall (.pageIn v) => { s with cur := { s.cur with
      stall := .pageIn v, pageIns := if s.cur.pageIns.contains v then s.cur.pageIns else s.cur.pageIns ++ [v] } }
  | .stall k => { s with cur := { s.cur with stall := k } }

/-- The outcome of an instruction: its state, or what stops it. -/
def State.finish (s : State) : Except Halt State → Host.Outcome State Fault Refusal
  | .ok t => .next t
  | .error h => .next (s.halt h)

/-- A check that raises a trap. -/
def trapIf (b : Bool) (c : Cause) (a : Word) : Except Halt Unit := if b then .error (.trap (.at c a)) else .ok ()

/-- A trap of a check, as a halt. -/
def asTrap {α : Type} : Except TrapInfo α → Except Halt α
  | .ok a => .ok a
  | .error t => .error (.trap t)

/-- A fault of a supervisor's area, as a halt. -/
def asArea {α : Type} : Except TrapInfo α → Except Halt α
  | .ok a => .ok a
  | .error t => .error (.area t)

/-- PRIVILEGE where a user-mode process retires a supervisor form (02_encoding.md R40). -/
def State.needSup (s : State) : Except Halt Unit := trapIf (!s.cur.sup) .privilege 0

/-- An event: what it does, nothing in a state in which it does not occur (log 59). -/
def State.occur (s : State) (o : Option State) : Host.Outcome State Fault Refusal := .next (o.getD s)

/-! ### Watchpoints (R410, R411) -/

/-- The watchpoint of the executing context that an access of the bytes lo to hi touches in a direction it watches. -/
def State.watchHit (s : State) (lo hi : Nat) (load store : Bool) : Option Nat :=
  (List.range 2).find? fun n =>
    let w := if n = 0 then s.curPart.dwp[0] else s.curPart.dwp[1]
    let u := w.toNat / 8 % 2 ^ 49 * 8
    s.cur.wmask.getLsbD n && ((load && w.getLsbD 1) || (store && w.getLsbD 0)) && decide (lo ≤ u + 7) && decide (u ≤ hi)

/-- WATCH, the last of an instruction's causes. -/
def State.watch (s : State) (lo hi : Nat) (load store : Bool) (addr : Word) : Except Halt Unit :=
  match s.watchHit lo hi load store with
  | some n => .error (.trap { cause := .watch, addr := addr, detail := BitVec.ofNat 40 n })
  | none => .ok ()

/-- WATCH on a scalar access of n bytes. -/
def State.watchAt (s : State) (x : Word) (n : Nat) (load store : Bool) : Except Halt Unit :=
  s.watch x.toNat (x.toNat + n - 1) load store x

end Sys2Proof.Machine
end

