-- ==== Sys2Proof/Machine/Numeric.lean ====
section
/-! DEFINITION. Number formats and exact arithmetic (04_numbers.md): decoding of elements, exact values, one rounding,
conversion, exact sums, SX9 scales. -/

namespace Sys2Proof

/-! ### Types (R75, R76) -/

/-- Bits per element. -/
def Ty.bits : Ty → Nat
  | .f32 | .i32 | .n32 => 32
  | .bf16 | .f16 | .i16 | .n16 => 16
  | .e4m3 | .e5m2 | .i8 | .n8 => 8
  | .e2m1 | .i4 | .n4 => 4
  | .b1 => 1

/-- The type code. -/
def Ty.code : Ty → BitVec 4
  | .f32 => 0 | .bf16 => 1 | .f16 => 2 | .e4m3 => 3 | .e5m2 => 4 | .e2m1 => 5 | .i32 => 6 | .i16 => 7 | .i8 => 8
  | .i4 => 9 | .n32 => 10 | .n16 => 11 | .n8 => 12 | .n4 => 13 | .b1 => 14

def Ty.isFloat : Ty → Bool
  | .f32 | .bf16 | .f16 | .e4m3 | .e5m2 | .e2m1 => true
  | _ => false

def Ty.isSigned : Ty → Bool
  | .i32 | .i16 | .i8 | .i4 => true
  | _ => false

/-- Elements per 64-byte page row (R75). -/
def Ty.perRow (t : Ty) : Nat := 512 / t.bits

/-- Blocks per page row (R82). -/
def Ty.blocks : Ty → Nat
  | .f32 | .i32 | .n32 | .bf16 | .f16 | .i16 | .n16 => 1
  | .e4m3 | .e5m2 | .i8 | .n8 => 2
  | .e2m1 | .i4 | .n4 => 4
  | .b1 => 0

/-- Mantissa bits, bias and the largest finite magnitude m * 2^e of a float type (R76). -/
structure Format where
  man  : Nat
  bias : Nat
  maxM : Nat
  maxE : Int
  deriving DecidableEq, Repr

def Ty.format : Ty → Format
  | .bf16 => { man := 7, bias := 127, maxM := 255, maxE := 120 }
  | .f16 => { man := 10, bias := 15, maxM := 2047, maxE := 5 }
  | .e4m3 => { man := 3, bias := 7, maxM := 14, maxE := 5 }
  | .e5m2 => { man := 2, bias := 15, maxM := 7, maxE := 13 }
  | .e2m1 => { man := 1, bias := 1, maxM := 3, maxE := 1 }
  | _ => { man := 23, bias := 127, maxM := 16777215, maxE := 104 }

/-- The canonical NaN (R78); E2M1 has none and writes +0 (R89). -/
def Ty.nan : Ty → Nat
  | .bf16 => 0x7FC0
  | .f16 => 0x7E00
  | .e4m3 => 0x7F
  | .e5m2 => 0x7E
  | .e2m1 => 0
  | _ => 0x7FC00000

/-- The encoding of an infinity; E4M3 and E2M1 have none. -/
def Ty.inf (t : Ty) (neg : Bool) : Nat :=
  (if neg then 2 ^ (t.bits - 1) else 0) +
  match t with
  | .bf16 => 0x7F80
  | .f16 => 0x7C00
  | .e5m2 => 0x7C
  | _ => 0x7F800000

def Ty.hasInf : Ty → Bool
  | .e4m3 | .e2m1 => false
  | _ => true

/-- The encoding of the largest finite magnitude. -/
def Ty.maxFinite (t : Ty) (neg : Bool) : Nat :=
  (if neg then 2 ^ (t.bits - 1) else 0) +
  match t with
  | .bf16 => 0x7F7F
  | .f16 => 0x7BFF
  | .e4m3 => 0x7E
  | .e5m2 => 0x7B
  | .e2m1 => 7
  | _ => 0x7F7FFFFF

/-- The range of an integer type (R75). -/
def Ty.lo (t : Ty) : Int := if t.isSigned then -(2 ^ (t.bits - 1) : Nat) else 0
def Ty.hi (t : Ty) : Int := if t.isSigned then ((2 ^ (t.bits - 1) : Nat) : Int) - 1 else ((2 ^ t.bits : Nat) : Int) - 1

end Sys2Proof

namespace Sys2Proof.Machine

/-! ### Exact values -/

/-- An exact result before its rounding. nan says whether making it was invalid; inf whether it came from finite
operands (R96); num is the sign, the magnitude m * 2^e, and whether the true magnitude lies strictly between m and
m + 1 units of 2^e. -/
inductive Exact where
  | nan (invalid : Bool)
  | inf (neg divzero : Bool)
  | num (neg : Bool) (m : Nat) (e : Int) (sticky : Bool)
  deriving DecidableEq, Repr

def Exact.zero (neg : Bool) : Exact := .num neg 0 0 false

/-- A whole number. -/
def Exact.int (i : Int) : Exact := .num (decide (i < 0)) i.natAbs 0 false

/-- A signed dyadic number i * 2^e with the sign a zero takes. -/
def Exact.dyadic (i e : Int) (zeroNeg : Bool) : Exact :=
  if i = 0 then Exact.zero zeroNeg else .num (decide (i < 0)) i.natAbs e false

def Exact.isNan : Exact → Bool
  | .nan _ => true
  | _ => false

def Exact.isInf : Exact → Bool
  | .inf _ _ => true
  | _ => false

def Exact.isZero : Exact → Bool
  | .num _ m _ st => m == 0 && !st
  | _ => false

def Exact.neg? : Exact → Bool
  | .nan _ => false
  | .inf n _ => n
  | .num n _ _ _ => n

/-- The value of an element's encoding (R75, R76). -/
def elemValue (t : Ty) (raw : Nat) : Exact :=
  if t.isFloat then
    let f := t.format
    let neg := raw / 2 ^ (t.bits - 1) % 2 == 1
    let eb := t.bits - 1 - f.man
    let ex := raw / 2 ^ f.man % 2 ^ eb
    let m := raw % 2 ^ f.man
    if t == .e4m3 && ex == 15 && m == 7 then .nan false
    else if t.hasInf && ex == 2 ^ eb - 1 then (if m = 0 then .inf neg false else .nan false)
    else if ex = 0 then .num neg m (1 - (f.bias : Int) - f.man) false
    else .num neg (2 ^ f.man + m) ((ex : Int) - f.bias - f.man) false
  else if t.isSigned && raw / 2 ^ (t.bits - 1) % 2 == 1 then Exact.int ((raw % 2 ^ t.bits : Nat) - (2 ^ t.bits : Nat) : Int)
  else Exact.int (raw % 2 ^ t.bits : Nat)

/-- Change the sign. -/
def Exact.negate : Exact → Exact
  | .nan i => .nan i
  | .inf n d => .inf (!n) d
  | .num n m e s => .num (!n) m e s

/-- The magnitude. -/
def Exact.abs : Exact → Exact
  | .nan i => .nan i
  | .inf _ d => .inf false d
  | .num _ m e s => .num false m e s

/-! ### Rounding (R85-R89) -/

/-- Round the magnitude m * 2^e (with its sticky part) to a multiple of 2^q: the multiple, and whether it differs. -/
def roundMag (rnd : Rnd) (neg : Bool) (m : Nat) (e : Int) (sticky : Bool) (q : Int) : Nat × Bool :=
  if q ≤ e then (m * 2 ^ (e - q).toNat, sticky)
  else
    let sh := (q - e).toNat
    let k := m / 2 ^ sh
    let r := m % 2 ^ sh
    let half := 2 ^ (sh - 1)
    let inexact := r != 0 || sticky
    let up := match rnd with
      | .rne => decide (half < r) || (r == half && (sticky || k % 2 == 1))
      | .rna => decide (half ≤ r)
      | .rtz => false
      | .rdn => neg && inexact
      | .rup => !neg && inexact
    (if up then k + 1 else k, inexact)

/-- What an overflow delivers with SAT = 0 (R87): whether it is the infinity. -/
def overflowsToInf (rnd : Rnd) (neg : Bool) : Bool :=
  match rnd with
  | .rne | .rna => true
  | .rtz => false
  | .rdn => neg
  | .rup => !neg

/-- Whether r * 2^q exceeds the largest finite magnitude. -/
def exceedsMax (f : Format) (r : Nat) (q : Int) : Bool :=
  if f.maxE ≤ q then decide (f.maxM < r * 2 ^ (q - f.maxE).toNat) else decide (f.maxM * 2 ^ (f.maxE - q).toNat < r)

/-- round(x, type, RND, SAT) into a float type (R86-R89): the encoding and the flags. -/
def roundFloat (t : Ty) (rnd : Rnd) (sat0 : Bool) (x : Exact) : Nat × Flags :=
  let sat := sat0 || t == .e2m1
  match x with
  | .nan inv => (t.nan, { invalid := inv || t == .e2m1 })
  | .inf neg dz =>
    if sat then (t.maxFinite neg, { saturated := true, divzero := dz })
    else if t.hasInf then (t.inf neg, { divzero := dz })
    else (t.nan, { overflow := true })
  | .num neg m e sticky =>
    let sgn := if neg then 2 ^ (t.bits - 1) else 0
    if m = 0 ∧ sticky = false then (sgn, Flags.none)
    else
      let f := t.format
      let emin : Int := 1 - (f.bias : Int)
      let lg : Int := (Nat.log2 m : Int) + e
      let qn := lg - f.man
      let unb := (roundMag rnd neg m e sticky qn).1
      let tiny := decide (qn + (Nat.log2 unb : Int) < emin)
      let q := if qn < emin - f.man then emin - f.man else qn
      let (r, inexact) := roundMag rnd neg m e sticky q
      if exceedsMax f r q then
        if sat then (t.maxFinite neg, { saturated := true, inexact := true })
        else if !t.hasInf then
          (if overflowsToInf rnd neg then t.nan else t.maxFinite neg, { overflow := true, inexact := true })
        else (if overflowsToInf rnd neg then t.inf neg else t.maxFinite neg, { overflow := true, inexact := true })
      else
        let enc := if r < 2 ^ f.man then r else (q + f.man + f.bias).toNat * 2 ^ f.man + (r - 2 ^ f.man)
        (sgn + enc, { underflow := tiny && inexact, inexact := inexact })

/-- Round an exact number to an integer by RND. -/
def roundInt (rnd : Rnd) (neg : Bool) (m : Nat) (e : Int) (sticky : Bool) : Int × Bool :=
  let (k, inexact) := roundMag rnd neg m e sticky 0
  (if neg then -(k : Int) else k, inexact)

/-- Conversion of a float value to an integer range: always clamps (R92). -/
def toIntRange (lo hi : Int) (rnd : Rnd) (x : Exact) : Int × Flags :=
  match x with
  | .nan _ => (0, { invalid := true })
  | .inf neg _ => (if neg then lo else hi, { invalid := true, saturated := true })
  | .num neg m e sticky =>
    let (i, inexact) := roundInt rnd neg m e sticky
    if i < lo then (lo, { invalid := true, saturated := true })
    else if hi < i then (hi, { invalid := true, saturated := true })
    else (i, { inexact := inexact })

/-- An integer as the low bits of an encoding. -/
def wrapBits (bits : Nat) (i : Int) : Nat := (i % ((2 ^ bits : Nat) : Int)).toNat

/-- An exact integer into an integer type: wraps, or with SAT = 1 clamps and sets saturated (R79, R93, R104). -/
def intToInt (t : Ty) (sat : Bool) (i : Int) : Nat × Flags :=
  if !sat then (wrapBits t.bits i, Flags.none)
  else if i < t.lo then (wrapBits t.bits t.lo, { saturated := true })
  else if t.hi < i then (wrapBits t.bits t.hi, { saturated := true })
  else (wrapBits t.bits i, Flags.none)

/-- The integer an exact integer value is. -/
def Exact.toInt : Exact → Int
  | .num neg m e _ => let k := m * 2 ^ e.toNat; if neg then -(k : Int) else k
  | _ => 0

/-- An exact result of operands of type ti, converted once to an element of type to (R79, R86-R94, R239). -/
def Exact.toElem (ti out : Ty) (rnd : Rnd) (sat : Bool) (x : Exact) : Nat × Flags :=
  if out.isFloat then roundFloat out rnd sat x
  else if ti.isFloat then
    let (i, f) := toIntRange out.lo out.hi rnd x
    (wrapBits out.bits i, f)
  else intToInt out sat x.toInt

/-! ### Exact operations -/

/-- Bring two dyadic numbers to one exponent and add. -/
def dyAdd (m1 : Int) (e1 : Int) (m2 : Int) (e2 : Int) : Int × Int :=
  if e1 ≤ e2 then (m1 + m2 * ((2 ^ (e2 - e1).toNat : Nat) : Int), e1)
  else (m1 * ((2 ^ (e1 - e2).toNat : Nat) : Int) + m2, e2)

def signed (neg : Bool) (m : Nat) : Int := if neg then -(m : Int) else m

/-- An exact product: 0 times an infinity is invalid (R101, R182). -/
def Exact.mul (x y : Exact) : Exact :=
  match x, y with
  | .nan i, .nan j => .nan (i || j)
  | .nan i, _ => .nan i
  | _, .nan j => .nan j
  | .inf n _, .inf k _ => .inf (n != k) false
  | .inf n _, .num k m _ st => if m = 0 ∧ st = false then .nan true else .inf (n != k) false
  | .num k m _ st, .inf n _ => if m = 0 ∧ st = false then .nan true else .inf (n != k) false
  | .num n m e _, .num k l f _ => if m * l = 0 then Exact.zero (n != k) else .num (n != k) (m * l) (e + f) false

/-- The IEEE sum of two values (R181): zeros of one sign keep it, a cancellation is +0, or -0 under RDN. A NaN made by
an operand keeps the invalid its making raised. -/
def Exact.add (rnd : Rnd) (x y : Exact) : Exact :=
  match x, y with
  | .nan i, .nan j => .nan (i || j)
  | .nan i, _ => .nan i
  | _, .nan j => .nan j
  | .inf n _, .inf k _ => if n = k then .inf n false else .nan true
  | .inf n _, _ => .inf n false
  | _, .inf k _ => .inf k false
  | .num n m e _, .num k l f _ =>
    let (i, g) := dyAdd (signed n m) e (signed k l) f
    Exact.dyadic i g (if m = 0 ∧ l = 0 ∧ n = k then n else rnd == .rdn)

def Exact.isPosInf : Exact → Bool
  | .inf false _ => true
  | _ => false

def Exact.isNegInf : Exact → Bool
  | .inf true _ => true
  | _ => false

def Exact.madeInvalid : Exact → Bool
  | .nan i => i
  | _ => false

/-- The dyadic sum of the numbers of a list. -/
def sumDyadic : List Exact → Int → Int → Int × Int
  | [], i, e => (i, e)
  | .num n m f _ :: r, i, e =>
    if m = 0 then sumDyadic r i e
    else let p := if i = 0 then (signed n m, f) else dyAdd i e (signed n m) f; sumDyadic r p.1 p.2
  | _ :: r, i, e => sumDyadic r i e

/-- exactsum (R101, R102): NaN terms, opposite infinities, infinities, and the sign of a zero sum. -/
def exactSum (l : List Exact) : Exact :=
  let clash := l.any Exact.isPosInf && l.any Exact.isNegInf
  if l.any Exact.isNan || clash then .nan (clash || l.any Exact.madeInvalid)
  else if l.any Exact.isPosInf then .inf false false
  else if l.any Exact.isNegInf then .inf true false
  else
    let p := sumDyadic l 0 0
    Exact.dyadic p.1 p.2 (l.all (fun x => x.isZero && x.neg?))

/-- Compare two values, zeros equal. Only for values that are not NaN. -/
def Exact.lt (x y : Exact) : Bool :=
  match x, y with
  | .inf n _, .inf k _ => n && !k
  | .inf n _, _ => n
  | _, .inf k _ => !k
  | .num n m e _, .num k l f _ =>
    let d := (dyAdd (signed n m) e (-(signed k l)) f).1
    decide (d < 0)
  | _, _ => false

/-- The order of minimum and maximum, -0 below +0 (R90). -/
def Exact.below (x y : Exact) : Bool :=
  x.lt y || (!y.lt x && x.isZero && y.isZero && x.neg? && !y.neg?)

/-- Minimum and maximum (R90): a NaN gives NaN and no flag. -/
def Exact.min (x y : Exact) : Exact :=
  if x.isNan || y.isNan then .nan false else if y.below x then y else x

def Exact.max (x y : Exact) : Exact :=
  if x.isNan || y.isNan then .nan false else if x.below y then y else x

/-- A quotient of positive whole numbers with at least 64 significant bits: value, exponent, sticky. -/
def quotient (a b : Nat) : Nat × Int × Bool :=
  let k := 66 + Nat.log2 b
  let n := a * 2 ^ k
  (n / b, -(k : Int), n % b != 0)

/-- Division (R182, R240): x / 0 of a finite nonzero x is an infinity made of finite operands, 0/0 and inf/inf are
invalid, inf/0 is an infinity. -/
def Exact.div (x y : Exact) : Exact :=
  match x, y with
  | .nan _, _ => .nan false
  | _, .nan _ => .nan false
  | .inf _ _, .inf _ _ => .nan true
  | .inf n _, .num k _ _ _ => .inf (n != k) false
  | .num n _ _ _, .inf k _ => Exact.zero (n != k)
  | .num n m e _, .num k l f _ =>
    if l = 0 then (if m = 0 then .nan true else .inf (n != k) true)
    else if m = 0 then Exact.zero (n != k)
    else let (q, g, st) := quotient m l; .num (n != k) q (e - f + g) st

/-- The whole square root by bits, highest first: bit i and below remain. -/
def isqrtFrom (n : Nat) : Nat → Nat → Nat
  | 0, r => r
  | i + 1, r => if (r + 2 ^ i) * (r + 2 ^ i) ≤ n then isqrtFrom n i (r + 2 ^ i) else isqrtFrom n i r

def isqrt (n : Nat) : Nat := isqrtFrom n (Nat.log2 n / 2 + 1) 0

/-- The square root (R182, R106): -0 gives -0, a negative value is invalid. -/
def Exact.sqrt (x : Exact) : Exact :=
  match x with
  | .nan _ => .nan false
  | .inf n _ => if n then .nan true else .inf false false
  | .num n m e _ =>
    if m = 0 then Exact.zero n
    else if n then .nan true
    else
      let k := 140 + (e % 2).toNat
      let v := m * 2 ^ k
      let r := isqrt v
      .num false r ((e - k) / 2) (r * r != v)

/-- The reciprocal square root (R106): a zero gives +inf, or -inf for -0. -/
def Exact.rsqrt (x : Exact) : Exact :=
  match x with
  | .nan _ => .nan false
  | .inf n _ => if n then .nan true else Exact.zero false
  | .num n m e _ =>
    if m = 0 then .inf n true
    else if n then .nan true
    else
      let o := (e % 2).toNat
      let v := m * 2 ^ o
      let k := 80 + Nat.log2 v
      let r := isqrt (2 ^ (2 * k) / v)
      .num false r (-((e - o) / 2) - k) (r * r * v != 2 ^ (2 * k))

/-! ### SX9 scales (R80, R81) -/

/-- The value of a scale code; 0x1FF is NaN. -/
def scale9 (code : BitVec 9) : Exact :=
  if code = 0x1FF then .nan false
  else
    let e : Int := (code.toNat / 2 : Nat)
    if code.toNat % 2 = 0 then .num false 1 (e - 127) false else .num false 3 (e - 128) false

/-! ### Comparisons (R90, R241) -/

/-- Whether a condition holds of two values, and the flags. -/
def compareVals (c : Cond) (x y : Exact) : Bool × Flags :=
  let un := x.isNan || y.isNan
  let lt := x.lt y
  let gt := y.lt x
  match c with
  | .eq => (!un && !lt && !gt, Flags.none)
  | .ne => (un || lt || gt, Flags.none)
  | .lt => (!un && lt, { invalid := un })
  | .le => (!un && !gt, { invalid := un })
  | .gt => (!un && gt, { invalid := un })
  | .ge => (!un && !lt, { invalid := un })
  | .unord => (un, Flags.none)

end Sys2Proof.Machine
end

