-- ==== Sys2Proof/Machine/Operands.lean ====
section
/-! DEFINITION. Operand forms: sign extension, counts, tile groups and their widths, the type combinations each form
accepts (02_encoding.md, 07_tiles.md R211, 08_matrix.md R217, 09_vector.md R233, R238), the numbers of the system
registers (15_traps.md R408). -/

namespace Sys2Proof.Machine

/-! ### Extensions (00_scope.md, 02_encoding.md R33, R34) -/

/-- sext(v, n) into 64 bits. -/
def sextWord {n : Nat} (v : BitVec n) : Word := v.signExtend 64

/-- zext(v, n) into 64 bits. -/
def zextWord {n : Nat} (v : BitVec n) : Word := v.setWidth 64

/-- The bytes an access of a size touches. -/
def Size.bytes : Size → Nat
  | .b | .bn => 1
  | .h | .hn => 2
  | .w | .wn => 4
  | .d => 8

/-- The value a load of a size delivers. -/
def loadValue (sz : Size) (v : Nat) : Word :=
  match sz with
  | .b => sextWord (BitVec.ofNat 8 v)
  | .h => sextWord (BitVec.ofNat 16 v)
  | .w => sextWord (BitVec.ofNat 32 v)
  | .d => BitVec.ofNat 64 v
  | .bn => zextWord (BitVec.ofNat 8 v)
  | .hn => zextWord (BitVec.ofNat 16 v)
  | .wn => zextWord (BitVec.ofNat 32 v)

/-- Whether a store accepts a size (R34). -/
def Size.storable : Size → Bool
  | .b | .h | .w | .d => true
  | _ => false

/-! ### Groups (R29, R30) -/

/-- Registers in the group. -/
def TGrp.n (g : TGrp) : Nat := 2 ^ g.w.val

/-- A group begins at a multiple of its size. -/
def TGrp.ok (g : TGrp) : Bool := g.base.val % TGrp.n g == 0

/-- The register numbers of a group. -/
def TGrp.regs (g : TGrp) : List Nat := List.range' g.base.val (TGrp.n g)

/-- Elements of a type in a group row of 2^w registers. -/
def elemsPerRow (t : Ty) (w : Nat) : Nat := 512 * w / t.bits

/-- The width relation of R233: a group of one type and a group of another hold the same elements in a row. -/
def sameElems (d : TGrp) (td : Ty) (a : TGrp) (ta : Ty) : Bool :=
  TGrp.n d * ta.bits == TGrp.n a * td.bits

/-! ### Types the forms accept (R211, R217, R238, R300, R351) -/

/-- "any": codes 0x0-0xD. -/
def Ty.any (t : Ty) : Bool := t != .b1

/-- "integer": codes 0x6-0xD. -/
def Ty.isInt (t : Ty) : Bool := !t.isFloat && t != .b1

/-- F32, BF16, F16: codes 0x0-0x2. -/
def Ty.isWideFloat (t : Ty) : Bool := t == .f32 || t == .bf16 || t == .f16

/-- The quantised targets: E4M3, E5M2, E2M1, I8. -/
def Ty.isQuant (t : Ty) : Bool := t == .e4m3 || t == .e5m2 || t == .e2m1 || t == .i8

/-- The types of row reductions: float into F32, BF16 or F16, integer into I32. -/
def reduceTypes (ti out : Ty) : Bool := (ti.isFloat && Ty.isWideFloat out) || (Ty.isInt ti && out == .i32)

/-- VTRN's types and their widths (R252). -/
def transposable (t : Ty) (w : Fin 4) : Bool :=
  (t.bits == 32 && w == 2) || (t.bits == 16 && w == 1) || (t.bits == 8 && w == 0)

/-- The pairs of the MMA family (R217) and whether the form is scaled. -/
def mmaTypes (out ta tb : Ty) (scaled : Bool) : Bool :=
  let fp8 := fun t => t == Ty.e4m3 || t == Ty.e5m2
  let int8 := fun t => t == Ty.i8 || t == Ty.n8
  let int4 := fun t => t == Ty.i4 || t == Ty.n4
  (out == .f32 && ((fp8 ta && fp8 tb) || (ta == .e2m1 && tb == .e2m1) || (ta == .bf16 && tb == .bf16)
    || (ta == .f16 && tb == .f16)))
  || (out == .i32 && !scaled && ((int8 ta && int8 tb) || (int4 ta && int4 tb)))

/-- The limits of an MMA form (R222, R51). -/
def MmaOp.ok (x : MmaOp) (scaled : Bool) : Bool :=
  x.d.val % 4 == 0 && TGrp.ok x.a && TGrp.ok x.b && x.a.w == x.b.w && mmaTypes x.out x.ta x.tb scaled
    && (!x.rtz || x.out == .f32)

/-- Two-source elementwise forms: every source has A's width, D the width of R233. -/
def V3.ok (x : V3) : Bool :=
  TGrp.ok x.d && TGrp.ok x.a && TGrp.ok x.b && x.b.w == x.a.w && sameElems x.d x.out x.a x.ti && Ty.any x.ti
    && Ty.any x.out

def V4.ok (x : V4) : Bool :=
  TGrp.ok x.d && TGrp.ok x.a && TGrp.ok x.b && TGrp.ok x.c && x.b.w == x.a.w && x.c.w == x.a.w
    && sameElems x.d x.out x.a x.ti && Ty.any x.ti && Ty.any x.out

def VS.ok (x : VS) : Bool :=
  TGrp.ok x.d && TGrp.ok x.a && sameElems x.d x.out x.a x.ti && Ty.any x.ti && Ty.any x.out

def VS3.ok (x : VS3) : Bool :=
  TGrp.ok x.d && TGrp.ok x.a && TGrp.ok x.c && x.c.w == x.a.w && sameElems x.d x.out x.a x.ti && Ty.any x.ti
    && Ty.any x.out

/-- One-source forms with the width of R233. -/
def V2.ok (x : V2) : Bool :=
  TGrp.ok x.d && TGrp.ok x.a && sameElems x.d x.out x.a x.ti && Ty.any x.ti && Ty.any x.out

/-- The transcendentals: float to float. -/
def V2.okFloat (x : V2) : Bool := V2.ok x && x.ti.isFloat && x.out.isFloat

/-- Row reductions: one page, whatever E is. -/
def V2.okRow (x : V2) : Bool := TGrp.ok x.d && TGrp.ok x.a && x.d.w == 0 && reduceTypes x.ti x.out

/-- VBCOL: a destination of any width. -/
def V2.okSpread (x : V2) : Bool := TGrp.ok x.d && TGrp.ok x.a && Ty.any x.ti && Ty.any x.out

/-- Untyped moves and bit logic: every group has A's width. -/
def okSame2 (d a : TGrp) : Bool := TGrp.ok d && TGrp.ok a && d.w == a.w
def okSame3 (d a b : TGrp) : Bool := okSame2 d a && TGrp.ok b && b.w == a.w

/-! ### Counts (R49, R251) -/

/-- A count read as unsigned, from a register file. -/
def Count.value (c : Count) (s : Vector Word 32) : Nat :=
  match c with
  | .imm n => n.toNat
  | .reg r => if r = 0 then 0 else (s[r.val]).toNat

/-- VBROT's count, read as signed. -/
def Count.valueInt (c : Count) (s : Vector Word 32) : Int :=
  match c with
  | .imm n => n.toInt
  | .reg r => if r = 0 then 0 else (s[r.val]).toInt

/-! ### The system register map (15_traps.md R408) -/

/-- The numbers MTSR may write. -/
def sysWritable (n : Nat) : Bool :=
  n == 0x010 || n == 0x011 || (decide (0x100 ≤ n) && decide (n ≤ 0x102)) || n == 0x110
    || (decide (0x118 ≤ n) && decide (n ≤ 0x11B)) || (decide (0x120 ≤ n) && decide (n ≤ 0x122))
    || (decide (0x128 ≤ n) && decide (n ≤ 0x12A)) || n == 0x130 || n == 0x140 || n == 0x150 || n == 0x160
    || (decide (0x170 ≤ n) && decide (n ≤ 0x176))

/-- The numbers MFSR may read. -/
def sysReadable (n : Nat) : Bool :=
  sysWritable n || decide (n ≤ 4) || n == 0x020 || n == 0x021 || n == 0x111 || n == 0x131

/-! ### ALT (02_encoding.md R48) -/

/-- Arms present, directions and priorities among the arms, no arm past E15. -/
def altOk (b : EReg) (arms dirs prio : BitVec 8) : Bool :=
  arms != 0 && (dirs &&& ~~~arms) == 0 && (prio &&& ~~~arms) == 0
    && (List.range 8).all (fun i => !arms.getLsbD i || decide (b.val + i ≤ 15))

end Sys2Proof.Machine
end

