-- ==== Sys2Proof/Machine/Tile.lean ====
section
/-! DEFINITION. Tile data (02_encoding.md R30, 04_numbers.md R75, R82, R83, 07_tiles.md R192, R193): rows and elements of
groups of pages, and the pages an instruction writes. A group is the list of its pages, lowest register first; a group
row is one number, byte 0 in its low bits (R5). -/

namespace Sys2Proof.Machine

/-! ### Rows and elements -/

/-- Row r of a page. -/
def pageRow (p : Page) (r : Nat) : Nat := if h : r < 64 then p.rows[r].toNat else 0

/-- The tag of row r of a page. -/
def pageTag (p : Page) (r : Nat) : RowTag :=
  if h : r < 64 then p.tags[r] else { zero := 0, nonfin := 0, scale0 := 0, scale1 := 0, scale2 := 0, scale3 := 0 }

/-- Row r of a group: the first page supplies the lowest 64 bytes (R30). -/
def groupRow : List Page → Nat → Nat
  | [], _ => 0
  | p :: rest, r => pageRow p r + 2 ^ 512 * groupRow rest r

/-- The 64 rows of a group. -/
def groupRows (g : List Page) : List Nat := (List.range 64).map (groupRow g)

/-- The n elements of b bits of a row. -/
def splitRow (b : Nat) : Nat → Nat → List Nat
  | 0, _ => []
  | n + 1, row => row % 2 ^ b :: splitRow b n (row / 2 ^ b)

/-- The encodings of the elements of a row of w pages. -/
def rowElems (t : Ty) (w row : Nat) : List Nat := splitRow t.bits (elemsPerRow t w) row

/-- Elements of b bits as a row. -/
def packRow (b : Nat) : List Nat → Nat
  | [] => 0
  | x :: rest => x % 2 ^ b + 2 ^ b * packRow b rest

/-- Element (r, c) of a group. -/
def elemAt (t : Ty) (g : List Page) (r c : Nat) : Nat := groupRow g r / 2 ^ (t.bits * c) % 2 ^ t.bits

/-! ### Sidecars -/

/-- Whether an encoding is +0 or -0 under a type. -/
def isZeroElem (t : Ty) (x : Nat) : Bool := if t.isFloat then x % 2 ^ (t.bits - 1) == 0 else x == 0

/-- Whether an encoding is NaN or infinite under a type. -/
def isNonfinite (t : Ty) (x : Nat) : Bool :=
  t.isFloat && ((elemValue t x).isNan || (elemValue t x).isInf)

/-- The scale slot value of a page without scales: 1.0 (R84). -/
def scaleOne : BitVec 9 := 0x0FE

/-- Four block bits, from a test of block b of k. -/
def blockBits (k : Nat) (f : Nat → Bool) : BitVec 4 :=
  BitVec.ofNat 4 ((List.range k).foldl (fun acc b => acc + bit (f b) * 2 ^ b) 0)

/-- The elements of block b of a page row: 32, or the 16 of a 32-bit type (R82). -/
def blockElems (t : Ty) (row b : Nat) : List Nat :=
  let n := if t.bits = 32 then 16 else 32
  splitRow t.bits n (row / 2 ^ (t.bits * n * b))

/-- The flags of a page row, exact under a type (R83). -/
def exactTag (t : Ty) (row : Nat) : RowTag :=
  { zero := blockBits t.blocks (fun b => (blockElems t row b).all (isZeroElem t)),
    nonfin := blockBits t.blocks (fun b => (blockElems t row b).any (isNonfinite t)),
    scale0 := scaleOne, scale1 := scaleOne, scale2 := scaleOne, scale3 := scaleOne }

/-- The blocks of a row word whose scale slot holds the NaN scale: a type whose page row is one block of 16 uses no slot
(R82, R83). -/
def nanScales (t : Ty) (g : RowTag) : BitVec 4 :=
  if t.bits = 32 then 0
  else blockBits t.blocks (fun b => (match b with
    | 0 => g.scale0 | 1 => g.scale1 | 2 => g.scale2 | _ => g.scale3) == 0x1FF)

/-- The row word of a page that records no flag type: no zero bit, every nonfin bit (R192). -/
def plainTag : RowTag :=
  { zero := 0, nonfin := 0xF, scale0 := scaleOne, scale1 := scaleOne, scale2 := scaleOne, scale3 := scaleOne }

/-- The type code 0xF: none. -/
def noType : BitVec 4 := 0xF

/-- A page from its rows (each below 2^512) and tags. -/
def mkPage (rows : List Nat) (tags : List RowTag) (ftype wtag : BitVec 4) (poison : Bool) : Page :=
  { rows := Vector.ofFn (fun i : Fin 64 => BitVec.ofNat 512 (rows.getD i.val 0)),
    tags := Vector.ofFn (fun i : Fin 64 => tags.getD i.val plainTag), ftype := ftype, wtag := wtag, poison := poison }

/-- Page p of the rows of a group. -/
def pageRows (rows : List Nat) (p : Nat) : List Nat := rows.map (fun x => x / 2 ^ (512 * p) % 2 ^ 512)

/-- The pages of a group written under a type, flags exact (R83, R84). -/
def typedPages (t : Ty) (w : Nat) (rows : List Nat) : List Page :=
  (List.range w).map (fun p => let rs := pageRows rows p; mkPage rs (rs.map (exactTag t)) t.code t.code false)

/-- The pages of a group written with no flag type. -/
def plainPages (w : Nat) (rows : List Nat) : List Page :=
  (List.range w).map (fun p => mkPage (pageRows rows p) (List.replicate 64 plainTag) noType noType false)

/-- A page of zero bytes as the start of a process gives it (05_processes.md R153) and TZERO writes it (R193). -/
def zeroPage : Page := mkPage [] [] noType noType false

/-- The scale code of block b of row r of a group whose type has k blocks a page row (R82). -/
def scaleAt (g : List Page) (k r b : Nat) : BitVec 9 :=
  match g[b / k]? with
  | none => scaleOne
  | some p =>
    let t := pageTag p r
    match b % k with
    | 0 => t.scale0
    | 1 => t.scale1
    | 2 => t.scale2
    | _ => t.scale3

/-! ### Rows computed element by element -/

/-- A row of results of a type with the flags of all. -/
def resultRow (out : Ty) (l : List (Nat × Flags)) : Nat × Flags :=
  (packRow out.bits (l.map Prod.fst), Flags.all (l.map Prod.snd))

/-- Typed pages from rows of results. -/
def resultPages (out : Ty) (w : Nat) (rows : List (Nat × Flags)) : List Page × Flags :=
  (typedPages out w (rows.map Prod.fst), Flags.all (rows.map Prod.snd))

/-! ### The row word in memory (R192) -/

/-- A row word; only row word 0 holds the fields of the page. -/
def tagWord (p : Page) (r : Nat) : Nat :=
  let t := pageTag p r
  (if r = 0 then bit p.poison * 2 ^ 56 + p.ftype.toNat * 2 ^ 52 + p.wtag.toNat * 2 ^ 48 else 0)
    + t.zero.toNat * 2 ^ 44 + t.nonfin.toNat * 2 ^ 40 + t.scale3.toNat * 2 ^ 27 + t.scale2.toNat * 2 ^ 18
    + t.scale1.toNat * 2 ^ 9 + t.scale0.toNat

/-- The tag a row word holds. -/
def tagOfWord (w : Nat) : RowTag :=
  { zero := BitVec.ofNat 4 (w / 2 ^ 44), nonfin := BitVec.ofNat 4 (w / 2 ^ 40), scale3 := BitVec.ofNat 9 (w / 2 ^ 27),
    scale2 := BitVec.ofNat 9 (w / 2 ^ 18), scale1 := BitVec.ofNat 9 (w / 2 ^ 9), scale0 := BitVec.ofNat 9 w }

/-- The 512 bytes of a sidecar. -/
def sidecarBytes (p : Page) : List Byte := (List.range 64).flatMap (fun r => bytesOf 8 (tagWord p r))

/-- The 4,096 data bytes of a page. -/
def pageBytes (p : Page) : List Byte := (List.range 64).flatMap (fun r => bytesOf 64 (pageRow p r))

/-- Bytes in pieces of n. -/
def chunks (n : Nat) : Nat → List Byte → List (List Byte)
  | 0, _ => []
  | k + 1, l => l.take n :: chunks n k (l.drop n)

/-- A page from its data bytes and its sidecar bytes. -/
def pageOfBytes (data side : List Byte) : Page :=
  let words := (chunks 8 64 side).map ofBytes
  let w0 := words.headD 0
  mkPage ((chunks 64 64 data).map ofBytes) (words.map tagOfWord) (BitVec.ofNat 4 (w0 / 2 ^ 52))
    (BitVec.ofNat 4 (w0 / 2 ^ 48)) (w0 / 2 ^ 56 % 2 == 1)

end Sys2Proof.Machine
end

