-- ==== Sys2Proof/Machine/Pages.lean ====
section
/-! DEFINITION. Tile registers and the page pool (07_tiles.md R192-R202): what registers map, fresh pages, pin counts,
the charges of the pool. -/

namespace Sys2Proof.Machine

/-! ### What a register maps -/

/-- The content of a pool page. -/
def State.pageOf (s : State) (id : Nat) : Page := ((s.pages.find? (fun p => p.id == id)).map PoolPage.page).getD zeroPage

/-- The reference of register k of a process. -/
def Proc.tref (p : Proc) (k : Nat) : TRef := if h : k < 32 then p.t[k] else .zero

/-- The page a reference names. -/
def State.refPage (s : State) : TRef → Page
  | .pool id => s.pageOf id
  | .image => zeroPage
  | .zero => zeroPage

/-- The pages of a group of a process, lowest register first. -/
def State.groupOf (s : State) (p : Proc) (g : TGrp) : List Page :=
  (TGrp.regs g).map (fun k => s.refPage (p.tref k))

/-- The pages of a group of the context that executes. -/
def State.group (s : State) (g : TGrp) : List Page := s.groupOf s.cur g

/-- A group whose element values an instruction reads: POISON for a poisoned page (R194), address 0. -/
def State.readGroup (s : State) (g : TGrp) : Except Halt (List Page) :=
  let l := s.group g
  if l.any Page.poison then .error (.trap (.at .poison 0)) else .ok l

/-! ### References and pin counts (R195-R197) -/

/-- The pool page of a reference. -/
def TRef.id? : TRef → Option Nat
  | .pool id => some id
  | _ => none

/-- The pool pages a process references from its tile registers. -/
def Proc.tileIds (p : Proc) : List Nat := p.t.toList.filterMap TRef.id?

/-- The pool pages that its renamed, unretired instructions reference. -/
def Proc.robIds (p : Proc) : List Nat :=
  (p.rob.flatMap RobEntry.refs).filterMap (fun x => match x with | .pool id => some id | _ => none)

/-- Every reference of a process to pool pages: from its tile registers, architectural or renamed, and from resident entries
(R196). -/
def Proc.refIds (p : Proc) : List Nat := p.tileIds ++ p.spDir.map Prod.snd ++ p.robIds

/-- The pin count of a page of a process. -/
def Proc.pins (p : Proc) (id : Nat) : Nat := p.refIds.countP (· == id)

/-- The pool directory of a space changes. -/
def State.updDir (s : State) (pid : Pid) (f : List (Nat × Nat) → List (Nat × Nat)) : State :=
  match s.proc? pid with
  | some _ => s.updProc pid (fun p => { p with spDir := f p.spDir })
  | none => s.updRec pid (fun r => { r with spDir := f r.spDir })

/-- Pages of a process that nothing references return to the free list. -/
def State.sweep (s : State) (pid : Pid) : State :=
  match s.space? pid with
  | none => { s with pages := s.pages.filter (fun q => q.owner != pid) }
  | some p => { s with pages := s.pages.filter (fun q => q.owner != pid || p.refIds.contains q.id) }

/-- Fresh pages in the pool of a process's core, holding the given data: the state and their references. -/
def State.freshPages (s : State) (p : Proc) (pages : List Page) : State × List TRef :=
  let news := ((List.range pages.length).zip pages).map fun x =>
    ({ id := s.nextId + x.1, core := p.core, owner := p.pid, page := x.2, stamp := s.cycle.toNat, hurt := false, err := none } : PoolPage)
  ({ s with pages := s.pages ++ news, nextId := s.nextId + pages.length }, news.map (fun q => .pool q.id))

/-- Registers of a group take new references, one each. -/
def setRefs (t : Vector TRef 32) (base : Nat) : List TRef → Vector TRef 32
  | [] => t
  | r :: rest => setRefs (if h : base < 32 then t.set base r else t) (base + 1) rest

/-- A process maps a group to references, and what the registers named before loses them. -/
def State.mapGroup (s : State) (pid : Pid) (g : TGrp) (refs : List TRef) : State :=
  (s.updProc pid (fun p => { p with t := setRefs p.t g.base.val refs })).sweep pid

/-- The context that executes writes fresh pages to a group (R195). -/
def State.writeGroup (s : State) (g : TGrp) (pages : List Page) : State :=
  let r := s.freshPages s.cur pages
  r.1.mapGroup s.cur.pid g r.2

/-- A read of a pool page finds its error and is retried: a transient error is logged, a lasting one sets the poison bit
(19_trust.md R477). -/
def State.settlePage (s : State) (id : Nat) : State :=
  match s.pages.find? (fun q => q.id == id) with
  | some q =>
    match q.err with
    | none => s
    | some lasting =>
      let part := ((s.space? q.owner).map Proc.part).getD 0
      ({ s with pages := s.pages.map (fun (x : PoolPage) =>
          if x.id = id then { x with err := none, page := { x.page with poison := x.page.poison || lasting } } else x) }).logPool
        part (if lasting then 2 else 1) id
  | none => s

/-- The pool pages of some registers of the context that executes are read. -/
def State.settleRegs (s : State) (l : List Nat) : State :=
  (l.filterMap (fun k => (s.cur.tref k).id?)).foldl State.settlePage s

/-- Whether the context that executes copies a page instead of giving it one reference more beside those just given: as its rename
has decided for place i of the operand, else where the page has 15 (R197). -/
def State.copies (s : State) (i id given : Nat) : Bool :=
  match s.cur.copies with
  | some l => l.getD i false
  | none => decide (15 ≤ s.cur.pins id + given)

/-- One more reference to each page of a list of places and references. -/
def State.shareRefs (s : State) : List (Nat × TRef) → List TRef → State × List TRef
  | [], done => (s, done)
  | (i, r) :: rest, done =>
    match r with
    | .pool id =>
      if s.copies i id (done.countP (· == .pool id)) then
        let s1 := s.settlePage id
        let c := s1.freshPages s1.cur [s1.pageOf id]
        c.1.shareRefs rest (done ++ c.2)
      else s.shareRefs rest (done ++ [r])
    | _ => s.shareRefs rest (done ++ [r])

/-- The references of the registers of a group, with their places in it. -/
def Proc.groupRefs (p : Proc) (g : TGrp) : List (Nat × TRef) := (List.range (TGrp.n g)).zip ((TGrp.regs g).map p.tref)

/-- A use of a page, for the order of R202. -/
def State.touchPage (s : State) (id : Nat) : State :=
  { s with pages := s.pages.map (fun q => if q.id = id then { q with stamp := s.cycle.toNat } else q) }

/-- Change the content of a pool page that nothing else maps. -/
def State.setPage (s : State) (id : Nat) (p : Page) : State :=
  { s with pages := s.pages.map (fun q => if q.id = id then { q with page := p, stamp := s.cycle.toNat } else q) }

/-! ### Charges (R199-R201) -/

/-- The distinct pages of a list of ids. -/
def distinct (l : List Nat) : List Nat := l.foldr (fun a acc => if acc.contains a then acc else a :: acc) []

/-- The processes in the slots of a core. -/
def State.residents (s : State) (c : Nat) : List Proc := (s.core c).slots.toList.filterMap (fun x => x.bind s.proc?)

/-- The floor charge of a resident context: distinct pages its tile registers map, and the fresh pages of its unretired
instructions. -/
def Proc.floorCharge (p : Proc) : Nat := (distinct p.tileIds).length + (p.rob.map RobEntry.fresh).foldl (· + ·) 0

/-- The pages of a floor. -/
def floorPages : Nat := 40

/-- The pages that a clock pause of a core keeps for registers (15_traps.md R413). -/
def State.latchedPages (s : State) (c : Nat) : Nat :=
  (((((s.core c).pause.map Pause.latched).getD []).map (fun l => match l with | .tiles _ _ pages => pages.length | _ => 0))).foldl (· + ·) 0

/-- The pages of a core charged to the shared part: all that no tile register of a resident maps, what residents
hold beyond their floors, and what a pause keeps. -/
def State.sharedCharge (s : State) (c : Nat) : Nat :=
  let floors := (s.residents c).flatMap Proc.tileIds
  (s.pages.filter (fun q => q.core == c && !floors.contains q.id)).length
    + ((s.residents c).map (fun p => p.floorCharge - floorPages)).foldl (· + ·) 0 + s.latchedPages c

/-- Whether the shared part of a core has n pages more. -/
def State.sharedRoom (s : State) (c n : Nat) : Bool := decide (s.sharedCharge c + n ≤ 864)

/-- The pages of a core's pool in use: those that stand in it and those that renames have taken. -/
def State.poolUsed (s : State) (c : Nat) : Nat :=
  s.pages.countP (fun q => q.core == c) + ((s.residents c).map (fun p => (p.rob.map RobEntry.fresh).foldl (· + ·) 0)).foldl (· + ·) 0
    + s.latchedPages c

/-- The pages of a pool (01_device.md R19). -/
def poolPages : Nat := 1024

/-- Whether a rename of a context may take n pages: from its floor, and from the shared part beyond it (R200, log 68); the pool
has no more than its pages, whatever has moved to the shared charge (R201). -/
def State.renameRoom (s : State) (p : Proc) (n : Nat) : Bool :=
  let more := (p.floorCharge + n - floorPages) - (p.floorCharge - floorPages)
  (more == 0 || s.sharedRoom p.core more) && (n == 0 || decide (s.poolUsed p.core + n ≤ poolPages))

/-! ### Pages of a process on another core (05_processes.md R142) -/

/-- The pool pages of a process that are not in the pool of a core. -/
def State.pagesOff (s : State) (pid : Pid) (c : Nat) : List PoolPage :=
  s.pages.filter (fun q => q.owner == pid && q.core != c)

/-- Whether a pool has room for the pages of a process that are elsewhere. -/
def State.pagesFit (s : State) (pid : Pid) (c : Nat) : Bool :=
  let n := (s.pagesOff pid c).length
  n == 0 || s.sharedRoom c n

/-- The pool pages of a process stand in another core's pool, where that has room. -/
def State.movePages (s : State) (pid : Pid) (target : Nat) : State :=
  if s.pagesFit pid target then
    { s with pages := s.pages.map (fun q => if q.owner = pid ∧ q.core ≠ target then { q with core := target } else q) }
  else s

/-- The transfers of a process's pages to another core have been made. -/
def State.quietTransfer (s : State) (pid : Pid) (target : Nat) : State :=
  { s with pages := s.pages.map (fun q => if q.owner = pid ∧ q.core ≠ target then { q with hurt := false } else q) }

/-- The copy of a process's pages to another core's pool reads them; those of which no good copy can be made: a read finds a
lasting error, or the transfer damages it (R146, R147). -/
def State.readForMove (s : State) (pid : Pid) (target : Nat) : State × List Nat :=
  let l := s.pagesOff pid target
  ((l.foldl (fun s q => s.settlePage q.id) s).quietTransfer pid target,
    (l.filter (fun q => q.err == some true || q.hurt)).map PoolPage.id)

end Sys2Proof.Machine
end

