-- ==== Sys2Proof/Machine/Images.lean ====
section
/-! DEFINITION. Context images in memory (15_traps.md R396-R400): where they lie, what a completed park writes, what an
unpark reads back. -/

namespace Sys2Proof.Machine

/-- The base of IMGAREA: bits [51:12] (R396). -/
def Part.imgBase (p : Part) : Nat := p.imgarea.toNat / 2 ^ 12 % 2 ^ 40 * 2 ^ 12

/-- Bytes written in an image, offsets from its start; the supervisor's image lies in its first granted range by
physical address (18_host.md R452), every other one in the IMGAREA slot of its scratchpad slot. -/
def State.imageWrite (s : State) (p : Proc) (off : Nat) (bytes : List Byte) : Except TrapInfo State :=
  let q := s.part p.part
  if p.sup then
    match q.base with
    | none => .ok s
    | some b => s.ownPut q (b + Config.sttSlotBytes + off) bytes
  else match p.spSlot with
    | none => .ok s
    | some i => s.areaPut q (BitVec.ofNat 64 (q.imgBase + i * Config.imageSlotBytes + off)) bytes

/-- Bytes read from an image. -/
def State.imageRead (s : State) (p : Proc) (off n : Nat) : Except TrapInfo (State × List Byte) :=
  let q := s.part p.part
  if p.sup then
    match q.base with
    | none => .ok (s, List.replicate n 0)
    | some b => s.ownGet q (b + Config.sttSlotBytes + off) n
  else match p.spSlot with
    | none => .ok (s, List.replicate n 0)
    | some i => s.areaGet q (BitVec.ofNat 64 (q.imgBase + i * Config.imageSlotBytes + off)) n

/-- n zero bytes written in an image. -/
def State.imageZero (s : State) (p : Proc) (off n : Nat) : Except TrapInfo State :=
  let q := s.part p.part
  if p.sup then
    match q.base with
    | none => .ok s
    | some b => (s.physOff (b + Config.sttSlotBytes + off) n).map (fun _ => s.physZero q.supKey (b + Config.sttSlotBytes + off) n)
  else match p.spSlot with
    | none => .ok s
    | some i => s.areaZero q (BitVec.ofNat 64 (q.imgBase + i * Config.imageSlotBytes + off)) n

/-- A write that must succeed: a fault of the area is a fault of the supervisor (R264, R394). -/
def State.imagePut (s : State) (p : Proc) (off : Nat) (bytes : List Byte) : State :=
  match s.imageWrite p off bytes with
  | .ok t => t
  | .error t => s.areaFault p.part t

/-- The status word (R398). -/
def Proc.statusWord (p : Proc) : Word :=
  BitVec.ofNat 64 (bit (p.held || p.halted) * 2 ^ 63 + bit p.faulted * 2 ^ 62 + bit p.isBlocked * 2 ^ 61 + bit p.sup * 2 ^ 60
    + p.prio.toNat * 2 ^ 54 + bit p.halted * 2 ^ 53 + p.part % 2 ^ 16 * 2 ^ 32 + p.pid.toNat)

/-- The reference word of a register (R399): where, and the device's own reference. -/
def trefWord : TRef → Word
  | .pool id => (1#2 ++ Config.pageRef id : BitVec 64)
  | .zero => (1#2 ++ Config.pageRef 0 : BitVec 64)
  | .image => 0

/-- Words as bytes. -/
def wordBytes (l : List Word) : List Byte := l.flatMap (fun w => bytesOf 8 w.toNat)

/-- The root of a process's scratchpad table: the address of its slot (R264). -/
def State.sttRoot (s : State) (p : Proc) : Nat :=
  let q := s.part p.part
  if p.sup then q.base.getD 0
  else q.sparea.toNat / 2 ^ 15 % 2 ^ 37 * 2 ^ 15 + p.spSlot.getD 0 * Config.sttSlotBytes

/-- The first word of the device's own part of an image: the arm chosen last (12_channels.md R335), the halt and step
state. The other words are free (log 10). -/
def Proc.ownWord (p : Proc) : Word := BitVec.ofNat 64 (p.altLast.val + bit p.halted * 8 + bit p.stepping * 16 + bit p.haltOp * 32)

/-- A process takes what the first of its own words tells. -/
def Proc.readOwn (p : Proc) (w : Word) : Proc :=
  { p with altLast := Fin.ofNat 8 (w.toNat % 8), halted := w.getLsbD 3, stepping := w.getLsbD 4, haltOp := w.getLsbD 5 }

/-- The image of a process without its page area, in order of address (R397): everything from 0x000 to 0x600. -/
def State.imageHead (s : State) (p : Proc) : List Byte :=
  wordBytes ((0 : Word) :: (p.s.toList.drop 1))
    ++ wordBytes [p.ip, p.fcsr, p.tcsr, p.statusWord, BitVec.ofNat 64 (s.sttRoot p), 0, p.latch.word0, p.latch.word1]
    ++ p.g.toList.flatMap (fun g => bytesOf 16 g.toNat)
    ++ p.e.toList.flatMap (fun e => bytesOf 4 e.toNat)
    ++ wordBytes (p.t.toList.map trefWord)
    ++ wordBytes (p.ownWord :: (List.range 31).map (fun i => Config.imageOwn (s.draws + i)))
    ++ wordBytes ((p.record.map Record.words).getD (List.replicate 64 0))

/-- What an image holds when its park completes (R400): all but the page area; the reserved part reads 0 (R9). -/
def State.completeImage (s : State) (pid : Pid) : State :=
  match s.proc? pid with
  | none => s
  | some p =>
    match (s.imagePut p 0 (s.imageHead p)).imageZero p 0x600 0xA00 with
    | .ok t => (t.updProc pid (fun q => { q with imageOk := true })).drew
    | .error t => s.areaFault p.part t

/-- Whether a completion into a process must be shown in its image: parked, image complete (12_channels.md R328). -/
def Proc.inImage (p : Proc) : Bool := p.place == .parked && p.imageOk

/-- Bytes of the image that a completion changes, for a parked process (R328). -/
def State.syncImage (s : State) (pid : Pid) (l : Proc → List (Nat × List Byte)) : State :=
  match s.proc? pid with
  | none => s
  | some p => if p.inImage then (l p).foldl (fun s x => s.imagePut p x.1 x.2) s else s

/-- The words a completion touches in every case: IP, flags, status, and the first of the device's own, which holds the arm
that an ALT has chosen (12_channels.md R335). -/
def Proc.commonWords (p : Proc) : List (Nat × List Byte) :=
  [(0x100, bytesOf 8 p.ip.toNat), (0x108, bytesOf 8 p.fcsr.toNat), (0x110, bytesOf 8 p.tcsr.toNat),
   (0x118, bytesOf 8 p.statusWord.toNat), (0x300, bytesOf 8 p.ownWord.toNat)]

/-- One register of the image. -/
def Proc.regWord (p : Proc) (d : SReg) : Nat × List Byte := (8 * d.val, bytesOf 8 (p.rd d).toNat)
def Proc.handleWord (p : Proc) (d : EReg) : Nat × List Byte := (0x1C0 + 4 * d.val, bytesOf 4 (p.e[d]).toNat)
def Proc.trefWords (p : Proc) (g : TGrp) : List (Nat × List Byte) :=
  (TGrp.regs g).map (fun k => (0x200 + 8 * k, bytesOf 8 (trefWord (p.tref k)).toNat))

/-- The words a trap of a parked process changes: its record and its status (R387, R397). -/
def Proc.recordWords (p : Proc) : List (Nat × List Byte) :=
  [(0x118, bytesOf 8 p.statusWord.toNat), (0x400, wordBytes ((p.record.map Record.words).getD (List.replicate 64 0)))]

/-- A trap that reaches a process, its image following where it is complete. -/
def State.trapParked (s : State) (pid : Pid) (t : TrapInfo) (iw0 iw1 : Word32) : State :=
  (s.trapProc pid t iw0 iw1).syncImage pid Proc.recordWords

/-- A register's data and sidecar written to its place in the image (R399). -/
def State.pageToImage (s : State) (p : Proc) (k : Nat) (pg : Page) : Except TrapInfo State :=
  match s.imageWrite p (0x1000 + 4096 * k) (pageBytes pg) with
  | .error t => .error t
  | .ok s1 =>
    match s1.imageWrite p (0x21000 + 512 * k) (sidecarBytes pg) with
    | .error t => .error t
    | .ok s2 => s2.imageWrite p (0x200 + 8 * k) (bytesOf 8 0)

/-- A register's page read back from its place. -/
def State.pageFromImage (s : State) (p : Proc) (k : Nat) : Except TrapInfo (State × Page) :=
  match s.imageRead p (0x1000 + 4096 * k) 4096 with
  | .error t => .error t
  | .ok (s1, data) =>
    match s1.imageRead p (0x21000 + 512 * k) 512 with
    | .error t => .error t
    | .ok (s2, side) => .ok (s2, pageOfBytes data side)

/-- The words marked S as they stand in an image's head (R397, R400): registers, IP with [1:0] 0, FCSR and TCSR as an
MTSR stores them, priority clamped to the ceiling, geometry, handles. -/
def Proc.readBack (p : Proc) (ceiling : BitVec 6) (l : List Byte) : Proc :=
  let word := fun off => BitVec.ofNat 64 (ofBytes ((l.drop off).take 8))
  let prio := BitVec.ofNat 6 ((word 0x118).toNat / 2 ^ 54)
  { p with
    s := Vector.ofFn (fun i : Fin 32 => if i = 0 then 0 else word (8 * i.val))
    ip := word 0x100 &&& ~~~(3 : Word)
    fcsr := fcsrStored (word 0x108)
    tcsr := tcsrStored (word 0x110)
    prio := if ceiling < prio then ceiling else prio
    g := Vector.ofFn (fun i : Fin 8 => BitVec.ofNat 128 (ofBytes ((l.drop (0x140 + 16 * i.val)).take 16)) &&& 0x7FF7FFFFFFFFF)
    e := Vector.ofFn (fun i : Fin 16 => BitVec.ofNat 32 (ofBytes ((l.drop (0x1C0 + 4 * i.val)).take 4))) }

/-- The registers whose data lies in the image come back as pages of their own (R399, R140). -/
def State.restorePages (s : State) (pid : Pid) : List Nat → Except TrapInfo State
  | [] => .ok s
  | k :: rest =>
    match s.proc? pid with
    | none => .ok s
    | some p =>
      if p.tref k = .image then
        match s.pageFromImage p k with
        | .error t => .error t
        | .ok (s1, pg) =>
          let r := s1.freshPages p [pg]
          (r.1.updProc pid (fun q => { q with t := setRefs q.t k r.2 })).restorePages pid rest
      else s.restorePages pid rest

/-- The words an unpark takes from the image; the context itself where a process returns to the core it parked on before
its image is complete (05_processes.md R132). -/
def State.readContext (s : State) (p : Proc) : Except TrapInfo (State × Proc) :=
  if p.imageOk then (s.imageRead p 0 0x600).map (fun x => (x.1, p.readBack (s.part p.part).ceiling x.2)) else .ok (s, p)

/-- Whether a parked process may be unparked on a core: its image is complete, or it parked there (R132). -/
def Proc.mayUnpark (p : Proc) (c : Nat) : Bool := p.imageOk || p.ran == c

/-- Unparking into a slot (R140, R400, R291): the marked words are read back, pages mapped, caches invalidated, and the
process is resident; its page-ins elsewhere are abandoned (10_scratchpad.md R273). -/
def State.unpark (s : State) (c slot : Nat) (pid : Pid) : State :=
  match s.proc? pid with
  | none => s
  | some p =>
    match s.readContext p with
    | .error t => s.areaFault p.part t
    | .ok (s0, q) =>
      let s1 := (s0.dequeue pid).updProc pid (fun _ => { q with
        place := .resident c slot, home := c, ran := c, since := s.cycle, winAt := s.cycle, acc := [],
        skipBp := true, stall := .none })
      match s1.restorePages pid (List.range 32) with
      | .error t => s.areaFault p.part t
      | .ok s2 =>
        (s2.updCore c (fun k => { k with slots := if h : slot < 4 then k.slots.set slot (some pid) else k.slots })).flushL1 c

end Sys2Proof.Machine
end

