-- ==== Sys2Proof/Machine/Transc.lean ====
section
/-! DEFINITION. The transcendentals (04_numbers.md R105-R107): the exact value is enclosed in fixed point with p
fraction bits, and rounded once. A result is exact only where R105 says so; everywhere else its sticky part is set. -/

namespace Sys2Proof.Machine

/-- A sum of term(i), i rising, while a running power a is multiplied by num / den each step and divided by div i in the
sum; fuel bounds the terms. -/
def seriesFrom (num den : Nat) (div : Nat → Nat) (a : Nat) : Nat → Nat → Nat
  | _, 0 => 0
  | i, fuel + 1 => if a = 0 then 0 else a / div i + seriesFrom num den div (a * num / den) (i + 1) fuel

/-- ln 2 = 2 atanh(1/3). -/
def lnTwo (p : Nat) : Nat := 2 * seriesFrom 1 9 (fun i => 2 * i + 1) (2 ^ p / 3) 0 p

/-- An alternating series: the terms of even index minus those of odd index. -/
def alternating (num den : Nat) (div : Nat → Nat) (a : Nat) (p : Nat) : Nat :=
  seriesFrom (num * num) (den * den) (fun i => div (2 * i)) a 0 p
    - seriesFrom (num * num) (den * den) (fun i => div (2 * i + 1)) (a * num / den) 0 p

/-- atan(1/n). -/
def atanInv (p n : Nat) : Nat := alternating 1 (n * n) (fun i => 2 * i + 1) (2 ^ p / n) p

/-- Pi, by Machin's formula. -/
def piFix (p : Nat) : Nat := 16 * atanInv p 5 - 4 * atanInv p 239

/-- The terms z^i / i! of an exponential, z in fixed point. -/
def expTerms (p z : Nat) (a : Nat) : Nat → Nat → Nat
  | _, 0 => 0
  | i, fuel + 1 => if a = 0 then 0 else a + expTerms p z (a * z / 2 ^ p / (i + 1)) (i + 1) fuel

/-- e^z for 0 <= z < 1. -/
def expFix (p z : Nat) : Nat := expTerms p z (2 ^ p) 0 p

/-- e^(-z), z >= 0: a mantissa in fixed point and the power of two it is divided by. -/
def expNeg (p z : Nat) : Nat × Nat :=
  let l := lnTwo p
  (2 ^ (2 * p) / expFix p (z % l), z / l)

/-- ln y for y >= 1 given in fixed point. -/
def lnFix (p y : Nat) : Nat :=
  let t := (y - 2 ^ p) * 2 ^ p / (y + 2 ^ p)
  2 * seriesFrom (t * t) (2 ^ (2 * p)) (fun i => 2 * i + 1) t 0 p

/-- The magnitude m * 2^e in fixed point. -/
def toFix (p m : Nat) (e : Int) : Nat :=
  if 0 ≤ e + p then m * 2 ^ (e + p).toNat else m / 2 ^ (-(e + p)).toNat

/-- A fixed-point approximation v * 2^e of a value that no shorter dyadic number equals: its error is below 2^20 units,
so 40 bits are given up. The second part says that the two bounds agree above them. -/
def settle (neg : Bool) (v : Nat) (e : Int) : Exact × Bool :=
  (.num neg (v / 2 ^ 40) (e + 40) true, (v - 2 ^ 20) / 2 ^ 40 == (v + 2 ^ 20) / 2 ^ 40)

/-- 256 fraction bits, or 1024 where the bounds part. The bits in doubt at 1024 lie some 900 places below those that
round to F32. -/
def refine (f : Nat → Exact × Bool) : Exact :=
  let x := f 256
  if x.2 then x.1 else (f 1024).1

/-- A value just below m * 2^e, and one just above it. -/
def justBelow (neg : Bool) (m : Nat) (e : Int) : Exact := .num neg (m * 2 ^ 100 - 1) (e - 100) true
def justAbove (neg : Bool) (m : Nat) (e : Int) : Exact := .num neg (m * 2 ^ 100) (e - 100) true

/-- Whether m * 2^e is a whole number, and which. -/
def whole? (m : Nat) (e : Int) : Option Nat :=
  if 0 ≤ e then some (m * 2 ^ e.toNat) else if m % 2 ^ (-e).toNat = 0 then some (m / 2 ^ (-e).toNat) else none

/-- The binary logarithm of a magnitude's leading bit. -/
def leadBit (m : Nat) (e : Int) : Int := (Nat.log2 m : Int) + e

/-- 2^x. -/
def Exact.exp2 : Exact → Exact
  | .nan _ => .nan false
  | .inf n _ => if n then Exact.zero false else .inf false false
  | .num n m e _ =>
    if m = 0 then .num false 1 0 false
    else if 11 < leadBit m e then .num false 1 (if n then -4096 else 4096) true
    else match whole? m e with
      | some k => .num false 1 (if n then -(k : Int) else k) false
      | none => refine fun p =>
          let x := toFix p m e
          -- the fraction above the floor, exact because p exceeds the fraction bits of the narrowest input
          let k := x / 2 ^ p
          let f := if n then 2 ^ p - x % 2 ^ p else x % 2 ^ p
          settle false (expFix p (f * lnTwo p / 2 ^ p)) ((if n then -(k : Int) - 1 else k) - p)

/-- The base-two logarithm. -/
def Exact.log2 : Exact → Exact
  | .nan _ => .nan false
  | .inf n _ => if n then .nan true else .inf false false
  | .num n m e _ =>
    if m = 0 then .inf true true
    else if n then .nan true
    else
      let b := Nat.log2 m
      let k : Int := (b : Int) + e
      if m = 2 ^ b then Exact.int k
      else refine fun p =>
        let l := lnFix p (m * 2 ^ p / 2 ^ b) * 2 ^ p / lnTwo p
        let v : Int := k * ((2 ^ p : Nat) : Int) + l
        settle (decide (v < 0)) v.natAbs (-(p : Int))

/-- tanh x = (1 - e^(-2x)) / (1 + e^(-2x)). -/
def Exact.tanh : Exact → Exact
  | .nan _ => .nan false
  | .inf n _ => .num n 1 0 false
  | .num n m e _ =>
    if m = 0 then Exact.zero n
    else if leadBit m e < -40 then justBelow n m e
    else if 4 < leadBit m e then justBelow n 1 0
    else refine fun p =>
      let (a, k) := expNeg p (toFix p m (e + 1))
      let q := a / 2 ^ k
      -- from 2^-40 on the quotient keeps p - 42 significant bits
      settle n ((2 ^ p - q) * 2 ^ p / (2 ^ p + q)) (-(p : Int))

/-- 1 / (1 + e^(-x)). -/
def Exact.sigmoid : Exact → Exact
  | .nan _ => .nan false
  | .inf n _ => if n then Exact.zero false else .num false 1 0 false
  | .num n m e _ =>
    if m = 0 then .num false 1 (-1) false
    else if leadBit m e < -60 then (if n then justBelow false 1 (-1) else justAbove false 1 (-1))
    else if !n && 4 < leadBit m e then justBelow false 1 0
    else if 7 < leadBit m e then .num false 1 (-400) true
    else refine fun p =>
      let (a, k) := expNeg p (toFix p m e)
      let d := 2 ^ p + a / 2 ^ k
      if n then settle false (a * 2 ^ p / d) (-(k : Int) - p) else settle false (2 ^ (2 * p) / d) (-(p : Int))

/-- The series of erf: terms 2^i x^(2i) / (1 * 3 * ... * (2i + 1)), y = x^2 in fixed point. -/
def erfTerms (p y : Nat) (a : Nat) : Nat → Nat → Nat
  | _, 0 => 0
  | i, fuel + 1 => if a = 0 then 0 else a + erfTerms p y (a * y * 2 / 2 ^ p / (2 * i + 3)) (i + 1) fuel

/-- erf x = 2 / sqrt(pi) * x * e^(-x^2) * series. -/
def Exact.erf : Exact → Exact
  | .nan _ => .nan false
  | .inf n _ => .num n 1 0 false
  | .num n m e _ =>
    if m = 0 then Exact.zero n
    else if 2 < leadBit m e then justBelow n 1 0
    else refine fun p =>
      let y := toFix p (m * m) (2 * e)
      let (a, k) := expNeg p y
      let sum := erfTerms p y (2 ^ p) 0 (2 * p)
      let c := 2 ^ (2 * p + 1) / isqrt (piFix p * 2 ^ p)
      let r := a * sum / 2 ^ p / 2 ^ k * c / 2 ^ p
      -- times m * 2^e: m scaled into [1, 2), so the error of r at most doubles
      settle n (r * m / 2 ^ (Nat.log2 m)) (e + (Nat.log2 m : Int) - p)

/-- The reciprocal. -/
def Exact.recip (x : Exact) : Exact := Exact.div (.num false 1 0 false) x

/-- Widen to F32 exactly, round the function's value to F32 by RNE, then to the output type (R105, R107). -/
def transcend (f : Exact → Exact) (out : Ty) (rnd : Rnd) (sat : Bool) (x : Exact) : Nat × Flags :=
  let (r, fl) := roundFloat .f32 .rne false (f x)
  if out = .f32 then (r, fl)
  else
    let (r2, fl2) := roundFloat out rnd sat (elemValue .f32 r)
    (r2, fl.or fl2)

end Sys2Proof.Machine
end

