-- ==== Sys2Proof/Machine/Vec.lean ====
section
/-! DEFINITION. What the vector engines compute (09_vector.md, 04_numbers.md R98-R112): result pages and flags from
source pages. Nothing here touches the machine. -/

namespace Sys2Proof.Machine

/-! ### Elementwise forms (R239, R240, R243, R244) -/

/-- A function of up to three elements, over floats with the rounding mode and over integers. -/
structure ElemFn where
  onFloat : Rnd → Exact → Exact → Exact → Exact
  onInt   : Int → Int → Int → Int

def fnAdd : ElemFn := { onFloat := fun r a b _ => a.add r b, onInt := fun a b _ => a + b }
def fnSub : ElemFn := { onFloat := fun r a b _ => a.add r b.negate, onInt := fun a b _ => a - b }
def fnMul : ElemFn := { onFloat := fun _ a b _ => a.mul b, onInt := fun a b _ => a * b }
def fnFma : ElemFn := { onFloat := fun r a b c => (a.mul b).add r c, onInt := fun a b c => a * b + c }
def fnFms : ElemFn := { onFloat := fun r a b c => (a.mul b).add r c.negate, onInt := fun a b c => a * b - c }
def fnMin : ElemFn := { onFloat := fun _ a b _ => a.min b, onInt := fun a b _ => min a b }
def fnMax : ElemFn := { onFloat := fun _ a b _ => a.max b, onInt := fun a b _ => max a b }
def fnDiv : ElemFn := { onFloat := fun _ a b _ => a.div b, onInt := fun a _ _ => a }
def fnClamp : ElemFn := { onFloat := fun _ a b c => (a.max b).min c, onInt := fun a b c => min (max a b) c }
def fnAbs : ElemFn := { onFloat := fun _ a _ _ => a.abs, onInt := fun a _ _ => (a.natAbs : Int) }
def fnNeg : ElemFn := { onFloat := fun _ a _ _ => a.negate, onInt := fun a _ _ => -a }
def fnId : ElemFn := { onFloat := fun _ a _ _ => a, onInt := fun a _ _ => a }

/-- One element: the function applied exactly, converted once (R239). -/
def elemResult (fn : ElemFn) (ti out : Ty) (rnd : Rnd) (sat : Bool) (a b c : Nat) : Nat × Flags :=
  let x := elemValue ti a
  let y := elemValue ti b
  let z := elemValue ti c
  if ti.isFloat then (fn.onFloat rnd x y z).toElem ti out rnd sat
  else (Exact.int (fn.onInt x.toInt y.toInt z.toInt)).toElem ti out rnd sat

/-- Two lists side by side through a function of three values, the third fixed. -/
def zip3 (f : Nat → Nat → Nat → Nat × Flags) : List Nat → List Nat → List Nat → List (Nat × Flags)
  | a :: as, b :: bs, c :: cs => f a b c :: zip3 f as bs cs
  | _, _, _ => []

/-- Every element of a group through a function of three sources. -/
def mapThree (ti out : Ty) (wd wa : Nat) (a b c : List Page) (f : Nat → Nat → Nat → Nat × Flags) : List Page × Flags :=
  resultPages out wd ((List.range 64).map fun r =>
    resultRow out (zip3 f (rowElems ti wa (groupRow a r)) (rowElems ti wa (groupRow b r)) (rowElems ti wa (groupRow c r))))

/-- Every element through a function of one source. -/
def mapOne (ti out : Ty) (wd wa : Nat) (a : List Page) (f : Nat → Nat × Flags) : List Page × Flags :=
  resultPages out wd ((List.range 64).map fun r => resultRow out ((rowElems ti wa (groupRow a r)).map f))

def vecTwo (fn : ElemFn) (x : V3) (a b : List Page) : List Page × Flags :=
  mapThree x.ti x.out (TGrp.n x.d) (TGrp.n x.a) a b b (elemResult fn x.ti x.out x.rnd x.sat)

def vecThree (fn : ElemFn) (x : V4) (a b c : List Page) : List Page × Flags :=
  mapThree x.ti x.out (TGrp.n x.d) (TGrp.n x.a) a b c (elemResult fn x.ti x.out x.rnd x.sat)

/-- The scalar of an S form: the low bits as an encoding of TI (R211, R239). -/
def scalarElem (t : Ty) (v : Word) : Nat := v.toNat % 2 ^ t.bits

def vecScalar (fn : ElemFn) (x : VS) (a : List Page) (s : Word) : List Page × Flags :=
  let k := scalarElem x.ti s
  mapOne x.ti x.out (TGrp.n x.d) (TGrp.n x.a) a (fun e => elemResult fn x.ti x.out x.rnd x.sat e k k)

def vecScalarAdd (fn : ElemFn) (x : VS3) (a : List Page) (s : Word) (c : List Page) : List Page × Flags :=
  let k := scalarElem x.ti s
  mapThree x.ti x.out (TGrp.n x.d) (TGrp.n x.a) a a c (fun e _ z => elemResult fn x.ti x.out x.rnd x.sat e k z)

/-- VCVT, and VBROW's and VBCOL's conversion: with TO = TI an infinity comes through unchanged, whatever SAT (R244). -/
def convertElem (x : V2) (e : Nat) : Nat × Flags :=
  elemResult fnId x.ti x.out x.rnd (x.sat && x.ti != x.out) e 0 0

def vecConvert (x : V2) (a : List Page) : List Page × Flags :=
  mapOne x.ti x.out (TGrp.n x.d) (TGrp.n x.a) a (convertElem x)

def vecOne (fn : ElemFn) (x : V2) (a : List Page) : List Page × Flags :=
  mapOne x.ti x.out (TGrp.n x.d) (TGrp.n x.a) a (fun e => elemResult fn x.ti x.out x.rnd x.sat e 0 0)

/-- VABS and VNEG: a float type kept changes the sign bit alone (R78, R243). -/
def vecSign (fn : ElemFn) (onSign : Nat → Nat) (x : V2) (a : List Page) : List Page × Flags :=
  if x.ti = x.out ∧ x.ti.isFloat = true then
    let h := 2 ^ (x.ti.bits - 1)
    mapOne x.ti x.out (TGrp.n x.d) (TGrp.n x.a) a (fun e => (e % h + h * onSign (e / h), Flags.none))
  else vecOne fn x a

/-- The transcendentals (R105-R107). -/
def vecTranscend (f : Exact → Exact) (x : V2) (a : List Page) : List Page × Flags :=
  mapOne x.ti x.out (TGrp.n x.d) (TGrp.n x.a) a (fun e => transcend f x.out x.rnd x.sat (elemValue x.ti e))

/-! ### Comparison and selection (R241, R242) -/

/-- Compare integers by value; they are never unordered. -/
def compareInts (c : Cond) (x y : Int) : Bool :=
  match c with
  | .eq => decide (x = y)
  | .ne => decide (x ≠ y)
  | .lt => decide (x < y)
  | .le => decide (x ≤ y)
  | .gt => decide (y < x)
  | .ge => decide (y ≤ x)
  | .unord => false

def vecCompare (ti : Ty) (cond : Cond) (wd wa : Nat) (a b : List Page) : List Page × Flags :=
  mapThree ti .i8 wd wa a b b fun x y _ =>
    let p := if ti.isFloat then compareVals cond (elemValue ti x) (elemValue ti y)
             else (compareInts cond (elemValue ti x).toInt (elemValue ti y).toInt, Flags.none)
    (if p.1 then 0xFF else 0, p.2)

/-- Bits of A where the mask byte is nonzero, of B elsewhere. -/
def selectElems : List Nat → List Nat → List Nat → List Nat
  | a :: as, b :: bs, c :: cs => (if c = 0 then b else a) :: selectElems as bs cs
  | _, _, _ => []

def vecSelect (ti : Ty) (w wm : Nat) (a b c : List Page) : List Page :=
  typedPages ti w ((List.range 64).map fun r =>
    packRow ti.bits (selectElems (rowElems ti w (groupRow a r)) (rowElems ti w (groupRow b r))
      (rowElems .i8 wm (groupRow c r))))

/-! ### Quantisation (R108-R112, R245) and its reverse (R246) -/

/-- The target's maximum (R108). -/
def quantMax (t : Ty) : Nat :=
  match t with
  | .e4m3 => 448
  | .e5m2 => 57344
  | .e2m1 => 6
  | _ => 127

/-- Whether amax divided by the scale of a code exceeds the target's maximum. -/
def scaleTooSmall (t : Ty) (amax : Exact) (code : Nat) : Bool :=
  ((scale9 (BitVec.ofNat 9 code)).mul (.num false (quantMax t) 0 false)).lt amax

/-- The number of codes that are too small, by bits from the highest; codes rise with their values (R81). -/
def scaleSearch (t : Ty) (amax : Exact) : Nat → Nat → Nat
  | 0, r => r
  | i + 1, r => scaleSearch t amax i (if scaleTooSmall t amax (r + 2 ^ i - 1) then r + 2 ^ i else r)

/-- The scale of a unit (R109-R111) from its amax. -/
def quantScale (t : Ty) (amax : Exact) : BitVec 9 :=
  if amax.isNan || amax.isInf then 0x1FF
  else if amax.isZero then scaleOne
  else BitVec.ofNat 9 (scaleSearch t amax 9 0)

/-- The largest magnitude of elements; NaN when one is NaN. -/
def amaxOf (t : Ty) (l : List Nat) : Exact := l.foldl (fun m e => m.max (elemValue t e).abs) (Exact.zero false)

/-- One quotient into I8 (R111, R112): clamped, never invalid but for a NaN. -/
def quantInt (rnd : Rnd) (x : Exact) : Nat × Flags :=
  match x with
  | .nan _ => (0, { invalid := true })
  | .inf neg _ => (if neg then 0x80 else 0x7F, { saturated := true })
  | .num neg m e st =>
    let (i, inexact) := roundInt rnd neg m e st
    if i < -128 then (0x80, { saturated := true, inexact := true })
    else if 127 < i then (0x7F, { saturated := true, inexact := true })
    else (wrapBits 8 i, { inexact := inexact })

/-- One output element of a unit with a scale and an amax (R110-R112). An amax of 0 gives +0 whatever the element is (log 75). -/
def quantElem (ti out : Ty) (rnd : Rnd) (amax : Exact) (scale : BitVec 9) (e : Nat) : Nat × Flags :=
  if scale = 0x1FF then (0, Flags.none)
  else if amax.isZero then (0, Flags.none)
  else
    let q := (elemValue ti e).div (scale9 scale)
    if out = .i8 then quantInt rnd q else roundFloat out rnd true q

/-- A unit: its scale, its elements, its flags. -/
def quantUnit (ti out : Ty) (rnd : Rnd) (amax : Exact) (l : List Nat) : BitVec 9 × List Nat × Flags :=
  let s := quantScale out amax
  let rs := l.map (quantElem ti out rnd amax s)
  (s, rs.map Prod.fst, (Flags.all (rs.map Prod.snd)).or { invalid := s == 0x1FF })

/-- The units of a group row in order: element lists and amaxes (R109). -/
def quantUnits (x : V2) (mode : QMode) (a c : List Page) (r : Nat) : List (Exact × List Nat) :=
  let es := rowElems x.ti (TGrp.n x.a) (groupRow a r)
  let blocks := chunksNat 32 (es.length / 32) es
  match mode with
  | .block => blocks.map (fun l => (amaxOf x.ti l, l))
  | .row => [(amaxOf x.ti es, es)]
  | .givenRow _ => [((elemValue .f32 (elemAt .f32 c r 0)).abs, es)]
  | .givenBlock _ =>
    ((List.range blocks.length).zip blocks).map (fun p => ((elemValue .f32 (elemAt .f32 c r p.1)).abs, p.2))
where
  /-- Lists of n elements. -/
  chunksNat (n : Nat) : Nat → List Nat → List (List Nat)
    | 0, _ => []
    | k + 1, l => l.take n :: chunksNat n k (l.drop n)

/-- The scale slots of row word r of page p (R245). -/
def quantSlots (out : Ty) (mode : QMode) (scales : List (BitVec 9)) (p j : Nat) : BitVec 9 :=
  match mode with
  | .row => scales.headD scaleOne
  | .givenRow _ => scales.headD scaleOne
  | _ => if j < out.blocks then scales.getD (p * out.blocks + j) scaleOne else scaleOne

/-- The tag of a page row of a VQNT: flags exact, nonfin set also where the scale is 0x1FF. -/
def quantTag (out : Ty) (mode : QMode) (scales : List (BitVec 9)) (row p : Nat) : RowTag :=
  let t := exactTag out row
  let s := quantSlots out mode scales p
  { t with
    nonfin := t.nonfin ||| blockBits out.blocks (fun b => s b == 0x1FF)
    scale0 := s 0, scale1 := s 1, scale2 := s 2, scale3 := s 3 }

/-- VQNT. -/
def vecQuantise (x : V2) (mode : QMode) (a c : List Page) : List Page × Flags :=
  let rows := (List.range 64).map fun r =>
    let us := (quantUnits x mode a c r).map (fun u => quantUnit x.ti x.out x.rnd u.1 u.2)
    (us.map Prod.fst, packRow x.out.bits (us.flatMap (fun u => u.2.1)), Flags.all (us.map (fun u => u.2.2)))
  let pages := (List.range (TGrp.n x.d)).map fun p =>
    let rs := pageRows (rows.map (fun y => y.2.1)) p
    let tags := rows.zipWith (fun y row => quantTag x.out mode y.1 row p) rs
    mkPage rs tags x.out.code x.out.code false
  (pages, Flags.all (rows.map (fun y => y.2.2)))

/-- VDQN: each element times the scale of its block. -/
def vecDequantise (x : V2) (a : List Page) : List Page × Flags :=
  resultPages x.out (TGrp.n x.d) ((List.range 64).map fun r =>
    let es := rowElems x.ti (TGrp.n x.a) (groupRow a r)
    resultRow x.out (((List.range es.length).zip es).map fun p =>
      roundFloat x.out x.rnd x.sat ((scale9 (scaleAt a x.ti.blocks r (p.1 / 32))).mul (elemValue x.ti p.2))))

/-! ### Reductions and broadcasts (R247, R248, R250) -/

/-- What a reduction makes of a list of elements, over floats and over integers. -/
structure Reduction where
  onFloat : List Exact → Exact
  onInt   : List Int → Int

def foldMax (l : List Exact) : Exact := l.tail.foldl Exact.max (l.headD (Exact.zero false))
def foldMin (l : List Exact) : Exact := l.tail.foldl Exact.min (l.headD (Exact.zero false))

def redMax : Reduction := { onFloat := foldMax, onInt := fun l => l.tail.foldl max (l.headD 0) }
def redMin : Reduction := { onFloat := foldMin, onInt := fun l => l.tail.foldl min (l.headD 0) }
def redSum : Reduction := { onFloat := exactSum, onInt := fun l => l.foldl (· + ·) 0 }
def redAbsMax : Reduction :=
  { onFloat := fun l => foldMax (l.map Exact.abs), onInt := fun l => l.foldl (fun m x => max m (x.natAbs : Int)) 0 }
def redSquares : Reduction :=
  { onFloat := fun l => exactSum (l.map (fun x => x.mul x)), onInt := fun l => l.foldl (fun m x => m + x * x) 0 }

/-- One reduced value, exact and then converted once. -/
def reduceElems (red : Reduction) (x : V2) (l : List Nat) : Nat × Flags :=
  let vs := l.map (elemValue x.ti)
  if x.ti.isFloat then (red.onFloat vs).toElem x.ti x.out x.rnd x.sat
  else (Exact.int (red.onInt (vs.map Exact.toInt))).toElem x.ti x.out x.rnd x.sat

/-- Row reductions: the result in column 0 of one page, +0 elsewhere. -/
def vecRowReduce (red : Reduction) (x : V2) (a : List Page) : List Page × Flags :=
  resultPages x.out 1 ((List.range 64).map fun r => reduceElems red x (rowElems x.ti (TGrp.n x.a) (groupRow a r)))

/-- Column reductions: the results in row 0, +0 in the other rows. -/
def vecColReduce (red : Reduction) (x : V2) (a : List Page) : List Page × Flags :=
  let rows := (groupRows a).map (rowElems x.ti (TGrp.n x.a))
  let cols := (List.range (elemsPerRow x.ti (TGrp.n x.a))).map (fun c => rows.map (fun l => l.getD c 0))
  let r0 := resultRow x.out (cols.map (reduceElems red x))
  resultPages x.out (TGrp.n x.d) (r0 :: List.replicate 63 (0, Flags.none))

/-- VBROW: row 0 converted, in every row. -/
def vecRowSpread (x : V2) (a : List Page) : List Page × Flags :=
  let r0 := resultRow x.out ((rowElems x.ti (TGrp.n x.a) (groupRow a 0)).map (convertElem x))
  resultPages x.out (TGrp.n x.d) (List.replicate 64 r0)

/-- VBCOL: column 0 converted, along every row. -/
def vecColSpread (x : V2) (a : List Page) : List Page × Flags :=
  let n := elemsPerRow x.out (TGrp.n x.d)
  resultPages x.out (TGrp.n x.d) ((List.range 64).map fun r =>
    let v := convertElem x (elemAt x.ti a r 0)
    (packRow x.out.bits (List.replicate n v.1), v.2))

/-! ### The softmax merge (R249) -/

/-- x + y * 2^(-d / 2^p ...): the sum of a number and of a number times an irrational power of two, d = dm * 2^de its
positive non-integer distance; p fraction bits. The second part says that p leaves at least 70 bits beyond doubt. -/
def mergeAt (xn : Bool) (xm : Nat) (xe : Int) (yn : Bool) (ym : Nat) (ye : Int) (dm : Nat) (de : Int) (p : Nat) :
    Exact × Bool :=
  let d := toFix p dm de
  let k := d / 2 ^ p
  -- 2^(-d) = 2^(1 - frac) * 2^(-k - 1)
  let v := expFix p ((2 ^ p - d % 2 ^ p) * lnTwo p / 2 ^ p)
  let g : Int := ye - k - 1 - p
  let (i, e) := dyAdd (signed xn xm) xe (signed yn (ym * v)) g
  let err := ym * 2 ^ 20 * 2 ^ (g - e).toNat
  let sh := Nat.log2 err + 21
  let lo := (i.natAbs - err) / 2 ^ sh
  if lo = (i.natAbs + err) / 2 ^ sh ∧ 2 ^ 70 ≤ lo then (.num (decide (i < 0)) lo (e + sh) true, true)
  else (.num (decide (i < 0)) i.natAbs e true, false)

/-- s = x + y * 2^(-d), the distance d >= 0 given exactly. A distance past 4096 puts the second term below every
rounding of the first, so 4096 stands for it. -/
def mergeSum (x y : Exact) (dm : Nat) (de : Int) : Exact :=
  if dm = 0 then exactSum [x, y]
  else
    let far := 12 ≤ leadBit dm de
    match (if far then some 4096 else whole? dm de), x, y with
    | some k, _, .num yn ym ye _ => exactSum [x, if ym = 0 then y else .num yn ym (ye - k) false]
    | none, .num xn xm xe _, .num yn ym ye _ =>
      if ym = 0 then exactSum [x, y] else refine (mergeAt xn xm xe yn ym ye dm de)
    | _, _, _ => exactSum [x, y]

/-- A number times 2^(-infinity) = 0. -/
def timesZero (x : Exact) : Exact := x.mul (Exact.zero false)

/-- The merge of two pairs (maximum, sum), as F32 encodings. -/
def mergePair (ma sa mb sb : Nat) : (Nat × Nat) × Flags :=
  let a := elemValue .f32 ma
  let b := elemValue .f32 mb
  let x := elemValue .f32 sa
  let y := elemValue .f32 sb
  if a.isNan || x.isNan || b.isNan || y.isNan then ((Ty.f32.nan, Ty.f32.nan), Flags.none)
  else
    let m := a.max b
    let s := match a, b with
      | .num an am ae _, .num bn bm be _ =>
        let (i, e) := dyAdd (signed an am) ae (-(signed bn bm)) be
        if i < 0 then mergeSum y x i.natAbs e else mergeSum x y i.natAbs e
      | .inf an _, .inf bn _ =>
        if an = bn then exactSum [x, y] else if an then exactSum [timesZero x, y] else exactSum [x, timesZero y]
      | .inf an _, _ => if an then exactSum [timesZero x, y] else exactSum [x, timesZero y]
      | _, .inf bn _ => if bn then exactSum [x, timesZero y] else exactSum [timesZero x, y]
      | _, _ => exactSum [x, y]
    let r := roundFloat .f32 .rne false s
    (((roundFloat .f32 .rne false m).1, r.1), r.2)

/-- VRMRG, and TXMRG's rows: columns 0 and 1 merged, +0 in the others; bits 0-63 of a row hold the pair. -/
def mergeRow (a b : Nat) : Nat × Flags :=
  let p := mergePair (a % 2 ^ 32) (a / 2 ^ 32 % 2 ^ 32) (b % 2 ^ 32) (b / 2 ^ 32 % 2 ^ 32)
  (p.1.1 + 2 ^ 32 * p.1.2, p.2)

def vecMerge (a b : List Page) : List Page × Flags :=
  resultPages .f32 1 ((List.range 64).map fun r => mergeRow (groupRow a r) (groupRow b r))

/-! ### Permutations (R251-R253) -/

/-- VTRN. -/
def vecTranspose (ti : Ty) (w : Nat) (a : List Page) : List Page :=
  let rows := (groupRows a).map (rowElems ti w)
  typedPages ti w ((List.range 64).map fun r => packRow ti.bits (rows.map (fun l => l.getD r 0)))

/-- Rows of pages rearranged with their tags: row r comes from row f r. -/
def permutePages (f : Nat → Nat) (a : List Page) : List Page :=
  a.map fun p =>
    { p with rows := Vector.ofFn (fun i : Fin 64 => BitVec.ofNat 512 (pageRow p (f i.val)))
             tags := Vector.ofFn (fun i : Fin 64 => pageTag p (f i.val)) }

/-- VROTR. -/
def vecRotateRows (k : Nat) (a : List Page) : List Page := permutePages (fun r => (r + 64 - k % 64) % 64) a

/-- Rotate a row of l bits up by k. -/
def rotateBits (l k x : Nat) : Nat := x * 2 ^ (k % l) % 2 ^ l + x / 2 ^ (l - k % l)

/-- VROTC: by elements. -/
def vecRotateCols (ti : Ty) (w k : Nat) (a : List Page) : List Page :=
  typedPages ti w ((groupRows a).map (rotateBits (512 * w) (k % elemsPerRow ti w * ti.bits)))

/-- The indices of VPERMR. -/
def permIndices (c : List Page) : List Int :=
  (List.range 64).map (fun r => (BitVec.ofNat 32 (elemAt .i32 c r 0)).toInt)

/-- Whether every index names a row. -/
def permOk (l : List Int) : Bool := l.all (fun i => decide (0 ≤ i) && decide (i ≤ 63))

/-- VPERMR. -/
def vecPermuteRows (c a : List Page) : List Page :=
  let l := permIndices c
  permutePages (fun r => (l.getD r 0).toNat) a

/-- VBROT. -/
def vecRotateBits (w : Nat) (k : Int) (a : List Page) : List Page :=
  let l := 512 * w
  plainPages w ((groupRows a).map (rotateBits l (k % (l : Int)).toNat))

/-! ### Bit logic (R254-R257) -/

def vecBits2 (f : Nat → Nat → Nat) (w : Nat) (a b : List Page) : List Page :=
  plainPages w ((List.range 64).map fun r => f (groupRow a r) (groupRow b r))

/-- VNOT. -/
def vecNot (w : Nat) (a : List Page) : List Page :=
  plainPages w ((groupRows a).map (fun x => 2 ^ (512 * w) - 1 - x))

/-- The bits selected by a table of eight over three numbers of n bits (R186). -/
def bitMap (n : Nat) (table : BitVec 8) (a b c : Nat) : Nat :=
  let ones := 2 ^ n - 1
  let pick := fun (x : Nat) (want : Bool) => if want then x else ones - x
  (List.range 8).foldl (fun acc i =>
    if table.getLsbD i then
      acc ||| (pick a (i % 2 == 1) &&& pick b (i / 2 % 2 == 1) &&& pick c (i / 4 == 1))
    else acc) 0

/-- VBMAP. -/
def vecBitMap (table : BitVec 8) (w : Nat) (a b c : List Page) : List Page :=
  plainPages w ((List.range 64).map fun r => bitMap (512 * w) table (groupRow a r) (groupRow b r) (groupRow c r))

/-- Shifts of one element of b bits (R255). -/
def shiftLeft (b k x : Nat) : Nat := if b ≤ k then 0 else x * 2 ^ k % 2 ^ b
def shiftRight (b k x : Nat) : Nat := if b ≤ k then 0 else x / 2 ^ k
def shiftArith (b k x : Nat) : Nat :=
  let top := x / 2 ^ (b - 1) % 2
  let k := if b ≤ k then b else k
  x / 2 ^ k + (if top = 1 then 2 ^ b - 2 ^ (b - k) else 0)

def vecShift (f : Nat → Nat → Nat → Nat) (ti : Ty) (w k : Nat) (a : List Page) : List Page :=
  typedPages ti w ((groupRows a).map fun row => packRow ti.bits ((rowElems ti w row).map (f ti.bits k)))

/-- VFSHL and VFSHR (R256). -/
def vecFunnelLeft (w k : Nat) (a b : List Page) : List Page :=
  let l := 512 * w
  vecBits2 (fun x y => (x * 2 ^ l + y) * 2 ^ (k % l) / 2 ^ l % 2 ^ l) w a b
def vecFunnelRight (w k : Nat) (a b : List Page) : List Page :=
  let l := 512 * w
  vecBits2 (fun x y => (x * 2 ^ l + y) / 2 ^ (k % l) % 2 ^ l) w a b

/-- The one bits of a number of n bits. -/
def popBits : Nat → Nat → Nat
  | 0, _ => 0
  | n + 1, x => x % 2 + popBits n (x / 2)

/-- VPOPC. -/
def vecPopCount (ti out : Ty) (wd wa : Nat) (a : List Page) : List Page :=
  typedPages out wd ((groupRows a).map fun row =>
    packRow out.bits ((rowElems ti wa row).map (popBits ti.bits)))

end Sys2Proof.Machine
end

