-- ==== Sys2Proof/Machine/Chan.lean ====
section
/-! DEFINITION. Endpoints, cells and the rendezvous (12_channels.md R318-R341): handles, allocation, posting, pairing,
completion into a slot or an image, closing, ALT claims, barriers, timers. -/

namespace Sys2Proof.Machine

/-! ### Cells and entries -/

def EndSt.fresh (h : Holder) : EndSt := { holder := h, closed := false, post := none, held := none, bound := false, way := false }

def Cell.side (c : Cell) (b : Bool) : EndSt := if b then c.end1 else c.end0
def Cell.setSide (c : Cell) (b : Bool) (e : EndSt) : Cell := if b then { c with end1 := e } else { c with end0 := e }

def State.cell? (s : State) (id : Nat) : Option Cell := s.cells.find? (fun c => c.id == id)
def State.updCell (s : State) (id : Nat) (f : Cell → Cell) : State :=
  { s with cells := s.cells.map (fun c => if c.id = id then f c else c) }
def State.updEnd (s : State) (id : Nat) (b : Bool) (f : EndSt → EndSt) : State :=
  s.updCell id (fun c => c.setSide b (f (c.side b)))

/-- The channel ID as a record carries it: bit [32] for a cell the device holds itself (R508). -/
def Cell.word (c : Cell) : Word := BitVec.ofNat 64 ((if c.dh then 2 ^ 32 else 0) + c.chid)

/-- The end an entry stands for: a timer, host, fault or peer endpoint is end 0. -/
def Entry.side (e : Entry) (c : Cell) : Bool := c.kind == .chan && c.bar.isNone && e.number == 1

/-- The handle word of an entry (R319). -/
def Entry.handle (e : Entry) : Word32 := BitVec.ofNat 32 (e.gen.toNat * 2 ^ 22 + e.index)

/-- The entry a handle word names for an owner: in use, the generation matching, the owner right (R320). -/
def State.entryOf (s : State) (part : Nat) (pid : Pid) (h : Word32) : Option Entry :=
  if h = 0 then none
  else s.entries.find? (fun e => e.live && e.part == part && e.handle == h && e.owner == pid)

def State.updEntry (s : State) (part idx : Nat) (f : Entry → Entry) : State :=
  { s with entries := s.entries.map (fun (e : Entry) => if e.part = part ∧ e.index = idx then f e else e) }

/-- The endpoint kinds of R318. -/
def Cell.kindCode (c : Cell) : Nat :=
  if c.bar.isSome then 2
  else match c.kind with
    | .chan => 1 | .fault => 1 | .timer => 3 | .host => 4 | .peer => 5

/-- The live entry of an end, and its owner. -/
def State.endEntry (s : State) (c : Cell) (b : Bool) : Option Entry :=
  s.entries.find? (fun e => e.live && e.cell == c.id && e.side c == b)
def State.endOwner (s : State) (c : Cell) (b : Bool) : Option Pid := (s.endEntry c b).map Entry.owner

/-! ### CHAREA (R321-R323) -/

/-- The base of CHAREA: bits [51:26]. -/
def Part.chBase (p : Part) : Nat := p.charea.toNat / 2 ^ 26 % 2 ^ 26 * 2 ^ 26

/-- The virtual addresses of a cell and of an entry of CHAREA. -/
def Part.cellAddr (p : Part) (chid : Nat) : Word := BitVec.ofNat 64 (p.chBase + 64 * chid)
def Part.entryAddr (p : Part) (idx : Nat) : Word := BitVec.ofNat 64 (p.chBase + 0x4000000 + 16 * idx)

/-- The device reaches a cell through the supervisor's translation; a fault there is the supervisor's, and a cell on an
offline die gives the operation MEMOFF (R321, R323). -/
def State.reachCell (s : State) (c : Cell) : Except Halt Unit :=
  if c.dh then .ok ()
  else
    let p := s.part c.part
    match s.areaXlate p (p.cellAddr c.chid) 64 .modify with
    | .ok pa => if s.rangeBad pa 64 then .error (.area (poisonAt (p.cellAddr c.chid, pa))) else .ok ()
    | .error t => if t.cause = .memoff then .error (.trap (.at .memoff c.word)) else .error (.area t)

/-- The device reaches an entry of CHAREA in the same way. -/
def State.reachEntry (s : State) (e : Entry) (c : Cell) : Except Halt Unit :=
  if e.dh then .ok ()
  else
    let p := s.part e.part
    match s.areaXlate p (p.entryAddr e.index) 16 .modify with
    | .ok pa => if s.rangeBad pa 16 then .error (.area (poisonAt (p.entryAddr e.index, pa))) else .ok ()
    | .error t => if t.cause = .memoff then .error (.trap (.at .memoff c.word)) else .error (.area t)

/-- An operation reaches its cell and its entry. -/
def State.reach (s : State) (e : Entry) (c : Cell) : Except Halt Unit :=
  match s.reachCell c with
  | .error h => .error h
  | .ok () => s.reachEntry e c

/-- The device reaches the entry a handle word names in a partition. -/
def State.reachHandle (s : State) (part : Nat) (c : Cell) (h : Word32) : Except Halt Unit :=
  match s.entries.find? (fun e => e.live && e.part == part && e.handle == h) with
  | some e => s.reachEntry e c
  | none => .ok ()

/-- What reaching a cell and an entry of CHAREA leaves in the L2 and the error log (16_mesh.md R429, 19_trust.md R477). -/
def State.reachedCell (s : State) (c : Cell) : State :=
  if c.dh then s else s.touchOwn (s.part c.part) ((s.part c.part).cellAddr c.chid) 64
def State.reachedEntry (s : State) (e : Entry) : State :=
  if e.dh then s else s.touchOwn (s.part e.part) ((s.part e.part).entryAddr e.index) 16
def State.reached (s : State) (e : Entry) (c : Cell) : State := (s.reachedCell c).reachedEntry e

/-- What reaching a new cell and the entries of some handle words leaves. -/
def State.reachedNew (s : State) (part id : Nat) (hs : List Word32) : State :=
  let s1 := match s.cells.find? (fun c => c.id == id) with
    | some c => s.reachedCell c
    | none => s
  (s1.entries.filter (fun e => e.live && e.part == part && hs.contains e.handle)).foldl State.reachedEntry s1

/-- The device changes a cell or an entry of CHAREA for no instruction that could take a trap: a fault there is the supervisor's
(R321), an offline die gives none. -/
def State.deviceReach (s : State) (part : Nat) (r : Except Halt Unit) (done : State → State) : State :=
  match r with
  | .ok () => done s
  | .error (.area t) => s.areaFault part t
  | .error _ => s

/-- The trap of R322. -/
def noEndpoint : TrapInfo := .at .endpoint 0xFFFFFFFFFFFFFFFF

/-- Numbers below n that a test leaves free. -/
def freeBelow (n : Nat) (used : List Nat) : List Nat := (List.range n).filter (fun i => !used.contains i)

/-- One of a list, chosen by a free value (R321: "in any way"). -/
def State.pick (s : State) (l : List Nat) : Option Nat := l[Config.freeIndex s.draws % l.length]?

/-- The first number from a start that is not used, searched over the used ones. -/
def firstFree (used : List Nat) (start : Nat) : Nat → Nat
  | 0 => start
  | fuel + 1 => if used.contains start then firstFree used (start + 1) fuel else start

/-- A free number below n: the first at or after a free starting point, else the first of all. -/
def State.chooseFree (s : State) (n lo : Nat) (used : List Nat) : Option Nat :=
  let a := firstFree used (lo + Config.freeIndex s.draws % (n - lo)) (used.length + 1)
  if a < n then some a
  else
    let b := firstFree used lo (used.length + 1)
    if b < n then some b else none

/-- A new entry in CHAREA or outside it, for an owner; its generation follows the index's last one. -/
def State.newEntry (s : State) (part : Nat) (dh : Bool) (cell number : Nat) (owner : Pid) : Option (State × Word32) :=
  let p := s.part part
  let order := p.charea.toNat % 32
  let used := (s.entries.filter (fun (e : Entry) => e.part == part && e.live)).map Entry.index
  let idx :=
    if dh then some (0x3FFFFF - firstFree (used.map (0x3FFFFF - ·)) 0 (used.length + 1))
    else if p.charea.getLsbD 5 then s.chooseFree (4 * 2 ^ order) 1 used else none
  match idx with
  | none => none
  | some i =>
    let gen := ((s.entries.find? (fun (e : Entry) => e.part == part && e.index == i)).map (fun e => e.gen + 1)).getD 0
    let e : Entry := { part := part, dh := dh, index := i, gen := gen, cell := cell, number := number, owner := owner,
                       arrived := false, live := true }
    some ({ s with entries := s.entries.filter (fun (x : Entry) => !(x.part == part && x.index == i)) ++ [e] }.drew, e.handle)

/-- A new cell; its channel ID is free among those below 2^order of CHAREA, or of the device's own numbering. -/
def State.newCell (s : State) (part : Nat) (dh : Bool) (kind : CellKind) (h0 h1 : Holder) (bar : Option Barrier) :
    Option (State × Nat) :=
  let p := s.part part
  let used := (s.cells.filter (fun c => c.part == part && c.dh == dh)).map Cell.chid
  let chid :=
    if dh then some (firstFree used 0 (used.length + 1))
    else if p.charea.getLsbD 5 then s.chooseFree (2 ^ (p.charea.toNat % 32)) 0 used else none
  match chid with
  | none => none
  | some i =>
    let c : Cell := { id := s.nextId, part := part, chid := i, dh := dh, kind := kind, end0 := EndSt.fresh h0,
                      end1 := EndSt.fresh h1, bar := bar }
    some ({ s with cells := s.cells ++ [c], nextId := s.nextId + 1 }.drew, s.nextId)

/-- A new channel of a partition with both ends owned by processes: the state and both handles (CHNEW, R348). The device
reaches the cell and both entries (R321). -/
def State.newChannel (s : State) (part : Nat) (o0 o1 : Pid) : Except Halt (State × Word32 × Word32 × Nat) :=
  match s.newCell part false .chan .proc .proc none with
  | none => .error (.trap noEndpoint)
  | some (s1, id) =>
    match s1.newEntry part false id 0 o0 with
    | none => .error (.trap noEndpoint)
    | some (s2, h0) =>
      match s2.newEntry part false id 1 o1 with
      | none => .error (.trap noEndpoint)
      | some (s3, h1) =>
        match s3.cell? id with
        | none => .error (.trap noEndpoint)
        | some c =>
          match s3.reachCell c, s3.reachHandle part c h0, s3.reachHandle part c h1 with
          | .error h, _, _ => .error h
          | _, .error h, _ => .error h
          | _, _, .error h => .error h
          | .ok (), .ok (), .ok () => .ok (s3, h0, h1, id)

/-! ### Checks of E registers (R318, R320, R348) -/

def endpointTrap (a : Word) (x : EReg) : Halt := .trap { cause := .endpoint, addr := a, detail := BitVec.ofNat 40 x.val }

/-- The endpoint of E[x]; an empty or invalid register takes ENDPOINT with address 0. -/
def State.useE (s : State) (x : EReg) : Except Halt (Entry × Cell) :=
  match s.entryOf s.cur.part s.cur.pid (s.rdE x) with
  | none => .error (endpointTrap 0 x)
  | some e =>
    match s.cell? e.cell with
    | none => .error (endpointTrap 0 x)
    | some c => .ok (e, c)

/-- "Check E[x]" for an operation that some kinds accept. -/
def State.checkE (s : State) (x : EReg) (kinds : List Nat) : Except Halt (Entry × Cell) :=
  match s.useE x with
  | .error h => .error h
  | .ok (e, c) => if kinds.contains c.kindCode then .ok (e, c) else .error (endpointTrap c.word x)

/-- "Empty E[x]". -/
def State.emptyE (s : State) (x : EReg) : Except Halt Unit :=
  if s.rdE x = 0 then .ok ()
  else .error (endpointTrap (match s.useE x with | .ok (_, c) => c.word | .error _ => 0) x)

/-! ### Completion (R327, R328, R291) -/

/-- An acquire: the L1 caches of the core where the process is resident are invalidated. -/
def State.acquire (s : State) (pid : Pid) : State :=
  match s.proc? pid with
  | none => s
  | some p => if p.isResident then s.flushL1 p.core else s

/-- The words of an image that writes change. -/
def Writes.words (w : Writes) (p : Proc) : List (Nat × List Byte) :=
  w.s.map (fun x => p.regWord x.1) ++ w.e.map (fun x => p.handleWord x.1) ++ p.commonWords

/-- Writes reach a context; a parked process's image shows the words they change (R328). -/
def State.write (s : State) (pid : Pid) (w : Writes) : State :=
  (s.updProc pid (fun p => p.take w)).syncImage pid w.words

/-- A process takes writes, from the first resumed cycle where its core's clock is paused (15_traps.md R413). -/
def State.writeWhen (s : State) (pid : Pid) (w : Writes) : State :=
  match s.pausedCore pid with
  | some c => s.latchAt c (.writes pid w)
  | none => s.write pid w

/-- The blocked instruction of a process retires: its wait ends now, and its registers take what it writes, from the first
resumed cycle where the core's clock is paused (15_traps.md R413). -/
def State.complete (s : State) (pid : Pid) (w : Writes) : State :=
  let s1 := s.updProc pid (fun p => { p with wait := .none, waitGen := p.waitGen + 1, stepping := false })
  (s1.writeWhen pid w).enqueue pid

/-- A blocked instruction traps: its operation is gone and its wait ends (R326, R330). -/
def State.opTrap (s : State) (pid : Pid) (t : TrapInfo) : State :=
  match s.proc? pid with
  | none => s
  | some p =>
    (s.updProc pid (fun p => { p with wait := .none, waitGen := p.waitGen + 1 })).trapParked pid t p.iw0 p.iw1

/-- Pages reach a group of a process: fresh pool pages, which an image that is complete shows. -/
def State.mapPages (s : State) (pid : Pid) (d : TGrp) (pages : List Page) : State :=
  match s.proc? pid with
  | none => s
  | some p =>
    let r := s.freshPages p pages
    (r.1.mapGroup pid d r.2).syncImage pid (fun p => p.trefWords d)

/-- Pages delivered to a group (R329): into fresh pool pages of the shared part, which the registers of a core in a clock pause
map at its end (16_mesh.md R424); for a parked process whose pool has no room, into its image. none when they must wait. -/
def State.deliver (s : State) (pid : Pid) (d : TGrp) (pages : List Page) : Option State :=
  match s.proc? pid with
  | none => some s
  | some p =>
    if s.sharedRoom p.core pages.length then
      some (match s.pausedCore pid with
        | some c => s.latchAt c (.tiles pid d pages)
        | none => s.mapPages pid d pages)
    else if p.place = .parked then
      some ((((TGrp.regs d).zip pages).foldl (fun s x =>
        match s.pageToImage p x.1 x.2 with
        | .ok t => t
        | .error t => s.areaFault p.part t) s).mapGroup pid d (List.replicate (TGrp.n d) .image)
        |>.syncImage pid (fun p => p.trefWords d))
    else none

/-! ### Exchanges (R331, R332) -/

/-- The value both parties of an XCOL receive; y is the partner's. -/
def exchangeValue (f : XFn) (x y : Word) : Word × Flags :=
  let a := elemValue .f32 (x.toNat % 2 ^ 32)
  let b := elemValue .f32 (y.toNat % 2 ^ 32)
  let enc := fun (v : Exact) => BitVec.ofNat 64 (roundFloat .f32 .rne false v).1
  match f with
  | .maxf => (enc (a.max b), Flags.none)
  | .minf => (enc (a.min b), Flags.none)
  | .sumf =>
    let r := roundFloat .f32 .rne false (exactSum [a, b])
    (BitVec.ofNat 64 r.1, r.2)
  | .sumi => (x + y, Flags.none)
  | .maxi => (if x.toInt < y.toInt then y else x, Flags.none)
  | .swp => (y, Flags.none)

/-- Poison of a partner's page goes to the matching result page. -/
def withPoison (theirs result : List Page) : List Page :=
  result.zipWith (fun r t => { r with poison := t.poison }) theirs

/-- TXMAX and TXSUM, element by element. -/
def exchangeTiles (ty : Ty) (sum : Bool) (a b : List Page) : List Page × Flags :=
  let fn : ElemFn :=
    if sum then { onFloat := fun _ x y _ => exactSum [x, y], onInt := fun x y _ => x + y } else fnMax
  mapThree ty ty a.length a.length a b b (elemResult fn ty ty .rne false)

/-- TXMRG: the pairs in columns 0 and 1 of each group row. -/
def exchangeMerge (a b : List Page) : List Page × Flags :=
  resultPages .f32 a.length ((List.range 64).map fun r => mergeRow (groupRow a r) (groupRow b r))

/-! ### The pages of a posted operation (R328, R329) -/

/-- The page a process sends from a register: a pool page, poisoned where its transfer damages it, or the page in its
image. -/
def State.sendPage (s : State) (p : Proc) (k : Nat) : Except TrapInfo (State × Page) :=
  match p.tref k with
  | .pool id =>
    let hurt := (s.pages.find? (fun q => q.id == id)).any PoolPage.hurt
    let s1 := s.settlePage id
    .ok (s1, { s1.pageOf id with poison := (s1.pageOf id).poison || hurt })
  | .image => s.pageFromImage p k
  | .zero => .ok (s, zeroPage)

/-- The pages of some registers. -/
def State.sendRegs (s : State) (p : Proc) : List Nat → Except TrapInfo (State × List Page)
  | [] => .ok (s, [])
  | k :: rest =>
    match s.sendPage p k with
    | .error t => .error t
    | .ok (s1, pg) => (s1.sendRegs p rest).map (fun r => (r.1, pg :: r.2))

/-- The pages of a tile operation, wherever they lie. -/
def State.srcPages (s : State) (o : Option Pid) : Src → Except TrapInfo (State × List Page)
  | .held l => .ok (s, l)
  | .regs g => match o.bind s.proc? with
    | some p => s.sendRegs p (TGrp.regs g)
    | none => .ok (s, [])

/-- A tile operation with its pages read. -/
def Posted.withPages : Posted → List Page → Posted
  | .sendt w _, l => .sendt w (.held l)
  | .txmax d t _, l => .txmax d t (.held l)
  | .txsum d t _, l => .txsum d t (.held l)
  | .txmrg d _, l => .txmrg d (.held l)
  | x, _ => x

/-- Where the pages of an operation are. -/
def Posted.src : Posted → Src
  | .sendt _ x => x
  | .txmax _ _ x => x
  | .txsum _ _ x => x
  | .txmrg _ x => x
  | _ => .held []

/-- The pages an operation carries. -/
def Posted.pages (x : Posted) : List Page := match x.src with | .held l => l | .regs _ => []

/-- An operation of a party with its pages read (R329). -/
def State.loaded (s : State) (o : Option Pid) (x : Posted) : Except TrapInfo (State × Posted) :=
  (s.srcPages o x.src).map (fun r => (r.1, x.withPages r.2))

/-! ### Pairing (R326) -/

/-- The two operations of a pair complete together. -/
inductive Pairing where
  | scalar (v : Word) (d : SReg)
  | handle (b d : EReg)
  | tiles (pages : List Page) (d : TGrp)
  | xcol (f : XFn)
  | tx (left right : TGrp) (result : List Page × Flags)
  | mismatch
  deriving DecidableEq, Repr

/-- What two posted operations make, the first read as the sender; both orders are tried. -/
def pairOne (p q : Posted) : Option Pairing :=
  match p, q with
  | .send v, .recv d => some (.scalar v d)
  | .sende b, .recve d => some (.handle b d)
  | .sendt w (.held pages), .recvt d => if w = d.w then some (.tiles pages d) else none
  | _, _ => none

/-- The exchanges. -/
def pairBoth (p q : Posted) : Option Pairing :=
  match p, q with
  | .xcol f _ _, .xcol g _ _ => if f = g then some (.xcol f) else none
  | .txmax d t (.held a), .txmax e u (.held b) => if t = u ∧ d.w = e.w then some (.tx d e (exchangeTiles t false a b)) else none
  | .txsum d t (.held a), .txsum e u (.held b) => if t = u ∧ d.w = e.w then some (.tx d e (exchangeTiles t true a b)) else none
  | .txmrg d (.held a), .txmrg e (.held b) => if d.w = e.w then some (.tx d e (exchangeMerge a b)) else none
  | _, _ => none

/-- Whether a posted operation is an ALT offer. -/
def Posted.isOffer : Posted → Bool
  | .offer _ _ => true
  | _ => false

/-- Sends and receives as R335 reads them. -/
def Posted.isSend : Posted → Bool
  | .send _ => true
  | .sende _ => true
  | .sendt _ _ => true
  | .offer _ b => b
  | _ => false

def Posted.isRecv : Posted → Bool
  | .recv _ => true
  | .recve _ => true
  | .recvt _ => true
  | .offer _ b => !b
  | _ => false

/-- Whether a process is on the move (R143). -/
def Proc.isMoving (p : Proc) : Bool := match p.place with | .moving _ _ => true | _ => false
def State.ownerMoving (s : State) (c : Cell) (b : Bool) : Bool :=
  match (s.endOwner c b).bind s.proc? with
  | some p => p.isMoving
  | none => false

/-- The posted operation of an end is taken; a binding ends with the follow-up. -/
def State.unpost (s : State) (id : Nat) (b : Bool) : State := s.updEnd id b (fun e => { e with post := none })
def State.unbind (s : State) (id : Nat) : State :=
  (s.updEnd id false (fun e => { e with bound := false })).updEnd id true (fun e => { e with bound := false })

/-- A scalar arrives at the process that owns an end, and it acquires. -/
def State.giveScalar (s : State) (pid : Pid) (v : Word) (d : SReg) : State :=
  (s.complete pid { Writes.step 4 with s := [(d, v)] }).acquire pid

/-- The entry that a handle word names is reached where its owner changes (R321). -/
def State.reachMoved (s : State) (part : Nat) (pid : Pid) (h : Word32) : State :=
  match s.entryOf part pid h with
  | none => s
  | some e => match s.cell? e.cell with
    | none => s
    | some c => s.deviceReach part (s.reachEntry e c) (fun t => t.reachedEntry e)

/-- A handle arrives: the entry changes owner at this instant (R348). -/
def State.giveHandle (s0 : State) (src dst : Pid) (b d : EReg) : State :=
  match s0.proc? src, s0.proc? dst with
  | some p, some q =>
    let h := p.e[b]
    let s := s0.reachMoved p.part src h
    let s1 := { s with entries := s.entries.map (fun (e : Entry) =>
                  if e.live && e.part == p.part && e.handle == h && e.owner == src then { e with owner := dst } else e) }
    let s2 := s1.complete src { Writes.step 4 with e := [(b, 0)] }
    let s3 := s2.complete dst { Writes.step 4 with e := [(d, h)] }
    if q.pid = dst then s3.acquire dst else s3
  | _, _ => s0

/-- Both posted operations are taken, and a binding ends. -/
def State.clearPair (s : State) (c : Cell) : State := ((s.unpost c.id false).unpost c.id true).unbind c.id

/-- A sender's instruction of n bytes completes; an end that no process owns has none. -/
def State.sent (s : State) (o : Option Pid) (n : Nat) : State :=
  match o with
  | some p => s.complete p (.step n)
  | none => s

/-- A scalar passes; for a receiver on the move it is held in the cell, the sender completes, and the receiver takes it
when its move is over (R143); none when it must wait, since another value is held there already (R327). -/
def State.passScalar (s : State) (c : Cell) (v : Word) (d : SReg) (from_ to_ : Option Pid) (toSide : Bool) :
    Option State :=
  if s.ownerMoving c toSide then
    if (c.side toSide).held.isSome then none
    else some (((s.unpost c.id (!toSide)).updEnd c.id toSide (fun e => { e with held := some v })).sent from_ 4)
  else
    let s1 := (s.clearPair c).sent from_ 4
    some (match to_ with
      | some q => s1.giveScalar q v d
      | none => s1)

/-- A handle passes; none when it must wait. -/
def State.passHandle (s : State) (c : Cell) (b d : EReg) (from_ to_ : Option Pid) (toSide : Bool) : Option State :=
  if s.ownerMoving c toSide then none
  else match from_, to_ with
    | some p, some q => some ((s.clearPair c).giveHandle p q b d)
    | _, _ => some (s.clearPair c)

/-- Pages pass; none when they must wait. -/
def State.passTiles (s : State) (c : Cell) (pages : List Page) (d : TGrp) (from_ to_ : Option Pid) (toSide : Bool) :
    Option State :=
  if s.ownerMoving c toSide then none
  else match to_ with
    | none => some ((s.clearPair c).sent from_ 8)
    | some q =>
      match (s.clearPair c).deliver q d pages with
      | none => none
      | some s1 => some (((s1.sent from_ 8).complete q (.step 8)).acquire q)

/-- A pairing with a sender and a receiver completes. -/
def State.passOne (s : State) (c : Cell) (p : Pairing) (from_ to_ : Option Pid) (toSide : Bool) : Option State :=
  match p with
  | .scalar v d => s.passScalar c v d from_ to_ toSide
  | .handle b d => s.passHandle c b d from_ to_ toSide
  | .tiles pages d => s.passTiles c pages d from_ to_ toSide
  | _ => none

/-- A party of an XCOL receives its value. -/
def State.giveXcol (s : State) (o : Option Pid) (f : XFn) (mine theirs : Word) (d : SReg) : State :=
  match o with
  | none => s
  | some p =>
    let r := exchangeValue f mine theirs
    (s.complete p { Writes.step 4 with s := [(d, r.1)], fcsr := r.2.fcsr }).acquire p

/-- A party of a tile exchange receives its pages; none when they must wait. -/
def State.giveTx (s : State) (o : Option Pid) (g : TGrp) (theirs : List Page) (r : List Page × Flags) : Option State :=
  match o with
  | none => some s
  | some p =>
    (s.deliver p g (withPoison theirs r.1)).map (fun s1 =>
      (s1.complete p { Writes.step 8 with tcsr := r.2.tcsr }).acquire p)

/-- The process that owns an end takes CHMISMATCH. -/
def State.mismatchTrap (s : State) (c : Cell) (o : Option Pid) : State :=
  match o with
  | some p => s.opTrap p (.at .chmismatch c.word)
  | none => s

/-- Two posted operations whose pages are read complete or mismatch; none when the rendezvous must wait (R143, R202). -/
def State.pairLoaded (s : State) (c : Cell) (x y : Posted) : Option State :=
  let o0 := s.endOwner c false
  let o1 := s.endOwner c true
  let wait := s.ownerMoving c false || s.ownerMoving c true
  match pairOne x y with
  | some p => s.passOne c p o0 o1 true
  | none =>
    match pairOne y x with
    | some p => s.passOne c p o1 o0 false
    | none =>
      match pairBoth x y with
      | some (.xcol f) =>
        if wait then none
        else match x, y with
          | .xcol _ a d, .xcol _ b e => some (((s.clearPair c).giveXcol o0 f a b d).giveXcol o1 f b a e)
          | _, _ => none
      | some (.tx d e r) =>
        if wait then none else ((s.clearPair c).giveTx o0 d y.pages r).bind (fun s1 => s1.giveTx o1 e x.pages r)
      | _ => some (((s.clearPair c).mismatchTrap c o0).mismatchTrap c o1)

/-- Two posted operations complete or mismatch, their pages read wherever they lie; a fault of an image area is the
supervisor's (R328, 15_traps.md R394). -/
def State.pairUp (s : State) (c : Cell) (x y : Posted) : Option State :=
  match s.loaded (s.endOwner c false) x with
  | .error t => some (s.areaFault c.part t)
  | .ok (s1, x1) =>
    match s1.loaded (s1.endOwner c true) y with
    | .error t => some (s.areaFault c.part t)
    | .ok (s2, y1) => s2.pairLoaded c x1 y1

/-! ### The fault channel (15_traps.md R388-R390) -/

/-- The record that is next in order, when it can be delivered: a trap record once its process's image is complete. -/
def State.nextRecord (s : State) (q : Part) : Option Record :=
  if q.ended then none
  else match q.order with
    | [] => none
    | .inr _ :: _ => q.infos.head?
    | .inl pid :: _ =>
      match s.proc? pid with
      | none => none
      | some p => if p.imageOk then p.record else none

/-- A record leaves the queue. -/
def State.popRecord (s : State) (part : Nat) : State :=
  match (s.part part).order with
  | [] => s
  | .inr _ :: rest => s.updPart part (fun q => { q with order := rest, infos := q.infos.tail })
  | .inl pid :: rest =>
    (s.updProc pid (fun p => { p with record := none })).updPart part (fun q => { q with order := rest })

/-- The page that carries a record (R389). -/
def recordPage (r : Record) : Page :=
  mkPage ((chunks 64 64 (wordBytes r.words ++ List.replicate 3584 0)).map ofBytes) [] noType noType false

/-! ### One cell settles (R324-R330, R388) -/

/-- The device's own sender on a fault cell is ready. -/
def State.recordAt (s : State) (c : Cell) : Option Record :=
  if c.kind = .fault then s.nextRecord (s.part c.part) else none

/-- Whether an operation receives, an exchange among them. -/
def Posted.receives : Posted → Bool
  | .send _ => false
  | .sende _ => false
  | .sendt _ _ => false
  | .offer _ _ => false
  | _ => true

/-- The operation at an end takes a cause, and a binding ends with it (R337). -/
def State.failEnd (s : State) (c : Cell) (b : Bool) (cause : Cause) : State :=
  let s1 := (s.unpost c.id b).unbind c.id
  match s.endOwner c b with
  | some p => s1.opTrap p (.at cause c.word)
  | none => s1

/-- A value held for a posted RECV is taken. -/
def State.takeHeld (s : State) (c : Cell) (b : Bool) (v : Word) (d : SReg) : State :=
  let s1 := (s.updEnd c.id b (fun e => { e with held := none, post := none })).unbind c.id
  match s.endOwner c b with
  | some p => s1.giveScalar p v d
  | none => s1

/-- Whether a posted RECV has its value: it takes part in no pairing (R327). -/
def Cell.hasValue (c : Cell) (b : Bool) : Bool :=
  (c.side b).held.isSome && match (c.side b).post with
    | some (.recv _) => true
    | _ => false

/-- A SEND to a process on the move is held for its end, and does not wait, while no value is held there and no operation but an
ALT's offer is posted (R143, R327). -/
def State.holdSend (s : State) (c : Cell) (b : Bool) (op : Posted) : Option State :=
  let peer := c.side (!b)
  match op with
  | .send v =>
    if s.ownerMoving c (!b) && peer.held.isNone && (match peer.post with | some x => x.isOffer | none => true) then
      some (((s.unpost c.id b).updEnd c.id (!b) (fun e => { e with held := some v })).sent (s.endOwner c b) 4)
    else none
  | _ => none

/-- A record is delivered to the operation posted at the fault end: a RECVT of width 1 (15_traps.md R388); any other takes
CHMISMATCH. -/
def State.settleFault (s : State) (c : Cell) (b : Bool) (op : Posted) : Option State :=
  match op with
  | .recvt d =>
    if d.w = 0 then
      match s.recordAt c, s.endOwner c b with
      | some r, some p =>
        if s.ownerMoving c b then none
        else (((s.unpost c.id b).unbind c.id).deliver p d [recordPage r]).map (fun s1 =>
          ((s1.popRecord c.part).complete p (.step 8)).acquire p)
      | _, _ => none
    else some (s.failEnd c b .chmismatch)
  | _ => some (s.failEnd c b .chmismatch)

/-- An operation at an end with a closed peer, or that follows up an arm that HRECV chose (18_host.md R454). -/
def State.settleBound (s : State) (c : Cell) (b : Bool) (op : Posted) : Option State :=
  let e := c.side b
  if (c.side (!b)).closed then some (s.failEnd c b .chclosed)
  else if c.kind = .host && b = false && e.bound && e.way then
    match op with
    | .send v =>
      let s1 := ((s.unpost c.id false).unbind c.id).updEnd c.id true (fun e => { e with held := some v })
      some (match s.endOwner c false with | some p => s1.complete p (.step 4) | none => s1)
    | _ => some (s.failEnd c b .chmismatch)
  else s.holdSend c b op

/-- An operation posted at an end and what the cell holds against it: a held value, a record, a closed peer. none when
nothing is decided yet. A RECV takes the value, but where it follows up a send arm that HRECV bound (18_host.md R454). A
receiving operation other than RECV at an end with a held value takes CHMISMATCH, also where
the peer is closed (R327, log 60). -/
def State.settleEnd (s : State) (c : Cell) (b : Bool) (op : Posted) : Option State :=
  let e := c.side b
  if c.kind = .fault then s.settleFault c b op
  else
    match e.held, op with
    | some v, .recv d =>
      if c.kind = .host && b = false && e.bound && e.way then s.settleBound c b op
      else if s.ownerMoving c b then none
      else some (s.takeHeld c b v d)
    | some _, _ =>
      if op.receives || (e.bound && !e.way) then some (s.failEnd c b .chmismatch) else s.settleBound c b op
    | none, _ => s.settleBound c b op

/-- What a cell has to decide now, other than ALT claims. -/
def State.settle (s : State) (id : Nat) : Option State :=
  match s.cell? id with
  | none => none
  | some c =>
    let op := fun b => match (c.side b).post with
      | some p => if p.isOffer then none else some p
      | none => none
    let try0 := (op false).bind (s.settleEnd c false)
    let try1 := (op true).bind (s.settleEnd c true)
    match try0 with
    | some t => some t
    | none =>
      match try1 with
      | some t => some t
      | none =>
        match op false, op true with
        | some x, some y => if c.hasValue false || c.hasValue true then none else s.pairUp c x y
        | _, _ => none

/-- Settle a cell if it has something to decide. -/
def State.settled (s : State) (id : Nat) : State := (s.settle id).getD s

/-! ### Posting (R325) -/

/-- The context that executes posts an operation at its end and is blocked. -/
def State.post (s : State) (id : Nat) (b : Bool) (op : Posted) : State :=
  let s1 := s.updEnd id b (fun e => { e with post := some op })
  { s1 with cur := { s1.cur with wait := .op id b, waitGen := s1.cur.waitGen + 1, waitAt := s1.cycle } }

/-! ### Closing (R330, R322) -/

/-- Entries of an end go out of use; their index keeps its generation. -/
def State.dropEntry (s : State) (c : Cell) (b : Bool) : State :=
  { s with entries := s.entries.map (fun (e : Entry) => if e.live && e.cell == c.id && e.side c == b then { e with live := false } else e) }

/-- A cell with both ends closed and no held value is freed. -/
def State.freeCell (s : State) (id : Nat) : State :=
  match s.cell? id with
  | none => s
  | some c =>
    if c.bar.isNone && c.end0.closed && c.end1.closed && c.end0.held.isNone && c.end1.held.isNone then
      { s with cells := s.cells.filter (fun x => x.id != id) }
    else s

/-- The ALT a process waits in has an unclaimed key, or one that a cell has claimed for now. -/
def State.altKey (s : State) (pid : Pid) : Key :=
  match s.proc? pid with
  | some p => match p.wait with
    | .alt _ _ _ _ _ k => k
    | _ => .spent
  | none => .spent

/-- The key of the ALT that a process waits in changes. -/
def State.setKey (s : State) (pid : Pid) (k : Key) : State :=
  s.updProc pid (fun p => match p.wait with
    | .alt d e a r q _ => { p with wait := .alt d e a r q k }
    | _ => p)

/-- The other party's offer at a cell goes: a key that the cell has claimed for now returns to unclaimed (R334). -/
def State.freeKey (s : State) (c : Cell) (b : Bool) : State :=
  match s.endOwner c b with
  | none => s
  | some p => if s.altKey p = .provisional c.id then s.setKey p .unclaimed else s

/-- Close one end of a channel: what its peer has posted takes CHCLOSED unless a held value is for it, a value held
for the closed end is discarded, a binding ends. -/
def State.closeEnd (s : State) (id : Nat) (b : Bool) : State :=
  match s.cell? id with
  | none => s
  | some c =>
    let s1 := s.freeKey c (!b)
    let s2 := (((s1.updEnd id b (fun e => { e with closed := true, held := none, post := none })).unbind id).dropEntry c b)
    (s2.settled id).freeCell id

/-! ### Barriers (R338-R341) -/

/-- The entries of a barrier's open endpoints. -/
def State.barEntries (s : State) (id : Nat) : List Entry := s.entries.filter (fun e => e.live && e.cell == id)

/-- Processes waiting at a barrier endpoint, with what they wait in. -/
def State.barWaiters (s : State) (id : Nat) : List (Pid × Wait) :=
  s.allProcs.filterMap fun p =>
    let here := fun i => (s.barEntries id).any (fun e => e.part == p.part && e.index == i && e.owner == p.pid)
    match p.wait with
    | .barrierArrive i => if here i then some (p.pid, p.wait) else none
    | .barrierAwait i => if here i then some (p.pid, p.wait) else none
    | .barrierSync i => if here i then some (p.pid, p.wait) else none
    | _ => none

/-- The state of a barrier cell. -/
def State.updBar (s : State) (id : Nat) (f : Barrier → Barrier) : State :=
  s.updCell id (fun c => { c with bar := c.bar.map f })

/-- An endpoint counts as arrived in the phase. -/
def State.arriveAt (s : State) (c : Cell) (idx : Nat) : State :=
  (s.updEntry c.part idx (fun e => { e with arrived := true })).updBar c.id (fun b => { b with arrived := b.arrived + 1 })

/-- A phase that has all its arrivals completes: the phase flips, the bits clear, every waiter of the phase goes on, and
a blocked second arrival counts for the new phase, which may complete in turn. -/
def State.phaseCheck (s : State) (cell : Nat) : Nat → State
  | 0 => s
  | fuel + 1 =>
    match s.cell? cell with
    | none => s
    | some c =>
      match c.bar with
      | none => s
      | some b =>
        if b.n ≤ b.arrived ∧ 0 < b.arrived then
          let ws := s.barWaiters cell
          let s1 := s.updBar cell (fun b => { b with phase := b.phase + 1, arrived := 0, n := b.n - b.lower, lower := 0 })
          let s2 := { s1 with entries := s1.entries.map (fun (e : Entry) => if e.live && e.cell == cell then { e with arrived := false } else e) }
          let s3 := ws.foldl (fun s w =>
            match w.2 with
            | .barrierAwait _ => (s.complete w.1 (.step 4)).acquire w.1
            | .barrierArrive i => ((s.arriveAt c i).complete w.1 (.step 4)).acquire w.1
            | .barrierSync i =>
              -- its arrival was the second of its endpoint: it counts now, and the AWAIT of the new phase begins
              if (s.entries.find? (fun (e : Entry) => e.part == c.part && e.index == i)).any Entry.arrived then s
              else (s.arriveAt c i).updProc w.1 (fun p => { p with wait := .barrierAwait i, waitGen := p.waitGen + 1 })
            | _ => s) s2
          s3.phaseCheck cell fuel
        else s

/-- Close a barrier endpoint (R341). -/
def State.closeBarrier (s : State) (e : Entry) : State :=
  let s1 := s.updEntry e.part e.index (fun x => { x with live := false })
  let s2 := s1.updBar e.cell (fun b =>
    if e.arrived then { b with k := b.k - 1, lower := b.lower + 1 } else { b with k := b.k - 1, n := b.n - 1 })
  match s2.cell? e.cell with
  | none => s2
  | some c =>
    match c.bar with
    | none => s2
    | some b => if b.k = 0 then { s2 with cells := s2.cells.filter (fun x => x.id != e.cell) } else s2.phaseCheck e.cell 8

/-- Close the endpoint of an entry. -/
def State.closeEntry (s : State) (e : Entry) : State :=
  match s.cell? e.cell with
  | none => s.updEntry e.part e.index (fun x => { x with live := false })
  | some c => if c.bar.isSome then s.closeBarrier e else s.closeEnd c.id (e.side c)

/-- A closure reaches the cell and the entry (R321). -/
def State.closeReach (s : State) (e : Entry) : State :=
  match s.cell? e.cell with
  | none => s
  | some c => s.deviceReach c.part (s.reach e c) (fun t => t.reached e c)

/-- Every endpoint a process owns closes (R156, R404), each as it stands when its turn comes. -/
def State.closeAll (s : State) (pid : Pid) : State :=
  (s.entries.filter (fun e => e.live && e.owner == pid)).foldl (fun s e =>
    match s.entries.find? (fun x => x.live && x.part == e.part && x.index == e.index) with
    | some x => (s.closeReach x).closeEntry x
    | none => s) s

/-! ### ALT (R333-R337) -/

/-- The posted arms of an ALT: arm number, end, direction. -/
def altArms (base : EReg) (arms dirs guard : BitVec 8) : List (Nat × EReg × Bool) :=
  (List.range 8).filterMap fun i =>
    if arms.getLsbD i && guard.getLsbD i then
      if h : base.val + i < 16 then some (i, ⟨base.val + i, h⟩, dirs.getLsbD i) else none
    else none

/-- Whether an arm on an end is ready (R335). -/
def State.armReady (s : State) (c : Cell) (b isSend : Bool) : Bool :=
  let mine := c.side b
  let peer := c.side (!b)
  let peerOp := match peer.post with
    | some op => !peer.bound && (if isSend then op.isRecv else op.isSend)
    | none => false
  peerOp || peer.closed || mine.bound || (!isSend && mine.held.isSome) || (!isSend && (s.recordAt c).isSome)

/-- Whether the peer end of a ready arm is an ALT offer, and nothing else makes it ready. -/
def Cell.peerOffer (c : Cell) (b : Bool) : Bool :=
  match (c.side (!b)).post with
  | some op => op.isOffer
  | none => false

/-- The choice among ready arms: high priority first, then rotation after the arm chosen last (R335). -/
def altChoice (last : Fin 8) (prio : BitVec 8) (ready : List Nat) : Option Nat :=
  let order := (List.range 8).map (fun k => (last.val + 1 + k) % 8)
  match order.find? (fun i => ready.contains i && prio.getLsbD i) with
  | some i => some i
  | none => order.find? (fun i => ready.contains i)

/-- An ALT's offers are withdrawn; a key that another cell held for one of them returns to unclaimed (R334). -/
def State.withdraw (s : State) (pid : Pid) : State :=
  let mine := s.cells.flatMap (fun c => [false, true].filterMap (fun b =>
    if s.endOwner c b == some pid && ((c.side b).post.any Posted.isOffer) then some (c, b) else none))
  mine.foldl (fun s x => (s.unpost x.1.id x.2).freeKey x.1 (!x.2)) s

/-- An ALT commits to an arm on an end: S[D] takes the arm, the end is bound, it acquires and retires. -/
def State.altReturn (s : State) (pid : Pid) (c : Cell) (b : Bool) (arm : Nat) : State :=
  match s.proc? pid with
  | none => s
  | some p =>
    match p.wait with
    | .alt d _ _ dirs _ _ =>
      let s1 := s.withdraw pid
      let closed := (c.side (!b)).closed
      let s2 := if closed then s1 else s1.updEnd c.id b (fun e => { e with bound := true, way := dirs.getLsbD arm })
      (s2.complete pid { Writes.step 8 with s := [(d, BitVec.ofNat 64 arm)], alt := some (Fin.ofNat 8 arm) }).acquire pid
    | _ => s

/-- The arm of an offer at an end. -/
def Cell.offerArm (c : Cell) (b : Bool) : Option (Fin 8 × Bool) :=
  match (c.side b).post with
  | some (.offer a isSend) => some (a, isSend)
  | _ => none

/-- A cell claims the key of an ALT whose offer has found a partner (R334). Between two ALTs the lower PID's key is
claimed first and for now, then the higher's. While a party is on the move the binding waits (R355). An ALT that offers both ends
of a cell does not bind with itself (log 79). none when the cell has no claim to make. -/
def State.claimCell (s : State) (id : Nat) : Option State :=
  match s.cell? id with
  | none => none
  | some c =>
    let offer := fun b =>
      match c.offerArm b, s.endOwner c b with
      | some (a, isSend), some pid => if s.armReady c b isSend then some (pid, a.val) else none
      | _, _ => none
    if s.ownerMoving c false || s.ownerMoving c true then none
    else match offer false, offer true with
    | none, none => none
    | some (p, a), none => if s.altKey p = .unclaimed then some (s.altReturn p c false a) else none
    | none, some (p, a) => if s.altKey p = .unclaimed then some (s.altReturn p c true a) else none
    | some (p, a), some (q, b) =>
      if p = q then none else
      let (lo, hi) := if p < q then (p, q) else (q, p)
      if s.altKey lo = .unclaimed then some (s.setKey lo (.provisional id))
      else if s.altKey lo = .provisional id && s.altKey hi = .unclaimed then
        let s1 := s.altReturn p c false a
        some (s1.altReturn q c true b)
      else none

/-! ### Timers (R342) -/

/-- A timer of a partition. -/
def Part.timer (p : Part) (i : Nat) : Timer := if h : i < 8 then p.timers[i] else { cell := 0, due := none }

/-- A timer expires: the CYCLE value of its expiry is held in the cell, replacing a held one with bit [63] set. -/
def State.expire (s : State) (part i : Nat) : State :=
  let t := (s.part part).timer i
  let s1 := s.updPart part (fun p => { p with
    timers := if h : i < 8 then p.timers.set i { t with due := none } else p.timers })
  let s2 := s1.updEnd t.cell false (fun e => if e.closed then e else { e with
    held := some (if e.held.isSome then t.due.getD s.cycle ||| 0x8000000000000000 else t.due.getD s.cycle) })
  s2.settled t.cell

end Sys2Proof.Machine
end

