-- ==== Sys2Proof/Machine/Stores.lean ====
section
/-! DEFINITION. How a store performs and what it touches (11_memory.md R290, R295, R311, 12_channels.md R323,
05_processes.md R117, 18_host.md R458), and the scalar L1 data cache (R289-R292). -/

namespace Sys2Proof.Machine

/-! ### What a store by any agent touches -/

def overlaps (a n b m : Nat) : Bool := decide (a < b + m) && decide (b < a + n)

/-- Regions and region requests on a stored line have been touched by another agent (R311). -/
def State.touchRegions (s : State) (agent : Pid) (pa n : Nat) : State :=
  s.mapProcs fun p =>
    if p.pid = agent then p
    else
      let r := p.region.map (fun g => if overlaps g.pa 128 pa n then { g with touched := true } else g)
      let q := match p.latch.req with
        | .region line a st gate ld t d => AtomReq.region line a st gate ld (t || overlaps a 128 pa n) d
        | x => x
      { p with region := r, latch := { p.latch with req := q } }

/-- A cell of CHAREA that a store touched: both its endpoints are invalid, their peers take CHCLOSED (R323). An ALT arm
on it is ready by closure; a waiter at a barrier takes CHCLOSED as well (log 19). -/
def State.breakCell (s : State) (id : Nat) : State :=
  match s.cell? id with
  | none => s
  | some c =>
    if c.bar.isSome then
      let s1 := (s.barWaiters id).foldl (fun s w => s.opTrap w.1 (.at .chclosed c.word)) s
      (s1.barEntries id).foldl (fun s e => s.closeEntry e) s1
    else
      let s1 := s.updCell id (fun c => { c with end0 := { c.end0 with closed := true, held := none, bound := false }
                                                end1 := { c.end1 with closed := true, held := none, bound := false } })
      let s2 := [false, true].foldl (fun (s : State) b =>
        match s.endOwner c b with
        | none => s
        | some p =>
          match (c.side b).post with
          | none => s
          | some (.offer arm _) =>
            match s.cell? id with
            | some c' => s.altReturn p c' b arm.val
            | none => s
          | some _ => (s.unpost id b).opTrap p (.at .chclosed c.word)) s1
      ((s2.dropEntry c false).dropEntry c true).freeCell id

/-- An endpoint entry that a store touched: its owner's operation on it is gone, and its peer takes CHCLOSED. An ALT's arm there
goes, its key unclaimed if this cell had claimed it for now, and the ALT waits on (log 71). -/
def State.breakEntry (s : State) (e : Entry) : State :=
  match s.cell? e.cell with
  | none => s
  | some c =>
    if c.bar.isSome then
      let s1 := match s.proc? e.owner with
        | some p => if (s.barWaiters c.id).any (fun w => w.1 == p.pid) then s.opTrap p.pid (.at .chclosed c.word) else s
        | none => s
      s1.closeEntry e
    else
      let b := e.side c
      match (c.side b).post with
      | some (.offer _ _) => (s.freeKey c b).closeEnd c.id b
      | some _ => ((s.unpost c.id b).opTrap e.owner (.at .chclosed c.word)).closeEnd c.id b
      | none => s.closeEnd c.id b

/-- The physical address of an area address, where it translates. -/
def State.areaPa (s : State) (p : Part) (va : Word) (n : Nat) : Option Nat :=
  match s.areaXlate p va n .read with
  | .ok pa => some pa
  | .error _ => none

/-- Cells and entries of CHAREA under a stored range (R323). -/
def State.touchAreas (s : State) (pa n : Nat) : State :=
  let hitCells := s.cells.filter (fun c => !c.dh &&
    (match s.areaPa (s.part c.part) ((s.part c.part).cellAddr c.chid) 64 with
     | some a => overlaps a 64 pa n
     | none => false))
  let hitEntries := s.entries.filter (fun (e : Entry) => e.live && !e.dh &&
    (match s.areaPa (s.part e.part) ((s.part e.part).entryAddr e.index) 16 with
     | some a => overlaps a 16 pa n
     | none => false))
  let s1 := hitCells.foldl (fun s c => s.breakCell c.id) s
  (hitEntries.filter (fun e => !(hitCells.any (fun c => c.id == e.cell)))).foldl (fun s e => s.breakEntry e) s1

/-- A store of bytes at a physical address performs: marks, bytes, and what it touches. One to host or peer memory
performs when it is handed to the link (R295); one to a peer whose link is down is lost and logged (18_host.md R458,
19_trust.md R480). -/
def State.storeVia (s : State) (agent : Pid) (hint : Hint) (pa : Nat) (bytes : List Byte) : State :=
  let n := bytes.length
  let send := { s with outbox := s.outbox ++ [{ pid := agent, pa := pa, bytes := bytes }] }
  match physRegion pa with
  | .peer d => if s.link.up.getLsbD d && s.link.en.getLsbD d then send else s.logAll 4 4 d
  | .host => send
  | _ => ((((s.storeMarks pa n).rawPut pa bytes).dirtyL2 (s.viaOf agent none hint) pa n).touchRegions agent pa n).touchAreas pa n

/-- A store under the hint normal, as every one is but a tile store and a TRED (R287). -/
def State.storeBytes (s : State) (agent : Pid) (pa : Nat) (bytes : List Byte) : State := s.storeVia agent .normal pa bytes

/-! ### The L1 data cache -/

/-- Bytes of a line with new bytes laid over them. -/
def patchBytes (base : Nat) (old : List Byte) (pa : Nat) (new : List Byte) : List Byte :=
  ((List.range old.length).zip old).map (fun x =>
    if pa ≤ base + x.1 then (new[base + x.1 - pa]?).getD x.2 else x.2)

/-- A store of a core updates the lines it holds (R290). -/
def State.updateL1 (s : State) (c pa : Nat) (bytes : List Byte) : State :=
  s.updCore c (fun k => { k with l1d := k.l1d.map (fun l =>
    if overlaps (l.line * 32) 32 pa bytes.length then { l with bytes := patchBytes (l.line * 32) l.bytes pa bytes } else l) })

/-- The issuing core's lines of a range are dropped (R290, R308, R311). -/
def State.dropL1 (s : State) (c pa n : Nat) : State :=
  s.updCore c (fun k => { k with l1d := k.l1d.filter (fun l => !overlaps (l.line * 32) 32 pa n) })

/-- The bytes a load of a core takes under a key (R289, 19_trust.md R472): from the line it holds, else from the home
slice, filling a line of the device's own memory; 2,048 lines, the oldest leaving (log 9). A line whose check finds an
error is dropped and read again (R292). Host and peer addresses are not cached. -/
def State.loadL1 (s : State) (c : Nat) (key : Option Nat) (pa n : Nat) : State × List Byte :=
  if physRegion pa = .hbm then
    match (s.core c).l1d.find? (fun l => l.line == pa / 32 && !l.err) with
    | some l => (s, (l.bytes.drop (pa % 32)).take n)
    | none =>
      let s1 := (s.noteKey key pa n).fillL2 (Via.of key s.cur.part) pa n
      let line := s1.bytesAs key (pa / 32 * 32) 32
      (s1.updCore c (fun k => { k with l1d := ({ line := pa / 32, bytes := line, err := false } :: k.l1d.filter (fun l => l.line != pa / 32)).take 2048 }),
       (line.drop (pa % 32)).take n)
  else
    let s1 := s.flushFor pa
    (s1, s1.physBytes pa n)

/-- A load finds an error in the line that its core holds: logged as transient, since the home supplies the data (R292,
19_trust.md R477, R480). -/
def State.noteLine (s : State) (c pa : Nat) : State :=
  if physRegion pa = .hbm && (s.core c).l1d.any (fun l => l.line == pa / 32 && l.err) then s.logMemory 1 1 (pa / 32 * 32) else s

/-- Whether a load of a core would take its bytes from a held line. -/
def State.hitsL1 (s : State) (c pa : Nat) : Bool := (s.core c).l1d.any (fun l => l.line == pa / 32 && !l.err)

/-! ### Retired stores (R295) -/

/-- An access of a process reached an L2 slice (05_processes.md R144): when, and whether its address is homed on the other
die than its core's. Only the last 2^20 cycles count. -/
def Proc.noteReach (p : Proc) (cycle : Word) (core pa : Nat) : Proc :=
  if physRegion pa = .hbm then
    let keep := p.acc.filter (fun x => decide ((cycle - x.1).toNat < 2 ^ 20))
    { p with acc := keep ++ [(cycle, dieOf pa != dieOfCore core)] }
  else p

/-- An access of the context that executes reached an L2 slice. -/
def State.noteReach (s : State) (pa : Nat) : State :=
  { s with cur := s.cur.noteReach s.cycle s.curCore pa }

/-- Store number n of a process performs at its home slice, and its core's lines follow. -/
def State.performNth (s : State) (pid : Pid) (n : Nat) : State :=
  match s.proc? pid with
  | none => s
  | some p =>
    match p.stores[n]? with
    | none => s
    | some st =>
      let s1 := s.updProc pid (fun p => { p with stores := p.stores.eraseIdx n }.noteReach s.cycle st.core st.pa)
      ((s1.sealFor st.key st.pa st.bytes.length).storeVia pid st.hint st.pa st.bytes).updateL1 st.core st.pa st.bytes

/-- Every retired store of a process performs, oldest first. -/
def State.drainFrom (s : State) (pid : Pid) : Nat → State
  | 0 => s
  | fuel + 1 => (s.performNth pid 0).drainFrom pid fuel

def State.drain (s : State) (pid : Pid) : State :=
  match s.proc? pid with
  | none => s
  | some p => if p.stores.isEmpty then s else s.drainFrom pid p.stores.length

/-- A retired store of the context that executes joins its waiting ones. -/
def State.queueStore (s : State) (va : Word) (pa : Nat) (bytes : List Byte) (tile : Bool) (op : Nat)
    (span : List (Nat × Nat)) (hint : Hint) : State :=
  let st : PStore :=
    { va := va, pa := pa, key := s.keyAt s.curCore s.curPart va, level := s.levelAt s.curCore s.curPart va, bytes := bytes, hint := hint
      tile := tile, core := s.curCore, op := op, span := span }
  { s with cur := { s.cur with stores := s.cur.stores ++ [st] } }

/-- The number of the next store instruction among a context's waiting ones. -/
def Proc.nextOp (p : Proc) : Nat := match p.stores.getLast? with | some st => st.op + 1 | none => 0

/-! ### Overlap (07_tiles.md R207, R208) -/

/-- Whether two lists of physical pieces share a byte. -/
def spansMeet (a b : List (Nat × Nat)) : Bool := a.any (fun x => b.any (fun y => overlaps x.1 x.2 y.1 y.2))

/-- Whether a store comes before a younger one of its context: rows of one instruction where they share bytes, other
instructions where their intervals overlap (R303, R208). -/
def PStore.before (o st : PStore) : Bool :=
  if o.op = st.op then overlaps o.pa o.bytes.length st.pa st.bytes.length else spansMeet o.span st.span

/-- For each waiting store whether it must perform for those that pass a test to have performed. -/
def neededFor (f : PStore → Bool) : List PStore → List Bool
  | [] => []
  | st :: rest =>
    let l := neededFor f rest
    (f st || (l.zip rest).any (fun x => x.1 && st.before x.2)) :: l

/-- The marked stores of a process perform, oldest first. -/
def State.drainMarked (s : State) (pid : Pid) : Nat → List Bool → State
  | _, [] => s
  | n, true :: rest => (s.performNth pid n).drainMarked pid n rest
  | n, false :: rest => s.drainMarked pid (n + 1) rest

/-- The stores of a process that overlap an interval perform, and those they wait for. -/
def State.drainOver (s : State) (pid : Pid) (span : List (Nat × Nat)) : State :=
  match s.proc? pid with
  | none => s
  | some p =>
    let l := neededFor (fun st => spansMeet st.span span) p.stores
    if l.contains true then s.drainMarked pid 0 l else s

/-- A load waits for its context's older overlapping stores: they perform now (log 7). -/
def State.awaitStores (s : State) (span : List (Nat × Nat)) : State := s.drainOver s.cur.pid span

end Sys2Proof.Machine
end

