-- ==== Sys2Proof/Machine/Scratch.lean ====
section
/-! DEFINITION. Scratchpad space and paging (10_scratchpad.md R261-R281): the translation table in memory and its cache,
page contents, page-in and write-back. -/

namespace Sys2Proof.Machine

/-! ### Entries (R266) -/

def sttState (e : Word) : Nat := e.toNat % 8
def sttR (e : Word) : Bool := e.getLsbD 9
def sttW (e : Word) : Bool := e.getLsbD 8
def sttDirty (e : Word) : Bool := e.getLsbD 10
def sttSaved (e : Word) : Bool := e.getLsbD 11
def sttBacking (e : Word) : Word := e &&& 0x000FFFFFFFFFF000

/-- An entry from its fields. -/
def sttEntry (backing : Word) (sv dirty r w : Bool) (st : Nat) : Word :=
  backing ||| BitVec.ofNat 64 (bit sv * 2 ^ 11 + bit dirty * 2 ^ 10 + bit r * 2 ^ 9 + bit w * 2 ^ 8 + st % 8)

/-- An entry with another state. -/
def sttSetState (e : Word) (st : Nat) : Word := (e &&& ~~~(7 : Word)) ||| BitVec.ofNat 64 (st % 8)

/-- The pool page that holds the resident copy of a scratchpad page. -/
def Proc.resident? (p : Proc) (v : Nat) : Option Nat := (p.spDir.find? (fun x => x.1 == v)).map Prod.snd

/-- A pool directory with a page at v, or none there. -/
def dirSet (v : Nat) (id : Option Nat) (l : List (Nat × Nat)) : List (Nat × Nat) :=
  let rest := l.filter (fun x => x.1 != v)
  match id with | some i => (v, i) :: rest | none => rest

/-- What a stored entry governs, given whether the device holds a resident copy (R266, R268): its reserved bits are ignored
(00_scope.md R9), states 6 and 7 are outside R266 and unmapped (log 52), a resident state without a copy loses it. -/
def sttNormal (raw : Word) (held : Bool) : Word :=
  let e := raw &&& 0x000FFFFFFFFFFF07
  let e := if 6 ≤ sttState e then sttSetState e 0 else e
  if (sttState e = 2 ∨ sttState e = 3) ∧ held = false then sttSetState e (sttState e - 2) else e

/-! ### The table and its cache (R264, R268, R269) -/

/-- Bytes of a process's slot: the supervisor's own by physical address, every other through the supervisor's
translation; with the first bad byte among them. -/
def State.slotTake (s : State) (p : Proc) (off n : Nat) : Except Halt (State × List Byte × Option (Word × Nat)) :=
  let q := s.part p.part
  asArea (if p.sup then s.ownRead q (s.sttRoot p + off) n else s.areaRead q (BitVec.ofNat 64 (s.sttRoot p + off)) n)

/-- Bytes of a slot that must all be good. -/
def State.slotRead (s : State) (p : Proc) (off n : Nat) : Except Halt (State × List Byte) :=
  let q := s.part p.part
  asArea (if p.sup then s.ownGet q (s.sttRoot p + off) n else s.areaGet q (BitVec.ofNat 64 (s.sttRoot p + off)) n)

def State.slotWrite (s : State) (p : Proc) (off : Nat) (bytes : List Byte) : Except Halt State :=
  let q := s.part p.part
  asArea (if p.sup then s.ownPut q (s.sttRoot p + off) bytes else s.areaPut q (BitVec.ofNat 64 (s.sttRoot p + off)) bytes)

/-- The entry of page v of a process: from the TLB of its core, else from its table, remembered in the TLB of the core a
resident process is on; a stored state that no longer keeps the resident copy drops it (R268). What a store has put into a
table in use holds for every bit of the entry, the dirty bit among them (log 77). -/
def State.sttGet (s : State) (pid : Pid) (v : Nat) : Except Halt (State × Word) :=
  match s.space? pid with
  | none => .ok (s, 0)
  | some p =>
    match (s.core p.core).stlb.find? (fun e => e.pid == pid && e.page == v) with
    | some e => .ok (s, e.entry)
    | none =>
      match s.slotRead p (8 * v) 8 with
      | .error h => .error h
      | .ok (s0, l) =>
        let e := sttNormal (BitVec.ofNat 64 (ofBytes l)) (p.resident? v).isSome
        let s1 := if sttState e = 2 ∨ sttState e = 3 then s0
                  else if (p.resident? v).isSome then (s0.updDir pid (dirSet v none)).sweep pid else s0
        .ok (if p.isResident then
               s1.updCore p.core (fun k => { k with stlb := ({ pid := pid, page := v, entry := e } :: k.stlb).take 256 })
             else s1, e)

/-- The entry of a page as the device reads it now. -/
def State.sttPeek (s : State) (pid : Pid) (v : Nat) : Word :=
  match s.sttGet pid v with
  | .ok (_, e) => e
  | .error _ => 0

/-- The device writes an entry: into the table before the change completes, and where the TLB holds the page. -/
def State.sttPut (s : State) (pid : Pid) (v : Nat) (e : Word) : Except Halt State :=
  match s.space? pid with
  | none => .ok s
  | some p =>
    (s.slotWrite p (8 * v) (bytesOf 8 e.toNat)).map (fun s1 =>
      s1.updCore p.core (fun k => { k with
        stlb := k.stlb.map (fun x => if x.pid = pid ∧ x.page = v then { x with entry := e } else x) }))

/-- The TLB entries of a page are dropped on every core (R269, R280). -/
def State.sttDrop (s : State) (pid : Pid) (v : Nat) : State :=
  { s with cores := s.cores.map (fun k => { k with stlb := k.stlb.filter (fun x => !(x.pid == pid && x.page == v)) }) }

/-- The reference to a resident copy goes, without write-back. -/
def State.dropCopy (s : State) (pid : Pid) (v : Nat) : State :=
  (s.updDir pid (dirSet v none)).sweep pid

/-! ### Page contents -/

/-- n bytes of a page as a number, inside one row (R192). -/
def pageRead (p : Page) (off n : Nat) : Nat := pageRow p (off / 64) / 2 ^ (8 * (off % 64)) % 2 ^ (8 * n)

/-- A page after a scalar store of n bytes (R277): no flag type, no last writer, every scale kept. -/
def pageStore (p : Page) (off n v : Nat) : Page :=
  let r := off / 64
  let old := pageRow p r
  let sh := 2 ^ (8 * (off % 64))
  let row := old % sh + sh * (v % 2 ^ (8 * n)) + old / (sh * 2 ^ (8 * n)) * (sh * 2 ^ (8 * n))
  { p with
    rows := if h : r < 64 then p.rows.set r (BitVec.ofNat 512 row) else p.rows
    tags := p.tags.map (fun t => { t with zero := 0, nonfin := 0xF })
    ftype := noType, wtag := noType }

/-- A page with its flags computed afresh under its flag type: a scale of 0x1FF makes its block non-finite (R270, R83). -/
def reflag (p : Page) : Page :=
  { p with tags := Vector.ofFn (fun i : Fin 64 =>
      let t := pageTag p i.val
      match (List.find? (fun (t : Ty) => t.code == p.ftype)
        [.f32, .bf16, .f16, .e4m3, .e5m2, .e2m1, .i32, .i16, .i8, .i4, .n32, .n16, .n8, .n4, .b1]) with
      | some ty => let x := exactTag ty (pageRow p i.val); { t with zero := x.zero, nonfin := x.nonfin ||| nanScales ty t }
      | none => { t with zero := 0, nonfin := 0xF }) }

/-! ### Page-in and write-back (R270, R271) -/

/-- The backing of a page as the process reaches it, with the rights of the process's own mode (log 38). MEMOFF and POISON of the
walk or the frame are taken as of any access, with the backing address (log 78). -/
def State.backingXlate (s : State) (p : Proc) (e : Word) (k : Access) : Except TrapInfo Nat :=
  let va := sttBacking e
  match s.xlate p.core (s.part p.part) p.sup va 4096 k with
  | .error t => .error t
  | .ok x => if s.memOff (s.part p.part) x.pa then .error (.at .memoff va) else .ok x.pa

/-- A page-in completes: data from the backing, the sidecar saved or plain, poison where a sector of either is bad (log 66); the
entry is resident and backed, not dirty. -/
def State.pageIn (s : State) (pid : Pid) (v : Nat) : Except Halt State :=
  match s.space? pid with
  | none => .ok s
  | some p =>
    match s.sttGet pid v with
    | .error h => .error h
    | .ok (s0, e) =>
      if sttState e ≠ 1 then .ok s0
      else if !s0.sharedRoom p.core 1 then .error (.stall (.pageIn v))
      else
        match s0.backingXlate p e .read with
        | .error t => .error (.trap t)
        | .ok pa =>
          let key := s0.keyAt p.core (s0.part p.part) (sttBacking e)
          let s1 := s0.noteRead (Via.of key p.part) pa 4096
          let data := s1.bytesAs key pa 4096
          let side : Except Halt (State × List Byte × Option (Word × Nat)) :=
            if sttSaved e then s1.slotTake p (0x8000 + 512 * v) 512 else .ok (s1, sidecarBytes zeroPage, none)
          match side with
          | .error h => .error h
          | .ok (s2, sb, bad) =>
            let pg := reflag (pageOfBytes data sb)
            let r := s2.freshPages p [{ pg with poison := pg.poison || s1.rangeBad pa 4096 || bad.isSome }]
            match r.2 with
            | [.pool id] =>
              (r.1.updDir pid (dirSet v (some id))).sttPut pid v
                (sttEntry (sttBacking e) (sttSaved e) false (sttR e) (sttW e) 3)
            | _ => .ok r.1

/-- A write-back: 4 KiB of data to the backing, the sidecar to its place in the slot, sv = 1 (R271). The first error is
the backing's own fault. c is the core on whose behalf it is made: its L1 keeps no older line (R275). -/
def State.writeBack (s : State) (pid : Pid) (v : Nat) (e : Word) (c : Nat) : Except Halt State :=
  match s.space? pid with
  | none => .ok s
  | some p =>
    match p.resident? v with
    | none => .ok s
    | some id =>
      match s.backingXlate p e .write with
      | .error t => .error (.trap t)
      | .ok pa =>
        let s0 := s.settlePage id
        let pg := s0.pageOf id
        let key := s.keyAt p.core (s.part p.part) (sttBacking e)
        let s1 := ((s0.sealFor key pa 4096).storeBytes pid pa (pageBytes pg)).dropL1 c pa 4096
        match s1.slotWrite p (0x8000 + 512 * v) (sidecarBytes pg) with
        | .error h => .error h
        | .ok s2 => s2.sttPut pid v (sttEntry (sttBacking e) true false (sttR e) (sttW e) 3)

/-- The entry after a page is written back where need be and its copy goes: backed. A copy with a lasting error has left
poison in the saved sidecar (R281). -/
def leftEntry (e : Word) : Word :=
  if sttDirty e then sttEntry (sttBacking e) true false (sttR e) (sttW e) 1
  else sttSetState e 1

/-! ### Pages that a copy between pools loses (05_processes.md R147) -/

/-- A page becomes poisoned. -/
def State.poisonPage (s : State) (id : Nat) : State := s.setPage id { s.pageOf id with poison := true }

/-- The resident scratchpad page v of a process, held as pool page id, becomes poisoned in the table; where a tile register maps
it too, it arrives poisoned there. -/
def State.losePad (s : State) (p : Proc) (v id : Nat) : State :=
  let s0 := if p.tileIds.contains id then s.poisonPage id else s
  match s0.sttGet p.pid v with
  | .error (.area t) => s0.areaFault p.part t
  | .error _ => s0
  | .ok (s1, e) =>
    match (s1.dropCopy p.pid v).sttPut p.pid v (sttSetState e (if sttState e = 3 then 5 else 4)) with
    | .ok s2 => s2.sttDrop p.pid v
    | .error (.area t) => s1.areaFault p.part t
    | .error _ => s1

/-- A page of which no good copy can be made: a scratchpad page becomes poisoned in the table, any other arrives poisoned. -/
def State.loseId (s : State) (pid : Pid) (id : Nat) : State :=
  match s.space? pid with
  | none => s
  | some p =>
    match p.spDir.find? (fun x => x.2 == id) with
    | some x => s.losePad p x.1 id
    | none => s.poisonPage id

/-- The pool pages of a process are copied to another core's pool, where that has room. -/
def State.carryPages (s : State) (pid : Pid) (target : Nat) : State :=
  if s.pagesFit pid target then
    let r := s.readForMove pid target
    (r.2.foldl (fun s id => s.loseId pid id) r.1).movePages pid target
  else s

/-! ### A new space (R265) -/

/-- The lowest free scratchpad slot of a partition below the count of SPAREA; it is an image slot too (R396). -/
def State.freeSpSlot (s : State) (part : Nat) : Option Nat :=
  let p := s.part part
  let n := p.sparea.toNat % 2 ^ 15
  let used := (s.allProcs.filter (fun q => q.part == part && !q.sup)).filterMap Proc.spSlot
    ++ (s.cores.toList.flatMap (fun k => k.records.filter (fun r => r.part == part))).filterMap Rec.spSlot
  let i := firstFree used 0 (used.length + 1)
  if i < n ∧ p.imgarea.getLsbD 0 then some i else none

/-- Every entry of a slot is written 0. -/
def State.clearSlot (s : State) (part slot : Nat) : Except Halt State :=
  let p := s.part part
  let root := p.sparea.toNat / 2 ^ 15 % 2 ^ 37 * 2 ^ 15 + slot * Config.sttSlotBytes
  asArea (s.areaZero p (BitVec.ofNat 64 root) 0x8000)

/-- The trap of R265. -/
def noSlot : TrapInfo := .at .spfault 0xFFFFFFFFFFFFFFFF

end Sys2Proof.Machine
end

