-- ==== Sys2Proof/Machine/ChanOps.lean ====
section
/-! DEFINITION. CHAN, SEND, RECV, XCOL (12_channels.md R325-R350): each instruction checks its registers, releases, and
acts at its cell; a partner that is there already completes it at once, else the context is blocked. -/

namespace Sys2Proof.Machine

/-- The endpoint kinds that each form accepts (R318). -/
def anyKind : List Nat := [1, 2, 3, 4, 5]
def sendKinds : List Nat := [1, 4, 5]
def recvKinds : List Nat := [1, 3, 4, 5]
def chanKinds : List Nat := [1, 5]

/-- The context that executes begins a wait (R343). -/
def State.blockOn (s : State) (w : Wait) : State :=
  { s with cur := { s.cur with wait := w, waitGen := s.cur.waitGen + 1, waitAt := s.cycle } }

/-- A channel instruction acts after every older store of its context has performed (R325, log 7). -/
def State.release (s : State) : State := s.drain s.cur.pid

/-- The release of an operation on a host endpoint or a peer end also waits for the context's stores to host and peer memory to
complete at their destination (13_ordering.md R367). -/
def State.releaseAt (s : State) (c : Cell) : State :=
  if c.kind = .host ∨ c.kind = .peer then s.flushOut (fun o => o.pid == s.cur.pid) else s

/-- An operation is posted, and completes or traps now if its cell decides it. -/
def State.postNow (s : State) (e : Entry) (c : Cell) (op : Posted) : State :=
  (((s.releaseAt c).post c.id (e.side c) op).settled c.id).reached e c

/-- Check an end, reach its cell, post. -/
def State.postAt (s : State) (x : EReg) (kinds : List Nat) (op : Posted) : Host.Outcome State Fault Refusal :=
  let s0 := s.release
  s0.finish (do
    let (e, c) ← s0.checkE x kinds
    s0.reach e c
    return s0.postNow e c op)

/-! ### CHAN (R348) -/

/-- An endpoint of the context that executes has moved: its wait generation changes (R346). -/
def State.moved (s : State) : State := { s with cur := { s.cur with waitGen := s.cur.waitGen + 1 } }

def execChnew (d a : EReg) (s : State) : Host.Outcome State Fault Refusal :=
  s.finish (do
    s.emptyE d
    s.emptyE a
    let (s1, h0, h1, id) ← s.newChannel s.cur.part s.cur.pid s.cur.pid
    return (((s1.wrE d h0).wrE a h1).next 4).reachedNew s.cur.part id [h0, h1])

def execChclose (a : EReg) (s : State) : Host.Outcome State Fault Refusal :=
  let s0 := s.release
  s0.finish (do
    let (e, c) ← s0.checkE a anyKind
    s0.reach e c
    return ((((s0.wrE a 0).closeEntry e).next 4).reached e c))

/-- EMOV: an endpoint moves, which changes the wait generation (R346). -/
def execEmov (d a : EReg) (s : State) : Host.Outcome State Fault Refusal :=
  s.finish (do
    let _ ← s.checkE a anyKind
    s.emptyE d
    return (((s.wrE d (s.rdE a)).wrE a 0).next 4).moved)

/-- The information word of a valid endpoint (R349). -/
def infoWord (e : Entry) (c : Cell) : Word :=
  let mine := c.side (e.side c)
  let peer := c.side (!(e.side c))
  let isBar := c.bar.isSome
  let dev := match peer.holder with | .peer d _ => d.val | _ => 0
  BitVec.ofNat 64 (c.kindCode * 2 ^ 61 + bit (!isBar && peer.closed) * 2 ^ 60 + bit mine.bound * 2 ^ 59
    + bit mine.held.isSome * 2 ^ 58 + bit c.dh * 2 ^ 57 + e.number % 4096 * 2 ^ 45
    + (match c.bar with | some b => b.n % 8192 | none => 0) * 2 ^ 32 + dev * 2 ^ 20 + c.chid % 2 ^ 20)

def execEinfo (d : SReg) (a : EReg) (s : State) : Host.Outcome State Fault Refusal :=
  if s.rdE a = 0 then .next ((s.wr d 0).next 4)
  else match s.useE a with
    | .error _ => .next ((s.wr d 0xE000000000000000).next 4)
    | .ok (e, c) =>
      s.finish (do
        s.reach e c
        return ((s.wr d (infoWord e c)).next 4).reached e c)

def execBrnew (d : EReg) (a : SReg) (s : State) : Host.Outcome State Fault Refusal :=
  let n := (s.rd a).toNat
  s.finish (do
    s.emptyE d
    trapIf (decide (n < 2) || decide (4096 < n)) .illegal 0
    match s.newCell s.cur.part false .chan .proc .proc (some { n := n, k := 1, lower := 0, phase := 0, arrived := 0 }) with
    | none => .error (.trap noEndpoint)
    | some (s1, id) =>
      match s1.newEntry s.cur.part false id 0 s.cur.pid, s1.cell? id with
      | some (s2, h), some c =>
        s2.reachCell c
        s2.reachHandle s.cur.part c h
        return ((s2.wrE d h).next 4).reachedNew s.cur.part id [h]
      | _, _ => .error (.trap noEndpoint))

/-- The lowest number that no open endpoint of a barrier holds. -/
def State.nextNumber (s : State) (c : Cell) : Nat :=
  let used := (s.barEntries c.id).map Entry.number
  firstFree used 0 (used.length + 1)

/-- BREP: the count of open endpoints never exceeds the expected count, also not what that will be once the arrivals of
closed endpoints no longer count (R338, R341). -/
def execBrep (d a : EReg) (s : State) : Host.Outcome State Fault Refusal :=
  s.finish (do
    let (e, c) ← s.checkE a [2]
    s.emptyE d
    match c.bar with
    | none => .error (endpointTrap c.word a)
    | some b =>
      if b.n - b.lower ≤ b.k then .error (endpointTrap c.word a)
      else match s.newEntry s.cur.part false c.id (s.nextNumber c) s.cur.pid with
        | none => .error (.trap noEndpoint)
        | some (s1, h) =>
          s.reach e c
          s1.reachHandle s.cur.part c h
          return ((((s1.updBar c.id (fun b => { b with k := b.k + 1 })).wrE d h).next 4).reached e c).reachedNew s.cur.part c.id [h])

/-! ### Barrier operations (R339, R340) -/

/-- The phase of a barrier. -/
def State.phaseOf (s : State) (id : Nat) : Option Nat := (s.cell? id).bind (fun c => c.bar.map Barrier.phase)

/-- An arrival of the context that executes, and the phase's completion if it is the last. A context that completes a
phase invalidates its core's L1 (R291). -/
def State.arriveNow (s : State) (e : Entry) (c : Cell) : State :=
  let s1 := (s.arriveAt c e.index).phaseCheck c.id 8
  if s1.phaseOf c.id = s.phaseOf c.id then s1 else s1.flushL1 s1.curCore

def execArrive (a : EReg) (s : State) : Host.Outcome State Fault Refusal :=
  let s0 := s.release
  s0.finish (do
    let (e, c) ← s0.checkE a [2]
    s0.reach e c
    return (if e.arrived then s0.blockOn (.barrierArrive e.index) else (s0.arriveNow e c).next 4).reached e c)

def execAwait (a : EReg) (s : State) : Host.Outcome State Fault Refusal :=
  let s0 := s.release
  s0.finish (do
    let (e, c) ← s0.checkE a [2]
    s0.reach e c
    return (if e.arrived then s0.blockOn (.barrierAwait e.index) else s0.next 4).reached e c)

/-- BSYNC waits as AWAIT does once its arrival counts; a second arrival first waits as ARRIVE does. -/
def execBsync (a : EReg) (s : State) : Host.Outcome State Fault Refusal :=
  let s0 := s.release
  s0.finish (do
    let (e, c) ← s0.checkE a [2]
    s0.reach e c
    return (if e.arrived then s0.blockOn (.barrierSync e.index)
      else (s0.blockOn (.barrierAwait e.index)).arriveNow e c).reached e c)

/-! ### Endpoints, scalars and exchanges (R348, R350) -/

def execSende (a b : EReg) (s : State) : Host.Outcome State Fault Refusal :=
  let s0 := s.release
  s0.finish (do
    let (e, c) ← s0.checkE a [1]
    let _ ← s0.useE b
    s0.reach e c
    return s0.postNow e c (.sende b))

def execRecve (d a : EReg) (s : State) : Host.Outcome State Fault Refusal :=
  let s0 := s.release
  s0.finish (do
    let (e, c) ← s0.checkE a [1]
    s0.emptyE d
    s0.reach e c
    return s0.postNow e c (.recve d))

def execSend (a : EReg) (b : SReg) (s : State) : Host.Outcome State Fault Refusal := s.postAt a sendKinds (.send (s.rd b))
def execRecv (d : SReg) (a : EReg) (s : State) : Host.Outcome State Fault Refusal := s.postAt a recvKinds (.recv d)

def execXmaxf (d a : SReg) (b : EReg) (s : State) : Host.Outcome State Fault Refusal :=
  s.postAt b chanKinds (.xcol .maxf (s.rd a) d)
def execXminf (d a : SReg) (b : EReg) (s : State) : Host.Outcome State Fault Refusal :=
  s.postAt b chanKinds (.xcol .minf (s.rd a) d)
def execXsumf (d a : SReg) (b : EReg) (s : State) : Host.Outcome State Fault Refusal :=
  s.postAt b chanKinds (.xcol .sumf (s.rd a) d)
def execXsumi (d a : SReg) (b : EReg) (s : State) : Host.Outcome State Fault Refusal :=
  s.postAt b chanKinds (.xcol .sumi (s.rd a) d)
def execXmaxi (d a : SReg) (b : EReg) (s : State) : Host.Outcome State Fault Refusal :=
  s.postAt b chanKinds (.xcol .maxi (s.rd a) d)
def execXswp (d a : SReg) (b : EReg) (s : State) : Host.Outcome State Fault Refusal :=
  s.postAt b chanKinds (.xcol .swp (s.rd a) d)

end Sys2Proof.Machine
end

