-- ==== Sys2Proof/Machine/Alt.lean ====
section
/-! DEFINITION. ALT (12_channels.md R333-R337). -/

namespace Sys2Proof.Machine

/-- The checks of the posted arms in ascending order (R333): timers take receive arms only. -/
def State.altChecks (s : State) : List (Nat × EReg × Bool) → Except Halt (List (Nat × Bool × Entry × Cell))
  | [] => .ok []
  | (i, x, isSend) :: rest =>
    match s.checkE x (if isSend then sendKinds else recvKinds) with
    | .error h => .error h
    | .ok (e, c) => (s.altChecks rest).map (fun l => (i, isSend, e, c) :: l)

/-- The cells of all posted arms are reached. -/
def State.altReach (s : State) : List (Nat × Bool × Entry × Cell) → Except Halt Unit
  | [] => .ok ()
  | (_, _, e, c) :: rest =>
    match s.reach e c with
    | .error h => .error h
    | .ok () => s.altReach rest

/-- What reaching them leaves. -/
def State.altReached (s : State) (l : List (Nat × Bool × Entry × Cell)) : State := l.foldl (fun s x => s.reached x.2.2.1 x.2.2.2) s

/-- Whether an arm is ready to be chosen at posting: its partner is not on the move (R355), and where it is another ALT,
that ALT's key is free (log 80). -/
def State.armNow (s : State) (c : Cell) (b isSend : Bool) : Bool :=
  s.armReady c b isSend && !s.ownerMoving c (!b) &&
    (!c.peerOffer b || (match s.endOwner c (!b) with
      | some q => q != s.cur.pid && s.altKey q == .unclaimed
      | none => true))

/-- The offers of the posted arms stand in their cells. -/
def State.postOffers (s : State) (arms : List (Nat × Bool × Entry × Cell)) : State :=
  arms.foldl (fun s a => s.updEnd a.2.2.2.id (a.2.2.1.side a.2.2.2)
    (fun e => { e with post := some (.offer (Fin.ofNat 8 a.1) a.2.1) })) s

/-- The ALT commits to an arm; a partner that is an ALT commits to its own. -/
def State.altCommit (s : State) (pid : Pid) (c : Cell) (b : Bool) (arm : Nat) : State :=
  let s1 := s.altReturn pid c b arm
  match c.offerArm (!b), s.endOwner c (!b) with
  | some (peerArm, _), some q => s1.altReturn q c (!b) peerArm.val
  | _, _ => s1

def execAlt (d a : SReg) (b : EReg) (arms dirs prio : BitVec 8) (poll : Bool) (s : State) :
    Host.Outcome State Fault Refusal :=
  let posted := altArms b arms dirs ((s.rd a).setWidth 8)
  if posted.isEmpty then .next ((s.wr d (BitVec.allOnes 64)).next 8)
  else
    let s1 := s.release
    s1.finish (do
      let l ← s1.altChecks posted
      s1.altReach l
      let s2 := l.foldl (fun s x => s.releaseAt x.2.2.2) s1
      let ready := (l.filter (fun x => s2.armNow x.2.2.2 (x.2.2.1.side x.2.2.2) x.2.1)).map Prod.fst
      let s3 := (s2.postOffers l).blockOn (.alt d b arms dirs prio .unclaimed)
      match altChoice s2.cur.altLast prio ready with
      | none => return (if poll then (s2.wr d (BitVec.allOnes 64)).next 8 else s3).altReached l
      | some i =>
        match l.find? (fun x => x.1 == i) with
        | none => return s2
        | some x => return (s3.altCommit s3.cur.pid x.2.2.2 (x.2.2.1.side x.2.2.2) i).altReached l)

end Sys2Proof.Machine
end

