-- ==== Sys2Proof/Machine/IntOps.lean ====
section
/-! DEFINITION. Integer register instructions, immediates, constants and the LSCAL integer and bit forms (06_scalar.md
R168-R175, R186-R189). -/

namespace Sys2Proof.Machine

/-! ### The results -/

/-- A scalar instruction of n bytes writes one register and retires. -/
def State.put (s : State) (d : SReg) (v : Word) (n : Nat) : State := (s.wr d v).next n

/-- 1 or 0. -/
def flagWord (b : Bool) : Word := if b then 1 else 0

/-- Bits [127:64] of the products (R169). -/
def mulHigh (x y : Word) : Word := BitVec.ofInt 64 (x.toInt * y.toInt / 18446744073709551616)
def mulHighN (x y : Word) : Word := BitVec.ofNat 64 (x.toNat * y.toNat / 18446744073709551616)

/-- Quotients and remainders (R170). -/
def divSigned (x y : Word) : Word := if y = 0 then BitVec.allOnes 64 else BitVec.ofInt 64 (x.toInt.tdiv y.toInt)
def divUnsigned (x y : Word) : Word := if y = 0 then BitVec.allOnes 64 else x / y
def remSigned (x y : Word) : Word := if y = 0 then x else BitVec.ofInt 64 (x.toInt.tmod y.toInt)
def remUnsigned (x y : Word) : Word := if y = 0 then x else x % y

/-- Trailing zeros of n bits. -/
def trailZeros : Nat → Nat → Nat
  | 0, _ => 0
  | n + 1, x => if x % 2 = 1 then 0 else 1 + trailZeros n (x / 2)

/-- Leading zeros: 64 when x = 0. -/
def leadZeros (x : Nat) : Nat := if x = 0 then 64 else 63 - Nat.log2 x

/-- The n low bits of x in reverse, over those gathered before. -/
def reverseBits : Nat → Nat → Nat → Nat
  | 0, _, acc => acc
  | n + 1, x, acc => reverseBits n (x / 2) (2 * acc + x % 2)

/-- The count of a shift: y mod 64. -/
def shiftCount (y : Word) : Nat := y.toNat % 64

/-- A funnel's 128 bits and count (R187). -/
def funnelLeft (x y c : Word) : Word := ((x ++ y : BitVec 128) <<< shiftCount c).extractLsb' 64 64
def funnelRight (x y c : Word) : Word := ((x ++ y : BitVec 128) >>> shiftCount c).extractLsb' 0 64

/-- The width of a bit field: len 0 means 64, positions past 63 drop (R189). -/
def fieldWidth (pos len : BitVec 6) : Nat := min (if len = 0 then 64 else len.toNat) (64 - pos.toNat)
def fieldMask (pos len : BitVec 6) : Word := BitVec.ofNat 64 ((2 ^ fieldWidth pos len - 1) * 2 ^ pos.toNat)

/-- BFX and BFI. -/
def fieldExtract (pos len : BitVec 6) (x : Word) : Word :=
  (x >>> pos.toNat) &&& BitVec.ofNat 64 (2 ^ fieldWidth pos len - 1)
def fieldInsert (pos len : BitVec 6) (old x : Word) : Word :=
  (old &&& ~~~(fieldMask pos len)) ||| ((x <<< pos.toNat) &&& fieldMask pos len)

/-- BMAP: each bit through the table (R186). -/
def mapBits (table : BitVec 8) (a b c : Word) : Word := BitVec.ofNat 64 (bitMap 64 table a.toNat b.toNat c.toNat)

/-! ### INT (R169) -/

def execAdd (d a b : SReg) (s : State) : Host.Outcome State Fault Refusal := .next (s.put d (s.rd a + s.rd b) 4)
def execSub (d a b : SReg) (s : State) : Host.Outcome State Fault Refusal := .next (s.put d (s.rd a - s.rd b) 4)
def execMul (d a b : SReg) (s : State) : Host.Outcome State Fault Refusal := .next (s.put d (s.rd a * s.rd b) 4)
def execMulh (d a b : SReg) (s : State) : Host.Outcome State Fault Refusal := .next (s.put d (mulHigh (s.rd a) (s.rd b)) 4)
def execMulhn (d a b : SReg) (s : State) : Host.Outcome State Fault Refusal :=
  .next (s.put d (mulHighN (s.rd a) (s.rd b)) 4)
def execDiv (d a b : SReg) (s : State) : Host.Outcome State Fault Refusal := .next (s.put d (divSigned (s.rd a) (s.rd b)) 4)
def execDivn (d a b : SReg) (s : State) : Host.Outcome State Fault Refusal :=
  .next (s.put d (divUnsigned (s.rd a) (s.rd b)) 4)
def execRem (d a b : SReg) (s : State) : Host.Outcome State Fault Refusal := .next (s.put d (remSigned (s.rd a) (s.rd b)) 4)
def execRemn (d a b : SReg) (s : State) : Host.Outcome State Fault Refusal :=
  .next (s.put d (remUnsigned (s.rd a) (s.rd b)) 4)
def execAnd (d a b : SReg) (s : State) : Host.Outcome State Fault Refusal := .next (s.put d (s.rd a &&& s.rd b) 4)
def execOr (d a b : SReg) (s : State) : Host.Outcome State Fault Refusal := .next (s.put d (s.rd a ||| s.rd b) 4)
def execXor (d a b : SReg) (s : State) : Host.Outcome State Fault Refusal := .next (s.put d (s.rd a ^^^ s.rd b) 4)
def execAndn (d a b : SReg) (s : State) : Host.Outcome State Fault Refusal := .next (s.put d (s.rd a &&& ~~~(s.rd b)) 4)
def execOrn (d a b : SReg) (s : State) : Host.Outcome State Fault Refusal := .next (s.put d (s.rd a ||| ~~~(s.rd b)) 4)
def execXnor (d a b : SReg) (s : State) : Host.Outcome State Fault Refusal := .next (s.put d (~~~(s.rd a ^^^ s.rd b)) 4)
def execShl (d a b : SReg) (s : State) : Host.Outcome State Fault Refusal :=
  .next (s.put d (s.rd a <<< shiftCount (s.rd b)) 4)
def execShr (d a b : SReg) (s : State) : Host.Outcome State Fault Refusal :=
  .next (s.put d (s.rd a >>> shiftCount (s.rd b)) 4)
def execSra (d a b : SReg) (s : State) : Host.Outcome State Fault Refusal :=
  .next (s.put d ((s.rd a).sshiftRight (shiftCount (s.rd b))) 4)
def execRol (d a b : SReg) (s : State) : Host.Outcome State Fault Refusal :=
  .next (s.put d ((s.rd a).rotateLeft (shiftCount (s.rd b))) 4)
def execRor (d a b : SReg) (s : State) : Host.Outcome State Fault Refusal :=
  .next (s.put d ((s.rd a).rotateRight (shiftCount (s.rd b))) 4)
def execMin (d a b : SReg) (s : State) : Host.Outcome State Fault Refusal :=
  .next (s.put d (if (s.rd b).slt (s.rd a) then s.rd b else s.rd a) 4)
def execMax (d a b : SReg) (s : State) : Host.Outcome State Fault Refusal :=
  .next (s.put d (if (s.rd a).slt (s.rd b) then s.rd b else s.rd a) 4)
def execMinn (d a b : SReg) (s : State) : Host.Outcome State Fault Refusal :=
  .next (s.put d (if (s.rd b).ult (s.rd a) then s.rd b else s.rd a) 4)
def execMaxn (d a b : SReg) (s : State) : Host.Outcome State Fault Refusal :=
  .next (s.put d (if (s.rd a).ult (s.rd b) then s.rd b else s.rd a) 4)
def execSlt (d a b : SReg) (s : State) : Host.Outcome State Fault Refusal :=
  .next (s.put d (flagWord ((s.rd a).slt (s.rd b))) 4)
def execSltn (d a b : SReg) (s : State) : Host.Outcome State Fault Refusal :=
  .next (s.put d (flagWord ((s.rd a).ult (s.rd b))) 4)
def execSeq (d a b : SReg) (s : State) : Host.Outcome State Fault Refusal :=
  .next (s.put d (flagWord (s.rd a == s.rd b)) 4)
def execSne (d a b : SReg) (s : State) : Host.Outcome State Fault Refusal :=
  .next (s.put d (flagWord (s.rd a != s.rd b)) 4)
def execClz (d a : SReg) (s : State) : Host.Outcome State Fault Refusal :=
  .next (s.put d (BitVec.ofNat 64 (leadZeros (s.rd a).toNat)) 4)
def execCtz (d a : SReg) (s : State) : Host.Outcome State Fault Refusal :=
  .next (s.put d (BitVec.ofNat 64 (trailZeros 64 (s.rd a).toNat)) 4)
def execPopc (d a : SReg) (s : State) : Host.Outcome State Fault Refusal :=
  .next (s.put d (BitVec.ofNat 64 (popBits 64 (s.rd a).toNat)) 4)
def execBrev (d a : SReg) (s : State) : Host.Outcome State Fault Refusal :=
  .next (s.put d (BitVec.ofNat 64 (reverseBits 64 (s.rd a).toNat 0)) 4)
def execSextb (d a : SReg) (s : State) : Host.Outcome State Fault Refusal :=
  .next (s.put d (sextWord ((s.rd a).setWidth 8)) 4)
def execSexth (d a : SReg) (s : State) : Host.Outcome State Fault Refusal :=
  .next (s.put d (sextWord ((s.rd a).setWidth 16)) 4)
def execSextw (d a : SReg) (s : State) : Host.Outcome State Fault Refusal :=
  .next (s.put d (sextWord ((s.rd a).setWidth 32)) 4)
def execZextb (d a : SReg) (s : State) : Host.Outcome State Fault Refusal :=
  .next (s.put d (zextWord ((s.rd a).setWidth 8)) 4)
def execZexth (d a : SReg) (s : State) : Host.Outcome State Fault Refusal :=
  .next (s.put d (zextWord ((s.rd a).setWidth 16)) 4)
def execZextw (d a : SReg) (s : State) : Host.Outcome State Fault Refusal :=
  .next (s.put d (zextWord ((s.rd a).setWidth 32)) 4)

/-! ### Immediates and shifts by a constant (R171, R172) -/

def execAddi (d a : SReg) (imm : BitVec 15) (s : State) : Host.Outcome State Fault Refusal :=
  .next (s.put d (s.rd a + sextWord imm) 4)
def execAndi (d a : SReg) (imm : BitVec 15) (s : State) : Host.Outcome State Fault Refusal :=
  .next (s.put d (s.rd a &&& sextWord imm) 4)
def execOri (d a : SReg) (imm : BitVec 15) (s : State) : Host.Outcome State Fault Refusal :=
  .next (s.put d (s.rd a ||| sextWord imm) 4)
def execXori (d a : SReg) (imm : BitVec 15) (s : State) : Host.Outcome State Fault Refusal :=
  .next (s.put d (s.rd a ^^^ sextWord imm) 4)
def execSlti (d a : SReg) (imm : BitVec 15) (s : State) : Host.Outcome State Fault Refusal :=
  .next (s.put d (flagWord ((s.rd a).slt (sextWord imm))) 4)
def execSltni (d a : SReg) (imm : BitVec 15) (s : State) : Host.Outcome State Fault Refusal :=
  .next (s.put d (flagWord ((s.rd a).ult (sextWord imm))) 4)
def execMuli (d a : SReg) (imm : BitVec 15) (s : State) : Host.Outcome State Fault Refusal :=
  .next (s.put d (s.rd a * sextWord imm) 4)
def execShli (d a : SReg) (k : BitVec 6) (s : State) : Host.Outcome State Fault Refusal :=
  .next (s.put d (s.rd a <<< k.toNat) 4)
def execShri (d a : SReg) (k : BitVec 6) (s : State) : Host.Outcome State Fault Refusal :=
  .next (s.put d (s.rd a >>> k.toNat) 4)
def execSrai (d a : SReg) (k : BitVec 6) (s : State) : Host.Outcome State Fault Refusal :=
  .next (s.put d ((s.rd a).sshiftRight k.toNat) 4)
def execRori (d a : SReg) (k : BitVec 6) (s : State) : Host.Outcome State Fault Refusal :=
  .next (s.put d ((s.rd a).rotateRight k.toNat) 4)

/-! ### Constants (R173, R175) -/

def execLih (d : SReg) (imm : BitVec 20) (s : State) : Host.Outcome State Fault Refusal :=
  .next (s.put d (sextWord imm <<< 12) 4)
def execPcadd (d : SReg) (imm : BitVec 20) (s : State) : Host.Outcome State Fault Refusal :=
  .next (s.put d (s.cur.ip + (sextWord imm <<< 12)) 4)
def execLi (d : SReg) (imm : BitVec 32) (s : State) : Host.Outcome State Fault Refusal := .next (s.put d (sextWord imm) 8)
def execLihL (d : SReg) (imm : BitVec 32) (s : State) : Host.Outcome State Fault Refusal :=
  .next (s.put d (imm ++ (s.rd d).setWidth 32 : BitVec 64) 8)
def execAddl (d a : SReg) (imm : BitVec 32) (s : State) : Host.Outcome State Fault Refusal :=
  .next (s.put d (s.rd a + sextWord imm) 8)

/-! ### LSCAL bit forms (R186-R189) -/

def execBmap (d a b c : SReg) (table : BitVec 8) (s : State) : Host.Outcome State Fault Refusal :=
  .next (s.put d (mapBits table (s.rd a) (s.rd b) (s.rd c)) 8)
def execFshl (d a b c : SReg) (s : State) : Host.Outcome State Fault Refusal :=
  .next (s.put d (funnelLeft (s.rd a) (s.rd b) (s.rd c)) 8)
def execFshr (d a b c : SReg) (s : State) : Host.Outcome State Fault Refusal :=
  .next (s.put d (funnelRight (s.rd a) (s.rd b) (s.rd c)) 8)
def execCsel (d a b c : SReg) (s : State) : Host.Outcome State Fault Refusal :=
  .next (s.put d (if s.rd c = 0 then s.rd b else s.rd a) 8)
def execBfx (d a : SReg) (pos len : BitVec 6) (s : State) : Host.Outcome State Fault Refusal :=
  .next (s.put d (fieldExtract pos len (s.rd a)) 8)
def execBfi (d a : SReg) (pos len : BitVec 6) (s : State) : Host.Outcome State Fault Refusal :=
  .next (s.put d (fieldInsert pos len (s.rd d) (s.rd a)) 8)

end Sys2Proof.Machine
end

