-- ==== Sys2Proof/Machine/LoadStore.lean ====
section
/-! DEFINITION. LD and ST (11_memory.md R285, R293-R295, R311), PLD and PST (10_scratchpad.md R277). -/

namespace Sys2Proof.Machine

/-! ### Addresses of scalar accesses -/

/-- x := S[a] + sext(off12, 12). -/
def State.effAddr (s : State) (a : SReg) (off : BitVec 12) : Word := s.rd a + sextWord off

/-- Natural alignment (R293). -/
def aligned (x : Word) (z : Nat) : Bool := x.toNat % z == 0

/-- The retries of the walk that a translation makes, for an access whose earlier checks pass. -/
def State.noteAccess (s : State) (x : Word) (ok : Bool) : State := if ok then s.noteWalk s.curCore s.curPart x else s

/-- The checks of R293 on a global access of z bytes that lies in one page: alignment, R285, translation, MEMOFF. The
translation is remembered. -/
def State.scalarXlate (s : State) (x : Word) (z : Nat) (k : Access) : Except Halt (State × Nat) := do
  trapIf (!aligned x z) .misalign x
  let r ← asTrap (s.xlate s.curCore s.curPart s.cur.sup x z k)
  trapIf (s.memOff s.curPart r.pa) .memoff x
  return (s.cacheXlate s.curCore s.curPart x r, r.pa)

/-! ### Accesses of an open region (R311) -/

/-- The offset of an address in a region's line. -/
def Region.offset (r : Region) (x : Word) : Nat := (x - r.line).toNat

/-- Whether an access lies in the line. -/
def Region.covers (r : Region) (x : Word) (z : Nat) : Bool := decide (r.offset x + z ≤ 128)

/-- The private copy with bytes laid over it. -/
def Region.write (r : Region) (x : Word) (bytes : List Byte) : Region :=
  let o := r.offset x
  { r with copy := r.copy.take o ++ bytes ++ r.copy.drop (o + bytes.length), stores := r.stores ++ [(r.pa + o, bytes)] }

/-- The region counts one LD or ST. -/
def Region.note (r : Region) (x : Word) (z : Nat) (load : Bool) : Region :=
  { r with access := r.access + 1, outside := r.outside || !r.covers x z, hasLoad := r.hasLoad || load }

/-! ### The value of a load -/

/-- The z bytes at a physical address for the context, under a key: its overlapping stores perform first, then the L1 line or the
home slice supplies them; none where a poisoned sector is left after the retry (R293, R208, R289). -/
def State.loadBytes (s : State) (key : Option Nat) (pa z : Nat) : State × Option Nat :=
  let s1 := s.awaitStores [(pa, z)]
  let s2 := if physRegion pa = .hbm && s1.hitsL1 s1.curCore pa then s1 else ((s1.noteLine s1.curCore pa).readRange pa z).noteReach pa
  if !s2.hitsL1 s2.curCore pa && s2.rangeBad pa z then (s2, none)
  else
    let r := s2.loadL1 s2.curCore key pa z
    (r.1, some (ofBytes r.2))

/-- The end of a LD: POISON where there is no value, WATCH, the register. -/
def State.finishLoad (s : State) (x : Word) (d : SReg) (sz : Size) : State × Option Nat →
    Host.Outcome State Fault Refusal
  | (t, none) => .next (t.takeTrap (.at .poison x))
  | (t, some v) =>
    t.finish (do
      s.watchAt x (Size.bytes sz) true false
      return t.put d (loadValue sz v) 4)

/-- LD (R293): in a region it reads the private copy. -/
def execLd (d a : SReg) (sz : Size) (off : BitVec 12) (s : State) : Host.Outcome State Fault Refusal :=
  let x := s.effAddr a off
  let z := Size.bytes sz
  let s0 := s.noteAccess x (aligned x z)
  match s0.scalarXlate x z .read with
  | .error h => .next (s0.halt h)
  | .ok (s1, pa) =>
    let key := s1.keyAt s1.curCore s1.curPart x
    match s1.cur.region with
    | some r =>
      let s2 := { s1 with cur := { s1.cur with region := some (r.note x z true) } }
      s2.finishLoad x d sz
        (if r.covers x z then (s2, some (ofBytes ((r.copy.drop (r.offset x)).take z))) else s2.loadBytes key pa z)
    | none => s1.finishLoad x d sz (s1.loadBytes key pa z)

/-- ST (R293): the store retires here and performs later (R295); in a region it writes the private copy. -/
def execSt (d a : SReg) (sz : Size) (off : BitVec 12) (s : State) : Host.Outcome State Fault Refusal :=
  let x := s.effAddr a off
  let z := Size.bytes sz
  let s0 := s.noteAccess x (aligned x z)
  s0.finish (do
    let (s1, pa) ← s0.scalarXlate x z .write
    s1.watchAt x z false true
    let bytes := bytesOf z (s1.rd d).toNat
    match s1.cur.region with
    | some r =>
      let r1 := r.note x z false
      return { s1 with cur := { s1.cur with region := some (if r.covers x z then r1.write x bytes else r1) } }.next 4
    | none => return (s1.queueStore x pa bytes false s1.cur.nextOp [(pa, z)] .normal).next 4)

/-! ### PLD and PST (10_scratchpad.md R277) -/

/-- The page number of a scratchpad address. -/
def spPage (x : Word) : Nat := x.toNat / 4096 % 4096

/-- The checks of R277 up to the state of the entry: the pool page of a resident copy. -/
def State.spAccess (s : State) (x : Word) (z : Nat) (store : Bool) : Except Halt (State × Word × Nat) := do
  trapIf (!aligned x z) .misalign x
  trapIf (x.toNat / 2 ^ 24 != 0) .spfault x
  let (s1, e) ← s.sttGet s.cur.pid (spPage x)
  trapIf (sttState e == 0) .spfault x
  trapIf (!(if store then sttW e else sttR e)) .spprot x
  trapIf (sttState e == 4 || sttState e == 5) .poison x
  match s1.cur.resident? (spPage x) with
  | none => .error (.stall (.pageIn (spPage x)))
  | some id => return (s1, e, id)

/-- What follows a scalar access to a pool page: the page is read (19_trust.md R477), POISON where it is poisoned. -/
def State.onPad (s : State) (x : Word) (z : Nat) (store : Bool) (f : State → Word → Nat → Except Halt State) :
    Host.Outcome State Fault Refusal :=
  match s.spAccess x z store with
  | .error h => .next (s.halt h)
  | .ok (s1, e, id) =>
    let s2 := s1.settlePage id
    s2.finish (do
      trapIf (s2.pageOf id).poison .poison x
      f s2 e id)

/-- PLD. -/
def execPld (d a : SReg) (sz : Size) (off : BitVec 12) (s : State) : Host.Outcome State Fault Refusal :=
  let x := s.effAddr a off
  let z := Size.bytes sz
  s.onPad x z false (fun s1 _ id =>
    .ok ((s1.touchPage id).put d (loadValue sz (pageRead (s1.pageOf id) (x.toNat % 4096) z)) 4))

/-- PST: a page with another reference is copied first (R198). -/
def execPst (d a : SReg) (sz : Size) (off : BitVec 12) (s : State) : Host.Outcome State Fault Refusal :=
  let x := s.effAddr a off
  let z := Size.bytes sz
  s.onPad x z true (fun s1 e id => do
    let pg := pageStore (s1.pageOf id) (x.toNat % 4096) z (s1.rd d).toNat
    let s2 ←
      if 1 < s1.cur.pins id then
        if s1.sharedRoom s1.curCore 1 then
          match s1.freshPages s1.cur [pg] with
          | (t, [.pool i]) => pure { t with cur := { t.cur with spDir := dirSet (spPage x) (some i) t.cur.spDir } }
          | (t, _) => pure t
        else .error (.stall (.pool s1.curCore))
      else pure (s1.setPage id pg)
    let e1 := sttEntry (sttBacking e) (sttSaved e) true (sttR e) (sttW e) (sttState e)
    let s3 ← if sttDirty e then pure s2 else s2.sttPut s2.cur.pid (spPage x) e1
    return s3.next 4)

end Sys2Proof.Machine
end

