-- ==== Sys2Proof/Machine/Atomic.lean ====
section
/-! DEFINITION. Atomics (11_memory.md R307-R316): AMO, single-line regions, the retry latch, and what a home slice does
with a request. A request is sent at retirement, performed by ATOMIC_AT_HOME and answered by ATOMIC_REPLY (log 8). -/

namespace Sys2Proof.Machine

/-! ### Sending (R313) -/

/-- The latch armed with a request. -/
def Latch.arm (l : Latch) (kind : BitVec 2) (va : Word) (req : AtomReq) (key : Option Nat) (core : Nat) : Latch :=
  { sent := true, done := false, kind := kind, stop := 0, addr := va.setWidth 52, rows := 0, req := req, key := key,
    seq := l.seq + 1, result := none, core := core, told := false, resent := false }

/-- The latch emptied; the sequence number stays. -/
def Latch.clear (l : Latch) : Latch := { Latch.empty with seq := l.seq }

/-- The context that executes sends a request. -/
def State.sendAtomic (s : State) (kind : BitVec 2) (va : Word) (req : AtomReq) : State :=
  { s with cur := { s.cur with 
    latch := s.cur.latch.arm kind va req (s.keyAt s.curCore s.curPart va) s.curCore } }

/-! ### AMO (R307, R308) -/

/-- AMO, up to its retirement: every check, then the request. An AMO whose latch is busy waits. -/
def State.amo (s : State) (op : AmoOp) (d a b : SReg) (narrow : Bool) (sc : Scope) : Host.Outcome State Fault Refusal :=
  let x := s.rd a
  let z := if narrow then 4 else 8
  let s0 := s.noteAccess x (aligned x z)
  s0.finish (do
    trapIf (!aligned x z) .misalign x
    let r ← asTrap (s0.xlate s0.curCore s0.curPart s0.cur.sup x z .modify)
    trapIf (sc != .sys && physRegion r.pa != .hbm) .gprot x
    trapIf (s0.memOff s0.curPart r.pa) .memoff x
    s0.watchAt x z true true
    if s0.cur.latch.sent then return s0
    let s1 := s0.cacheXlate s0.curCore s0.curPart x r
    return ((s1.sendAtomic 1 x (.amo op narrow sc d (s1.rd b) (s1.rd d) r.pa)).noteReach r.pa).next 4)

def execAadd (d a b : SReg) (narrow : Bool) (sc : Scope) (s : State) : Host.Outcome State Fault Refusal :=
  s.amo .add d a b narrow sc
def execAand (d a b : SReg) (narrow : Bool) (sc : Scope) (s : State) : Host.Outcome State Fault Refusal :=
  s.amo .and d a b narrow sc
def execAor (d a b : SReg) (narrow : Bool) (sc : Scope) (s : State) : Host.Outcome State Fault Refusal :=
  s.amo .or d a b narrow sc
def execAxor (d a b : SReg) (narrow : Bool) (sc : Scope) (s : State) : Host.Outcome State Fault Refusal :=
  s.amo .xor d a b narrow sc
def execAmin (d a b : SReg) (narrow : Bool) (sc : Scope) (s : State) : Host.Outcome State Fault Refusal :=
  s.amo .min d a b narrow sc
def execAmax (d a b : SReg) (narrow : Bool) (sc : Scope) (s : State) : Host.Outcome State Fault Refusal :=
  s.amo .max d a b narrow sc
def execAminn (d a b : SReg) (narrow : Bool) (sc : Scope) (s : State) : Host.Outcome State Fault Refusal :=
  s.amo .minn d a b narrow sc
def execAmaxn (d a b : SReg) (narrow : Bool) (sc : Scope) (s : State) : Host.Outcome State Fault Refusal :=
  s.amo .maxn d a b narrow sc
def execAswp (d a b : SReg) (narrow : Bool) (sc : Scope) (s : State) : Host.Outcome State Fault Refusal :=
  s.amo .swp d a b narrow sc
def execAcas (d a b : SReg) (narrow : Bool) (sc : Scope) (s : State) : Host.Outcome State Fault Refusal :=
  s.amo .cas d a b narrow sc

/-- The new value at the home (R307): old, s and cmp are values of z bytes. -/
def amoNew (op : AmoOp) (z old s cmp : Nat) : Nat :=
  let m := 2 ^ (8 * z)
  let sg := fun (v : Nat) => if v < m / 2 then (v : Int) else (v : Int) - m
  match op with
  | .add => (old + s) % m
  | .and => old &&& s
  | .or => old ||| s
  | .xor => old ^^^ s
  | .min => if sg s < sg old then s else old
  | .max => if sg old < sg s then s else old
  | .minn => min old s
  | .maxn => max old s
  | .swp => s
  | .cas => if old = cmp then s else old

/-! ### Regions (R309-R312) -/

/-- ALB: the region opens on the line, with its snapshot; the read of the line is watched (R411). -/
def State.openRegion (s : State) (a : SReg) (gate : Option (Nat × Word)) : Host.Outcome State Fault Refusal :=
  let l := s.rd a
  let s0 := s.noteAccess l (aligned l 128)
  match s0.scalarXlate l 128 .read with
  | .error h => .next (s0.halt h)
  | .ok (s1, pa) =>
    if physRegion pa != .hbm then .next (s1.takeTrap (.at .gprot l))
    else
      let key := s1.keyAt s1.curCore s1.curPart l
      let s2 := (((s1.awaitStores [(pa, 128)]).noteRead (Via.of key s1.cur.part) pa 128).dropL1 s1.curCore pa 128).noteReach pa
      if s2.rangeBad pa 128 then .next (s2.takeTrap (.at .poison l))
      else match s2.watchAt l 128 true false with
      | .error h => .next (s2.halt h)
      | .ok () =>
        let r : Region :=
          { ip := s2.cur.ip, line := l, pa := pa, copy := s2.bytesAs key pa 128, stores := [], gate := gate, hasLoad := false,
            touched := false, outside := false, count := 0, access := 0, savedS := s2.cur.s, savedF := s2.cur.fcsr }
        .next ({ s2 with cur := { s2.cur with region := some r } }.next 4)

def execAlbGated (d a : SReg) (unit : Fin 16) (s : State) : Host.Outcome State Fault Refusal :=
  s.openRegion a (some (8 * unit.val, s.rd d))
def execAlb (a : SReg) (s : State) : Host.Outcome State Fault Refusal := s.openRegion a none

/-- A region's request on the line its ALE translates to: where an invalidation has moved the line since the ALB, what
the region loaded is no snapshot of it (14_translation.md R386). -/
def Region.request (r : Region) (pa : Nat) (d : SReg) : AtomReq :=
  .region r.line pa (r.stores.map (fun x => (pa + (x.1 - r.pa), x.2))) r.gate r.hasLoad (r.touched || pa != r.pa) d

/-- ALE: the region retires as one unit and its request is sent; the line's access is watched (R411). -/
def execAle (d : SReg) (s : State) : Host.Outcome State Fault Refusal :=
  match s.cur.region with
  | none => .next (s.takeTrap (.at .illegal 0))
  | some r =>
    let s0 := s.noteAccess r.line true
    s0.finish (do
      trapIf (decide (8 < r.access) || r.outside) .illegal 0
      let x ← asTrap (s0.xlate s0.curCore s0.curPart s0.cur.sup r.line 128 .modify)
      trapIf (physRegion x.pa != .hbm) .gprot r.line
      s0.watchAt r.line 128 true true
      if s0.cur.latch.sent then return s0
      let s1 := { s0 with cur := { s0.cur with region := none } }.noteReach x.pa
      return (s1.sendAtomic 2 r.line (r.request x.pa d)).next 4)

/-! ### At the home slice (R304, R311, R314) -/

/-- What a home slice meets on a range before it performs a request there: 2 an offline home, 1 a lasting error in what
it must read, 0 nothing. -/
def State.homeStop (s : State) (pa n : Nat) (mustRead : Bool) : BitVec 2 :=
  if s.offlineAt pa then 2 else if mustRead && s.rangeBad pa n then 1 else 0

/-- The latch of a process changes. -/
def State.updLatch (s : State) (pid : Pid) (f : Latch → Latch) : State :=
  s.updProc pid (fun p => { p with latch := f p.latch })

/-- A request that was performed with a result. -/
def State.performed (s : State) (pid : Pid) (result : Option Word) : State :=
  s.updLatch pid (fun l => { l with done := true, result := result })

/-- An AMO at its home, under the key of its leaf. -/
def State.amoAtHome (s : State) (pid : Pid) (key : Option Nat) (op : AmoOp) (narrow : Bool) (x cmp : Word) (pa : Nat) :
    State :=
  let z := if narrow then 4 else 8
  let s1 := s.noteRead (s.viaOf pid key .normal) pa z
  let stop := s1.homeStop pa z true
  if stop != 0 then s1.updLatch pid (fun l => { l with stop := stop })
  else
    let old := ofBytes (s1.bytesAs key pa z)
    let m := 2 ^ (8 * z)
    let new := amoNew op z old (x.toNat % m) (cmp.toNat % m)
    (((s1.sealFor key pa z).storeBytes pid pa (bytesOf z new)).flushFor pa).performed pid
      (some (if narrow then sextWord (BitVec.ofNat 32 old) else BitVec.ofNat 64 old))

/-- A region at its home: the gate holds and, where the region loaded, no other agent's store has touched the line. -/
def State.regionAtHome (s : State) (pid : Pid) (key : Option Nat) (pa : Nat) (stores : List (Nat × List Byte))
    (gate : Option (Nat × Word)) (hasLoad touched : Bool) : State :=
  let must := gate.isSome || hasLoad
  let s1 := if must then s.noteRead (s.viaOf pid key .normal) pa 128 else s
  let stop := s1.homeStop pa 128 must
  if stop != 0 then s1.updLatch pid (fun l => { l with stop := stop })
  else
    let open_ := match gate with
      | some (o, g) => BitVec.ofNat 64 (ofBytes (s1.bytesAs key (pa + o) 8)) == g
      | none => true
    let ok := open_ && !(hasLoad && touched)
    let s2 := if ok then stores.foldl (fun s x => (s.sealFor key x.1 x.2.length).storeBytes pid x.1 x.2) s1 else s1
    s2.performed pid (some (flagWord ok))

/-- m + c of a TRED element (R304). -/
def tredSum (ty : Ty) (m c : Nat) : Nat :=
  if ty.isFloat then (roundFloat ty .rne false (exactSum [elemValue ty m, elemValue ty c])).1 else (m + c) % 2 ^ ty.bits

/-- A row of a TRED at its home: all its elements, or none and a stop. -/
def State.tredRowAtHome (s : State) (pid : Pid) (ty : Ty) (hint : Hint) (r : TredRow) : State :=
  let z := ty.bits / 8
  let l := r.elems.zip r.keys
  let s1 := l.foldl (fun s e => s.noteRead (s.viaOf pid e.2 hint) e.1.1 z) s
  match (r.elems.map (fun e => s1.homeStop e.1 z true)).find? (fun x => x != 0) with
  | some stop => s1.updLatch pid (fun l => { l with stop := stop })
  | none =>
    (l.foldl (fun s e =>
      ((s.sealFor e.2 e.1.1 z).storeVia pid hint e.1.1 (bytesOf z (tredSum ty (ofBytes (s.bytesAs e.2 e.1.1 z)) e.1.2))).flushFor e.1.1)
      s1).updLatch pid
        (fun l => { l with rows := l.rows ||| BitVec.ofNat 64 (2 ^ r.row) })

/-- The rows of a TRED that are not performed. -/
def Latch.rowsLeft (l : Latch) : List TredRow :=
  match l.req with
  | .tred _ rows _ _ => rows.filter (fun r => !l.rows.getLsbD r.row)
  | _ => []

/-- The physical pieces of the byte interval of a request (07_tiles.md R207). -/
def AtomReq.span : AtomReq → List (Nat × Nat)
  | .amo _ narrow _ _ _ _ pa => [(pa, if narrow then 4 else 8)]
  | .region _ pa _ _ _ _ _ => [(pa, 128)]
  | .tred _ _ span _ => span
  | .none => []

/-- Whether two rows of a TRED go to one granule, and so to one slice: they arrive there in ascending order (R304,
16_mesh.md R423). -/
def TredRow.sameSlice (a b : TredRow) : Bool := a.elems.any (fun x => b.elems.any (fun y => x.1 / 4096 == y.1 / 4096))

/-- Whether a row of a TRED may perform: no lower row that has not performed goes to a slice of its. -/
def Latch.rowFirst (l : Latch) (r : TredRow) : Bool := !l.rowsLeft.any (fun x => decide (x.row < r.row) && x.sameSlice r)

/-- ATOMIC_AT_HOME: a sent request reaches its home. The context's older overlapping stores have performed (R208, log 8).
A request the slice has performed already is recognised by its sequence number and not performed again. -/
def tryAtomicAtHome (pid : Pid) (row : Nat) (s : State) : Option State :=
  match s.proc? pid with
  | none => none
  | some p =>
    if !p.latch.sent || p.latch.stop != 0 then none
    else if p.latch.done then some s
    else
      let s1 := s.drainOver pid p.latch.req.span
      match p.latch.req with
      | .none => none
      | .amo op narrow _ _ x cmp pa => some (s1.amoAtHome pid p.latch.key op narrow x cmp pa)
      | .region _ pa stores gate ld touched _ => some (s1.regionAtHome pid p.latch.key pa stores gate ld touched)
      | .tred ty rows _ hint =>
        match rows.find? (fun r => r.row == row) with
        | none => none
        | some r =>
          if p.latch.rows.getLsbD row then some s1
          else if !p.latch.rowFirst r then none
          else
            let s2 := s1.tredRowAtHome pid ty hint r
            some (s2.updLatch pid (fun l => { l with done := l.rowsLeft.isEmpty }))

def execAtomicAtHome (pid : Pid) (row : Nat) (s : State) : Host.Outcome State Fault Refusal :=
  s.occur (tryAtomicAtHome pid row s)

/-- Every row of a sent TRED that has not performed performs, but for one that cannot be completed (R317). -/
def State.finishTred (s : State) (pid : Pid) : State :=
  match s.proc? pid with
  | none => s
  | some p =>
    match p.latch.req with
    | .tred ty _ span hint =>
      if p.latch.sent && p.latch.stop == 0 then p.latch.rowsLeft.foldl (fun s r => s.tredRowAtHome pid ty hint r) (s.drainOver pid span)
      else s
    | _ => s

/-! ### The answers (R308, R311, R290, R315, R156) -/

/-- The lines of the issuing core that what a request has performed invalidates (R290). -/
def State.dropRequest (s : State) (l : Latch) : State :=
  match l.req with
  | .amo _ narrow _ _ _ _ pa => if l.done then s.dropL1 l.core pa (if narrow then 4 else 8) else s
  | .region _ pa _ _ _ _ _ => if l.result = some 1 then s.dropL1 l.core pa 128 else s
  | .tred ty rows _ _ => (rows.filter (fun r => l.rows.getLsbD r.row)).foldl (fun s r =>
      r.elems.foldl (fun s e => s.dropL1 l.core e.1 (ty.bits / 8)) s) s
  | .none => s

/-- The register a request writes when its reply arrives. -/
def AtomReq.dest : AtomReq → Option SReg
  | .amo _ _ _ d _ _ _ => some d
  | .region _ _ _ _ _ _ d => some d
  | _ => Option.none

/-- ATOMIC_REPLY: S[d] takes the result, at the end of a clock pause of the core (16_mesh.md R424); the L1 line goes, the latch
is empty. -/
def tryAtomicReply (pid : Pid) (s : State) : Option State :=
  match s.proc? pid with
  | none => none
  | some p =>
    if p.latch.sent && p.latch.done then
      let s1 := (s.dropRequest p.latch).updLatch pid Latch.clear
      match p.latch.req.dest, p.latch.result with
      | some d, some v => some (s1.writeWhen pid { Writes.step 0 with s := [(d, v)] })
      | _, _ => some s1
    else none

def execAtomicReply (pid : Pid) (s : State) : Host.Outcome State Fault Refusal := s.occur (tryAtomicReply pid s)

/-- ATOMIC_STOP: the issuing context parks with cause ATOMIC and the latch armed; the lines of the rows that were
performed go. An exiting process abandons the request, which an information record tells (R156, R393). A process that is
faulted takes the stop after its RESUME. -/
def tryAtomicStop (pid : Pid) (s : State) : Option State :=
  match s.proc? pid with
  | none => none
  | some p =>
    if !p.latch.sent || p.latch.stop = 0 || p.latch.told || (p.faulted && !p.isExiting) then none
    else
      let t : TrapInfo := { cause := .atomic, addr := p.latch.addr.setWidth 64, detail := p.latch.stop.setWidth 40 }
      match p.place with
      | .exiting _ _ =>
        let r := s.infoOf p { t with detail := t.detail ||| 4 }
        some (((s.dropRequest p.latch).infoRecord p.part r).updLatch pid Latch.clear)
      | _ => some (((s.dropRequest p.latch).updLatch pid (fun l => { l with told := true })).trapParked pid t 0 0)

def execAtomicStop (pid : Pid) (s : State) : Host.Outcome State Fault Refusal := s.occur (tryAtomicStop pid s)

/-! ### Sending again (R315) -/

/-- The elements of a row translated afresh, with their keys; they lie z bytes apart from the row's address. -/
def State.xlateElems (s : State) (p : Proc) (va : Word) (z : Nat) :
    List (Nat × Nat) → Except TrapInfo (List ((Nat × Nat) × Option Nat))
  | [] => .ok []
  | e :: rest =>
    match s.xlate p.core (s.part p.part) p.sup va z .modify with
    | .error t => .error t
    | .ok x => (s.xlateElems p (va + BitVec.ofNat 64 z) z rest).map (fun l => ((x.pa, e.2), (s.part p.part).leafKey x.leaf) :: l)

/-- The rows of a TRED whose bits are 0, translated afresh. -/
def State.xlateRows (s : State) (p : Proc) (z : Nat) : List TredRow → Except TrapInfo (List TredRow)
  | [] => .ok []
  | r :: rest =>
    if p.latch.rows.getLsbD r.row then (s.xlateRows p z rest).map (fun l => r :: l)
    else
      match s.xlateElems p r.va z r.elems with
      | .error t => .error t
      | .ok es => (s.xlateRows p z rest).map (fun l =>
          { r with elems := es.map Prod.fst, keys := es.map Prod.snd } :: l)

/-- The interval of a request whose rows were translated afresh: from its lowest byte to its highest (R207). Pieces of a gap
that do not translate hold no byte. -/
def State.rowSpan (s : State) (p : Proc) (z : Nat) (rows : List TredRow) : List (Nat × Nat) :=
  let lo := rows.foldl (fun m r => min m r.va.toNat) (2 ^ 52)
  let hi := rows.foldl (fun m r => max m (r.va.toNat + z * r.elems.length)) 0
  rows.flatMap (fun r => r.elems.map (fun e => (e.1, z)))
    ++ (pieces (BitVec.ofNat 64 lo) (hi - lo)).filterMap (fun x =>
        match s.xlate p.core (s.part p.part) p.sup x.1 x.2 .modify with
        | .ok r => some (r.pa, x.2)
        | .error _ => none)

/-- The request of a process with every address it still sends translated afresh. An AMO below SYS scope or a region whose
page now maps host or peer memory takes GPROT, as when it issues (log 57). -/
def State.resendReq (s : State) (p : Proc) : Except TrapInfo AtomReq :=
  let q := s.part p.part
  let va := p.latch.addr.setWidth 64
  match p.latch.req with
  | .amo op narrow sc d x cmp _ =>
    match s.xlate p.core q p.sup va (if narrow then 4 else 8) .modify with
    | .error t => .error t
    | .ok r => if sc != .sys && physRegion r.pa != .hbm then .error (.at .gprot va) else .ok (.amo op narrow sc d x cmp r.pa)
  | .region line pa stores gate ld touched d =>
    match s.xlate p.core q p.sup line 128 .modify with
    | .error t => .error t
    | .ok r =>
      if physRegion r.pa != .hbm then .error (.at .gprot va)
      else .ok (.region line r.pa (stores.map (fun x => (r.pa + (x.1 - pa), x.2))) gate ld (touched || r.pa != pa) d)
  | .tred ty rows _ hint => (s.xlateRows p (ty.bits / 8) rows).map (fun l => .tred ty l (s.rowSpan p (ty.bits / 8) l) hint)
  | .none => .ok .none

/-- At the unpark of a process that has taken a stop of its request: it is sent again, and nothing issues before the reply
(R372), or the process becomes faulted with the translation's cause, words 0 and the latch as it stood. -/
def State.resend (s : State) (pid : Pid) : State :=
  match s.proc? pid with
  | none => s
  | some p =>
    if p.latch.told then
      match s.resendReq p with
      | .error t => s.trapParked pid t 0 0
      | .ok r => s.updLatch pid (fun l => { l with
          stop := 0, told := false, resent := true, req := r, key := s.keyAt p.core (s.part p.part) (l.addr.setWidth 64), core := p.core })
    else s

end Sys2Proof.Machine
end

