-- ==== Sys2Proof/Machine/Branch.lean ====
section
/-! DEFINITION. Branches, jumps and LOOP (06_scalar.md R176-R179). -/

namespace Sys2Proof.Machine

/-- A byte displacement of n words. -/
def displacement {n : Nat} (off : BitVec n) : Word := sextWord off <<< 2

/-- A branch: taken or not. -/
def State.branch (s : State) (taken : Bool) (off : BitVec 15) : State :=
  if taken then s.jump (s.cur.ip + displacement off) else s.next 4

def execBeq (a b : SReg) (off : BitVec 15) (s : State) : Host.Outcome State Fault Refusal :=
  .next (s.branch (s.rd a == s.rd b) off)
def execBne (a b : SReg) (off : BitVec 15) (s : State) : Host.Outcome State Fault Refusal :=
  .next (s.branch (s.rd a != s.rd b) off)
def execBlt (a b : SReg) (off : BitVec 15) (s : State) : Host.Outcome State Fault Refusal :=
  .next (s.branch ((s.rd a).slt (s.rd b)) off)
def execBge (a b : SReg) (off : BitVec 15) (s : State) : Host.Outcome State Fault Refusal :=
  .next (s.branch (!(s.rd a).slt (s.rd b)) off)
def execBltn (a b : SReg) (off : BitVec 15) (s : State) : Host.Outcome State Fault Refusal :=
  .next (s.branch ((s.rd a).ult (s.rd b)) off)
def execBgen (a b : SReg) (off : BitVec 15) (s : State) : Host.Outcome State Fault Refusal :=
  .next (s.branch (!(s.rd a).ult (s.rd b)) off)

/-- JAL (R177). -/
def execJal (d : SReg) (imm : BitVec 20) (s : State) : Host.Outcome State Fault Refusal :=
  .next ((s.wr d (s.cur.ip + 4)).jump (s.cur.ip + displacement imm))

/-- JALR (R178): a target that is not a multiple of 4 takes MISALIGN with the target as its address. -/
def execJalr (d a : SReg) (imm : BitVec 15) (s : State) : Host.Outcome State Fault Refusal :=
  let t := s.rd a + sextWord imm
  s.finish (do
    trapIf (t.toNat % 4 != 0) .misalign t
    return (s.wr d (s.cur.ip + 4)).jump t)

/-- LOOP (R179). -/
def execLoop (a : SReg) (off : BitVec 15) (s : State) : Host.Outcome State Fault Refusal :=
  let n := s.rd a - 1
  .next ((s.wr a n).branch (n != 0) off)

end Sys2Proof.Machine
end

