-- ==== Sys2Proof/WellFormed.lean ====
section
/-! DEFINITION. Which instructions the words may name (02_encoding.md R29-R51): what the field types do not already
say. An event carries no encoding and has no limit here. -/

namespace Sys2Proof

open Sys2Proof.Machine

/-- The limits of the spec on an instruction's operands, decided by the words alone. -/
def Instr.wf : Instr → Bool
  | .st _ _ sz _ => Size.storable sz
  | .pst _ _ sz _ => Size.storable sz
  | .mfsr _ n => sysReadable n.toNat
  | .mtsr n _ => sysWritable n.toNat
  | .chnew d a => d != a
  | .emov d a => d != a
  | .brep d a => d != a
  | .recve d a => d != a
  | .sende a b => a != b
  | .alt _ _ b arms dirs prio _ => altOk b arms dirs prio
  | .sendt _ c => TGrp.ok c
  | .recvt d _ => TGrp.ok d
  | .txmax d a _ ti => okSame2 d a && Ty.any ti
  | .txsum d a _ ti => okSame2 d a && Ty.any ti
  | .txmrg d a _ => okSame2 d a
  | .tld d _ _ _ => TGrp.ok d
  | .tst _ _ c _ => TGrp.ok c
  | .tldx d _ _ _ _ => TGrp.ok d
  | .tstx d _ _ _ _ => TGrp.ok d
  | .tred _ _ c ti _ => TGrp.ok c && (ti == .f32 || ti == .bf16 || ti == .i32)
  | .spld d _ => TGrp.ok d
  | .spst _ c => TGrp.ok c
  | .tmov d a => okSame2 d a
  | .tzero d => TGrp.ok d
  | .tfill d _ _ => TGrp.ok d
  | .tget _ a _ _ _ => TGrp.ok a
  | .tins d a _ _ _ => okSame2 d a
  | .tiota d ti _ => TGrp.ok d && Ty.any ti
  | .mma x => MmaOp.ok x false
  | .mmz x => MmaOp.ok x false
  | .mmas x => MmaOp.ok x true
  | .mmzs x => MmaOp.ok x true
  | .vadd x => V3.ok x
  | .vsub x => V3.ok x
  | .vmul x => V3.ok x
  | .vfma x => V4.ok x
  | .vfms x => V4.ok x
  | .vmin x => V3.ok x
  | .vmax x => V3.ok x
  | .vdiv x => V3.ok x && x.ti.isFloat && x.out.isFloat
  | .vadds x => VS.ok x
  | .vmuls x => VS.ok x
  | .vfmas x => VS3.ok x
  | .vcmp d a b ti _ =>
    TGrp.ok d && TGrp.ok a && TGrp.ok b && b.w == a.w && sameElems d .i8 a ti && Ty.any ti
  | .vsel d a b c ti => okSame3 d a b && TGrp.ok c && sameElems c .i8 a ti
  | .vclmp x => V4.ok x
  | .vabs x => V2.ok x
  | .vneg x => V2.ok x
  | .vexp2 x => V2.okFloat x
  | .vlog2 x => V2.okFloat x
  | .vrcp x => V2.okFloat x
  | .vrsq x => V2.okFloat x
  | .vsqrt x => V2.okFloat x
  | .vtanh x => V2.okFloat x
  | .vsigm x => V2.okFloat x
  | .verf x => V2.okFloat x
  | .vcvt x => V2.ok x
  | .vqnt x _ => V2.ok x && Ty.isWideFloat x.ti && Ty.isQuant x.out
  | .vdqn x => V2.ok x && Ty.isQuant x.ti && Ty.isWideFloat x.out
  | .vrmax x => V2.okRow x
  | .vrmin x => V2.okRow x
  | .vrsum x => V2.okRow x
  | .vramax x => V2.okRow x
  | .vrssq x => V2.okRow x && x.ti.isFloat
  | .vcmax x => V2.ok x && reduceTypes x.ti x.out
  | .vcsum x => V2.ok x && reduceTypes x.ti x.out
  | .vbrow x => V2.ok x
  | .vbcol x => V2.okSpread x
  | .vtrn d a ti => okSame2 d a && transposable ti a.w
  | .vrotr d a _ => okSame2 d a
  | .vrotc d a _ _ => okSame2 d a
  | .vpermr d a _ => okSame2 d a
  | .vbrot d a _ => okSame2 d a
  | .vand d a b => okSame3 d a b
  | .vor d a b => okSame3 d a b
  | .vxor d a b => okSame3 d a b
  | .vnot d a => okSame2 d a
  | .vbmap d a b c _ => okSame3 d a b && TGrp.ok c && c.w == a.w
  | .vshl d a ti _ => okSame2 d a && Ty.isInt ti
  | .vshr d a ti _ => okSame2 d a && Ty.isInt ti
  | .vsra d a ti _ => okSame2 d a && Ty.isInt ti
  | .vfshl d a b _ => okSame3 d a b
  | .vfshr d a b _ => okSame3 d a b
  | .vpopc d a ti out => TGrp.ok d && TGrp.ok a && sameElems d out a ti && Ty.isInt out
  | _ => true

end Sys2Proof
end

