-- ==== Sys2Proof/Decode.lean ====
section
/-! DEFINITION. The decoder and the encoder (02_encoding.md). A word, or pair of words, is an instruction when it is
exactly the encoding of the well-formed instruction its fields name; every other one is an illegal encoding (R31,
R52). -/

namespace Sys2Proof

open Sys2Proof.Machine

/-! ### Frames -/

/-- The fields of a first word (R32, R44): the 32-bit formats as RRR, where I, M, B and J read b and fn as the low 15
bits and a, b and fn as the low 20; in the 64-bit format c and FN5 are the two halves of fn. -/
structure Frame where
  long : Bool
  op   : Nat
  d    : Fin 32
  a    : Fin 32
  b    : Fin 32
  fn   : Nat
  deriving DecidableEq, Repr

/-- The fields of word 1 of a tile instruction (R44). -/
structure Tail where
  wd  : Fin 4
  wa  : Fin 4
  wb  : Fin 4
  wc  : Fin 4
  ti  : Nat
  out  : Nat
  rnd : Nat
  sat : Bool
  md  : Nat
  deriving DecidableEq, Repr

def finOf (n : Nat) : Fin 32 := Fin.ofNat 32 n
def widthOf (n : Nat) : Fin 4 := Fin.ofNat 4 n

/-- The first word as fields (R28, R32, R44). -/
def frameOf (w : Nat) : Frame :=
  { long := w / 2 ^ 31 % 2 == 1, op := w / 2 ^ 25 % 64, d := finOf (w / 2 ^ 20), a := finOf (w / 2 ^ 15),
    b := finOf (w / 2 ^ 10), fn := w % 1024 }

/-- Fields as the first word. -/
def Frame.word (f : Frame) : Nat :=
  (if f.long then 2 ^ 31 else 0) + f.op * 2 ^ 25 + f.d.val * 2 ^ 20 + f.a.val * 2 ^ 15 + f.b.val * 2 ^ 10 + f.fn

/-- Word 1 as fields (R44). -/
def tailOf (w : Nat) : Tail :=
  { wd := widthOf (w / 2 ^ 30), wa := widthOf (w / 2 ^ 28), wb := widthOf (w / 2 ^ 26), wc := widthOf (w / 2 ^ 24),
    ti := w / 2 ^ 20 % 16, out := w / 2 ^ 16 % 16, rnd := w / 2 ^ 13 % 8, sat := w / 2 ^ 12 % 2 == 1, md := w % 4096 }

/-- Fields as word 1. -/
def Tail.word (t : Tail) : Nat :=
  t.wd.val * 2 ^ 30 + t.wa.val * 2 ^ 28 + t.wb.val * 2 ^ 26 + t.wc.val * 2 ^ 24 + t.ti * 2 ^ 20 + t.out * 2 ^ 16
    + t.rnd * 2 ^ 13 + (if t.sat then 2 ^ 12 else 0) + t.md

/-- The fields of a 32-bit instruction. -/
def frame (op : Nat) (d a b : Fin 32) (fn : Nat) : Frame := { long := false, op := op, d := d, a := a, b := b, fn := fn }

/-- The fields of a first word of two. -/
def frame2 (op : Nat) (d a b c : Fin 32) (fn5 : Nat) : Frame :=
  { long := true, op := op, d := d, a := a, b := b, fn := c.val * 32 + fn5 }

/-- imm15, off15 and off12 with SZ of a frame (R32). -/
def Frame.imm15 (f : Frame) : BitVec 15 := BitVec.ofNat 15 (f.b.val * 1024 + f.fn)
def Frame.off12 (f : Frame) : BitVec 12 := BitVec.ofNat 12 (f.b.val % 4 * 1024 + f.fn)
def Frame.imm20 (f : Frame) : BitVec 20 := BitVec.ofNat 20 (f.a.val * 32768 + f.b.val * 1024 + f.fn)
def Frame.c (f : Frame) : Fin 32 := finOf (f.fn / 32)
def Frame.fn5 (f : Frame) : Nat := f.fn % 32

/-- A frame with imm15 in its low bits. -/
def frameI (op : Nat) (d a : Fin 32) (v : BitVec 15) : Frame := frame op d a (finOf (v.toNat / 1024)) (v.toNat % 1024)

/-- A frame with imm20 in its low bits. -/
def frameJ (op : Nat) (d : Fin 32) (v : BitVec 20) : Frame :=
  frame op d (finOf (v.toNat / 32768)) (finOf (v.toNat / 1024)) (v.toNat % 1024)

/-! ### Field codes -/

/-- The type of a code (R75). -/
def tyOf : Nat → Option Ty
  | 0 => some .f32 | 1 => some .bf16 | 2 => some .f16 | 3 => some .e4m3 | 4 => some .e5m2 | 5 => some .e2m1
  | 6 => some .i32 | 7 => some .i16 | 8 => some .i8 | 9 => some .i4 | 10 => some .n32 | 11 => some .n16
  | 12 => some .n8 | 13 => some .n4 | 14 => some .b1 | _ => none

def Ty.num (t : Ty) : Nat := t.code.toNat

/-- Rounding codes (R85). -/
def rndOf : Nat → Option Rnd
  | 0 => some .rne | 1 => some .rtz | 2 => some .rdn | 3 => some .rup | 4 => some .rna | _ => none

def Rnd.num : Rnd → Nat
  | .rne => 0 | .rtz => 1 | .rdn => 2 | .rup => 3 | .rna => 4

/-- SZ codes (R34). -/
def sizeOf : Nat → Option Size
  | 0 => some .b | 1 => some .h | 2 => some .w | 3 => some .d | 4 => some .bn | 5 => some .hn | 6 => some .wn
  | _ => none

def Size.num : Size → Nat
  | .b => 0 | .h => 1 | .w => 2 | .d => 3 | .bn => 4 | .hn => 5 | .wn => 6

/-- Scope codes (R41). -/
def scopeOf (n : Nat) : Option Scope :=
  match n with
  | 0 => some .core | 1 => some .die | 2 => some .dev | 3 => some .sys | _ => none

def Scope.num : Scope → Nat
  | .core => 0 | .die => 1 | .dev => 2 | .sys => 3

/-- FENCE kinds (R41). -/
def kindOf : Nat → Option FenceKind
  | 1 => some .loads | 2 => some .stores | 3 => some .all | _ => none

def FenceKind.num : FenceKind → Nat
  | .loads => 1 | .stores => 2 | .all => 3

/-- L2 hints (R50). -/
def hintOf : Nat → Option Hint
  | 0 => some .normal | 1 => some .stream | 2 => some .keep | _ => none

def Hint.num : Hint → Nat
  | .normal => 0 | .stream => 1 | .keep => 2

/-- SPAWN domains (R41). -/
def domainOf : Nat → Option Domain
  | 0 => some .quad | 1 => some .die | 2 => some .device | _ => none

def Domain.num : Domain → Nat
  | .quad => 0 | .die => 1 | .device => 2

/-- VCMP conditions (R241). -/
def condOf : Nat → Option Cond
  | 0 => some .eq | 1 => some .ne | 2 => some .lt | 3 => some .le | 4 => some .gt | 5 => some .ge | 6 => some .unord
  | _ => none

def Cond.num : Cond → Nat
  | .eq => 0 | .ne => 1 | .lt => 2 | .le => 3 | .gt => 4 | .ge => 5 | .unord => 6

/-- An E register of a field: bit 4 is 0 (R29). -/
def eRegOf (x : Fin 32) : Option EReg := if h : x.val < 16 then some ⟨x.val, h⟩ else none
def EReg.field (x : EReg) : Fin 32 := ⟨x.val, by omega⟩

/-- A G register of a field: bits 4 and 3 are 0 (R29). -/
def gRegOf (x : Fin 32) : Option GReg := if h : x.val < 8 then some ⟨x.val, h⟩ else none
def GReg.field (x : GReg) : Fin 32 := ⟨x.val, by omega⟩

/-- A count (R49). -/
def countOf (c : Fin 32) (md : Nat) : Count := if md / 2048 % 2 = 1 then .reg c else .imm (BitVec.ofNat 11 md)

def Count.field : Count → Fin 32
  | .imm _ => 0
  | .reg c => c

def Count.md : Count → Nat
  | .imm n => n.toNat
  | .reg _ => 2048

/-- The quantiser mode (R245). -/
def qmodeOf (c : Fin 32) : Nat → Option QMode
  | 0 => some .block | 1 => some .row | 2 => some (.givenRow c) | 3 => some (.givenBlock c) | _ => none

def QMode.field : QMode → Fin 32
  | .block => 0 | .row => 0 | .givenRow c => c | .givenBlock c => c

def QMode.md : QMode → Nat
  | .block => 0 | .row => 1 | .givenRow _ => 2 | .givenBlock _ => 3

/-! ### Reading the fields of the 32-bit majors -/

/-- INT (R36). -/
def parseInt (f : Frame) : Option Instr :=
  match f.fn with
  | 0x000 => some (.add f.d f.a f.b)
  | 0x001 => some (.sub f.d f.a f.b)
  | 0x002 => some (.mul f.d f.a f.b)
  | 0x003 => some (.mulh f.d f.a f.b)
  | 0x004 => some (.mulhn f.d f.a f.b)
  | 0x005 => some (.div f.d f.a f.b)
  | 0x006 => some (.divn f.d f.a f.b)
  | 0x007 => some (.rem f.d f.a f.b)
  | 0x008 => some (.remn f.d f.a f.b)
  | 0x010 => some (.and f.d f.a f.b)
  | 0x011 => some (.or f.d f.a f.b)
  | 0x012 => some (.xor f.d f.a f.b)
  | 0x013 => some (.andn f.d f.a f.b)
  | 0x014 => some (.orn f.d f.a f.b)
  | 0x015 => some (.xnor f.d f.a f.b)
  | 0x020 => some (.shl f.d f.a f.b)
  | 0x021 => some (.shr f.d f.a f.b)
  | 0x022 => some (.sra f.d f.a f.b)
  | 0x023 => some (.rol f.d f.a f.b)
  | 0x024 => some (.ror f.d f.a f.b)
  | 0x030 => some (.min f.d f.a f.b)
  | 0x031 => some (.max f.d f.a f.b)
  | 0x032 => some (.minn f.d f.a f.b)
  | 0x033 => some (.maxn f.d f.a f.b)
  | 0x040 => some (.slt f.d f.a f.b)
  | 0x041 => some (.sltn f.d f.a f.b)
  | 0x042 => some (.seq f.d f.a f.b)
  | 0x043 => some (.sne f.d f.a f.b)
  | 0x050 => some (.clz f.d f.a)
  | 0x051 => some (.ctz f.d f.a)
  | 0x052 => some (.popc f.d f.a)
  | 0x053 => some (.brev f.d f.a)
  | 0x058 => some (.sextb f.d f.a)
  | 0x059 => some (.sexth f.d f.a)
  | 0x05A => some (.sextw f.d f.a)
  | 0x05C => some (.zextb f.d f.a)
  | 0x05D => some (.zexth f.d f.a)
  | 0x05E => some (.zextw f.d f.a)
  | _ => none

/-- FPS (R37). -/
def parseFps (f : Frame) : Option Instr :=
  match f.fn with
  | 0x000 => some (.fadd f.d f.a f.b)
  | 0x001 => some (.fsub f.d f.a f.b)
  | 0x002 => some (.fmul f.d f.a f.b)
  | 0x003 => some (.fdiv f.d f.a f.b)
  | 0x004 => some (.fsqrt f.d f.a)
  | 0x005 => some (.fmin f.d f.a f.b)
  | 0x006 => some (.fmax f.d f.a f.b)
  | 0x007 => some (.fabs f.d f.a)
  | 0x008 => some (.fneg f.d f.a)
  | 0x010 => some (.feq f.d f.a f.b)
  | 0x011 => some (.flt f.d f.a f.b)
  | 0x012 => some (.fle f.d f.a f.b)
  | 0x018 => some (.fclass f.d f.a)
  | 0x020 => some (.fcvtif f.d f.a)
  | 0x021 => some (.fcvtnf f.d f.a)
  | 0x022 => some (.fcvtfi f.d f.a)
  | 0x023 => some (.fcvtfn f.d f.a)
  | _ => none

/-- SHI (R41). -/
def parseShi (f : Frame) : Option Instr :=
  let n := f.b.val * 1024 + f.fn
  let k := BitVec.ofNat 6 n
  match n / 4096 with
  | 0 => some (.shli f.d f.a k)
  | 1 => some (.shri f.d f.a k)
  | 2 => some (.srai f.d f.a k)
  | 3 => some (.rori f.d f.a k)
  | _ => none

/-- LD, ST, PLD, PST (R34). -/
def parseMem (f : Frame) (k : Size → BitVec 12 → Instr) : Option Instr :=
  (sizeOf (f.b.val / 4)).map (fun sz => k sz f.off12)

/-- AMO (R41). -/
def parseAmo (f : Frame) : Option Instr :=
  let w := f.fn / 512 % 2 == 1
  (scopeOf (f.fn / 64 % 8)).bind fun sc =>
  match f.fn % 16 with
  | 0 => some (.aadd f.d f.a f.b w sc)
  | 1 => some (.aand f.d f.a f.b w sc)
  | 2 => some (.aor f.d f.a f.b w sc)
  | 3 => some (.axor f.d f.a f.b w sc)
  | 4 => some (.amin f.d f.a f.b w sc)
  | 5 => some (.amax f.d f.a f.b w sc)
  | 6 => some (.aminn f.d f.a f.b w sc)
  | 7 => some (.amaxn f.d f.a f.b w sc)
  | 8 => some (.aswp f.d f.a f.b w sc)
  | 9 => some (.acas f.d f.a f.b w sc)
  | _ => none

/-- ALB (R41, R42): the gated form names a word of the line. -/
def parseAlb (f : Frame) : Option Instr :=
  let n := f.b.val * 1024 + f.fn
  if n / 16384 = 1 then some (.albGated f.d f.a (Fin.ofNat 16 (n / 8))) else some (.alb f.a)

/-- FENCE (R41). -/
def parseFence (f : Frame) : Option Instr :=
  (kindOf (f.fn / 4 % 4)).bind fun k => (scopeOf (f.fn % 4)).map fun sc => .fence (f.fn / 16 % 2 == 1) k sc

/-- CHAN (R38). -/
def parseChan (f : Frame) : Option Instr :=
  match f.fn with
  | 0x000 => (eRegOf f.d).bind fun d => (eRegOf f.a).map fun a => .chnew d a
  | 0x001 => (eRegOf f.a).map fun a => .chclose a
  | 0x002 => (eRegOf f.d).bind fun d => (eRegOf f.a).map fun a => .emov d a
  | 0x003 => (eRegOf f.a).map fun a => .einfo f.d a
  | 0x008 => (eRegOf f.d).map fun d => .brnew d f.a
  | 0x009 => (eRegOf f.d).bind fun d => (eRegOf f.a).map fun a => .brep d a
  | 0x00A => (eRegOf f.a).map fun a => .arrive a
  | 0x00B => (eRegOf f.a).map fun a => .await a
  | 0x00C => (eRegOf f.a).map fun a => .bsync a
  | 0x010 => (eRegOf f.a).bind fun a => (eRegOf f.b).map fun b => .sende a b
  | 0x011 => (eRegOf f.d).bind fun d => (eRegOf f.a).map fun a => .recve d a
  | _ => none

/-- XCOL (R40). -/
def parseXcol (f : Frame) : Option Instr :=
  (eRegOf f.b).bind fun b =>
  match f.fn with
  | 0 => some (.xmaxf f.d f.a b)
  | 1 => some (.xminf f.d f.a b)
  | 2 => some (.xsumf f.d f.a b)
  | 3 => some (.xsumi f.d f.a b)
  | 4 => some (.xmaxi f.d f.a b)
  | 5 => some (.xswp f.d f.a b)
  | _ => none

/-- PROC (R39). -/
def parseProc (f : Frame) : Option Instr :=
  match f.fn with
  | 0 => some (.exit f.a)
  | 1 => some .yield
  | 2 => some (.pid f.d)
  | 3 => some (.lcore f.d)
  | 4 => some (.sprio f.a)
  | 5 => some (.gprio f.d)
  | 6 => some (.cycle f.d)
  | 7 => some (.part f.d)
  | _ => none

/-- SYS (R40). -/
def parseSys (f : Frame) : Option Instr :=
  match f.fn with
  | 0x000 => some .nop
  | 0x001 => some .halt
  | 0x002 => some .brk
  | 0x008 => some (.park f.a)
  | 0x009 => some (.resume f.a)
  | 0x00A => some (.migr f.a f.b)
  | 0x00B => some (.kill f.a)
  | 0x010 => some (.sttw f.a f.b)
  | 0x011 => some (.stti f.a)
  | 0x018 => some (.tlbi f.a f.b)
  | 0x019 => some .tlbia
  | _ => none

/-- SPAWN (R41). -/
def parseSpawn (f : Frame) : Option Instr :=
  (eRegOf f.d).bind fun d => (domainOf (f.fn / 256 % 4)).map fun dom => .spawn d f.a f.b dom (BitVec.ofNat 8 f.fn)

/-- The instruction the fields of a 32-bit word name (R35). -/
def parse32 (f : Frame) : Option Instr :=
  match f.op with
  | 0x01 => parseInt f
  | 0x02 => some (.addi f.d f.a f.imm15)
  | 0x03 => some (.andi f.d f.a f.imm15)
  | 0x04 => some (.ori f.d f.a f.imm15)
  | 0x05 => some (.xori f.d f.a f.imm15)
  | 0x06 => some (.slti f.d f.a f.imm15)
  | 0x07 => some (.sltni f.d f.a f.imm15)
  | 0x08 => parseShi f
  | 0x09 => some (.muli f.d f.a f.imm15)
  | 0x0A => some (.lih f.d f.imm20)
  | 0x0B => some (.pcadd f.d f.imm20)
  | 0x0C => parseMem f (.ld f.d f.a)
  | 0x0D => parseMem f (.st f.d f.a)
  | 0x0E => parseMem f (.pld f.d f.a)
  | 0x0F => parseMem f (.pst f.d f.a)
  | 0x10 => some (.beq f.d f.a f.imm15)
  | 0x11 => some (.bne f.d f.a f.imm15)
  | 0x12 => some (.blt f.d f.a f.imm15)
  | 0x13 => some (.bge f.d f.a f.imm15)
  | 0x14 => some (.bltn f.d f.a f.imm15)
  | 0x15 => some (.bgen f.d f.a f.imm15)
  | 0x16 => some (.jal f.d f.imm20)
  | 0x17 => some (.jalr f.d f.a f.imm15)
  | 0x18 => some (.loop f.d f.imm15)
  | 0x19 => parseFps f
  | 0x1A => parseAmo f
  | 0x1B => parseAlb f
  | 0x1C => some (.ale f.d)
  | 0x1D => parseFence f
  | 0x20 => parseChan f
  | 0x21 => (eRegOf f.a).map fun a => .send a f.b
  | 0x22 => (eRegOf f.a).map fun a => .recv f.d a
  | 0x23 => parseXcol f
  | 0x24 => parseProc f
  | 0x25 => parseSpawn f
  | 0x26 => (gRegOf f.d).map fun d => .gset d f.a f.b
  | 0x28 => parseSys f
  | 0x29 => some (.mfsr f.d f.imm15)
  | 0x2A => some (.mtsr f.imm15 f.d)
  | 0x2C => some (.trap f.imm20)
  | _ => none

/-! ### Reading the fields of the 64-bit majors -/

/-- The tile groups of a frame and its tail. -/
def grpD (f : Frame) (t : Tail) : TGrp := { base := f.d, w := t.wd }
def grpA (f : Frame) (t : Tail) : TGrp := { base := f.a, w := t.wa }
def grpB (f : Frame) (t : Tail) : TGrp := { base := f.b, w := t.wb }
def grpC (f : Frame) (t : Tail) : TGrp := { base := f.c, w := t.wc }

/-- Read the fields TI, TO, RND of a tail. -/
def withTi (t : Tail) (k : Ty → Option Instr) : Option Instr := (tyOf t.ti).bind k
def withTypes (t : Tail) (k : Ty → Ty → Option Instr) : Option Instr :=
  (tyOf t.ti).bind fun ti => (tyOf t.out).bind fun out => k ti out
def withRnd (t : Tail) (k : Ty → Ty → Rnd → Option Instr) : Option Instr :=
  withTypes t fun ti out => (rndOf t.rnd).bind fun rnd => k ti out rnd

def parseV2 (f : Frame) (t : Tail) (k : V2 → Instr) : Option Instr :=
  withRnd t fun ti out rnd => some (k { d := grpD f t, a := grpA f t, ti := ti, out := out, rnd := rnd, sat := t.sat })
def parseV3 (f : Frame) (t : Tail) (k : V3 → Instr) : Option Instr :=
  withRnd t fun ti out rnd =>
    some (k { d := grpD f t, a := grpA f t, b := grpB f t, ti := ti, out := out, rnd := rnd, sat := t.sat })
def parseV4 (f : Frame) (t : Tail) (k : V4 → Instr) : Option Instr :=
  withRnd t fun ti out rnd =>
    some (k { d := grpD f t, a := grpA f t, b := grpB f t, c := grpC f t, ti := ti, out := out, rnd := rnd, sat := t.sat })
def parseVS (f : Frame) (t : Tail) (k : VS → Instr) : Option Instr :=
  withRnd t fun ti out rnd =>
    some (k { d := grpD f t, a := grpA f t, b := f.b, ti := ti, out := out, rnd := rnd, sat := t.sat })
def parseVS3 (f : Frame) (t : Tail) (k : VS3 → Instr) : Option Instr :=
  withRnd t fun ti out rnd =>
    some (k { d := grpD f t, a := grpA f t, b := f.b, c := grpC f t, ti := ti, out := out, rnd := rnd, sat := t.sat })

/-- LSCAL (R174-R189); word 1 is imm32 in the first three forms. -/
def parseLscal (f : Frame) (t : Tail) (w1 : Nat) : Option Instr :=
  match f.fn5 with
  | 0 => some (.li f.d (BitVec.ofNat 32 w1))
  | 1 => some (.lihL f.d (BitVec.ofNat 32 w1))
  | 2 => some (.addl f.d f.a (BitVec.ofNat 32 w1))
  | 3 => some (.bmap f.d f.a f.b f.c (BitVec.ofNat 8 t.md))
  | 4 => some (.fshl f.d f.a f.b f.c)
  | 5 => some (.fshr f.d f.a f.b f.c)
  | 6 => some (.fma f.d f.a f.b f.c)
  | 7 => some (.fms f.d f.a f.b f.c)
  | 8 => some (.fnma f.d f.a f.b f.c)
  | 9 => some (.csel f.d f.a f.b f.c)
  | 10 => some (.bfx f.d f.a (BitVec.ofNat 6 t.md) (BitVec.ofNat 6 (t.md / 64)))
  | 11 => some (.bfi f.d f.a (BitVec.ofNat 6 t.md) (BitVec.ofNat 6 (t.md / 64)))
  | _ => none

/-- ALT (R48). -/
def parseAlt (f : Frame) (w1 : Nat) : Option Instr :=
  match f.fn5 with
  | 0 => (eRegOf f.b).map fun b =>
      .alt f.d f.a b (BitVec.ofNat 8 (w1 / 2 ^ 24)) (BitVec.ofNat 8 (w1 / 2 ^ 16)) (BitVec.ofNat 8 (w1 / 2 ^ 8))
        (w1 / 2 ^ 7 % 2 == 1)
  | _ => none

/-- TCHAN (R351). -/
def parseTchan (f : Frame) (t : Tail) : Option Instr :=
  (eRegOf f.b).bind fun b =>
  match f.fn5 with
  | 0 => some (.sendt b (grpC f t))
  | 1 => some (.recvt (grpD f t) b)
  | 2 => withTi t fun ti => some (.txmax (grpD f t) (grpA f t) b ti)
  | 3 => withTi t fun ti => some (.txsum (grpD f t) (grpA f t) b ti)
  | 4 => some (.txmrg (grpD f t) (grpA f t) b)
  | _ => none

/-- A geometry register and a hint. -/
def withGeom (f : Frame) (t : Tail) (k : GReg → Hint → Option Instr) : Option Instr :=
  (gRegOf f.b).bind fun b => (hintOf t.md).bind fun h => k b h

/-- TMEM (R278, R300). -/
def parseTmem (f : Frame) (t : Tail) : Option Instr :=
  match f.fn5 with
  | 0 => withGeom f t fun b h => some (.tld (grpD f t) f.a b h)
  | 1 => withGeom f t fun b h => some (.tst f.a b (grpC f t) h)
  | 2 => withGeom f t fun b h => some (.tldx (grpD f t) f.a b f.c h)
  | 3 => withGeom f t fun b h => some (.tstx (grpD f t) f.a b f.c h)
  | 4 => withGeom f t fun b h => some (.tpf f.a b h)
  | 5 => withGeom f t fun b h => withTi t fun ti => some (.tred f.a b (grpC f t) ti h)
  | 6 => some (.spld (grpD f t) f.a)
  | 7 => some (.spst f.a (grpC f t))
  | _ => none

/-- TMOVE (R211). -/
def parseTmove (f : Frame) (t : Tail) : Option Instr :=
  match f.fn5 with
  | 0 => some (.tmov (grpD f t) (grpA f t))
  | 1 => some (.tzero (grpD f t))
  | 2 => withTi t fun ti => some (.tfill (grpD f t) f.b ti)
  | 3 => withTi t fun ti => some (.tget f.d (grpA f t) f.b f.c ti)
  | 4 => withTi t fun ti => some (.tins (grpD f t) (grpA f t) f.b f.c ti)
  | 5 => withTi t fun ti => some (.tiota (grpD f t) ti (t.md % 2 == 1))
  | _ => none

/-- MMA (R222). -/
def parseMma (f : Frame) (t : Tail) : Option Instr :=
  withTypes t fun ta out => (tyOf (t.md % 16)).bind fun tb =>
  let x : MmaOp := { d := f.d, a := grpA f t, b := grpB f t, ta := ta, tb := tb, out := out, rtz := t.md / 16 % 2 == 1, sat := t.sat }
  match f.fn5 with
  | 0 => some (.mma x)
  | 1 => some (.mmz x)
  | 2 => some (.mmas x)
  | 3 => some (.mmzs x)
  | _ => none

/-- VARITH (R239-R242). -/
def parseVarith (f : Frame) (t : Tail) : Option Instr :=
  match f.fn5 with
  | 0 => parseV3 f t .vadd
  | 1 => parseV3 f t .vsub
  | 2 => parseV3 f t .vmul
  | 3 => parseV4 f t .vfma
  | 4 => parseV4 f t .vfms
  | 5 => parseV3 f t .vmin
  | 6 => parseV3 f t .vmax
  | 7 => parseV3 f t .vdiv
  | 8 => parseVS f t .vadds
  | 9 => parseVS f t .vmuls
  | 10 => parseVS3 f t .vfmas
  | 11 => withTi t fun ti => (condOf t.md).map fun c => .vcmp (grpD f t) (grpA f t) (grpB f t) ti c
  | 12 => withTi t fun ti => some (.vsel (grpD f t) (grpA f t) (grpB f t) (grpC f t) ti)
  | 13 => parseV4 f t .vclmp
  | _ => none

/-- VUNARY (R243). -/
def parseVunary (f : Frame) (t : Tail) : Option Instr :=
  match f.fn5 with
  | 0 => parseV2 f t .vabs
  | 1 => parseV2 f t .vneg
  | 2 => parseV2 f t .vexp2
  | 3 => parseV2 f t .vlog2
  | 4 => parseV2 f t .vrcp
  | 5 => parseV2 f t .vrsq
  | 6 => parseV2 f t .vsqrt
  | 7 => parseV2 f t .vtanh
  | 8 => parseV2 f t .vsigm
  | 9 => parseV2 f t .verf
  | _ => none

/-- VCONV (R244-R246). -/
def parseVconv (f : Frame) (t : Tail) : Option Instr :=
  match f.fn5 with
  | 0 => parseV2 f t .vcvt
  | 1 => (qmodeOf f.c t.md).bind fun q => parseV2 f t (fun x => .vqnt x q)
  | 2 => parseV2 f t .vdqn
  | _ => none

/-- VRED (R247-R250). -/
def parseVred (f : Frame) (t : Tail) : Option Instr :=
  match f.fn5 with
  | 0 => parseV2 f t .vrmax
  | 1 => parseV2 f t .vrmin
  | 2 => parseV2 f t .vrsum
  | 3 => parseV2 f t .vramax
  | 4 => parseV2 f t .vrssq
  | 5 => parseV2 f t .vcmax
  | 6 => parseV2 f t .vcsum
  | 7 => some (.vrmrg f.d f.a f.b)
  | 8 => parseV2 f t .vbrow
  | 9 => parseV2 f t .vbcol
  | _ => none

/-- VPERM (R252, R253). -/
def parseVperm (f : Frame) (t : Tail) : Option Instr :=
  let k := countOf f.c t.md
  match f.fn5 with
  | 0 => withTi t fun ti => some (.vtrn (grpD f t) (grpA f t) ti)
  | 1 => some (.vrotr (grpD f t) (grpA f t) k)
  | 2 => withTi t fun ti => some (.vrotc (grpD f t) (grpA f t) ti k)
  | 3 => some (.vpermr (grpD f t) (grpA f t) f.c)
  | 4 => some (.vbrot (grpD f t) (grpA f t) k)
  | _ => none

/-- VLOGIC (R254-R257). -/
def parseVlogic (f : Frame) (t : Tail) : Option Instr :=
  let k := countOf f.c t.md
  match f.fn5 with
  | 0 => some (.vand (grpD f t) (grpA f t) (grpB f t))
  | 1 => some (.vor (grpD f t) (grpA f t) (grpB f t))
  | 2 => some (.vxor (grpD f t) (grpA f t) (grpB f t))
  | 3 => some (.vnot (grpD f t) (grpA f t))
  | 4 => some (.vbmap (grpD f t) (grpA f t) (grpB f t) (grpC f t) (BitVec.ofNat 8 t.md))
  | 5 => withTi t fun ti => some (.vshl (grpD f t) (grpA f t) ti k)
  | 6 => withTi t fun ti => some (.vshr (grpD f t) (grpA f t) ti k)
  | 7 => withTi t fun ti => some (.vsra (grpD f t) (grpA f t) ti k)
  | 8 => some (.vfshl (grpD f t) (grpA f t) (grpB f t) k)
  | 9 => some (.vfshr (grpD f t) (grpA f t) (grpB f t) k)
  | 10 => withTypes t fun ti out => some (.vpopc (grpD f t) (grpA f t) ti out)
  | _ => none

/-- The instruction the fields of two words name (R50). -/
def parse64 (f : Frame) (t : Tail) (w1 : Nat) : Option Instr :=
  match f.op with
  | 0x01 => parseLscal f t w1
  | 0x02 => parseAlt f w1
  | 0x03 => parseTchan f t
  | 0x04 => parseTmem f t
  | 0x05 => parseTmove f t
  | 0x06 => parseMma f t
  | 0x07 => parseVarith f t
  | 0x08 => parseVunary f t
  | 0x09 => parseVconv f t
  | 0x0A => parseVred f t
  | 0x0B => parseVperm f t
  | 0x0C => parseVlogic f t
  | _ => none

/-! ### Encoding -/

/-- The fields of the first word of an instruction; none for an event. -/
def encodeFrame : Instr → Option Frame
  | .add d a b => some (frame 0x01 d a b 0x000)
  | .sub d a b => some (frame 0x01 d a b 0x001)
  | .mul d a b => some (frame 0x01 d a b 0x002)
  | .mulh d a b => some (frame 0x01 d a b 0x003)
  | .mulhn d a b => some (frame 0x01 d a b 0x004)
  | .div d a b => some (frame 0x01 d a b 0x005)
  | .divn d a b => some (frame 0x01 d a b 0x006)
  | .rem d a b => some (frame 0x01 d a b 0x007)
  | .remn d a b => some (frame 0x01 d a b 0x008)
  | .and d a b => some (frame 0x01 d a b 0x010)
  | .or d a b => some (frame 0x01 d a b 0x011)
  | .xor d a b => some (frame 0x01 d a b 0x012)
  | .andn d a b => some (frame 0x01 d a b 0x013)
  | .orn d a b => some (frame 0x01 d a b 0x014)
  | .xnor d a b => some (frame 0x01 d a b 0x015)
  | .shl d a b => some (frame 0x01 d a b 0x020)
  | .shr d a b => some (frame 0x01 d a b 0x021)
  | .sra d a b => some (frame 0x01 d a b 0x022)
  | .rol d a b => some (frame 0x01 d a b 0x023)
  | .ror d a b => some (frame 0x01 d a b 0x024)
  | .min d a b => some (frame 0x01 d a b 0x030)
  | .max d a b => some (frame 0x01 d a b 0x031)
  | .minn d a b => some (frame 0x01 d a b 0x032)
  | .maxn d a b => some (frame 0x01 d a b 0x033)
  | .slt d a b => some (frame 0x01 d a b 0x040)
  | .sltn d a b => some (frame 0x01 d a b 0x041)
  | .seq d a b => some (frame 0x01 d a b 0x042)
  | .sne d a b => some (frame 0x01 d a b 0x043)
  | .clz d a => some (frame 0x01 d a 0 0x050)
  | .ctz d a => some (frame 0x01 d a 0 0x051)
  | .popc d a => some (frame 0x01 d a 0 0x052)
  | .brev d a => some (frame 0x01 d a 0 0x053)
  | .sextb d a => some (frame 0x01 d a 0 0x058)
  | .sexth d a => some (frame 0x01 d a 0 0x059)
  | .sextw d a => some (frame 0x01 d a 0 0x05A)
  | .zextb d a => some (frame 0x01 d a 0 0x05C)
  | .zexth d a => some (frame 0x01 d a 0 0x05D)
  | .zextw d a => some (frame 0x01 d a 0 0x05E)
  | .fadd d a b => some (frame 0x19 d a b 0x000)
  | .fsub d a b => some (frame 0x19 d a b 0x001)
  | .fmul d a b => some (frame 0x19 d a b 0x002)
  | .fdiv d a b => some (frame 0x19 d a b 0x003)
  | .fsqrt d a => some (frame 0x19 d a 0 0x004)
  | .fmin d a b => some (frame 0x19 d a b 0x005)
  | .fmax d a b => some (frame 0x19 d a b 0x006)
  | .fabs d a => some (frame 0x19 d a 0 0x007)
  | .fneg d a => some (frame 0x19 d a 0 0x008)
  | .feq d a b => some (frame 0x19 d a b 0x010)
  | .flt d a b => some (frame 0x19 d a b 0x011)
  | .fle d a b => some (frame 0x19 d a b 0x012)
  | .fclass d a => some (frame 0x19 d a 0 0x018)
  | .fcvtif d a => some (frame 0x19 d a 0 0x020)
  | .fcvtnf d a => some (frame 0x19 d a 0 0x021)
  | .fcvtfi d a => some (frame 0x19 d a 0 0x022)
  | .fcvtfn d a => some (frame 0x19 d a 0 0x023)
  | .addi d a v => some (frameI 0x02 d a v)
  | .andi d a v => some (frameI 0x03 d a v)
  | .ori d a v => some (frameI 0x04 d a v)
  | .xori d a v => some (frameI 0x05 d a v)
  | .slti d a v => some (frameI 0x06 d a v)
  | .sltni d a v => some (frameI 0x07 d a v)
  | .shli d a k => some (frameI 0x08 d a (BitVec.ofNat 15 (0 * 4096 + k.toNat)))
  | .shri d a k => some (frameI 0x08 d a (BitVec.ofNat 15 (1 * 4096 + k.toNat)))
  | .srai d a k => some (frameI 0x08 d a (BitVec.ofNat 15 (2 * 4096 + k.toNat)))
  | .rori d a k => some (frameI 0x08 d a (BitVec.ofNat 15 (3 * 4096 + k.toNat)))
  | .muli d a v => some (frameI 0x09 d a v)
  | .lih d v => some (frameJ 0x0A d v)
  | .pcadd d v => some (frameJ 0x0B d v)
  | .ld d a sz off => some (frame 0x0C d a (finOf (Size.num sz * 4 + off.toNat / 1024)) (off.toNat % 1024))
  | .st d a sz off => some (frame 0x0D d a (finOf (Size.num sz * 4 + off.toNat / 1024)) (off.toNat % 1024))
  | .pld d a sz off => some (frame 0x0E d a (finOf (Size.num sz * 4 + off.toNat / 1024)) (off.toNat % 1024))
  | .pst d a sz off => some (frame 0x0F d a (finOf (Size.num sz * 4 + off.toNat / 1024)) (off.toNat % 1024))
  | .beq a b v => some (frameI 0x10 a b v)
  | .bne a b v => some (frameI 0x11 a b v)
  | .blt a b v => some (frameI 0x12 a b v)
  | .bge a b v => some (frameI 0x13 a b v)
  | .bltn a b v => some (frameI 0x14 a b v)
  | .bgen a b v => some (frameI 0x15 a b v)
  | .jal d v => some (frameJ 0x16 d v)
  | .jalr d a v => some (frameI 0x17 d a v)
  | .loop a v => some (frameI 0x18 a 0 v)
  | .aadd d a b w sc => some (frame 0x1A d a b (bit w * 512 + Scope.num sc * 64 + 0))
  | .aand d a b w sc => some (frame 0x1A d a b (bit w * 512 + Scope.num sc * 64 + 1))
  | .aor d a b w sc => some (frame 0x1A d a b (bit w * 512 + Scope.num sc * 64 + 2))
  | .axor d a b w sc => some (frame 0x1A d a b (bit w * 512 + Scope.num sc * 64 + 3))
  | .amin d a b w sc => some (frame 0x1A d a b (bit w * 512 + Scope.num sc * 64 + 4))
  | .amax d a b w sc => some (frame 0x1A d a b (bit w * 512 + Scope.num sc * 64 + 5))
  | .aminn d a b w sc => some (frame 0x1A d a b (bit w * 512 + Scope.num sc * 64 + 6))
  | .amaxn d a b w sc => some (frame 0x1A d a b (bit w * 512 + Scope.num sc * 64 + 7))
  | .aswp d a b w sc => some (frame 0x1A d a b (bit w * 512 + Scope.num sc * 64 + 8))
  | .acas d a b w sc => some (frame 0x1A d a b (bit w * 512 + Scope.num sc * 64 + 9))
  | .albGated d a u => some (frameI 0x1B d a (BitVec.ofNat 15 (16384 + u.val * 8)))
  | .alb a => some (frameI 0x1B 0 a 0)
  | .ale d => some (frameI 0x1C d 0 0)
  | .fence eng k sc => some (frame 0x1D 0 0 0 (bit eng * 16 + FenceKind.num k * 4 + Scope.num sc))
  | .chnew d a => some (frame 0x20 (EReg.field d) (EReg.field a) 0 0x000)
  | .chclose a => some (frame 0x20 0 (EReg.field a) 0 0x001)
  | .emov d a => some (frame 0x20 (EReg.field d) (EReg.field a) 0 0x002)
  | .einfo d a => some (frame 0x20 d (EReg.field a) 0 0x003)
  | .brnew d a => some (frame 0x20 (EReg.field d) a 0 0x008)
  | .brep d a => some (frame 0x20 (EReg.field d) (EReg.field a) 0 0x009)
  | .arrive a => some (frame 0x20 0 (EReg.field a) 0 0x00A)
  | .await a => some (frame 0x20 0 (EReg.field a) 0 0x00B)
  | .bsync a => some (frame 0x20 0 (EReg.field a) 0 0x00C)
  | .sende a b => some (frame 0x20 0 (EReg.field a) (EReg.field b) 0x010)
  | .recve d a => some (frame 0x20 (EReg.field d) (EReg.field a) 0 0x011)
  | .send a b => some (frame 0x21 0 (EReg.field a) b 0)
  | .recv d a => some (frame 0x22 d (EReg.field a) 0 0)
  | .xmaxf d a b => some (frame 0x23 d a (EReg.field b) 0)
  | .xminf d a b => some (frame 0x23 d a (EReg.field b) 1)
  | .xsumf d a b => some (frame 0x23 d a (EReg.field b) 2)
  | .xsumi d a b => some (frame 0x23 d a (EReg.field b) 3)
  | .xmaxi d a b => some (frame 0x23 d a (EReg.field b) 4)
  | .xswp d a b => some (frame 0x23 d a (EReg.field b) 5)
  | .exit a => some (frame 0x24 0 a 0 0)
  | .yield => some (frame 0x24 0 0 0 1)
  | .pid d => some (frame 0x24 d 0 0 2)
  | .lcore d => some (frame 0x24 d 0 0 3)
  | .sprio a => some (frame 0x24 0 a 0 4)
  | .gprio d => some (frame 0x24 d 0 0 5)
  | .cycle d => some (frame 0x24 d 0 0 6)
  | .part d => some (frame 0x24 d 0 0 7)
  | .spawn d a b dom mask => some (frame 0x25 (EReg.field d) a b (Domain.num dom * 256 + mask.toNat))
  | .gset d a b => some (frame 0x26 (GReg.field d) a b 0)
  | .nop => some (frame 0x28 0 0 0 0x000)
  | .halt => some (frame 0x28 0 0 0 0x001)
  | .brk => some (frame 0x28 0 0 0 0x002)
  | .park a => some (frame 0x28 0 a 0 0x008)
  | .resume a => some (frame 0x28 0 a 0 0x009)
  | .migr a b => some (frame 0x28 0 a b 0x00A)
  | .kill a => some (frame 0x28 0 a 0 0x00B)
  | .sttw a b => some (frame 0x28 0 a b 0x010)
  | .stti a => some (frame 0x28 0 a 0 0x011)
  | .tlbi a b => some (frame 0x28 0 a b 0x018)
  | .tlbia => some (frame 0x28 0 0 0 0x019)
  | .mfsr d n => some (frameI 0x29 d 0 n)
  | .mtsr n d => some (frameI 0x2A d 0 n)
  | .trap c => some (frameJ 0x2C 0 c)
  | .li d _ => some (frame2 0x01 d 0 0 0 0)
  | .lihL d _ => some (frame2 0x01 d 0 0 0 1)
  | .addl d a _ => some (frame2 0x01 d a 0 0 2)
  | .bmap d a b c _ => some (frame2 0x01 d a b c 3)
  | .fshl d a b c => some (frame2 0x01 d a b c 4)
  | .fshr d a b c => some (frame2 0x01 d a b c 5)
  | .fma d a b c => some (frame2 0x01 d a b c 6)
  | .fms d a b c => some (frame2 0x01 d a b c 7)
  | .fnma d a b c => some (frame2 0x01 d a b c 8)
  | .csel d a b c => some (frame2 0x01 d a b c 9)
  | .bfx d a _ _ => some (frame2 0x01 d a 0 0 10)
  | .bfi d a _ _ => some (frame2 0x01 d a 0 0 11)
  | .alt d a b _ _ _ _ => some (frame2 0x02 d a (EReg.field b) 0 0)
  | .sendt b c => some (frame2 0x03 0 0 (EReg.field b) c.base 0)
  | .recvt d b => some (frame2 0x03 d.base 0 (EReg.field b) 0 1)
  | .txmax d a b _ => some (frame2 0x03 d.base a.base (EReg.field b) 0 2)
  | .txsum d a b _ => some (frame2 0x03 d.base a.base (EReg.field b) 0 3)
  | .txmrg d a b => some (frame2 0x03 d.base a.base (EReg.field b) 0 4)
  | .tld d a b _ => some (frame2 0x04 d.base a (GReg.field b) 0 0)
  | .tst a b c _ => some (frame2 0x04 0 a (GReg.field b) c.base 1)
  | .tldx d a b c _ => some (frame2 0x04 d.base a (GReg.field b) c 2)
  | .tstx d a b c _ => some (frame2 0x04 d.base a (GReg.field b) c 3)
  | .tpf a b _ => some (frame2 0x04 0 a (GReg.field b) 0 4)
  | .tred a b c _ _ => some (frame2 0x04 0 a (GReg.field b) c.base 5)
  | .spld d a => some (frame2 0x04 d.base a 0 0 6)
  | .spst a c => some (frame2 0x04 0 a 0 c.base 7)
  | .tmov d a => some (frame2 0x05 d.base a.base 0 0 0)
  | .tzero d => some (frame2 0x05 d.base 0 0 0 1)
  | .tfill d b _ => some (frame2 0x05 d.base 0 b 0 2)
  | .tget d a b c _ => some (frame2 0x05 d a.base b c 3)
  | .tins d a b c _ => some (frame2 0x05 d.base a.base b c 4)
  | .tiota d _ _ => some (frame2 0x05 d.base 0 0 0 5)
  | .mma x => some (frame2 0x06 x.d x.a.base x.b.base 0 0)
  | .mmz x => some (frame2 0x06 x.d x.a.base x.b.base 0 1)
  | .mmas x => some (frame2 0x06 x.d x.a.base x.b.base 0 2)
  | .mmzs x => some (frame2 0x06 x.d x.a.base x.b.base 0 3)
  | .vadd x => some (frame2 0x07 x.d.base x.a.base x.b.base 0 0)
  | .vsub x => some (frame2 0x07 x.d.base x.a.base x.b.base 0 1)
  | .vmul x => some (frame2 0x07 x.d.base x.a.base x.b.base 0 2)
  | .vfma x => some (frame2 0x07 x.d.base x.a.base x.b.base x.c.base 3)
  | .vfms x => some (frame2 0x07 x.d.base x.a.base x.b.base x.c.base 4)
  | .vmin x => some (frame2 0x07 x.d.base x.a.base x.b.base 0 5)
  | .vmax x => some (frame2 0x07 x.d.base x.a.base x.b.base 0 6)
  | .vdiv x => some (frame2 0x07 x.d.base x.a.base x.b.base 0 7)
  | .vadds x => some (frame2 0x07 x.d.base x.a.base x.b 0 8)
  | .vmuls x => some (frame2 0x07 x.d.base x.a.base x.b 0 9)
  | .vfmas x => some (frame2 0x07 x.d.base x.a.base x.b x.c.base 10)
  | .vcmp d a b _ _ => some (frame2 0x07 d.base a.base b.base 0 11)
  | .vsel d a b c _ => some (frame2 0x07 d.base a.base b.base c.base 12)
  | .vclmp x => some (frame2 0x07 x.d.base x.a.base x.b.base x.c.base 13)
  | .vabs x => some (frame2 0x08 x.d.base x.a.base 0 0 0)
  | .vneg x => some (frame2 0x08 x.d.base x.a.base 0 0 1)
  | .vexp2 x => some (frame2 0x08 x.d.base x.a.base 0 0 2)
  | .vlog2 x => some (frame2 0x08 x.d.base x.a.base 0 0 3)
  | .vrcp x => some (frame2 0x08 x.d.base x.a.base 0 0 4)
  | .vrsq x => some (frame2 0x08 x.d.base x.a.base 0 0 5)
  | .vsqrt x => some (frame2 0x08 x.d.base x.a.base 0 0 6)
  | .vtanh x => some (frame2 0x08 x.d.base x.a.base 0 0 7)
  | .vsigm x => some (frame2 0x08 x.d.base x.a.base 0 0 8)
  | .verf x => some (frame2 0x08 x.d.base x.a.base 0 0 9)
  | .vcvt x => some (frame2 0x09 x.d.base x.a.base 0 0 0)
  | .vqnt x q => some (frame2 0x09 x.d.base x.a.base 0 (QMode.field q) 1)
  | .vdqn x => some (frame2 0x09 x.d.base x.a.base 0 0 2)
  | .vrmax x => some (frame2 0x0A x.d.base x.a.base 0 0 0)
  | .vrmin x => some (frame2 0x0A x.d.base x.a.base 0 0 1)
  | .vrsum x => some (frame2 0x0A x.d.base x.a.base 0 0 2)
  | .vramax x => some (frame2 0x0A x.d.base x.a.base 0 0 3)
  | .vrssq x => some (frame2 0x0A x.d.base x.a.base 0 0 4)
  | .vcmax x => some (frame2 0x0A x.d.base x.a.base 0 0 5)
  | .vcsum x => some (frame2 0x0A x.d.base x.a.base 0 0 6)
  | .vbrow x => some (frame2 0x0A x.d.base x.a.base 0 0 8)
  | .vbcol x => some (frame2 0x0A x.d.base x.a.base 0 0 9)
  | .vrmrg d a b => some (frame2 0x0A d a b 0 7)
  | .vtrn d a _ => some (frame2 0x0B d.base a.base 0 0 0)
  | .vrotr d a k => some (frame2 0x0B d.base a.base 0 (Count.field k) 1)
  | .vrotc d a _ k => some (frame2 0x0B d.base a.base 0 (Count.field k) 2)
  | .vpermr d a c => some (frame2 0x0B d.base a.base 0 c 3)
  | .vbrot d a k => some (frame2 0x0B d.base a.base 0 (Count.field k) 4)
  | .vand d a b => some (frame2 0x0C d.base a.base b.base 0 0)
  | .vor d a b => some (frame2 0x0C d.base a.base b.base 0 1)
  | .vxor d a b => some (frame2 0x0C d.base a.base b.base 0 2)
  | .vnot d a => some (frame2 0x0C d.base a.base 0 0 3)
  | .vbmap d a b c _ => some (frame2 0x0C d.base a.base b.base c.base 4)
  | .vshl d a _ k => some (frame2 0x0C d.base a.base 0 (Count.field k) 5)
  | .vshr d a _ k => some (frame2 0x0C d.base a.base 0 (Count.field k) 6)
  | .vsra d a _ k => some (frame2 0x0C d.base a.base 0 (Count.field k) 7)
  | .vfshl d a b k => some (frame2 0x0C d.base a.base b.base (Count.field k) 8)
  | .vfshr d a b k => some (frame2 0x0C d.base a.base b.base (Count.field k) 9)
  | .vpopc d a _ _ => some (frame2 0x0C d.base a.base 0 0 10)
  | _ => none

/-- A tail with every field 0. -/
def Tail.blank : Tail := { wd := 0, wa := 0, wb := 0, wc := 0, ti := 0, out := 0, rnd := 0, sat := false, md := 0 }

/-- The tails of the typed forms. -/
def V2.tail (x : V2) (md : Nat) : Tail :=
  { Tail.blank with wd := x.d.w, wa := x.a.w, ti := Ty.num x.ti, out := Ty.num x.out, rnd := Rnd.num x.rnd, sat := x.sat, md := md }
def V3.tail (x : V3) : Tail :=
  { Tail.blank with wd := x.d.w, wa := x.a.w, wb := x.b.w, ti := Ty.num x.ti, out := Ty.num x.out, rnd := Rnd.num x.rnd, sat := x.sat }
def V4.tail (x : V4) : Tail :=
  { Tail.blank with wd := x.d.w, wa := x.a.w, wb := x.b.w, wc := x.c.w, ti := Ty.num x.ti, out := Ty.num x.out, rnd := Rnd.num x.rnd, sat := x.sat }
def VS.tail (x : VS) : Tail :=
  { Tail.blank with wd := x.d.w, wa := x.a.w, ti := Ty.num x.ti, out := Ty.num x.out, rnd := Rnd.num x.rnd, sat := x.sat }
def VS3.tail (x : VS3) : Tail :=
  { Tail.blank with wd := x.d.w, wa := x.a.w, wc := x.c.w, ti := Ty.num x.ti, out := Ty.num x.out, rnd := Rnd.num x.rnd, sat := x.sat }
def MmaOp.tail (x : MmaOp) : Tail :=
  { Tail.blank with wd := 2, wa := x.a.w, wb := x.b.w, ti := Ty.num x.ta, out := Ty.num x.out, sat := x.sat, md := bit x.rtz * 16 + Ty.num x.tb }

/-- The fields of word 1 of a tile instruction. -/
def encodeTail : Instr → Tail
  | .bmap _ _ _ _ t => { Tail.blank with md := t.toNat }
  | .bfx _ _ pos len => { Tail.blank with md := len.toNat * 64 + pos.toNat }
  | .bfi _ _ pos len => { Tail.blank with md := len.toNat * 64 + pos.toNat }
  | .sendt _ c => { Tail.blank with wc := c.w }
  | .recvt d _ => { Tail.blank with wd := d.w }
  | .txmax d a _ ti => { Tail.blank with wd := d.w, wa := a.w, ti := Ty.num ti }
  | .txsum d a _ ti => { Tail.blank with wd := d.w, wa := a.w, ti := Ty.num ti }
  | .txmrg d a _ => { Tail.blank with wd := d.w, wa := a.w }
  | .tld d _ _ h => { Tail.blank with wd := d.w, md := Hint.num h }
  | .tst _ _ c h => { Tail.blank with wc := c.w, md := Hint.num h }
  | .tldx d _ _ _ h => { Tail.blank with wd := d.w, md := Hint.num h }
  | .tstx d _ _ _ h => { Tail.blank with wd := d.w, md := Hint.num h }
  | .tpf _ _ h => { Tail.blank with md := Hint.num h }
  | .tred _ _ c ti h => { Tail.blank with wc := c.w, ti := Ty.num ti, md := Hint.num h }
  | .spld d _ => { Tail.blank with wd := d.w }
  | .spst _ c => { Tail.blank with wc := c.w }
  | .tmov d a => { Tail.blank with wd := d.w, wa := a.w }
  | .tzero d => { Tail.blank with wd := d.w }
  | .tfill d _ ti => { Tail.blank with wd := d.w, ti := Ty.num ti }
  | .tget _ a _ _ ti => { Tail.blank with wa := a.w, ti := Ty.num ti }
  | .tins d a _ _ ti => { Tail.blank with wd := d.w, wa := a.w, ti := Ty.num ti }
  | .tiota d ti col => { Tail.blank with wd := d.w, ti := Ty.num ti, md := bit col }
  | .mma x => MmaOp.tail x
  | .mmz x => MmaOp.tail x
  | .mmas x => MmaOp.tail x
  | .mmzs x => MmaOp.tail x
  | .vadd x => V3.tail x
  | .vsub x => V3.tail x
  | .vmul x => V3.tail x
  | .vfma x => V4.tail x
  | .vfms x => V4.tail x
  | .vmin x => V3.tail x
  | .vmax x => V3.tail x
  | .vdiv x => V3.tail x
  | .vadds x => VS.tail x
  | .vmuls x => VS.tail x
  | .vfmas x => VS3.tail x
  | .vclmp x => V4.tail x
  | .vcmp d a b ti c => { Tail.blank with wd := d.w, wa := a.w, wb := b.w, ti := Ty.num ti, out := 8, md := Cond.num c }
  | .vsel d a b c ti => { Tail.blank with wd := d.w, wa := a.w, wb := b.w, wc := c.w, ti := Ty.num ti }
  | .vabs x => V2.tail x 0
  | .vneg x => V2.tail x 0
  | .vexp2 x => V2.tail x 0
  | .vlog2 x => V2.tail x 0
  | .vrcp x => V2.tail x 0
  | .vrsq x => V2.tail x 0
  | .vsqrt x => V2.tail x 0
  | .vtanh x => V2.tail x 0
  | .vsigm x => V2.tail x 0
  | .verf x => V2.tail x 0
  | .vcvt x => V2.tail x 0
  | .vdqn x => V2.tail x 0
  | .vrmax x => V2.tail x 0
  | .vrmin x => V2.tail x 0
  | .vrsum x => V2.tail x 0
  | .vramax x => V2.tail x 0
  | .vrssq x => V2.tail x 0
  | .vcmax x => V2.tail x 0
  | .vcsum x => V2.tail x 0
  | .vbrow x => V2.tail x 0
  | .vbcol x => V2.tail x 0
  | .vqnt x q => V2.tail x (QMode.md q)
  | .vtrn d a ti => { Tail.blank with wd := d.w, wa := a.w, ti := Ty.num ti }
  | .vrotr d a k => { Tail.blank with wd := d.w, wa := a.w, md := Count.md k }
  | .vrotc d a ti k => { Tail.blank with wd := d.w, wa := a.w, ti := Ty.num ti, md := Count.md k }
  | .vpermr d a _ => { Tail.blank with wd := d.w, wa := a.w }
  | .vbrot d a k => { Tail.blank with wd := d.w, wa := a.w, md := Count.md k }
  | .vand d a b => { Tail.blank with wd := d.w, wa := a.w, wb := b.w }
  | .vor d a b => { Tail.blank with wd := d.w, wa := a.w, wb := b.w }
  | .vxor d a b => { Tail.blank with wd := d.w, wa := a.w, wb := b.w }
  | .vnot d a => { Tail.blank with wd := d.w, wa := a.w }
  | .vbmap d a b c t => { Tail.blank with wd := d.w, wa := a.w, wb := b.w, wc := c.w, md := t.toNat }
  | .vshl d a ti k => { Tail.blank with wd := d.w, wa := a.w, ti := Ty.num ti, md := Count.md k }
  | .vshr d a ti k => { Tail.blank with wd := d.w, wa := a.w, ti := Ty.num ti, md := Count.md k }
  | .vsra d a ti k => { Tail.blank with wd := d.w, wa := a.w, ti := Ty.num ti, md := Count.md k }
  | .vfshl d a b k => { Tail.blank with wd := d.w, wa := a.w, wb := b.w, md := Count.md k }
  | .vfshr d a b k => { Tail.blank with wd := d.w, wa := a.w, wb := b.w, md := Count.md k }
  | .vpopc d a ti out => { Tail.blank with wd := d.w, wa := a.w, ti := Ty.num ti, out := Ty.num out }
  | _ => Tail.blank

/-- Word 1 of an instruction of two words (R44, R47, R48). -/
def encodeSecond : Instr → Nat
  | .li _ v => v.toNat
  | .lihL _ v => v.toNat
  | .addl _ _ v => v.toNat
  | .alt _ _ _ arms dirs prio poll =>
    arms.toNat * 2 ^ 24 + dirs.toNat * 2 ^ 16 + prio.toNat * 2 ^ 8 + bit poll * 2 ^ 7
  | i => (encodeTail i).word

/-- An instruction's words: the first, and the second where there are two (R26); none for an event. -/
def encode (i : Instr) : Option (Nat × Option Nat) :=
  match encodeFrame i with
  | some f => some (f.word, if f.long then some (encodeSecond i) else none)
  | none => none

/-! ### Decoding -/

/-- Whether a first word begins an instruction of two words (R26). -/
def isLong (w0 : Nat) : Bool := w0 / 2 ^ 31 % 2 == 1

/-- The instruction a word, or a pair of words, encodes; none for an illegal encoding (R52). In a 32-bit frame w1 is
not looked at. -/
def decode (w0 w1 : Nat) : Option Instr :=
  let f := frameOf w0
  let got := if f.long then parse64 f (tailOf w1) w1 else parse32 f
  match got with
  | none => none
  | some i =>
    if i.wf = true ∧ encode i = some (w0, if f.long then some w1 else none) then some i else none

/-- Instruction words from bytes at rising addresses (R4, R26): the instruction and the bytes after it. -/
def decodeBytes (l : List Byte) : Option (Instr × List Byte) :=
  let w0 := ofBytes (l.take 4)
  if l.length < 4 then none
  else if isLong w0 then
    (if l.length < 8 then none else (decode w0 (ofBytes ((l.drop 4).take 4))).map (fun i => (i, l.drop 8)))
  else (decode w0 0).map (fun i => (i, l.drop 4))

/-- The bytes of the words of an instruction numbered as the opcode table numbers them: word 0 first, each word
little-endian (R4, R26); the bits above nbits are 0. -/
def tableBytes (nbits w : Nat) : List Byte := bytesOf 8 (w % 2 ^ nbits)

/-- What the decoder reads from the words of an opcode table row. -/
def decodeTableWord (nbits w : Nat) : Option Instr := (decodeBytes (tableBytes nbits w)).map Prod.fst

end Sys2Proof
end

