-- ==== Sys2Proof/Machine/Sched.lean ====
section
/-! DEFINITION. Deques, overflow segments, what an idle slot may take, and how a record starts (05_processes.md
R115-R126, R151-R153). -/

namespace Sys2Proof.Machine

/-! ### Age and eligibility (R118, R121) -/

/-- The age of a record among those of its core: the lowest is the oldest. -/
def Core.age (k : Core) (r : Rec) : Nat := (r.seq - k.seqNext).toNat

/-- The oldest and the newest of some records of a core. -/
def Core.oldest (k : Core) (l : List Rec) : Option Rec :=
  l.foldl (fun b r => match b with | none => some r | some x => if k.age r < k.age x then some r else b) none
def Core.newest (k : Core) (l : List Rec) : Option Rec :=
  l.foldl (fun b r => match b with | none => some r | some x => if k.age x < k.age r then some r else b) none

/-- Whether a core lies within a domain of an origin core. -/
def State.within (s : State) (d : Domain) (origin c : Nat) : Bool :=
  match d with
  | .quad => s.quadOf origin == s.quadOf c
  | .die => dieOfCore origin == dieOfCore c
  | .device => true

/-- A record is eligible for a core (R121). -/
def State.eligible (s : State) (c : Nat) (r : Rec) : Bool := !(s.part r.part).parked && s.within r.domain r.origin c

/-- The records of a core that a taker sees: an overflow segment whose refill faulted counts as empty (R120). -/
def Core.inHardware (k : Core) : List Rec := k.hold ++ k.deque
def Core.inSegments (k : Core) : List Rec := k.spilled.filter (fun r => !k.spillOff.contains (r.part, r.seg))

/-- The owner's take: the newest eligible hardware record, else the newest eligible spilled one (R121). -/
def State.ownerPick (s : State) (c : Nat) : Option Rec :=
  let k := s.core c
  match k.newest (k.inHardware.filter (s.eligible c)) with
  | some r => some r
  | none => k.newest (k.inSegments.filter (s.eligible c))

/-- A thief's take: the oldest eligible record of the victim, spilled ones included (R122). -/
def State.thiefPick (s : State) (victim thief : Nat) : Option Rec :=
  let k := s.core victim
  k.oldest ((k.inHardware ++ k.inSegments).filter (s.eligible thief))

/-- The first process of a core's runnable list whose partition is not parked by a bucket and that may be unparked
there: one that parked elsewhere needs its image complete and its pages copied (R126, R132, R142). -/
def State.runnablePick (s : State) (c : Nat) : Option Proc :=
  ((s.core c).runq.filterMap s.proc?).find? (fun p =>
    !(s.part p.part).parked && p.mayUnpark c && (s.pagesOff p.pid c).isEmpty)

/-- The records and processes a core could start without a steal, by priority (R128, R157): every eligible record counts, not only
the newest (log 76). -/
def State.workPrios (s : State) (c : Nat) : List (BitVec 6) :=
  let k := s.core c
  ((k.inHardware ++ k.inSegments).filter (s.eligible c)).map Rec.prio
    ++ (match s.runnablePick c with | some p => [p.prio] | none => [])

/-- The idle slots of a core. -/
def State.idleSlots (s : State) (c : Nat) : List Nat :=
  (List.range 4).filter (fun i => if h : i < 4 then ((s.core c).slots[i]).isNone else false)

/-! ### PIDs (R115) -/

/-- Whether a value is held by a process or a record, or named by an endpoint entry. -/
def State.pidUsed (s : State) (pid : Pid) : Bool :=
  pid == 0 || s.allProcs.any (fun p => p.pid == pid)
    || s.cores.toList.any (fun k => k.records.any (fun r => r.pid == pid))
    || s.entries.any (fun (e : Entry) => e.live && e.owner == pid)

/-- The first free value from a start. -/
def State.freePid (s : State) (start : Pid) : Nat → Pid
  | 0 => start
  | fuel + 1 => if s.pidUsed start then s.freePid (start + 1) fuel else start

/-- A bound on the values in use. -/
def State.pidBound (s : State) : Nat :=
  s.procs.length + s.entries.length + 3
    + (s.cores.toList.map (fun k => k.records.length)).foldl (· + ·) 0

/-- A new PID. -/
def State.newPid (s : State) : State × Pid :=
  let p := s.freePid s.nextPid s.pidBound
  ({ s with nextPid := p + 1 }, p)

/-! ### Spilling (R118-R120) -/

/-- The bytes of a record in a segment (R116). The words the device seals are the handle words. -/
def State.recBytes (s : State) (r : Rec) : List Byte :=
  let join := match r.join with
    | .chan cell => ((s.entries.find? (fun (e : Entry) => e.live && e.cell == cell && e.owner == r.pid)).map Entry.handle).getD 0
    | _ => 0
  let dom := match r.domain with | .quad => 0 | .die => 1 | .device => 2
  bytesOf 8 r.entry.toNat ++ bytesOf 8 r.arg.toNat ++ bytesOf 4 r.pid.toNat
    ++ bytesOf 4 (r.prio.toNat + 64 * dom + 256 * r.origin + 65536 * (r.part % 65536))
    ++ bytesOf 4 join.toNat ++ bytesOf 4 r.seq.toNat ++ r.moved.toList.flatMap (fun w => bytesOf 4 w.toNat)

/-- The address of place i in the overflow segment of a core. -/
def Part.overflowAddr (p : Part) (c i : Nat) : Word :=
  BitVec.ofNat 64 ((p.dqovf.toNat / 2 ^ 12 % 2 ^ 40 + c * (p.dqovf.toNat % 4096)) * 4096 + 64 * i)

/-- The first address of the segment of a core (R119). -/
def Part.segment (p : Part) (c : Nat) : Word := p.overflowAddr c 0

/-- The physical places of every spilled record of a partition. -/
def State.spillPlaces (s : State) (part : Nat) : List Nat :=
  s.cores.toList.flatMap (fun k => (k.spilled.filter (fun r => r.part == part)).filterMap Rec.spill)

/-- The first of the n places of a segment from place i on in which no spilled record of the partition lies, whichever DQOVF
those records were spilled under (R119): its index and physical address; none where every place holds one. -/
def State.spillPlace (s : State) (p : Part) (c : Nat) (used : List Nat) (i : Nat) : Nat → Except TrapInfo (Option (Nat × Nat))
  | 0 => .ok none
  | n + 1 =>
    match s.areaXlate p (p.overflowAddr c i) 64 .write with
    | .error t => .error t
    | .ok pa => if used.any (fun a => decide (a < pa + 64) && decide (pa < a + 64)) then s.spillPlace p c used (i + 1) n
                else .ok (some (i, pa))

/-- The places of a segment (R119). -/
def Part.segmentPlaces (p : Part) : Nat := p.dqovf.toNat % 4096 * 64

/-- A record is written into the segment of a core: as it then stands, and the state; none where the segment is full. -/
def State.spillTo (s : State) (p : Part) (c : Nat) (r : Rec) : Except TrapInfo (Option (State × Rec)) :=
  match s.spillPlace p c (s.spillPlaces p.num) 0 p.segmentPlaces with
  | .error t => .error t
  | .ok none => .ok none
  | .ok (some (i, pa)) =>
    let bytes := s.recBytes r
    .ok (some (s.physPut (Via.of (s.keyAt 0 p (p.overflowAddr c i)) p.num) pa bytes,
      { r with spill := some pa, spillVa := p.overflowAddr c i, seg := p.segment c, sealed := bytes }))

/-- The oldest hardware record of a core moves into the segment of its partition; a full segment stalls (R120), a
faulting one gives GFAULT. -/
def State.spillOldest (s : State) (c : Nat) : Except Halt State :=
  let k := s.core c
  match k.oldest k.deque with
  | none => .ok s
  | some r =>
    match s.spillTo (s.part r.part) c r with
    | .error t => .error (.trap (.at .gfault t.addr))
    | .ok none => .error (.stall .spill)
    | .ok (some (t, q)) =>
      .ok (t.updCore c (fun k => { k with
        deque := k.deque.filter (fun x => x.pid != r.pid), spilled := k.spilled ++ [q] }))

/-- Room for a push at a core. -/
def State.roomForPush (s : State) (c : Nat) : Except Halt State :=
  if (s.core c).deque.length < 64 then .ok s else s.spillOldest c

/-- A record enters at the bottom of a deque, with the next sequence number; a search for work begins again (R127). -/
def State.pushRec (s : State) (c : Nat) (r : Rec) : State :=
  s.updCore c (fun k => { k with
    deque := k.deque ++ [{ r with seq := k.seqNext, origin := c, spill := none }], seqNext := k.seqNext + 1, retryAt := none })

/-- A record leaves the lists of a core. -/
def State.dropRec (s : State) (c : Nat) (pid : Pid) : State :=
  s.updCore c (fun k => k.without pid)

/-! ### Starting a record (R117, R125, R153) -/

/-- Host event 6 for a root that ended: how is 0 for EXIT, 1 for KILL or a discarded record (18_host.md R455). -/
def State.rootEnded (s : State) (pid : Pid) (j : Join) (code : Word) (how : Nat) : State :=
  match j with
  | .root => s.hostEvent 6 [zextWord pid, code, BitVec.ofNat 64 how]
  | _ => s

/-- The pool pages and the scratchpad TLB entries of a process go. -/
def State.dropPages (s : State) (pid : Pid) : State :=
  { s with pages := s.pages.filter (fun q => q.owner != pid),
           cores := s.cores.map (fun (k : Core) => { k with stlb := k.stlb.filter (fun e => e.pid != pid) }) }

/-- A queued process ends without a code: its join end and its endpoints close, its space and its pages are free (R117,
R154, R404, 10_scratchpad.md R265). -/
def State.discardRec (s : State) (c : Nat) (r : Rec) : State :=
  ((((s.dropRec c r.pid).closeAll r.pid).dropPages r.pid)).rootEnded r.pid r.join 0 1

/-- A record's process becomes resident runnable in a slot. Its start acquires (R152, R291). -/
def State.startRec (s : State) (c slot : Nat) (r : Rec) : State :=
  let p : Proc := { r.toProc with place := .resident c slot, home := c, ran := c, since := s.cycle, winAt := s.cycle }
  let s1 := { s with procs := p :: s.procs }.carryPages r.pid c
  (s1.updCore c (fun k => { k with slots := if h : slot < 4 then k.slots.set slot (some r.pid) else k.slots })).flushL1 c

/-- Take a record into a slot: a faulting refill switches its segment off, a broken seal discards it. -/
def State.takeRec (s : State) (victim c slot : Nat) (r : Rec) : State :=
  match s.refill r with
  | (t, .ok) => (t.dropRec victim r.pid).startRec c slot r
  | (t, .faulted) => t.segmentOff victim r
  | (t, .broken) => t.discardRec victim r

/-- The PIDs of a core's own work in the order of R125: the deque first, then the runnable list. -/
def State.fillOwn (s : State) (c slot : Nat) : Option State :=
  match s.ownerPick c with
  | some r => some (s.takeRec c c slot r)
  | none => (s.runnablePick c).map (fun p => (s.unpark c slot p.pid).resend p.pid)

end Sys2Proof.Machine
end

