-- ==== Sys2Proof/Machine/Fetch.lean ====
section
/-! DEFINITION. Fetching an instruction (02_encoding.md R26, R27, R55, 06_scalar.md R162, R164), what may stand before its
meaning (IP breakpoints, 15_traps.md R411; masked features, 18_host.md R460; regions, 11_memory.md R310), and the two
events that take an instruction's place. -/

namespace Sys2Proof.Machine

/-! ### What takes an instruction's place (R52-R56) -/

/-- ILLEGAL_ENCODING: the record carries the words. -/
def execIllegalEncoding (w0 w1 : Word32) (s : State) : Host.Outcome State Fault Refusal :=
  .next ({ s with cur := { s.cur with iw0 := w0, iw1 := w1 } }.takeTrap (.at .illegal 0))

/-- INSTRUCTION_FETCH_FAULT: the address is that of the word that could not be fetched; w0 is word 0 where it was
fetched. -/
def tryInstructionFetchFault (cause : Cause) (addr : Word) (w0 : Word32) (s : State) : Option State :=
  match cause with
  | .gfault | .gprot | .poison | .memoff =>
    some ({ s with cur := { s.cur with iw0 := w0, iw1 := 0 } }.takeTrap (.at cause addr))
  | _ => none

def execInstructionFetchFault (cause : Cause) (addr : Word) (w0 : Word32) (s : State) : Host.Outcome State Fault Refusal :=
  s.occur (tryInstructionFetchFault cause addr w0 s)

/-! ### Fetching -/

/-- A word of the instruction cache, else from the home; the cache holds 16,384 words, the oldest leaving (log 9). -/
def State.cachedWord (s : State) (c pa : Nat) : Option Word32 :=
  ((s.core c).icache.find? (fun x => x.1 == pa)).map Prod.snd

/-- A fetch finds an error in the line of the instruction cache that holds its word: the line is dropped, and read again from its
home, which supplies the word (19_trust.md R476, R477, R480). -/
def State.checkFetch (s : State) (c pa : Nat) : State :=
  if (s.cachedWord c pa).isSome && (s.core c).ibad.contains (pa / 32) then
    (s.updCore c (fun k => { k with
      icache := k.icache.filter (fun x => x.1 / 32 != pa / 32), ibad := k.ibad.filter (· != pa / 32) })).logMemory 1 1 (pa / 32 * 32)
  else s

def State.keepWord (s : State) (c pa : Nat) (w : Word32) : State :=
  s.updCore c (fun k => { k with icache := ((pa, w) :: k.icache).take 16384 })

/-- The word at an address for the context that executes, or the fault of its fetch. -/
def State.fetchWord (s : State) (va : Word) : State × Except TrapInfo Word32 :=
  let c := s.curCore
  let s0 := s.noteWalk c s.curPart va
  match s0.xlate c s0.curPart s0.cur.sup va 4 .fetch with
  | .error t => (s0, .error t)
  | .ok x =>
    if s0.memOff s0.curPart x.pa then (s0, .error (.at .memoff va))
    else
      let s1 := (s0.cacheXlate c s0.curPart va x).checkFetch c x.pa
      match s1.cachedWord c x.pa with
      | some w => (s1, .ok w)
      | none =>
        let s2 := (s1.flushFor x.pa).readRange x.pa 4
        if s2.rangeBad x.pa 4 then (s2, .error (.at .poison va))
        else
          let key := s2.curPart.leafKey x.leaf
          let s3 := (s2.noteKey key x.pa 4).fillL2 (Via.of key s2.cur.part) x.pa 4
          let w : Word32 := BitVec.ofNat 32 (ofBytes (s3.bytesAs key x.pa 4))
          (s3.keepWord c x.pa w, .ok w)

/-- What stands at IP: one or two words, or a fetch fault with word 0 where that was fetched. -/
inductive Fetched where
  | words (w0 : Word32) (w1 : Option Word32)
  | fault (cause : Cause) (addr : Word) (w0 : Word32)
  deriving DecidableEq, Repr

def State.fetch (s : State) : State × Fetched :=
  let ip := s.cur.ip
  match s.fetchWord ip with
  | (s1, .error t) => (s1, .fault t.cause t.addr 0)
  | (s1, .ok w0) =>
    if w0.getLsbD 31 then
      match s1.fetchWord (ip + 4) with
      | (s2, .error t) => (s2, .fault t.cause t.addr w0)
      | (s2, .ok w1) => (s2, .words w0 (some w1))
    else (s1, .words w0 none)

/-! ### Masked features (R460) -/

def Ty.isFp4 (t : Ty) : Bool := t == .e2m1 || t == .i4 || t == .n4
def V2.fp4 (x : V2) : Bool := Ty.isFp4 x.ti || Ty.isFp4 x.out
def V3.fp4 (x : V3) : Bool := Ty.isFp4 x.ti || Ty.isFp4 x.out
def V4.fp4 (x : V4) : Bool := Ty.isFp4 x.ti || Ty.isFp4 x.out
def VS.fp4 (x : VS) : Bool := Ty.isFp4 x.ti || Ty.isFp4 x.out
def VS3.fp4 (x : VS3) : Bool := Ty.isFp4 x.ti || Ty.isFp4 x.out
def MmaOp.fp4 (x : MmaOp) : Bool := Ty.isFp4 x.ta || Ty.isFp4 x.tb || Ty.isFp4 x.out

/-- Whether a tile form names E2M1, I4 or N4 in TI, TO or MOD[3:0] as a type. -/
def usesFp4 : Instr → Bool
  | .mma x | .mmz x | .mmas x | .mmzs x => MmaOp.fp4 x
  | .vadd x | .vsub x | .vmul x | .vmin x | .vmax x | .vdiv x => V3.fp4 x
  | .vfma x | .vfms x | .vclmp x => V4.fp4 x
  | .vadds x | .vmuls x => VS.fp4 x
  | .vfmas x => VS3.fp4 x
  | .vabs x | .vneg x | .vexp2 x | .vlog2 x | .vrcp x | .vrsq x | .vsqrt x | .vtanh x | .vsigm x | .verf x
  | .vcvt x | .vqnt x _ | .vdqn x | .vrmax x | .vrmin x | .vrsum x | .vramax x | .vrssq x | .vcmax x | .vcsum x
  | .vbrow x | .vbcol x => V2.fp4 x
  | .vcmp _ _ _ ti _ | .vsel _ _ _ _ ti | .vtrn _ _ ti | .vrotc _ _ ti _ | .vshl _ _ ti _ | .vshr _ _ ti _
  | .vsra _ _ ti _ | .tfill _ _ ti | .tget _ _ _ _ ti | .tins _ _ _ _ ti | .tiota _ ti _ | .tred _ _ _ ti _
  | .txmax _ _ _ ti | .txsum _ _ _ ti => Ty.isFp4 ti
  | .vpopc _ _ ti out => Ty.isFp4 ti || Ty.isFp4 out
  | _ => false

/-- MMAS, MMZS, VQNT and VDQN. -/
def usesScaled : Instr → Bool
  | .mmas _ | .mmzs _ | .vqnt _ _ | .vdqn _ => true
  | _ => false

/-- VUNARY FN5 2 to 9. -/
def usesTrans : Instr → Bool
  | .vexp2 _ | .vlog2 _ | .vrcp _ | .vrsq _ | .vsqrt _ | .vtanh _ | .vsigm _ | .verf _ => true
  | _ => false

/-- Whether a form has one of the 64-bit majors 0x03 to 0x0C. -/
def usesTile1 (w0 : Word32) : Bool := w0.getLsbD 31 && decide (3 ≤ w0.toNat / 2 ^ 25 % 64) && decide (w0.toNat / 2 ^ 25 % 64 ≤ 12)

/-- A form that a masked feature of the partition makes illegal. -/
def masked (feat : Word) (w0 : Word32) (i : Instr) : Bool :=
  (!feat.getLsbD 0 && usesTile1 w0) || (!feat.getLsbD 1 && usesFp4 i) || (!feat.getLsbD 2 && usesScaled i)
    || (!feat.getLsbD 3 && usesTrans i)

/-! ### Regions (11_memory.md R310) -/

/-- The forms that may stand in a region. -/
def inRegion : Instr → Bool
  | .ld _ _ _ _ | .st _ _ _ _ => true
  | .add _ _ _ | .sub _ _ _ | .mul _ _ _ | .mulh _ _ _ | .mulhn _ _ _ | .div _ _ _ | .divn _ _ _ | .rem _ _ _
  | .remn _ _ _ | .and _ _ _ | .or _ _ _ | .xor _ _ _ | .andn _ _ _ | .orn _ _ _ | .xnor _ _ _ | .shl _ _ _
  | .shr _ _ _ | .sra _ _ _ | .rol _ _ _ | .ror _ _ _ | .min _ _ _ | .max _ _ _ | .minn _ _ _ | .maxn _ _ _
  | .slt _ _ _ | .sltn _ _ _ | .seq _ _ _ | .sne _ _ _ | .clz _ _ | .ctz _ _ | .popc _ _ | .brev _ _
  | .sextb _ _ | .sexth _ _ | .sextw _ _ | .zextb _ _ | .zexth _ _ | .zextw _ _ => true
  | .addi _ _ _ | .andi _ _ _ | .ori _ _ _ | .xori _ _ _ | .slti _ _ _ | .sltni _ _ _ | .muli _ _ _
  | .shli _ _ _ | .shri _ _ _ | .srai _ _ _ | .rori _ _ _ | .lih _ _ | .pcadd _ _ => true
  | .li _ _ | .lihL _ _ | .addl _ _ _ | .bmap _ _ _ _ _ | .fshl _ _ _ _ | .fshr _ _ _ _ | .fma _ _ _ _
  | .fms _ _ _ _ | .fnma _ _ _ _ | .csel _ _ _ _ | .bfx _ _ _ _ | .bfi _ _ _ _ => true
  | .fadd _ _ _ | .fsub _ _ _ | .fmul _ _ _ | .fdiv _ _ _ | .fsqrt _ _ | .fmin _ _ _ | .fmax _ _ _ | .fabs _ _
  | .fneg _ _ | .feq _ _ _ | .flt _ _ _ | .fle _ _ _ | .fclass _ _ | .fcvtif _ _ | .fcvtnf _ _ | .fcvtfi _ _
  | .fcvtfn _ _ => true
  | .nop => true
  | _ => false

def isAle : Instr → Bool
  | .ale _ => true
  | _ => false

/-- Whether an instruction may stand where it does: in an open region, an ALE or one of at most 16 allowed forms. -/
def Proc.regionAllows (p : Proc) (i : Instr) : Bool :=
  match p.region with
  | none => true
  | some r => isAle i || (inRegion i && decide (r.count < 16))

/-- An instruction of an open region is counted. -/
def Proc.countRegion (p : Proc) (i : Instr) : Proc :=
  if isAle i then p else { p with region := p.region.map (fun r => { r with count := r.count + 1 }) }

/-! ### IP breakpoints (15_traps.md R411) -/

/-- The enabled breakpoint at an IP. -/
def State.ibpHit (s : State) : Option Nat :=
  if s.cur.skipBp then none
  else (List.range 4).find? (fun n => s.cur.bmask.getLsbD n
    && (if h : n < 4 then s.curPart.ibp[n] &&& ~~~(3 : Word) == s.cur.ip else false))

/-! ### What issues -/

/-- What the context that executes does at its IP: a fetch fault, a breakpoint, illegal words, or an instruction. -/
inductive Issued where
  | fault (cause : Cause) (addr : Word) (w0 : Word32)
  | break_ (n : Nat)
  | illegal (w0 w1 : Word32)
  | instr (i : Instr)
  deriving DecidableEq, Repr

/-- A supervisor form in a user-mode process: PRIVILEGE ranks before what the state of a region decides (R55). STTW is
not among them: what op 5 needs is a matter of its operand (log 74). -/
def supervisorForm : Instr → Bool
  | .halt | .park _ | .resume _ | .migr _ _ | .kill _ | .tlbi _ _ | .tlbia => true
  | .mfsr _ n => decide (0x100 ≤ n.toNat)
  | .mtsr n _ => decide (0x100 ≤ n.toNat)
  | _ => false

/-- The instruction its words decode to, where the partition and an open region allow it. -/
def State.judge (s : State) (w0 : Word32) (w1 : Option Word32) : Issued :=
  match s.ibpHit with
  | some n => .break_ n
  | none =>
    let second := w1.getD 0
    match Sys2Proof.decode w0.toNat second.toNat with
    | none => .illegal w0 second
    | some i =>
      if masked s.curPart.feat w0 i || !(s.cur.regionAllows i || supervisorForm i && !s.cur.sup) then .illegal w0 second
      else .instr i

/-- The words of the instruction are those a trap record shows. -/
def State.setWords (s : State) (w0 w1 : Word32) : State := { s with cur := { s.cur with iw0 := w0, iw1 := w1 } }

/-- Fetch and judge at IP. -/
def State.look (s : State) : State × Issued :=
  match s.fetch with
  | (s1, .fault c a w) => (s1, .fault c a w)
  | (s1, .words w0 w1) =>
    let s2 := s1.setWords w0 (w1.getD 0)
    (s2, s2.judge w0 w1)

end Sys2Proof.Machine
end

