-- ==== Sys2Proof/Machine/Order.lean ====
section
/-! DEFINITION. FENCE (13_ordering.md R370, R371) and the event in which a retired store performs (11_memory.md R295,
07_tiles.md R208). -/

namespace Sys2Proof.Machine

/-- The stores that a FENCE waits for have performed (log 7): scalar ones, with the engines bit the tile stores too, and
those that an overlapping one behind them needs first (R369, R208). At SYS scope the context's stores to host and peer
memory are complete (R367). -/
def State.fenceDrain (s : State) (kind : FenceKind) (eng : Bool) (sc : Scope) : State :=
  if kind = .loads then s
  else
    let s1 := if eng then s.drain s.cur.pid else s.drainMarked s.cur.pid 0 (neededFor (fun st => !st.tile) s.cur.stores)
    if sc = .sys then s1.flushOut (fun o => o.pid == s.cur.pid) else s1

/-- Whether a FENCE waits for the retry latch (R369, R371): of kind loads for an AMO or a region that has not read its
value, of kind stores or all while one is out, and with the engines bit for a TRED as well. -/
def Latch.holdsFence (l : Latch) (kind : FenceKind) (eng : Bool) : Bool :=
  l.sent && (if kind = .loads then l.kind != 3 && !l.done else eng || l.kind != 3)

/-- FENCE acts as R371 gives, the same at CORE, DIE and DEV scope (log 56). A wait for the latch leaves the context where
it is. -/
def execFence (eng : Bool) (kind : FenceKind) (sc : Scope) (s : State) : Host.Outcome State Fault Refusal :=
  if s.cur.latch.holdsFence kind eng then .next s
  else
    let s1 := s.fenceDrain kind eng sc
    .next ((s1.flushL1 s1.curCore).next 4)

/-- Whether store n of a process may perform now: no older one overlaps it (R208). -/
def Proc.mayPerform (p : Proc) (n : Nat) : Bool :=
  match p.stores[n]? with
  | none => false
  | some st => !(p.stores.take n).any (fun o => o.before st)

/-- STORE_PERFORM. -/
def tryStorePerform (pid : Pid) (n : Nat) (s : State) : Option State :=
  match s.proc? pid with
  | none => none
  | some p => if p.mayPerform n then some (s.performNth pid n) else none

def execStorePerform (pid : Pid) (n : Nat) (s : State) : Host.Outcome State Fault Refusal :=
  s.occur (tryStorePerform pid n s)

end Sys2Proof.Machine
end

