-- ==== Sys2Proof/Machine/TileMem.lean ====
section
/-! DEFINITION. Tile memory instructions (11_memory.md R297-R306) and SPLD, SPST (10_scratchpad.md R278). -/

namespace Sys2Proof.Machine

/-! ### Geometry (R297-R299) -/

/-- The fields of a G register. -/
structure Geom where
  stride : Int
  rows   : Nat
  bytes  : Nat
  zf     : Bool
  deriving DecidableEq, Repr

def geomOf (g : BitVec 128) : Geom :=
  { stride := (g.setWidth 32).toInt, rows := g.toNat / 2 ^ 32 % 128, bytes := g.toNat / 2 ^ 40 % 1024,
    zf := g.getLsbD 50 }

def State.geom (s : State) (b : GReg) : Geom := geomOf s.cur.g[b]

/-- A geometry is valid for an operand of n registers. -/
def Geom.valid (g : Geom) (n : Nat) : Bool :=
  decide (1 ≤ g.rows) && decide (g.rows ≤ 64) && decide (1 ≤ g.bytes) && decide (g.bytes ≤ 64 * n)

/-- Whether a geometry reads every byte of a group of n registers. -/
def Geom.whole (g : Geom) (n : Nat) : Bool := g.rows == 64 && g.bytes == 64 * n

/-! ### Row addresses and their checks (R301) -/

/-- The index of a row: an I32 element. -/
def rowIndex (ix : List Page) (r : Nat) : Int := (BitVec.ofNat 32 (elemAt .i32 ix r 0)).toInt

/-- Offsets of the rows from S[A]: multiples of the stride, or the indices. -/
def rowOffsets (g : Geom) (ix : Option (List Page)) : List Int :=
  (List.range g.rows).map (fun r => match ix with | some p => rowIndex p r | none => r * g.stride)

/-- addr(r), modulo 2^64. -/
def rowAddrs (base : Word) (offs : List Int) : List Word := offs.map (fun o => base + BitVec.ofInt 64 o)

/-- Check 3: S[A], then the stride or the indices, multiples of 32. -/
def rowAlign (base : Word) (g : Geom) (ix : Option (List Page)) (offs : List Int) : Except Halt Unit := do
  trapIf (!aligned base 32) .misalign base
  match ix with
  | none => trapIf (g.stride % 32 != 0) .misalign (base + BitVec.ofInt 64 g.stride)
  | some _ =>
    match offs.find? (fun o => o % 32 != 0) with
    | some o => trapIf true .misalign (base + BitVec.ofInt 64 o)
    | none => pure ()

/-- The first address of a row beyond 2^52 (R285). -/
def rowBeyond (va : Word) (n : Nat) : Option Word :=
  if va.toNat / 2 ^ 52 ≠ 0 then some va
  else if (va.toNat + n - 1) / 2 ^ 52 ≠ 0 then some 0x10000000000000 else none

/-- Check 4. -/
def rowLimits (n : Nat) : List Word → Except Halt Unit
  | [] => .ok ()
  | va :: rest =>
    match rowBeyond va n with
    | some a => .error (.trap (.at .gprot a))
    | none => rowLimits n rest

/-- Check 5 for every row, in order: pieces of (virtual address, physical address, length). -/
def State.rowXlate (s : State) (k : Access) (n : Nat) : List Word → Except Halt (List (List (Word × Nat × Nat)))
  | [] => .ok []
  | va :: rest =>
    match s.xlateAll s.curCore s.curPart s.cur.sup k (pieces va n) with
    | .error t => .error (.trap t)
    | .ok l => (s.rowXlate k n rest).map (fun r => l :: r)

/-- Check 6. -/
def State.rowMemOff (s : State) (rows : List (List (Word × Nat × Nat))) : Except Halt Unit :=
  match (rows.flatten).find? (fun x => s.memOff s.curPart x.2.1) with
  | some x => .error (.trap (.at .memoff x.1))
  | none => .ok ()

/-- Every translation of the rows, made for an access of a kind, is remembered. -/
def State.rowCache (s : State) (k : Access) (rows : List (List (Word × Nat × Nat))) : State :=
  rows.flatten.foldl (fun s x =>
    match s.xlate s.curCore s.curPart s.cur.sup x.1 x.2.2 k with
    | .ok r => s.cacheXlate s.curCore s.curPart x.1 r
    | .error _ => s) s

/-- The byte interval of a geometry (07_tiles.md R207): its first byte and its length. -/
def Geom.interval (g : Geom) (base : Word) : Word × Nat :=
  let span := ((g.rows : Int) - 1) * g.stride
  (if span < 0 then base + BitVec.ofInt 64 span else base, span.natAbs + g.bytes)

/-- The physical pieces of the interval of a form; an indexed form covers its rows alone. Pieces of a gap that do not
translate hold no byte. -/
def State.spanOf (s : State) (base : Word) (g : Geom) (indexed : Bool) (k : Access) (rows : List (List (Word × Nat × Nat))) :
    List (Nat × Nat) :=
  let own := rows.flatten.map (fun x => (x.2.1, x.2.2))
  let i := g.interval base
  if indexed || decide (i.2 ≤ g.rows * g.bytes) then own
  else own ++ (pieces i.1 i.2).filterMap (fun x =>
    match s.xlate s.curCore s.curPart s.cur.sup x.1 x.2 k with
    | .ok r => some (r.pa, x.2)
    | .error _ => none)

/-- WATCH over the byte interval of R207, or over each row of an indexed form. -/
def State.watchRows (s : State) (base : Word) (g : Geom) (indexed : Bool) (addrs : List Word) (load store : Bool) :
    Except Halt Unit :=
  if indexed then
    match addrs.findSome? (fun a => s.watchHit a.toNat (a.toNat + g.bytes - 1) load store) with
    | some n => .error (.trap { cause := .watch, addr := base, detail := BitVec.ofNat 40 n })
    | none => .ok ()
  else
    let span := ((g.rows : Int) - 1) * g.stride
    let lo := (base.toNat : Int) + (if span < 0 then span else 0)
    let hi := (base.toNat : Int) + (if span < 0 then 0 else span) + g.bytes - 1
    s.watch lo.toNat hi.toNat load store base

/-- Checks 3 to 6 and WATCH of a form: the rows as translated pieces. -/
def State.rowsOf (s : State) (base : Word) (g : Geom) (ix : Option (List Page)) (k : Access) (load store : Bool) :
    Except Halt (List (List (Word × Nat × Nat))) := do
  let offs := rowOffsets g ix
  let addrs := rowAddrs base offs
  rowAlign base g ix offs
  rowLimits g.bytes addrs
  let rows ← s.rowXlate k g.bytes addrs
  s.rowMemOff rows
  s.watchRows base g ix.isSome addrs load store
  return rows

/-- The rows of the form that retires now: those its copy engine has translated (07_tiles.md R210), or translated here. A row
that has not been read takes MEMOFF where its die has gone since (R296, 16_mesh.md R430). -/
def State.rowsNow (s : State) (base : Word) (g : Geom) (ix : Option (List Page)) (k : Access) (load store : Bool) :
    Except Halt (List (List (Word × Nat × Nat))) :=
  match s.cur.early with
  | none => s.rowsOf base g ix k load store
  | some e => match e.fault with
    | some t => .error (.trap t)
    | none => if e.data.isSome then .ok e.rows else (s.rowMemOff e.rows).map (fun _ => e.rows)

/-- The interval of the form that retires now. -/
def State.spanNow (s : State) (base : Word) (g : Geom) (indexed : Bool) (k : Access) (rows : List (List (Word × Nat × Nat))) :
    List (Nat × Nat) :=
  match s.cur.early with
  | none => s.spanOf base g indexed k rows
  | some e => e.span

/-- The index tile of an indexed form, POISON for a poisoned page. -/
def State.readIndex (s : State) : Option TReg → Except Halt (Option (List Page))
  | none => .ok none
  | some c => (s.readGroup { base := c, w := 0 }).map some

/-- The 64 KiB pages of addresses, each once, in the order of the rows. -/
def pagesOf (l : List (Word × Nat)) : List Word :=
  l.foldl (fun acc x => if acc.any (fun a => a.toNat / 65536 == x.1.toNat / 65536) then acc else acc ++ [x.1]) []

/-- The walks of a form that translates here and whose earlier checks pass: each page is walked once (14_translation.md R383). -/
def State.rowWalks (s : State) (base : Word) (g : Geom) (n : Nat) (index : Option TReg) : State :=
  if s.cur.early.isSome || !g.valid n then s
  else match s.readIndex index with
    | .error _ => s
    | .ok ix =>
      let addrs := rowAddrs base (rowOffsets g ix)
      match rowAlign base g ix (rowOffsets g ix), rowLimits g.bytes addrs with
      | .ok (), .ok () => (pagesOf (addrs.flatMap (fun va => pieces va g.bytes))).foldl (fun s va => s.noteWalk s.curCore s.curPart va) s
      | _, _ => s

/-! ### Loads (R302) -/

/-- Bytes read for a row: the piece's bytes with whether each lies in a poisoned sector. -/
def State.pieceBytes (s : State) (x : Word × Nat × Nat) : List (Byte × Bool) :=
  ((List.range x.2.2).zip (s.bytesAs (s.keyAt s.curCore s.curPart x.1) x.2.1 x.2.2)).map (fun y => (y.2, s.rangeBad (x.2.1 + y.1) 1))

/-- A row of a load: memory's bytes over what the row held. -/
def loadRow (n old : Nat) (l : List (Byte × Bool)) : Nat × List Bool :=
  let k := 2 ^ (8 * l.length)
  (ofBytes (l.map Prod.fst) + old / k * k, (List.range n).map (fun p => ((l.drop (64 * p)).take 64).any Prod.snd))

/-- What happens at a read of pieces: what was handed to a link before has arrived, the retries, and the core's copies of
these lines go, so that no younger load reads older bytes (R209). Each translated piece of a row counts as one access of the
affinity window (05_processes.md R144, log 67). -/
def State.readPieces (s : State) (hint : Hint) (l : List (Word × Nat × Nat)) : State :=
  l.foldl (fun s x =>
    ((s.noteRead { key := s.keyAt s.curCore s.curPart x.1, payer := some s.cur.part, hint := hint } x.2.1 x.2.2).dropL1 s.curCore x.2.1 x.2.2).noteReach x.2.1) s

/-- The bytes a load reads for each of its rows. -/
def State.readRows (s : State) (rows : List (List (Word × Nat × Nat))) : List (List (Byte × Bool)) :=
  rows.map (fun l => l.flatMap s.pieceBytes)

/-- The pages a load writes: rows with memory's bytes, the others as zf gives. -/
def loadPages (g : Geom) (n : Nat) (old : List Page) (data : List (List (Byte × Bool))) : List Page :=
  let res := (List.range 64).map fun r =>
    let before := if g.zf then 0 else groupRow old r
    match data[r]? with
    | some l => loadRow n before l
    | none => (before, List.replicate n false)
  (List.range n).map fun p =>
    mkPage (pageRows (res.map Prod.fst) p) (List.replicate 64 plainTag) noType noType
      (res.any (fun x => x.2.getD p false))

/-- The bytes of the load that retires now: those its copy engine has read, or read here, after the older stores that
overlap (R208). -/
def State.loadNow (s : State) (base : Word) (g : Geom) (indexed : Bool) (hint : Hint) (rows : List (List (Word × Nat × Nat))) :
    State × List (List (Byte × Bool)) :=
  match s.cur.early.bind Early.data with
  | some data => (s, data)
  | none =>
    let s1 := ((s.rowCache .read rows).awaitStores (s.spanNow base g indexed .read rows)).readPieces hint rows.flatten
    (s1, s1.readRows rows)

/-- TLD and TLDX. -/
def State.tileLoad (s : State) (d : TGrp) (a : SReg) (b : GReg) (index : Option TReg) (hint : Hint) :
    Host.Outcome State Fault Refusal :=
  let g := s.geom b
  let n := TGrp.n d
  let s := s.rowWalks (s.rd a) g n index
  s.finish (do
    trapIf (!g.valid n) .illegal 0
    let old ← if !g.zf && !g.whole n then s.readGroup d else pure []
    let ix ← s.readIndex index
    let rows ← s.rowsNow (s.rd a) g ix .read true false
    let (s1, data) := s.loadNow (s.rd a) g index.isSome hint rows
    return (s1.writeGroup d (loadPages g n old data)).next 8)

def execTld (d : TGrp) (a : SReg) (b : GReg) (h : Hint) (s : State) : Host.Outcome State Fault Refusal :=
  s.tileLoad d a b none h
def execTldx (d : TGrp) (a : SReg) (b : GReg) (c : TReg) (h : Hint) (s : State) : Host.Outcome State Fault Refusal :=
  s.tileLoad d a b (some c) h

/-! ### Stores (R303) -/

/-- The stores of one row, piece by piece. -/
def rowStores (bytes : List Byte) : List (Word × Nat × Nat) → List (Word × Nat × List Byte)
  | [] => []
  | x :: rest => (x.1, x.2.1, bytes.take x.2.2) :: rowStores (bytes.drop x.2.2) rest

/-- The first k bytes of row r of a group. -/
def groupBytes (g : List Page) (r k : Nat) : List Byte := bytesOf k (groupRow g r)

/-- TST and TSTX: rows in ascending order, so that a higher row's bytes remain. -/
def State.tileStore (s : State) (src : TGrp) (a : SReg) (b : GReg) (index : Option TReg) (hint : Hint) :
    Host.Outcome State Fault Refusal :=
  let g := s.geom b
  let s := s.rowWalks (s.rd a) g (TGrp.n src) index
  s.finish (do
    trapIf (!g.valid (TGrp.n src)) .illegal 0
    let data ← s.readGroup src
    let ix ← s.readIndex index
    let rows ← s.rowsNow (s.rd a) g ix .write false true
    let all := ((List.range rows.length).zip rows).flatMap (fun x => rowStores (groupBytes data x.1 g.bytes) x.2)
    let span := s.spanNow (s.rd a) g index.isSome .write rows
    let op := s.cur.nextOp
    return (all.foldl (fun t x => t.queueStore x.1 x.2.1 x.2.2 true op span hint) (s.rowCache .write rows)).next 8)

def execTst (a : SReg) (b : GReg) (c : TGrp) (h : Hint) (s : State) : Host.Outcome State Fault Refusal :=
  s.tileStore c a b none h
def execTstx (d : TGrp) (a : SReg) (b : GReg) (c : TReg) (h : Hint) (s : State) : Host.Outcome State Fault Refusal :=
  s.tileStore d a b (some c) h

/-! ### TPF (R305) -/

/-- The pieces of a TPF: one whose translation is cached is brought in now; the others wait for the walks of their pages, which
join the quad's in order; 64 of them are pending, later ones wait for a place (14_translation.md R383). An access that
translates reaches its slice (05_processes.md R144). -/
def State.askWalks (s : State) (hint : Hint) (l : List (Word × Nat)) : State :=
  l.foldl (fun s x =>
    let c := s.curCore
    let q := s.quadOf c
    let page := x.1.toNat / 65536
    let mine := fun (w : Walk) => w.part == s.cur.part && w.page == page
    let row : Prefetch := { va := x.1, n := x.2, sup := s.cur.sup, hint := hint }
    let s1 := match s.xlate c s.curPart s.cur.sup x.1 x.2 .read with
      | .error _ => s
      | .ok r => s.noteReach r.pa
    match s1.cachedLeaf c s1.curPart x.1 with
    | some e => s1.prefetch s1.curPart e.level e.leaf row
    | none =>
      if (s1.quad q).walks.any mine then
        s1.updQuad q (fun k => { k with walks := k.walks.map (fun w => if mine w then { w with rows := w.rows ++ [row] } else w) })
      else s1.updQuad q (fun k => { k with
        walks := k.walks ++ [{ part := s1.cur.part, page := page, sup := s1.cur.sup, va := x.1, n := x.2, rows := [row] }] })) s

/-- TPF raises ILLEGAL for its geometry and nothing else. -/
def execTpf (a : SReg) (b : GReg) (h : Hint) (s : State) : Host.Outcome State Fault Refusal :=
  let g := s.geom b
  let base := s.rd a
  s.finish (do
    trapIf (!g.valid 8) .illegal 0
    let offs := rowOffsets g none
    let addrs := rowAddrs base offs
    match rowAlign base g none offs, rowLimits g.bytes addrs with
    | .ok (), .ok () =>
      return (s.askWalks h (addrs.flatMap (fun va => pieces va g.bytes))).next 8
    | _, _ => return s.next 8)

/-! ### TRED (R304) -/

/-- The elements of a row: physical addresses and addends. -/
def rowAddends (ti : Ty) (vals : List Nat) : List (Word × Nat × Nat) → List (Nat × Nat)
  | [] => []
  | x :: rest =>
    let z := ti.bits / 8
    let k := x.2.2 / z
    ((List.range k).zip vals).map (fun y => (x.2.1 + z * y.1, y.2)) ++ rowAddends ti (vals.drop k) rest

/-- The keys of a row's elements. -/
def State.rowKeys (s : State) (ti : Ty) (l : List (Word × Nat × Nat)) : List (Option Nat) :=
  l.flatMap (fun x => List.replicate (x.2.2 / (ti.bits / 8)) (s.keyAt s.curCore s.curPart x.1))

/-- The rows of a TRED as its request holds them. -/
def State.tredRows (s : State) (ti : Ty) (data : List Page) (g : Geom) (addrs : List Word) (rows : List (List (Word × Nat × Nat))) :
    List TredRow :=
  ((List.range rows.length).zip (addrs.zip rows)).map fun x =>
    { row := x.1, va := x.2.1
      elems := rowAddends ti (splitRow ti.bits (g.bytes / (ti.bits / 8)) (groupRow data x.1)) x.2.2
      keys := s.rowKeys ti x.2.2 }

/-- TRED waits for an empty latch, then its rows go to their homes. -/
def execTred (a : SReg) (b : GReg) (c : TGrp) (ti : Ty) (h : Hint) (s : State) : Host.Outcome State Fault Refusal :=
  let g := s.geom b
  let base := s.rd a
  let s := s.rowWalks base g (TGrp.n c) none
  s.finish (do
    trapIf (!g.valid (TGrp.n c) || g.bytes % (ti.bits / 8) != 0) .illegal 0
    let data ← s.readGroup c
    let rows ← s.rowsNow base g none .modify true true
    if s.cur.latch.sent then return s
    let s1 := rows.flatten.foldl (fun s x => s.noteReach x.2.1) (s.rowCache .modify rows)
    let span := s.spanNow base g false .modify rows
    return (s1.sendAtomic 3 base (.tred ti (s1.tredRows ti data g (rowAddrs base (rowOffsets g none)) rows) span h)).next 8)

/-! ### SPLD and SPST (10_scratchpad.md R278) -/

/-- The page numbers of n pages from an address. -/
def spPages (x : Word) (n : Nat) : List Nat := List.range' (spPage x) n

/-- The checks of each page in order. -/
def State.spChecks (s : State) (store : Bool) : List Nat → Except Halt (State × List Word)
  | [] => .ok (s, [])
  | v :: rest =>
    match s.sttGet s.cur.pid v with
    | .error h => .error h
    | .ok (s1, e) =>
      let x := BitVec.ofNat 64 (v * 4096)
      if sttState e = 0 then .error (.trap (.at .spfault x))
      else if !(if store then sttW e else sttR e) then .error (.trap (.at .spprot x))
      else (s1.spChecks store rest).map (fun r => (r.1, e :: r.2))

/-- The checks of SPLD and SPST on the address: MISALIGN, then the end of the space, with S[A] as the faulting address
(log 58). -/
def spGroupAddr (x : Word) (n : Nat) : Except Halt Unit := do
  trapIf (!aligned x 4096) .misalign x
  trapIf ((x + BitVec.ofNat 64 (4096 * n - 1)).toNat / 2 ^ 24 != 0 || x.toNat / 2 ^ 24 != 0) .spfault x

/-- The page a SPLD of a poisoned entry delivers. -/
def poisonedPage : Page := { zeroPage with poison := true }

/-- References of SPLD: the resident copies, or a poisoned page of its own. -/
def State.spRefs (s : State) : List (Nat × Nat × Word) → List TRef → State × List TRef
  | [], done => (s, done)
  | (i, v, e) :: rest, done =>
    if sttState e = 4 ∨ sttState e = 5 then
      let r := s.freshPages s.cur [poisonedPage]
      r.1.spRefs rest (done ++ r.2)
    else match s.cur.resident? v with
      | some id =>
        let r := (s.touchPage id).shareRefs [(i, .pool id)] done
        r.1.spRefs rest r.2
      | none => s.spRefs rest (done ++ [.zero])

def execSpld (d : TGrp) (a : SReg) (s : State) : Host.Outcome State Fault Refusal :=
  let x := s.rd a
  let vs := spPages x (TGrp.n d)
  s.finish (do
    spGroupAddr x (TGrp.n d)
    let (s1, es) ← s.spChecks false vs
    match (vs.zip es).find? (fun p => sttState p.2 == 1) with
    | some p => .error (.stall (.pageIn p.1))
    | none =>
      let r := s1.spRefs ((List.range (TGrp.n d)).zip (vs.zip es)) []
      return (r.1.mapGroup r.1.cur.pid d r.2).next 8)

/-- A reference as a pool page: a register that names none yet gets a page of its own. -/
def State.poolRef (s : State) (k : Nat) : State × Nat :=
  match s.cur.tref k with
  | .pool id => (s, id)
  | t =>
    match s.freshPages s.cur [s.refPage t] with
    | (u, [.pool id]) =>
      ({ u with cur := { u.cur with t := setRefs u.cur.t k [.pool id] } }, id)
    | (u, _) => (u, 0)

/-- One page of SPST: the entry names the register's page; a 16th reference takes a copy (R197). -/
def State.spstPage (s : State) (i v k : Nat) (e : Word) : Except Halt State :=
  let s0 := s.dropCopy s.cur.pid v
  let (s1, id) := s0.poolRef k
  let (s2, id2) :=
    if s1.copies i id 0 then
      match (s1.settlePage id).freshPages s1.cur [(s1.settlePage id).pageOf id] with
      | (u, [.pool i]) => (u, i)
      | (u, _) => (u, id)
    else (s1, id)
  let s3 := { s2.touchPage id2 with cur := { s2.cur with spDir := dirSet v (some id2) s2.cur.spDir } }
  let st := if sttState e = 1 ∨ sttState e = 3 ∨ sttState e = 5 then 3 else 2
  s3.sttPut s3.cur.pid v (sttEntry (sttBacking e) (sttSaved e) true (sttR e) (sttW e) st)

/-- Every page of SPST. -/
def State.spstAll (s : State) : List (Nat × Nat × Nat × Word) → Except Halt State
  | [] => .ok s
  | (i, v, k, e) :: rest =>
    match s.spstPage i v k e with
    | .error h => .error h
    | .ok t => t.spstAll rest

def execSpst (a : SReg) (c : TGrp) (s : State) : Host.Outcome State Fault Refusal :=
  let x := s.rd a
  let vs := spPages x (TGrp.n c)
  s.finish (do
    spGroupAddr x (TGrp.n c)
    let (s1, es) ← s.spChecks true vs
    let s2 ← s1.spstAll ((List.range (TGrp.n c)).zip (vs.zip ((TGrp.regs c).zip es)))
    return s2.next 8)

end Sys2Proof.Machine
end

