-- ==== Sys2Proof/Machine/TileMove.lean ====
section
/-! DEFINITION. The TMOVE forms (07_tiles.md R211-R213). -/

namespace Sys2Proof.Machine

/-- Registers of a group map the pages of another by reference (R196, R197). -/
def State.shareGroup (s : State) (d a : TGrp) : State :=
  let r := s.shareRefs (s.cur.groupRefs a) []
  r.1.mapGroup s.cur.pid d r.2

def execTmov (d a : TGrp) (s : State) : Host.Outcome State Fault Refusal := .next ((s.shareGroup d a).next 8)

def execTzero (d : TGrp) (s : State) : Host.Outcome State Fault Refusal :=
  .next ((s.writeGroup d (List.replicate (TGrp.n d) zeroPage)).next 8)

/-- Every element of a group holds an encoding. -/
def fillPages (ti : Ty) (n v : Nat) : List Page :=
  typedPages ti n (List.replicate 64 (packRow ti.bits (List.replicate (elemsPerRow ti n) v)))

def execTfill (d : TGrp) (b : SReg) (ti : Ty) (s : State) : Host.Outcome State Fault Refusal :=
  .next ((s.writeGroup d (fillPages ti (TGrp.n d) (scalarElem ti (s.rd b)))).next 8)

/-- An element's encoding in a scalar register: I types extend the sign. -/
def scalarOfElem (t : Ty) (x : Nat) : Word :=
  if t = .i32 ∨ t = .i16 ∨ t = .i8 ∨ t = .i4 then BitVec.ofInt 64 (elemValue t x).toInt else BitVec.ofNat 64 x

/-- The page of a group that holds a column. -/
def pageOfCol (t : Ty) (col : Nat) : Nat := col / elemsPerRow t 1

/-- TGET. -/
def execTget (d : SReg) (a : TGrp) (b c : SReg) (ti : Ty) (s : State) : Host.Outcome State Fault Refusal :=
  let row := (s.rd b).toNat
  let col := (s.rd c).toNat
  let g := s.group a
  s.finish (do
    trapIf (decide (63 < row) || decide (elemsPerRow ti (TGrp.n a) ≤ col)) .illegal 0
    trapIf ((g.getD (pageOfCol ti col) zeroPage).poison) .poison 0
    return s.put d (scalarOfElem ti (elemAt ti g row col)) 8)

/-- A page with one element replaced, scale slots kept, flags exact under the type (R83). -/
def pageWithElem (ti : Ty) (q : Page) (row col v : Nat) : Page :=
  let old := pageRow q row
  let e := elemAt ti [q] row col
  let new := old - e * 2 ^ (ti.bits * col) + v * 2 ^ (ti.bits * col)
  let rows := (List.range 64).map (fun r => if r = row then new else pageRow q r)
  let tags := (List.range 64).map (fun r =>
    let x := exactTag ti (if r = row then new else pageRow q r)
    { pageTag q r with zero := x.zero, nonfin := x.nonfin ||| nanScales ti (pageTag q r) })
  mkPage rows tags ti.code ti.code false

/-- TINS: the pages of A shared, but for the one that holds the element, which is a fresh copy. -/
def execTins (d a : TGrp) (b c : SReg) (ti : Ty) (s : State) : Host.Outcome State Fault Refusal :=
  let n := elemsPerRow ti (TGrp.n a)
  let i := (s.rd c).toNat
  let k := pageOfCol ti (i % n)
  let q := (s.group a).getD k zeroPage
  s.finish (do
    trapIf (decide (64 * n ≤ i)) .illegal 0
    trapIf q.poison .poison 0
    let pg := pageWithElem ti q (i / n) (i % n % elemsPerRow ti 1) (scalarElem ti (s.rd b))
    let r := s.shareRefs ((s.cur.groupRefs a).eraseIdx k) []
    let f := r.1.freshPages r.1.cur [pg]
    return (f.1.mapGroup s.cur.pid d (r.2.take k ++ f.2 ++ r.2.drop k)).next 8)

/-- An index as an element: integers wrap, floats round to nearest even and saturate (R212). -/
def indexElem (ti : Ty) (k : Nat) : Nat :=
  if ti.isFloat then (roundFloat ti .rne true (Exact.int k)).1 else k % 2 ^ ti.bits

def execTiota (d : TGrp) (ti : Ty) (col : Bool) (s : State) : Host.Outcome State Fault Refusal :=
  let n := elemsPerRow ti (TGrp.n d)
  let rows := (List.range 64).map fun r =>
    packRow ti.bits ((List.range n).map (fun c => indexElem ti (if col then c else r)))
  .next ((s.writeGroup d (typedPages ti (TGrp.n d) rows)).next 8)

end Sys2Proof.Machine
end

