-- ==== Sys2Proof/Machine/Mat.lean ====
section
/-! DEFINITION. What the matrix engine computes (08_matrix.md R215-R228): the accumulator after an instruction of the MMA
family. Zero skipping changes no result (R228) and has no place here. -/

namespace Sys2Proof.Machine

/-- The blocks of 32 elements of one page row, decoded (R82, R218). -/
def passBlocks (t : Ty) (row : Nat) : List (List Exact) :=
  (List.range t.blocks).map (fun b => (blockElems t row b).map (elemValue t))

/-- The products of two blocks. -/
def blockProducts (a b : List Exact) : List Exact := List.zipWith Exact.mul a b

/-- The terms of one pass: in a scaled form each block's exact sum times the scales of its two blocks (R99, R218); else
every product, a term of the pass's one sum (R98, log 18). -/
def passTerms (scaled : Bool) (sa sb : List Exact) (a b : List (List Exact)) : List Exact :=
  let prods := List.zipWith blockProducts a b
  if scaled then List.zipWith (fun s q => s.mul q) (List.zipWith Exact.mul sa sb) (prods.map exactSum)
  else prods.flatten

/-- One pass of one output (R216, R220, R221); acc is none where no accumulator is read (R219). -/
def passResult (out : Ty) (rnd : Rnd) (sat : Bool) (acc : Option Exact) (terms : List Exact) : Nat × Flags :=
  let all := match acc with | some c => c :: terms | none => terms
  if out.isFloat then roundFloat out rnd sat (exactSum all)
  else intToInt out sat ((all.map Exact.toInt).foldl (· + ·) 0)

/-- The passes of one output in K order; each reads what the one before delivered. -/
def passes (out : Ty) (rnd : Rnd) (sat : Bool) : Option Exact → List (List Exact) → Nat × Flags → Nat × Flags
  | _, [], r => r
  | acc, terms :: rest, r =>
    let x := passResult out rnd sat acc terms
    passes out rnd sat (some (elemValue out x.1)) rest (x.1, r.2.or x.2)

/-- What one row of an operand brings: for each page its blocks and their scales. -/
def operandRow (t : Ty) (g : List Page) (r : Nat) : List (List (List Exact) × List Exact) :=
  g.map fun p =>
    (passBlocks t (pageRow p r), (List.range t.blocks).map (fun j => scale9 (scaleAt [p] t.blocks r j)))

/-- One output of an instruction. -/
def mmaElem (x : MmaOp) (scaled : Bool) (acc : Option Exact) (a b : List (List (List Exact) × List Exact)) :
    Nat × Flags :=
  passes x.out (if x.rtz then .rtz else .rne) x.sat acc
    (List.zipWith (fun p q => passTerms scaled p.2 q.2 p.1 q.1) a b) (0, Flags.none)

/-- The product: D(m, n) from row m of A and row n of B (R215). -/
def mmaPages (x : MmaOp) (scaled : Bool) (acc : Option (List Page)) (a b : List Page) : List Page × Flags :=
  let as := (List.range 64).map (operandRow x.ta a)
  let bs := (List.range 64).map (operandRow x.tb b)
  let rows := ((List.range 64).zip as).map fun p =>
    let c := match acc with
      | some g => (rowElems x.out 4 (groupRow g p.1)).map (fun e => some (elemValue x.out e))
      | none => List.replicate 64 none
    resultRow x.out (List.zipWith (fun q b => mmaElem x scaled q p.2 b) c bs)
  resultPages x.out 4 rows

end Sys2Proof.Machine
end

