-- ==== Sys2Proof/Machine/Matrix.lean ====
section
/-! DEFINITION. How a tile instruction ends, and the MMA family (08_matrix.md R222-R226). -/

namespace Sys2Proof.Machine

/-- A 64-bit tile instruction writes fresh pages to a group, joins its flags and retires (07_tiles.md R195, R97). -/
def State.putTile (s : State) (d : TGrp) (r : List Page × Flags) : State := ((s.writeGroup d r.1).joinT r.2).next 8

/-- The accumulator quad of a register. -/
def quadAt (r : TReg) : TGrp := { base := r, w := 2 }

/-- An instruction of the family: POISON over every page it reads. -/
def State.matrix (s : State) (x : MmaOp) (scaled readAcc : Bool) : Host.Outcome State Fault Refusal :=
  s.finish (do
    let a ← s.readGroup x.a
    let b ← s.readGroup x.b
    let c ← if readAcc then (s.readGroup (quadAt x.d)).map some else pure none
    return s.putTile (quadAt x.d) (mmaPages x scaled c a b))

def execMma (x : MmaOp) (s : State) : Host.Outcome State Fault Refusal := s.matrix x false true
def execMmz (x : MmaOp) (s : State) : Host.Outcome State Fault Refusal := s.matrix x false false
def execMmas (x : MmaOp) (s : State) : Host.Outcome State Fault Refusal := s.matrix x true true
def execMmzs (x : MmaOp) (s : State) : Host.Outcome State Fault Refusal := s.matrix x true false

end Sys2Proof.Machine
end

