-- ==== Sys2Proof/Machine/Vector.lean ====
section
/-! DEFINITION. The vector instructions (09_vector.md R233-R257): each reads its groups, takes POISON for a poisoned page,
and writes what Vec.lean computes. -/

namespace Sys2Proof.Machine

/-- Forms of one, two and three tile sources. -/
def State.vec1 (s : State) (d a : TGrp) (f : List Page → List Page × Flags) : Host.Outcome State Fault Refusal :=
  s.finish (do
    let x ← s.readGroup a
    return s.putTile d (f x))

def State.vec2 (s : State) (d a b : TGrp) (f : List Page → List Page → List Page × Flags) :
    Host.Outcome State Fault Refusal :=
  s.finish (do
    let x ← s.readGroup a
    let y ← s.readGroup b
    return s.putTile d (f x y))

def State.vec3 (s : State) (d a b c : TGrp) (f : List Page → List Page → List Page → List Page × Flags) :
    Host.Outcome State Fault Refusal :=
  s.finish (do
    let x ← s.readGroup a
    let y ← s.readGroup b
    let z ← s.readGroup c
    return s.putTile d (f x y z))

/-- A single register as a group. -/
def single (r : TReg) : TGrp := { base := r, w := 0 }

/-- Pages without flags of their own. -/
def quiet (l : List Page) : List Page × Flags := (l, Flags.none)

/-! ### VARITH (R239-R242) -/

def execVadd (x : V3) (s : State) : Host.Outcome State Fault Refusal := s.vec2 x.d x.a x.b (vecTwo fnAdd x)
def execVsub (x : V3) (s : State) : Host.Outcome State Fault Refusal := s.vec2 x.d x.a x.b (vecTwo fnSub x)
def execVmul (x : V3) (s : State) : Host.Outcome State Fault Refusal := s.vec2 x.d x.a x.b (vecTwo fnMul x)
def execVfma (x : V4) (s : State) : Host.Outcome State Fault Refusal := s.vec3 x.d x.a x.b x.c (vecThree fnFma x)
def execVfms (x : V4) (s : State) : Host.Outcome State Fault Refusal := s.vec3 x.d x.a x.b x.c (vecThree fnFms x)
def execVmin (x : V3) (s : State) : Host.Outcome State Fault Refusal := s.vec2 x.d x.a x.b (vecTwo fnMin x)
def execVmax (x : V3) (s : State) : Host.Outcome State Fault Refusal := s.vec2 x.d x.a x.b (vecTwo fnMax x)
def execVdiv (x : V3) (s : State) : Host.Outcome State Fault Refusal := s.vec2 x.d x.a x.b (vecTwo fnDiv x)
def execVadds (x : VS) (s : State) : Host.Outcome State Fault Refusal :=
  s.vec1 x.d x.a (fun a => vecScalar fnAdd x a (s.rd x.b))
def execVmuls (x : VS) (s : State) : Host.Outcome State Fault Refusal :=
  s.vec1 x.d x.a (fun a => vecScalar fnMul x a (s.rd x.b))
def execVfmas (x : VS3) (s : State) : Host.Outcome State Fault Refusal :=
  s.vec2 x.d x.a x.c (fun a c => vecScalarAdd fnFma x a (s.rd x.b) c)
def execVcmp (d a b : TGrp) (ti : Ty) (cond : Cond) (s : State) : Host.Outcome State Fault Refusal :=
  s.vec2 d a b (vecCompare ti cond (TGrp.n d) (TGrp.n a))
def execVsel (d a b c : TGrp) (ti : Ty) (s : State) : Host.Outcome State Fault Refusal :=
  s.vec3 d a b c (fun x y z => quiet (vecSelect ti (TGrp.n d) (TGrp.n c) x y z))
def execVclmp (x : V4) (s : State) : Host.Outcome State Fault Refusal := s.vec3 x.d x.a x.b x.c (vecThree fnClamp x)

/-! ### VUNARY (R243) -/

def execVabs (x : V2) (s : State) : Host.Outcome State Fault Refusal := s.vec1 x.d x.a (vecSign fnAbs (fun _ => 0) x)
def execVneg (x : V2) (s : State) : Host.Outcome State Fault Refusal :=
  s.vec1 x.d x.a (vecSign fnNeg (fun b => 1 - b) x)
def execVexp2 (x : V2) (s : State) : Host.Outcome State Fault Refusal := s.vec1 x.d x.a (vecTranscend Exact.exp2 x)
def execVlog2 (x : V2) (s : State) : Host.Outcome State Fault Refusal := s.vec1 x.d x.a (vecTranscend Exact.log2 x)
def execVrcp (x : V2) (s : State) : Host.Outcome State Fault Refusal := s.vec1 x.d x.a (vecTranscend Exact.recip x)
def execVrsq (x : V2) (s : State) : Host.Outcome State Fault Refusal := s.vec1 x.d x.a (vecTranscend Exact.rsqrt x)
def execVsqrt (x : V2) (s : State) : Host.Outcome State Fault Refusal := s.vec1 x.d x.a (vecTranscend Exact.sqrt x)
def execVtanh (x : V2) (s : State) : Host.Outcome State Fault Refusal := s.vec1 x.d x.a (vecTranscend Exact.tanh x)
def execVsigm (x : V2) (s : State) : Host.Outcome State Fault Refusal := s.vec1 x.d x.a (vecTranscend Exact.sigmoid x)
def execVerf (x : V2) (s : State) : Host.Outcome State Fault Refusal := s.vec1 x.d x.a (vecTranscend Exact.erf x)

/-! ### VCONV (R244-R246) -/

def execVcvt (x : V2) (s : State) : Host.Outcome State Fault Refusal := s.vec1 x.d x.a (vecConvert x)

/-- VQNT: modes 2 and 3 read a page of scales as well. -/
def execVqnt (x : V2) (mode : QMode) (s : State) : Host.Outcome State Fault Refusal :=
  match mode with
  | .block => s.vec1 x.d x.a (fun a => vecQuantise x .block a [])
  | .row => s.vec1 x.d x.a (fun a => vecQuantise x .row a [])
  | .givenRow c => s.vec2 x.d x.a (single c) (vecQuantise x (.givenRow c))
  | .givenBlock c => s.vec2 x.d x.a (single c) (vecQuantise x (.givenBlock c))

def execVdqn (x : V2) (s : State) : Host.Outcome State Fault Refusal := s.vec1 x.d x.a (vecDequantise x)

/-! ### VRED (R247-R250) -/

def execVrmax (x : V2) (s : State) : Host.Outcome State Fault Refusal := s.vec1 x.d x.a (vecRowReduce redMax x)
def execVrmin (x : V2) (s : State) : Host.Outcome State Fault Refusal := s.vec1 x.d x.a (vecRowReduce redMin x)
def execVrsum (x : V2) (s : State) : Host.Outcome State Fault Refusal := s.vec1 x.d x.a (vecRowReduce redSum x)
def execVramax (x : V2) (s : State) : Host.Outcome State Fault Refusal := s.vec1 x.d x.a (vecRowReduce redAbsMax x)
def execVrssq (x : V2) (s : State) : Host.Outcome State Fault Refusal := s.vec1 x.d x.a (vecRowReduce redSquares x)
def execVcmax (x : V2) (s : State) : Host.Outcome State Fault Refusal := s.vec1 x.d x.a (vecColReduce redMax x)
def execVcsum (x : V2) (s : State) : Host.Outcome State Fault Refusal := s.vec1 x.d x.a (vecColReduce redSum x)
def execVrmrg (d a b : TReg) (s : State) : Host.Outcome State Fault Refusal :=
  s.vec2 (single d) (single a) (single b) vecMerge
def execVbrow (x : V2) (s : State) : Host.Outcome State Fault Refusal := s.vec1 x.d x.a (vecRowSpread x)
def execVbcol (x : V2) (s : State) : Host.Outcome State Fault Refusal := s.vec1 x.d x.a (vecColSpread x)

/-! ### VPERM (R251-R253) -/

def execVtrn (d a : TGrp) (ti : Ty) (s : State) : Host.Outcome State Fault Refusal :=
  s.vec1 d a (fun x => quiet (vecTranspose ti (TGrp.n a) x))
def execVrotr (d a : TGrp) (k : Count) (s : State) : Host.Outcome State Fault Refusal :=
  s.vec1 d a (fun x => quiet (vecRotateRows (Count.value k s.cur.s) x))
def execVrotc (d a : TGrp) (ti : Ty) (k : Count) (s : State) : Host.Outcome State Fault Refusal :=
  s.vec1 d a (fun x => quiet (vecRotateCols ti (TGrp.n a) (Count.value k s.cur.s) x))

/-- VPERMR: an index outside 0 to 63 takes ILLEGAL after POISON. -/
def execVpermr (d a : TGrp) (c : TReg) (s : State) : Host.Outcome State Fault Refusal :=
  s.finish (do
    let x ← s.readGroup a
    let i ← s.readGroup (single c)
    trapIf (!permOk (permIndices i)) .illegal 0
    return s.putTile d (quiet (vecPermuteRows i x)))

def execVbrot (d a : TGrp) (k : Count) (s : State) : Host.Outcome State Fault Refusal :=
  s.vec1 d a (fun x => quiet (vecRotateBits (TGrp.n a) (Count.valueInt k s.cur.s) x))

/-! ### VLOGIC (R254-R257) -/

def execVand (d a b : TGrp) (s : State) : Host.Outcome State Fault Refusal :=
  s.vec2 d a b (fun x y => quiet (vecBits2 (· &&& ·) (TGrp.n a) x y))
def execVor (d a b : TGrp) (s : State) : Host.Outcome State Fault Refusal :=
  s.vec2 d a b (fun x y => quiet (vecBits2 (· ||| ·) (TGrp.n a) x y))
def execVxor (d a b : TGrp) (s : State) : Host.Outcome State Fault Refusal :=
  s.vec2 d a b (fun x y => quiet (vecBits2 (· ^^^ ·) (TGrp.n a) x y))
def execVnot (d a : TGrp) (s : State) : Host.Outcome State Fault Refusal := s.vec1 d a (fun x => quiet (vecNot (TGrp.n a) x))
def execVbmap (d a b c : TGrp) (table : BitVec 8) (s : State) : Host.Outcome State Fault Refusal :=
  s.vec3 d a b c (fun x y z => quiet (vecBitMap table (TGrp.n a) x y z))
def execVshl (d a : TGrp) (ti : Ty) (k : Count) (s : State) : Host.Outcome State Fault Refusal :=
  s.vec1 d a (fun x => quiet (vecShift shiftLeft ti (TGrp.n a) (Count.value k s.cur.s) x))
def execVshr (d a : TGrp) (ti : Ty) (k : Count) (s : State) : Host.Outcome State Fault Refusal :=
  s.vec1 d a (fun x => quiet (vecShift shiftRight ti (TGrp.n a) (Count.value k s.cur.s) x))
def execVsra (d a : TGrp) (ti : Ty) (k : Count) (s : State) : Host.Outcome State Fault Refusal :=
  s.vec1 d a (fun x => quiet (vecShift shiftArith ti (TGrp.n a) (Count.value k s.cur.s) x))
def execVfshl (d a b : TGrp) (k : Count) (s : State) : Host.Outcome State Fault Refusal :=
  s.vec2 d a b (fun x y => quiet (vecFunnelLeft (TGrp.n a) (Count.value k s.cur.s) x y))
def execVfshr (d a b : TGrp) (k : Count) (s : State) : Host.Outcome State Fault Refusal :=
  s.vec2 d a b (fun x y => quiet (vecFunnelRight (TGrp.n a) (Count.value k s.cur.s) x y))
def execVpopc (d a : TGrp) (ti out : Ty) (s : State) : Host.Outcome State Fault Refusal :=
  s.vec1 d a (fun x => quiet (vecPopCount ti out (TGrp.n d) (TGrp.n a) x))

end Sys2Proof.Machine
end

