-- ==== Sys2Proof/Machine/Issue.lean ====
section
/-! DEFINITION. Which context issues (05_processes.md R129, R130), what may retire while the retry latch holds a request
(11_memory.md R308, R313) and the tile engines (07_tiles.md R203-R206). -/

namespace Sys2Proof.Machine

/-! ### Engines (R204) -/

/-- The place of an engine's rotation, and how many of it a core has (R205). -/
def Engine.index : Engine → Fin 4
  | .matrix => 0 | .vector => 1 | .copy => 2 | .channel => 3
def Engine.count : Engine → Nat
  | .matrix => 1 | .vector => 2 | .copy => 2 | .channel => 1

/-- The engine of an instruction; none for scalar forms and for TMOV, SPLD, SPST, which complete at rename. -/
def engineOf : Instr → Option Engine
  | .mma _ | .mmz _ | .mmas _ | .mmzs _ => some .matrix
  | .vadd _ | .vsub _ | .vmul _ | .vfma _ | .vfms _ | .vmin _ | .vmax _ | .vdiv _ | .vadds _ | .vmuls _ | .vfmas _
  | .vcmp _ _ _ _ _ | .vsel _ _ _ _ _ | .vclmp _ | .vabs _ | .vneg _ | .vexp2 _ | .vlog2 _ | .vrcp _ | .vrsq _
  | .vsqrt _ | .vtanh _ | .vsigm _ | .verf _ | .vcvt _ | .vqnt _ _ | .vdqn _ | .vrmax _ | .vrmin _ | .vrsum _
  | .vramax _ | .vrssq _ | .vcmax _ | .vcsum _ | .vrmrg _ _ _ | .vbrow _ | .vbcol _ | .vtrn _ _ _ | .vrotr _ _ _
  | .vrotc _ _ _ _ | .vpermr _ _ _ | .vbrot _ _ _ | .vand _ _ _ | .vor _ _ _ | .vxor _ _ _ | .vnot _ _
  | .vbmap _ _ _ _ _ | .vshl _ _ _ _ | .vshr _ _ _ _ | .vsra _ _ _ _ | .vfshl _ _ _ _ | .vfshr _ _ _ _
  | .vpopc _ _ _ _ | .tzero _ | .tfill _ _ _ | .tget _ _ _ _ _ | .tins _ _ _ _ _ | .tiota _ _ _ => some .vector
  | .tld _ _ _ _ | .tst _ _ _ _ | .tldx _ _ _ _ _ | .tstx _ _ _ _ _ | .tpf _ _ _ | .tred _ _ _ _ _ => some .copy
  | .sendt _ _ | .recvt _ _ | .txmax _ _ _ _ | .txsum _ _ _ _ | .txmrg _ _ _ => some .channel
  | _ => none

/-! ### Younger instructions of a context whose request is out (11_memory.md R308, R313, log 8) -/

/-- The S registers that a form reads or writes, for the forms that may retire while an older request of their context is
out; none for the forms that wait for the latch or release. -/
def besideLatch : Instr → Option (List SReg)
  | .add d a b | .sub d a b | .mul d a b | .mulh d a b | .mulhn d a b | .div d a b | .divn d a b | .rem d a b
  | .remn d a b | .and d a b | .or d a b | .xor d a b | .andn d a b | .orn d a b | .xnor d a b | .shl d a b
  | .shr d a b | .sra d a b | .rol d a b | .ror d a b | .min d a b | .max d a b | .minn d a b | .maxn d a b
  | .slt d a b | .sltn d a b | .seq d a b | .sne d a b | .fadd d a b | .fsub d a b | .fmul d a b | .fdiv d a b
  | .fmin d a b | .fmax d a b | .feq d a b | .flt d a b | .fle d a b => some [d, a, b]
  | .clz d a | .ctz d a | .popc d a | .brev d a | .sextb d a | .sexth d a | .sextw d a | .zextb d a | .zexth d a
  | .zextw d a | .fsqrt d a | .fabs d a | .fneg d a | .fclass d a | .fcvtif d a | .fcvtnf d a | .fcvtfi d a
  | .fcvtfn d a => some [d, a]
  | .addi d a _ | .andi d a _ | .ori d a _ | .xori d a _ | .slti d a _ | .sltni d a _ | .muli d a _ | .shli d a _
  | .shri d a _ | .srai d a _ | .rori d a _ | .addl d a _ | .bfx d a _ _ | .bfi d a _ _ | .jalr d a _
  | .ld d a _ _ | .st d a _ _ | .pld d a _ _ | .pst d a _ _ => some [d, a]
  | .lih d _ | .pcadd d _ | .li d _ | .lihL d _ | .jal d _ | .pid d | .lcore d | .gprio d | .cycle d | .part d
  | .mfsr d _ => some [d]
  | .bmap d a b c _ | .fshl d a b c | .fshr d a b c | .fma d a b c | .fms d a b c | .fnma d a b c
  | .csel d a b c => some [d, a, b, c]
  | .beq a b _ | .bne a b _ | .blt a b _ | .bge a b _ | .bltn a b _ | .bgen a b _ | .gset _ a b => some [a, b]
  | .loop a _ | .exit a | .sprio a => some [a]
  | .mtsr n a => if n.toNat = 0x110 then none else some [a]
  | .yield | .nop | .halt | .brk | .trap _ => some []
  | _ => none

/-- Whether the byte interval of the request in a latch meets a physical range. -/
def Latch.touches (l : Latch) (pa n : Nat) : Bool := spansMeet l.req.span [(pa, n)]

/-- Whether a scalar access of the executing context overlaps its older request, by physical address (07_tiles.md R207,
R208). -/
def State.accessWaits (s : State) (a : SReg) (sz : Size) (off : BitVec 12) : Bool :=
  let x := s.effAddr a off
  match s.xlate s.curCore s.curPart s.cur.sup x (Size.bytes sz) .read, s.xlate s.curCore s.curPart s.cur.sup x (Size.bytes sz) .write with
  | .ok r, _ => s.cur.latch.touches r.pa (Size.bytes sz)
  | _, .ok r => s.cur.latch.touches r.pa (Size.bytes sz)
  | _, _ => false

/-- Whether an instruction of the executing context must wait while the latch holds a request: one that names the register
the reply writes, an access that overlaps the request, a FENCE by R371, every form outside besideLatch, and any form where
the request has been sent again (R315, 13_ordering.md R372). -/
def State.waitsForLatch (s : State) (i : Instr) : Bool :=
  let named := match besideLatch i with
    | some l => (match s.cur.latch.req.dest with
      | some d => d != 0 && l.contains d
      | none => false)
    | none => true
  s.cur.latch.resent || match i with
  | .fence eng kind _ => s.cur.latch.holdsFence kind eng
  | .ld _ a sz off => named || s.accessWaits a sz off
  | .st _ a sz off => named || s.accessWaits a sz off
  | _ => named

/-! ### The pages that tile instructions read and write (R195, R204) -/

/-- The groups whose pages a tile instruction reads. -/
def tileReads : Instr → List TGrp
  | .mma x | .mmas x => [x.a, x.b, quadAt x.d]
  | .mmz x | .mmzs x => [x.a, x.b]
  | .vadd x | .vsub x | .vmul x | .vmin x | .vmax x | .vdiv x => [x.a, x.b]
  | .vfma x | .vfms x | .vclmp x => [x.a, x.b, x.c]
  | .vadds x | .vmuls x => [x.a]
  | .vfmas x => [x.a, x.c]
  | .vcmp _ a b _ _ | .vand _ a b | .vor _ a b | .vxor _ a b | .vfshl _ a b _ | .vfshr _ a b _ => [a, b]
  | .vsel _ a b c _ | .vbmap _ a b c _ => [a, b, c]
  | .vqnt x m => (match m with
    | .givenRow c => [x.a, single c]
    | .givenBlock c => [x.a, single c]
    | _ => [x.a])
  | .vabs x | .vneg x | .vexp2 x | .vlog2 x | .vrcp x | .vrsq x | .vsqrt x | .vtanh x | .vsigm x | .verf x | .vcvt x
  | .vdqn x | .vrmax x | .vrmin x | .vrsum x | .vramax x | .vrssq x | .vcmax x | .vcsum x | .vbrow x | .vbcol x => [x.a]
  | .vrmrg _ a b => [single a, single b]
  | .vtrn _ a _ | .vrotr _ a _ | .vrotc _ a _ _ | .vbrot _ a _ | .vnot _ a | .vshl _ a _ _ | .vshr _ a _ _ | .vsra _ a _ _
  | .vpopc _ a _ _ | .tmov _ a | .tget _ a _ _ _ | .tins _ a _ _ _ | .txmax _ a _ _ | .txsum _ a _ _ | .txmrg _ a _ => [a]
  | .vpermr _ a c => [a, single c]
  | .sendt _ c | .tst _ _ c _ | .tred _ _ c _ _ | .spst _ c => [c]
  | .tld d _ _ _ => [d]
  | .tldx d _ _ c _ | .tstx d _ _ c _ => [d, single c]
  | _ => []

/-- Whether a tile instruction reads the data of the pages it names: those that map them anew, name them in an entry or post them
do not. -/
def readsData : Instr → Bool
  | .tmov _ _ | .spst _ _ | .sendt _ _ | .txmax _ _ _ _ | .txsum _ _ _ _ | .txmrg _ _ _ => false
  | _ => true

/-- The group that a tile instruction maps anew. -/
def tileWrites : Instr → Option TGrp
  | .mma x | .mmas x | .mmz x | .mmzs x => some (quadAt x.d)
  | .vadd x | .vsub x | .vmul x | .vmin x | .vmax x | .vdiv x => some x.d
  | .vfma x | .vfms x | .vclmp x => some x.d
  | .vadds x | .vmuls x => some x.d
  | .vfmas x => some x.d
  | .vcmp d _ _ _ _ | .vand d _ _ | .vor d _ _ | .vxor d _ _ | .vfshl d _ _ _ | .vfshr d _ _ _ | .vsel d _ _ _ _
  | .vbmap d _ _ _ _ | .vtrn d _ _ | .vrotr d _ _ | .vrotc d _ _ _ | .vbrot d _ _ | .vnot d _ | .vshl d _ _ _
  | .vshr d _ _ _ | .vsra d _ _ _ | .vpopc d _ _ _ | .vpermr d _ _ | .tmov d _ | .tins d _ _ _ _ | .tzero d
  | .tfill d _ _ | .tiota d _ _ | .recvt d _ | .txmax d _ _ _ | .txsum d _ _ _ | .txmrg d _ _ | .tld d _ _ _
  | .tldx d _ _ _ _ | .spld d _ => some d
  | .vqnt x _ => some x.d
  | .vabs x | .vneg x | .vexp2 x | .vlog2 x | .vrcp x | .vrsq x | .vsqrt x | .vtanh x | .vsigm x | .verf x | .vcvt x
  | .vdqn x | .vrmax x | .vrmin x | .vrsum x | .vramax x | .vrssq x | .vcmax x | .vcsum x | .vbrow x | .vbcol x => some x.d
  | .vrmrg d _ _ => some (single d)
  | _ => none

/-- The fresh pages an instruction takes at rename (R195): one for TINS, none for forms that only map pages and for what a
channel delivers, which the shared part holds (R199). -/
def freshCount (i : Instr) : Nat :=
  match i with
  | .tmov _ _ | .spld _ _ | .recvt _ _ | .txmax _ _ _ _ | .txsum _ _ _ _ | .txmrg _ _ _ => 0
  | .tins _ _ _ _ _ => 1
  | _ => ((tileWrites i).map TGrp.n).getD 0

/-- Whether an instruction takes an entry of the reorder buffer: every tile instruction (R203). -/
def takesEntry (i : Instr) : Bool :=
  match i with
  | .tmov _ _ | .spld _ _ | .spst _ _ => true
  | _ => (engineOf i).isSome

/-- Whether a group has a register. -/
def TGrp.covers (g : TGrp) (k : Nat) : Bool := decide (g.base.val ≤ k) && decide (k < g.base.val + TGrp.n g)

/-! ### The context ahead of what has retired (R203, log 46) -/

/-- The S register that a form which may stand before younger ones writes; none for those that write none, or S0. -/
def destOf (i : Instr) : Option SReg :=
  let d : Option SReg := match i with
    | .beq _ _ _ | .bne _ _ _ | .blt _ _ _ | .bge _ _ _ | .bltn _ _ _ | .bgen _ _ _ | .gset _ _ _ | .st _ _ _ _ | .pst _ _ _ _
    | .mtsr _ _ | .exit _ | .sprio _ => none
    | .tget d _ _ _ _ => some d
    | _ => (besideLatch i).bind List.head?
  d.filter (· != 0)

/-- The forms that write IP. -/
def jumps : Instr → Bool
  | .beq _ _ _ | .bne _ _ _ | .blt _ _ _ | .bge _ _ _ | .bltn _ _ _ | .bgen _ _ _ | .jal _ _ | .jalr _ _ _ | .loop _ _ => true
  | _ => false

/-- The forms whose result depends on registers alone: their values are known ahead where those of their registers are. -/
def aheadForm (i : Instr) : Bool :=
  match i with
  | .ld _ _ _ _ | .st _ _ _ _ => false
  | .gset _ _ _ | .pid _ | .part _ | .lcore _ => true
  | _ => inRegion i || jumps i

/-- The other scalar forms behind which younger instructions issue: what they write is known at their retirement. -/
def lateForm : Instr → Bool
  | .ld _ _ _ _ | .st _ _ _ _ | .pld _ _ _ _ | .pst _ _ _ _ | .cycle _ | .gprio _ | .mfsr _ _ => true
  | _ => false

/-- A context where nothing issued is unretired: only the register of its outstanding request is still to come. -/
def Proc.base (p : Proc) : Ahead :=
  { s := p.s, g := p.g, ip := p.ip, late := if p.latch.sent then (p.latch.req.dest.filter (· != 0)).toList else [] }

/-- A context as its front end has it. -/
def Proc.front (p : Proc) : Ahead :=
  match p.rob.getLast? with
  | some r => r.ahead
  | none => p.base

/-- The value of an S register ahead. -/
def Ahead.rd (f : Ahead) (r : SReg) : Word := if r = 0 then 0 else f.s[r]

/-- The context that executes with the registers of a context ahead. -/
def State.withAhead (s : State) (f : Ahead) : State := { s with cur := { s.cur with s := f.s, g := f.g } }

/-! ### Rename (R195-R200) -/

/-- The page that register k maps after what a context has issued. -/
def Proc.nameAt (p : Proc) (k : Nat) : PageName :=
  p.rob.foldl (fun x r => match r.group with
    | some g => if TGrp.covers g k then r.refs.getD (k - g.base.val) .unnamed else x
    | none => x) (match p.tref k with | .pool id => .pool id | _ => .unnamed)

/-- The references of a page: the pin count of one in the pool, those of unretired instructions for one still to be made
(R196). -/
def Proc.nameCount (p : Proc) : PageName → Nat
  | .pool id => p.pins id
  | .unnamed => 0
  | x => (p.rob.flatMap RobEntry.refs).countP (· == x)

/-- What a rename takes and gives: fresh pages, the pages that its group maps or its entries name, which of the pages that it
shares are copied. -/
structure Rename where
  fresh  : Nat
  refs   : List PageName
  copies : List Bool
  deriving DecidableEq, Repr

/-- A rename that shares pages: one that has 15 references, those just given among them, is copied (R197). -/
def Proc.share (p : Proc) : List PageName → Rename → Rename
  | [], done => done
  | x :: rest, done =>
    if x != .unnamed && decide (15 ≤ p.nameCount x + done.refs.countP (· == x)) then
      p.share rest { fresh := done.fresh + 1, refs := done.refs ++ [.made p.robNo done.refs.length], copies := done.copies ++ [true] }
    else p.share rest { done with refs := done.refs ++ [x], copies := done.copies ++ [false] }

/-- What one page of SPLD gives its register: a page of its own for a poisoned entry, the resident copy, or a copy of that. -/
def State.spldName (s : State) (v : Nat) (done : Rename) : Rename :=
  let e := s.sttPeek s.cur.pid v
  if sttState e = 4 ∨ sttState e = 5 then
    { fresh := done.fresh + 1, refs := done.refs ++ [.made s.cur.robNo done.refs.length], copies := done.copies ++ [false] }
  else s.cur.share [match s.cur.resident? v with | some id => .pool id | none => .unnamed] done

/-- What one register of SPST gives its entry: its page, a copy of it, or a page of its own where it names none yet. The reference
that the entry had goes. -/
def State.spstName (s : State) (v k : Nat) (done : Rename) : Rename :=
  let x := s.cur.nameAt k
  let old := match s.cur.resident? v with | some id => if x = .pool id then 1 else 0 | none => 0
  if x = .unnamed then { done with fresh := done.fresh + 1, refs := done.refs ++ [x], copies := done.copies ++ [false] }
  else
    let copy := decide (15 ≤ s.cur.nameCount x - old + done.refs.countP (· == x))
    { fresh := done.fresh + bit copy, refs := done.refs ++ [if copy then .unnamed else x], copies := done.copies ++ [copy] }

/-- The page of a group that TINS changes. -/
def tinsPage (a : TGrp) (ti : Ty) (i : Word) : Nat := pageOfCol ti (i.toNat % elemsPerRow ti (TGrp.n a))

/-- The rename of a tile instruction of the context that executes (R195, R197). -/
def State.rename (s : State) (i : Instr) : Rename :=
  let f := s.cur.front
  let start : Rename := { fresh := 0, refs := [], copies := [] }
  match i with
  | .tmov _ a => s.cur.share ((TGrp.regs a).map s.cur.nameAt) start
  | .tins _ a _ c ti =>
    let k := tinsPage a ti (f.rd c)
    let r := s.cur.share (((TGrp.regs a).set k 32).map s.cur.nameAt) start
    { r with fresh := r.fresh + 1, refs := r.refs.set k (.made s.cur.robNo k) }
  | .spld d a => (spPages (f.rd a) (TGrp.n d)).foldl (fun r v => s.spldName v r) start
  | .spst a c => ((spPages (f.rd a) (TGrp.n c)).zip (TGrp.regs c)).foldl (fun r x => s.spstName x.1 x.2 r) start
  | _ =>
    let n := ((tileWrites i).map TGrp.n).getD 0
    { fresh := freshCount i, refs := (List.range n).map (PageName.made s.cur.robNo), copies := [] }

/-- A rename needs the scalar operands that name its pages, and SPLD and SPST what older scratchpad stores leave
(10_scratchpad.md R274). -/
def Proc.renameReady (p : Proc) (i : Instr) : Bool :=
  let stored := p.rob.any (fun r => match r.instr with
    | .pst _ _ _ _ | .spst _ _ => true
    | _ => false)
  match i with
  | .tins _ _ _ c _ => !p.front.late.contains c
  | .spld _ a | .spst a _ => !p.front.late.contains a && !stored
  | _ => true

/-- The entry of a tile instruction that issues. One without an engine is done at rename, but for a forced copy, which takes
a vector engine (R204). A register of SPST that names no page yet gets one at the retirement, and nothing younger is renamed
before. -/
def State.tileEntry (s : State) (i : Instr) : RobEntry :=
  let f := s.cur.front
  let r := s.rename i
  let eng := match engineOf i with
    | some e => some e
    | none => if r.copies.contains true then some .vector else none
  { op := s.cur.robNo, ip := f.ip, instr := i, iw0 := s.cur.iw0, iw1 := s.cur.iw1, tile := true, eng := eng, fresh := r.fresh
    group := tileWrites i, dest := destOf i, refs := r.refs, copies := r.copies
    ahead := { f with ip := f.ip + 8, late := (destOf i).toList ++ f.late }
    stops := match i with | .spst _ _ => r.refs.contains .unnamed | _ => false
    started := false, done := eng.isNone, early := none }

/-! ### Eligibility (R129) -/

/-- Whether a core executes: numbered, its die there, its clock not paused. -/
def State.coreRuns (s : State) (c : Nat) : Bool := s.powered && s.coreOnline c && (s.core c).pause.isNone

/-- Whether a stall has ended. -/
def State.stallOver (s : State) (p : Proc) : Bool :=
  match p.stall with
  | .none => true
  | .pageIn v => !p.pageIns.contains v
  | .pool c => s.sharedRoom c 1
  | .spill => match s.roomForPush p.core with
    | .error (.stall _) => false
    | _ => true

/-- The process of a slot. -/
def State.inSlot (s : State) (c i : Nat) : Option Proc :=
  if h : i < 4 then ((s.core c).slots[i]).bind s.proc? else none

/-- Where a context fetches: past its instructions that have not retired. -/
def Proc.fetchIp (p : Proc) : Word := p.front.ip

/-- The entries of the reorder buffer that a context holds, and those of a core in use (R203). -/
def Proc.robTiles (p : Proc) : Nat := p.rob.countP RobEntry.tile
def State.robUsed (s : State) (c : Nat) : Nat := ((s.residents c).map Proc.robTiles).foldl (· + ·) 0

/-- What stands where the context that executes fetches. -/
def State.lookAhead (s : State) : State × Issued :=
  let r := { s with cur := { s.cur with ip := s.cur.fetchIp } }.look
  ({ r.1 with cur := { r.1.cur with ip := s.cur.ip } }, r.2)

/-- Whether the reorder buffer has an entry for a context (R203). -/
def State.robRoom (s : State) (p : Proc) : Bool := decide (p.robTiles < 64) && decide (s.robUsed p.core < 128)

/-- Whether the context that executes runs an instruction at once: a scalar one with nothing unretired before it that the latch
lets retire. -/
def State.runsAtOnce (s : State) (i : Instr) : Bool :=
  !takesEntry i && s.cur.rob.isEmpty && !(s.cur.latch.sent && s.waitsForLatch i)

/-- Whether the context that executes can accept what stands where it fetches (R129): the reorder buffer has room, nothing
before it stops it, and a tile instruction finds its pages (R200). Behind unretired instructions a fault, a breakpoint and
illegal words wait, and so does a step (15_traps.md R412); in an open region what waits for the latch does. -/
def State.accepts (s : State) : Bool :=
  let p := s.cur
  s.robRoom p && !(p.rob.getLast?).any RobEntry.stops && (p.rob.isEmpty || !p.stepping)
    && match s.lookAhead with
      | (u, .instr i) =>
        if takesEntry i then u.cur.renameReady i && u.renameRoom u.cur (u.rename i).fresh
        else u.cur.region.isNone || u.runsAtOnce i
      | _ => p.rob.isEmpty

/-- An eligible context: resident, runnable, not stopped, no stall, no request sent again, able to accept an instruction. -/
def State.mayIssue (s : State) (p : Proc) : Bool :=
  p.isResident && p.wait == .none && !p.stopped && s.stallOver p && !(p.latch.sent && p.latch.resent) && (s.switchTo p.pid).accepts

/-- The slots of a core whose contexts are eligible, with their processes. -/
def State.ready (s : State) (c : Nat) : List (Nat × Proc) :=
  (List.range 4).filterMap fun i =>
    match s.inSlot c i with
    | some p => if s.mayIssue p then some (i, p) else none
    | none => none

/-- Slots in rotation after one. -/
def slotsAfter (last : Nat) : List Nat := (List.range 4).map (fun k => (last + 1 + k) % 4)

/-- Rotation among processes of the highest priority. -/
def rotate (last : BitVec 6 → Nat) (l : List (Nat × Proc)) : Option (Nat × Proc) :=
  let top := l.foldl (fun m x => if m < x.2.prio then x.2.prio else m) 0
  (slotsAfter (last top)).findSome? (fun i => l.find? (fun x => x.1 == i && x.2.prio == top))

/-- The count of a slot (R130), and whether it has reached the bound. -/
def Core.countOf (k : Core) (i : Nat) : Nat := if h : i < 4 then k.unchosen[i] else 0
def Core.isPromoted (k : Core) (i : Nat) : Bool :=
  (if h : i < 4 then k.promoted[i] else false) || decide (Config.starveLimit ≤ k.countOf i)

/-- The context whose count has reached the bound: the highest count, then the lowest slot (R130). -/
def Core.mostStarved (k : Core) (l : List (Nat × Proc)) : Option (Nat × Proc) :=
  (l.filter (fun x => k.isPromoted x.1)).foldl (fun b x => match b with
    | none => some x
    | some y => if k.countOf y.1 < k.countOf x.1 then some x else b) none

/-- The context a core chooses: one whose count has reached the bound first (R130), else priority and rotation (R129). -/
def State.chosen (s : State) (c : Nat) : Option (Nat × Proc) :=
  let l := s.ready c
  match (s.core c).mostStarved l with
  | some x => some x
  | none => rotate (fun prio => ((s.core c).lastSlot[prio.toNat]'prio.isLt).val) l

/-- The bookkeeping of a choice, which is a cycle of the core's front end: rotation, counts of the contexts passed over. -/
def State.noteChoice (s : State) (c slot : Nat) (prio : BitVec 6) : State :=
  let passed := (s.ready c).map Prod.fst
  s.updCore c (fun k => { k with
    lastSlot := k.lastSlot.set prio.toNat (Fin.ofNat 4 slot) prio.isLt
    promoted := if h : slot < 4 then k.promoted.set slot false else k.promoted
    unchosen := Vector.ofFn (fun i : Fin 4 =>
      if i.val = slot then 0 else if passed.contains i.val then k.unchosen[i] + 1 else k.unchosen[i]) })

/-- The slots of a core whose count has reached the bound and that are not marked yet (R130). -/
def State.starved (s : State) (c : Nat) : List Nat :=
  (List.range 4).filter (fun i => if h : i < 4 then
    decide (Config.starveLimit ≤ (s.core c).unchosen[i]) && !(s.core c).promoted[i] else false)

/-- STARVATION_PROMOTION (R130): the contexts whose count has reached the bound are chosen next, highest count first. -/
def tryStarvationPromotion (core : Nat) (s : State) : Option State :=
  if (s.starved core).isEmpty then none
  else some (s.updCore core (fun k => { k with
    promoted := Vector.ofFn (fun i : Fin 4 => k.promoted[i] || decide (Config.starveLimit ≤ k.unchosen[i])) }))

def execStarvationPromotion (core : Nat) (s : State) : Host.Outcome State Fault Refusal :=
  s.occur (tryStarvationPromotion core s)

/-! ### The order of tile memory accesses (R207-R210) -/

/-- A tile memory form whose rows a copy engine translates: base, geometry, index tile, registers of its operand, kind of
access, what it does. -/
structure MemForm where
  base  : SReg
  geo   : GReg
  index : Option TReg
  n     : Nat
  kind  : Access
  load  : Bool
  store : Bool
  deriving DecidableEq, Repr

/-- The L2 hint of a tile memory form (11_memory.md R287). -/
def hintOfForm : Instr → Hint
  | .tld _ _ _ h | .tldx _ _ _ _ h | .tst _ _ _ h | .tstx _ _ _ _ h | .tred _ _ _ _ h | .tpf _ _ h => h
  | _ => .normal

def memForm : Instr → Option MemForm
  | .tld d a b _ => some { base := a, geo := b, index := none, n := TGrp.n d, kind := .read, load := true, store := false }
  | .tldx d a b c _ => some { base := a, geo := b, index := some c, n := TGrp.n d, kind := .read, load := true, store := false }
  | .tst a b c _ => some { base := a, geo := b, index := none, n := TGrp.n c, kind := .write, load := false, store := true }
  | .tstx d a b c _ => some { base := a, geo := b, index := some c, n := TGrp.n d, kind := .write, load := false, store := true }
  | .tred a b c _ _ => some { base := a, geo := b, index := none, n := TGrp.n c, kind := .modify, load := true, store := true }
  | _ => none

/-- What a copy engine finds for a form of the context that executes when it translates (R210). -/
def State.translated (s : State) (m : MemForm) : Early :=
  let g := s.geom m.geo
  let none_ : Early := { rows := [], span := [], fault := none, data := none }
  if !g.valid m.n then none_
  else
    let res := do
      let ix ← s.readIndex m.index
      s.rowsOf (s.rd m.base) g ix m.kind m.load m.store
    match res with
    | .ok rows => { none_ with rows := rows, span := s.spanOf (s.rd m.base) g m.index.isSome m.kind rows }
    | .error (.trap t) => { none_ with fault := some t }
    | .error _ => none_

/-- The instructions of a context with the context ahead of each. -/
def Proc.withFronts (p : Proc) (l : List RobEntry) : List (Ahead × RobEntry) := (p.base :: l.map RobEntry.ahead).zip l

/-- The bytes of a scalar access that has not retired; none while its address is not known. -/
def State.scalarSpan (s : State) (f : Ahead) (a : SReg) (sz : Size) (off : BitVec 12) : Option (List (Nat × Nat)) :=
  if f.late.contains a then none
  else
    let x := (s.withAhead f).effAddr a off
    let z := Size.bytes sz
    match s.xlate s.curCore s.curPart s.cur.sup x z .read, s.xlate s.curCore s.curPart s.cur.sup x z .write with
    | .ok r, _ => some [(r.pa, z)]
    | _, .ok r => some [(r.pa, z)]
    | _, _ => some []

/-- Whether a load of an interval must wait for an older instruction: for a store until it performs, for a load until it has
read (R208, R209). -/
def State.holdsLoad (s : State) (span : List (Nat × Nat)) (x : Ahead × RobEntry) : Bool :=
  match x.2.instr with
  | .ld _ a sz off | .st _ a sz off => match s.scalarSpan x.1 a sz off with
    | some l => spansMeet l span
    | none => true
  | i => match memForm i with
    | none => false
    | some m => match x.2.early with
      | none => true
      | some e => spansMeet e.span span && (m.store || e.data.isNone)

/-- Whether the page that a register maps behind older instructions, the youngest first, has been produced: by the youngest
that writes it. TMOV maps the pages of its operand. What a channel delivers and what SPLD maps is there once they have
retired (log 46). -/
def pageReady : List RobEntry → Nat → Bool
  | [], _ => true
  | o :: rest, k =>
    match o.group with
    | none => pageReady rest k
    | some g =>
      if TGrp.covers g k then
        match o.instr with
        | .tmov _ a => if o.copies.getD (k - g.base.val) false then o.done else pageReady rest (a.base.val + (k - g.base.val))
        | .spld _ _ | .recvt _ _ | .txmax _ _ _ _ | .txsum _ _ _ _ | .txmrg _ _ _ => false
        | _ => o.done
      else pageReady rest k

/-- The groups whose pages an entry reads: a load reads its old pages where its geometry leaves bytes of them (11_memory.md
R302). -/
def RobEntry.reads (r : RobEntry) (f : Ahead) : List TGrp :=
  let old := fun (d : TGrp) (b : GReg) => let g := geomOf f.g[b]; if g.zf || g.whole (TGrp.n d) then [] else [d]
  match r.instr with
  | .tld d _ b _ => old d b
  | .tldx d _ b c _ => single c :: old d b
  | i => tileReads i

/-- Whether every page that an entry reads has been produced (R204). -/
def RobEntry.produced (r : RobEntry) (f : Ahead) (older : List RobEntry) : Bool :=
  (r.reads f).all (fun g => (TGrp.regs g).all (pageReady older.reverse))

/-- Whether an entry is a channel instruction; no younger access dispatches before it has completed (12_channels.md R325). -/
def RobEntry.onChannel (r : RobEntry) : Bool := r.eng == some .channel

/-- Whether an entry of the context that executes may dispatch (R204): the pages that it reads have been produced, and its
ordering conditions hold. A memory form needs its scalar operands, and an index tile whose writer has retired (log 46). -/
def State.dispatchable (s : State) (older : List RobEntry) (r : RobEntry) : Bool :=
  let f := ((older.getLast?).map RobEntry.ahead).getD s.cur.base
  let access := r.eng == some .copy || r.onChannel
  r.produced f older && !(access && older.any RobEntry.onChannel)
    && (match memForm r.instr with
      | none => true
      | some m =>
        let settled := match m.index with
          | some c => older.all (fun o => !(o.group.any (fun g => TGrp.covers g c.val)))
          | none => true
        let span := ((s.withAhead f).translated m).span
        !f.late.contains m.base && settled
          && (m.store || !((s.cur.withFronts older).any (s.holdsLoad span) || s.cur.stores.any (fun st => spansMeet st.span span)
            || s.cur.latch.sent && !s.cur.latch.done && spansMeet s.cur.latch.req.span span)))

/-! ### The tile queues (R203-R206) -/

/-- The oldest unstarted entry of a context for an engine, with the entries before it. -/
def nextFor (e : Engine) : List RobEntry → List RobEntry → Option (List RobEntry × RobEntry)
  | _, [] => none
  | older, r :: rest => if r.eng = some e ∧ !r.started then some (older, r) else nextFor e (older ++ [r]) rest

/-- The entries an engine of a core works on. -/
def State.running (s : State) (c : Nat) (e : Engine) : Nat :=
  ((s.residents c).map (fun p => p.rob.countP (fun r => r.eng == some e && r.started && !r.done))).foldl (· + ·) 0

/-- The tile memory operations in flight on a core: started and not retired (01_device.md R19). -/
def State.inFlight (s : State) (c : Nat) : Nat :=
  ((s.residents c).map (fun p => p.rob.countP (fun r => r.eng == some .copy && r.started))).foldl (· + ·) 0

/-- Whether an engine of a core is free to take an entry: 64 tile memory operations may be in flight (01_device.md R19). -/
def State.engineFree (s : State) (c : Nat) (e : Engine) : Bool :=
  decide (s.running c e < e.count) && (e != .copy || decide (s.inFlight c < 64))

/-- The context an engine of a core serves next: among those whose oldest unstarted entry is ready the highest priority,
then rotation by slot (R205). -/
def State.served (s : State) (c : Nat) (e : Engine) : Option (Nat × Proc) :=
  if !s.engineFree c e then none
  else
    rotate (fun _ => ((s.core c).engLast[e.index]).val) ((List.range 4).filterMap fun i =>
      match s.inSlot c i with
      | some p => match nextFor e [] p.rob with
        | some (older, r) => if p.isResident && (s.switchTo p.pid).dispatchable older r then some (i, p) else none
        | none => none
      | none => none)

/-- The context that executes starts its oldest unstarted entry for an engine; a memory form translates (R210). -/
def State.startEntry (s : State) (e : Engine) : State :=
  match nextFor e [] s.cur.rob with
  | none => s
  | some (older, r) =>
    let f := ((older.getLast?).map RobEntry.ahead).getD s.cur.base
    let u := match memForm r.instr with
      | some m => (s.withAhead f).rowWalks (f.rd m.base) (geomOf f.g[m.geo]) m.n m.index
      | none => s
    let early := (memForm r.instr).map (u.withAhead f).translated
    let s1 := match memForm r.instr, early with
      | some m, some x => u.rowCache m.kind x.rows
      | _, _ => s
    { s1 with cur := { s.cur with
      rob := older ++ { r with started := true, early := early } :: s.cur.rob.drop (older.length + 1) } }

/-- The engines in the order in which a dispatch looks for one that serves a context. -/
def engines : List Engine := [.matrix, .vector, .copy, .channel]

/-- TILE_DISPATCH: an engine that serves this context next takes its oldest unstarted entry. -/
def tryTileDispatch (core : Nat) (pid : Pid) (s : State) : Option State :=
  if !s.coreRuns core then none
  else engines.findSome? fun e =>
    match s.served core e with
    | some (slot, q) =>
      if q.pid = pid then
        some ((((s.switchTo pid).startEntry e).switchTo s.cur.pid).updCore core
          (fun k => { k with engLast := k.engLast.set e.index (Fin.ofNat 4 slot) }))
      else none
    | none => none

def execTileDispatch (core : Nat) (pid : Pid) (s : State) : Host.Outcome State Fault Refusal :=
  s.occur (tryTileDispatch core pid s)

/-- A copy engine ends its work on an entry of the context that executes: a load reads its rows now (R210), MEMOFF where
their die has gone offline. -/
def State.readEntry (s : State) (r : RobEntry) : State × RobEntry :=
  match memForm r.instr, r.early with
  | some m, some e =>
    if m.store || e.fault.isSome then (s, { r with done := true })
    else match s.rowMemOff e.rows with
      | .error (.trap t) => (s, { r with done := true, early := some { e with fault := some t } })
      | _ =>
        let s1 := s.readPieces (hintOfForm r.instr) e.rows.flatten
        (s1, { r with done := true, early := some { e with data := some (s1.readRows e.rows) } })
  | _, _ => (s, { r with done := true })

/-- ENGINE_COMPLETION: an entry on an engine is done, whichever (R205). Its fault is raised at its retirement (R206). -/
def tryEngineCompletion (core : Nat) (pid : Pid) (s : State) : Option State :=
  (s.proc? pid).bind fun p =>
    let places := (List.range p.rob.length).filter (fun k => (p.rob[k]?).any (fun r => r.started && !r.done))
    if p.core = core && p.isResident && s.coreRuns core then
      (places[Config.freeIndex s.draws % places.length]?).bind fun k => (p.rob[k]?).map fun r =>
        let t := (s.drew.switchTo pid).readEntry r
        { t.1 with cur := { t.1.cur with rob := t.1.cur.rob.set k t.2 } }.switchTo s.cur.pid
    else none

def execEngineCompletion (core : Nat) (pid : Pid) (s : State) : Host.Outcome State Fault Refusal :=
  s.occur (tryEngineCompletion core pid s)

/-- Whether the latch keeps the oldest issued instruction of a context from retiring: a tile instruction waits for it, a scalar
one as waitsForLatch says (11_memory.md R308, R313). -/
def State.latchHolds (s : State) (p : Proc) (r : RobEntry) : Bool :=
  p.latch.sent && (r.tile || (s.switchTo p.pid).waitsForLatch r.instr)

/-- Whether the oldest issued instruction of a context retires now: it is done, it is not posted and waiting, and neither the
latch nor a stall holds it (R129). A halt does not (15_traps.md R412). -/
def State.mayRetire (s : State) (p : Proc) : Bool :=
  match p.rob with
  | r :: _ => r.done && p.isResident && p.wait == .none && s.stallOver p && s.coreRuns p.core && !s.latchHolds p r
  | [] => false

/-! ### Walks (14_translation.md R381-R383) -/

/-- WALK_COMPLETE: one of a quad's 4 walkers finishes, which work on the oldest pending pages. -/
def tryWalkComplete (quad : Nat) (s : State) : Option State :=
  let busy := (s.quad quad).walks.take 4
  (busy[Config.freeIndex s.draws % busy.length]?).map (s.drew.finishWalk quad)

def execWalkComplete (quad : Nat) (s : State) : Host.Outcome State Fault Refusal := s.occur (tryWalkComplete quad s)

end Sys2Proof.Machine
end

