-- ==== Sys2Proof/Machine/Move.lean ====
section
/-! DEFINITION. Migration (05_processes.md R139-R148), the end of a process (R154, R156, 15_traps.md R404), and PARK,
RESUME, MIGR, KILL as operations on any process. -/

namespace Sys2Proof.Machine

/-! ### Information for the supervisor (R145, R146) -/

/-- A MIGFAIL record of a process: the address of a bad page or 0, the core it was to go to. -/
def State.migFail (s : State) (pid : Pid) (addr : Word) (target : Nat) : State :=
  match s.proc? pid with
  | some p => s.infoRecord p.part (s.infoOf p { cause := .migfail, addr := addr, detail := BitVec.ofNat 40 target })
  | none =>
    -- a queued process: its record names its entry
    match s.queued? pid with
    | some (_, r) => s.infoRecord r.part
        { s.infoOf r.toProc { cause := .migfail, addr := addr, detail := BitVec.ofNat 40 target } with lcore := r.origin }
    | none => s

/-! ### Moves (R141-R143) -/

/-- A resident process starts to move: it parks on the source, its hinge entry shows the move; its page-ins are
abandoned (10_scratchpad.md R273). -/
def State.beginMoveNow (s : State) (pid : Pid) (target : Nat) : State :=
  match s.proc? pid with
  | none => s
  | some p =>
    match p.place with
    | .resident c slot =>
      (s.updProc pid (fun p => { p.squash with place := .moving c target, imageOk := false, pageIns := [] })).freeSlot c slot pid
    | _ => s

/-- The start of a move, for heat or not: in a clock pause of the core it is latched (15_traps.md R413). -/
def State.startMove (s : State) (pid : Pid) (target : Nat) (heat : Bool) : State :=
  match s.pausedCore pid with
  | some c => s.latchAt c (.move pid target heat)
  | none => s.beginMoveNow pid target

/-- The start of a move for another reason than heat. -/
def State.beginMove (s : State) (pid : Pid) (target : Nat) : State := s.startMove pid target false

/-- The home of a parked process changes, to the twin of a core whose die is going down: its pool pages go there, at once or
when that pool has room, it takes its place in that core's runnable list if it stood in one, and its page-ins are abandoned
(R126, 10_scratchpad.md R273). -/
def State.changeHome (s : State) (pid : Pid) (goal : Nat) : State :=
  let target := s.homeAt goal
  match s.proc? pid with
  | none => s
  | some p =>
    let s1 := ((s.dequeue pid).updProc pid (fun p => { p with home := target, pageIns := [] })).carryPages pid target
    if (s.core p.home).runq.contains pid then s1.rejoin pid else s1

/-- MIGR of a parked process: its home changes, and the residence rule of 17_power.md R443 begins anew. -/
def State.rehome (s : State) (pid : Pid) (target : Nat) : State :=
  (s.changeHome pid target).updProc pid (fun p => { p with movedAt := some s.cycle })

/-- Whether a context's retired stores and its request are done, so that its image can be complete: a stop has been taken
as ATOMIC (R132, R315, R316). -/
def Proc.drained (p : Proc) : Bool := p.stores.isEmpty && (!p.latch.sent || p.latch.told)

/-! ### Why the device moves a context (R144, 17_power.md R443) -/

/-- 5 ms in CYCLE periods (17_power.md R443). -/
def residence : Nat := 10000000

/-- Whether a context may be moved for heat or affinity, and a core be its target (R443). -/
def State.settledHere (s : State) (p : Proc) : Bool :=
  match p.movedAt with
  | some t => decide (residence ≤ (s.cycle - t).toNat)
  | none => true

def State.mayTarget (s : State) (c : Nat) : Bool :=
  s.coreOpen c && !(s.idleSlots c).isEmpty && (match (s.core c).noMoveTo with
    | some t => decide (residence ≤ (s.cycle - t).toNat)
    | none => true)

/-- The core an affinity move goes to (R144). -/
def State.affinityTarget (s : State) (p : Proc) : Option Nat :=
  let q := s.part p.part
  let recent := p.acc.filter (fun x => decide ((s.cycle - x.1).toNat < 2 ^ 20))
  let far := recent.countP Prod.snd
  if q.affinity && p.isResident && (s.core p.core).pause.isNone && s.settledHere p && decide (2 ^ 20 ≤ (s.cycle - p.winAt).toNat)
      && decide (3 * recent.length < 4 * far) then
    let t := twin p.core
    if s.mayTarget t then some t
    else (List.range 90).find? (fun c => dieOfCore c != dieOfCore p.core && s.mayTarget c)
  else none

/-! ### The end of a move -/

/-- The end of a move at a core: home and pages change, the window of R144 restarts; then the next move asked for, or a
slot, or the runnable list. -/
def State.endMove (s : State) (pid : Pid) (c : Nat) (moved : Bool) : State :=
  match s.proc? pid with
  | none => s
  | some p =>
    let s1 := (s.updProc pid (fun p => { p with
      place := .parked, home := c, ran := c, nextHome := none, movedAt := if moved then some s.cycle else p.movedAt })).carryPages pid c
    let s2 := s1.completeImage pid
    match p.nextHome with
    | some t => s2.updProc pid (fun p => { p with place := .moving c t, imageOk := false })
    | none =>
      if s2.die (dieOfCore c) = .goingDown then
        s2.updProc pid (fun p => { p with place := .moving c (twin c), imageOk := false })
      else if p.held || p.faulted || p.stopped then s2
      else match s2.idleSlots c with
        | slot :: _ =>
          if s2.coreOpen c && !(s2.part p.part).parked && (s2.pagesOff pid c).isEmpty then (s2.unpark c slot pid).resend pid
          else s2.enqueue pid
        | [] => s2.enqueue pid

/-! ### The end of a process -/

/-- Everything a process holds goes: endpoints, pages, scratchpad, slot, place in lists; the PID is free. -/
def State.endProc (s : State) (pid : Pid) : State :=
  match s.proc? pid with
  | none => s
  | some p =>
    let s1 := (s.dequeue pid).closeAll pid
    let s2 := s1.updPart p.part (fun q => { q with order := q.order.filter (· != .inl pid) })
    let s3 : State := match p.place with
      | .resident c slot => s2.freeSlot c slot pid
      | .exiting c slot => s2.freeSlot c slot pid
      | _ => s2
    (s3.dropPages pid).dropProc pid

/-- What a process that ends has retired performs: its stores and the rows of its TRED (11_memory.md R317); the lines of its core
that its request has changed go (R290). -/
def State.performRetired (s : State) (pid : Pid) : State :=
  let t := (s.drain pid).finishTred pid
  match t.proc? pid with
  | some p => t.dropRequest p.latch
  | none => t

/-- KILL of a process that is not queued: retired stores and the rows of a retired TRED perform (11_memory.md R317), the rest
is discarded. An exiting process ends by its own EXIT (R139). -/
def State.killProc (s : State) (pid : Pid) : State :=
  match s.proc? pid with
  | none => s
  | some p =>
    match p.place with
    | .exiting _ _ => s
    | _ => ((s.performRetired pid).endProc pid).rootEnded pid p.join 0 1

/-! ### Queued processes -/

/-- A record placed on a core's deque, or on that of its twin where its die is going down, whatever its room: a push that
cannot be made waits in the deque controller, as the newest record (R125, R148). -/
def State.placeRec (s : State) (goal : Nat) (r : Rec) : State :=
  let c := s.homeAt goal
  match s.roomForPush c with
  | .ok t => t.pushRec c r
  | .error _ => s.updCore c (fun k => { k with
      hold := k.hold ++ [{ r with seq := k.seqNext, origin := c, spill := none }], seqNext := k.seqNext + 1, retryAt := none })

/-! ### PARK, RESUME, MIGR, KILL on a process of the partition (R404) -/

/-- PARK. A spilled record is read back first: where its segment faults it stays queued (log 70), a broken seal discards it
(R117). -/
def State.parkAny (s : State) (pid : Pid) : State :=
  match s.queued? pid with
  | some (c, r) =>
    match s.refill r with
    | (t, .ok) => (t.unqueue c r).parkProc pid true
    | (t, .faulted) => t.segmentOff c r
    | (t, .broken) => t.discardRec c r
  | none => s.parkProc pid true

/-- MIGR: an offline target is refused with MIGFAIL. Where an affinity move of the process is due as well, that one is made
(R139). -/
def State.migrate (s : State) (pid : Pid) (target : Nat) : State :=
  if !s.coreOnline target then s.migFail pid 0 target
  else match s.queued? pid with
    | some (c, r) =>
      match s.refill r with
      | (t, .ok) => (t.dropRec c pid).placeRec target r
      | (t, .faulted) => t.segmentOff c r
      | (t, .broken) => t.discardRec c r
    | none =>
      match s.proc? pid with
      | none => s
      | some p =>
        match p.place with
        | .resident _ _ => s.beginMove pid ((s.affinityTarget p).getD target)
        | .parked => s.rehome pid target
        | .moving _ _ => s.updProc pid (fun p => { p with nextHome := some target })
        | _ => s

/-- KILL. -/
def State.killAny (s : State) (pid : Pid) : State :=
  match s.queued? pid with
  | some (c, r) => s.discardRec c r
  | none => s.killProc pid

/-- A PID that names a process of a partition that is not exited. -/
def State.inPart (s : State) (part : Nat) (pid : Pid) : Bool :=
  match s.proc? pid with
  | some p => p.part == part
  | none => match s.queued? pid with
    | some (_, r) => r.part == part
    | none => false

end Sys2Proof.Machine
end

