-- ==== Sys2Proof/Machine/EvSched.lean ====
section
/-! DEFINITION. Events of scheduling: idle slots, steals, pre-emption, parks, the end of a process, moves
(05_processes.md R122-R148, R156). -/

namespace Sys2Proof.Machine

/-! ### Filling slots and stealing (R124-R127) -/

/-- The level of another core seen from a core: 0 its quad, 1 its die, 2 the other die. -/
def State.stealLevel (s : State) (c v : Nat) : Nat :=
  if s.quadOf c = s.quadOf v then 0 else if dieOfCore c = dieOfCore v then 1 else 2

/-- The possible victims of a level in logical order. -/
def State.victims (s : State) (c level : Nat) : List Nat :=
  (List.range 90).filter (fun v => v != c && s.coreOpen v && s.stealLevel c v == level)

/-- The victim after a pointer, wrapping to the lowest. -/
def nextVictim (ptr : Nat) (l : List Nat) : Option Nat :=
  match l.find? (fun v => decide (ptr < v)) with
  | some v => some v
  | none => l.head?

def Core.stealAt (k : Core) (level : Nat) : Nat := if h : level < 3 then k.stealPtr[level] else 0

/-- A request goes to the next victim of a level, of a later one where it has none; the slot stays idle, to try again
after 256 cycles, where no level is left. -/
def State.askFrom (s : State) (c slot level : Nat) : Nat → State
  | 0 => s.updCore c (fun k => { k with steal := none, retryAt := some (s.cycle + 256) })
  | fuel + 1 =>
    let l := s.victims c level
    match nextVictim ((s.core c).stealAt level) l with
    | none => s.askFrom c slot (level + 1) fuel
    | some v =>
      (s.updCore c (fun k => { k with
        steal := some { slot := slot, level := level, left := l.length, victim := some v, answer := none }
        stealPtr := if h : level < 3 then k.stealPtr.set level v else k.stealPtr })).updCore v
        (fun k => { k with reqs := k.reqs ++ [c] })

/-- The next attempt of a search after an EMPTY; none where no slot of the core is idle any more. -/
def State.askNext (s : State) (c : Nat) (st : Steal) : State :=
  if !s.coreOpen c || (s.idleSlots c).isEmpty then s.updCore c (fun k => { k with steal := none })
  else if st.left ≤ 1 then s.askFrom c st.slot (st.level + 1) (2 - st.level)
  else
    match nextVictim ((s.core c).stealAt st.level) (s.victims c st.level) with
    | none => s.askFrom c st.slot (st.level + 1) (2 - st.level)
    | some v =>
      (s.updCore c (fun k => { k with
        steal := some { st with left := st.left - 1, victim := some v, answer := none }
        stealPtr := if h : st.level < 3 then k.stealPtr.set st.level v else k.stealPtr })).updCore v
        (fun k => { k with reqs := k.reqs ++ [c] })

/-- Whether an idle slot of a core has something to do: work of its own, or a search to start (R125, R127). -/
def State.mayFill (s : State) (c slot : Nat) : Bool :=
  s.coreOpen c && (s.idleSlots c).contains slot
    && ((s.ownerPick c).isSome || (s.runnablePick c).isSome || ((s.core c).steal.isNone && (s.core c).retryAt.isNone))

/-- SLOT_FILL (R125). -/
def trySlotFill (core slot : Nat) (s : State) : Option State :=
  if s.mayFill core slot then some ((s.fillOwn core slot).getD (s.askFrom core slot 0 3))
  else none

def execSlotFill (core slot : Nat) (s : State) : Host.Outcome State Fault Refusal := s.occur (trySlotFill core slot s)

/-- The request a deque controller serves first: the thief's tile at or after the pointer (R124). -/
def State.firstThief (s : State) (v : Nat) : Option Nat :=
  let tile := fun c => (s.core c).phys
  let dist := fun c => (tile c + 96 - (s.core v).rotPtr % 96) % 96
  (s.core v).reqs.foldl (fun b c => match b with
    | none => some c
    | some x => if dist c < dist x then some c else b) none

/-- Whether an idle slot of a core takes a record in this cycle (R123, R125). -/
def State.ownerTakes (s : State) (v : Nat) (r : Rec) : Bool :=
  s.coreOpen v && !(s.idleSlots v).isEmpty && (s.ownerPick v).any (fun x => x.pid == r.pid)

/-- The record a victim gives: the oldest eligible one, a spilled one read back first. A record that fails its seal is
discarded, a segment that faults counts as empty (R117, R120, R122). The record that an idle slot of the victim takes
in this cycle is the owner's (R123). -/
def State.giveRecord (s : State) (v thief : Nat) : Nat → State × Option Rec
  | 0 => (s, none)
  | fuel + 1 =>
    match s.thiefPick v thief with
    | none => (s, none)
    | some r =>
      if s.ownerTakes v r then (s, none)
      else match s.refill r with
      | (t, .ok) => (t.dropRec v r.pid, some { r with spill := none })
      | (t, .faulted) => (t.segmentOff v r).giveRecord v thief fuel
      | (t, .broken) => (t.discardRec v r).giveRecord v thief fuel

/-- STEAL_REQUEST. -/
def tryStealRequest (victim : Nat) (s : State) : Option State :=
  match s.firstThief victim with
  | none => none
  | some c =>
    let s1 := s.updCore victim (fun k => { k with reqs := k.reqs.erase c })
    let r := if s1.coreOpen victim then s1.giveRecord victim c ((s1.core victim).records.length + 1) else (s1, none)
    let s2 := r.1.updCore c (fun k => { k with steal := k.steal.map (fun st => { st with answer := some r.2 }) })
    some (if r.2.isSome then
        s2.updCore victim (fun k => { k with rotPtr := ((s2.core c).phys + 1) % 96 })
      else s2)

def execStealRequest (victim : Nat) (s : State) : Host.Outcome State Fault Refusal :=
  s.occur (tryStealRequest victim s)

/-- Where a stolen record goes (R125): into an idle slot, else onto the thief's deque, or that of its twin where its die
is going down. None of a partition that a bucket has parked starts (R136). -/
def State.placeStolen (s : State) (c slot : Nat) (r : Rec) : State :=
  if (s.part r.part).parked then s.placeRec (if s.coreOpen c then c else twin c) r
  else if s.coreOpen c then
    let idle := s.idleSlots c
    if idle.contains slot then s.startRec c slot r
    else match idle with
      | i :: _ => s.startRec c i r
      | [] => s.placeRec c r
  else s.placeRec (twin c) r

/-- STEAL_ANSWER. -/
def tryStealAnswer (core : Nat) (s : State) : Option State :=
  match (s.core core).steal with
  | none => none
  | some st =>
    match st.answer with
    | none => none
    | some (some r) => some ((s.updCore core (fun k => { k with steal := none })).placeStolen core st.slot r)
    | some none => some (s.askNext core st)

def execStealAnswer (core : Nat) (s : State) : Host.Outcome State Fault Refusal := s.occur (tryStealAnswer core s)

/-- Whether a core's next search is due. -/
def State.retryDue (s : State) (c : Nat) : Bool :=
  match (s.core c).retryAt with
  | some t => decide (t ≤ s.cycle)
  | none => false

/-- STEAL_RETRY. -/
def tryStealRetry (core : Nat) (s : State) : Option State :=
  if s.retryDue core then some (s.updCore core (fun k => { k with retryAt := none }))
  else none

def execStealRetry (core : Nat) (s : State) : Host.Outcome State Fault Refusal := s.occur (tryStealRetry core s)

/-! ### Pre-emption and blocked contexts (R128, R134) -/

/-- The resident context of lowest priority, then the longest resident, then the lowest slot; an exiting one counts
(R134, R156). -/
def State.victimSlot (s : State) (c : Nat) : Option (Nat × Proc) :=
  ((List.range 4).filterMap (fun i => match s.inSlot c i with
    | some p => some (i, p)
    | none => none)).foldl (fun b x => match b with
      | none => some x
      | some y =>
        if x.2.prio < y.2.prio then some x
        else if x.2.prio = y.2.prio ∧ x.2.since < y.2.since then some x else b) none

/-- Whether a record pre-empts a priority: the margin of its partition is 1 to 63. -/
def State.preempts (s : State) (r : Rec) (low : BitVec 6) : Bool :=
  let d := (s.part r.part).preempt.toNat
  decide (1 ≤ d) && decide (d ≤ 63) && decide (low.toNat + d ≤ r.prio.toNat)

/-- The eligible records of a core. -/
def State.eligibleRecs (s : State) (c : Nat) : List Rec :=
  ((s.core c).inHardware ++ (s.core c).inSegments).filter (s.eligible c)

/-- A pending pre-emption: the context to park; where it is an exiting one, its exit frees the slot (R139). -/
def State.preemptee (s : State) (c : Nat) : Option (Nat × Proc) :=
  if s.coreOpen c && (s.idleSlots c).isEmpty && (s.core c).pause.isNone then
    match s.victimSlot c with
    | some x => if x.2.isResident && (s.eligibleRecs c).any (fun r => s.preempts r x.2.prio) then some x else none
    | none => none
  else none

/-- The record that takes the freed slot: the highest priority, the newest among equals. -/
def State.preemptor (s : State) (c : Nat) : Option Rec :=
  let l := s.eligibleRecs c
  let top := l.foldl (fun m r => if m < r.prio then r.prio else m) 0
  (s.core c).newest (l.filter (fun r => r.prio == top))

/-- The freed slot takes a record: one that faults or is broken leaves its place to the next (R117, R120). -/
def State.preemptFill (s : State) (c slot : Nat) : Nat → State
  | 0 => s
  | fuel + 1 =>
    match s.preemptor c with
    | none => s
    | some r =>
      match s.refill r with
      | (t, .ok) => (t.dropRec c r.pid).startRec c slot r
      | (t, .faulted) => (t.segmentOff c r).preemptFill c slot fuel
      | (t, .broken) => (t.discardRec c r).preemptFill c slot fuel

/-- PREEMPTION. -/
def tryPreemption (core : Nat) (s : State) : Option State :=
  match s.preemptee core with
  | none => none
  | some (slot, p) =>
    let s1 := s.parkProc p.pid false
    some (s1.preemptFill core slot ((s1.core core).held.length + 1))

def execPreemption (core : Nat) (s : State) : Host.Outcome State Fault Refusal := s.occur (tryPreemption core s)

/-- Whether a context has been blocked for 65,536 cycles while resident, and other work waits. -/
def State.blockedDue (s : State) (c slot : Nat) : Option Proc :=
  match s.inSlot c slot with
  | none => none
  | some p =>
    let from_ := if p.waitAt < p.since then p.since else p.waitAt
    if s.coreOpen c && (s.core c).pause.isNone && p.isResident && p.isBlocked && decide (Config.blockedLimit ≤ (s.cycle - from_).toNat)
        && (s.idleSlots c).isEmpty && (!(s.workPrios c).isEmpty || (s.preemptee c).isSome) then some p
    else none

/-- BLOCKED_PARK. -/
def tryBlockedPark (core slot : Nat) (s : State) : Option State :=
  match s.blockedDue core slot with
  | some p => some (s.parkProc p.pid false)
  | none => none

def execBlockedPark (core slot : Nat) (s : State) : Host.Outcome State Fault Refusal :=
  s.occur (tryBlockedPark core slot s)

/-! ### Images, exits (R132, R156) -/

/-- Whether an image can become complete. -/
def Proc.imageDue (p : Proc) : Bool := p.place == .parked && !p.imageOk && p.drained

/-- IMAGE_COMPLETE: a process that was released meanwhile becomes runnable (R139). -/
def tryImageComplete (pid : Pid) (s : State) : Option State :=
  match s.proc? pid with
  | some p => if p.imageDue then some ((s.completeImage pid).enqueue pid) else none
  | none => none

def execImageComplete (pid : Pid) (s : State) : Host.Outcome State Fault Refusal := s.occur (tryImageComplete pid s)

/-- Whether an exit can complete. -/
def Proc.exitDue (p : Proc) : Bool :=
  (match p.place with | .exiting _ _ => true | _ => false) && p.stores.isEmpty && !p.latch.sent

/-- The exit code goes to the parent's end of the join channel, where it is held. -/
def State.postCode (s : State) (pid : Pid) (cell : Nat) (code : Word) : State :=
  match s.cell? cell with
  | none => s
  | some c0 =>
    let s := s.deviceReach c0.part (s.reachCell c0) (fun t => t.reachedCell c0)
    let c := (s.cell? cell).getD c0
    let side := match s.entries.find? (fun (e : Entry) => e.live && e.cell == cell && e.owner == pid) with
      | some e => e.side c
      | none => true
    if (c.side (!side)).closed then s
    else (s.updEnd cell (!side) (fun e => { e with held := some code })).settled cell

/-- EXIT_COMPLETION. -/
def tryExitCompletion (pid : Pid) (s : State) : Option State :=
  match s.proc? pid with
  | none => none
  | some p =>
    if p.exitDue then
      let code := p.exitCode.getD 0
      match p.join with
      | .chan cell => some ((s.postCode pid cell code).endProc pid)
      | .root => some ((s.rootEnded pid .root code 0).endProc pid)
      | .supervisor => some (s.endProc pid)
    else none

def execExitCompletion (pid : Pid) (s : State) : Host.Outcome State Fault Refusal := s.occur (tryExitCompletion pid s)

/-- The request of a process reaches its homes and is answered, which a command that needs its image waits for
(15_traps.md R400). -/
def State.finishRequest (s : State) (pid : Pid) : State :=
  match s.proc? pid with
  | none => s
  | some p =>
    let rows := match p.latch.req with
      | .tred _ rows _ _ => rows.map TredRow.row
      | _ => [0]
    let s1 := rows.foldl (fun s r => (tryAtomicAtHome pid r s).getD s) s
    ((tryAtomicReply pid s1).orElse (fun _ => tryAtomicStop pid s1)).getD s1

/-! ### Moves (R142-R147) -/

/-- The pages of a process that a change of its core has left in another pool, where they find room (R142). -/
def State.bringPages (s : State) (pid : Pid) (c : Nat) : Option State :=
  if (s.pagesOff pid c).isEmpty || !s.pagesFit pid c then none else some (s.carryPages pid c)

/-- The address of a page of a process as MIGFAIL gives it: that of the scratchpad page, 0 for a tile page. -/
def Proc.pageAddr (p : Proc) (id : Nat) : Word :=
  match p.spDir.find? (fun x => x.2 == id) with
  | some x => BitVec.ofNat 64 (x.1 * 4096)
  | none => 0

/-- The copy of a move that is due: abandoned at a page that cannot be copied, while the source stays online (R146); else the
process arrives with every page, such a page poisoned (R147). -/
def State.copyMove (s : State) (p : Proc) (source target : Nat) : State :=
  let r := s.readForMove p.pid target
  match r.2 with
  | id :: _ =>
    if s.die (dieOfCore source) = .goingDown then s.endMove p.pid target true
    else (r.1.endMove p.pid source false).migFail p.pid (p.pageAddr id) target
  | [] => s.endMove p.pid target true

/-- MOVE_COMPLETE: the image is complete and every page is copied, for which the target's pool has room; of a process that
does not move, the pages that are elsewhere. -/
def tryMoveComplete (pid : Pid) (s : State) : Option State :=
  match s.proc? pid with
  | none => (s.queued? pid).bind (fun x => s.bringPages pid x.1)
  | some p =>
    match p.place with
    | .moving source target => if p.drained && s.pagesFit pid target then some (s.copyMove p source target) else none
    | _ => s.bringPages pid p.core

def execMoveComplete (pid : Pid) (s : State) : Host.Outcome State Fault Refusal := s.occur (tryMoveComplete pid s)

/-- A page that a move cannot read while its source goes down (R147): a resident scratchpad page becomes poisoned in the
table, and arrives poisoned where a tile register maps it too; any other bad page is a tile register's, which arrives
poisoned (log 29). -/
def State.losePage (s : State) (p : Proc) (addr : Word) : State :=
  match p.resident? (spPage addr) with
  | some id => s.losePad p (spPage addr) id
  | none =>
    match s.pick p.tileIds with
    | some id => (s.poisonPage id).drew
    | none => s

/-- MOVE_ABANDON: back to the source with MIGFAIL while the source stays online. -/
def tryMoveAbandon (pid : Pid) (addr : Word) (s : State) : Option State :=
  match s.proc? pid with
  | none => none
  | some p =>
    match p.place with
    | .moving source target =>
      if s.die (dieOfCore source) = .goingDown then some (s.losePage p addr)
      else if p.drained then some ((s.endMove pid source false).migFail pid addr target)
      else none
    | _ => none

def execMoveAbandon (pid : Pid) (addr : Word) (s : State) : Host.Outcome State Fault Refusal :=
  s.occur (tryMoveAbandon pid addr s)

/-- AFFINITY_MOVE. -/
def tryAffinityMove (pid : Pid) (s : State) : Option State :=
  match s.proc? pid with
  | none => none
  | some p =>
    match s.affinityTarget p with
    | some c => some (s.beginMove pid c)
    | none => none

def execAffinityMove (pid : Pid) (s : State) : Host.Outcome State Fault Refusal := s.occur (tryAffinityMove pid s)

end Sys2Proof.Machine
end

