-- ==== Sys2Proof/Machine/EvPager.lean ====
section
/-! DEFINITION. The pager of a core: page-ins that complete and evictions (10_scratchpad.md R270-R273, 07_tiles.md
R199-R202). -/

namespace Sys2Proof.Machine

/-! ### Page-ins (R270) -/

/-- A page-in is no longer wanted. -/
def State.endPageIn (s : State) (pid : Pid) (v : Nat) : State :=
  s.updProc pid (fun p => { p with pageIns := p.pageIns.filter (· != v) })

/-- PAGE_IN_COMPLETE: the page is resident; a fault of its backing is the accessing instruction's. It waits while the
pool has no room. -/
def tryPageInComplete (pid : Pid) (page : Nat) (s : State) : Option State :=
  match s.proc? pid with
  | none => none
  | some p =>
    if p.pageIns.contains page then
      match s.pageIn pid page with
      | .ok t => some (t.endPageIn pid page)
      | .error (.stall _) => none
      | .error (.area t) => some ((s.endPageIn pid page).areaFault p.part t)
      | .error (.trap t) =>
        if p.stall = .pageIn page then some ((s.endPageIn pid page).trapParked pid t p.iw0 p.iw1)
        else some (s.endPageIn pid page)
    else none

def execPageInComplete (pid : Pid) (page : Nat) (s : State) : Host.Outcome State Fault Refusal :=
  s.occur (tryPageInComplete pid page s)

/-! ### What needs room (R200, R329) -/

/-- The pages an operation posted at an end waits for: those of a tile receive whose partner is there. -/
def State.waitsFor (s : State) (p : Proc) : Nat :=
  match p.wait with
  | .op cell side =>
    match s.cell? cell with
    | none => 0
    | some c =>
      if (c.side (!side)).post.isNone && (s.recordAt c).isNone then 0
      else match (c.side side).post with
        | some (.recvt d) => TGrp.n d
        | some (.txmax d _ _) => TGrp.n d
        | some (.txsum d _ _) => TGrp.n d
        | some (.txmrg d _) => TGrp.n d
        | _ => 0
  | _ => 0

/-- Whether a tile instruction of a resident context waits at rename for pages (R200). -/
def State.renameWaits (s : State) (p : Proc) : Bool :=
  p.isResident && match (s.switchTo p.pid).lookAhead with
    | (u, .instr i) => takesEntry i && !u.renameRoom u.cur (u.rename i).fresh
    | _ => false

/-- Whether a process waits for room of the shared part of a core: for a copy, a page-in, a rename, what a channel
delivers, the pages that a change of its core brings. -/
def State.poolWaits (s : State) (c : Nat) (p : Proc) : Bool :=
  (p.stall == .pool c || p.core == c && !p.pageIns.isEmpty) && !s.sharedRoom c 1
    || p.core == c && (s.renameWaits p || p.isResident && s.waitsFor p != 0 && !s.sharedRoom c (s.waitsFor p)
      || !s.pagesFit p.pid c)

/-- Whether an allocation of the shared part of a core waits. -/
def State.poolWanted (s : State) (c : Nat) : Bool :=
  s.allProcs.any (s.poolWaits c) || (s.core c).records.any (fun r => !s.pagesFit r.pid c)

/-! ### Victims (R202, R272, R273) -/

/-- A victim: its owner, the page's stamp, and the scratchpad page or none for a tile page. -/
structure Victim where
  pid   : Pid
  prio  : BitVec 6
  stamp : Nat
  id    : Nat
  sp    : Option Nat
  deriving DecidableEq, Repr

def State.stampOf (s : State) (id : Nat) : Nat := ((s.pages.find? (fun q => q.id == id)).map PoolPage.stamp).getD 0

/-- The tile pages of a process as victims. -/
def State.tileVictims (s : State) (p : Proc) : List Victim :=
  (distinct p.tileIds).map (fun id => { pid := p.pid, prio := p.prio, stamp := s.stampOf id, id := id, sp := none })

/-- The scratchpad pages of a process in a state, none that a tile register maps, none whose write-back has failed. -/
def State.spVictims (s : State) (p : Proc) (st : Nat) : List Victim :=
  (p.spDir.filter (fun x => !p.tileIds.contains x.2 && !p.robIds.contains x.2 && !p.wbSkip.contains x.1 && sttState (s.sttPeek p.pid x.1) == st)).map
    (fun x => { pid := p.pid, prio := p.prio, stamp := s.stampOf x.2, id := x.2, sp := some x.1 })

/-- The oldest of some victims: by creation or last use, and the first of equals (log 54). -/
def oldestVictim (l : List Victim) : Option Victim :=
  l.foldl (fun b v => match b with | none => some v | some x => if v.stamp < x.stamp then some v else b) none

/-- The page of the lowest-priority owner, the oldest among equals. -/
def lowestVictim (l : List Victim) : Option Victim :=
  l.foldl (fun b v => match b with
    | none => some v
    | some x => if v.prio < x.prio then some v else if v.prio = x.prio ∧ v.stamp < x.stamp then some v else b) none

/-- The parked and the resident processes of a core. -/
def State.parkedAt (s : State) (c : Nat) : List Proc := s.allProcs.filter (fun p => p.place == .parked && p.home == c)
def State.residentAt (s : State) (c : Nat) : List Proc := s.allProcs.filter (fun p => p.inSlot && p.core == c)

/-- The three groups of R202; in the third no owner is picked that is faulted already (log 53), nor one that is exiting, of
which a trap is void (R139). -/
def State.group1 (s : State) (c : Nat) : List Victim :=
  (s.parkedAt c).flatMap (fun p => s.tileVictims p ++ s.spVictims p 3)
def State.group2 (s : State) (c : Nat) : List Victim := (s.residentAt c).flatMap (fun p => s.spVictims p 3)
def State.group3 (s : State) (c : Nat) : List Victim :=
  ((s.parkedAt c ++ s.residentAt c).filter (fun p => !p.trapVoid)).flatMap (fun p => s.spVictims p 2)

/-! ### Eviction -/

/-- A tile page of a parked process goes to its place in the image, for every register that maps it. -/
def State.evictTile (s : State) (p : Proc) (id : Nat) : State :=
  let regs := (List.range 32).filter (fun k => p.tref k == .pool id)
  let s0 := s.settlePage id
  let pg := s0.pageOf id
  let s1 := regs.foldl (fun s k => match s.pageToImage p k pg with
    | .ok t => t
    | .error t => s.areaFault p.part t) s0
  (s1.updProc p.pid (fun p => { p with t := regs.foldl (fun t k => setRefs t k [.image]) p.t })).sweep p.pid

/-- A backed scratchpad page leaves the pool, written back if dirty; where its write-back faults it stays, and the pager
skips it from then on (R271). -/
def State.evictBacked (s : State) (c : Nat) (p : Proc) (v : Nat) : State :=
  let out := do
    let (s1, e) ← s.sttGet p.pid v
    let s2 ← if sttDirty e then s1.writeBack p.pid v e c else pure s1
    let s3 ← (s2.dropCopy p.pid v).sttPut p.pid v (leftEntry e)
    return s3.sttDrop p.pid v
  match out with
  | .ok t => t
  | .error (.area t) => s.areaFault p.part t
  | .error _ => s.updProc p.pid (fun p => { p with wbSkip := v :: p.wbSkip })

/-- One victim goes. -/
def State.evict (s : State) (c : Nat) (x : Victim) : State :=
  match s.proc? x.pid with
  | none => s
  | some p => match x.sp with
    | none => s.evictTile p x.id
    | some v => s.evictBacked c p v

/-- The owner of an unbacked page is stopped (R272). -/
def State.pagerFault (s : State) (x : Victim) : State :=
  match x.sp with
  | none => s
  | some v =>
    (s.updProc x.pid (fun p => { p with pagerStop := some v })).trapParked x.pid (.at .spfault (BitVec.ofNat 64 (v * 4096)))
      0 0

/-- EVICTION: one page of a core, while an allocation waits. In the third group one owner at a time is stopped, and the
pager waits for its page's backing (log 32). -/
def tryEviction (core : Nat) (s : State) : Option State :=
  if s.poolWanted core then
    match oldestVictim (s.group1 core) with
    | some x => some (s.evict core x)
    | none =>
      match oldestVictim (s.group2 core) with
      | some x => some (s.evict core x)
      | none =>
        if (s.parkedAt core ++ s.residentAt core).any (fun p => p.pagerStop.isSome) then
          none
        else match lowestVictim (s.group3 core) with
          | some x => some (s.pagerFault x)
          | none => none
  else none

def execEviction (core : Nat) (s : State) : Host.Outcome State Fault Refusal := s.occur (tryEviction core s)

end Sys2Proof.Machine
end

