-- ==== Sys2Proof/Machine/Sys.lean ====
section
/-! DEFINITION. The SYS forms and TRAP: PARK, RESUME, MIGR, KILL, HALT, BRK (15_traps.md R403-R406), STTW and STTI
(10_scratchpad.md R279-R282), TLBI and TLBIA (14_translation.md R385). -/

namespace Sys2Proof.Machine

/-! ### NOP, HALT, BRK, TRAP (R403, R405, R406) -/

def execNop (s : State) : Host.Outcome State Fault Refusal := .next (s.next 4)

/-- HALT: the context issues nothing after it until the host releases it; host event 2. -/
def execHalt (s : State) : Host.Outcome State Fault Refusal :=
  s.finish (do
    s.needSup
    let s1 := s.next 4
    return { s1 with cur := { s1.cur with halted := true, haltOp := true } }.hostEvent 2 [zextWord s1.cur.pid])

def execBrk (s : State) : Host.Outcome State Fault Refusal := .next (s.takeTrap (.at .brk s.cur.ip))

def execTrap (code : BitVec 20) (s : State) : Host.Outcome State Fault Refusal :=
  .next (s.takeTrap { cause := .trapi, addr := 0, detail := code.setWidth 40 })

/-! ### PARK, RESUME, MIGR, KILL (R404) -/

/-- The PID an operand names: none where the upper half is not 0. -/
def pidOf (v : Word) : Option Pid := if v.toNat / 2 ^ 32 = 0 then some (v.setWidth 32) else none

/-- A form on a process of the partition; on no such process it only retires. -/
def State.onProcess (s : State) (v : Word) (self : Bool) (f : State → Pid → State) : Except Halt State := do
  trapIf (!self && pidOf v == some s.cur.pid) .illegal 0
  let s1 := s.next 4
  match pidOf v with
  | some p => return if s1.inPart s1.cur.part p then f s1 p else s1
  | none => return s1

def execPark (a : SReg) (s : State) : Host.Outcome State Fault Refusal :=
  s.finish (do
    s.needSup
    s.onProcess (s.rd a) false State.parkAny)

/-- RESUME releases before it takes effect. -/
def execResume (a : SReg) (s : State) : Host.Outcome State Fault Refusal :=
  s.finish (do
    s.needSup
    s.onProcess (s.rd a) false (fun s p => s.release.resumeProc p))

def execMigr (a b : SReg) (s : State) : Host.Outcome State Fault Refusal :=
  s.finish (do
    s.needSup
    trapIf (decide (90 ≤ (s.rd b).toNat)) .illegal 0
    s.onProcess (s.rd a) true (fun s p => s.migrate p (s.rd b).toNat))

/-- Whether the process an operand names ends by its own EXIT now, for which a KILL of it waits (R404). -/
def State.exitsNow (s : State) (v : Word) : Bool :=
  match (pidOf v).bind s.proc? with
  | some p => p.part == s.cur.part && p.isExiting
  | none => false

/-- KILL retires once the process is exited. -/
def execKill (a : SReg) (s : State) : Host.Outcome State Fault Refusal :=
  s.finish (do
    s.needSup
    if s.exitsNow (s.rd a) then return s
    s.onProcess (s.rd a) false State.killAny)

/-! ### STTW and STTI (10_scratchpad.md R276, R279, R280) -/

/-- The process whose space an STTW or STTI acts on. -/
def State.sttTarget (s : State) : Pid :=
  if s.cur.sup && s.curPart.sttroot.getLsbD 63 then s.curPart.sttroot.setWidth 32 else s.cur.pid

/-- The target is a process of the partition. -/
def State.sttExists (s : State) : Except Halt Proc :=
  match s.space? s.sttTarget with
  | some p => if p.part = s.cur.part then .ok p else .error (.trap (.at .illegal 0))
  | none => .error (.trap (.at .illegal 0))

/-- The address of a page of the space. -/
def pageAddress (x : Word) : Except Halt Unit := do
  trapIf (!aligned x 4096) .misalign x
  trapIf (x.toNat / 2 ^ 24 != 0) .spfault x

/-- A resident copy that is a fresh zero page: from the shared part of the pool of the target's core (R199, R200). -/
def State.newCopy (s : State) (p : Proc) (v : Nat) : Except Halt State :=
  if s.sharedRoom p.core 1 then
    let s1 := s.dropCopy p.pid v
    match s1.freshPages p [zeroPage] with
    | (t, [.pool id]) => .ok (t.updDir p.pid (dirSet v (some id)))
    | (t, _) => .ok t
  else .error (.stall (.pool p.core))

/-- The entry that a request makes of an entry (R280); op is 0 to 6. -/
def sttwEntry (e v : Word) : Word :=
  let r := v.getLsbD 7
  let w := v.getLsbD 6
  let backing := v &&& 0x000FFFFFFFFFF000
  match v.toNat % 8 with
  | 0 => sttEntry 0 (sttSaved e) (sttDirty e) r w 0
  | 1 => sttEntry backing false (sttDirty e) r w 1
  | 2 => sttEntry 0 (sttSaved e) (sttDirty e) r w 2
  | 3 => sttEntry backing false true r w 3
  | 4 => sttEntry (sttBacking e) (sttSaved e) (sttDirty e) r w (sttState e)
  | 5 => sttEntry (sttBacking e) (sttSaved e) (sttDirty e) r w
      (if sttState e = 1 ∨ sttState e = 3 ∨ sttState e = 5 then 5 else 4)
  | _ => sttEntry backing false true r w 3

/-- What happens to the resident copy (R280). -/
def State.sttwCopy (s : State) (p : Proc) (v op : Nat) : Except Halt State :=
  match op with
  | 2 => s.newCopy p v
  | 3 => s.newCopy p v
  | 4 => .ok s
  | 6 => .ok s
  | _ => .ok (s.dropCopy p.pid v)

/-- The pager may try a page again after its entry changed (R271), and its TLB entries go. -/
def State.sttChanged (s : State) (pid : Pid) (v : Nat) : State :=
  (s.sttDrop pid v).updProc pid (fun p => { p with
    wbSkip := p.wbSkip.filter (· != v), pageIns := p.pageIns.filter (· != v)
    pagerStop := if p.pagerStop = some v then Option.none else p.pagerStop })

def execSttw (a b : SReg) (s : State) : Host.Outcome State Fault Refusal :=
  let x := s.rd a
  let v := s.rd b
  let op := v.toNat % 8
  s.finish (do
    let p ← s.sttExists
    trapIf (op == 7 || v.toNat / 8 % 8 != 0 || v.toNat / 256 % 16 != 0) .illegal 0
    trapIf (op == 5 && !s.cur.sup) .privilege 0
    pageAddress x
    trapIf ((op == 1 || op == 3 || op == 6) && v.toNat / 2 ^ 52 != 0) .gprot (v &&& ~~~(0xFFF : Word))
    let (s1, e) ← s.sttGet p.pid (spPage x)
    trapIf (op == 6 && sttState e != 2 && sttState e != 3) .illegal 0
    let s2 ← s1.sttwCopy p (spPage x) op
    let s3 ← s2.sttPut p.pid (spPage x) (sttwEntry e v)
    return (s3.sttChanged p.pid (spPage x)).next 4)

/-- STTI: a dirty page is written back, and its copy goes. -/
def execStti (a : SReg) (s : State) : Host.Outcome State Fault Refusal :=
  let x := s.rd a
  s.finish (do
    let p ← s.sttExists
    pageAddress x
    let (s1, e) ← s.sttGet p.pid (spPage x)
    if sttState e = 3 then
      let s2 ← if sttDirty e then s1.release.writeBack p.pid (spPage x) e s.curCore else pure s1
      let s3 ← (s2.dropCopy p.pid (spPage x)).sttPut p.pid (spPage x) (leftEntry e)
      return (s3.sttChanged p.pid (spPage x)).next 4
    else return (s1.sttChanged p.pid (spPage x)).next 4)

/-! ### TLBI and TLBIA (14_translation.md R385) -/

/-- Whether a cached leaf is in the scope of an invalidation: all of an address space, or the page that holds va. -/
def TEntry.inScope (e : TEntry) (asid : BitVec 12) (va : Option Word) : Bool :=
  match va with
  | none => e.asid == asid
  | some x => e.covers asid x

/-- Every cached leaf of a scope goes, on every core and quad of a die that is not offline. -/
def State.dropLeaves (s : State) (asid : BitVec 12) (va : Option Word) : State :=
  let keep := fun (l : List TEntry) => l.filter (fun e => !e.inScope asid va)
  let s1 := { s with cores := s.cores.mapIdx (fun c (k : Core) =>
    if s.coreOnline c then { k with tcache := keep k.tcache } else k) }
  { s1 with quads := s1.quads.mapIdx (fun q (k : Quad) =>
    if s.dieAway (q / 12) then k else { k with tcache := keep k.tcache }) }

/-- Whether a store translated by a leaf of the scope: all of its space, or the page that holds an address. -/
def PStore.inScope (st : PStore) (va : Option Word) : Bool :=
  match va with
  | none => true
  | some x => st.va.toNat / 2 ^ pageBits st.level == x.toNat / 2 ^ pageBits st.level

/-- Every store of the partition that translated by a leaf of the scope performs (log 7). -/
def State.drainScope (s : State) (part : Nat) (va : Option Word) : State :=
  ((s.allProcs.filter (fun p => p.part == part && p.stores.any (fun st => st.inScope va))).map Proc.pid).foldl State.drain s

/-- A tile memory instruction that has translated and not read starts again, and translates anew. -/
def RobEntry.restart (r : RobEntry) : RobEntry :=
  if r.early.any (fun e => e.data.isNone) then { r with early := none, started := false, done := false } else r

/-- What the contexts of a partition have translated for loads and stores that have not retired goes. -/
def State.dropEarly (s : State) (part : Nat) : State :=
  s.mapProcs (fun p => if p.part = part then { p with rob := p.rob.map RobEntry.restart } else p)

/-- The invalidation: older stores of the context first, then the leaves, then the stores that used them. -/
def State.invalidate (s : State) (va : Option Word) : State :=
  let s1 := s.drain s.cur.pid
  let asid := s1.curPart.asid
  ((s1.dropLeaves asid va).drainScope s.cur.part va).dropEarly s.cur.part

/-- Whether another context of a partition has a request on its way: an access that translated before and has not
performed, for which an invalidation waits (R385). -/
def State.requestsOut (s : State) (part : Nat) (but : Pid) : Bool :=
  s.allProcs.any (fun p => p.part == part && p.pid != but && p.latch.sent && !p.latch.done && p.latch.stop == 0)

/-- The end of an invalidation: it retires when no request of the partition is on its way. -/
def State.endInvalidate (s : State) : State := if s.requestsOut s.cur.part s.cur.pid then s else s.next 4

/-- TLBI waits while the retry latch holds a request. -/
def execTlbi (a b : SReg) (s : State) : Host.Outcome State Fault Refusal :=
  s.finish (do
    s.needSup
    trapIf ((s.rd b).toNat != s.curPart.asid.toNat) .illegal 0
    trapIf ((s.rd a).toNat / 2 ^ 52 != 0) .illegal 0
    if s.cur.latch.sent then return s
    return (s.invalidate (some (s.rd a))).endInvalidate)

def execTlbia (s : State) : Host.Outcome State Fault Refusal :=
  s.finish (do
    s.needSup
    if s.cur.latch.sent then return s
    return (s.invalidate none).endInvalidate)

end Sys2Proof.Machine
end

