-- ==== Sys2Proof/Machine/SysReg.lean ====
section
/-! DEFINITION. MFSR and MTSR (15_traps.md R407, R408) and the rule of each system register: areas, PTROOT, timers,
buckets, throttle reasons, the hinge window (R402), debug controls (R409-R412), LINKCFG. -/

namespace Sys2Proof.Machine

/-! ### Buckets (17_power.md R440, R441) -/

/-- The level never exceeds cap; a bucket that is never charged reads level = cap. -/
def Bucket.capped (b : Bucket) : Bucket :=
  if b.unlimited then { b with level := b.cap.toNat, carry := 0 } else { b with level := min b.level b.cap.toNat }

/-- A write of the level register sets level and mark, and the remainder returns to 0. -/
def Bucket.setLevel (b : Bucket) (v : Word) : Bucket :=
  { b with mark := BitVec.ofNat 24 (v.toNat / 2 ^ 40), level := v.toNat % 2 ^ 40, carry := 0 }.capped

/-- A write of the refill register. -/
def Bucket.setRefill (b : Bucket) (v : Word) : Bucket :=
  { b with cap := BitVec.ofNat 32 (v.toNat / 2 ^ 32), rate := BitVec.ofNat 32 v.toNat }.capped

def Bucket.levelWord (b : Bucket) : Word := BitVec.ofNat 64 (b.mark.toNat * 2 ^ 40 + b.level)
def Bucket.refillWord (b : Bucket) : Word := BitVec.ofNat 64 (b.cap.toNat * 2 ^ 32 + b.rate.toNat)

/-- A move for heat that a clock pause has latched is not made (17_power.md R445). -/
def State.dropLatchedMove (s : State) (pid : Pid) : State :=
  { s with cores := s.cores.map (fun (k : Core) => { k with
    pause := k.pause.map (fun x => { x with latched := x.latched.filter (fun l =>
      match l with | .move q _ heat => !(heat && q == pid) | _ => true) }) }) }

/-- A partition parks (05_processes.md R136): every resident process parks, and nothing of it starts. -/
def State.parkPartition (s : State) (part : Nat) : State :=
  let s1 := s.updPart part (fun p => { p with parked := true })
  ((s1.allProcs.filter (fun p => p.part == part && p.isResident)).map Proc.pid).foldl (fun s p => (s.dropLatchedMove p).parkProc p false) s1

/-- The partition parks when a bucket's level has reached 0. -/
def State.bucketCheck (s : State) (part i : Nat) : State :=
  let b := (s.part part).bucket i
  if b.level = 0 && !b.unlimited && !(s.part part).parked then s.parkPartition part else s

/-! ### Timers (12_channels.md R342) -/

/-- The timer a TMRCMP value names. -/
def timerOf (v : Word) : Fin 8 := Fin.ofNat 8 (v.toNat / 2 ^ 56 % 8)

/-- A timer of a partition is armed to a CYCLE value, or disarmed. -/
def State.setTimer (s : State) (part : Nat) (t : Fin 8) (due : Option Word) : State :=
  s.updPart part (fun p => { p with tmrLast := some t, timers := p.timers.set t { p.timers[t] with due := due } })

/-- A write of TMRCMP. -/
def State.writeTimer (s : State) (part : Nat) (v : Word) : State :=
  s.setTimer part (timerOf v) (if v.getLsbD 63 then some (s.cycle + BitVec.ofNat 64 (v.toNat % 2 ^ 56)) else none)

/-- A read of TMRCMP: the timer last written, with the remaining delay while it is pending. -/
def State.readTimer (s : State) (p : Part) : Word :=
  match p.tmrLast with
  | none => 0
  | some t =>
    match p.timers[t].due with
    | none => BitVec.ofNat 64 (t.val * 2 ^ 56)
    | some d => BitVec.ofNat 64 (2 ^ 63 + t.val * 2 ^ 56 + (d - s.cycle).toNat % 2 ^ 56)

/-! ### Areas (R119, R263, R321, R396) -/

/-- Whether a scratchpad slot of a partition is in use. -/
def State.slotsInUse (s : State) (part : Nat) : Bool :=
  s.allProcs.any (fun q => q.part == part && !q.sup && q.spSlot.isSome)
    || s.cores.toList.any (fun k => k.records.any (fun r => r.part == part && !r.sup && r.spSlot.isSome))

/-- SPAREA: a new base is taken only when no slot is in use. -/
def State.writeSparea (s : State) (part : Nat) (v : Word) : State :=
  let base := if s.slotsInUse part then (s.part part).sparea &&& 0x000FFFFFFFFF8000 else v &&& 0x000FFFFFFFFF8000
  s.updPart part (fun p => { p with sparea := base ||| (v &&& 0x7FFF) })

/-- IMGAREA: a slot in use keeps the base, and v is taken. -/
def State.writeImgarea (s : State) (part : Nat) (v : Word) : State :=
  let base := if s.slotsInUse part then (s.part part).imgarea &&& 0x000FFFFFFFFFF000 else v &&& 0x000FFFFFFFFFF000
  s.updPart part (fun p => { p with imgarea := base ||| (v &&& 1) })

/-- CHAREA: a cell in use keeps the base; en and order are taken, an order above 20 as 20. -/
def State.writeCharea (s : State) (part : Nat) (v : Word) : State :=
  let inUse := s.cells.any (fun c => c.part == part && !c.dh)
  let base := if inUse then (s.part part).charea &&& 0x000FFFFFFC000000 else v &&& 0x000FFFFFFC000000
  s.updPart part (fun p => { p with
    charea := base ||| (v &&& 0x20) ||| BitVec.ofNat 64 (min (v.toNat % 32) 20) })

/-- DQOVF: new spills go there, and a segment whose refill faulted is tried again (R120). -/
def State.writeDqovf (s : State) (part : Nat) (v : Word) : State :=
  let s1 := s.updPart part (fun p => { p with dqovf := v &&& 0x000FFFFFFFFFFFFF })
  { s1 with cores := s1.cores.map (fun (k : Core) => { k with spillOff := k.spillOff.filter (fun x => x.1 != part) }) }

/-! ### THRREASON, TEMP (17_power.md R437, R439) -/

/-- The lowest point an enabled core of a quad runs at. -/
def State.lowestPoint (s : State) (q : Nat) : Nat :=
  (List.range 90).foldl (fun m c => if s.quadOf c = q ∧ (s.core c).point < m then (s.core c).point else m) 15

/-- Clear reasons, set lowpt afresh. -/
def State.writeThrreason (s : State) (q : Nat) (v : Word) : State :=
  let low := s.lowestPoint q
  s.updQuad q (fun k => { k with reason := k.reason &&& ~~~(v.setWidth 5), lowpt := BitVec.ofNat 4 low })

def Quad.reasonWord (q : Quad) : Word := BitVec.ofNat 64 (q.lowpt.toNat * 256 + q.reason.toNat)

def State.tempWord (s : State) (c : Nat) : Word :=
  BitVec.ofNat 64 ((s.core c).point % 16 * 2 ^ 32 + (s.boot.record.limit c).toNat * 2 ^ 16 + (s.core c).temp.toNat)

/-! ### The hinge window (R402) -/

/-- The place fields of an entry: tile, slot, logical core. -/
def State.placeBits (s : State) (c slot : Nat) : Nat := (s.core c).phys * 2 ^ 50 + slot * 2 ^ 48 + c * 2 ^ 40

/-- The entry of a process. -/
def State.hingeProc (s : State) (p : Proc) (queued : Bool) : Word :=
  let st : Nat × Nat := if queued then (1, 0) else match p.place with
    | .resident _ slot => (2, slot)
    | .exiting _ slot => (5, slot)
    | .parked => (3, 0)
    | .moving _ _ => (4, 0)
    | .gone => (0, 0)
  let image := if p.sup then 0x7FFF else p.spSlot.getD 0
  BitVec.ofNat 64 (st.1 * 2 ^ 61 + bit (p.held || p.halted && p.place == .parked && !queued) * 2 ^ 60
    + bit p.faulted * 2 ^ 59 + bit p.isBlocked * 2 ^ 58 + bit p.halted * 2 ^ 57 + s.placeBits p.core st.2 + image * 2 ^ 25)

/-- The entry of a PID for a partition. -/
def State.hingePid (s : State) (part : Nat) (pid : Pid) : Word :=
  match s.space? pid with
  | some p => if p.part = part then s.hingeProc p (s.proc? pid).isNone else 0
  | none => 0

/-- The entry of a logical core. -/
def State.hingeCore (s : State) (c : Nat) : Word :=
  if c < 90 then BitVec.ofNat 64 ((if s.coreOnline c then 1 else 2) * 2 ^ 61 + s.placeBits c 0) else 0

/-- What MFSR of HINGE reads. -/
def State.readHinge (s : State) (part : Nat) (sel : Word) : Word :=
  if sel.getLsbD 63 then s.hingeCore (sel.toNat % 2 ^ 32) else s.hingePid part (sel.setWidth 32)

/-! ### Debug (R409-R412, 19_trust.md R475) -/

/-- The debug fields of a queued process are those of its record. -/
def Rec.setCtl (r : Rec) (p : Proc) : Rec :=
  { r with bmask := p.bmask, wmask := p.wmask, halted := p.halted, stepping := p.stepping, skipBp := p.skipBp }

/-- Change the debug fields of a process, queued or not. -/
def State.updCtl (s : State) (pid : Pid) (f : Proc → Proc) : State :=
  match s.proc? pid with
  | some _ => s.updProc pid f
  | none => s.updRec pid (fun r => r.setCtl (f r.toProc))

/-- Op 0: the enable masks. -/
def State.debugMasks (s : State) (pid : Pid) (wmask : BitVec 2) (bmask : BitVec 4) : State :=
  s.updCtl pid (fun p => { p with wmask := wmask, bmask := bmask })

/-- Op 1: a halted process does not issue, and a parked one is held. -/
def State.debugStop (s : State) (pid : Pid) : State :=
  let s1 := s.updCtl pid (fun p => { p with halted := true, stepping := false })
  match s1.proc? pid with
  | some p => if p.place = .parked then s1.dequeue pid else s1
  | none => s1

/-- Op 2: the first instruction after it takes no IP breakpoint (R411). -/
def State.debugGo (s : State) (pid : Pid) : State :=
  (s.updCtl pid (fun p => if p.halted then { p with halted := false, haltOp := false, stepping := false, skipBp := true } else p)).enqueue pid

/-- Op 3: a halted process issues until one instruction retires or traps. -/
def State.debugOne (s : State) (pid : Pid) : State :=
  (s.updCtl pid (fun p => if p.halted then { p with stepping := true, skipBp := true } else p)).enqueue pid

/-- A control word acts on a process. -/
def State.debugCtl (s : State) (pid : Pid) (v : Word) : State :=
  match v.toNat / 2 ^ 62 with
  | 0 => s.debugMasks pid (BitVec.ofNat 2 (v.toNat / 2 ^ 40)) (BitVec.ofNat 4 (v.toNat / 2 ^ 36))
  | 1 => s.debugStop pid
  | 2 => s.debugGo pid
  | _ => s.debugOne pid

/-- The word a control of a process of a partition reads: nothing in NONE, no masks for a confidential partition in
OBSERVE. -/
def State.debugRead (s : State) (part : Nat) (pid : Pid) : Word :=
  let q := s.part part
  if q.debug = .off then 0
  else match s.space? pid with
    | some p =>
      if p.part = part then
        let masks := if q.conf && q.debug == .observe then 0 else p.wmask.toNat * 2 ^ 40 + p.bmask.toNat * 2 ^ 36
        BitVec.ofNat 64 (bit p.halted * 2 ^ 63 + bit p.stepping * 2 ^ 62 + masks + pid.toNat)
      else zextWord pid
    | none => zextWord pid

/-- A control is written: it takes effect in INVASIVE alone, on a process of the partition. -/
def State.debugWrite (s : State) (part : Nat) (pid : Pid) (v : Word) : State :=
  if (s.part part).debug = .invasive && s.inPart part pid then s.debugCtl pid v else s

/-- A breakpoint or watchpoint register is read: 0 in NONE, and in OBSERVE of a confidential partition (R475). -/
def Part.bpVisible (p : Part) : Bool := p.debug != .off && !(p.conf && p.debug == .observe)

/-- The fields of IBPn and DWPn (R410). -/
def ibpStored (v : Word) : Word := v &&& ~~~(3 : Word)
def dwpStored (v : Word) : Word := v &&& 0x000FFFFFFFFFFFFB

/-! ### LINKCFG (18_host.md R451, R457) -/

def LinkSt.word (l : LinkSt) : Word := BitVec.ofNat 64 (l.up.toNat * 2 ^ 8 + l.en.toNat * 2 ^ 4 + l.self.val)

/-- Only the supervisor of a link owner writes it. -/
def State.writeLinkcfg (s : State) (part : Nat) (v : Word) : State :=
  if (s.part part).linkOwn then { s with link := { s.link with en := BitVec.ofNat 4 (v.toNat / 16) } } else s

/-! ### The map (R408) -/

/-- PTROOT: the new root, after the address space's cached translations are gone (14_translation.md R376). -/
def State.writePtroot (s : State) (v : Word) : State :=
  (s.invalidate none).updPart s.cur.part (fun p => { p with ptroot := v &&& 0x000FFFFFFFFF8001 })

/-- The value of a system register for the context that executes. -/
def State.sysRead (s : State) (n : Nat) : Word :=
  let p := s.curPart
  if n = 0 then s.cycle
  else if n = 1 then zextWord s.cur.pid
  else if n = 2 then BitVec.ofNat 64 s.curCore
  else if n = 3 then BitVec.ofNat 64 s.cur.part
  else if n = 4 then zextWord s.cur.prio
  else if n = 0x10 then s.cur.fcsr
  else if n = 0x11 then s.cur.tcsr
  else if n = 0x20 then p.feat
  else if n = 0x21 then 1
  else if n = 0x100 then zextWord p.dlthr
  else if n = 0x101 then zextWord p.preempt
  else if n = 0x102 then p.dqovf
  else if n = 0x110 then p.ptroot
  else if n = 0x111 then zextWord p.asid
  else if n = 0x118 then p.sttroot
  else if n = 0x119 then p.sparea
  else if n = 0x11A then p.charea
  else if n = 0x11B then p.imgarea
  else if 0x120 ≤ n ∧ n ≤ 0x122 then (p.bucket (n - 0x120)).levelWord
  else if 0x128 ≤ n ∧ n ≤ 0x12A then (p.bucket (n - 0x128)).refillWord
  else if n = 0x130 then (s.quad (s.quadOf s.curCore)).reasonWord
  else if n = 0x131 then s.tempWord s.curCore
  else if n = 0x140 then s.readTimer p
  else if n = 0x150 then s.readHinge s.cur.part s.cur.hinge
  else if n = 0x160 then s.link.word
  else if n = 0x170 then s.debugRead s.cur.part (s.cur.dbgsel.setWidth 32)
  else if h : 0x171 ≤ n ∧ n ≤ 0x174 then (if p.bpVisible then p.ibp[n - 0x171] else 0)
  else if h : 0x175 ≤ n ∧ n ≤ 0x176 then (if p.bpVisible then p.dwp[n - 0x175] else 0)
  else 0

/-- DBGCTL written by a supervisor: in INVASIVE it selects the process it names and acts on it. -/
def State.writeDbgctl (s : State) (v : Word) : State :=
  if s.curPart.debug = .invasive then
    { s with cur := { s.cur with dbgsel := v &&& 0xFFFFFFFF } }.debugWrite s.cur.part (v.setWidth 32) v
  else s

/-- The registers that only store, by number: what a partition holds after the write. -/
def Part.sysStore (p : Part) (n : Nat) (v : Word) : Part :=
  if n = 0x100 then { p with dlthr := v.setWidth 32 }
  else if n = 0x101 then { p with preempt := v.setWidth 7 }
  else if n = 0x118 then { p with sttroot := v &&& 0x80000000FFFFFFFF }
  else if h : 0x171 ≤ n ∧ n ≤ 0x174 then
    (if p.debug = .invasive then { p with ibp := p.ibp.set (n - 0x171) (ibpStored v) } else p)
  else if h : 0x175 ≤ n ∧ n ≤ 0x176 then
    (if p.debug = .invasive then { p with dwp := p.dwp.set (n - 0x175) (dwpStored v) } else p)
  else p

/-- A writable system register takes a value under its own rule, for the context that executes. -/
def State.sysWrite (s : State) (n : Nat) (v : Word) : State :=
  if n = 0x10 then { s with cur := { s.cur with fcsr := fcsrStored v } }
  else if n = 0x11 then { s with cur := { s.cur with tcsr := tcsrStored v } }
  else if n = 0x102 then s.writeDqovf s.cur.part v
  else if n = 0x110 then s.writePtroot v
  else if n = 0x119 then s.writeSparea s.cur.part v
  else if n = 0x11A then s.writeCharea s.cur.part v
  else if n = 0x11B then s.writeImgarea s.cur.part v
  else if 0x120 ≤ n ∧ n ≤ 0x122 then
    (s.updBucket s.cur.part (n - 0x120) (fun b => b.setLevel v)).bucketCheck s.cur.part (n - 0x120)
  else if 0x128 ≤ n ∧ n ≤ 0x12A then
    (s.updBucket s.cur.part (n - 0x128) (fun b => b.setRefill v)).bucketCheck s.cur.part (n - 0x128)
  else if n = 0x130 then s.writeThrreason (s.quadOf s.curCore) v
  else if n = 0x140 then s.writeTimer s.cur.part v
  else if n = 0x150 then { s with cur := { s.cur with hinge := v &&& 0x80000000FFFFFFFF } }
  else if n = 0x160 then s.writeLinkcfg s.cur.part v
  else if n = 0x170 then s.writeDbgctl v
  else s.updPart s.cur.part (fun p => p.sysStore n v)

/-! ### MFSR and MTSR (R407) -/

/-- PRIVILEGE for the numbers reserved to supervisors (R25, R43). -/
def State.sysAllowed (s : State) (n : Nat) : Except Halt Unit := trapIf (decide (0x100 ≤ n) && !s.cur.sup) .privilege 0

def execMfsr (d : SReg) (n : BitVec 15) (s : State) : Host.Outcome State Fault Refusal :=
  s.finish (do
    s.sysAllowed n.toNat
    return (s.wr d (s.sysRead n.toNat)).next 4)

/-- MTSR retires before its register's rule acts: a process that it parks stands after it (17_power.md R441). A write
of PTROOT waits as TLBIA does (14_translation.md R376, R385). -/
def execMtsr (n : BitVec 15) (d : SReg) (s : State) : Host.Outcome State Fault Refusal :=
  s.finish (do
    s.sysAllowed n.toNat
    if n.toNat = 0x110 && s.cur.latch.sent then return s
    if n.toNat = 0x110 && s.requestsOut s.cur.part s.cur.pid then return s.invalidate none
    return (s.next 4).sysWrite n.toNat (s.rd d))

end Sys2Proof.Machine
end

