-- ==== Sys2Proof/Machine/EvPower.lean ====
section
/-! DEFINITION. Events of power and budgets: evaluations, operating points and their pauses, refill steps, empty
buckets (17_power.md R434-R443, 15_traps.md R413). -/

namespace Sys2Proof.Machine

/-! ### Operating points (R434-R437) -/

/-- The points a core may run at, lowest first. -/
def Core.points (k : Core) : List Nat := (List.range 16).filter (fun p => !k.gone.contains p)

/-- The highest point left, or point 0. -/
def Core.topPoint (k : Core) : Nat := (k.points.getLast?).getD 0

/-- The next available point below and above the one a core runs at or changes to. -/
def Core.aim (k : Core) : Nat := (k.wanted.orElse (fun _ => k.pause.map Pause.point)).getD k.point
def Core.below (k : Core) : Option Nat := (k.points.filter (fun p => decide (p < k.aim))).getLast?
def Core.above (k : Core) : Option Nat := (k.points.filter (fun p => decide (k.aim < p))).head?

/-- The cores of a quad. -/
def State.quadCores (s : State) (q : Nat) : List Nat := (List.range 90).filter (fun c => s.quadOf c == q)

/-- Reason bits of R437: THERM 0, CURR 1, SLEW 2, CAP 3, REL 4. -/
def State.setReason (s : State) (c bit : Nat) : State :=
  s.updQuad (s.quadOf c) (fun q => { q with reason := q.reason ||| BitVec.ofNat 5 (2 ^ bit) })

/-- A change of point pauses the core; it waits, with SLEW, while another core of the quad is changing (R435). -/
def State.changePoint (s : State) (c p : Nat) : State :=
  if (s.core c).aim = p then s
  else if (s.core c).pause.isSome then s.updCore c (fun k => { k with wanted := some p })
  else if (s.quadCores (s.quadOf c)).any (fun d => (s.core d).pause.isSome) then
    (s.updCore c (fun k => { k with wanted := some p })).setReason c 2
  else s.updCore c (fun k => { k with wanted := none, pause := some { point := p, latched := [] } })

/-- A change of a quad that waits starts, the lowest core first; those that still wait set SLEW. -/
def State.startWaiting (s : State) (q : Nat) : State :=
  match (s.quadCores q).filter (fun c => (s.core c).wanted.isSome) with
  | [] => s
  | c :: rest =>
    let s1 := s.updCore c (fun k => { k with
      wanted := none, pause := k.wanted.map (fun p => { point := p, latched := [] }) })
    if rest.isEmpty then s1 else s1.setReason c 2

/-- A latched happening is acted on (15_traps.md R413). -/
def State.replay (s : State) : Latched → State
  | .park pid hold => s.parkProc pid hold
  | .trap pid cause addr detail iw0 iw1 cycle =>
    s.trapNow pid { cause := cause, addr := addr, detail := detail } iw0 iw1 cycle
  | .move pid target heat => s.startMove pid target heat
  | .writes pid w => s.write pid w
  | .tiles pid d pages => s.mapPages pid d pages

/-- PAUSE_END: the core runs at its new point, and what the pause latched is acted on in order. -/
def tryPauseEnd (core : Nat) (s : State) : Option State :=
  match (s.core core).pause with
  | none => none
  | some x =>
    let q := s.quadOf core
    let s1 := (s.updCore core (fun k => { k with point := x.point, pause := none })).updQuad q (fun k =>
      { k with lowpt := if x.point < k.lowpt.toNat then BitVec.ofNat 4 x.point else k.lowpt })
    some ((x.latched.foldl State.replay s1).startWaiting q)

def execPauseEnd (core : Nat) (s : State) : Host.Outcome State Fault Refusal := s.occur (tryPauseEnd core s)

/-- POINT_WITHDRAWAL (R436): REL, the error log (R24), and the highest point left, or point 0. At boot the core starts
there, and the ROM sets its quad's reasons. -/
def tryPointWithdrawal (core point : Nat) (s : State) : Option State :=
  if 90 ≤ core || 16 ≤ point || (s.core core).gone.contains point then none
  else
    let s1 := s.updCore core (fun k => { k with gone := point :: k.gone })
    let top := (s1.core core).topPoint
    if s.boot.ready then some (((s1.setReason core 4).logAll 0 5 core).changePoint core top)
    else some (s1.updCore core (fun k => { k with point := top }))

def execPointWithdrawal (core point : Nat) (s : State) : Host.Outcome State Fault Refusal :=
  s.occur (tryPointWithdrawal core point s)

/-! ### Evaluations (R438, R442, R443) -/

/-- A core is lowered by one point for a reason; at its lowest point nothing is lowered. -/
def State.lower (s : State) (c : Nat) (bits : List Nat) : State :=
  match (s.core c).below with
  | none => s
  | some p => (bits.foldl (fun s b => s.setReason c b) s).changePoint c p

/-- Whether a core is above its thermal limit. -/
def State.tooHot (s : State) (c : Nat) : Bool := (s.boot.record.limit c).slt (s.core c).temp

/-- Whether a core may take a context from a hot one: 6 °C cooler, below its own limit minus 4 °C, an idle slot (R442). -/
def State.heatTarget (s : State) (hot c : Nat) : Bool :=
  c != hot && s.mayTarget c && decide ((s.core c).temp.toInt + 96 ≤ (s.core hot).temp.toInt)
    && decide ((s.core c).temp.toInt < (s.boot.record.limit c).toInt - 64)

/-- The coolest target, the lowest number among equals. -/
def State.coolest (s : State) (hot : Nat) : Option Nat :=
  ((List.range 90).filter (s.heatTarget hot)).foldl (fun b c => match b with
    | none => some c
    | some x => if (s.core c).temp.slt (s.core x).temp then some c else b) none

/-- Whether a partition is to park: a finite bucket stands at 0. -/
def Part.empty (p : Part) : Bool := !p.parked && p.buckets.any (fun b => !b.unlimited && b.level == 0)

/-- Whether a partition's resident contexts park for a bucket, now or when a pause ends. -/
def Part.bucketParks (p : Part) : Bool := p.parked || p.empty

/-- The context a hot core gives up: as R134 chooses, among those that have been there 5 ms (R443) and that no bucket parks
(R445). -/
def State.heatVictim (s : State) (c : Nat) : Option Proc :=
  ((s.residents c).filter (fun p => p.isResident && s.settledHere p && !(s.part p.part).bucketParks)).foldl (fun b p => match b with
    | none => some p
    | some y => if p.prio < y.prio then some p else if p.prio = y.prio ∧ p.since < y.since then some p else b) none

/-- One core's heat: a move where a target exists. -/
def State.coolDown (s : State) (c : Nat) : State :=
  if s.tooHot c then
    match s.coolest c, s.heatVictim c with
    | some t, some p => (s.startMove p.pid t true).updCore c (fun k => { k with noMoveTo := some s.cycle })
    | _, _ => s
  else s

/-- The core that the power cap lowers: at the highest point, the lowest number among equals (log 31). -/
def State.capped (s : State) : Option Nat :=
  ((List.range 90).filter (fun c => s.coreOnline c && (s.core c).below.isSome)).foldl (fun b c => match b with
    | none => some c
    | some x => if (s.core x).aim < (s.core c).aim then some c else b) none

/-- The power cap in W: 450 while a die is not there (R438, R444). -/
def State.powerCap (s : State) : Nat := if s.dieAway 0 || s.dieAway 1 then 450 else 900

/-- What one core's point does at an evaluation: over the power cap no core rises. -/
def State.setPoint (s : State) (overCur : Nat → Bool) (above : Bool) (cap : Option Nat) (therm : List Nat) (c : Nat) : State :=
  let bits := (if overCur (s.quadOf c) then [1] else []) ++ (if cap = some c then [3] else [])
    ++ (if therm.contains c then [0] else [])
  if !s.coreOnline c then s
  else if !bits.isEmpty then s.lower c bits
  else if above then s
  else match (s.core c).above with
    | some p => s.changePoint c p
    | none => s

/-- EVALUATION, once every 2^16 CYCLE periods, on what the sensors show: temperatures, each quad's current against its limit,
the device's power against the cap. -/
def tryEvaluation (readings : List Reading) (power : Nat) (s : State) : Option State :=
  if s.powered && decide (s.evalAt < s.cycle.toNat / 2 ^ 16) then
    let s1 := readings.foldl (fun (s : State) r => s.updCore r.core (fun k => { k with temp := r.temp }))
      { s with evalAt := s.evalAt + 1 }
    let hot := (List.range 90).filter (fun c => s1.coreOnline c && s1.tooHot c)
    let therm := hot.filter (fun c => (s1.coolest c).isNone)
    let overCur := fun q => readings.any (fun r => s1.quadOf r.core == q && decide (s.boot.record.currents.getD q 0 < r.current))
    let above := decide (s.powerCap < power)
    let cap := if above then s1.capped else none
    some ((List.range 90).foldl (fun s c => s.setPoint overCur above cap therm c) (hot.foldl State.coolDown s1))
  else none

def execEvaluation (readings : List Reading) (power : Nat) (s : State) : Host.Outcome State Fault Refusal :=
  s.occur (tryEvaluation readings power s)

/-- What the sensors show now, for every core that is online: free values (log 31). -/
def State.sensed (s : State) : List Reading :=
  ((List.range 90).filter s.coreOnline).map (fun c =>
    { core := c, temp := Config.sensedTemp s.draws c, current := Config.sensedCurrent s.draws (s.quadOf c) })

/-! ### Buckets (R440, R441) -/

/-- One refill step of a bucket: rate / 2^10 tokens, the remainder carried exactly. -/
def Bucket.refill (b : Bucket) : Bucket :=
  if b.unlimited then b.capped
  else
    let total := b.carry + b.rate.toNat * 2 ^ 10
    let level := b.level + total / 2 ^ 20
    if b.cap.toNat ≤ level then { b with level := b.cap.toNat, carry := 0 }
    else { b with level := level, carry := total % 2 ^ 20 }

/-- A charge: never below 0, and the remainder returns to 0 there. -/
def Bucket.charge (b : Bucket) (n : Nat) : Bucket :=
  if b.unlimited || n = 0 then b
  else if b.level ≤ n then { b with level := 0, carry := 0 }
  else { b with level := b.level - n }

/-- The parts of a token that a bucket counts what it is owed in: 1,024 context cycles of a core, in CYCLE periods of the 2 GHz
clock times the core's MHz; 4,096 bytes; a token (R440). -/
def tokenParts (i : Nat) : Nat := if i = 0 then 1024 * 2000 else if i = 1 then 4096 else 1

/-- A bucket is charged the whole tokens it is owed. -/
def Bucket.settleOwed (b : Bucket) (unit : Nat) : Bucket := { b.charge (b.owed / unit) with owed := b.owed % unit }

/-- Every bucket is charged what it is owed, when no refill step is due, which is applied first (R441); none in SUSPEND
(19_trust.md R474). -/
def State.charged (s : State) : State :=
  if s.refillAt < s.cycle.toNat / 2 ^ 10 ∨ s.power = .suspended then s
  else { s with parts := s.parts.map (fun (p : Part) =>
    { p with buckets := Vector.ofFn (fun i : Fin 3 => p.buckets[i].settleOwed (tokenParts i.val)) }) }

/-- The core cycles that a partition's contexts have used in n CYCLE periods, in CYCLE periods times MHz: each resident
context once, for each core whose clock runs; none while the partition is parked. -/
def State.timeUsed (s : State) (p : Part) (n : Nat) : Nat :=
  if p.parked then 0
  else ((s.allProcs.filter (fun q => q.part == p.num && q.inSlot && (s.core q.core).pause.isNone)).map
    (fun q => n * s.boot.record.mhz (s.core q.core).point)).foldl (· + ·) 0

/-- What a partition owes after n CYCLE periods, for time and for energy; draw is the number of a free value. Nothing is
charged in SUSPEND (19_trust.md R474), nor to an unlimited bucket. -/
def State.oweTime (s : State) (n draw : Nat) (p : Part) : Part :=
  if s.power = .suspended then p
  else
    let owe := fun (b : Bucket) (x : Nat) => if b.unlimited then b else { b with owed := b.owed + x }
    { p with buckets := #v[owe p.buckets[0] (s.timeUsed p n), p.buckets[1], owe p.buckets[2] (Config.energyTokens draw)] }

/-- Whether every level is above its mark. -/
def Part.aboveMarks (p : Part) : Bool := p.buckets.all (fun b => decide (b.mark.toNat < b.level))

/-- REFILL_STEP: every bucket of every partition; a parked partition resumes when all its levels are above their
marks. -/
def tryRefillStep (s : State) : Option State :=
  if s.refillAt < s.cycle.toNat / 2 ^ 10 then
    some { s with
      refillAt := s.refillAt + 1
      parts := s.parts.map (fun p =>
        let q := { p with buckets := p.buckets.map Bucket.refill }
        { q with parked := p.parked && !q.aboveMarks }) }
  else none

def execRefillStep (s : State) : Host.Outcome State Fault Refusal := s.occur (tryRefillStep s)

/-- BUCKET_EMPTY: the partition parks (05_processes.md R136). -/
def tryBucketEmpty (part : Nat) (s : State) : Option State :=
  if (s.part part).empty then some (s.parkPartition part) else none

def execBucketEmpty (part : Nat) (s : State) : Host.Outcome State Fault Refusal := s.occur (tryBucketEmpty part s)

end Sys2Proof.Machine
end

