-- ==== Sys2Proof/Machine/EvBoot.lean ====
section
/-! DEFINITION. Boot (19_trust.md R465-R468, 01_device.md R15, R16) and the power states (R474). -/

namespace Sys2Proof.Machine

/-! ### Signed items (R465-R467) -/

/-- A signed item passes: 512 bytes of signature under the vendor key over the bytes before them. -/
def sigPasses (item : List Byte) : Bool :=
  decide (512 ≤ item.length)
    && pssVerify Config.vendorModulus (item.take (item.length - 512)) (item.drop (item.length - 512))

/-- The device quad of a physical tile (R13, R14). -/
def tileQuad (p : Nat) : Nat := 12 * (p / 48) + 3 * (p % 48 / 6 / 2) + p % 48 % 6 / 2

/-- Three cores of each die, no two in one quad (R15). -/
def harvestOk (l : List Nat) : Bool :=
  decide ((l.filter (fun p => decide (p < 48))).length = 3)
    && decide ((l.filter (fun p => decide (48 ≤ p) && decide (p < 96))).length = 3)
    && decide (l.length = 6) && decide ((l.map tileQuad).Nodup)

/-- The record an item carries. -/
def recordIn (item : List Byte) : ConfigRecord := Config.parseRecord (item.take (item.length - 512))

/-- The operating points rise strictly in frequency, from 400 MHz to 1,800 (17_power.md R434). -/
def pointsOk (r : ConfigRecord) : Bool :=
  decide (r.points.length = 16) && (List.range 15).all (fun p => decide (r.mhz p < r.mhz (p + 1)))

/-- Both items pass, the harvest map and the operating points included (log 64). -/
def bundlePasses (fw cfg : List Byte) : Bool :=
  sigPasses fw && sigPasses cfg && harvestOk (recordIn cfg).harvest && pointsOk (recordIn cfg)

/-- The physical tile of each logical core (R16). -/
def enabledTiles (harvest : List Nat) : List Nat := (List.range 96).filter (fun p => !harvest.contains p)

/-- The throttle reasons a quad starts with (17_power.md R437). -/
def State.bootQuad (s : State) (q : Nat) : Quad :=
  let l := s.quadCores q
  { Quad.reset with
    lowpt := BitVec.ofNat 4 (l.foldl (fun m c => min m (s.core c).point) 15)
    reason := if l.any (fun c => !(s.core c).gone.isEmpty) then 16 else 0 }

/-- The points that the boot ROM finds a core's regulator not to hold (17_power.md R436): free values (log 31). -/
def State.bootPoints (s : State) (c : Nat) (k : Core) : Core :=
  let k1 := { k with gone := (List.range 16).filter (fun p => k.gone.contains p || (Config.bootGone s.draws c).getLsbD p) }
  { k1 with point := k1.topPoint }

/-- The firmware starts: cores are numbered, each at its highest point, the nonce is drawn, ready is set. -/
def State.startFirmware (s : State) (fw cfg : List Byte) (host : Bool) : State :=
  let r := recordIn cfg
  let tiles := enabledTiles r.harvest
  let s1 := { s with cores := s.cores.mapIdx (fun c (k : Core) => { s.bootPoints c k with phys := tiles.getD c 0 }) }
  let s2 := { s1 with quads := s1.quads.mapIdx (fun q _ => s1.bootQuad q) }
  ({ s2 with
    boot := { s2.boot with
      ready := true, hostFw := host, checking := false, firmware := fw, record := r,
      nonce := s2.randomNow.setWidth 64 }
    link := { s2.link with self := r.devNo }
    power := .on, idleAt := s2.cycle, evalAt := s2.cycle.toNat / 2 ^ 16 }).drew

/-- Everything of a device without power is lost but its flash; the memories of the host and of the peers, what the
outside is about to do, and the count of free values are not the device's. -/
def State.powerless (s : State) : State :=
  { State.reset with
    boot := { State.reset.boot with flashFw := s.boot.flashFw, flashCfg := s.boot.flashCfg }
    hostMem := s.hostMem, peerMem := s.peerMem, agenda := s.agenda, draws := s.draws }

/-- POWER_ON: power-on or cold reset, then the boot ROM (R465). When an item fails, nothing runs (R467). -/
def execPowerOn (s : State) : Host.Outcome State Fault Refusal :=
  let s1 := s.powerless
  if bundlePasses s1.boot.flashFw s1.boot.flashCfg then .next (s1.startFirmware s1.boot.flashFw s1.boot.flashCfg false)
  else .next s1

/-- BOOTWIN_TRIGGER: the checks start; after ready it does nothing. -/
def State.trigger (s : State) : State :=
  if s.boot.ready then s else { s with boot := { s.boot with checking := true } }

def tryBootwinTrigger (s : State) : Option State :=
  if s.boot.ready || s.boot.checking then none else some s.trigger

def execBootwinTrigger (s : State) : Host.Outcome State Fault Refusal := s.occur (tryBootwinTrigger s)

/-- The two items of the bundle in BOOTWIN, where its lengths are multiples of 4 and it ends before the trigger. -/
def bundleOf (w : Memory) : Option (List Byte × List Byte) :=
  let fw := ofBytes (w.getBytes 0 4)
  let cfg := ofBytes (w.getBytes 4 4)
  if fw % 4 = 0 ∧ cfg % 4 = 0 ∧ 8 + fw + cfg ≤ 0x7FF8 then some (w.getBytes 8 fw, w.getBytes (8 + fw) cfg) else none

/-- BUNDLE_VERIFIED: the checks of a bundle end; one that fails is discarded. -/
def tryBundleVerified (s : State) : Option State :=
  if s.boot.checking then
    let drop : State := { s with boot := { s.boot with checking := false, bootwin := [] } }
    match bundleOf s.boot.bootwin with
    | some (fw, cfg) => some (if bundlePasses fw cfg then s.startFirmware fw cfg true else drop)
    | none => some drop
  else none

def execBundleVerified (s : State) : Host.Outcome State Fault Refusal := s.occur (tryBundleVerified s)

/-! ### Power states (R474) -/

/-- Whether no process is resident, queued or runnable-parked and no command runs. -/
def State.noWork (s : State) : Bool :=
  !s.host.busy && s.allProcs.all (fun p => p.place == .parked)
    && s.cores.all (fun k => k.records.isEmpty && k.runq.isEmpty)

/-- Every core changes to a point, one of a quad at a time (17_power.md R435). -/
def State.allPoints (s : State) (f : Core → Nat) : State :=
  (List.range 90).foldl (fun s c => if s.coreOnline c then s.changePoint c (f (s.core c)) else s) s

/-- IDLE_ENTRY: the cores stop at point 0. -/
def tryIdleEntry (s : State) : Option State :=
  if s.powered && s.noWork && decide (2 ^ 20 ≤ (s.cycle - s.idleAt).toNat) then
    some ({ s with power := .idle }.allPoints (fun _ => 0))
  else none

def execIdleEntry (s : State) : Host.Outcome State Fault Refusal := s.occur (tryIdleEntry s)

/-- The state the device is in when it runs: ONE-DIE while a die is offline. -/
def State.runState (s : State) : Power := if s.dieAway 0 || s.dieAway 1 then .oneDie else .on

/-- The cores run again, each at its highest point (log 33). -/
def State.wakeUp (s : State) : State :=
  if s.power = .idle then
    { s with power := s.runState, idleAt := s.cycle, evalAt := s.cycle.toNat / 2 ^ 16 }.allPoints Core.topPoint
  else s

/-- IDLE_EXIT. -/
def tryIdleExit (s : State) : Option State :=
  if s.power == .idle && !s.noWork then some s.wakeUp else none

def execIdleExit (s : State) : Host.Outcome State Fault Refusal := s.occur (tryIdleExit s)

/-- The pages of a core's pool that have a place outside it are written out (05_processes.md R133, 15_traps.md R399):
tile pages to the images, backed scratchpad pages to their backings. -/
def State.writeOut (s : State) (c : Nat) : State := (s.group1 c).foldl (fun s x => s.evict c x) s

/-- SUSPEND: every resident process parks, and the pools are written out (R133, log 33). -/
def trySuspend (s : State) : Option State :=
  if s.boot.ready && s.power != .suspended && s.power != .off then
    let s1 := ((s.allProcs.filter Proc.isResident).map Proc.pid).foldl (fun s p => s.parkNow p false) s.wakeUp
    some { (List.range 90).foldl State.writeOut s1 with power := .suspended }
  else none

def execSuspend (s : State) : Host.Outcome State Fault Refusal := s.occur (trySuspend s)

/-- D0_RESUME: timer expiries held since are due now; halts stay (log 33). -/
def tryD0Resume (s : State) : Option State :=
  if s.power = .suspended then some { s with power := s.runState, idleAt := s.cycle, evalAt := s.cycle.toNat / 2 ^ 16 }
  else none

def execD0Resume (s : State) : Host.Outcome State Fault Refusal := s.occur (tryD0Resume s)

/-- POWER_REMOVED: every partition is lost. -/
def execPowerRemoved (s : State) : Host.Outcome State Fault Refusal := .next s.powerless

end Sys2Proof.Machine
end

