-- ==== Sys2Proof/Machine/EvChan.lean ====
section
/-! DEFINITION. Events of channels (12_channels.md R327, R334, R342) and of the deadlock service (R343-R347). -/

namespace Sys2Proof.Machine

/-! ### Rendezvous, claims, timers -/

/-- RENDEZVOUS: what a cell has to decide happens. -/
def tryRendezvous (cell : Nat) (s : State) : Option State :=
  s.settle cell

def execRendezvous (cell : Nat) (s : State) : Host.Outcome State Fault Refusal := s.occur (tryRendezvous cell s)

/-- The ALT whose offer at an end is ready, and its arm. -/
def State.offerReady (s : State) (c : Cell) (b : Bool) : Option (Pid × Nat) :=
  match c.offerArm b, s.endOwner c b with
  | some (a, isSend), some p => if s.armReady c b isSend then some (p, a.val) else none
  | _, _ => none

/-- The key that a claim of a cell reaches: of the one ALT, or of the lower PID and, once that is claimed for now, of the
higher (R334); and the arm. -/
def State.claimOf (s : State) (c : Cell) : Option (Pid × Nat) :=
  match s.offerReady c false, s.offerReady c true with
  | some x, some y =>
    let (lo, hi) := if x.1 < y.1 then (x, y) else (y, x)
    if s.altKey lo.1 = .provisional c.id then some hi else some lo
  | some x, none => some x
  | none, y => y

/-- The cell whose claim a key takes where one reaches it: of those that reach it in the same cycle, which is free, high
priority first, then rotation (R335, R355). -/
def State.claimWinner (s : State) (id : Nat) : Nat :=
  match (s.cell? id).bind s.claimOf with
  | none => id
  | some (p, _) =>
    let arms := s.cells.filterMap fun x =>
      match s.claimOf x with
      | some (q, a) => if q = p ∧ (x.id = id ∨ Config.freeIndex (s.draws + x.id) % 2 = 0) then some (a, x.id) else none
      | none => none
    match s.proc? p with
    | none => id
    | some q => match q.wait with
      | .alt _ _ _ _ prio _ =>
        (((altChoice q.altLast prio (arms.map Prod.fst)).bind (fun i => arms.find? (fun x => x.1 == i))).map Prod.snd).getD id
      | _ => id

/-- CLAIM: granted, or held for now. -/
def tryClaim (cell : Nat) (s : State) : Option State := s.claimCell (s.claimWinner cell)

def execClaim (cell : Nat) (s : State) : Host.Outcome State Fault Refusal := s.occur (tryClaim cell s)

/-- Whether a timer of a partition has reached its instant; none expires while the device is suspended (R474). -/
def State.timerDue (s : State) (part i : Nat) : Bool :=
  s.power != .suspended && s.power != .off && (match ((s.part part).timer i).due with
    | some d => decide (d ≤ s.cycle)
    | none => false)

/-- TIMER_EXPIRY. -/
def tryTimerExpiry (part timer : Nat) (s : State) : Option State :=
  if s.timerDue part timer then some (s.expire part timer) else none

def execTimerExpiry (part timer : Nat) (s : State) : Host.Outcome State Fault Refusal :=
  s.occur (tryTimerExpiry part timer s)

/-- TIMER_ARM and TIMER_DISARM: what a write of TMRCMP does, by its arm bit, for the supervisor that writes it. -/
def State.timerWrite (s : State) (v : Word) : Host.Outcome State Fault Refusal :=
  s.finish (do
    s.sysAllowed 0x140
    return s.writeTimer s.cur.part v)

def execTimerArm (v : Word) (s : State) : Host.Outcome State Fault Refusal :=
  if v.getLsbD 63 then s.timerWrite v else .next s

def execTimerDisarm (v : Word) (s : State) : Host.Outcome State Fault Refusal :=
  if v.getLsbD 63 then .next s else s.timerWrite v

/-! ### Wait-for edges (R344) and answers (R345) -/

/-- The ends a process waits at: cell and side. -/
def State.waitEnds (s : State) (p : Proc) : List (Cell × Bool) :=
  match p.wait with
  | .op cell side => ((s.cell? cell).map (fun c => (c, side))).toList
  | .alt _ _ _ _ _ _ =>
    s.cells.flatMap (fun c => [false, true].filterMap (fun b =>
      if s.endOwner c b == some p.pid && (c.offerArm b).isSome then some (c, b) else none))
  | _ => []

/-- The barrier a process waits at. -/
def State.waitBar (s : State) (p : Proc) : Option Cell :=
  let at_ := fun (i : Nat) =>
    (s.entries.find? (fun (e : Entry) => e.live && e.part == p.part && e.index == i)).bind (fun e => s.cell? e.cell)
  match p.wait with
  | .barrierArrive i => at_ i
  | .barrierAwait i => at_ i
  | .barrierSync i => at_ i
  | _ => none

/-- The processes a wait stands for. -/
def State.waitEdges (s : State) (p : Proc) : List Pid :=
  (s.waitEnds p).filterMap (fun x => s.endOwner x.1 (!x.2)) ++
    (match s.waitBar p with
     | some c => ((s.barEntries c.id).filter (fun e => !e.arrived)).map Entry.owner
     | none => [])

/-- Whether a wait passes outside the partition's processes: host, timer, peer or fault ends. -/
def State.waitOutside (s : State) (p : Proc) : Bool := (s.waitEnds p).any (fun x => x.1.kind != .chan)

/-- Whether the wait of a process at an end is about to end: the other party is there, and only a move, pages of a pool or a claim
are awaited (07_tiles.md R202, R143, R334); no other party decides it. -/
def State.endDecided (s : State) (p : Proc) (c : Cell) (b : Bool) : Bool :=
  let peer := c.side (!b)
  let other := s.endOwner c (!b) != some p.pid
  (s.recordAt c).isSome || c.hasValue b || other && match (c.side b).post, peer.post with
    | some (.offer _ isSend), _ => s.armReady c b isSend
    | some _, some (.offer _ isSend) => s.armReady c (!b) isSend
    | some _, some _ => true
    | _, _ => false

/-- Whether the wait of a process is about to end. -/
def State.waitDecided (s : State) (p : Proc) : Bool := (s.waitEnds p).any (fun x => s.endDecided p x.1 x.2)

/-- What a process answers to a probe, with its wait generation. -/
def State.answerOf (s : State) (pid : Pid) : Answer × Nat :=
  match s.proc? pid with
  | none => (.proceeds, 0)
  | some p =>
    if p.stopped || p.faulted then (.undetermined, p.waitGen)
    else if p.wait = .none then (if p.held then .undetermined else .proceeds, p.waitGen)
    else if s.waitDecided p then (.proceeds, p.waitGen)
    else if s.waitOutside p then (.undetermined, p.waitGen)
    else (.blocked, p.waitGen)

/-! ### Detections (R343, R346) -/

/-- The detection of an initiator. -/
def State.detection (s : State) (init : Pid) : Option Detect := s.detects.find? (fun d => d.init == init)

def State.endDetect (s : State) (init : Pid) : State := { s with detects := s.detects.filter (fun d => d.init != init) }

def State.updDetect (s : State) (init : Pid) (f : Detect → Detect) : State :=
  { s with detects := s.detects.map (fun (d : Detect) => if d.init = init then f d else d) }

/-- Whether a process is due to launch a detection: its wait, and the time since its last one, exceed the threshold,
and no report names it with its present generation. -/
def State.launchDue (s : State) (p : Proc) : Bool :=
  let q := s.part p.part
  p.isBlocked && !s.waitDecided p && q.dlthr != 0 && (s.detection p.pid).isNone
    && decide (q.dlthr.toNat < (s.cycle - p.waitAt).toNat) && decide (q.dlthr.toNat < (s.cycle - p.probeAt).toNat)
    && !q.reported.any (fun l => l.contains (p.pid, p.waitGen))

/-- DETECTION_LAUNCH: the probe first reaches the process itself. -/
def tryDetectionLaunch (pid : Pid) (s : State) : Option State :=
  match s.proc? pid with
  | none => none
  | some p =>
    if s.launchDue p then
      some { s.updProc pid (fun p => { p with probeAt := s.cycle }) with
        detects := s.detects ++ [{ init := pid, round := 1, todo := [pid], answers := [], members := [], first := [] }] }
    else none

def execDetectionLaunch (pid : Pid) (s : State) : Host.Outcome State Fault Refusal :=
  s.occur (tryDetectionLaunch pid s)

/-- Whether a detection has reached a process. -/
def Detect.touches (d : Detect) (pid : Pid) : Bool :=
  d.init == pid || d.members.any (fun m => m.1 == pid) || d.first.any (fun m => m.1 == pid)
    || d.answers.any (fun a => a.1 == pid)

/-- Where two detections meet, the one whose initiator has the lower PID continues (R346). -/
def State.meet (s : State) (init pid : Pid) : State :=
  let others := s.detects.filter (fun d => d.init != init && d.touches pid)
  if others.any (fun d => decide (d.init < init)) then s.endDetect init
  else others.foldl (fun s d => s.endDetect d.init) s

/-- PROBE: the process answers, and one that is blocked forwards the probe along its edges. -/
def tryProbe (init pid : Pid) (s : State) : Option State :=
  match s.detection init with
  | none => none
  | some d =>
    if d.todo.contains pid then
      let s1 := s.meet init pid
      let a := s1.answerOf pid
      let edges := match s1.proc? pid with
        | some p => if a.1 = Answer.blocked then s1.waitEdges p else []
        | none => []
      some (s1.updDetect init (fun d =>
        let known := fun (x : Pid) => d.members.any (fun m => m.1 == x) || d.answers.any (fun y => y.1 == x)
          || d.todo.contains x || x == pid
        { d with
          todo := d.todo.filter (· != pid) ++ (edges.filter (fun x => !known x)).eraseDups
          answers := d.answers ++ [(pid, a.1, a.2)] }))
    else none

def execProbe (init pid : Pid) (s : State) : Host.Outcome State Fault Refusal := s.occur (tryProbe init pid s)

/-! ### Reports (R347) -/

/-- The kind of a member's wait and the channel ID it shows. -/
def State.waitCode (s : State) (p : Proc) : Nat × Nat :=
  match p.wait with
  | .op cell side =>
    match s.cell? cell with
    | none => (0, 0)
    | some c =>
      let code := if (c.side side).bound then 6 else match (c.side side).post with
        | some (.send _) => 1 | some (.sende _) => 1 | some (.sendt _ _) => 1
        | some (.recv _) => 2 | some (.recve _) => 2 | some (.recvt _) => 2
        | _ => 3
      (code, c.chid)
  | .alt _ _ _ _ _ _ =>
    let arms := (s.waitEnds p).filterMap (fun x => (x.1.offerArm x.2).map (fun a => (a.1.val, x.1.chid)))
    (4, ((arms.foldl (fun b a => match b with
      | none => some a
      | some y => if a.1 < y.1 then some a else b) (none : Option (Nat × Nat))).map Prod.snd).getD 0)
  | .none => (0, 0)
  | _ => (5, ((s.waitBar p).map Cell.chid).getD 0)

/-- The 33 words of a report over members in ascending PID order. -/
def State.reportWords (s : State) (members : List Pid) : List Word :=
  let n := members.length
  let head := BitVec.ofNat 64 ((if 32 < n then 2 ^ 15 else 0) + min n 32767)
  let body := (members.take 32).map fun m =>
    match s.proc? m with
    | some p => let w := s.waitCode p; BitVec.ofNat 64 (w.1 * 2 ^ 52 + w.2 % 2 ^ 20 * 2 ^ 32 + m.toNat)
    | none => zextWord m
  head :: (body ++ List.replicate (32 - body.length) 0)

/-- A member inserted by PID. -/
def insertMember (m : Pid × Nat) : List (Pid × Nat) → List (Pid × Nat)
  | [] => [m]
  | x :: r => if m.1 < x.1 then m :: x :: r else x :: insertMember m r

/-- The report of a set, unless it has been reported with the same generations. -/
def State.report (s : State) (init : Pid) (members : List (Pid × Nat)) : State :=
  match s.proc? init with
  | none => s
  | some p =>
    let set := members.foldl (fun l m => insertMember m l) []
    if (s.part p.part).reported.contains set then s
    else
      let r : Record := { s.infoOf p { cause := .deadlock, addr := 0, detail := 0 } with
        ip := 0, report := s.reportWords (set.map Prod.fst) }
      (s.updPart p.part (fun q => { q with reported := q.reported ++ [set] })).infoRecord p.part r

/-- Whether every edge from a member leads to a member, and no generation has changed. -/
def State.stableSet (s : State) (members : List (Pid × Nat)) : Bool :=
  members.all fun m =>
    match s.proc? m.1 with
    | some p => p.waitGen == m.2 && (s.waitEdges p).all (fun x => members.any (fun y => y.1 == x))
    | none => false

/-- What the initiator does when a round has all its answers. -/
def State.roundEnd (s : State) (d : Detect) : State :=
  if d.todo.isEmpty && d.answers.isEmpty then
    if d.round = 1 then
      s.updDetect d.init (fun d => { d with
        round := 2, first := d.members, todo := d.members.map Prod.fst, members := [] })
    else
      let same := d.members.all d.first.contains && d.first.all d.members.contains
      let s1 := s.endDetect d.init
      if same && s1.stableSet d.members then s1.report d.init d.members else s1
  else s

/-- PROBE_ANSWER: an answer other than blocked ends the detection. -/
def tryProbeAnswer (init pid : Pid) (s : State) : Option State :=
  match s.detection init with
  | none => none
  | some d =>
    match d.answers.find? (fun a => a.1 == pid) with
    | none => none
    | some (_, a, gen) =>
      if a = .blocked then
        let s1 := s.updDetect init (fun d => { d with
          answers := d.answers.filter (fun x => x.1 != pid), members := d.members ++ [(pid, gen)] })
        match s1.detection init with
        | some d1 => some (s1.roundEnd d1)
        | none => some s1
      else some (s.endDetect init)

def execProbeAnswer (init pid : Pid) (s : State) : Host.Outcome State Fault Refusal :=
  s.occur (tryProbeAnswer init pid s)

end Sys2Proof.Machine
end

