-- ==== Sys2Proof/Machine/EvMesh.lean ====
section
/-! DEFINITION. Events of the meshes, of the links' ports and of a die that goes down or comes back (16_mesh.md
R425-R431, 17_power.md R444, 05_processes.md R145, R148, 18_host.md R457-R459). -/

namespace Sys2Proof.Machine

/-! ### Lanes and crossing modules (R425-R428) -/

/-- The lanes of the two data planes, those of the crossings included. -/
def laneCount : Nat := 688

/-- Whether a lane has had no flit for 4,096 cycles of the routers, whose clock CYCLE counts (R425, 06_scalar.md R159). -/
def State.laneIdle (s : State) (lane : Nat) : Bool :=
  decide (4096 ≤ (s.cycle - ((s.mesh.busyAt.find? (fun x => x.1 == lane)).map Prod.snd).getD 0).toNat)

/-- LANE_SLEEP. -/
def tryLaneSleep (lane : Nat) (s : State) : Option State :=
  if lane < laneCount ∧ lane ∉ s.mesh.asleep ∧ s.laneIdle lane then
    some { s with mesh := { s.mesh with asleep := insertNat lane s.mesh.asleep } }
  else none

def execLaneSleep (lane : Nat) (s : State) : Host.Outcome State Fault Refusal := s.occur (tryLaneSleep lane s)

/-- LANE_WAKE: a flit is assigned to a lane, which is awake then, its idle count at 0 (R425, R426). -/
def tryLaneWake (lane : Nat) (s : State) : Option State :=
  if lane < laneCount then
    some { s with mesh := { s.mesh with
      asleep := s.mesh.asleep.filter (· != lane)
      busyAt := s.mesh.busyAt.filter (fun x => x.1 != lane) ++ (if s.cycle = 0 then [] else [(lane, s.cycle)]) } }
  else none

def execLaneWake (lane : Nat) (s : State) : Host.Outcome State Fault Refusal := s.occur (tryLaneWake lane s)

/-- MODULE_FAILURE: when both modules of a row have failed, its packets detour, which every partition's log tells. -/
def tryModuleFailure (module : Nat) (s : State) : Option State :=
  if module < 16 ∧ module ∉ s.mesh.failed then
    let s1 := { s with mesh := { s.mesh with failed := insertNat module s.mesh.failed } }
    let other := if module % 2 = 0 then module + 1 else module - 1
    some (if s.mesh.failed.contains other then s1.logAll 5 3 (module / 2) else s1)
  else none

def execModuleFailure (module : Nat) (s : State) : Host.Outcome State Fault Refusal :=
  s.occur (tryModuleFailure module s)

/-! ### Offline answers (R430, R315, 12_channels.md R323) -/

/-- Whether a request has something still to do at an offline die. -/
def State.latchOffline (s : State) (l : Latch) : Bool :=
  l.sent && !l.done && l.stop == 0 && match l.req with
    | .none => false
    | .amo _ _ _ _ _ _ pa => s.offlineAt pa
    | .region _ pa _ _ _ _ _ => s.offlineAt pa
    | .tred _ _ _ _ => l.rowsLeft.any (fun r => r.elems.any (fun e => s.offlineAt e.1))

/-- The first CHAREA cell on an offline die that a process waits at. -/
def State.offlineCell (s : State) (p : Proc) : Option Cell :=
  ((((s.waitEnds p).map Prod.fst ++ (s.waitBar p).toList).filter (fun c => !c.dh)).find? fun c =>
    match s.areaPa (s.part c.part) ((s.part c.part).cellAddr c.chid) 64 with
    | some pa => s.offlineAt pa
    | none => match s.xlate 0 (s.part c.part) true ((s.part c.part).cellAddr c.chid) 64 .modify with
      | .ok x => s.offlineAt x.pa
      | .error t => t.cause == .memoff)

/-- What a process posted is gone. -/
def State.unpostAll (s : State) (p : Proc) : State :=
  match p.wait with
  | .op cell side => (s.unpost cell side).unbind cell
  | .alt _ _ _ _ _ _ => s.withdraw p.pid
  | _ => s

/-- OFFLINE_ANSWER: stop 2 for a request, MEMOFF for an operation on a cell. -/
def tryOfflineAnswer (pid : Pid) (s : State) : Option State :=
  match s.proc? pid with
  | none => none
  | some p =>
    if s.latchOffline p.latch then some (s.updLatch pid (fun l => { l with stop := 2 }))
    else match s.offlineCell p with
      | some c => some ((s.unpostAll p).opTrap pid (.at .memoff c.word))
      | none => none

def execOfflineAnswer (pid : Pid) (s : State) : Host.Outcome State Fault Refusal := s.occur (tryOfflineAnswer pid s)

/-! ### Evacuating a die (R444 step 2, R145, R148) -/

def dieCores (d : Nat) : List Nat := (List.range 90).filter (fun c => dieOfCore c == d)

/-- The sequence numbers of moved records: the one just before the target's oldest, and down. -/
def Core.firstSeq (k : Core) : BitVec 32 :=
  match k.oldest (k.hold ++ k.deque ++ k.spilled) with
  | some r => r.seq
  | none => k.seqNext

/-- One moved record at its target: a hardware entry, a place of the partition's segment, or the hold; one that was
spilled stays where it lies. -/
def State.moveRec (s : State) (t : Nat) (r : Rec) : State :=
  let r1 := { r with origin := t }
  if r.spill.isSome then s.updCore t (fun k => { k with spilled := k.spilled ++ [r1] })
  else if (s.core t).deque.length < 64 then s.updCore t (fun k => { k with deque := k.deque ++ [r1] })
  else
    let out := s.updCore t (fun k => { k with hold := k.hold ++ [r1] })
    match s.spillTo (s.part r.part) t r1 with
    | .ok (some (u, q)) => u.updCore t (fun k => { k with spilled := k.spilled ++ [q] })
    | _ => out

/-- The records of a core, oldest first: how many are older than each. -/
def Core.byAge (k : Core) : List Rec :=
  let l := k.spilled ++ k.hold ++ k.deque
  (List.range l.length).filterMap (fun i => l.find? (fun r => l.countP (fun x => decide (k.age x < k.age r)) == i))

/-- The deque of a core moves to its twin's. -/
def State.moveDeque (s : State) (c : Nat) : State :=
  let t := twin c
  let l := (s.core c).byAge
  let base := (s.core t).firstSeq - BitVec.ofNat 32 l.length
  let s1 := s.updCore c (fun k => { k with deque := [], spilled := [], hold := [] })
  let s2 := s1.updCore t (fun k => { k with
    spillOff := k.spillOff ++ (s.core c).spillOff.filter (fun p => !k.spillOff.contains p), retryAt := none })
  ((List.range l.length).zip l).foldl (fun s x =>
    (s.moveRec t { x.2 with seq := base + BitVec.ofNat 32 x.1 }).carryPages x.2.pid t) s2

/-- The parked processes of a core move to its twin, those of its runnable list in the order of R126. -/
def State.moveParked (s : State) (c : Nat) : State :=
  let t := twin c
  let others := ((s.parkedAt c).map Proc.pid).filter (fun p => !(s.core c).runq.contains p)
  ((s.core c).runq ++ others).foldl (fun s pid => s.rehome pid t) s

/-- Deques, parked processes and moves asked for leave the cores of a die. -/
def State.evacuate (s : State) (d : Nat) : State :=
  let s1 := (dieCores d).foldl (fun s c => (s.moveDeque c).moveParked c) s
  s1.mapProcs (fun p => { p with nextHome := p.nextHome.map (fun t => if dieOfCore t = d then twin t else t) })

/-- Whether a process still uses a core of a die. -/
def Proc.usesDie (p : Proc) (d : Nat) : Bool :=
  match p.place with
  | .resident c _ => dieOfCore c == d
  | .exiting c _ => dieOfCore c == d
  | .moving a b => dieOfCore a == d || dieOfCore b == d
  | _ => false

def State.setDie (s : State) (d : Nat) (x : DieSt) : State :=
  { s with dies := if d = 0 then s.dies.set 0 x else s.dies.set 1 x }

/-- Whether everything has left a die, and its cores have answered every steal. -/
def State.dieEmpty (s : State) (d : Nat) : Bool :=
  !s.allProcs.any (fun p => p.usesDie d) && (dieCores d).all (fun c => (s.core c).steal.isNone && (s.core c).reqs.isEmpty)
    && s.pages.all (fun q => dieOfCore q.core != d)

/-- Every retired store toward a die performs (R296). -/
def State.drainToward (s : State) (d : Nat) : State :=
  ((s.allProcs.filter (fun p => p.stores.any (fun st => physRegion st.pa == .hbm && dieOf st.pa == d))).map
    Proc.pid).foldl State.drain s

/-- A core of a die without power holds nothing. -/
def Core.cleared (k : Core) : Core := { k with l1d := [], icache := [], tcache := [], stlb := [], reqs := [], retryAt := none }

/-- The caches when a die goes: the surviving die's L1 are flash-invalidated (R430), the other's lose everything. -/
def State.fenceCaches (s : State) (d : Nat) : State :=
  { s with
    cores := s.cores.mapIdx (fun c (k : Core) =>
      if dieOfCore c = d then k.cleared else { k with l1d := [], icache := [] })
    quads := s.quads.mapIdx (fun q (k : Quad) => if q / 12 = d then { k with tcache := [], walks := [] } else k) }

/-- The power state when a die has gone or is back: a device that is in IDLE or SUSPEND stays there (19_trust.md R474). -/
def State.dieState (s : State) (x : Power) : Power :=
  match s.power with
  | .idle => .idle
  | .suspended => .suspended
  | _ => x

/-- DIE_DOWN_COMPLETE (R444 steps 3 to 5). -/
def tryDieDownComplete (die : Nat) (s : State) : Option State :=
  if die < 2 && s.die die == .goingDown && s.dieEmpty die then
    let s1 := (((s.evacuate die).drainToward die).fenceCaches die).dropL2 (die * dieTop) dieTop
    let s2 := { s1.setDie die .offline with
      parts := s1.parts.map (fun (p : Part) => { p with keyDies := if die = 0 then p.keyDies.set 0 false else p.keyDies.set 1 false })
      power := s1.dieState .oneDie }
    some (s2.hostEvent 3 [BitVec.ofNat 64 die, 0])
  else none

def execDieDownComplete (die : Nat) (s : State) : Host.Outcome State Fault Refusal :=
  s.occur (tryDieDownComplete die s)

/-- DIE_UP_COMPLETE (R431): the die's memory reads 0, nothing in it is poisoned, the keys are back. -/
def tryDieUpComplete (die : Nat) (s : State) : Option State :=
  if die < 2 && s.die die == .comingUp then
    let lo := die * dieTop
    let here := fun (sec : Nat) => decide (lo ≤ sec * 32) && decide (sec * 32 < lo + dieTop)
    let s1 := { s with
      mem := s.mem.zero lo dieTop
      poison := s.poison.filter (fun x => !here x)
      errs := s.errs.filter (fun e => !here e.sector)
      seals := s.seals.filter (fun x => !here x.1) }.dropL2 lo dieTop
    let s2 := ((s1.touchRegions 0 lo dieTop).setDie die .online).touchAreas lo dieTop
    let s3 := { s2 with
      parts := s2.parts.map (fun (p : Part) => { p with keyDies := if die = 0 then p.keyDies.set 0 true else p.keyDies.set 1 true })
      power := s2.dieState .on }
    some (s3.hostEvent 3 [BitVec.ofNat 64 die, 1])
  else none

def execDieUpComplete (die : Nat) (s : State) : Host.Outcome State Fault Refusal := s.occur (tryDieUpComplete die s)

/-! ### Links (18_host.md R457-R459) -/

/-- The device a port is assigned to. -/
def State.portDev (s : State) (port : Nat) : Option (Fin 4) := s.boot.record.ports[port]?

/-- The ports assigned to a device that work. -/
def State.alivePorts (s : State) (d : Fin 4) : List Nat :=
  (List.range 8).filter (fun i => s.portDev i == some d && (if h : i < 8 then s.link.ports[i] else false))

/-- The peer channels with a device. -/
def State.peerCells (s : State) (d : Fin 4) : List Cell :=
  s.cells.filter (fun c => match c.end1.holder with
    | .peer dev _ => dev == d
    | _ => false)

/-- An ALT that offers at the local end of a peer channel returns with that arm, which the closure makes ready
(12_channels.md R330, R337). -/
def State.altClosed (s : State) (id : Nat) : State :=
  match s.cell? id with
  | none => s
  | some c => match c.offerArm false, s.endOwner c false with
    | some (a, _), some p => s.altReturn p c false a.val
    | _, _ => s

/-- A RECV at the local end of a channel that closes takes the value held for it, also where its process is on the move
(12_channels.md R327, R330). -/
def State.heldTaken (s : State) (c : Cell) : State :=
  match c.end0.held, c.end0.post with
  | some v, some (.recv d) => s.takeHeld c false v d
  | _, _ => s

/-- Both ends of every channel with a device close. -/
def State.closePeer (s : State) (d : Fin 4) : State :=
  let s1 := (s.peerCells d).foldl (fun s c => (((s.heldTaken c).closeEnd c.id true).altClosed c.id).closeEnd c.id false) s
  { s1 with link := { s1.link with tags := s1.link.tags.filter (fun t => t.1 != d) } }

/-- The stores handed to a link that goes down are lost, each of which the error log tells (R458). -/
def State.loseStores (s : State) (d : Fin 4) : State :=
  let lost := fun (o : OutStore) => physRegion o.pa == .peer d.val
  (s.outbox.filter lost).foldl (fun s _ => s.logAll 4 4 d.val) { s with outbox := s.outbox.filter (fun o => !lost o) }

/-- LINK_PORT_FAILURE: with a peer's last port its link goes down. -/
def tryLinkPortFailure (port : Nat) (s : State) : Option State :=
  if h : port < 8 then
    if s.link.ports[port] then
      let s1 := { s with link := { s.link with ports := s.link.ports.set port false } }
      match s.portDev port with
      | none => some s1
      | some d =>
        if (s1.alivePorts d).isEmpty && s.link.up.getLsbD d.val then
          let s2 := { s1 with link := { s1.link with up := s1.link.up &&& ~~~BitVec.ofNat 4 (2 ^ d.val) } }
          some (((s2.loseStores d).closePeer d).hostEvent 4 [BitVec.ofNat 64 d.val, 0])
        else some s1
    else none
  else none

def execLinkPortFailure (port : Nat) (s : State) : Host.Outcome State Fault Refusal :=
  s.occur (tryLinkPortFailure port s)

/-- LINK_UP: the link to a device that ports are assigned to comes up, on the ports that work, or on all of them. -/
def tryLinkUp (dev : Fin 4) (s : State) : Option State :=
  if dev != s.link.self && !s.link.up.getLsbD dev.val && (List.range 8).any (fun i => s.portDev i == some dev) then
    let ports := if (s.alivePorts dev).isEmpty then
        Vector.ofFn (fun i : Fin 8 => s.link.ports[i] || s.portDev i.val == some dev) else s.link.ports
    some ({ s with link := { s.link with ports := ports, up := s.link.up ||| BitVec.ofNat 4 (2 ^ dev.val) } }.hostEvent 4
      [BitVec.ofNat 64 dev.val, 1])
  else none

def execLinkUp (dev : Fin 4) (s : State) : Host.Outcome State Fault Refusal := s.occur (tryLinkUp dev s)

end Sys2Proof.Machine
end

