-- ==== Sys2Proof/Machine/HostPort.lean ====
section
/-! DEFINITION. The host port (18_host.md R449, R450): partitions, grants, copies, measurements and reports
(19_trust.md R469-R473), dies, host events. -/

namespace Sys2Proof.Machine

/-! ### Commands and their replies (R449, R450) -/

/-- What a command leaves: the state, its code, the words from word 4 on, and whether it has ended. -/
structure Reply where
  state : State
  code  : Nat
  out   : List Word
  ended : Bool
  deriving DecidableEq, Repr

/-- The codes of CMDSTAT. -/
def codeOk : Nat := 0
def codeBad : Nat := 1
def codeNoRes : Nat := 2
def codeNoPart : Nat := 3
def codeDenied : Nat := 4
def codeEmpty : Nat := 5
def codeFull : Nat := 6
def codeClosed : Nat := 7

/-- A command that changes nothing but its code. -/
def State.refuse (s : State) (code : Nat) : Reply := { state := s, code := code, out := [], ended := true }

/-- A command that has run. -/
def State.reply (s : State) (out : List Word) : Reply := { state := s, code := codeOk, out := out, ended := true }

/-- The opcode and the partition number of word 0; its other bits are reserved. -/
def Cmd.opcode (c : Cmd) : Nat := c.w0.toNat % 256
def Cmd.part (c : Cmd) : Nat := c.w0.toNat / 2 ^ 16 % 2 ^ 16
def Cmd.word0Ok (c : Cmd) : Bool := c.w0 &&& 0xFFFFFFFF0000FF00 == 0

/-- A command on a partition: arguments out of limits give BADCMD, a partition that does not exist NOPART. -/
def State.onPart (s : State) (c : Cmd) (argsOk : Bool) (f : Part → Reply) : Reply :=
  if !Cmd.word0Ok c || !argsOk then s.refuse codeBad
  else match s.part? (Cmd.part c) with
    | none => s.refuse codeNoPart
    | some p => f p

/-- A command on no partition. -/
def State.onDevice (s : State) (c : Cmd) (argsOk : Bool) (r : Reply) : Reply :=
  if !Cmd.word0Ok c || (Cmd.part c) != 0 || !argsOk then s.refuse codeBad else r

/-! ### Host memory -/

/-- Bytes of host memory by bus address. -/
def State.hostGet (s : State) (a : Word) (n : Nat) : List Byte := s.hostMem.getBytes a.toNat n
def State.hostPut (s : State) (a : Word) (l : List Byte) : State := { s with hostMem := s.hostMem.setBytes a.toNat l }

/-! ### Measurements and reports (19_trust.md R469, R470, R473) -/

/-- The 64 bytes of a digest. -/
def digestBytes (d : BitVec 512) : List Byte := bytesOf 64 d.toNat

/-- An extend. -/
def extend (m : BitVec 512) (input : List Byte) : BitVec 512 := sha512 (digestBytes m ++ input)

/-- A 64-byte input of dbg: a code, then a digest or zeros. -/
def dbgInput (code : Nat) (owner : BitVec 512) : List Byte := (BitVec.ofNat 8 code :: digestBytes owner).take 64

def Debug.code : Debug → Nat
  | .off => 0 | .observe => 1 | .invasive => 2

/-- The report without its signature: bytes 0x000 to 0x3FF. -/
def State.reportBody (s : State) (p : Part) (seq : Nat) : List Byte :=
  let flags := 0x9690 * 2 ^ 48 + Config.revision.toNat * 2 ^ 32 + p.num % 2 ^ 16 * 2 ^ 16 + Debug.code p.debug * 8
    + bit Config.identityMismatch * 4 + bit s.boot.hostFw * 2 + bit p.conf
  bytesOf 8 seq ++ bytesOf 8 flags ++ bytesOf 8 s.cycle.toNat ++ bytesOf 8 s.boot.nonce.toNat
    ++ digestBytes (sha512 s.boot.firmware) ++ digestBytes p.mSup ++ digestBytes p.mCode ++ digestBytes p.mDbg
    ++ digestBytes p.owner ++ Config.identityKey.modulus ++ List.replicate 160 0

/-- The salt of a signature: 64 bytes of the device's random source (R466, R470). -/
def State.saltNow (s : State) : List Byte := digestBytes s.randomNow

/-- The report is written by physical address, seq last; its last bytes are the signature of the others by the identity key. -/
def State.writeReport (s : State) (part : Nat) : State :=
  let p := s.part part
  match p.base with
  | none => s
  | some b =>
    let seq := p.repSeq + 1
    let body := s.reportBody p seq
    let at_ := b + 0x22D000
    let s1 := ((s.drew.sealFor none at_ 0x600).wholeMarks at_ 0x600).rawPut (at_ + 8)
      (body.drop 8 ++ Config.identityKey.sign body s.saltNow)
    (s1.rawPut at_ (bytesOf 8 seq)).updPart part (fun p => { p with repSeq := seq })

/-- dbg is extended, and a report follows. -/
def State.extendDbg (s : State) (part code : Nat) (owner : BitVec 512) : State :=
  (s.updPart part (fun p => { p with mDbg := extend p.mDbg (dbgInput code owner) })).writeReport part

/-- The ASCII bytes KALDAR-AUTH. -/
def authPrefix : List Byte := [0x4B, 0x41, 0x4C, 0x44, 0x41, 0x52, 0x2D, 0x41, 0x55, 0x54, 0x48]

/-- The authorisation block decides the debug state of a confidential INVASIVE partition at its first SPAWN (R473). -/
def State.authorise (s : State) (part : Nat) : State :=
  let p := s.part part
  match p.base with
  | none => s
  | some b =>
    if p.conf && p.debug == .invasive then
      let s1 := s.noteRead (Via.of none part) (b + 0x22D800) 1024
      let modulus := s1.bytesAs none (b + 0x22D800) 512
      let signature := s1.bytesAs none (b + 0x22DA00) 512
      let message := authPrefix ++ digestBytes p.mCode ++ Config.identityKey.modulus
      if pssVerify modulus message signature then
        let d := sha512 modulus
        (s1.updPart part (fun p => { p with owner := d })).extendDbg part 1 d
      else (s1.updPart part (fun p => { p with debug := .off })).extendDbg part 2 0
    else s

/-! ### CREATE, GRANT, DESTROY (R450, R451, R471) -/

/-- The debug state of a field. -/
def debugOf (n : Nat) : Debug := match n with | 0 => .off | 1 => .observe | _ => .invasive
def domainOf (n : Nat) : Domain := match n with | 0 => .quad | 1 => .die | _ => .device

/-- The limits of CREATE's arguments: reserved bits, domain 3, debug state 3, a masked conf bit. -/
def Cmd.createOk (c : Cmd) : Bool :=
  c.w1 &&& 0xFFFFFFFFFFFF80C0 == 0 && c.w1.toNat / 2 ^ 8 % 4 != 3 && c.w1.toNat / 2 ^ 12 % 4 != 3
    && c.w2 &&& 0xFFFFFFFFFFFFFFE0 == 0 && c.w3 &&& 0xFFF0000000007FFE == 0

/-- A new partition (R451). -/
def State.newPart (s : State) (c : Cmd) (num : Nat) (asid : BitVec 12) : Part :=
  let a := c.w1.toNat
  let conf := c.w1.getLsbD 11
  let d := debugOf (a / 2 ^ 12 % 4)
  { Part.absent with
    num := num, asid := asid, ceiling := c.w1.setWidth 6, domLimit := domainOf (a / 2 ^ 8 % 4)
    affinity := c.w1.getLsbD 10, conf := conf, debug := d, linkOwn := c.w1.getLsbD 14
    feat := (Config.partFeatures &&& ~~~c.w2) ||| (if conf then 0x20 else 0)
    ptroot := c.w3, key := keyPair s.draws, keyNo := s.draws, keyDies := s.dies.map (fun d => d == .online || d == .goingDown)
    mDbg := extend 0 (dbgInput d.code 0) }

def State.cmdCreate (s : State) (c : Cmd) : Reply :=
  s.onDevice c (Cmd.createOk c) <|
    match s.chooseFree 4096 1 (s.parts.map Part.num) with
    | none => s.refuse codeNoRes
    | some num =>
      match s.drew.chooseFree 4096 1 (s.parts.map (fun p => p.asid.toNat)) with
      | none => s.refuse codeNoRes
      | some asid =>
        let p := s.drew.drew.newPart c num (BitVec.ofNat 12 asid)
        { s.drew.drew.drew with parts := s.parts ++ [p] }.reply [BitVec.ofNat 64 num, BitVec.ofNat 64 asid]

/-- A range lies within HBM, the host window or one peer window. -/
def inOneRegion (a n : Nat) : Bool :=
  decide (a + n ≤ hbmTop) || (decide (hostBase ≤ a) && decide (a + n ≤ peerBase))
    || (decide (peerBase ≤ a) && decide (a < peerBase + 4 * peerStride)
        && decide ((a - peerBase) % peerStride + n ≤ hbmTop))

def State.cmdGrant (s : State) (c : Cmd) : Reply :=
  let a := c.w1.toNat
  let n := c.w2.toNat
  s.onPart c (a % 65536 == 0 && n % 65536 == 0 && n != 0 && inOneRegion a n) fun p =>
    if s.parts.any (fun q => q.num != p.num && q.granted.any (fun g => overlaps g.1 g.2 a n)) then s.refuse codeDenied
    else (s.updPart p.num (fun p => { p with granted := p.granted ++ [(a, n)] })).reply []

/-- What is left of a cell whose partition goes: of a peer channel the peer's end, until that closes too (R459). -/
def Cell.peerRest (c : Cell) : Option Cell :=
  if c.kind = .peer && !c.end1.closed then
    some { c with part := 0, end0 := { c.end0 with closed := true, post := none, held := none, bound := false } }
  else none

/-- Everything of a partition goes: processes after their retired stores, records, cells, slots, cached leaves, the
partition itself with its key. No host event tells of its processes. -/
def State.destroy (s : State) (p : Part) : State :=
  let mine := (s.allProcs.filter (fun q => q.part == p.num)).map Proc.pid
  let s1 := mine.foldl (fun s pid => s.performRetired pid) s
  let s2 := ((s1.allProcs.filter (fun q => q.part == p.num)).map Proc.pid).foldl (fun s pid =>
    let s' : State := match (s.proc? pid).map Proc.place with
      | some (.resident c slot) => s.freeSlot c slot pid
      | some (.exiting c slot) => s.freeSlot c slot pid
      | _ => s
    ((s'.dequeue pid).dropPages pid).dropProc pid) s1
  let keep := fun (l : List TEntry) => l.filter (fun e => e.asid != p.asid)
  { s2 with
    cores := s2.cores.map (fun (k : Core) => { (k.keepRecs (fun r => r.part != p.num)).settleHold with
      tcache := keep k.tcache, spillOff := k.spillOff.filter (fun x => x.1 != p.num) })
    quads := s2.quads.map (fun (q : Quad) => { q with tcache := keep q.tcache, walks := q.walks.filter (fun w => w.part != p.num) })
    pages := s2.pages.filter (fun q => (s2.space? q.owner).any (fun o => o.part != p.num))
    cells := s2.cells.filterMap (fun c => if c.part = p.num then c.peerRest else some c)
    entries := s2.entries.filter (fun (e : Entry) => e.part != p.num)
    detects := s2.detects.filter (fun d => !mine.contains d.init)
    host := { s2.host with slots := s2.host.slots.map (fun x => x.filter (fun y => y.1 != p.num)) }
    parts := s2.parts.filter (fun q => q.num != p.num) }

def State.cmdDestroy (s : State) (c : Cmd) : Reply := s.onPart c true fun p => (s.destroy p).reply []

/-! ### COPY (R450, R469) -/

/-- The host commands that reach host memory need bus mastering (log 34). -/
def State.needMaster (s : State) (r : Reply) : Reply := if s.host.busMaster then r else s.refuse codeDenied

/-- Whether a copy lands in the authorisation block. -/
def Part.inAuthBlock (p : Part) (a n : Nat) : Bool :=
  match p.base with
  | some b => decide (b + 0x22D800 ≤ a) && decide (a + n ≤ b + 0x22E000)
  | none => false

/-- The seals after a store of n bytes by physical address into a partition's memory (R472): the supervisor's table and
image of a confidential one are under its key. -/
def State.sealPhys (s : State) (p : Part) (pa n : Nat) : State :=
  (sectorsOf pa n).foldl (fun s sec =>
    let inside := match p.base with
      | some b => decide (b ≤ sec * 32) && decide (sec * 32 < b + 0x22D000)
      | none => false
    State.sealSector (if inside then p.supKey else none) pa n s sec) s

/-- Data comes in: it performs, the code measurement follows, and a report where the partition has started. -/
def State.copyIn (s : State) (p : Part) (host : Word) (a n : Nat) : State :=
  let data := s.hostGet host n
  let s1 := (s.sealPhys p a n).storeBytes 0 a data
  let s2 := if p.inAuthBlock a n then s1
    else s1.updPart p.num (fun p => { p with mCode := extend p.mCode (bytesOf 8 a ++ bytesOf 8 n ++ data) })
  if p.spawned then s2.writeReport p.num else s2

def State.cmdCopy (s : State) (c : Cmd) : Reply :=
  let n := c.w3.toNat % 2 ^ 63
  let a := c.w2.toNat
  let out := c.w3.getLsbD 63
  s.onPart c (n % 32 == 0 && (n == 0 || decide (a + n ≤ hbmTop))) fun p =>
    if n = 0 then s.reply []
    else if !p.grants a n || s.offlineAt a || s.offlineAt (a + n - 1) || (p.conf && (out || p.spawned)) then
      s.refuse codeDenied
    else s.needMaster <|
      if out then
        let s1 := s.noteRead Via.outside a n
        (s1.hostPut c.w1 (s1.bytesAs none a n)).reply []
      else (s.copyIn p c.w1 a n).reply []

/-! ### DIEDOWN, DIEUP, EVENT (R444, R450, R455) -/

/-- Whether a die is on its way down or up. -/
def State.dieBusy (s : State) : Bool := s.dies.any (fun d => d == .goingDown || d == .comingUp)

/-- The die's cores take nothing more, and everything on them starts to move. -/
def State.startDown (s : State) (d : Nat) : State :=
  let s1 := (s.setDie d .goingDown).evacuate d
  ((s1.allProcs.filter (fun p => p.isResident && dieOfCore p.core == d)).map (fun p => (p.pid, p.core))).foldl
    (fun s x => s.beginMove x.1 (twin x.2)) s1

def State.cmdDieDown (s : State) (c : Cmd) : Reply :=
  let d := c.w1.toNat
  s.onDevice c (decide (d < 2)) <|
    if s.dieBusy then s.refuse codeDenied
    else if s.die d = .offline then (s.hostEvent 3 [c.w1, 0]).reply []
    else if s.die (1 - d) = .offline then s.refuse codeDenied
    else (s.startDown d).reply []

def State.cmdDieUp (s : State) (c : Cmd) : Reply :=
  let d := c.w1.toNat
  s.onDevice c (decide (d < 2)) <|
    if s.dieBusy then s.refuse codeDenied
    else if s.die d = .online then (s.hostEvent 3 [c.w1, 1]).reply []
    else (s.setDie d .comingUp).reply []

def State.cmdEvent (s : State) (c : Cmd) : Reply :=
  s.onDevice c true <| s.needMaster <|
    match s.host.events with
    | [] => s.refuse codeEmpty
    | e :: rest =>
      let w0 : Word := BitVec.ofNat 64 (s.host.dropped.toNat * 256 + e.kind % 256)
      let words := ((w0 :: e.words) ++ List.replicate 63 0).take 64
      ({ s with host := { s.host with events := rest, dropped := 0 } }.hostPut c.w1 (wordBytes words)).reply
        [BitVec.ofNat 64 e.kind]

end Sys2Proof.Machine
end

