-- ==== Sys2Proof/Machine/ProcForms.lean ====
section
/-! DEFINITION. PROC (05_processes.md R155-R159), SPAWN (R151-R153) and GSET (11_memory.md R297, R298). -/

namespace Sys2Proof.Machine

/-! ### EXIT (R156, 15_traps.md R395) -/

/-- From the retirement of an EXIT the process issues nothing; EXIT_COMPLETION does the rest. A process outside a slot
does not execute. -/
def State.beginExit (s : State) (code : Word) : State :=
  match s.cur.place with
  | .resident c slot => { s with cur := { s.cur with exitCode := some code, place := .exiting c slot } }
  | _ => { s with cur := { s.cur with exitCode := some code } }

/-- A supervisor's EXIT also ends the service of its partition. -/
def execExit (a : SReg) (s : State) : Host.Outcome State Fault Refusal :=
  let code := s.rd a
  let s1 := (s.next 4).beginExit code
  if s.cur.sup then
    .next (((s1.parkAll s.cur.part s.cur.pid).updPart s.cur.part (fun q => { q with ended := true })).hostEvent 5
      [zextWord s.cur.pid, code])
  else .next s1

/-! ### YIELD and the read forms (R155, R157-R159) -/

/-- The rotation of a priority on a core stands at a slot. -/
def State.setRotation (s : State) (c : Nat) (prio : BitVec 6) (slot : Nat) : State :=
  s.updCore c (fun k => { k with lastSlot := k.lastSlot.set prio.toNat (Fin.ofNat 4 slot) prio.isLt })

def execYield (s : State) : Host.Outcome State Fault Refusal :=
  let s1 := s.next 4
  match s.cur.place with
  | .resident c slot =>
    if (s.workPrios c).any (fun p => decide (s.cur.prio ≤ p)) then .next (s1.parkProc s1.cur.pid false)
    else .next (s1.setRotation c s.cur.prio slot)
  | _ => .next s1

def execPid (d : SReg) (s : State) : Host.Outcome State Fault Refusal := .next ((s.wr d (zextWord s.cur.pid)).next 4)
def execLcore (d : SReg) (s : State) : Host.Outcome State Fault Refusal :=
  .next ((s.wr d (BitVec.ofNat 64 s.curCore)).next 4)

/-- SPRIO: clamped to the partition's ceiling (R131). -/
def clampPrio (v : Word) (ceiling : BitVec 6) : BitVec 6 :=
  if ceiling.toNat < v.toNat then ceiling else v.setWidth 6

def execSprio (a : SReg) (s : State) : Host.Outcome State Fault Refusal :=
  .next ({ s with cur := { s.cur with prio := clampPrio (s.rd a) s.curPart.ceiling } }.next 4)
def execGprio (d : SReg) (s : State) : Host.Outcome State Fault Refusal :=
  .next ((s.wr d (zextWord s.cur.prio)).next 4)
def execCycle (d : SReg) (s : State) : Host.Outcome State Fault Refusal := .next ((s.wr d s.cycle).next 4)
def execPart (d : SReg) (s : State) : Host.Outcome State Fault Refusal :=
  .next ((s.wr d (BitVec.ofNat 64 s.cur.part)).next 4)

/-! ### SPAWN (R151) -/

/-- The E registers a mask moves: E(8 + i) for each bit i. -/
def movedRegs (mask : BitVec 8) : List (Fin 8) := (List.finRange 8).filter (fun i => mask.getLsbD i.val)

/-- E(8 + i). -/
def upperE (i : Fin 8) : EReg := ⟨8 + i.val, by omega⟩

/-- Every register that moves holds an endpoint. -/
def State.movedOk (s : State) : List (Fin 8) → Except Halt Unit
  | [] => .ok ()
  | i :: rest =>
    match s.useE (upperE i) with
    | .error h => .error h
    | .ok _ => s.movedOk rest

/-- The narrower of two domains (R151). -/
def Domain.min (a b : Domain) : Domain :=
  match a, b with
  | .quad, _ => .quad
  | _, .quad => .quad
  | .die, _ => .die
  | _, .die => .die
  | .device, .device => .device

/-- The moved endpoints change owner, and their registers become empty (R151, R346). -/
def State.moveEndpoints (s : State) (mask : BitVec 8) (child : Pid) : State :=
  (movedRegs mask).foldl (fun s i =>
    let h := s.rdE (upperE i)
    let s1 := { s with entries := s.entries.map (fun (e : Entry) =>
      if e.live && e.part == s.cur.part && e.handle == h && e.owner == s.cur.pid then { e with owner := child } else e) }
    (s1.wrE (upperE i) 0).moved) s

/-- The entries of the moved endpoints are reached (12_channels.md R321). -/
def State.movedReach (s : State) : List (Fin 8) → Except Halt Unit
  | [] => .ok ()
  | i :: rest =>
    match s.useE (upperE i) with
    | .error h => .error h
    | .ok (e, c) =>
      match s.reachEntry e c with
      | .error h => .error h
      | .ok () => s.movedReach rest

/-- The words that become E0-E7 of the child. -/
def State.movedWords (s : State) (mask : BitVec 8) : Vector Word32 8 :=
  Vector.ofFn (fun i => if mask.getLsbD i.val then s.rdE (upperE i) else 0)

/-- Checks, then the room for the push, the join channel, the space, and the record. -/
def execSpawn (d : EReg) (a b : SReg) (dom : Domain) (mask : BitVec 8) (s : State) : Host.Outcome State Fault Refusal :=
  let entry := s.rd a
  let s0 := s.release
  s0.finish (do
    trapIf (!aligned entry 4) .misalign entry
    trapIf (entry.toNat / 2 ^ 52 != 0) .gprot entry
    s0.movedOk (movedRegs mask)
    if (movedRegs mask).any (fun i => upperE i == d) then pure () else s0.emptyE d
    s0.movedReach (movedRegs mask)
    let s1 ← s0.roomForPush s0.curCore
    let (s2, child) := s1.newPid
    let (s3, jp, je, cell) ← s2.newChannel s2.cur.part s2.cur.pid child
    match s3.freeSpSlot s3.cur.part with
    | none => .error (.trap noSlot)
    | some slot =>
      let s4 ← s3.clearSlot s3.cur.part slot
      let r : Rec :=
        { entry := entry, arg := s4.rd b, pid := child, prio := s4.cur.prio, domain := Domain.min dom s4.curPart.domLimit,
          origin := s4.curCore, part := s4.cur.part, join := .chan cell, seq := 0, moved := s4.movedWords mask, sup := false,
          spSlot := some slot, spDir := [], spill := none, spillVa := 0, seg := 0, sealed := [], bmask := 0, wmask := 0,
          halted := false, stepping := false, extra := Vector.replicate 8 0, skipBp := false }
      let hs := (movedRegs mask).map (fun i => s0.rdE (upperE i))
      return ((((s4.moveEndpoints mask child).pushRec s4.curCore r).wrE d jp).next 4).reachedNew s4.cur.part cell (jp :: je :: hs))

/-! ### GSET -/

/-- A geometry register from a stride and a shape word (R297, R298). -/
def geometryOf (stride shape : Word) : BitVec 128 :=
  BitVec.ofNat 128 (stride.toNat % 2 ^ 32 + shape.toNat % 2 ^ 7 * 2 ^ 32 + shape.toNat / 2 ^ 8 % 2 ^ 10 * 2 ^ 40
    + shape.toNat / 2 ^ 18 % 2 * 2 ^ 50)

def execGset (d : GReg) (a b : SReg) (s : State) : Host.Outcome State Fault Refusal :=
  .next ({ s with cur := { s.cur with g := s.cur.g.set d (geometryOf (s.rd a) (s.rd b)) } }.next 4)

end Sys2Proof.Machine
end

