-- ==== Sys2Proof/Machine/HostSpawn.lean ====
section
/-! DEFINITION. Host commands on processes and endpoints: SPAWN (18_host.md R452, R453, R459), HSEND, HRECV, HCLOSE
(R454), EXPORT and IMPORT (R456), RELEASE (R405), FAULTEND (R450). -/

namespace Sys2Proof.Machine

/-! ### SPAWN -/

/-- The kind and the peer byte of E(i). -/
def Cmd.kindOf (c : Cmd) (i : Nat) : Nat := c.w3.toNat / 2 ^ (32 + 2 * i) % 4
def Cmd.peerDev (c : Cmd) (i : Nat) : Fin 4 := Fin.ofNat 4 (c.w4.toNat / 2 ^ (8 * i + 6) % 4)
def Cmd.peerTag (c : Cmd) (i : Nat) : BitVec 6 := BitVec.ofNat 6 (c.w4.toNat / 2 ^ (8 * i))
def Cmd.origin (c : Cmd) : Nat := c.w3.toNat / 2 ^ 16 % 256

/-- The registers of a kind. -/
def Cmd.ofKind (c : Cmd) (k : Nat) : List Nat := (List.range 8).filter (fun i => Cmd.kindOf c i == k)

/-- A tag toward a device is in use on this device (R459). -/
def State.tagUsed (s : State) (d : Fin 4) (t : BitVec 6) : Bool :=
  s.link.tags.any (fun x => x.1 == d && x.2.1 == t && x.2.2.1 != 0 && (s.cell? x.2.2.1).isSome)

/-- The limits of SPAWN's arguments: reserved bits, domain 3, kind 3, an origin core that runs, an entry that SPAWN
takes (05_processes.md R151, log 35), E7 of a supervisor, tags that are free. -/
def State.spawnArgs (s : State) (c : Cmd) (first : Bool) : Bool :=
  let tags := (Cmd.ofKind c 2).map (fun i => (Cmd.peerDev c i, Cmd.peerTag c i))
  c.w3 &&& 0xFFFF0000FF00FCC0 == 0 && c.w3.toNat / 2 ^ 8 % 4 != 3 && (Cmd.ofKind c 3).isEmpty
    && s.coreOnline (Cmd.origin c) && c.w1.toNat % 4 == 0 && c.w1.toNat / 2 ^ 52 == 0
    && !(first && Cmd.kindOf c 7 != 0)
    && tags.all (fun x => x.1 != s.link.self && !s.tagUsed x.1 x.2) && decide tags.Nodup

/-- Free host slots, lowest first (R453). -/
def State.freeSlots (s : State) : List Nat :=
  (List.range 64).filter (fun i => if h : i < 64 then (s.host.slots[i]).isNone else false)

def State.setSlot (s : State) (i : Nat) (x : Option (Nat × Nat)) : State :=
  { s with host := { s.host with slots := if h : i < 64 then s.host.slots.set i x else s.host.slots } }

/-- A cell the device holds itself, and the endpoint at its end 0, owned by a process (R508). -/
def State.deviceCell (s : State) (part : Nat) (kind : CellKind) (other : Holder) (number : Nat) (owner : Pid) :
    Option (State × Word32 × Nat) :=
  match s.newCell part true kind .proc other none with
  | none => none
  | some (s1, id) => (s1.newEntry part true id number owner).map (fun x => (x.1, x.2, id))

/-- One E register of a new process: its handle word, and the host slot or 0xFF. -/
def State.spawnEnd (s : State) (c : Cmd) (part : Nat) (pid : Pid) (i : Nat) : State × Word32 × Nat :=
  match Cmd.kindOf c i with
  | 1 =>
    match s.freeSlots with
    | [] => (s, 0, 0xFF)
    | n :: _ => match s.deviceCell part .host (.slot n) 0 pid with
      | some (s1, h, id) => (s1.setSlot n (some (part, id)), h, n)
      | none => (s, 0, 0xFF)
  | 2 =>
    let d := Cmd.peerDev c i
    let t := Cmd.peerTag c i
    match s.deviceCell part .peer (.peer d t) 0 pid with
    | some (s1, h, id) =>
      let asked := s1.link.tags.any (fun x => x.1 == d && x.2.1 == t && x.2.2.1 == 0)
      let rest := s1.link.tags.filter (fun x => !(x.1 == d && x.2.1 == t))
      ({ s1 with link := { s1.link with tags := rest ++ [(d, t, id, asked)] } }, h, 0xFF)
    | none => (s, 0, 0xFF)
  | _ => (s, 0, 0xFF)

/-- E0 to E7, lowest first: handle words and slot bytes. -/
def State.spawnEnds (s : State) (c : Cmd) (part : Nat) (pid : Pid) : List Nat → State × List Word32 × List Nat
  | [] => (s, [], [])
  | i :: rest =>
    let r := s.spawnEnd c part pid i
    let q := r.1.spawnEnds c part pid rest
    (q.1, r.2.1 :: q.2.1, r.2.2 :: q.2.2)

/-- A timer of a new supervisor: its handle word. -/
def State.spawnTimer (s : State) (part : Nat) (pid : Pid) (i : Fin 8) : State × Word32 :=
  match s.deviceCell part .timer .device i.val pid with
  | some (s1, h, id) =>
    (s1.updPart part (fun p => { p with timers := p.timers.set i { cell := id, due := none } }), h)
  | none => (s, 0)

/-- The eight timers, E8 to E15. -/
def State.spawnTimers (s : State) (part : Nat) (pid : Pid) : List (Fin 8) → State × List Word32
  | [] => (s, [])
  | i :: rest =>
    let r := s.spawnTimer part pid i
    let q := r.1.spawnTimers part pid rest
    (q.1, r.2 :: q.2)

/-- The receiving end of a fault channel for a process (15_traps.md R388). -/
def State.faultEnd (s : State) (part : Nat) (pid : Pid) : State × Word32 :=
  match s.deviceCell part .fault .device 0 pid with
  | some (s1, h, id) => (s1.updPart part (fun p => { p with faultCell := some id }), h)
  | none => (s, 0)

/-- Eight handle words as a vector. -/
def eight (l : List Word32) : Vector Word32 8 := Vector.ofFn (fun i : Fin 8 => l.getD i.val 0)

/-- The record of a host SPAWN. -/
def Cmd.record (c : Cmd) (p : Part) (pid : Pid) (sup : Bool) (slot : Option Nat) (e extra : List Word32) : Rec :=
  let prio : BitVec 6 := c.w3.setWidth 6
  { entry := c.w1, arg := c.w2, pid := pid, prio := if p.ceiling < prio then p.ceiling else prio
    domain := Domain.min (domainOf (c.w3.toNat / 2 ^ 8 % 4)) p.domLimit, origin := Cmd.origin c, part := p.num
    join := if sup then .supervisor else .root, seq := 0, moved := eight e, sup := sup, spSlot := slot, spDir := []
    spill := none, spillVa := 0, seg := 0, sealed := [], bmask := 0, wmask := 0, halted := false, stepping := false
    extra := eight extra, skipBp := false }

/-- The reply of a SPAWN: the PID and a byte for each E register. -/
def spawnReply (s : State) (pid : Pid) (slots : List Nat) : Reply :=
  s.reply [zextWord pid, BitVec.ofNat 64 (ofBytes (slots.map (BitVec.ofNat 8)))]

/-- The first SPAWN: the supervisor, its fault end and timers, measurements and the report. -/
def State.spawnSupervisor (s : State) (c : Cmd) (p : Part) (base : Nat) : Reply :=
  let (s1, pid) := s.newPid
  let (s2, e, slots) := s1.spawnEnds c p.num pid (List.range 7)
  let (s3, fault) := s2.faultEnd p.num pid
  let (s4, timers) := s3.spawnTimers p.num pid (List.finRange 8)
  let words := wordBytes [c.w1, c.w2, c.w3, c.w4]
  let s5 := s4.updPart p.num (fun p => { p with sup := some pid, spawned := true, mSup := sha512 words })
  let s6 := (s5.physZero p.supKey base 0x8000).authorise p.num
  let r := Cmd.record c p pid true none (e ++ [fault]) timers
  spawnReply ((s6.writeReport p.num).placeRec (Cmd.origin c) r) pid (slots ++ [0xFF])

/-- A later SPAWN: a user-mode root with a scratchpad slot of its own. A fault of the slot areas is the supervisor's. -/
def State.spawnRoot (s : State) (c : Cmd) (p : Part) : Reply :=
  match s.freeSpSlot p.num with
  | none => s.refuse codeNoRes
  | some slot =>
    match s.clearSlot p.num slot with
    | .error (.area t) => (s.areaFault p.num t).refuse codeNoRes
    | .error _ => s.refuse codeNoRes
    | .ok s0 =>
      let (s1, pid) := s0.newPid
      let (s2, e, slots) := s1.spawnEnds c p.num pid (List.range 8)
      let r := Cmd.record c p pid false (some slot) e []
      spawnReply (s2.placeRec (Cmd.origin c) r) pid slots

def State.cmdSpawn (s : State) (c : Cmd) : Reply :=
  s.onPart c (match s.part? (Cmd.part c) with
    | some p => s.spawnArgs c (!p.spawned)
    | none => s.spawnArgs c false) fun p =>
    if !(Cmd.ofKind c 2).isEmpty && !p.feat.getLsbD 4 then s.refuse codeDenied
    else if decide (s.freeSlots.length < (Cmd.ofKind c 1).length) then s.refuse codeNoRes
    else if p.spawned then s.spawnRoot c p
    else match p.granted with
      | [] => s.refuse codeNoRes
      | g :: _ => if g.2 < Config.supervisorBytes then s.refuse codeNoRes else s.spawnSupervisor c p g.1

/-! ### Host endpoints (R454) -/

/-- The cell of a slot for a partition: BADCMD for a free slot, DENIED for another partition's. -/
def State.onSlot (s : State) (c : Cmd) (f : Nat → Cell → Reply) : Reply :=
  let n := c.w1.toNat
  s.onPart c (decide (n < 64)) fun p =>
    match (if h : n < 64 then s.host.slots[n] else none) with
    | none => s.refuse codeBad
    | some (part, id) =>
      if part != p.num then s.refuse codeDenied
      else match s.cell? id with
        | none => s.refuse codeClosed
        | some x => f n x

def State.cmdHsend (s : State) (c : Cmd) : Reply :=
  s.onSlot c fun _ x =>
    if x.end0.closed && x.end1.held.isNone then s.refuse codeClosed
    else if x.end0.closed then s.reply []
    else if x.end0.held.isSome then s.refuse codeFull
    else ((s.updEnd x.id false (fun e => { e with held := some c.w2 })).settled x.id).reply []

/-- A claim that reaches a key which a cell holds for now waits until that cell's claims have settled, the other party's
first (12_channels.md R334). -/
def settleKey : Nat → Pid → State → State
  | 0, _, s => s
  | fuel + 1, pid, s =>
    match s.altKey pid with
    | .provisional id =>
      match s.claimCell id with
      | some t => settleKey fuel pid t
      | none =>
        let s1 := ((s.cell? id).toList.flatMap (fun c => [s.endOwner c false, s.endOwner c true].filterMap (fun x => x))).foldl
          (fun s q => if q = pid then s else settleKey fuel q s) s
        (s1.claimCell id).getD s1
    | _ => s

/-- A command waits for a process to have settled where it is: its retired stores and its request are done, a move has
ended, the claims on its ALT are decided (05_processes.md R143, 12_channels.md R334). -/
def State.stand (s : State) (pid : Pid) : State :=
  let s1 := (s.drain pid).finishRequest pid
  settleKey (s.cells.length + 1) pid (if (s1.proc? pid).any Proc.isMoving then (tryMoveComplete pid s1).getD s1 else s1)

/-- What HRECV makes of what stands at the device end: a posted send completes, an ALT send offer is claimed. -/
def State.hrecvPosted (s0 : State) (x0 : Cell) : Reply :=
  let s := match x0.offerArm false, s0.endOwner x0 false with
    | some _, some pid => s0.stand pid
    | _, _ => s0
  let x := (s.cell? x0.id).getD x0
  match x.end0.post, s.endOwner x false with
  | some (.send v), some pid =>
    (((s.unpost x.id false).unbind x.id).complete pid (.step 4)).reply [v]
  | some (.offer arm true), some pid =>
    if s.altKey pid = .unclaimed && !s.ownerMoving x false then (s.altReturn pid x false arm.val).refuse codeEmpty else s.refuse codeEmpty
  | _, _ => s.refuse codeEmpty

def State.cmdHrecv (s : State) (c : Cmd) : Reply :=
  s.onSlot c fun _ x =>
    match x.end1.held with
    | some v => ((s.updEnd x.id true (fun e => { e with held := none })).freeCell x.id).reply [v]
    | none => if x.end0.closed then s.refuse codeClosed else s.hrecvPosted x

def State.cmdHclose (s : State) (c : Cmd) : Reply :=
  s.onSlot c fun n x => ((s.closeEnd x.id true).setSlot n none).reply []

/-! ### EXPORT and IMPORT (R456) -/

/-- A held process: not in a slot, and held or halted (15_traps.md R402). -/
def Proc.isHeld (p : Proc) : Bool := (p.place == .parked || p.isMoving) && (p.held || p.halted)

/-- Bytes replaced in a list from an offset on. -/
def overlay (l : List Byte) (off : Nat) (new : List Byte) : List Byte :=
  l.take off ++ new ++ l.drop (off + new.length)

/-- A register's page leaves the pool for its place in the image (15_traps.md R399). -/
def State.storeRef (s : State) (pid : Pid) (k : Nat) : State :=
  match s.proc? pid with
  | none => s
  | some p =>
    if p.tref k = .image then s
    else match s.pageToImage p k (s.refPage (p.tref k)) with
      | .error t => s.areaFault p.part t
      | .ok t => t.updProc pid (fun p => { p with t := setRefs p.t k [.image] })

/-- Every page of the registers of a process is in its image. -/
def State.storeRefs (s : State) (pid : Pid) : State := ((List.range 32).foldl (fun s k => s.storeRef pid k) s).sweep pid

/-- The file of an image: E words 0, no record; every reference reads 0. -/
def exportBytes (l : List Byte) : List Byte :=
  overlay (overlay l 0x1C0 (List.replicate (64 + 256) 0)) 0x400 (List.replicate 512 0)

/-- EXPORT runs when the process's image is complete. -/
def State.cmdExport (s : State) (c : Cmd) : Reply :=
  s.onPart c (c.w1.toNat / 2 ^ 32 == 0) fun p =>
    if p.conf then s.refuse codeDenied
    else match s.proc? (c.w1.setWidth 32) with
      | none => s.refuse codeBad
      | some q =>
        if q.part != p.num || !q.isHeld then s.refuse codeBad
        else s.needMaster <|
          let s0 := (s.drain q.pid).finishRequest q.pid
          let s1 := (if q.imageOk then s0 else s0.completeImage q.pid).storeRefs q.pid
          match s1.imageRead q 0 Config.imageSlotBytes with
          | .error t => (s1.areaFault p.num t).refuse codeNoRes
          | .ok (s2, l) => (s2.hostPut c.w2 (exportBytes l)).reply []

/-- The process an image makes: parked, held, tile data in the image, no endpoint, an empty latch, the arm chosen last and
the halt and step state of the file (R456). -/
def importedProc (p : Part) (pid : Pid) (slot core : Nat) (l : List Byte) : Proc :=
  { (Proc.absent.readBack p.ceiling l).readOwn (BitVec.ofNat 64 (ofBytes ((l.drop 0x300).take 8))) with
    pid := pid, part := p.num, e := Vector.replicate 16 0, t := Vector.replicate 32 .image
    spSlot := some slot, place := .parked, home := core, ran := core, held := true, join := .root }

/-- The image of an imported process: the file, but for the status word, the root and the words the device writes 0. -/
def State.importBytes (s : State) (q : Proc) (l : List Byte) : List Byte :=
  let l1 := overlay l 0x118 (wordBytes [q.statusWord, BitVec.ofNat 64 (s.sttRoot q), 0])
  overlay (overlay l1 0x1C0 (List.replicate (64 + 256) 0)) 0x600 (List.replicate 0xA00 0)

/-- The home of an imported process: the lowest core that runs (log 36). -/
def State.lowestCore (s : State) : Nat := ((List.range 90).find? s.coreOpen).getD 0

def State.importProc (s : State) (p : Part) (slot : Nat) (l : List Byte) : Except TrapInfo (State × Pid) :=
  match s.clearSlot p.num slot with
  | .error (.area t) => .error t
  | .error _ => .error (.at .gfault 0)
  | .ok s0 =>
    let (s1, pid) := s0.newPid
    let q := importedProc p pid slot s1.lowestCore l
    let s2 := { s1 with procs := q :: s1.procs }
    (s2.imageWrite q 0 (s2.importBytes q l)).map (fun s3 => (s3, pid))

def State.cmdImport (s : State) (c : Cmd) : Reply :=
  s.onPart c true fun p =>
    if p.conf then s.refuse codeDenied
    else s.needMaster <|
      let l := s.hostGet c.w1 Config.imageSlotBytes
      if ((l.drop 0x130).take 16).any (· != 0) then s.refuse codeBad
      else match s.freeSpSlot p.num with
        | none => s.refuse codeNoRes
        | some slot =>
          match s.importProc p slot l with
          | .error t => (s.areaFault p.num t).refuse codeNoRes
          | .ok (t, pid) => t.reply [zextWord pid]

/-! ### RELEASE (15_traps.md R405): a supervisor that a HALT stopped -/

def State.cmdRelease (s : State) (c : Cmd) : Reply :=
  s.onPart c (c.w1.toNat / 2 ^ 32 == 0) fun p =>
    match s.proc? (c.w1.setWidth 32) with
    | none => s.refuse codeBad
    | some q =>
      if q.part != p.num || !q.sup || !q.haltOp then s.refuse codeBad
      else ((s.updProc q.pid (fun q => { q with halted := false, haltOp := false, stepping := false, skipBp := true })).enqueue
        q.pid).reply []

/-! ### FAULTEND (R450, R388) -/

/-- Whether the fault end of a partition is open. -/
def State.faultOpen (s : State) (p : Part) : Bool :=
  match p.faultCell.bind s.cell? with
  | some c => !c.end0.closed
  | none => false

/-- The supervisor of a partition, queued or not. -/
def State.supOf (s : State) (p : Part) : Option Proc := p.sup.bind s.space?

/-- Whether an E register of a process is the destination of what it has posted. -/
def State.postsTo (s : State) (p : Proc) (r : EReg) : Bool :=
  match p.wait with
  | .op cell side =>
    match (s.cell? cell).bind (fun c => (c.side side).post) with
    | some (.recve d) => d == r
    | _ => false
  | _ => false

/-- A record's E registers: E0 to E7, then E8 to E15. -/
def Rec.setE (r : Rec) (x : EReg) (h : Word32) : Rec :=
  if hx : x.val < 8 then { r with moved := r.moved.set x.val h }
  else { r with extra := r.extra.set (x.val - 8) h }

/-- An E register of a process takes a handle, at the end of a clock pause of its core; a parked process's image shows it. -/
def State.placeHandle (s : State) (pid : Pid) (r : EReg) (h : Word32) : State :=
  match s.proc? pid with
  | some _ => s.writeWhen pid { Writes.step 0 with e := [(r, h)] }
  | none => s.updRec pid (fun x => x.setE r h)

/-- The new fault end is placed in a register, or closed with code FULL. -/
def State.placeFaultEnd (s : State) (part : Nat) (r : EReg) : Reply :=
  let p := s.part part
  match s.supOf p with
  | none => s.refuse codeFull
  | some q =>
    if q.e[r] != 0 || s.postsTo q r then s.refuse codeFull
    else
      let x := s.faultEnd part q.pid
      (x.1.placeHandle q.pid r x.2).reply []

/-- Whether the supervisor stands at a boundary where the end is placed at once. -/
def State.standsStill (s : State) (q : Proc) : Bool :=
  (s.proc? q.pid).isNone || q.place == .parked || q.isBlocked || q.stopped

def State.cmdFaultEnd (s : State) (c : Cmd) : Reply :=
  s.onPart c (decide (c.w1.toNat < 16)) fun p =>
    match s.supOf p with
    | none => s.refuse codeDenied
    | some q =>
      let r : EReg := Fin.ofNat 16 c.w1.toNat
      if s.faultOpen p then s.refuse codeDenied
      else if s.standsStill q then s.placeFaultEnd p.num r
      else { state := s.updPart p.num (fun p => { p with placing := some r }), code := codeOk, out := [], ended := false }

end Sys2Proof.Machine
end

