-- ==== Sys2Proof/Machine/EvHost.lean ====
section
/-! DEFINITION. Events of the host port: each command as the host issues it, the reads and writes of BAR0, debug
controls, bus mastering (18_host.md R446-R450, 15_traps.md R409, 19_trust.md R474, R475). -/

namespace Sys2Proof.Machine

/-! ### The command block (R449) -/

/-- The words of a block. -/
def Cmd.words (c : Cmd) : Vector Word 8 := #v[c.w0, c.w1, c.w2, c.w3, c.w4, c.w5, c.w6, c.w7]
def cmdOf (w : Vector Word 8) : Cmd :=
  { w0 := w[0], w1 := w[1], w2 := w[2], w3 := w[3], w4 := w[4], w5 := w[5], w6 := w[6], w7 := w[7] }

/-- A host port that answers: not in SUSPEND (19_trust.md R474). -/
def State.portOpen (s : State) : Bool := s.power != .suspended

def State.setCmd (s : State) (w : Vector Word 8) : State := { s with host := { s.host with cmd := w } }

/-- Results go to words 4 to 7. -/
def withResults (w : Vector Word 8) (out : List Word) : Vector Word 8 :=
  Vector.ofFn (fun i : Fin 8 => if 4 ≤ i.val then out.getD (i.val - 4) w[i] else w[i])

/-- The code is written and busy clears; a command that has not ended stays busy. -/
def State.takeReply (r : Reply) : State :=
  let h := r.state.host
  if r.ended then { r.state with host := { h with
      cmd := withResults h.cmd r.out, code := BitVec.ofNat 8 r.code, busy := false } }
  else { r.state with host := { h with busy := true } }

/-- What the opcode of a block asks for; an opcode of no command gives BADCMD. -/
def State.runCommand (s : State) (c : Cmd) : Reply :=
  match Cmd.opcode c with
  | 0x01 => s.cmdCreate c
  | 0x02 => s.cmdGrant c
  | 0x03 => s.cmdDestroy c
  | 0x04 => s.cmdCopy c
  | 0x05 => s.cmdSpawn c
  | 0x06 => s.cmdHsend c
  | 0x07 => s.cmdHrecv c
  | 0x08 => s.cmdHclose c
  | 0x09 => s.cmdExport c
  | 0x0A => s.cmdImport c
  | 0x0B => s.cmdRelease c
  | 0x0C => s.cmdDieDown c
  | 0x0D => s.cmdDieUp c
  | 0x0E => s.cmdEvent c
  | 0x0F => s.cmdFaultEnd c
  | _ => s.refuse codeBad

/-- A doorbell: ignored before ready (19_trust.md R467), an overrun while busy; else the block is read and runs. IDLE is
left (R474). -/
def State.doorbell (s : State) : State :=
  if !s.boot.ready then s
  else if s.host.busy then { s with host := { s.host with overrun := true } }
  else State.takeReply (s.wakeUp.runCommand (cmdOf s.host.cmd))

/-- A command as the host issues it: the words, then the doorbell; the block's opcode is the event's. -/
def State.tryCommand (s : State) (c : Cmd) (op : Nat) : Option State :=
  if s.portOpen && Cmd.opcode c == op then some (s.setCmd (Cmd.words c)).doorbell else none

def State.command (s : State) (c : Cmd) (op : Nat) : Host.Outcome State Fault Refusal := s.occur (s.tryCommand c op)

def execCreate (c : Cmd) (s : State) : Host.Outcome State Fault Refusal := s.command c 0x01
def execGrant (c : Cmd) (s : State) : Host.Outcome State Fault Refusal := s.command c 0x02
def execDestroy (c : Cmd) (s : State) : Host.Outcome State Fault Refusal := s.command c 0x03
def execCopy (c : Cmd) (s : State) : Host.Outcome State Fault Refusal := s.command c 0x04
def execSpawnCommand (c : Cmd) (s : State) : Host.Outcome State Fault Refusal := s.command c 0x05
def execHsend (c : Cmd) (s : State) : Host.Outcome State Fault Refusal := s.command c 0x06
def execHrecv (c : Cmd) (s : State) : Host.Outcome State Fault Refusal := s.command c 0x07
def execHclose (c : Cmd) (s : State) : Host.Outcome State Fault Refusal := s.command c 0x08
def execExportCmd (c : Cmd) (s : State) : Host.Outcome State Fault Refusal := s.command c 0x09
def execImportCmd (c : Cmd) (s : State) : Host.Outcome State Fault Refusal := s.command c 0x0A
def execRelease (c : Cmd) (s : State) : Host.Outcome State Fault Refusal := s.command c 0x0B
def execDiedown (c : Cmd) (s : State) : Host.Outcome State Fault Refusal := s.command c 0x0C
def execDieup (c : Cmd) (s : State) : Host.Outcome State Fault Refusal := s.command c 0x0D
def execEvent (c : Cmd) (s : State) : Host.Outcome State Fault Refusal := s.command c 0x0E
def execFaultend (c : Cmd) (s : State) : Host.Outcome State Fault Refusal := s.command c 0x0F

/-- FAULT_END_PLACEMENT: the busy FAULTEND of a partition ends at its supervisor's next boundary. -/
def tryFaultEndPlacement (part : Nat) (s : State) : Option State :=
  match (s.part part).placing with
  | none => none
  | some r =>
    some (State.takeReply ((s.updPart part (fun p => { p with placing := none })).placeFaultEnd part r))

def execFaultEndPlacement (part : Nat) (s : State) : Host.Outcome State Fault Refusal :=
  s.occur (tryFaultEndPlacement part s)

/-- CMDSTAT_READ: overrun clears. -/
def tryCmdstatRead (s : State) : Option State :=
  if s.portOpen then some { s with host := { s.host with overrun := false } } else none

def execCmdstatRead (s : State) : Host.Outcome State Fault Refusal := s.occur (tryCmdstatRead s)

/-- DOORBELL_WHILE_BUSY. -/
def tryDoorbellWhileBusy (s : State) : Option State :=
  if s.portOpen && s.host.busy then some s.doorbell else none

def execDoorbellWhileBusy (s : State) : Host.Outcome State Fault Refusal := s.occur (tryDoorbellWhileBusy s)

/-- BUS_MASTERING_CHANGE (R446). -/
def execBusMasteringChange (on : Bool) (s : State) : Host.Outcome State Fault Refusal :=
  .next { s with host := { s.host with busMaster := on } }

/-- CMDSTAT as the host reads it. -/
def HostPort.cmdstat (h : HostPort) : Word := BitVec.ofNat 64 (bit h.busy * 2 ^ 63 + bit h.overrun * 2 ^ 62 + h.code.toNat)

/-! ### BAR0 reads (R447, R448, R475) -/

/-- The partition and the process that SEL names. -/
def HostPort.selPart (h : HostPort) : Nat := h.sel.toNat / 2 ^ 32 % 2 ^ 16
def HostPort.selPid (h : HostPort) : Pid := h.sel.setWidth 32

/-- Whether SEL names a process of the partition it names. -/
def State.selected (s : State) : Bool := s.inPart s.host.selPart s.host.selPid

/-- What STATE shows of a HINGE entry: nothing in NONE, the halted bit in OBSERVE of a confidential partition (R475). -/
def Part.stateMask (p : Part) : Word :=
  if p.debug = .off then 0 else if p.conf && p.debug == .observe then BitVec.ofNat 64 (2 ^ 57) else ~~~(0 : Word)

/-- A word of DBGWIN. -/
def State.readDbgwin (s : State) (off : Nat) : Word :=
  let p := s.part s.host.selPart
  if s.power = .suspended then 0
  else if off = 0 then s.host.sel
  else if !s.selected then 0
  else if off = 8 then s.debugRead p.num s.host.selPid
  else if h : 0x10 ≤ off ∧ off < 0x30 ∧ off % 8 = 0 then (if p.bpVisible then p.ibp[(off - 0x10) / 8] else 0)
  else if h : 0x30 ≤ off ∧ off < 0x40 ∧ off % 8 = 0 then (if p.bpVisible then p.dwp[(off - 0x30) / 8] else 0)
  else if off = 0x40 then s.hingePid p.num s.host.selPid &&& p.stateMask
  else 0

/-- A word of BAR0; reserved offsets and those that are only written read 0. -/
def State.readBar (s : State) (off : Nat) : Word :=
  if off = 0 then BitVec.ofNat 64 (0x9690 * 2 ^ 48 + Config.revision.toNat * 2 ^ 32)
  else if off = 8 then BitVec.ofNat 64 (bit s.boot.ready * 2 ^ 63 + bit s.boot.hostFw * 2 ^ 62 + s.link.self.val)
  else if h : 0x100 ≤ off ∧ off < 0x140 ∧ off % 8 = 0 then s.host.cmd[(off - 0x100) / 8]
  else if off = 0x148 then s.host.cmdstat
  else if off = 0x150 then BitVec.ofNat 64 s.host.events.length
  else if 0x1000 ≤ off ∧ off < 0x2000 then s.readDbgwin (off - 0x1000)
  else 0

/-! ### BAR0 writes -/

/-- A write to DBGWIN. -/
def State.writeDbgwin (s : State) (off : Nat) (v : Word) : State :=
  let part := s.host.selPart
  let p := s.part part
  if s.power = .suspended then s
  else if off = 0 then { s with host := { s.host with sel := v &&& 0x0000FFFFFFFFFFFF } }
  else if !s.selected then s
  else if off = 8 then s.debugWrite part s.host.selPid v
  else if p.debug ≠ .invasive then s
  else if h : 0x10 ≤ off ∧ off < 0x30 ∧ off % 8 = 0 then
    s.updPart part (fun p => { p with ibp := p.ibp.set ((off - 0x10) / 8) (ibpStored v) })
  else if h : 0x30 ≤ off ∧ off < 0x40 ∧ off % 8 = 0 then
    s.updPart part (fun p => { p with dwp := p.dwp.set ((off - 0x30) / 8) (dwpStored v) })
  else s

/-- A write to BOOTWIN: ignored after ready and during verification (19_trust.md R467). -/
def State.writeBootwin (s : State) (off : Nat) (v : Word) : State :=
  if s.boot.ready || s.boot.checking then s
  else if off = 0x7FF8 then s.trigger
  else { s with boot := { s.boot with bootwin := s.boot.bootwin.setBytes off (bytesOf 8 v.toNat) } }

/-- An aligned word written to BAR0; an offset that is not writable ignores it. -/
def State.writeBar (s : State) (off : Nat) (v : Word) : State :=
  if off % 8 ≠ 0 then s
  else if h : 0x100 ≤ off ∧ off < 0x140 then s.setCmd (s.host.cmd.set ((off - 0x100) / 8) v)
  else if off = 0x140 then s.doorbell
  else if 0x1000 ≤ off ∧ off < 0x2000 then s.writeDbgwin (off - 0x1000) v
  else if 0x8000 ≤ off then s.writeBootwin (off - 0x8000) v
  else s

/-! ### Debug controls (15_traps.md R409, R412, R475) -/

/-- A control of a process, by the supervisor or through DBGWIN; ignored where the debug port is closed (19_trust.md R474). -/
def State.debugEvent (s : State) (part : Nat) (pid : Pid) (v : Word) : Host.Outcome State Fault Refusal :=
  .next (if s.power = .suspended ∨ s.power = .off then s else s.debugWrite part pid v)

/-- SET_MASKS. -/
def execSetMasks (part : Nat) (pid : Pid) (wmask : BitVec 2) (bmask : BitVec 4) (s : State) :
    Host.Outcome State Fault Refusal :=
  s.debugEvent part pid (BitVec.ofNat 64 (wmask.toNat * 2 ^ 40 + bmask.toNat * 2 ^ 36))

/-- DEBUG_HALT, DEBUG_RELEASE, DEBUG_STEP. -/
def execDebugHalt (part : Nat) (pid : Pid) (s : State) : Host.Outcome State Fault Refusal :=
  s.debugEvent part pid (BitVec.ofNat 64 (2 ^ 62))
def execDebugRelease (part : Nat) (pid : Pid) (s : State) : Host.Outcome State Fault Refusal :=
  s.debugEvent part pid (BitVec.ofNat 64 (2 * 2 ^ 62))
def execDebugStep (part : Nat) (pid : Pid) (s : State) : Host.Outcome State Fault Refusal :=
  s.debugEvent part pid (BitVec.ofNat 64 (3 * 2 ^ 62))

end Sys2Proof.Machine
end

