-- ==== Sys2Proof/Machine/EvPeer.lean ====
section
/-! DEFINITION. What a peer device does to this one over Kaldar Link: accesses to its HBM (14_translation.md R374) and
messages about peer channels (18_host.md R459). -/

namespace Sys2Proof.Machine

/-- A peer's AMO at its home (11_memory.md R307): nothing where a sector it must read is lost. -/
def State.peerAmo (s : State) (pa : Nat) (op : AmoOp) (narrow : Bool) (x cmp : Word) : State :=
  let z := if narrow then 4 else 8
  let s1 := s.noteRead Via.outside pa z
  if s1.rangeBad pa z then s1
  else
    let m := 2 ^ (8 * z)
    let new := amoNew op z (ofBytes (s1.bytesAs none pa z)) (x.toNat % m) (cmp.toNat % m)
    (s1.sealFor none pa z).storeBytes 0 pa (bytesOf z new)

/-- PEER_MEMORY_ACCESS: within HBM; an access to an offline die is answered there and does nothing. -/
def tryPeerMemoryAccess (x : PeerAccess) (s : State) : Option State :=
  let range : Nat × Nat := match x with
    | .read pa n => (pa, n)
    | .write pa bytes => (pa, bytes.length)
    | .amo pa _ narrow _ _ => (pa, if narrow then 4 else 8)
  if hbmTop < range.1 + range.2 then none
  else if s.offlineAt range.1 then some s
  else match x with
    | .read pa n => some (s.noteRead Via.outside pa n)
    | .write pa bytes => some ((s.sealFor none pa bytes.length).storeBytes 0 pa bytes)
    | .amo pa op narrow v cmp => some (s.peerAmo pa op narrow v cmp)

def execPeerMemoryAccess (x : PeerAccess) (s : State) : Host.Outcome State Fault Refusal :=
  s.occur (tryPeerMemoryAccess x s)

/-- The width code of a list of pages. -/
def widthOf (pages : List Page) : Option (Fin 4) :=
  match pages.length with
  | 1 => some 0 | 2 => some 1 | 4 => some 2 | 8 => some 3
  | _ => none

/-- A remote operation as it stands at the peer's end of the cell; its registers are the other device's. -/
def PeerOp.posted : PeerOp → Option Posted
  | .send v => some (.send v)
  | .recv => some (.recv 0)
  | .sendt pages => (widthOf pages).map (fun w => .sendt w (.held pages))
  | .recvt w => some (.recvt { base := 0, w := w })
  | .xcol f x => some (.xcol f x 0)
  | .txmax ty pages => (widthOf pages).map (fun w => .txmax { base := 0, w := w } ty (.held pages))
  | .txsum ty pages => (widthOf pages).map (fun w => .txsum { base := 0, w := w } ty (.held pages))
  | .txmrg pages => (widthOf pages).map (fun w => .txmrg { base := 0, w := w } (.held pages))

/-- The local cell of a tag: its number (0 while only the peer has asked) and whether it is paired. -/
def State.tagOf (s : State) (d : Fin 4) (t : BitVec 6) : Option (Nat × Bool) :=
  (s.link.tags.find? (fun x => x.1 == d && x.2.1 == t)).map (fun x => x.2.2)

def State.setTag (s : State) (d : Fin 4) (t : BitVec 6) (x : Nat × Bool) : State :=
  { s with link := { s.link with tags := s.link.tags.filter (fun y => !(y.1 == d && y.2.1 == t)) ++ [(d, t, x.1, x.2)] } }

/-- PEER_CHANNEL_MESSAGE: the peer asks for a pair, posts at its end, or closes it. -/
def tryPeerChannelMessage (m : PeerMsg) (s : State) : Option State :=
  match m with
  | .pair d t =>
    if !s.link.up.getLsbD d.val then none
    else match s.tagOf d t with
      | none => some (s.setTag d t (0, false))
      | some (id, paired) =>
        if (s.cell? id).isNone && id != 0 then some (s.setTag d t (0, false))
        else if paired || id == 0 then none else some (s.setTag d t (id, true))
  | .post d t op =>
    match s.tagOf d t with
    | some (id, true) =>
      match s.cell? id, PeerOp.posted op with
      | some c, some o =>
        if s.link.up.getLsbD d.val && c.end1.post.isNone && !c.end1.closed then
          some ((s.updEnd id true (fun e => { e with post := some o })).settled id)
        else none
      | _, _ => none
    | _ => none
  | .close d t =>
    match s.tagOf d t with
    | some (id, true) =>
      match s.cell? id with
      | some c => if c.end1.closed then none else some (s.closeEnd id true)
      | none => none
    | _ => none

def execPeerChannelMessage (m : PeerMsg) (s : State) : Host.Outcome State Fault Refusal :=
  s.occur (tryPeerChannelMessage m s)

end Sys2Proof.Machine
end

