-- ==== Sys2Proof/Machine/EvReg.lean ====
section
/-! DEFINITION. Writes of registers that have a rule of their own, as the context that executes makes them or, for
BAR0, the host (15_traps.md R407, R408, 18_host.md R447). The write is that of the MTSR without its retirement. -/

namespace Sys2Proof.Machine

/-- A write of a system register by the context that executes. -/
def State.regWrite (s : State) (n : Nat) (v : Word) : Host.Outcome State Fault Refusal :=
  s.finish (do
    s.sysAllowed n
    return s.sysWrite n v)

/-- PTROOT_WRITE waits as an MTSR of PTROOT does (14_translation.md R376, R385). -/
def execPtrootWrite (v : Word) (s : State) : Host.Outcome State Fault Refusal :=
  if s.cur.sup && s.cur.latch.sent then .next s
  else if s.cur.sup && s.requestsOut s.cur.part s.cur.pid then .next (s.invalidate none)
  else s.regWrite 0x110 v

def execFcsrWrite (v : Word) (s : State) : Host.Outcome State Fault Refusal := s.regWrite 0x10 v
def execThrreasonWrite (v : Word) (s : State) : Host.Outcome State Fault Refusal := s.regWrite 0x130 v
def execBucketLevelWrite (bucket : Fin 3) (v : Word) (s : State) : Host.Outcome State Fault Refusal :=
  s.regWrite (0x120 + bucket.val) v
def execDqovfWrite (v : Word) (s : State) : Host.Outcome State Fault Refusal := s.regWrite 0x102 v
def execSpareaWrite (v : Word) (s : State) : Host.Outcome State Fault Refusal := s.regWrite 0x119 v
def execChareaWrite (v : Word) (s : State) : Host.Outcome State Fault Refusal := s.regWrite 0x11A v
def execImgareaWrite (v : Word) (s : State) : Host.Outcome State Fault Refusal := s.regWrite 0x11B v
def execLinkcfgWrite (v : Word) (s : State) : Host.Outcome State Fault Refusal := s.regWrite 0x160 v

/-- The host writes an aligned word of BAR0. -/
def tryBarWrite (off : Nat) (v : Word) (s : State) : Option State := if s.portOpen then some (s.writeBar off v) else none

/-- REGISTER_WRITE: any writable system register, or an aligned word of BAR0. -/
def execRegisterWrite (r : RegTarget) (v : Word) (s : State) : Host.Outcome State Fault Refusal :=
  match r with
  | .sys n =>
    if !sysWritable n.toNat then .next s
    else if n.toNat = 0x110 then execPtrootWrite v s
    else s.regWrite n.toNat v
  | .bar off => s.occur (tryBarWrite off.toNat v s)

end Sys2Proof.Machine
end

