-- ==== Sys2Proof/Machine/Fp.lean ====
section
/-! DEFINITION. Scalar floating point (06_scalar.md R180-R185). -/

namespace Sys2Proof.Machine

/-- The F32 operand in a register: bits [31:0] (R180). -/
def State.f32 (s : State) (r : SReg) : Exact := elemValue .f32 ((s.rd r).toNat % 2 ^ 32)

/-- The rounding mode in force (R167). -/
def State.rmode (s : State) : Rnd := rmodeOf s.cur.fcsr

/-- An F32 result in bits [31:0], its flags joined to FCSR (R180, R97). -/
def State.putFloat (s : State) (d : SReg) (n : Nat) (x : Exact) : State :=
  let r := roundFloat .f32 s.rmode false x
  (s.put d (BitVec.ofNat 64 r.1) n).joinF r.2

/-- A truth value with flags. -/
def State.putTest (s : State) (d : SReg) (r : Bool × Flags) : State := (s.put d (flagWord r.1) 4).joinF r.2

/-- A conversion to a 64-bit integer (R184, R92). -/
def State.putInt (s : State) (d : SReg) (lo hi : Int) (x : Exact) : State :=
  let r := toIntRange lo hi s.rmode x
  (s.put d (BitVec.ofInt 64 r.1) 4).joinF r.2

/-- FCLASS: the bit of an F32 encoding (R183). -/
def classBit (v : Nat) : Nat :=
  let neg := decide (v / 2 ^ 31 % 2 = 1)
  let ex := v / 2 ^ 23 % 256
  let m := v % 2 ^ 23
  if ex = 255 then (if m ≠ 0 then 8 else if neg then 0 else 7)
  else if ex = 0 then (if m = 0 then (if neg then 3 else 4) else if neg then 2 else 5)
  else if neg then 1 else 6

def execFadd (d a b : SReg) (s : State) : Host.Outcome State Fault Refusal :=
  .next (s.putFloat d 4 ((s.f32 a).add s.rmode (s.f32 b)))
def execFsub (d a b : SReg) (s : State) : Host.Outcome State Fault Refusal :=
  .next (s.putFloat d 4 ((s.f32 a).add s.rmode (s.f32 b).negate))
def execFmul (d a b : SReg) (s : State) : Host.Outcome State Fault Refusal :=
  .next (s.putFloat d 4 ((s.f32 a).mul (s.f32 b)))
def execFdiv (d a b : SReg) (s : State) : Host.Outcome State Fault Refusal :=
  .next (s.putFloat d 4 ((s.f32 a).div (s.f32 b)))
def execFsqrt (d a : SReg) (s : State) : Host.Outcome State Fault Refusal := .next (s.putFloat d 4 (s.f32 a).sqrt)
def execFmin (d a b : SReg) (s : State) : Host.Outcome State Fault Refusal :=
  .next (s.putFloat d 4 ((s.f32 a).min (s.f32 b)))
def execFmax (d a b : SReg) (s : State) : Host.Outcome State Fault Refusal :=
  .next (s.putFloat d 4 ((s.f32 a).max (s.f32 b)))

/-- FABS and FNEG change bit [31] alone (R182). -/
def execFabs (d a : SReg) (s : State) : Host.Outcome State Fault Refusal := .next (s.put d (s.rd a &&& 0x7FFFFFFF) 4)
def execFneg (d a : SReg) (s : State) : Host.Outcome State Fault Refusal :=
  .next (s.put d ((s.rd a &&& 0xFFFFFFFF) ^^^ 0x80000000) 4)

def execFeq (d a b : SReg) (s : State) : Host.Outcome State Fault Refusal :=
  .next (s.putTest d (compareVals .eq (s.f32 a) (s.f32 b)))
def execFlt (d a b : SReg) (s : State) : Host.Outcome State Fault Refusal :=
  .next (s.putTest d (compareVals .lt (s.f32 a) (s.f32 b)))
def execFle (d a b : SReg) (s : State) : Host.Outcome State Fault Refusal :=
  .next (s.putTest d (compareVals .le (s.f32 a) (s.f32 b)))
def execFclass (d a : SReg) (s : State) : Host.Outcome State Fault Refusal :=
  .next (s.put d (BitVec.ofNat 64 (2 ^ classBit ((s.rd a).toNat % 2 ^ 32))) 4)

/-- Conversions from and to 64-bit integers (R184). -/
def execFcvtif (d a : SReg) (s : State) : Host.Outcome State Fault Refusal :=
  .next (s.putFloat d 4 (Exact.int (s.rd a).toInt))
def execFcvtnf (d a : SReg) (s : State) : Host.Outcome State Fault Refusal :=
  .next (s.putFloat d 4 (Exact.int (s.rd a).toNat))
def execFcvtfi (d a : SReg) (s : State) : Host.Outcome State Fault Refusal :=
  .next (s.putInt d (-9223372036854775808) 9223372036854775807 (s.f32 a))
def execFcvtfn (d a : SReg) (s : State) : Host.Outcome State Fault Refusal :=
  .next (s.putInt d 0 18446744073709551615 (s.f32 a))

/-- The FMA family: the product exact, one rounding (R185). -/
def execFma (d a b c : SReg) (s : State) : Host.Outcome State Fault Refusal :=
  .next (s.putFloat d 8 (((s.f32 a).mul (s.f32 b)).add s.rmode (s.f32 c)))
def execFms (d a b c : SReg) (s : State) : Host.Outcome State Fault Refusal :=
  .next (s.putFloat d 8 (((s.f32 a).mul (s.f32 b)).add s.rmode (s.f32 c).negate))
def execFnma (d a b c : SReg) (s : State) : Host.Outcome State Fault Refusal :=
  .next (s.putFloat d 8 ((s.f32 c).add s.rmode ((s.f32 a).mul (s.f32 b)).negate))

end Sys2Proof.Machine
end

