-- ==== Sys2Proof/Machine/TileChan.lean ====
section
/-! DEFINITION. The tile channel instructions (12_channels.md R329, R332, R351, R352): SENDT sends what its group maps at
posting; the exchanges take POISON for a poisoned page of their own. -/

namespace Sys2Proof.Machine

/-- Check an end, the poison of a group, reach the cell, post. -/
def State.exchangeAt (s : State) (x : EReg) (a : TGrp) (op : Src → Posted) : Host.Outcome State Fault Refusal :=
  let s0 := s.release
  s0.finish (do
    let (e, c) ← s0.checkE x chanKinds
    let _ ← s0.readGroup a
    s0.reach e c
    return s0.postNow e c (op (.regs a)))

def execSendt (b : EReg) (c : TGrp) (s : State) : Host.Outcome State Fault Refusal :=
  s.postAt b chanKinds (.sendt c.w (.regs c))
def execRecvt (d : TGrp) (b : EReg) (s : State) : Host.Outcome State Fault Refusal := s.postAt b chanKinds (.recvt d)
def execTxmax (d a : TGrp) (b : EReg) (ti : Ty) (s : State) : Host.Outcome State Fault Refusal :=
  s.exchangeAt b a (.txmax d ti)
def execTxsum (d a : TGrp) (b : EReg) (ti : Ty) (s : State) : Host.Outcome State Fault Refusal :=
  s.exchangeAt b a (.txsum d ti)
def execTxmrg (d a : TGrp) (b : EReg) (s : State) : Host.Outcome State Fault Refusal := s.exchangeAt b a (.txmrg d)

end Sys2Proof.Machine
end

