-- ==== Sys2Proof/Machine/Dispatch.lean ====
section
/-! DEFINITION. exec: one arm per constructor of Instr. -/

namespace Sys2Proof.Machine

open Sys2Proof

def exec (i : Instr) (s : State) : Host.Outcome State Fault Refusal :=
  match i with
  | .add x0 x1 x2 => Sys2Proof.Machine.execAdd x0 x1 x2 s
  | .sub x0 x1 x2 => Sys2Proof.Machine.execSub x0 x1 x2 s
  | .mul x0 x1 x2 => Sys2Proof.Machine.execMul x0 x1 x2 s
  | .mulh x0 x1 x2 => Sys2Proof.Machine.execMulh x0 x1 x2 s
  | .mulhn x0 x1 x2 => Sys2Proof.Machine.execMulhn x0 x1 x2 s
  | .div x0 x1 x2 => Sys2Proof.Machine.execDiv x0 x1 x2 s
  | .divn x0 x1 x2 => Sys2Proof.Machine.execDivn x0 x1 x2 s
  | .rem x0 x1 x2 => Sys2Proof.Machine.execRem x0 x1 x2 s
  | .remn x0 x1 x2 => Sys2Proof.Machine.execRemn x0 x1 x2 s
  | .and x0 x1 x2 => Sys2Proof.Machine.execAnd x0 x1 x2 s
  | .or x0 x1 x2 => Sys2Proof.Machine.execOr x0 x1 x2 s
  | .xor x0 x1 x2 => Sys2Proof.Machine.execXor x0 x1 x2 s
  | .andn x0 x1 x2 => Sys2Proof.Machine.execAndn x0 x1 x2 s
  | .orn x0 x1 x2 => Sys2Proof.Machine.execOrn x0 x1 x2 s
  | .xnor x0 x1 x2 => Sys2Proof.Machine.execXnor x0 x1 x2 s
  | .shl x0 x1 x2 => Sys2Proof.Machine.execShl x0 x1 x2 s
  | .shr x0 x1 x2 => Sys2Proof.Machine.execShr x0 x1 x2 s
  | .sra x0 x1 x2 => Sys2Proof.Machine.execSra x0 x1 x2 s
  | .rol x0 x1 x2 => Sys2Proof.Machine.execRol x0 x1 x2 s
  | .ror x0 x1 x2 => Sys2Proof.Machine.execRor x0 x1 x2 s
  | .min x0 x1 x2 => Sys2Proof.Machine.execMin x0 x1 x2 s
  | .max x0 x1 x2 => Sys2Proof.Machine.execMax x0 x1 x2 s
  | .minn x0 x1 x2 => Sys2Proof.Machine.execMinn x0 x1 x2 s
  | .maxn x0 x1 x2 => Sys2Proof.Machine.execMaxn x0 x1 x2 s
  | .slt x0 x1 x2 => Sys2Proof.Machine.execSlt x0 x1 x2 s
  | .sltn x0 x1 x2 => Sys2Proof.Machine.execSltn x0 x1 x2 s
  | .seq x0 x1 x2 => Sys2Proof.Machine.execSeq x0 x1 x2 s
  | .sne x0 x1 x2 => Sys2Proof.Machine.execSne x0 x1 x2 s
  | .clz x0 x1 => Sys2Proof.Machine.execClz x0 x1 s
  | .ctz x0 x1 => Sys2Proof.Machine.execCtz x0 x1 s
  | .popc x0 x1 => Sys2Proof.Machine.execPopc x0 x1 s
  | .brev x0 x1 => Sys2Proof.Machine.execBrev x0 x1 s
  | .sextb x0 x1 => Sys2Proof.Machine.execSextb x0 x1 s
  | .sexth x0 x1 => Sys2Proof.Machine.execSexth x0 x1 s
  | .sextw x0 x1 => Sys2Proof.Machine.execSextw x0 x1 s
  | .zextb x0 x1 => Sys2Proof.Machine.execZextb x0 x1 s
  | .zexth x0 x1 => Sys2Proof.Machine.execZexth x0 x1 s
  | .zextw x0 x1 => Sys2Proof.Machine.execZextw x0 x1 s
  | .addi x0 x1 x2 => Sys2Proof.Machine.execAddi x0 x1 x2 s
  | .andi x0 x1 x2 => Sys2Proof.Machine.execAndi x0 x1 x2 s
  | .ori x0 x1 x2 => Sys2Proof.Machine.execOri x0 x1 x2 s
  | .xori x0 x1 x2 => Sys2Proof.Machine.execXori x0 x1 x2 s
  | .slti x0 x1 x2 => Sys2Proof.Machine.execSlti x0 x1 x2 s
  | .sltni x0 x1 x2 => Sys2Proof.Machine.execSltni x0 x1 x2 s
  | .muli x0 x1 x2 => Sys2Proof.Machine.execMuli x0 x1 x2 s
  | .shli x0 x1 x2 => Sys2Proof.Machine.execShli x0 x1 x2 s
  | .shri x0 x1 x2 => Sys2Proof.Machine.execShri x0 x1 x2 s
  | .srai x0 x1 x2 => Sys2Proof.Machine.execSrai x0 x1 x2 s
  | .rori x0 x1 x2 => Sys2Proof.Machine.execRori x0 x1 x2 s
  | .lih x0 x1 => Sys2Proof.Machine.execLih x0 x1 s
  | .pcadd x0 x1 => Sys2Proof.Machine.execPcadd x0 x1 s
  | .ld x0 x1 x2 x3 => Sys2Proof.Machine.execLd x0 x1 x2 x3 s
  | .st x0 x1 x2 x3 => Sys2Proof.Machine.execSt x0 x1 x2 x3 s
  | .pld x0 x1 x2 x3 => Sys2Proof.Machine.execPld x0 x1 x2 x3 s
  | .pst x0 x1 x2 x3 => Sys2Proof.Machine.execPst x0 x1 x2 x3 s
  | .beq x0 x1 x2 => Sys2Proof.Machine.execBeq x0 x1 x2 s
  | .bne x0 x1 x2 => Sys2Proof.Machine.execBne x0 x1 x2 s
  | .blt x0 x1 x2 => Sys2Proof.Machine.execBlt x0 x1 x2 s
  | .bge x0 x1 x2 => Sys2Proof.Machine.execBge x0 x1 x2 s
  | .bltn x0 x1 x2 => Sys2Proof.Machine.execBltn x0 x1 x2 s
  | .bgen x0 x1 x2 => Sys2Proof.Machine.execBgen x0 x1 x2 s
  | .jal x0 x1 => Sys2Proof.Machine.execJal x0 x1 s
  | .jalr x0 x1 x2 => Sys2Proof.Machine.execJalr x0 x1 x2 s
  | .loop x0 x1 => Sys2Proof.Machine.execLoop x0 x1 s
  | .fadd x0 x1 x2 => Sys2Proof.Machine.execFadd x0 x1 x2 s
  | .fsub x0 x1 x2 => Sys2Proof.Machine.execFsub x0 x1 x2 s
  | .fmul x0 x1 x2 => Sys2Proof.Machine.execFmul x0 x1 x2 s
  | .fdiv x0 x1 x2 => Sys2Proof.Machine.execFdiv x0 x1 x2 s
  | .fsqrt x0 x1 => Sys2Proof.Machine.execFsqrt x0 x1 s
  | .fmin x0 x1 x2 => Sys2Proof.Machine.execFmin x0 x1 x2 s
  | .fmax x0 x1 x2 => Sys2Proof.Machine.execFmax x0 x1 x2 s
  | .fabs x0 x1 => Sys2Proof.Machine.execFabs x0 x1 s
  | .fneg x0 x1 => Sys2Proof.Machine.execFneg x0 x1 s
  | .feq x0 x1 x2 => Sys2Proof.Machine.execFeq x0 x1 x2 s
  | .flt x0 x1 x2 => Sys2Proof.Machine.execFlt x0 x1 x2 s
  | .fle x0 x1 x2 => Sys2Proof.Machine.execFle x0 x1 x2 s
  | .fclass x0 x1 => Sys2Proof.Machine.execFclass x0 x1 s
  | .fcvtif x0 x1 => Sys2Proof.Machine.execFcvtif x0 x1 s
  | .fcvtnf x0 x1 => Sys2Proof.Machine.execFcvtnf x0 x1 s
  | .fcvtfi x0 x1 => Sys2Proof.Machine.execFcvtfi x0 x1 s
  | .fcvtfn x0 x1 => Sys2Proof.Machine.execFcvtfn x0 x1 s
  | .aadd x0 x1 x2 x3 x4 => Sys2Proof.Machine.execAadd x0 x1 x2 x3 x4 s
  | .aand x0 x1 x2 x3 x4 => Sys2Proof.Machine.execAand x0 x1 x2 x3 x4 s
  | .aor x0 x1 x2 x3 x4 => Sys2Proof.Machine.execAor x0 x1 x2 x3 x4 s
  | .axor x0 x1 x2 x3 x4 => Sys2Proof.Machine.execAxor x0 x1 x2 x3 x4 s
  | .amin x0 x1 x2 x3 x4 => Sys2Proof.Machine.execAmin x0 x1 x2 x3 x4 s
  | .amax x0 x1 x2 x3 x4 => Sys2Proof.Machine.execAmax x0 x1 x2 x3 x4 s
  | .aminn x0 x1 x2 x3 x4 => Sys2Proof.Machine.execAminn x0 x1 x2 x3 x4 s
  | .amaxn x0 x1 x2 x3 x4 => Sys2Proof.Machine.execAmaxn x0 x1 x2 x3 x4 s
  | .aswp x0 x1 x2 x3 x4 => Sys2Proof.Machine.execAswp x0 x1 x2 x3 x4 s
  | .acas x0 x1 x2 x3 x4 => Sys2Proof.Machine.execAcas x0 x1 x2 x3 x4 s
  | .albGated x0 x1 x2 => Sys2Proof.Machine.execAlbGated x0 x1 x2 s
  | .alb x0 => Sys2Proof.Machine.execAlb x0 s
  | .ale x0 => Sys2Proof.Machine.execAle x0 s
  | .fence x0 x1 x2 => Sys2Proof.Machine.execFence x0 x1 x2 s
  | .chnew x0 x1 => Sys2Proof.Machine.execChnew x0 x1 s
  | .chclose x0 => Sys2Proof.Machine.execChclose x0 s
  | .emov x0 x1 => Sys2Proof.Machine.execEmov x0 x1 s
  | .einfo x0 x1 => Sys2Proof.Machine.execEinfo x0 x1 s
  | .brnew x0 x1 => Sys2Proof.Machine.execBrnew x0 x1 s
  | .brep x0 x1 => Sys2Proof.Machine.execBrep x0 x1 s
  | .arrive x0 => Sys2Proof.Machine.execArrive x0 s
  | .await x0 => Sys2Proof.Machine.execAwait x0 s
  | .bsync x0 => Sys2Proof.Machine.execBsync x0 s
  | .sende x0 x1 => Sys2Proof.Machine.execSende x0 x1 s
  | .recve x0 x1 => Sys2Proof.Machine.execRecve x0 x1 s
  | .send x0 x1 => Sys2Proof.Machine.execSend x0 x1 s
  | .recv x0 x1 => Sys2Proof.Machine.execRecv x0 x1 s
  | .xmaxf x0 x1 x2 => Sys2Proof.Machine.execXmaxf x0 x1 x2 s
  | .xminf x0 x1 x2 => Sys2Proof.Machine.execXminf x0 x1 x2 s
  | .xsumf x0 x1 x2 => Sys2Proof.Machine.execXsumf x0 x1 x2 s
  | .xsumi x0 x1 x2 => Sys2Proof.Machine.execXsumi x0 x1 x2 s
  | .xmaxi x0 x1 x2 => Sys2Proof.Machine.execXmaxi x0 x1 x2 s
  | .xswp x0 x1 x2 => Sys2Proof.Machine.execXswp x0 x1 x2 s
  | .exit x0 => Sys2Proof.Machine.execExit x0 s
  | .yield => Sys2Proof.Machine.execYield s
  | .pid x0 => Sys2Proof.Machine.execPid x0 s
  | .lcore x0 => Sys2Proof.Machine.execLcore x0 s
  | .sprio x0 => Sys2Proof.Machine.execSprio x0 s
  | .gprio x0 => Sys2Proof.Machine.execGprio x0 s
  | .cycle x0 => Sys2Proof.Machine.execCycle x0 s
  | .part x0 => Sys2Proof.Machine.execPart x0 s
  | .spawn x0 x1 x2 x3 x4 => Sys2Proof.Machine.execSpawn x0 x1 x2 x3 x4 s
  | .gset x0 x1 x2 => Sys2Proof.Machine.execGset x0 x1 x2 s
  | .nop => Sys2Proof.Machine.execNop s
  | .halt => Sys2Proof.Machine.execHalt s
  | .brk => Sys2Proof.Machine.execBrk s
  | .park x0 => Sys2Proof.Machine.execPark x0 s
  | .resume x0 => Sys2Proof.Machine.execResume x0 s
  | .migr x0 x1 => Sys2Proof.Machine.execMigr x0 x1 s
  | .kill x0 => Sys2Proof.Machine.execKill x0 s
  | .sttw x0 x1 => Sys2Proof.Machine.execSttw x0 x1 s
  | .stti x0 => Sys2Proof.Machine.execStti x0 s
  | .tlbi x0 x1 => Sys2Proof.Machine.execTlbi x0 x1 s
  | .tlbia => Sys2Proof.Machine.execTlbia s
  | .mfsr x0 x1 => Sys2Proof.Machine.execMfsr x0 x1 s
  | .mtsr x0 x1 => Sys2Proof.Machine.execMtsr x0 x1 s
  | .trap x0 => Sys2Proof.Machine.execTrap x0 s
  | .li x0 x1 => Sys2Proof.Machine.execLi x0 x1 s
  | .lihL x0 x1 => Sys2Proof.Machine.execLihL x0 x1 s
  | .addl x0 x1 x2 => Sys2Proof.Machine.execAddl x0 x1 x2 s
  | .bmap x0 x1 x2 x3 x4 => Sys2Proof.Machine.execBmap x0 x1 x2 x3 x4 s
  | .fshl x0 x1 x2 x3 => Sys2Proof.Machine.execFshl x0 x1 x2 x3 s
  | .fshr x0 x1 x2 x3 => Sys2Proof.Machine.execFshr x0 x1 x2 x3 s
  | .fma x0 x1 x2 x3 => Sys2Proof.Machine.execFma x0 x1 x2 x3 s
  | .fms x0 x1 x2 x3 => Sys2Proof.Machine.execFms x0 x1 x2 x3 s
  | .fnma x0 x1 x2 x3 => Sys2Proof.Machine.execFnma x0 x1 x2 x3 s
  | .csel x0 x1 x2 x3 => Sys2Proof.Machine.execCsel x0 x1 x2 x3 s
  | .bfx x0 x1 x2 x3 => Sys2Proof.Machine.execBfx x0 x1 x2 x3 s
  | .bfi x0 x1 x2 x3 => Sys2Proof.Machine.execBfi x0 x1 x2 x3 s
  | .alt x0 x1 x2 x3 x4 x5 x6 => Sys2Proof.Machine.execAlt x0 x1 x2 x3 x4 x5 x6 s
  | .sendt x0 x1 => Sys2Proof.Machine.execSendt x0 x1 s
  | .recvt x0 x1 => Sys2Proof.Machine.execRecvt x0 x1 s
  | .txmax x0 x1 x2 x3 => Sys2Proof.Machine.execTxmax x0 x1 x2 x3 s
  | .txsum x0 x1 x2 x3 => Sys2Proof.Machine.execTxsum x0 x1 x2 x3 s
  | .txmrg x0 x1 x2 => Sys2Proof.Machine.execTxmrg x0 x1 x2 s
  | .tld x0 x1 x2 x3 => Sys2Proof.Machine.execTld x0 x1 x2 x3 s
  | .tst x0 x1 x2 x3 => Sys2Proof.Machine.execTst x0 x1 x2 x3 s
  | .tldx x0 x1 x2 x3 x4 => Sys2Proof.Machine.execTldx x0 x1 x2 x3 x4 s
  | .tstx x0 x1 x2 x3 x4 => Sys2Proof.Machine.execTstx x0 x1 x2 x3 x4 s
  | .tpf x0 x1 x2 => Sys2Proof.Machine.execTpf x0 x1 x2 s
  | .tred x0 x1 x2 x3 x4 => Sys2Proof.Machine.execTred x0 x1 x2 x3 x4 s
  | .spld x0 x1 => Sys2Proof.Machine.execSpld x0 x1 s
  | .spst x0 x1 => Sys2Proof.Machine.execSpst x0 x1 s
  | .tmov x0 x1 => Sys2Proof.Machine.execTmov x0 x1 s
  | .tzero x0 => Sys2Proof.Machine.execTzero x0 s
  | .tfill x0 x1 x2 => Sys2Proof.Machine.execTfill x0 x1 x2 s
  | .tget x0 x1 x2 x3 x4 => Sys2Proof.Machine.execTget x0 x1 x2 x3 x4 s
  | .tins x0 x1 x2 x3 x4 => Sys2Proof.Machine.execTins x0 x1 x2 x3 x4 s
  | .tiota x0 x1 x2 => Sys2Proof.Machine.execTiota x0 x1 x2 s
  | .mma x0 => Sys2Proof.Machine.execMma x0 s
  | .mmz x0 => Sys2Proof.Machine.execMmz x0 s
  | .mmas x0 => Sys2Proof.Machine.execMmas x0 s
  | .mmzs x0 => Sys2Proof.Machine.execMmzs x0 s
  | .vadd x0 => Sys2Proof.Machine.execVadd x0 s
  | .vsub x0 => Sys2Proof.Machine.execVsub x0 s
  | .vmul x0 => Sys2Proof.Machine.execVmul x0 s
  | .vfma x0 => Sys2Proof.Machine.execVfma x0 s
  | .vfms x0 => Sys2Proof.Machine.execVfms x0 s
  | .vmin x0 => Sys2Proof.Machine.execVmin x0 s
  | .vmax x0 => Sys2Proof.Machine.execVmax x0 s
  | .vdiv x0 => Sys2Proof.Machine.execVdiv x0 s
  | .vadds x0 => Sys2Proof.Machine.execVadds x0 s
  | .vmuls x0 => Sys2Proof.Machine.execVmuls x0 s
  | .vfmas x0 => Sys2Proof.Machine.execVfmas x0 s
  | .vcmp x0 x1 x2 x3 x4 => Sys2Proof.Machine.execVcmp x0 x1 x2 x3 x4 s
  | .vsel x0 x1 x2 x3 x4 => Sys2Proof.Machine.execVsel x0 x1 x2 x3 x4 s
  | .vclmp x0 => Sys2Proof.Machine.execVclmp x0 s
  | .vabs x0 => Sys2Proof.Machine.execVabs x0 s
  | .vneg x0 => Sys2Proof.Machine.execVneg x0 s
  | .vexp2 x0 => Sys2Proof.Machine.execVexp2 x0 s
  | .vlog2 x0 => Sys2Proof.Machine.execVlog2 x0 s
  | .vrcp x0 => Sys2Proof.Machine.execVrcp x0 s
  | .vrsq x0 => Sys2Proof.Machine.execVrsq x0 s
  | .vsqrt x0 => Sys2Proof.Machine.execVsqrt x0 s
  | .vtanh x0 => Sys2Proof.Machine.execVtanh x0 s
  | .vsigm x0 => Sys2Proof.Machine.execVsigm x0 s
  | .verf x0 => Sys2Proof.Machine.execVerf x0 s
  | .vcvt x0 => Sys2Proof.Machine.execVcvt x0 s
  | .vqnt x0 x1 => Sys2Proof.Machine.execVqnt x0 x1 s
  | .vdqn x0 => Sys2Proof.Machine.execVdqn x0 s
  | .vrmax x0 => Sys2Proof.Machine.execVrmax x0 s
  | .vrmin x0 => Sys2Proof.Machine.execVrmin x0 s
  | .vrsum x0 => Sys2Proof.Machine.execVrsum x0 s
  | .vramax x0 => Sys2Proof.Machine.execVramax x0 s
  | .vrssq x0 => Sys2Proof.Machine.execVrssq x0 s
  | .vcmax x0 => Sys2Proof.Machine.execVcmax x0 s
  | .vcsum x0 => Sys2Proof.Machine.execVcsum x0 s
  | .vrmrg x0 x1 x2 => Sys2Proof.Machine.execVrmrg x0 x1 x2 s
  | .vbrow x0 => Sys2Proof.Machine.execVbrow x0 s
  | .vbcol x0 => Sys2Proof.Machine.execVbcol x0 s
  | .vtrn x0 x1 x2 => Sys2Proof.Machine.execVtrn x0 x1 x2 s
  | .vrotr x0 x1 x2 => Sys2Proof.Machine.execVrotr x0 x1 x2 s
  | .vrotc x0 x1 x2 x3 => Sys2Proof.Machine.execVrotc x0 x1 x2 x3 s
  | .vpermr x0 x1 x2 => Sys2Proof.Machine.execVpermr x0 x1 x2 s
  | .vbrot x0 x1 x2 => Sys2Proof.Machine.execVbrot x0 x1 x2 s
  | .vand x0 x1 x2 => Sys2Proof.Machine.execVand x0 x1 x2 s
  | .vor x0 x1 x2 => Sys2Proof.Machine.execVor x0 x1 x2 s
  | .vxor x0 x1 x2 => Sys2Proof.Machine.execVxor x0 x1 x2 s
  | .vnot x0 x1 => Sys2Proof.Machine.execVnot x0 x1 s
  | .vbmap x0 x1 x2 x3 x4 => Sys2Proof.Machine.execVbmap x0 x1 x2 x3 x4 s
  | .vshl x0 x1 x2 x3 => Sys2Proof.Machine.execVshl x0 x1 x2 x3 s
  | .vshr x0 x1 x2 x3 => Sys2Proof.Machine.execVshr x0 x1 x2 x3 s
  | .vsra x0 x1 x2 x3 => Sys2Proof.Machine.execVsra x0 x1 x2 x3 s
  | .vfshl x0 x1 x2 x3 => Sys2Proof.Machine.execVfshl x0 x1 x2 x3 s
  | .vfshr x0 x1 x2 x3 => Sys2Proof.Machine.execVfshr x0 x1 x2 x3 s
  | .vpopc x0 x1 x2 x3 => Sys2Proof.Machine.execVpopc x0 x1 x2 x3 s
  | .tileDispatch x0 x1 => Sys2Proof.Machine.execTileDispatch x0 x1 s
  | .engineCompletion x0 x1 => Sys2Proof.Machine.execEngineCompletion x0 x1 s
  | .storePerform x0 x1 => Sys2Proof.Machine.execStorePerform x0 x1 s
  | .atomicAtHome x0 x1 => Sys2Proof.Machine.execAtomicAtHome x0 x1 s
  | .atomicReply x0 => Sys2Proof.Machine.execAtomicReply x0 s
  | .atomicStop x0 => Sys2Proof.Machine.execAtomicStop x0 s
  | .walkComplete x0 => Sys2Proof.Machine.execWalkComplete x0 s
  | .rendezvous x0 => Sys2Proof.Machine.execRendezvous x0 s
  | .claim x0 => Sys2Proof.Machine.execClaim x0 s
  | .timerExpiry x0 x1 => Sys2Proof.Machine.execTimerExpiry x0 x1 s
  | .timerArm x0 => Sys2Proof.Machine.execTimerArm x0 s
  | .timerDisarm x0 => Sys2Proof.Machine.execTimerDisarm x0 s
  | .detectionLaunch x0 => Sys2Proof.Machine.execDetectionLaunch x0 s
  | .probe x0 x1 => Sys2Proof.Machine.execProbe x0 x1 s
  | .probeAnswer x0 x1 => Sys2Proof.Machine.execProbeAnswer x0 x1 s
  | .starvationPromotion x0 => Sys2Proof.Machine.execStarvationPromotion x0 s
  | .slotFill x0 x1 => Sys2Proof.Machine.execSlotFill x0 x1 s
  | .stealRequest x0 => Sys2Proof.Machine.execStealRequest x0 s
  | .stealAnswer x0 => Sys2Proof.Machine.execStealAnswer x0 s
  | .stealRetry x0 => Sys2Proof.Machine.execStealRetry x0 s
  | .preemption x0 => Sys2Proof.Machine.execPreemption x0 s
  | .blockedPark x0 x1 => Sys2Proof.Machine.execBlockedPark x0 x1 s
  | .imageComplete x0 => Sys2Proof.Machine.execImageComplete x0 s
  | .exitCompletion x0 => Sys2Proof.Machine.execExitCompletion x0 s
  | .moveComplete x0 => Sys2Proof.Machine.execMoveComplete x0 s
  | .moveAbandon x0 x1 => Sys2Proof.Machine.execMoveAbandon x0 x1 s
  | .affinityMove x0 => Sys2Proof.Machine.execAffinityMove x0 s
  | .evaluation x0 x1 => Sys2Proof.Machine.execEvaluation x0 x1 s
  | .pauseEnd x0 => Sys2Proof.Machine.execPauseEnd x0 s
  | .pointWithdrawal x0 x1 => Sys2Proof.Machine.execPointWithdrawal x0 x1 s
  | .refillStep => Sys2Proof.Machine.execRefillStep s
  | .bucketEmpty x0 => Sys2Proof.Machine.execBucketEmpty x0 s
  | .pageInComplete x0 x1 => Sys2Proof.Machine.execPageInComplete x0 x1 s
  | .eviction x0 => Sys2Proof.Machine.execEviction x0 s
  | .laneSleep x0 => Sys2Proof.Machine.execLaneSleep x0 s
  | .laneWake x0 => Sys2Proof.Machine.execLaneWake x0 s
  | .moduleFailure x0 => Sys2Proof.Machine.execModuleFailure x0 s
  | .offlineAnswer x0 => Sys2Proof.Machine.execOfflineAnswer x0 s
  | .dieDownComplete x0 => Sys2Proof.Machine.execDieDownComplete x0 s
  | .dieUpComplete x0 => Sys2Proof.Machine.execDieUpComplete x0 s
  | .linkPortFailure x0 => Sys2Proof.Machine.execLinkPortFailure x0 s
  | .powerOn => Sys2Proof.Machine.execPowerOn s
  | .bootwinTrigger => Sys2Proof.Machine.execBootwinTrigger s
  | .bundleVerified => Sys2Proof.Machine.execBundleVerified s
  | .idleEntry => Sys2Proof.Machine.execIdleEntry s
  | .idleExit => Sys2Proof.Machine.execIdleExit s
  | .suspend => Sys2Proof.Machine.execSuspend s
  | .d0Resume => Sys2Proof.Machine.execD0Resume s
  | .cmdstatRead => Sys2Proof.Machine.execCmdstatRead s
  | .create x0 => Sys2Proof.Machine.execCreate x0 s
  | .grant x0 => Sys2Proof.Machine.execGrant x0 s
  | .destroy x0 => Sys2Proof.Machine.execDestroy x0 s
  | .copy x0 => Sys2Proof.Machine.execCopy x0 s
  | .spawnCommand x0 => Sys2Proof.Machine.execSpawnCommand x0 s
  | .hsend x0 => Sys2Proof.Machine.execHsend x0 s
  | .hrecv x0 => Sys2Proof.Machine.execHrecv x0 s
  | .hclose x0 => Sys2Proof.Machine.execHclose x0 s
  | .exportCmd x0 => Sys2Proof.Machine.execExportCmd x0 s
  | .importCmd x0 => Sys2Proof.Machine.execImportCmd x0 s
  | .release x0 => Sys2Proof.Machine.execRelease x0 s
  | .diedown x0 => Sys2Proof.Machine.execDiedown x0 s
  | .dieup x0 => Sys2Proof.Machine.execDieup x0 s
  | .event x0 => Sys2Proof.Machine.execEvent x0 s
  | .faultend x0 => Sys2Proof.Machine.execFaultend x0 s
  | .faultEndPlacement x0 => Sys2Proof.Machine.execFaultEndPlacement x0 s
  | .setMasks x0 x1 x2 x3 => Sys2Proof.Machine.execSetMasks x0 x1 x2 x3 s
  | .debugHalt x0 x1 => Sys2Proof.Machine.execDebugHalt x0 x1 s
  | .debugRelease x0 x1 => Sys2Proof.Machine.execDebugRelease x0 x1 s
  | .debugStep x0 x1 => Sys2Proof.Machine.execDebugStep x0 x1 s
  | .ptrootWrite x0 => Sys2Proof.Machine.execPtrootWrite x0 s
  | .fcsrWrite x0 => Sys2Proof.Machine.execFcsrWrite x0 s
  | .thrreasonWrite x0 => Sys2Proof.Machine.execThrreasonWrite x0 s
  | .bucketLevelWrite x0 x1 => Sys2Proof.Machine.execBucketLevelWrite x0 x1 s
  | .dqovfWrite x0 => Sys2Proof.Machine.execDqovfWrite x0 s
  | .spareaWrite x0 => Sys2Proof.Machine.execSpareaWrite x0 s
  | .chareaWrite x0 => Sys2Proof.Machine.execChareaWrite x0 s
  | .imgareaWrite x0 => Sys2Proof.Machine.execImgareaWrite x0 s
  | .linkcfgWrite x0 => Sys2Proof.Machine.execLinkcfgWrite x0 s
  | .registerWrite x0 x1 => Sys2Proof.Machine.execRegisterWrite x0 x1 s
  | .illegalEncoding x0 x1 => Sys2Proof.Machine.execIllegalEncoding x0 x1 s
  | .instructionFetchFault x0 x1 x2 => Sys2Proof.Machine.execInstructionFetchFault x0 x1 x2 s
  | .linkUp x0 => Sys2Proof.Machine.execLinkUp x0 s
  | .peerMemoryAccess x0 => Sys2Proof.Machine.execPeerMemoryAccess x0 s
  | .peerChannelMessage x0 => Sys2Proof.Machine.execPeerChannelMessage x0 s
  | .powerRemoved => Sys2Proof.Machine.execPowerRemoved s
  | .doorbellWhileBusy => Sys2Proof.Machine.execDoorbellWhileBusy s
  | .busMasteringChange x0 => Sys2Proof.Machine.execBusMasteringChange x0 s

end Sys2Proof.Machine
end

