-- ==== Sys2Proof/Machine/Actions.lean ====
section
/-! DEFINITION. What can happen next and what one happening does: the events of the device that are enabled, a context
that issues, what the outside brings about, and the time that passes (00_scope.md R8, log 5, log 6). -/

namespace Sys2Proof.Machine

/-- An outcome's next state changed. -/
def onNext (o : Host.Outcome State Fault Refusal) (f : State → State) : Host.Outcome State Fault Refusal :=
  match o with
  | .next t => .next (f t)
  | .fault r => .fault r
  | .refused r => .refused r

/-- What an event of the device does: the meaning of the constructor of Instr of its name. -/
def Happening.run (e : Happening) (s : State) : Host.Outcome State Fault Refusal :=
  match e with
  | .tileDispatch core pid => execTileDispatch core pid s
  | .engineCompletion core pid => execEngineCompletion core pid s
  | .storePerform pid n => execStorePerform pid n s
  | .atomicAtHome pid row => execAtomicAtHome pid row s
  | .atomicReply pid => execAtomicReply pid s
  | .atomicStop pid => execAtomicStop pid s
  | .walkComplete quad => execWalkComplete quad s
  | .rendezvous cell => execRendezvous cell s
  | .claim cell => execClaim cell s
  | .timerExpiry part timer => execTimerExpiry part timer s
  | .detectionLaunch pid => execDetectionLaunch pid s
  | .probe init pid => execProbe init pid s
  | .probeAnswer init pid => execProbeAnswer init pid s
  | .starvationPromotion core => execStarvationPromotion core s
  | .slotFill core slot => execSlotFill core slot s
  | .stealRequest victim => execStealRequest victim s
  | .stealAnswer core => execStealAnswer core s
  | .stealRetry core => execStealRetry core s
  | .preemption core => execPreemption core s
  | .blockedPark core slot => execBlockedPark core slot s
  | .imageComplete pid => execImageComplete pid s
  | .exitCompletion pid => execExitCompletion pid s
  | .moveComplete pid => execMoveComplete pid s
  | .affinityMove pid => execAffinityMove pid s
  | .pauseEnd core => execPauseEnd core s
  | .evaluation => onNext (execEvaluation s.sensed (Config.sensedPower s.draws) s) State.drew
  | .refillStep => execRefillStep s
  | .bucketEmpty part => execBucketEmpty part s
  | .pageInComplete pid page => execPageInComplete pid page s
  | .eviction core => execEviction core s
  | .offlineAnswer pid => execOfflineAnswer pid s
  | .dieDownComplete die => execDieDownComplete die s
  | .dieUpComplete die => execDieUpComplete die s
  | .bundleVerified => execBundleVerified s
  | .idleEntry => execIdleEntry s
  | .idleExit => execIdleExit s
  | .faultEndPlacement part => execFaultEndPlacement part s

/-- What an event of the device does in a state in which it occurs; none in any other. -/
def Happening.occurs (e : Happening) (s : State) : Option State :=
  match e with
  | .tileDispatch core pid => tryTileDispatch core pid s
  | .engineCompletion core pid => tryEngineCompletion core pid s
  | .storePerform pid n => tryStorePerform pid n s
  | .atomicAtHome pid row => tryAtomicAtHome pid row s
  | .atomicReply pid => tryAtomicReply pid s
  | .atomicStop pid => tryAtomicStop pid s
  | .walkComplete quad => tryWalkComplete quad s
  | .rendezvous cell => tryRendezvous cell s
  | .claim cell => tryClaim cell s
  | .timerExpiry part timer => tryTimerExpiry part timer s
  | .detectionLaunch pid => tryDetectionLaunch pid s
  | .probe init pid => tryProbe init pid s
  | .probeAnswer init pid => tryProbeAnswer init pid s
  | .starvationPromotion core => tryStarvationPromotion core s
  | .slotFill core slot => trySlotFill core slot s
  | .stealRequest victim => tryStealRequest victim s
  | .stealAnswer core => tryStealAnswer core s
  | .stealRetry core => tryStealRetry core s
  | .preemption core => tryPreemption core s
  | .blockedPark core slot => tryBlockedPark core slot s
  | .imageComplete pid => tryImageComplete pid s
  | .exitCompletion pid => tryExitCompletion pid s
  | .moveComplete pid => tryMoveComplete pid s
  | .affinityMove pid => tryAffinityMove pid s
  | .pauseEnd core => tryPauseEnd core s
  | .evaluation => tryEvaluation s.sensed (Config.sensedPower s.draws) s
  | .refillStep => tryRefillStep s
  | .bucketEmpty part => tryBucketEmpty part s
  | .pageInComplete pid page => tryPageInComplete pid page s
  | .eviction core => tryEviction core s
  | .offlineAnswer pid => tryOfflineAnswer pid s
  | .dieDownComplete die => tryDieDownComplete die s
  | .dieUpComplete die => tryDieUpComplete die s
  | .bundleVerified => tryBundleVerified s
  | .idleEntry => tryIdleEntry s
  | .idleExit => tryIdleExit s
  | .faultEndPlacement part => tryFaultEndPlacement part s

/-- Whether an event of the device occurs in a state. -/
def State.enabled (s : State) (e : Happening) : Bool := (e.occurs s).isSome

/-! ### Candidates -/

/-- Events of a request that a process has sent. -/
def Proc.requestEvents (p : Proc) : List Happening :=
  let homes : List Happening := match p.latch.req with
    | .tred _ rows _ _ => rows.map (fun r => .atomicAtHome p.pid r.row)
    | _ => [.atomicAtHome p.pid 0]
  .atomicReply p.pid :: .atomicStop p.pid :: .offlineAnswer p.pid :: homes

/-- Events of the place of a process. -/
def Proc.placeEvents (p : Proc) : List Happening :=
  match p.place with
  | .resident c slot => [.blockedPark c slot, .preemption c, .affinityMove p.pid, .eviction c]
  | .exiting _ _ => [.exitCompletion p.pid]
  | .parked => if p.imageOk then [] else [.imageComplete p.pid]
  | .moving _ _ => [.moveComplete p.pid]
  | .gone => []

/-- Events of the pages that a process waits for. -/
def Proc.pageEvents (p : Proc) : List Happening :=
  let ins : List Happening := p.pageIns.map (fun v => .pageInComplete p.pid v)
  let room : List Happening := match p.stall with
    | .pool c => [.eviction c]
    | _ => if p.pageIns.isEmpty then [] else [.eviction p.core]
  ins ++ room

/-- Events that a process may be part of. -/
def Proc.candidates (p : Proc) : List Happening :=
  let stores : List Happening := (List.range p.stores.length).map (fun n => .storePerform p.pid n)
  let rob : List Happening := if p.rob.isEmpty then [] else [.tileDispatch p.core p.pid, .engineCompletion p.core p.pid]
  let blocked : List Happening := if p.isBlocked then [.detectionLaunch p.pid, .offlineAnswer p.pid, .eviction p.core] else []
  stores ++ (if p.latch.sent then p.requestEvents else []) ++ rob ++ p.pageEvents ++ blocked ++ p.placeEvents

/-- Events of a process whose pages lie in the pool of another core. -/
def State.strayCandidates (s : State) (pid : Pid) (c : Nat) : List Happening :=
  if (s.pagesOff pid c).isEmpty then [] else [.moveComplete pid, .eviction c]

/-- Events of one core. -/
def State.coreCandidates (s : State) (c : Nat) (k : Core) : List Happening :=
  let fills : List Happening := if k.records.isEmpty && k.runq.isEmpty && (k.steal.isSome || k.retryAt.isSome) then []
    else (List.range 4).map (fun i => .slotFill c i)
  let asked : List Happening := if k.reqs.isEmpty then [] else [.stealRequest c]
  let answered : List Happening := if k.steal.isSome then [.stealAnswer c] else []
  let again : List Happening := if k.retryAt.isSome then [.stealRetry c] else []
  let paused : List Happening := if k.pause.isSome then [.pauseEnd c] else []
  fills ++ asked ++ answered ++ again ++ paused ++ k.records.flatMap (fun r => s.strayCandidates r.pid c)

/-- Events of one detection. -/
def Detect.candidates (d : Detect) : List Happening :=
  d.todo.map (fun p => .probe d.init p) ++ d.answers.map (fun a => .probeAnswer d.init a.1)

/-- Events of the device as a whole. -/
def wholeCandidates : List Happening :=
  [.dieDownComplete 0, .dieDownComplete 1, .dieUpComplete 0, .dieUpComplete 1, .bundleVerified, .idleEntry, .idleExit]

/-- Every event of the device that might occur now. -/
def State.candidates (s : State) : List Happening :=
  let procs : List Happening := s.allProcs.flatMap (fun p => p.candidates ++ s.strayCandidates p.pid p.core)
  let cores : List Happening := ((List.range 90).zip s.cores.toList).flatMap (fun x => s.coreCandidates x.1 x.2)
  let walks : List Happening :=
    ((List.range 24).zip s.quads.toList).flatMap (fun x => if x.2.walks.isEmpty then [] else [.walkComplete x.1])
  let cells : List Happening := s.cells.flatMap (fun c => [.rendezvous c.id, .claim c.id])
  let ends : List Happening := s.parts.flatMap (fun p => if p.placing.isSome then [.faultEndPlacement p.num] else [])
  procs ++ cores ++ walks ++ cells ++ s.detects.flatMap Detect.candidates ++ ends ++ wholeCandidates

/-- Events that their time brings about before anything else (17_power.md R438, R441, 12_channels.md R342, 05_processes.md
R130): refill steps first, then empty buckets, before a move for heat (17_power.md R445), evaluations, expiries, promotions. -/
def State.dueCandidates (s : State) : List Happening :=
  let timers : List Happening := s.parts.flatMap (fun p => (List.range 8).map (fun i => .timerExpiry p.num i))
  let buckets : List Happening := s.parts.map (fun p => .bucketEmpty p.num)
  let counts : List Happening :=
    (List.range 90).filterMap (fun c => if (s.starved c).isEmpty then none else some (.starvationPromotion c))
  .refillStep :: buckets ++ .evaluation :: timers ++ counts

/-- What the outside and the failures of parts bring about: the events that may stand in the agenda. -/
def fromOutside : Instr → Bool
  | .pointWithdrawal _ _ | .laneSleep _ | .laneWake _ | .moduleFailure _ | .linkPortFailure _
  | .linkUp _ | .moveAbandon _ _ | .powerOn | .powerRemoved | .bootwinTrigger | .suspend | .d0Resume | .cmdstatRead
  | .create _ | .grant _ | .destroy _ | .copy _ | .spawnCommand _ | .hsend _ | .hrecv _ | .hclose _ | .exportCmd _
  | .importCmd _ | .release _ | .diedown _ | .dieup _ | .event _ | .faultend _ | .doorbellWhileBusy
  | .busMasteringChange _ | .setMasks _ _ _ _ | .debugHalt _ _ | .debugRelease _ _ | .debugStep _ _
  | .registerWrite (.bar _) _ | .peerMemoryAccess _ | .peerChannelMessage _ => true
  | _ => false

/-! ### The choice (log 5) -/

/-- The cores a context of which may issue. -/
def State.issuers (s : State) : List Nat :=
  ((List.range 90).zip s.cores.toList).filterMap fun x =>
    if x.2.slots.any Option.isSome && s.coreRuns x.1 && (s.chosen x.1).isSome then some x.1 else none

/-- What may happen next. -/
def State.actions (s : State) : List Action :=
  s.issuers.map .issue ++ (s.candidates.filter s.enabled).map .event
    ++ (match s.agenda with
        | i :: _ => if fromOutside i then [.outside] else []
        | [] => [])

/-- What may happen next, in the order in which it began to wait. -/
def State.queueUp (s : State) : List Action :=
  let l := s.actions
  s.waiting.filter l.contains ++ l.filter (fun a => !s.waiting.contains a)

/-- What happens next of a queue: one of it, by the free value of number n, and the first when that has waited long enough
(05_processes.md R149); time passes where nothing may happen. -/
def State.choose (s : State) (l : List Action) (n : Nat) : Action :=
  match l with
  | [] => .pass
  | [a] => a
  | a :: b :: rest =>
    if Config.patience ≤ s.waited then a else ((a :: b :: rest)[Config.freeIndex n % (rest.length + 2)]?).getD a

/-- The queue after a choice. -/
def State.noteWaiting (s : State) (l : List Action) (a : Action) : State :=
  { s with waiting := l.erase a, waited := if l.head? = some a then 0 else s.waited + 1 }

/-- What comes before any choice: the retirement of an oldest issued instruction that is done, then an event whose time has
come. -/
def State.dueAction (s : State) : Option Action :=
  match s.allProcs.find? s.mayRetire with
  | some p => some (.retire p.pid)
  | none => (s.dueCandidates.find? s.enabled).map .event

/-! ### A context issues (05_processes.md R129, 07_tiles.md R203) -/

/-- Whether an instruction at an address has not retired or trapped: its context stands where it stood. -/
def Proc.stays (p : Proc) (ip : Word) (jump : Bool) : Bool := p.isResident && p.ip == ip && !jump

/-- After an instruction: a step in force ends, and the breakpoints are live again, when it has retired or trapped
(15_traps.md R411, R412). -/
def Proc.afterIssue (ip : Word) (jump : Bool) (p : Proc) : Proc :=
  if p.stays ip jump then (if p.wait = .none then p else { p with skipBp := false })
  else { p with stepping := false, skipBp := false }

/-- An instruction of the context that executes runs to its retirement, its trap or its wait. -/
def State.retire (s : State) (jump : Bool) (o : Host.Outcome State Fault Refusal) : Host.Outcome State Fault Refusal :=
  onNext o (fun t => t.updProc s.cur.pid (fun p => { p.afterIssue s.cur.ip jump with early := none, copies := none }))

/-- The context ahead of a scalar form whose registers are known: what its meaning makes of the registers (log 46). -/
def State.runAhead (s : State) (f : Ahead) (i : Instr) : Option Ahead :=
  match exec i { s with cur := { s.cur with s := f.s, g := f.g, ip := f.ip, rob := [] } } with
  | .next t =>
    if t.cur.pid = s.cur.pid ∧ t.cur.place = s.cur.place then
      some { s := t.cur.s, g := t.cur.g, ip := t.cur.ip, late := f.late.filter (fun d => some d != destOf i) }
    else none
  | _ => none

/-- A scalar form issues behind unretired instructions: the context after it, and whether anything younger issues before it has
retired. -/
def State.afterScalar (s : State) (i : Instr) : Ahead × Bool :=
  let f := s.cur.front
  let known := aheadForm i && !((besideLatch i).getD []).any f.late.contains
  match if known then s.runAhead f i else none with
  | some a => (a, false)
  | none =>
    let gset := match i with | .gset _ _ _ => true | _ => false
    ({ f with ip := f.ip + (if s.cur.iw0.getLsbD 31 then 8 else 4), late := (destOf i).toList ++ f.late },
      known || jumps i || gset || !(aheadForm i || lateForm i))

/-- The entry of a scalar instruction that issues. -/
def State.scalarEntry (s : State) (i : Instr) : RobEntry :=
  let a := s.afterScalar i
  { op := s.cur.robNo, ip := s.cur.fetchIp, instr := i, iw0 := s.cur.iw0, iw1 := s.cur.iw1, tile := false, eng := none, fresh := 0
    group := none, dest := destOf i, refs := [], copies := [], ahead := a.1, stops := a.2, started := false, done := true
    early := none }

/-- An instruction that issues and does not run at once joins those of its context that have not retired. -/
def State.enterRob (s : State) (i : Instr) : State :=
  { s with cur := { s.cur with
    skipBp := false, robNo := s.cur.robNo + 1
    rob := s.cur.rob ++ [if takesEntry i then s.tileEntry i else s.scalarEntry i] } }

/-- What was fetched and judged is acted on. -/
def State.act (s : State) : Issued → Host.Outcome State Fault Refusal
  | .fault c a w => s.retire false (execInstructionFetchFault c a w s)
  | .break_ n =>
    .next (s.takeTrap { cause := .brk, addr := s.cur.ip, detail := BitVec.ofNat 40 (n + 1) })
  | .illegal w0 w1 => s.retire false (execIllegalEncoding w0 w1 s)
  | .instr i =>
    if s.runsAtOnce i then s.retire (jumps i) (exec i { s with cur := s.cur.countRegion i }) else .next (s.enterRob i)

/-- The context that executes: what stands where it fetches. -/
def State.runCur (s : State) : Host.Outcome State Fault Refusal := s.lookAhead.1.act s.lookAhead.2

/-- The pool pages whose data an entry reads are read (19_trust.md R477). -/
def State.readBy (s : State) (r : RobEntry) : State :=
  if r.tile && readsData r.instr then s.settleRegs ((r.reads s.cur.base).flatMap TGrp.regs) else s

/-- The oldest issued instruction of the context that executes retires, traps or waits. It stays the oldest while it stalls or
waits; a tile instruction keeps its entry until it has retired (R195, R203, R206). -/
def State.runHead (s : State) : Host.Outcome State Fault Refusal :=
  match s.cur.rob with
  | [] => .next s
  | r :: rest =>
    let s1 := { s with cur := { s.cur with
      early := r.early, copies := if r.tile then some r.copies else none, iw0 := r.iw0, iw1 := r.iw1, rob := rest, stall := .none } }.readBy r
    onNext (s1.retire (jumps r.instr) (exec r.instr s1)) (fun t => t.updProc s.cur.pid (fun p =>
      { p with rob := if p.stays r.ip (jumps r.instr) then r :: p.rob else p.robAfter r p.rob }))

/-- The context that a core has chosen becomes the one that executes, its stall over. -/
def State.selectOn (s : State) (c slot : Nat) (p : Proc) : State :=
  let s1 := (s.noteChoice c slot p.prio).switchTo p.pid
  { s1 with cur := { s1.cur with stall := .none }, turn := c }

/-- A core issues. -/
def State.issueOn (s : State) (c : Nat) : Host.Outcome State Fault Refusal :=
  match s.chosen c with
  | none => .next s
  | some (slot, p) => (s.selectOn c slot p).runCur

/-- One happening. -/
def State.perform (s : State) : Action → Host.Outcome State Fault Refusal
  | .event e => e.run s
  | .retire pid => (s.switchTo pid).runHead
  | .outside => match s.agenda with
    | i :: rest => exec i { s with agenda := rest }
    | [] => .next s
  | .issue c => s.issueOn c
  | .pass => .next s

/-! ### Time (log 6, log 15) -/

/-- Some of the stores handed to the links, the oldest first, have reached their destinations (13_ordering.md R367). -/
def State.someArrive (s : State) : State :=
  let k := Config.freeIndex s.draws % (s.outbox.length + 1)
  if s.outbox.isEmpty then s else { (s.outbox.take k).foldl State.arrive s with outbox := s.outbox.drop k }

/-- An HBM sector that fails shows an error at its next read (19_trust.md R477). -/
def failErrs (f : Failure) (l : List SectorErr) : List SectorErr :=
  match f with
  | .sector sec lasting => if l.any (fun e => e.sector == sec) then l else { sector := sec, lasting := lasting } :: l
  | _ => l

/-- A line of an L1 that fails is dropped at its next use (11_memory.md R292); an entry of a translation cache or of a scratchpad
TLB is dropped at once, and fetched again when it is asked for (R476). -/
def failCore (f : Failure) (c : Nat) (k : Core) : Core :=
  match f with
  | .line core line =>
    if core = c then { k with l1d := k.l1d.map (fun l => if l.line = line then { l with err := true } else l) } else k
  | .fetchLine core line => if core = c ∧ k.icache.any (fun x => x.1 / 32 == line) then { k with ibad := insertNat line k.ibad } else k
  | .coreEntry core n => if core = c then { k with tcache := k.tcache.eraseIdx n } else k
  | .padEntry core n => if core = c then { k with stlb := k.stlb.eraseIdx n } else k
  | _ => k

/-- An entry of a quad's translation cache that fails is dropped. -/
def failQuad (f : Failure) (q : Nat) (k : Quad) : Quad :=
  match f with
  | .quadEntry quad n => if quad = q then { k with tcache := k.tcache.eraseIdx n } else k
  | _ => k

/-- A page that fails shows an error at its next read (R477); one whose next transfer fails arrives poisoned (12_channels.md
R329). -/
def failPages (f : Failure) (l : List PoolPage) : List PoolPage :=
  match f with
  | .page id lasting => l.map (fun q => if q.id = id ∧ q.err = none then { q with err := some lasting } else q)
  | .transfer id => l.map (fun q => if q.id = id then { q with hurt := true } else q)
  | _ => l

/-- A part fails, or none (log 62). -/
def State.fail (s : State) (f : Failure) : State :=
  { s with errs := failErrs f s.errs, cores := s.cores.mapIdx (failCore f), quads := s.quads.mapIdx (failQuad f), pages := failPages f s.pages }

/-- The lanes after a span of time (16_mesh.md R425): one that sent a flit or had one waiting is awake, its idle count at 0; one
whose count has reached 4,096 sleeps. -/
def Mesh.pass (m : Mesh) (n : Nat) (cycle : Word) : Mesh :=
  let busy := (List.range laneCount).filter (Config.laneBusy n)
  let busyAt := m.busyAt.filter (fun x => !busy.contains x.1) ++ busy.map (fun l => (l, cycle))
  let idle := fun (lane : Nat) => decide (4096 ≤ (cycle - ((busyAt.find? (fun x => x.1 == lane)).map Prod.snd).getD 0).toNat)
  { m with busyAt := busyAt, asleep := (List.range laneCount).filter (fun l => !busy.contains l && (m.asleep.contains l || idle l)) }

/-- The CYCLE periods that pass now: a free number, one at least once that has been 0 for long (05_processes.md R149), and none
past the last cycle before a refill step or the step itself (17_power.md R441). -/
def State.span (s : State) : Nat :=
  let n := if Config.elapsed s.draws = 0 ∧ Config.patience ≤ s.still then 1 else Config.elapsed s.draws
  min n (max 1 (1023 - s.cycle.toNat % 1024))

/-- Time passes: CYCLE advances, buckets are owed, lanes fall asleep, stores arrive, parts fail. -/
def State.pass (s : State) : State :=
  let n := s.span
  let now := s.cycle + BitVec.ofNat 64 n
  let s1 := { s with
    cycle := now
    draws := s.draws + 1 + s.parts.length
    parts := s.parts.mapIdx (fun i p => s.oweTime n (s.draws + i) p)
    mesh := s.mesh.pass s.draws now
    still := if n = 0 then s.still + 1 else 0
    idleAt := if s.noWork then s.idleAt else now }
  let s2 := s1.someArrive.drew
  (s2.fail (Config.failure s2.draws)).drew

/-- What is owed is charged in the cycle in which it was used, and time passes where that empties no bucket: the partition parks
in that cycle (R441). -/
def State.advance (s : State) : State :=
  let t := s.charged
  if t.parts.any Part.empty then t else t.pass

end Sys2Proof.Machine
end

