-- ==== Sys2Proof/Machine/Step.lean ====
section
/-! DEFINITION. One step of the device, and the state in which the next step runs a given instruction. -/

namespace Sys2Proof.Machine

/-- What is chosen happens, and the time it takes passes. -/
def State.happen (s : State) : Host.Outcome State Fault Refusal :=
  let l := s.queueUp
  let a := s.choose l s.draws
  onNext ((s.drew.noteWaiting l a).perform a) State.advance

/-- One step, from a state whose buckets are charged what they owe: what comes before any choice, else one of the happenings
that may come next. -/
def step (s : State) : Host.Outcome State Fault Refusal :=
  match s.charged.dueAction with
  | some a => s.charged.perform a
  | none => s.charged.happen

/-- The partition that a loaded program runs in: every feature, unlimited buckets, two grants, a root node at 0x8000
whose first entry is a leaf for all of HBM (log 3). -/
def loadPart : Part :=
  { Part.absent with
    num := 1, asid := 1, ceiling := 63, domLimit := .device, feat := Config.partFeatures, ptroot := 0x8001
    granted := [(0x1000000, 0x1000000), (0, 0x1000000)], sup := some 1, spawned := true }

/-- The supervisor that a loaded program is: resident in slot 0 of core 0, IP 0x10000. -/
def loadProc : Proc :=
  { Proc.absent with
    pid := 1, part := 1, sup := true, ip := 0x10000, place := .resident 0 0, join := .supervisor }

/-- The entry of the tile instruction whose bits are w, completed. -/
def loadEntry (i : Instr) (w : Nat) : RobEntry :=
  { op := 0, ip := 0x10000, instr := i, iw0 := BitVec.ofNat 32 w, iw1 := BitVec.ofNat 32 (w / 2 ^ 32), tile := true, eng := engineOf i
    fresh := freshCount i, group := tileWrites i, dest := destOf i, refs := [], copies := []
    ahead := { loadProc.base with ip := 0x10008 }, stops := false, started := true, done := true, early := none }

/-- A core with nothing to search for yet. -/
def loadCore (now : Word) : Core := { Core.reset with retryAt := some (now + 256) }

/-- A tile instruction stands completed in the reorder buffer. -/
def loadRob (nbits w : Nat) : List RobEntry :=
  match decodeTableWord nbits w with
  | some i => if takesEntry i then [loadEntry i w] else []
  | none => []

/-- The device with one program loaded and nothing else going on: the words at IP, one supervisor on core 0 (log 3). -/
def State.withFetchWord (s : State) (nbits w : Nat) : State :=
  { s with
    cur := { loadProc with rob := loadRob nbits w }, procs := [], parts := [loadPart], cells := [], entries := []
    pages := [], detects := [], agenda := []
    cores := (Vector.replicate 90 (loadCore s.cycle)).set 0 { loadCore s.cycle with slots := #v[some 1, none, none, none] }
    quads := Vector.replicate 24 Quad.reset, dies := Vector.replicate 2 .online
    mem := (s.mem.setBytes 0x8000 (bytesOf 8 0x3F)).setBytes 0x10000 (tableBytes nbits w)
    poison := [], errs := [], seals := [], l2 := [], garbled := [], outbox := [], waiting := [], waited := 0
    boot := { s.boot with ready := true, checking := false }
    host := { s.host with busy := false }
    power := .on, refillAt := s.cycle.toNat / 2 ^ 10, idleAt := s.cycle, evalAt := s.cycle.toNat / 2 ^ 16 }

end Sys2Proof.Machine
end

