-- ==== Sys2Proof/Machine/Objects.lean ====
section
/-! DEFINITION. Code objects (18_host.md R461-R463) and the address arithmetic of the assembler (03_assembly.md R68, R69):
what a file holds, which image a partition gets, what a relocation stores. -/

namespace Sys2Proof.Machine

/-! ### hi, lo and branch fields (03_assembly.md R68, R69) -/

/-- Whether a value fits n bits, signed. -/
def fitsSigned (n : Nat) (x : Int) : Bool := decide (-(2 ^ (n - 1) : Int) ≤ x) && decide (x < 2 ^ (n - 1))

/-- The two parts of an address: hi is (x + 0x800) asr 12, lo what is left. -/
def hiPart (x : Int) : Int := (x + 0x800) / 4096
def loPart (x : Int) : Int := x - hiPart x * 4096

/-- The offset field of n bits of a branch, LOOP or JAL at p with target t; none where the assembler reports an error. -/
def branchField (n : Nat) (t p : Int) : Option Int :=
  if (t - p) % 4 = 0 ∧ fitsSigned n ((t - p) / 4) then some ((t - p) / 4) else none

/-! ### The file (R461, R462) -/

inductive ImageKind where
  | native | distance
  deriving DecidableEq, Repr

structure ImageDesc where
  kind     : ImageKind
  level    : Nat
  features : Word
  code     : Nat
  codeLen  : Nat
  relocs   : Nat
  nrelocs  : Nat
  map      : Nat
  deriving DecidableEq, Repr

structure ObjSymbol where
  name   : Nat
  value  : Word
  image  : Option Nat
  global : Bool
  deriving DecidableEq, Repr

structure Reloc where
  at_    : Nat
  symbol : Nat
  kind   : Nat
  addend : Word
  deriving DecidableEq, Repr

structure ProcEntry where
  symbol : Nat
  prio   : BitVec 6
  pages  : Nat
  first  : Nat
  deriving DecidableEq, Repr

structure CodeObject where
  images  : List ImageDesc
  symbols : List ObjSymbol
  procs   : List ProcEntry
  data    : List Byte
  bss     : Nat
  deriving DecidableEq, Repr

/-- An n-byte number at an offset of a file, little-endian (R4). -/
def fileNum (f : List Byte) (off n : Nat) : Nat := ofBytes ((f.drop off).take n)

/-- An image descriptor at an offset; its level is 0 to 15, its code whole words, its reserved bytes 0. -/
def imageAt (f : List Byte) (o : Nat) : Option ImageDesc :=
  let k := fileNum f o 2
  if k ≤ 1 ∧ fileNum f (o + 2) 2 ≤ 15 ∧ fileNum f (o + 4) 4 = 0 ∧ fileNum f (o + 0x18) 8 % 4 = 0 then
    some { kind := if k = 0 then .native else .distance, level := fileNum f (o + 2) 2
           features := BitVec.ofNat 64 (fileNum f (o + 8) 8), code := fileNum f (o + 0x10) 8, codeLen := fileNum f (o + 0x18) 8
           relocs := fileNum f (o + 0x20) 8, nrelocs := fileNum f (o + 0x28) 4, map := fileNum f (o + 0x2C) 4 }
  else none

/-- A symbol at an offset, of an image of the object or of the data. -/
def symbolAt (f : List Byte) (nimg o : Nat) : Option ObjSymbol :=
  let i := fileNum f (o + 0x10) 2
  if (i = 0xFFFF ∨ i < nimg) ∧ fileNum f (o + 0x12) 2 ≤ 1 ∧ fileNum f (o + 0x14) 4 = 0 then
    some { name := fileNum f o 8, value := BitVec.ofNat 64 (fileNum f (o + 8) 8)
           image := if i = 0xFFFF then none else some i, global := fileNum f (o + 0x12) 2 == 1 }
  else none

/-- A relocation at an offset: kinds 1 to 10, a symbol of the object. -/
def relocAt (f : List Byte) (nsym o : Nat) : Option Reloc :=
  let k := fileNum f (o + 0xC) 2
  if 1 ≤ k ∧ k ≤ 10 ∧ fileNum f (o + 8) 4 < nsym ∧ fileNum f (o + 0xE) 2 = 0 then
    some { at_ := fileNum f o 8, symbol := fileNum f (o + 8) 4, kind := k, addend := BitVec.ofNat 64 (fileNum f (o + 0x10) 8) }
  else none

/-- A process entry at an offset: priority 0 to 63, at most 64 spill pages. -/
def procAt (f : List Byte) (nsym o : Nat) : Option ProcEntry :=
  let p := fileNum f (o + 4) 1
  if p < 64 ∧ fileNum f (o + 5) 1 ≤ 64 ∧ fileNum f (o + 6) 2 < 4096 ∧ fileNum f o 4 < nsym ∧ fileNum f (o + 8) 8 = 0 then
    some { symbol := fileNum f o 4, prio := BitVec.ofNat 6 p, pages := fileNum f (o + 5) 1, first := fileNum f (o + 6) 2 }
  else none

/-- n structures of a size that stand one after the other. -/
def structuresAt {α : Type} (read : Nat → Option α) (o size : Nat) : Nat → Option (List α)
  | 0 => some []
  | n + 1 =>
    match read o, structuresAt read (o + size) size n with
    | some x, some l => some (x :: l)
    | _, _ => none

/-- A code object: the header's magic, version and counts, and what it points to. -/
def parseObject (f : List Byte) : Option CodeObject :=
  let nimg := fileNum f 6 2
  let nsym := fileNum f 0x18 4
  if fileNum f 0 4 = 0x4F434D2E ∧ fileNum f 4 2 = 1 ∧ 1 ≤ nimg ∧ nimg ≤ 16 then
    match structuresAt (imageAt f) (fileNum f 8 8) 48 nimg, structuresAt (symbolAt f nimg) (fileNum f 0x10 8) 24 nsym,
      structuresAt (procAt f nsym) (fileNum f 0x20 8) 16 (fileNum f 0x1C 4) with
    | some images, some symbols, some procs =>
      some { images := images, symbols := symbols, procs := procs
             data := (f.drop (fileNum f 0x28 8)).take (fileNum f 0x30 8), bss := fileNum f 0x38 8 }
    | _, _, _ => none
  else none

/-- The relocations of an image. -/
def relocsOf (f : List Byte) (o : CodeObject) (i : ImageDesc) : Option (List Reloc) :=
  structuresAt (relocAt f o.symbols.length) i.relocs 24 i.nrelocs

/-! ### The image a partition gets (R463) -/

/-- Whether every feature an image needs is set. -/
def ImageDesc.featuresIn (i : ImageDesc) (feat : Word) : Bool := i.features &&& ~~~feat == 0

/-- Whether a native image qualifies for a profile level and a feature mask. -/
def ImageDesc.qualifies (i : ImageDesc) (profile : Nat) (feat : Word) : Bool :=
  i.kind == .native && decide (i.level ≤ profile) && i.featuresIn feat

/-- The native image of the highest level among those that qualify, the earlier on a tie; else the distance image, where
its own features are present; else the load fails. -/
def chooseImage (images : List ImageDesc) (profile : Nat) (feat : Word) : Option ImageDesc :=
  match (images.filter (fun i => i.qualifies profile feat)).foldl (fun b i => match b with
      | none => some i
      | some x => if x.level < i.level then some i else b) none with
  | some i => some i
  | none => (images.find? (fun i => i.kind == .distance)).filter (fun i => i.featuresIn feat)

/-! ### Relocations (R462) -/

/-- Where a relocation stores: 8 bytes, the second word of a LI, or the low n bits of a 32-bit word. -/
inductive RelocField where
  | dword
  | imm32
  | low (n : Nat)
  deriving DecidableEq, Repr

/-- The field and the value of a relocation, for the symbol's loaded address plus the addend and the loaded address of
the instruction; none where the load fails. -/
def relocValue (kind : Nat) (v p : Int) : Option (RelocField × Int) :=
  let field := fun n x => if fitsSigned n x then some (RelocField.low n, x) else none
  match kind with
  | 1 => some (.dword, v)
  | 2 => if fitsSigned 32 v then some (.imm32, v) else none
  | 3 => field 20 (hiPart v)
  | 4 => field 12 (loPart v)
  | 5 => field 15 (loPart v)
  | 6 => (branchField 15 v p).map (fun x => (.low 15, x))
  | 7 => (branchField 20 v p).map (fun x => (.low 20, x))
  | 8 => field 20 (hiPart (v - p))
  | 9 => field 15 (loPart (v - (p - 4)))
  | 10 => field 12 (loPart (v - (p - 4)))
  | _ => none

/-- The bytes of an image, or of the data, after a relocation at offset q. -/
def relocStore (l : List Byte) (q : Nat) (x : RelocField × Int) : List Byte :=
  let put := fun (o n : Nat) (v : Nat) => l.take o ++ bytesOf n v ++ l.drop (o + n)
  match x.1 with
  | .dword => put q 8 (x.2 % 2 ^ 64).toNat
  | .imm32 => put (q + 4) 4 (x.2 % 2 ^ 32).toNat
  | .low n =>
    let w := ofBytes ((l.drop q).take 4)
    put q 4 (w / 2 ^ n * 2 ^ n + (x.2 % 2 ^ n).toNat)

end Sys2Proof.Machine
end

