-- ==== Sys2Proof/Safety.lean ====
section
/-! DEFINITION. What counts as a safe state and a safe step, in the terms the statements use. -/

namespace Sys2Proof.Machine

/-- Every byte memory has its canonical form, so that equal memories are equal lists. -/
def State.memOk (s : State) : Bool := s.mem.wf && s.hostMem.wf && s.peerMem.wf && s.boot.bootwin.wf

/-- S0 of a context reads 0 in its storage too, and so it does in what an open region has saved (06_scalar.md R160). -/
def Proc.zeroOk (p : Proc) : Bool :=
  p.s[0] == 0 && (match p.region with
    | some r => r.savedS[0] == 0
    | none => true)

/-- A step that neither faults nor is refused. -/
def State.goesOn (s : State) : Prop := ∃ t, step s = .next t

end Sys2Proof.Machine
end

