-- ==== Sys2Proof/Certificates/Slice0/Obligations.lean ====
section
/-! DEFINITION. The statements of this row. Each docstring names the rules it formalises. A result statement says what
its instruction answers, so it also says that the instruction completes. -/

namespace Sys2Proof.Claims

open Sys2Proof Sys2Proof.Machine

/-- The outcome of a scalar instruction of n bytes: one register written, IP moved past it. -/
def put (s : State) (d : SReg) (v : Word) (n : Nat) : Host.Outcome State Fault Refusal := .next ((s.wr d v).next n)

/-- A first word of the RRR layout (R32). -/
def rrr (op : Nat) (d a b : Fin 32) (fn : Nat) : Nat :=
  op * 2 ^ 25 + d.val * 2 ^ 20 + a.val * 2 ^ 15 + b.val * 2 ^ 10 + fn

/-- A first word of the LSCAL layout (R174). -/
def lscal (d a b c : Fin 32) (fn : Nat) : Nat :=
  0x82000000 + d.val * 2 ^ 20 + a.val * 2 ^ 15 + b.val * 2 ^ 10 + c.val * 2 ^ 5 + fn

/-- A word of the B layout (R32). -/
def brw (op : Nat) (a b : Fin 32) (off : BitVec 15) : Nat :=
  op * 2 ^ 25 + a.val * 2 ^ 20 + b.val * 2 ^ 15 + off.toNat

/-- The context differs in its scalar registers and IP alone, and nothing else in the device differs. -/
def OnlyScalar (s t : State) : Prop :=
  t = { s with cur := { s.cur with s := t.cur.s, ip := t.cur.ip } }

/-- The same, FCSR aside. -/
def OnlyScalarFlags (s t : State) : Prop :=
  t = { s with cur := { s.cur with s := t.cur.s, ip := t.cur.ip, fcsr := t.cur.fcsr } }

/-- Every byte of memory reads as before. -/
def SameBytes (s t : State) : Prop := ∀ pa, t.physByte pa = s.physByte pa

/-- Every scalar register but one reads as before. -/
def SameBut (d : SReg) (s t : State) : Prop := ∀ r, r ≠ d → t.rd r = s.rd r

/-- The destination of an instruction that writes one scalar register and moves on: INT, immediates, SHI, constants, the
LSCAL integer forms, FABS, FNEG, FCLASS, JAL, LOOP and the read forms of PROC. -/
def scalarDest : Instr → Option SReg
  | .add d _ _ | .sub d _ _ | .mul d _ _ | .mulh d _ _ | .mulhn d _ _ | .div d _ _ | .divn d _ _ | .rem d _ _
  | .remn d _ _ | .and d _ _ | .or d _ _ | .xor d _ _ | .andn d _ _ | .orn d _ _ | .xnor d _ _ | .shl d _ _
  | .shr d _ _ | .sra d _ _ | .rol d _ _ | .ror d _ _ | .min d _ _ | .max d _ _ | .minn d _ _ | .maxn d _ _
  | .slt d _ _ | .sltn d _ _ | .seq d _ _ | .sne d _ _ | .clz d _ | .ctz d _ | .popc d _ | .brev d _
  | .sextb d _ | .sexth d _ | .sextw d _ | .zextb d _ | .zexth d _ | .zextw d _
  | .addi d _ _ | .andi d _ _ | .ori d _ _ | .xori d _ _ | .slti d _ _ | .sltni d _ _ | .muli d _ _
  | .shli d _ _ | .shri d _ _ | .srai d _ _ | .rori d _ _ | .lih d _ | .pcadd d _
  | .li d _ | .lihL d _ | .addl d _ _ | .bmap d _ _ _ _ | .fshl d _ _ _ | .fshr d _ _ _ | .csel d _ _ _
  | .bfx d _ _ _ | .bfi d _ _ _ | .fabs d _ | .fneg d _ | .fclass d _ | .jal d _ | .loop d _
  | .pid d | .lcore d | .gprio d | .cycle d | .part d => some d
  | _ => none

/-- The destination of a scalar floating-point instruction that may raise flags. -/
def floatDest : Instr → Option SReg
  | .fadd d _ _ | .fsub d _ _ | .fmul d _ _ | .fdiv d _ _ | .fsqrt d _ | .fmin d _ _ | .fmax d _ _ | .feq d _ _
  | .flt d _ _ | .fle d _ _ | .fcvtif d _ | .fcvtnf d _ | .fcvtfi d _ | .fcvtfn d _ | .fma d _ _ _ | .fms d _ _ _
  | .fnma d _ _ _ => some d
  | _ => none

end Sys2Proof.Claims

section

open Sys2Proof Sys2Proof.Machine Sys2Proof.Claims

/-! ### Scalar instructions (06_scalar.md) -/

/-- R168, R169: each INT form's encoding, and the register it writes, from x = S[a] and y = S[b]; it retires with no
flag. -/
def Sys2Proof.Claims.IntResultsPart : Prop :=
  ∀ (s : State) (d a b : SReg),
    let x := s.rd a
    let y := s.rd b
    let k := y.toNat % 64
    let two := fun (fn : Nat) (i : Instr) (v : Word) => decode (rrr 1 d a b fn) 0 = some i ∧ exec i s = put s d v 4
    let one := fun (fn : Nat) (i : Instr) (p : Word → Prop) =>
      decode (rrr 1 d a 0 fn) 0 = some i ∧ ∃ v, p v ∧ exec i s = put s d v 4
    two 0x000 (.add d a b) (x + y) ∧ two 0x001 (.sub d a b) (x - y) ∧ two 0x002 (.mul d a b) (x * y)
    ∧ two 0x003 (.mulh d a b) ((x.signExtend 128 * y.signExtend 128).extractLsb' 64 64)
    ∧ two 0x004 (.mulhn d a b) ((x.setWidth 128 * y.setWidth 128).extractLsb' 64 64)
    ∧ two 0x005 (.div d a b) (if y = 0 then BitVec.allOnes 64 else x.sdiv y)
    ∧ two 0x006 (.divn d a b) (if y = 0 then BitVec.allOnes 64 else x / y)
    ∧ two 0x007 (.rem d a b) (x.srem y) ∧ two 0x008 (.remn d a b) (x % y)
    ∧ two 0x010 (.and d a b) (x &&& y) ∧ two 0x011 (.or d a b) (x ||| y) ∧ two 0x012 (.xor d a b) (x ^^^ y)
    ∧ two 0x013 (.andn d a b) (x &&& ~~~y) ∧ two 0x014 (.orn d a b) (x ||| ~~~y) ∧ two 0x015 (.xnor d a b) (~~~(x ^^^ y))
    ∧ two 0x020 (.shl d a b) (x <<< k) ∧ two 0x021 (.shr d a b) (x >>> k) ∧ two 0x022 (.sra d a b) (x.sshiftRight k)
    ∧ two 0x023 (.rol d a b) (x.rotateLeft k) ∧ two 0x024 (.ror d a b) (x.rotateRight k)
    ∧ two 0x030 (.min d a b) (if x.toInt ≤ y.toInt then x else y)
    ∧ two 0x031 (.max d a b) (if x.toInt ≤ y.toInt then y else x)
    ∧ two 0x032 (.minn d a b) (if x.toNat ≤ y.toNat then x else y)
    ∧ two 0x033 (.maxn d a b) (if x.toNat ≤ y.toNat then y else x)
    ∧ two 0x040 (.slt d a b) (if x.toInt < y.toInt then 1 else 0)
    ∧ two 0x041 (.sltn d a b) (if x.toNat < y.toNat then 1 else 0)
    ∧ two 0x042 (.seq d a b) (if x = y then 1 else 0) ∧ two 0x043 (.sne d a b) (if x = y then 0 else 1)
    ∧ one 0x050 (.clz d a) (fun v => v.toNat ≤ 64 ∧ (∀ i, 64 - v.toNat ≤ i → x.getLsbD i = false)
        ∧ (v.toNat < 64 → x.getLsbD (63 - v.toNat) = true))
    ∧ one 0x051 (.ctz d a) (fun v => v.toNat ≤ 64 ∧ (∀ i, i < v.toNat → x.getLsbD i = false)
        ∧ (v.toNat < 64 → x.getLsbD v.toNat = true))
    ∧ one 0x052 (.popc d a) (fun v => v.toNat = (List.range 64).countP (fun i => x.getLsbD i))
    ∧ one 0x053 (.brev d a) (fun v => ∀ i, i < 64 → v.getLsbD (63 - i) = x.getLsbD i)
    ∧ one 0x058 (.sextb d a) (fun v => v = (x.setWidth 8).signExtend 64)
    ∧ one 0x059 (.sexth d a) (fun v => v = (x.setWidth 16).signExtend 64)
    ∧ one 0x05A (.sextw d a) (fun v => v = (x.setWidth 32).signExtend 64)
    ∧ one 0x05C (.zextb d a) (fun v => v = (x.setWidth 8).setWidth 64)
    ∧ one 0x05D (.zexth d a) (fun v => v = (x.setWidth 16).setWidth 64)
    ∧ one 0x05E (.zextw d a) (fun v => v = (x.setWidth 32).setWidth 64)

/-- R170: quotient and remainder, with the corners of a zero divisor and of -2^63 by -1. -/
def Sys2Proof.Claims.DivisionRulePart : Prop :=
  ∀ (s : State) (d a b : SReg),
    let x := s.rd a
    let y := s.rd b
    (∃ q r : Word, exec (.div d a b) s = put s d q 4 ∧ exec (.rem d a b) s = put s d r 4
      ∧ (y = 0 → q = 0xFFFFFFFFFFFFFFFF ∧ r = x)
      ∧ (x = 0x8000000000000000 → y = 0xFFFFFFFFFFFFFFFF → q = x ∧ r = 0)
      ∧ (y ≠ 0 → ¬(x = 0x8000000000000000 ∧ y = 0xFFFFFFFFFFFFFFFF) →
          q.toInt = x.toInt.tdiv y.toInt ∧ r.toInt = x.toInt - q.toInt * y.toInt))
    ∧ (∃ q r : Word, exec (.divn d a b) s = put s d q 4 ∧ exec (.remn d a b) s = put s d r 4
      ∧ (y = 0 → q = 0xFFFFFFFFFFFFFFFF ∧ r = x)
      ∧ (y ≠ 0 → q.toNat = x.toNat / y.toNat ∧ r.toNat = x.toNat - q.toNat * y.toNat))

/-- R168, R169: each INT form's encoding, and the register it writes, from x = S[a] and y = S[b]; it retires with no
flag. R170: quotient and remainder, with the corners of a zero divisor and of -2^63 by -1. -/
def Obligations.IntResults : Prop := Claims.IntResultsPart ∧ Claims.DivisionRulePart

/-- R171, R172: the immediate forms and the shifts by a constant. -/
def Sys2Proof.Claims.ImmediateResultsPart : Prop :=
  ∀ (s : State) (d a : SReg) (imm : BitVec 15) (c : BitVec 6),
    let x := s.rd a
    let k := imm.signExtend 64
    let i := fun (op : Nat) (i : Instr) (v : Word) =>
      decode (op * 2 ^ 25 + d.val * 2 ^ 20 + a.val * 2 ^ 15 + imm.toNat) 0 = some i ∧ exec i s = put s d v 4
    let shi := fun (kind : Nat) (i : Instr) (v : Word) =>
      decode (0x10000000 + d.val * 2 ^ 20 + a.val * 2 ^ 15 + kind * 2 ^ 12 + c.toNat) 0 = some i ∧ exec i s = put s d v 4
    i 0x02 (.addi d a imm) (x + k) ∧ i 0x03 (.andi d a imm) (x &&& k) ∧ i 0x04 (.ori d a imm) (x ||| k)
    ∧ i 0x05 (.xori d a imm) (x ^^^ k)
    ∧ i 0x06 (.slti d a imm) (if x.toInt < k.toInt then 1 else 0)
    ∧ i 0x07 (.sltni d a imm) (if x.toNat < k.toNat then 1 else 0)
    ∧ i 0x09 (.muli d a imm) (x * k)
    ∧ shi 0 (.shli d a c) (x <<< c.toNat) ∧ shi 1 (.shri d a c) (x >>> c.toNat)
    ∧ shi 2 (.srai d a c) (x.sshiftRight c.toNat) ∧ shi 3 (.rori d a c) (x.rotateRight c.toNat)

/-- R173, R175: LIH, PCADD, LI, LIH.l and ADDL. -/
def Sys2Proof.Claims.ConstantResultsPart : Prop :=
  ∀ (s : State) (d a : SReg) (i20 : BitVec 20) (i32 : BitVec 32),
    decode (0x14000000 + d.val * 2 ^ 20 + i20.toNat) 0 = some (.lih d i20)
    ∧ decode (0x16000000 + d.val * 2 ^ 20 + i20.toNat) 0 = some (.pcadd d i20)
    ∧ decode (lscal d 0 0 0 0) i32.toNat = some (.li d i32) ∧ decode (lscal d 0 0 0 1) i32.toNat = some (.lihL d i32)
    ∧ decode (lscal d a 0 0 2) i32.toNat = some (.addl d a i32)
    ∧ exec (.lih d i20) s = put s d (i20.signExtend 64 <<< 12) 4
    ∧ exec (.pcadd d i20) s = put s d (s.cur.ip + (i20.signExtend 64 <<< 12)) 4
    ∧ exec (.li d i32) s = put s d (i32.signExtend 64) 8
    ∧ exec (.addl d a i32) s = put s d (s.rd a + i32.signExtend 64) 8
    ∧ ∃ v : Word, exec (.lihL d i32) s = put s d v 8
        ∧ v.extractLsb' 32 32 = i32 ∧ v.extractLsb' 0 32 = (s.rd d).extractLsb' 0 32

/-- R171, R172: the immediate forms and the shifts by a constant. R173, R175: LIH, PCADD, LI, LIH.l and ADDL. -/
def Obligations.ImmediateResults : Prop := Claims.ImmediateResultsPart ∧ Claims.ConstantResultsPart

/-- R186 to R189: the LSCAL bit forms. -/
def Obligations.BitFormResults : Prop :=
  ∀ (s : State) (d a b c : SReg) (table : BitVec 8) (pos len : BitVec 6),
    decode (lscal d a b c 3) table.toNat = some (.bmap d a b c table)
    ∧ decode (lscal d a b c 4) 0 = some (.fshl d a b c) ∧ decode (lscal d a b c 5) 0 = some (.fshr d a b c)
    ∧ decode (lscal d a b c 9) 0 = some (.csel d a b c)
    ∧ decode (lscal d a 0 0 10) (pos.toNat + 64 * len.toNat) = some (.bfx d a pos len)
    ∧ decode (lscal d a 0 0 11) (pos.toNat + 64 * len.toNat) = some (.bfi d a pos len)
    ∧ (∃ v : Word, exec (.bmap d a b c table) s = put s d v 8
      ∧ ∀ i, i < 64 → v.getLsbD i
          = table.getLsbD (bit ((s.rd a).getLsbD i) + 2 * bit ((s.rd b).getLsbD i) + 4 * bit ((s.rd c).getLsbD i)))
    ∧ (∃ v : Word, exec (.fshl d a b c) s = put s d v 8
      ∧ v = (((s.rd a ++ s.rd b : BitVec 128)) <<< ((s.rd c).toNat % 64)).extractLsb' 64 64)
    ∧ (∃ v : Word, exec (.fshr d a b c) s = put s d v 8
      ∧ v = (((s.rd a ++ s.rd b : BitVec 128)) >>> ((s.rd c).toNat % 64)).extractLsb' 0 64)
    ∧ exec (.csel d a b c) s = put s d (if s.rd c ≠ 0 then s.rd a else s.rd b) 8
    ∧ (let k := min (if len = 0 then 64 else len.toNat) (64 - pos.toNat)
       (∃ v : Word, exec (.bfx d a pos len) s = put s d v 8
          ∧ ∀ i, i < 64 → v.getLsbD i = (decide (i < k) && (s.rd a).getLsbD (pos.toNat + i)))
       ∧ ∃ v : Word, exec (.bfi d a pos len) s = put s d v 8
          ∧ ∀ i, i < 64 → v.getLsbD i
              = (if pos.toNat ≤ i ∧ i < pos.toNat + k then (s.rd a).getLsbD (i - pos.toNat) else (s.rd d).getLsbD i))

/-- R176, R177, R179: branches, JAL and LOOP write IP, the link and the count. -/
def Obligations.BranchResults : Prop :=
  ∀ (s : State) (d a b : SReg) (off : BitVec 15) (i20 : BitVec 20),
    let to_ := s.cur.ip + 4 * off.signExtend 64
    let br := fun (i : Instr) (c : Prop) (_ : Decidable c) =>
      exec i s = .next { s with cur := { s.cur with ip := if c then to_ else s.cur.ip + 4 } }
    decode (brw 0x10 a b off) 0 = some (.beq a b off) ∧ decode (brw 0x11 a b off) 0 = some (.bne a b off)
    ∧ decode (brw 0x12 a b off) 0 = some (.blt a b off) ∧ decode (brw 0x13 a b off) 0 = some (.bge a b off)
    ∧ decode (brw 0x14 a b off) 0 = some (.bltn a b off) ∧ decode (brw 0x15 a b off) 0 = some (.bgen a b off)
    ∧ decode (0x2C000000 + d.val * 2 ^ 20 + i20.toNat) 0 = some (.jal d i20)
    ∧ decode (brw 0x18 a 0 off) 0 = some (.loop a off)
    ∧ br (.beq a b off) (s.rd a = s.rd b) inferInstance ∧ br (.bne a b off) (s.rd a ≠ s.rd b) inferInstance
    ∧ br (.blt a b off) ((s.rd a).toInt < (s.rd b).toInt) inferInstance
    ∧ br (.bge a b off) ((s.rd b).toInt ≤ (s.rd a).toInt) inferInstance
    ∧ br (.bltn a b off) ((s.rd a).toNat < (s.rd b).toNat) inferInstance
    ∧ br (.bgen a b off) ((s.rd b).toNat ≤ (s.rd a).toNat) inferInstance
    ∧ exec (.jal d i20) s = .next ((s.wr d (s.cur.ip + 4)).jump (s.cur.ip + 4 * i20.signExtend 64))
    ∧ exec (.loop a off) s
        = .next ((s.wr a (s.rd a - 1)).jump (if s.rd a - 1 ≠ 0 then to_ else s.cur.ip + 4))

/-- R178: JALR takes MISALIGN with the target as its address, S[d] unchanged, or links and jumps. -/
def Obligations.JalrRule : Prop :=
  ∀ (s : State) (d a : SReg) (imm : BitVec 15),
    let t := s.rd a + imm.signExtend 64
    decode (0x2E000000 + d.val * 2 ^ 20 + a.val * 2 ^ 15 + imm.toNat) 0 = some (.jalr d a imm)
    ∧ (t.toNat % 4 ≠ 0 → exec (.jalr d a imm) s = .next (s.takeTrap { cause := .misalign, addr := t, detail := 0 }))
    ∧ (t.toNat % 4 = 0 → exec (.jalr d a imm) s = .next ((s.wr d (s.cur.ip + 4)).jump t))

/-- R160: S0 reads 0 and keeps reading 0 whatever is written to it; writing any other register is read back. -/
def Obligations.ZeroRegister : Prop :=
  ∀ (s : State) (d r : SReg) (v : Word),
    s.rd 0 = 0 ∧ s.wr 0 v = s ∧ (d ≠ 0 → (s.wr d v).rd d = v) ∧ (r ≠ d → (s.wr d v).rd r = s.rd r)

/-- The frame of the instructions of scalarDest: their one register and IP, nothing else in the device. -/
def Sys2Proof.Claims.ScalarFramePart : Prop :=
  ∀ (i : Instr) (d : SReg) (s t : State), scalarDest i = some d → exec i s = .next t →
    OnlyScalar s t ∧ SameBut d s t ∧ SameBytes s t

/-- The frame of the branches and of JALR where it does not trap: no register (but the link), flag or byte changes. -/
def Sys2Proof.Claims.JumpFramePart : Prop :=
  ∀ (s t : State) (d a b : SReg) (off : BitVec 15),
    (∀ i ∈ [Instr.beq a b off, .bne a b off, .blt a b off, .bge a b off, .bltn a b off, .bgen a b off],
      exec i s = .next t → t = { s with cur := { s.cur with ip := t.cur.ip } } ∧ (∀ r, t.rd r = s.rd r) ∧ SameBytes s t)
    ∧ ((s.rd a + off.signExtend 64).toNat % 4 = 0 → exec (.jalr d a off) s = .next t →
        OnlyScalar s t ∧ SameBut d s t ∧ SameBytes s t)

/-- R180, R182, R184, R185: what the arithmetic forms of FPS and the FMA family answer: the F32 operands in bits [31:0],
the exact value rounded once by FCSR.rmode with SAT = 0, the flags joined to FCSR. -/
def Sys2Proof.Claims.FloatArithmeticResultsPart : Prop :=
  ∀ (s : State) (d a b c : SReg),
    let x := elemValue .f32 ((s.rd a).toNat % 2 ^ 32)
    let y := elemValue .f32 ((s.rd b).toNat % 2 ^ 32)
    let z := elemValue .f32 ((s.rd c).toNat % 2 ^ 32)
    let m := rmodeOf s.cur.fcsr
    let fl := fun (i : Instr) (n : Nat) (v : Exact) =>
      let r := roundFloat .f32 m false v
      exec i s = .next (((s.wr d (BitVec.ofNat 64 r.1)).next n).joinF r.2)
    let toInt := fun (i : Instr) (lo hi : Int) =>
      let r := toIntRange lo hi m x
      exec i s = .next (((s.wr d (BitVec.ofInt 64 r.1)).next 4).joinF r.2)
    fl (.fadd d a b) 4 (x.add m y) ∧ fl (.fsub d a b) 4 (x.add m y.negate) ∧ fl (.fmul d a b) 4 (x.mul y)
    ∧ fl (.fdiv d a b) 4 (x.div y) ∧ fl (.fsqrt d a) 4 x.sqrt ∧ fl (.fmin d a b) 4 (x.min y)
    ∧ fl (.fmax d a b) 4 (x.max y) ∧ fl (.fcvtif d a) 4 (Exact.int (s.rd a).toInt)
    ∧ fl (.fcvtnf d a) 4 (Exact.int (s.rd a).toNat)
    ∧ fl (.fma d a b c) 8 ((x.mul y).add m z) ∧ fl (.fms d a b c) 8 ((x.mul y).add m z.negate)
    ∧ fl (.fnma d a b c) 8 (z.add m (x.mul y).negate)
    ∧ toInt (.fcvtfi d a) (-2 ^ 63) (2 ^ 63 - 1) ∧ toInt (.fcvtfn d a) 0 (2 ^ 64 - 1)

/-- R182, R183: FABS, FNEG, the comparisons and FCLASS, by the bits of the F32 operands. -/
def Sys2Proof.Claims.FloatTestResultsPart : Prop :=
  ∀ (s : State) (d a b : SReg),
    let u := (s.rd a).setWidth 32
    let w := (s.rd b).setWidth 32
    let nan := fun (v : Word32) => decide ((v &&& 0x7F800000) = 0x7F800000) && decide ((v &&& 0x007FFFFF) ≠ 0)
    let key := fun (v : Word32) => if v.getLsbD 31 then -((v &&& 0x7FFFFFFF).toNat : Int) else (v &&& 0x7FFFFFFF).toNat
    let anyNan := nan u || nan w
    let inv : Word := if anyNan then 1 else 0
    let test := fun (r : Bool) (f : Word) =>
      let t := (s.wr d (if r then 1 else 0)).next 4
      (Host.Outcome.next { t with cur := { t.cur with fcsr := t.cur.fcsr ||| f } } : Host.Outcome State Fault Refusal)
    exec (.fabs d a) s = put s d ((u &&& 0x7FFFFFFF).setWidth 64) 4
    ∧ exec (.fneg d a) s = put s d ((u ^^^ 0x80000000).setWidth 64) 4
    ∧ exec (.feq d a b) s = test (!anyNan && decide (key u = key w)) 0
    ∧ exec (.flt d a b) s = test (!anyNan && decide (key u < key w)) inv
    ∧ exec (.fle d a b) s = test (!anyNan && decide (key u ≤ key w)) inv
    ∧ exec (.fclass d a) s = put s d (BitVec.ofNat 64 (2 ^
        (if nan u then 8
         else if u = 0xFF800000 then 0 else if u = 0x7F800000 then 7
         else if u = 0x80000000 then 3 else if u = 0 then 4
         else if u.getLsbD 31 then (if (u &&& 0x7F800000) = 0 then 2 else 1)
         else (if (u &&& 0x7F800000) = 0 then 5 else 6)))) 4

/-- R180, R182, R184, R185: what the arithmetic forms of FPS and the FMA family answer: the F32 operands in bits
[31:0], the exact value rounded once by FCSR.rmode with SAT = 0, the flags joined to FCSR. R182, R183: FABS, FNEG, the
comparisons and FCLASS, by the bits of the F32 operands. -/
def Obligations.FloatArithmeticResults : Prop := Claims.FloatArithmeticResultsPart ∧ Claims.FloatTestResultsPart

/-- The frame of the floating-point forms: one register, IP, and flags that only join FCSR (R97). -/
def Sys2Proof.Claims.FloatFramePart : Prop :=
  ∀ (i : Instr) (d : SReg) (s t : State), floatDest i = some d → exec i s = .next t →
    OnlyScalarFlags s t ∧ SameBut d s t ∧ SameBytes s t
    ∧ (∀ k, s.cur.fcsr.getLsbD k = true → t.cur.fcsr.getLsbD k = true)
    ∧ (∀ k, 6 ≤ k → t.cur.fcsr.getLsbD k = s.cur.fcsr.getLsbD k)

/-- The frame of the instructions of scalarDest: their one register and IP, nothing else in the device. The frame of
the branches and of JALR where it does not trap: no register (but the link), flag or byte changes. The frame of the
floating-point forms: one register, IP, and flags that only join FCSR (R97). -/
def Obligations.ScalarFrame : Prop := Claims.ScalarFramePart ∧ Claims.JumpFramePart ∧ Claims.FloatFramePart

end

/-! ### Global memory (11_memory.md) -/

namespace Sys2Proof.Claims

open Sys2Proof Sys2Proof.Machine

/-- The state in which an access of z bytes at x translates: the retries of its walk are made first. -/
def atAccess (s : State) (x : Word) : State := s.noteAccess x true

/-- A scalar access of z bytes at x passes the checks of R293: aligned, below 2^52, translated, its home reachable. -/
def Passes (s : State) (x : Word) (z : Nat) (k : Access) (u : State) (pa : Nat) : Prop :=
  x.toNat % z = 0 ∧ (atAccess s x).scalarXlate x z k = .ok (u, pa)

/-- The state in which an LD reads: an open region has counted it (R311). -/
def noted (u : State) (x : Word) (z : Nat) : State :=
  match u.cur.region with
  | none => u
  | some r => { u with cur := { u.cur with region := some (r.note x z true) } }

/-- Every sector of a range is written under the key of an access, and the L2 holds none of it garbled (19_trust.md R472). -/
def Readable (s : State) (key : Option Nat) (pa n : Nat) : Prop :=
  ∀ sec ∈ sectorsOf pa n, key = s.sealOf sec ∧ s.garble? sec = none

end Sys2Proof.Claims

section

open Sys2Proof Sys2Proof.Machine Sys2Proof.Claims

/-- R293, R208: an LD that no open region's line covers writes the z bytes at x, extended as SZ gives, once the older stores of
its context that overlap it have performed: at the home slice where the core's L1 holds no good line, no error is there, the
leaf's encryption fits, and for a link nothing handed to it is on its way. Nothing but the register, IP, the marks of the caches
and an open region's count changes, apart from the log of an error that the L1 shows (R292). -/
def Sys2Proof.Claims.LoadFromHomePart : Prop :=
  ∀ (s u : State) (d a : SReg) (sz : Size) (off : BitVec 12) (pa : Nat),
    let x := s.rd a + off.signExtend 64
    let z := Size.bytes sz
    Passes s x z .read u pa → (∀ r, u.cur.region = some r → r.covers x z = false) →
    u.watchHit x.toNat (x.toNat + z - 1) true false = none →
    let w := (noted u x z).awaitStores [(pa, z)]
    w.errs = [] → (pa < hbmTop ∨ w.outbox = []) → w.hitsL1 w.curCore pa = false →
    let v := w.noteLine w.curCore pa
    Readable v (u.keyAt u.curCore u.curPart x) pa z → v.rangeBad pa z = false →
    ∃ t, exec (.ld d a sz off) s = .next t ∧ t.cur.ip = w.cur.ip + 4
      ∧ (d ≠ 0 → t.rd d = loadValue sz (ofBytes (v.physBytes pa z))) ∧ SameBut d v t ∧ SameBytes v t
      ∧ t.cur.region = w.cur.region
      ∧ (u.cur.pid ≠ 0 → u.cells = [] → u.entries = [] →
          t.cur.ip = s.cur.ip + 4 ∧ ∀ st ∈ t.cur.stores, spansMeet st.span [(pa, z)] = false)

/-- R208, R295: an LD of the bytes that an older store of its context waits to write reads what that store writes. -/
def Sys2Proof.Claims.LoadAfterStorePart : Prop :=
  ∀ (s u : State) (d a : SReg) (sz : Size) (off : BitVec 12) (pa : Nat) (st : PStore),
    let x := s.rd a + off.signExtend 64
    let z := Size.bytes sz
    Passes s x z .read u pa → u.cur.region = none → u.cur.pid ≠ 0 → u.cur.stores = [st] → st.pa = pa →
    st.bytes.length = z → st.span = [(pa, z)] → u.memOk = true → u.errs = [] → u.cells = [] → u.entries = [] →
    pa + z ≤ hbmTop → Readable u st.key pa z → (∀ l ∈ (u.core u.curCore).l1d, l.line ≠ pa / 32) →
    u.rangeBad pa z = false → u.watchHit x.toNat (x.toNat + z - 1) true false = none →
    ∃ t, exec (.ld d a sz off) s = .next t ∧ t.cur.ip = s.cur.ip + 4
      ∧ (d ≠ 0 → t.rd d = loadValue sz (ofBytes st.bytes)) ∧ t.cur.stores = []

/-- R289: an LD outside a region whose core holds a good line of its address, with no older store waiting, takes the line's
bytes, and nothing but its register and IP changes. -/
def Sys2Proof.Claims.LoadHitPart : Prop :=
  ∀ (s u : State) (d a : SReg) (sz : Size) (off : BitVec 12) (pa : Nat) (l : L1Line),
    let x := s.rd a + off.signExtend 64
    let z := Size.bytes sz
    Passes s x z .read u pa → u.cur.region = none → u.cur.stores = [] → pa < hbmTop →
    (u.core u.curCore).l1d.find? (fun y => y.line == pa / 32 && !y.err) = some l →
    u.watchHit x.toNat (x.toNat + z - 1) true false = none →
    exec (.ld d a sz off) s = put u d (loadValue sz (ofBytes ((l.bytes.drop (pa % 32)).take z))) 4

/-- R311: an LD in an open region whose bytes lie in the line reads the region's copy of it, and the region counts it. -/
def Sys2Proof.Claims.LoadInRegionPart : Prop :=
  ∀ (s u : State) (d a : SReg) (sz : Size) (off : BitVec 12) (pa : Nat) (r : Region),
    let x := s.rd a + off.signExtend 64
    let z := Size.bytes sz
    let o := (x - r.line).toNat
    Passes s x z .read u pa → u.cur.region = some r → o + z ≤ 128 →
    u.watchHit x.toNat (x.toNat + z - 1) true false = none →
    exec (.ld d a sz off) s
      = put { u with cur := { u.cur with region := some { r with access := r.access + 1, hasLoad := true } } } d
          (loadValue sz (ofBytes ((r.copy.drop o).take z))) 4

/-- R293, R208, R289, R311: what LD reads: the bytes at its home once its context's older overlapping stores have performed,
those of a waiting store, those of a line its core holds, or those of an open region's copy. -/
def Obligations.LoadResult : Prop :=
  Claims.LoadFromHomePart ∧ Claims.LoadAfterStorePart ∧ Claims.LoadHitPart ∧ Claims.LoadInRegionPart

/-- R293: LD and ST take MISALIGN, then GPROT under R285, before anything else. -/
def Obligations.ScalarAccessTraps : Prop :=
  ∀ (s : State) (d a : SReg) (sz : Size) (off : BitVec 12),
    let x := s.rd a + off.signExtend 64
    (x.toNat % Size.bytes sz ≠ 0 →
      exec (.ld d a sz off) s = .next (s.takeTrap (.at .misalign x))
      ∧ exec (.st d a sz off) s = .next (s.takeTrap (.at .misalign x))
      ∧ exec (.pld d a sz off) s = .next (s.takeTrap (.at .misalign x))
      ∧ exec (.pst d a sz off) s = .next (s.takeTrap (.at .misalign x)))
    ∧ (x.toNat % Size.bytes sz = 0 → 2 ^ 52 ≤ x.toNat →
      exec (.ld d a sz off) s = .next (s.takeTrap (.at .gprot x))
      ∧ exec (.st d a sz off) s = .next (s.takeTrap (.at .gprot x)))
    ∧ (x.toNat % Size.bytes sz = 0 → 2 ^ 24 ≤ x.toNat →
      exec (.pld d a sz off) s = .next (s.takeTrap (.at .spfault x))
      ∧ exec (.pst d a sz off) s = .next (s.takeTrap (.at .spfault x)))

/-- R293, R295: ST outside a region retires: the low z bytes of S[d] wait to perform at the address it translated to, and
no register, flag or byte of memory changes. -/
def Sys2Proof.Claims.StoreResultPart : Prop :=
  ∀ (s u : State) (d a : SReg) (sz : Size) (off : BitVec 12) (pa : Nat),
    let x := s.rd a + off.signExtend 64
    let z := Size.bytes sz
    s.cur.region = none → Passes s x z .write u pa → u.watchHit x.toNat (x.toNat + z - 1) false true = none →
    ∃ t, exec (.st d a sz off) s = .next t ∧ t.cur.ip = s.cur.ip + 4
      ∧ t.cur.stores = u.cur.stores ++
          [{ va := x, pa := pa, key := u.keyAt u.curCore u.curPart x, level := u.levelAt u.curCore u.curPart x
             hint := .normal, bytes := bytesOf z (s.rd d).toNat, tile := false
             core := s.curCore, op := u.cur.nextOp, span := [(pa, z)] }]
      ∧ (∀ r, t.rd r = s.rd r) ∧ t.cur.fcsr = s.cur.fcsr ∧ SameBytes u t

/-- R295: a retired store performs where no older one of its context overlaps it, and its bytes stand at its address;
every byte outside them reads as before. Premises: no endpoint, cell or pending error whose own rules would write more. -/
def Sys2Proof.Claims.StorePerformsPart : Prop :=
  ∀ (s : State) (p : Proc) (n : Nat) (st : PStore),
    s.proc? p.pid = some p → p.stores[n]? = some st → p.mayPerform n = true →
    ∃ t, exec (.storePerform p.pid n) s = .next t
      ∧ (s.memOk = true → s.errs = [] → s.cells = [] → s.entries = [] → Readable s st.key st.pa st.bytes.length →
          st.pa < hbmTop → st.pa + st.bytes.length ≤ hbmTop →
          (∀ k (h : k < st.bytes.length), t.physByte (st.pa + k) = st.bytes[k])
          ∧ (∀ pa, pa < st.pa ∨ st.pa + st.bytes.length ≤ pa → t.physByte pa = s.physByte pa))

/-- R293, R295: ST outside a region retires: the low z bytes of S[d] wait to perform at the address it translated to,
and no register, flag or byte of memory changes. R295: a retired store performs where no older one of its context
overlaps it, and its bytes stand at its address; every byte outside them reads as before. Premises: no endpoint, cell
or pending error whose own rules would write more. -/
def Obligations.StoreResult : Prop := Claims.StoreResultPart ∧ Claims.StorePerformsPart

/-- R307, R308: an AMO that passes its checks retires and sends its request, the latch armed with kind 1, its address and
operands; S[d] is written by the reply. -/
def Obligations.AmoRequest : Prop :=
  ∀ p ∈ [(AmoOp.add, Instr.aadd), (.and, .aand), (.or, .aor), (.xor, .axor), (.min, .amin), (.max, .amax),
      (.minn, .aminn), (.maxn, .amaxn), (.swp, .aswp), (.cas, .acas)],
    ∀ (s : State) (d a b : SReg) (narrow : Bool) (sc : Scope) (r : Xlated),
      let x := s.rd a
      let z := if narrow then 4 else 8
      let u := atAccess s x
      x.toNat % z = 0 → u.xlate u.curCore u.curPart u.cur.sup x z .modify = .ok r →
      (sc = .sys ∨ physRegion r.pa = .hbm) → u.memOff u.curPart r.pa = false →
      u.watchHit x.toNat (x.toNat + z - 1) true true = none → s.cur.latch.sent = false →
      ∃ t, exec (p.2 d a b narrow sc) s = .next t ∧ t.cur.ip = s.cur.ip + 4
        ∧ t.cur.latch = s.cur.latch.arm 1 x (.amo p.1 narrow sc d (s.rd b) (s.rd d) r.pa)
            (u.curPart.leafKey r.leaf) s.curCore
        ∧ (∀ q, t.rd q = s.rd q) ∧ SameBytes u t

/-- R307: the new memory value of each op, old, s and cmp being z-byte values. -/
def Sys2Proof.Claims.AmoValuesPart : Prop :=
  ∀ (z old v cmp : Nat), (z = 4 ∨ z = 8) → old < 2 ^ (8 * z) → v < 2 ^ (8 * z) →
    let sg := fun (n : Nat) => (BitVec.ofNat (8 * z) n).toInt
    amoNew .add z old v cmp = (old + v) % 2 ^ (8 * z)
    ∧ amoNew .and z old v cmp = old &&& v ∧ amoNew .or z old v cmp = old ||| v ∧ amoNew .xor z old v cmp = old ^^^ v
    ∧ amoNew .min z old v cmp = (if sg v < sg old then v else old)
    ∧ amoNew .max z old v cmp = (if sg old < sg v then v else old)
    ∧ amoNew .minn z old v cmp = (if v < old then v else old)
    ∧ amoNew .maxn z old v cmp = (if old < v then v else old)
    ∧ amoNew .swp z old v cmp = v ∧ amoNew .cas z old v cmp = (if old = cmp then v else old)

/-- R308, R314: at its home a sent AMO reads old, writes new and holds old as its result, sign-extended where W = 1; a
stopped home performs nothing and records why. -/
def Sys2Proof.Claims.AmoAtHomePart : Prop :=
  ∀ (s : State) (p : Proc) (row : Nat) (op : AmoOp) (narrow : Bool) (sc : Scope) (d : SReg) (v cmp : Word) (pa : Nat),
    let z := if narrow then 4 else 8
    s.proc? p.pid = some p → p.latch.sent = true → p.latch.stop = 0 → p.latch.done = false → p.stores = [] →
    s.memOk = true → p.latch.req = .amo op narrow sc d v cmp pa → s.errs = [] → s.cells = [] → s.entries = [] → pa + z ≤ hbmTop →
    Readable s p.latch.key pa z →
    let old := ofBytes (s.physBytes pa z)
    ∃ t, exec (.atomicAtHome p.pid row) s = .next t
      ∧ (s.offlineAt pa = false → s.rangeBad pa z = false →
          t.physBytes pa z = bytesOf z (amoNew op z old (v.toNat % 2 ^ (8 * z)) (cmp.toNat % 2 ^ (8 * z)))
          ∧ (∀ a, a < pa ∨ pa + z ≤ a → t.physByte a = s.physByte a)
          ∧ (t.proc? p.pid).map (fun q => (q.latch.done, q.latch.result))
              = some (true, some (if narrow then (BitVec.ofNat 32 old).signExtend 64 else BitVec.ofNat 64 old)))
      ∧ (s.offlineAt pa = true → SameBytes s t ∧ (t.proc? p.pid).map (fun q => q.latch.stop) = some 2)
      ∧ (s.offlineAt pa = false → s.rangeBad pa z = true →
          SameBytes s t ∧ (t.proc? p.pid).map (fun q => (q.latch.stop, q.latch.done)) = some (1, false))

/-- R311, R314: a sent region whose gate, if it has one, holds, and of which no other agent has touched what it loaded, writes
its stores in order and holds 1 as its result; any other performs nothing and holds 0. An offline home is stop 2; a lasting
error in a line that the region must read is stop 1. -/
def Sys2Proof.Claims.RegionAtHomePart : Prop :=
  ∀ (s : State) (p : Proc) (row : Nat) (line : Word) (pa : Nat) (stores : List (Nat × List Byte)) (gate : Option (Nat × Word))
    (loads touched : Bool) (d : SReg),
    s.proc? p.pid = some p → p.latch.sent = true → p.latch.stop = 0 → p.latch.done = false → p.stores = [] →
    p.latch.req = .region line pa stores gate loads touched d → s.memOk = true → s.errs = [] → s.cells = [] →
    s.entries = [] → pa + 128 ≤ hbmTop → Readable s p.latch.key pa 128 →
    (∀ x ∈ stores, pa ≤ x.1 ∧ x.1 + x.2.length ≤ pa + 128) →
    let holds : Prop := ∀ o g, gate = some (o, g) → BitVec.ofNat 64 (ofBytes (s.physBytes (pa + o) 8)) = g
    let must := gate.isSome || loads
    let answer := fun (t : State) => (t.proc? p.pid).map (fun q => (q.latch.done, q.latch.result, q.latch.stop))
    ((∀ o g, gate = some (o, g) → o + 8 ≤ 128) → s.offlineAt pa = false → (must = false ∨ s.rangeBad pa 128 = false) →
      (holds → ¬(loads = true ∧ touched = true) →
        ∃ t, exec (.atomicAtHome p.pid row) s = .next t ∧ answer t = some (true, some 1, 0)
          ∧ ∀ b, t.physByte b = stores.foldl (fun v x => if x.1 ≤ b ∧ b < x.1 + x.2.length then x.2.getD (b - x.1) 0 else v) (s.physByte b))
      ∧ (¬(holds ∧ ¬(loads = true ∧ touched = true)) →
        ∃ t, exec (.atomicAtHome p.pid row) s = .next t ∧ answer t = some (true, some 0, 0) ∧ SameBytes s t))
    ∧ (s.offlineAt pa = true →
        ∃ t, exec (.atomicAtHome p.pid row) s = .next t ∧ answer t = some (false, p.latch.result, 2) ∧ SameBytes s t)
    ∧ (s.offlineAt pa = false → must = true → s.rangeBad pa 128 = true →
        ∃ t, exec (.atomicAtHome p.pid row) s = .next t ∧ answer t = some (false, p.latch.result, 1) ∧ SameBytes s t)

/-- R304, R314: a row of a TRED at its home adds each element to the one in memory, a float by one rounding to nearest even of
the exact sum, an integer modulo its width, and counts the row as performed; where one of its homes is offline or has a lasting
error it performs nothing and records the stop. -/
def Sys2Proof.Claims.TredRowAtHomePart : Prop :=
  ∀ (s : State) (p : Proc) (ti : Ty) (rows : List TredRow) (span : List (Nat × Nat)) (h : Hint) (r : TredRow),
    let z := ti.bits / 8
    let sum := fun (m c : Nat) =>
      if ti.isFloat then (roundFloat ti .rne false (exactSum [elemValue ti m, elemValue ti c])).1 else (m + c) % 2 ^ ti.bits
    s.proc? p.pid = some p → p.latch.sent = true → p.latch.stop = 0 → p.latch.done = false → p.stores = [] →
    p.latch.req = .tred ti rows span h → rows.find? (fun x => x.row == r.row) = some r → p.latch.rows.getLsbD r.row = false →
    r.row < 64 → p.latch.rowFirst r = true → s.memOk = true → s.errs = [] → s.cells = [] → s.entries = [] →
    r.keys.length = r.elems.length → ti.bits % 8 = 0 → 0 < ti.bits →
    (∀ e ∈ r.elems.zip r.keys, e.1.1 + z ≤ hbmTop ∧ Readable s e.2 e.1.1 z) →
    r.elems.Pairwise (fun x y => x.1 + z ≤ y.1 ∨ y.1 + z ≤ x.1) →
    ∃ t, exec (.atomicAtHome p.pid r.row) s = .next t
      ∧ ((∀ e ∈ r.elems, s.offlineAt e.1 = false ∧ s.rangeBad e.1 z = false) →
          (∀ e ∈ r.elems, t.physBytes e.1 z = bytesOf z (sum (ofBytes (s.physBytes e.1 z)) e.2))
          ∧ (∀ b, (∀ e ∈ r.elems, b < e.1 ∨ e.1 + z ≤ b) → t.physByte b = s.physByte b)
          ∧ (t.proc? p.pid).map (fun q => (q.latch.rows, q.latch.stop)) = some (p.latch.rows ||| BitVec.ofNat 64 (2 ^ r.row), 0))
      ∧ (∀ e rest, r.elems = e :: rest → (s.offlineAt e.1 = true ∨ s.rangeBad e.1 z = true) →
          SameBytes s t ∧ (t.proc? p.pid).map (fun q => (q.latch.rows, q.latch.stop))
            = some (p.latch.rows, if s.offlineAt e.1 then 2 else 1))

/-- R308, R314: at its home a sent AMO reads old, writes new and holds old as its result, sign-extended where W = 1; a
home that is offline or has a lasting error performs nothing and records why. R307: the new memory value of each op, old, s and
cmp being z-byte values. R311, R304: a region and a row of a TRED at their home. -/
def Obligations.AmoAtHome : Prop :=
  Claims.AmoAtHomePart ∧ Claims.AmoValuesPart ∧ Claims.RegionAtHomePart ∧ Claims.TredRowAtHomePart

/-- R308, R313, R315, R156: the reply writes S[d] and empties the latch, for a resident context whose core is in no clock
pause; a stop parks the issuing context with cause ATOMIC, the latch still armed, and an exiting one abandons the request;
while a request is out no instruction that names S[d] retires: it waits among the issued ones. That the trap record's instruction
words are 0 is the model's choice (log 24), and so is it that ADD waits exactly where it names S[d] (log 8). -/
def Obligations.AtomicAnswers : Prop :=
  (∀ (s : State) (p : Proc), s.proc? p.pid = some p → p.latch.sent = true →
    (p.latch.done = true → s.pausedCore p.pid = none → p.place ≠ .parked →
      ∃ t, exec (.atomicReply p.pid) s = .next t ∧ SameBytes s t
      ∧ ∃ q, t.proc? p.pid = some q ∧ q.latch.sent = false ∧ q.latch.kind = 0 ∧ q.ip = p.ip
        ∧ (∀ d v, p.latch.req.dest = some d → p.latch.result = some v → d ≠ 0 → q.rd d = v)
        ∧ (∀ r, p.latch.req.dest ≠ some r → q.rd r = p.rd r))
    ∧ (∀ c k, p.latch.stop ≠ 0 → p.latch.told = false → p.faulted = false → p.sup = false → p.place = .resident c k →
        s.pausedCore p.pid = none →
        ∃ t, exec (.atomicStop p.pid) s = .next t ∧ SameBytes s t
        ∧ ∃ q, t.proc? p.pid = some q ∧ q.place = .parked ∧ q.faulted = true ∧ q.held = true ∧ q.latch.sent = true
          ∧ q.record.map (fun r => (r.cause, r.addr, r.detail, r.iw0, r.iw1))
              = some (.atomic, p.latch.addr.setWidth 64, p.latch.stop.setWidth 40, 0, 0))
    ∧ (p.latch.stop ≠ 0 → p.latch.told = false → (∃ c k, p.place = .exiting c k) →
        ∃ t, exec (.atomicStop p.pid) s = .next t ∧ SameBytes s t ∧ (t.proc? p.pid).map (fun q => q.latch.sent) = some false)
    ∧ (∀ r rest, p.rob = r :: rest → (s.switchTo p.pid).waitsForLatch r.instr = true → s.mayRetire p = false))
  ∧ (∀ (s : State) (i : Instr), s.cur.latch.sent = true → takesEntry i = false → s.waitsForLatch i = true →
    ∃ t, s.act (.instr i) = .next t ∧ (∀ r, t.rd r = s.rd r) ∧ t.cur.ip = s.cur.ip ∧ t.cur.latch = s.cur.latch ∧ SameBytes s t)
  ∧ ∀ (s : State) (d a b r : SReg), s.cur.latch.req.dest = some r → r ≠ 0 → s.cur.latch.resent = false →
    (s.waitsForLatch (.add d a b) = true ↔ r = d ∨ r = a ∨ r = b)

/-- R309 to R311: an ALB that passes its checks opens a region with a snapshot of the line; an ALE of an open region that
passes its checks closes it and sends the region as one request; an ALE with no open region takes ILLEGAL. -/
def Obligations.RegionForms : Prop :=
  ∀ (s u : State) (d a : SReg) (unit : Fin 16) (pa : Nat),
    let l := s.rd a
    (Passes s l 128 .read u pa → physRegion pa = .hbm → u.cur.stores = [] → u.errs = [] → u.rangeBad pa 128 = false →
      u.watchHit l.toNat (l.toNat + 127) true false = none → Readable u (u.keyAt u.curCore u.curPart l) pa 128 →
      ∀ i ∈ [(Instr.alb a, none), (.albGated d a unit, some (8 * unit.val, s.rd d))],
        ∃ t, exec i.1 s = .next t ∧ t.cur.ip = s.cur.ip + 4
          ∧ t.cur.region = some
              { ip := s.cur.ip, line := l, pa := pa, copy := u.physBytes pa 128, stores := [], gate := i.2,
                hasLoad := false, touched := false, outside := false, count := 0, access := 0, savedS := s.cur.s,
                savedF := s.cur.fcsr }
          ∧ (∀ r, t.rd r = s.rd r) ∧ SameBytes u t)
    ∧ (∀ (g : Region) (r : Xlated), s.cur.region = some g → g.access ≤ 8 → g.outside = false → s.cur.latch.sent = false →
        (atAccess s g.line).xlate s.curCore (atAccess s g.line).curPart s.cur.sup g.line 128 .modify = .ok r →
        physRegion r.pa = .hbm → (atAccess s g.line).watchHit g.line.toNat (g.line.toNat + 127) true true = none →
        ∃ t, exec (.ale d) s = .next t ∧ t.cur.region = none ∧ t.cur.ip = s.cur.ip + 4
          ∧ t.cur.latch = s.cur.latch.arm 2 g.line
              (.region g.line r.pa (g.stores.map (fun x => (r.pa + (x.1 - g.pa), x.2))) g.gate g.hasLoad
                (g.touched || r.pa != g.pa) d)
              ((atAccess s g.line).curPart.leafKey r.leaf) s.curCore
          ∧ (∀ r, t.rd r = s.rd r) ∧ SameBytes (atAccess s g.line) t)
    ∧ (s.cur.region = none → exec (.ale d) s = .next (s.takeTrap (.at .illegal 0)))

/-! ### The scratchpad (10_scratchpad.md) -/

/-- R277: PLD of a resident readable page writes the bytes of its pool page; PST of a resident writable page that nothing
else maps stores them and marks the entry dirty. -/
def Sys2Proof.Claims.ScratchResultsPart : Prop :=
  ∀ (s u : State) (d a : SReg) (sz : Size) (off : BitVec 12) (e : Word) (id : Nat),
    let x := s.rd a + off.signExtend 64
    let z := Size.bytes sz
    x.toNat % z = 0 → x.toNat < 2 ^ 24 → s.sttGet s.cur.pid (x.toNat / 4096) = .ok (u, e) →
    (sttState e = 2 ∨ sttState e = 3) → u.cur.resident? (x.toNat / 4096) = some id → (u.pageOf id).poison = false →
    (u.pages.find? (fun q => q.id == id)).bind PoolPage.err = none →
    (sttR e = true → ∃ t, exec (.pld d a sz off) s = .next t
        ∧ t = ((u.touchPage id).wr d (loadValue sz (pageRead (u.pageOf id) (x.toNat % 4096) z))).next 4)
    ∧ (sttW e = true → sttDirty e = true → u.cur.pins id ≤ 1 → ∃ t, exec (.pst d a sz off) s = .next t
        ∧ t = (u.setPage id (pageStore (u.pageOf id) (x.toNat % 4096) z (u.rd d).toNat)).next 4)

/-- R277, R192: a scalar store into a page is read back by a load of its bytes, and leaves every other byte of the page;
the page records no flag type and keeps its scales. -/
def Sys2Proof.Claims.ScratchPageRulePart : Prop :=
  ∀ (p : Page) (off n v : Nat), (n = 1 ∨ n = 2 ∨ n = 4 ∨ n = 8) → off % n = 0 → off < 4096 →
    let q := pageStore p off n v
    pageRead q off n = v % 2 ^ (8 * n)
    ∧ (∀ o, o < 4096 → o < off ∨ off + n ≤ o → pageRead q o 1 = pageRead p o 1)
    ∧ q.ftype = 0xF ∧ q.wtag = 0xF ∧ q.poison = p.poison
    ∧ ∀ r k, k < 4 → scaleAt [q] 4 r k = scaleAt [p] 4 r k

/-- R277: PLD of a resident readable page writes the bytes of its pool page; PST of a resident writable page that
nothing else maps stores them and marks the entry dirty. R277, R192: a scalar store into a page is read back by a load
of its bytes, and leaves every other byte of the page; the page records no flag type and keeps its scales. -/
def Obligations.ScratchResults : Prop := Claims.ScratchResultsPart ∧ Claims.ScratchPageRulePart

end

/-! ### Tile memory, scratchpad tiles and tables (11_memory.md R299-R305, 10_scratchpad.md R278-R280) -/

namespace Sys2Proof.Claims

open Sys2Proof Sys2Proof.Machine

/-- No page of a group is poisoned. -/
def Clean (s : State) (g : TGrp) : Prop := ∀ p ∈ s.group g, p.poison = false

/-- What a tile instruction with result r answers: fresh pages in D, its flags in TCSR, IP past its two words. -/
def tileDone (s : State) (d : TGrp) (r : List Page × Flags) : Host.Outcome State Fault Refusal :=
  .next ((((s.writeGroup d r.1).joinT r.2)).next 8)

/-- What a waiting store says: its address, where it lies, its bytes, its hint. -/
def storeView (st : PStore) : Word × Nat × List Byte × Hint := (st.va, st.pa, st.bytes, st.hint)

/-- The stores of a tile store of g.bytes bytes a row (R303): row by row, and in a row piece by piece, the next bytes of that row
of the group. -/
def rowStoreList (data : List Page) (h : Hint) (rows : List (List (Word × Nat × Nat))) : List (Word × Nat × List Byte × Hint) :=
  (List.range rows.length).flatMap fun r =>
    let l := rows.getD r []
    (List.range l.length).map fun j =>
      let o := ((l.take j).map (fun x => x.2.2)).sum
      let x := l.getD j (0, 0, 0)
      (x.1, x.2.1, (List.range x.2.2).map (fun i =>
        BitVec.ofNat 8 (pageRead (data.getD ((o + i) / 64) zeroPage) (64 * r + (o + i) % 64) 1)), h)

end Sys2Proof.Claims

section

open Sys2Proof Sys2Proof.Machine Sys2Proof.Claims

/-- R299 to R302: the tile loads write the pages that memory gives for their rows, with a valid geometry, clean sources and rows
that pass their checks, once the walks that their translations need are made. -/
def Sys2Proof.Claims.TileLoadResultsPart : Prop :=
  ∀ (s : State) (d : TGrp) (a : SReg) (b : GReg) (ix : Option TReg) (h : Hint) (rows : List (List (Word × Nat × Nat))),
    let g := s.geom b
    let x := s.rd a
    let n := TGrp.n d
    let u := s.rowWalks x g n ix
    let index := ix.map (fun c => u.group { base := c, w := 0 })
    let old := if g.zf || g.whole n then [] else u.group d
    let i := match ix with | none => Instr.tld d a b h | some c => .tldx d a b c h
    (g.valid n = false → exec i s = .next (s.takeTrap (.at .illegal 0)))
    ∧ (g.valid n = true → (g.zf = true ∨ g.whole n = true ∨ Clean u d) → (∀ c, ix = some c → Clean u { base := c, w := 0 }) →
      u.rowsNow x g index .read true false = .ok rows →
      let r := u.loadNow x g ix.isSome h rows
      exec i s = .next ((r.1.writeGroup d (loadPages g n old r.2)).next 8))

/-- R303: the tile stores leave one waiting store for each piece of each row, with the address that it translates to and the
row's next bytes, and change no register and no memory. -/
def Sys2Proof.Claims.TileStoreResultsPart : Prop :=
  ∀ (s : State) (c : TGrp) (a : SReg) (b : GReg) (ix : Option TReg) (h : Hint) (rows : List (List (Word × Nat × Nat))),
    let g := s.geom b
    let x := s.rd a
    let n := TGrp.n c
    let u := s.rowWalks x g n ix
    let index := ix.map (fun c => u.group { base := c, w := 0 })
    let i := match ix with | none => Instr.tst a b c h | some y => .tstx c a b y h
    (g.valid n = false → exec i s = .next (s.takeTrap (.at .illegal 0)))
    ∧ (g.valid n = true → Clean u c → (∀ y, ix = some y → Clean u { base := y, w := 0 }) →
      u.rowsNow x g index .write false true = .ok rows →
      ∃ t, exec i s = .next t ∧ t.cur.ip = s.cur.ip + 8 ∧ (∀ r, t.rd r = s.rd r) ∧ SameBytes u t ∧ t.cur.t = s.cur.t
        ∧ (rows.length = g.rows → (∀ l ∈ rows, (l.map (fun p => p.2.2)).sum = g.bytes) →
            t.cur.stores.map storeView = s.cur.stores.map storeView ++ rowStoreList (u.group c) h rows))

/-- R305: TPF raises ILLEGAL for its geometry and nothing else; it changes no register and, where no error is marked, no byte; a
row whose leaf is cached and may be read is brought into the L2 under the hint. -/
def Sys2Proof.Claims.PrefetchRulePart : Prop :=
  ∀ (s : State) (a : SReg) (b : GReg) (h : Hint) (e : TEntry),
    let g := s.geom b
    let x := s.rd a
    let pa := leafAddr e.level e.leaf x
    (g.valid 8 = false → exec (.tpf a b h) s = .next (s.takeTrap (.at .illegal 0)))
    ∧ (g.valid 8 = true → ∃ t, exec (.tpf a b h) s = .next t ∧ t.cur = { s.cur with ip := s.cur.ip + 8, acc := t.cur.acc }
      ∧ (s.errs = [] → SameBytes s t)
      ∧ (g.rows = 1 → x.toNat % 32 = 0 → g.stride % 32 = 0 → x.toNat % 65536 + g.bytes ≤ 65536 → x.toNat + g.bytes ≤ 2 ^ 52 →
          s.cachedLeaf s.curCore s.curPart x = some e → s.curPart.checkLeaf s.cur.sup x g.bytes .read pa e.leaf = none →
          pa + g.bytes ≤ hbmTop → s.offlineAt pa = false → s.l2 = [] → s.errs = [] →
          ∀ sec ∈ sectorsOf pa g.bytes,
            (t.line? (sec / 4)).map (fun l => (l.hint, l.sectors.any (fun y => y.sector == sec))) = some (h, true)))

/-- R206, R208, R210, R296: the rows a tile load or store retires with are those its engine translated, a fault it found is taken
at retirement, and so is MEMOFF where a die of rows that have not been read has gone since; the bytes are those it read; a form
that executes at once translates and reads there, after the older stores that overlap. -/
def Sys2Proof.Claims.TileEarlyPart : Prop :=
  ∀ (s : State) (base : Word) (g : Geom) (ix : Option (List Page)) (k : Access) (load store indexed : Bool) (h : Hint)
    (e : Early) (rows : List (List (Word × Nat × Nat))),
    (s.cur.early = none → s.rowsNow base g ix k load store = s.rowsOf base g ix k load store)
    ∧ (s.cur.early = some e →
      (∀ x, e.fault = some x → s.rowsNow base g ix k load store = .error (.trap x))
      ∧ (e.fault = none → (e.data ≠ none ∨ ∀ x ∈ e.rows.flatten, s.memOff s.curPart x.2.1 = false) →
          s.rowsNow base g ix k load store = .ok e.rows)
      ∧ (∀ x rest, e.fault = none → e.data = none → e.rows.flatten = x :: rest → s.memOff s.curPart x.2.1 = true →
          s.rowsNow base g ix k load store = .error (.trap (.at .memoff x.1)))
      ∧ (∀ data, e.data = some data → s.loadNow base g indexed h rows = (s, data)))
    ∧ (s.cur.early = none → s.cur.stores = [] →
      let u := (s.rowCache .read rows).readPieces h rows.flatten
      s.loadNow base g indexed h rows = (u, u.readRows rows))

/-- R304, R313, R206: TRED with an empty latch arms it with kind 3 and one entry per row; a fault that its engine found is
taken. -/
def Obligations.TredRequest : Prop :=
  ∀ (s : State) (c : TGrp) (a : SReg) (b : GReg) (ti : Ty) (h : Hint) (rows : List (List (Word × Nat × Nat))),
    let g := s.geom b
    let u := s.rowWalks (s.rd a) g (TGrp.n c) none
    g.valid (TGrp.n c) = true → g.bytes % (ti.bits / 8) = 0 → Clean s c →
    (u.rowsNow (s.rd a) g none .modify true true = .ok rows → rows.length = g.rows → s.cur.latch.sent = false →
      ∃ t, exec (.tred a b c ti h) s = .next t ∧ t.cur.ip = s.cur.ip + 8 ∧ (∀ r, t.rd r = s.rd r) ∧ SameBytes u t
        ∧ t.cur.latch.sent = true ∧ t.cur.latch.kind = 3 ∧ t.cur.latch.addr = (s.rd a).setWidth 52 ∧ t.cur.latch.rows = 0
        ∧ t.cur.latch.rowsLeft.length = g.rows)
    ∧ (∀ e x, s.cur.early = some e → e.fault = some x → exec (.tred a b c ti h) s = .next (s.takeTrap x))

/-- R302: the bytes a whole tile load writes: row r, byte i of the group is the byte of memory that the row's pieces
translate to; a row or byte that the geometry leaves out is 0 where zf = 1. -/
def Sys2Proof.Claims.TileLoadBytesPart : Prop :=
  ∀ (s : State) (g : Geom) (n : Nat) (pas : List Nat),
    (n = 1 ∨ n = 2 ∨ n = 4 ∨ n = 8) → g.zf = true → pas.length ≤ 64 → g.bytes ≤ 64 * n →
    s.seals = [] → s.garbled = [] → s.keyAt s.curCore s.curPart 0 = none →
    let data := s.readRows (pas.map (fun pa => [((0 : Word), pa, g.bytes)]))
    ∀ r i, r < 64 → i < 64 * n →
      pageRead ((loadPages g n [] data).getD (i / 64) zeroPage) (64 * r + i % 64) 1
        = if h : r < pas.length then (if i < g.bytes then (s.physByte (pas[r] + i)).toNat else 0) else 0

/-- R299 to R302: the tile loads write the pages that memory gives for their rows, once the walks that their translations
need are made. R303: the tile stores leave one waiting store for each piece of each row. R305: TPF. R302: the bytes a whole
tile load writes: row r, byte i of the group is the byte of memory that the row's pieces translate to; a row or byte that the
geometry leaves out is 0 where zf = 1. R206, R208, R210, R296: what a form retires with whose engine has worked before. -/
def Obligations.TileMemoryResults : Prop :=
  Claims.TileLoadResultsPart ∧ Claims.TileStoreResultsPart ∧ Claims.PrefetchRulePart ∧ Claims.TileLoadBytesPart
  ∧ Claims.TileEarlyPart

/-- R278: SPLD maps the resident pages of n consecutive scratchpad pages, SPST makes the entries name the tile pages; a
misaligned address takes MISALIGN, one whose last page passes 16 MiB SPFAULT; that its faulting address is S[A] is the model's
choice (log 58). -/
def Obligations.ScratchTiles : Prop :=
  ∀ (s u : State) (g : TGrp) (a : SReg) (es : List Word),
    let x := s.rd a
    let vs := spPages x (TGrp.n g)
    (x.toNat % 4096 ≠ 0 →
      exec (.spld g a) s = .next (s.takeTrap (.at .misalign x)) ∧ exec (.spst a g) s = .next (s.takeTrap (.at .misalign x)))
    ∧ (x.toNat % 4096 = 0 → 2 ^ 24 < x.toNat + 4096 * TGrp.n g →
      exec (.spld g a) s = .next (s.takeTrap (.at .spfault x)) ∧ exec (.spst a g) s = .next (s.takeTrap (.at .spfault x)))
    ∧ (x.toNat % 4096 = 0 → x.toNat + 4096 * TGrp.n g ≤ 2 ^ 24 → s.spChecks false vs = .ok (u, es) →
      (∀ e ∈ es, sttState e ≠ 1) →
      ∃ t, exec (.spld g a) s = .next t
        ∧ let r := u.spRefs ((List.range (TGrp.n g)).zip (vs.zip es)) []
          t = (r.1.mapGroup r.1.cur.pid g r.2).next 8)
    ∧ (∀ v : State, x.toNat % 4096 = 0 → x.toNat + 4096 * TGrp.n g ≤ 2 ^ 24 → s.spChecks true vs = .ok (u, es) →
      u.spstAll ((List.range (TGrp.n g)).zip (vs.zip ((TGrp.regs g).zip es))) = .ok v → exec (.spst a g) s = .next (v.next 8))

end

/-! ### Tile registers, the matrix engine and the vector engines (07_tiles.md, 08_matrix.md, 09_vector.md) -/

namespace Sys2Proof.Claims

open Sys2Proof Sys2Proof.Machine

/-- The rational number that a finite exact value is. -/
def ratOf : Exact → Rat
  | .num n m e _ => (if n then -1 else 1) * (m : Rat) * (2 : Rat) ^ e
  | _ => 0

/-- Whether an exact value is finite. -/
def isNum : Exact → Bool
  | .num _ _ _ _ => true
  | _ => false

/-- The integer that an encoding of an integer type stands for. -/
def intOf (t : Ty) (raw : Nat) : Int := if t.isSigned then (BitVec.ofNat t.bits raw).toInt else (raw : Int)

/-- The element of type out that a float form delivers from its exact result (R86 to R92). -/
def toF (out : Ty) (rnd : Rnd) (sat : Bool) (e : Exact) : Nat :=
  (if out.isFloat then (roundFloat out rnd sat e).1 else wrapBits out.bits (toIntRange out.lo out.hi rnd e).1) % 2 ^ out.bits

/-- The element of type out that an integer form delivers from its exact result (R79, R91, R93). -/
def toI (out : Ty) (rnd : Rnd) (sat : Bool) (i : Int) : Nat :=
  (if out.isFloat then (roundFloat out rnd sat (Exact.int i)).1 else (intToInt out sat i).1) % 2 ^ out.bits

/-- Element k of row r of page p, exact. -/
def pageVal (t : Ty) (p : Page) (r k : Nat) : Exact := elemValue t (elemAt t [p] r k)

/-- The terms of the pass over page p of A and page q of B for output (m, n) (R215, R218): every product of element k of the two
rows, or in a scaled form each block's exact sum of products times its two scales. -/
def passOver (x : MmaOp) (scaled : Bool) (p q : Page) (m n : Nat) : List Exact :=
  let product := fun (k : Nat) => (pageVal x.ta p m k).mul (pageVal x.tb q n k)
  if scaled then
    (List.range x.ta.blocks).map fun j =>
      ((scale9 (scaleAt [p] x.ta.blocks m j)).mul (scale9 (scaleAt [q] x.tb.blocks n j))).mul
        (exactSum ((List.range 32).map (fun k => product (32 * j + k))))
  else (List.range (elemsPerRow x.ta 1)).map product

/-- What one pass delivers from the value it reads, none for the first pass of MMZ and MMZS, and its terms (R98 to R104, R219 to
R221): one rounding of the exact sum, or the integer sum wrapped or clamped. -/
def passGives (x : MmaOp) (acc : Option Nat) (terms : List Exact) : Nat :=
  let all := match acc with
    | some c => elemValue x.out c :: terms
    | none => terms
  if x.out.isFloat then (roundFloat x.out (if x.rtz then .rtz else .rne) x.sat (exactSum all)).1
  else (intToInt x.out x.sat ((all.map Exact.toInt).sum)).1

/-- Output (m, n) after every pass, in K order (R216). -/
def afterPasses (x : MmaOp) (scaled : Bool) (m n : Nat) : Option Nat → List (Page × Page) → Option Nat
  | acc, [] => acc
  | acc, y :: rest => afterPasses x scaled m n (some (passGives x acc (passOver x scaled y.1 y.2 m n))) rest

/-- Register k of t names what register j of s named, or a copy of that page where it would have a 16th reference (R197). -/
def Shares (s t : State) (n j k : Nat) : Prop :=
  t.cur.tref k = s.cur.tref j
    ∨ ∃ id, s.cur.tref j = .pool id ∧ 15 < s.cur.pins id + n
        ∧ ∃ q ∈ t.pages, t.cur.tref k = .pool q.id ∧ s.nextId ≤ q.id ∧ (id < s.nextId → q.page = s.pageOf id)

/-- Only tile mappings, TCSR and IP of the context differ, and no scalar state, memory or channel. -/
def OnlyTiles (s t : State) : Prop :=
  t.cur = { s.cur with t := t.cur.t, tcsr := t.cur.tcsr, ip := t.cur.ip } ∧ t.mem = s.mem ∧ t.cells = s.cells

/-- What a one-source vector instruction computes from its source group, the scalar registers at hand. -/
def oneSource (s : State) : Instr → Option (TGrp × TGrp × (List Page → List Page × Flags))
  | .vadds x => some (x.d, x.a, fun a => vecScalar fnAdd x a (s.rd x.b))
  | .vmuls x => some (x.d, x.a, fun a => vecScalar fnMul x a (s.rd x.b))
  | .vabs x => some (x.d, x.a, vecSign fnAbs (fun _ => 0) x)
  | .vneg x => some (x.d, x.a, vecSign fnNeg (fun b => 1 - b) x)
  | .vexp2 x => some (x.d, x.a, vecTranscend Exact.exp2 x)
  | .vlog2 x => some (x.d, x.a, vecTranscend Exact.log2 x)
  | .vrcp x => some (x.d, x.a, vecTranscend Exact.recip x)
  | .vrsq x => some (x.d, x.a, vecTranscend Exact.rsqrt x)
  | .vsqrt x => some (x.d, x.a, vecTranscend Exact.sqrt x)
  | .vtanh x => some (x.d, x.a, vecTranscend Exact.tanh x)
  | .vsigm x => some (x.d, x.a, vecTranscend Exact.sigmoid x)
  | .verf x => some (x.d, x.a, vecTranscend Exact.erf x)
  | .vcvt x => some (x.d, x.a, vecConvert x)
  | .vqnt x .block => some (x.d, x.a, fun a => vecQuantise x .block a [])
  | .vqnt x .row => some (x.d, x.a, fun a => vecQuantise x .row a [])
  | .vdqn x => some (x.d, x.a, vecDequantise x)
  | .vrmax x => some (x.d, x.a, vecRowReduce redMax x)
  | .vrmin x => some (x.d, x.a, vecRowReduce redMin x)
  | .vrsum x => some (x.d, x.a, vecRowReduce redSum x)
  | .vramax x => some (x.d, x.a, vecRowReduce redAbsMax x)
  | .vrssq x => some (x.d, x.a, vecRowReduce redSquares x)
  | .vcmax x => some (x.d, x.a, vecColReduce redMax x)
  | .vcsum x => some (x.d, x.a, vecColReduce redSum x)
  | .vbrow x => some (x.d, x.a, vecRowSpread x)
  | .vbcol x => some (x.d, x.a, vecColSpread x)
  | .vtrn d a ti => some (d, a, fun x => (vecTranspose ti (TGrp.n a) x, Flags.none))
  | .vrotr d a k => some (d, a, fun x => (vecRotateRows (Count.value k s.cur.s) x, Flags.none))
  | .vrotc d a ti k => some (d, a, fun x => (vecRotateCols ti (TGrp.n a) (Count.value k s.cur.s) x, Flags.none))
  | .vbrot d a k => some (d, a, fun x => (vecRotateBits (TGrp.n a) (Count.valueInt k s.cur.s) x, Flags.none))
  | .vnot d a => some (d, a, fun x => (vecNot (TGrp.n a) x, Flags.none))
  | .vshl d a ti k => some (d, a, fun x => (vecShift shiftLeft ti (TGrp.n a) (Count.value k s.cur.s) x, Flags.none))
  | .vshr d a ti k => some (d, a, fun x => (vecShift shiftRight ti (TGrp.n a) (Count.value k s.cur.s) x, Flags.none))
  | .vsra d a ti k => some (d, a, fun x => (vecShift shiftArith ti (TGrp.n a) (Count.value k s.cur.s) x, Flags.none))
  | .vpopc d a ti out => some (d, a, fun x => (vecPopCount ti out (TGrp.n d) (TGrp.n a) x, Flags.none))
  | _ => none

/-- The same for two source groups. -/
def twoSources (s : State) : Instr → Option (TGrp × TGrp × TGrp × (List Page → List Page → List Page × Flags))
  | .vadd x => some (x.d, x.a, x.b, vecTwo fnAdd x)
  | .vsub x => some (x.d, x.a, x.b, vecTwo fnSub x)
  | .vmul x => some (x.d, x.a, x.b, vecTwo fnMul x)
  | .vmin x => some (x.d, x.a, x.b, vecTwo fnMin x)
  | .vmax x => some (x.d, x.a, x.b, vecTwo fnMax x)
  | .vdiv x => some (x.d, x.a, x.b, vecTwo fnDiv x)
  | .vfmas x => some (x.d, x.a, x.c, fun a c => vecScalarAdd fnFma x a (s.rd x.b) c)
  | .vcmp d a b ti cond => some (d, a, b, vecCompare ti cond (TGrp.n d) (TGrp.n a))
  | .vqnt x (.givenRow c) => some (x.d, x.a, single c, vecQuantise x (.givenRow c))
  | .vqnt x (.givenBlock c) => some (x.d, x.a, single c, vecQuantise x (.givenBlock c))
  | .vrmrg d a b => some (single d, single a, single b, vecMerge)
  | .vand d a b => some (d, a, b, fun x y => (vecBits2 (· &&& ·) (TGrp.n a) x y, Flags.none))
  | .vor d a b => some (d, a, b, fun x y => (vecBits2 (· ||| ·) (TGrp.n a) x y, Flags.none))
  | .vxor d a b => some (d, a, b, fun x y => (vecBits2 (· ^^^ ·) (TGrp.n a) x y, Flags.none))
  | .vfshl d a b k => some (d, a, b, fun x y => (vecFunnelLeft (TGrp.n a) (Count.value k s.cur.s) x y, Flags.none))
  | .vfshr d a b k => some (d, a, b, fun x y => (vecFunnelRight (TGrp.n a) (Count.value k s.cur.s) x y, Flags.none))
  | _ => none

/-- The same for three source groups. -/
def threeSources : Instr → Option (TGrp × TGrp × TGrp × TGrp × (List Page → List Page → List Page → List Page × Flags))
  | .vfma x => some (x.d, x.a, x.b, x.c, vecThree fnFma x)
  | .vfms x => some (x.d, x.a, x.b, x.c, vecThree fnFms x)
  | .vclmp x => some (x.d, x.a, x.b, x.c, vecThree fnClamp x)
  | .vsel d a b c ti => some (d, a, b, c, fun x y z => (vecSelect ti (TGrp.n d) (TGrp.n c) x y z, Flags.none))
  | .vbmap d a b c table => some (d, a, b, c, fun x y z => (vecBitMap table (TGrp.n a) x y z, Flags.none))
  | _ => none

end Sys2Proof.Claims

section

open Sys2Proof Sys2Proof.Machine Sys2Proof.Claims

/-- R195, R196: a tile write takes n fresh pages of its core's pool for its n registers, in order; no other register
changes its page, no page that another process or a mapping still references changes or leaves, no byte of memory
changes. -/
def Obligations.TileWriteRule : Prop :=
  ∀ (s : State) (g : TGrp) (ps : List Page), TGrp.ok g = true → ps.length = TGrp.n g → s.cur.pid ≠ 0 →
    let t := s.writeGroup g ps
    OnlyTiles s t ∧ SameBytes s t
    ∧ (∀ k (h : k < ps.length), t.cur.tref (g.base.val + k) = .pool (s.nextId + k)
        ∧ ∃ q ∈ t.pages, q.id = s.nextId + k ∧ q.page = ps[k] ∧ q.core = s.curCore ∧ q.owner = s.cur.pid)
    ∧ (∀ k, (k < g.base.val ∨ g.base.val + TGrp.n g ≤ k) → t.cur.tref k = s.cur.tref k)
    ∧ (∀ q ∈ s.pages, (q.owner ≠ s.cur.pid ∨ q.id ∈ t.cur.refIds) → q ∈ t.pages)
    ∧ (∀ q ∈ t.pages, q.owner = s.cur.pid → q.id ∈ t.cur.refIds)

/-- R211, R212: the TMOVE forms: TMOV shares pages, TZERO, TFILL and TIOTA write fresh ones whose elements are 0, the
scalar's low bits and the index, TGET delivers an encoding, TINS shares all pages but the one it changes. -/
def Sys2Proof.Claims.TileMoveResultsPart : Prop :=
  ∀ (s : State) (d a : TGrp) (r b c : SReg) (ti : Ty) (col : Bool),
    TGrp.ok d = true → s.cur.pid ≠ 0 →
    (TGrp.ok a = true → a.w = d.w →
      ∃ t, exec (.tmov d a) s = .next t ∧ OnlyTiles s t ∧ SameBytes s t ∧ t.cur.ip = s.cur.ip + 8
        ∧ t.cur.tcsr = s.cur.tcsr ∧ ∀ k, k < TGrp.n d → Shares s t (TGrp.n d) (a.base.val + k) (d.base.val + k))
    ∧ (∃ ps, exec (.tzero d) s = .next ((s.writeGroup d ps).next 8) ∧ ps = List.replicate (TGrp.n d) zeroPage
        ∧ ∀ i r, pageRow zeroPage r = 0 ∧ (pageTag zeroPage i).zero = 0)
    ∧ (∃ ps, exec (.tfill d b ti) s = .next ((s.writeGroup d ps).next 8) ∧ ps.length = TGrp.n d
        ∧ ∀ i j, i < 64 → j < elemsPerRow ti (TGrp.n d) → elemAt ti ps i j = (s.rd b).toNat % 2 ^ ti.bits)
    ∧ (Ty.any ti = true → ∃ ps, exec (.tiota d ti col) s = .next ((s.writeGroup d ps).next 8) ∧ ps.length = TGrp.n d
        ∧ ∀ i j, i < 64 → j < elemsPerRow ti (TGrp.n d) →
            let k := if col then j else i
            elemAt ti ps i j = if ti.isFloat then (roundFloat ti .rne true (Exact.int k)).1 else k % 2 ^ ti.bits)
    ∧ (let row := (s.rd b).toNat
       let j := (s.rd c).toNat
       let e := elemAt ti (s.group d) row j
       (row < 64 → j < elemsPerRow ti (TGrp.n d) →
          (((s.group d).getD (j / elemsPerRow ti 1) zeroPage).poison = false →
            exec (.tget r d b c ti) s = put s r
              (if ti = .i32 ∨ ti = .i16 ∨ ti = .i8 ∨ ti = .i4 then BitVec.ofInt 64 (BitVec.ofNat ti.bits e).toInt
               else BitVec.ofNat 64 e) 8)
          ∧ (((s.group d).getD (j / elemsPerRow ti 1) zeroPage).poison = true →
            exec (.tget r d b c ti) s = .next (s.takeTrap (.at .poison 0))))
       ∧ ((63 < row ∨ elemsPerRow ti (TGrp.n d) ≤ j) →
          exec (.tget r d b c ti) s = .next (s.takeTrap (.at .illegal 0))))
    ∧ (TGrp.ok a = true → a.w = d.w →
       let i := (s.rd c).toNat
       let n := elemsPerRow ti (TGrp.n a)
       let p := i % n / elemsPerRow ti 1
       let q := (s.group a).getD p zeroPage
       (64 * n ≤ i → exec (.tins d a b c ti) s = .next (s.takeTrap (.at .illegal 0)))
       ∧ (i < 64 * n → q.poison = true → exec (.tins d a b c ti) s = .next (s.takeTrap (.at .poison 0)))
       ∧ (i < 64 * n → q.poison = false →
          ∃ t, exec (.tins d a b c ti) s = .next t ∧ OnlyTiles s t ∧ SameBytes s t ∧ t.cur.ip = s.cur.ip + 8
            ∧ t.cur.tcsr = s.cur.tcsr
            ∧ (∃ f ∈ t.pages, t.cur.tref (d.base.val + p) = .pool f.id ∧ s.nextId ≤ f.id
                ∧ f.page = pageWithElem ti q (i / n) (i % n % elemsPerRow ti 1) ((s.rd b).toNat % 2 ^ ti.bits))
            ∧ ∀ k, k < TGrp.n d → k ≠ p → Shares s t (TGrp.n d) (a.base.val + k) (d.base.val + k)))

/-- R212: a page with one element replaced reads that element at its place and every other as before, keeps its scale
slots and is not poisoned. -/
def Sys2Proof.Claims.ElementReplacedPart : Prop :=
  ∀ (ti : Ty) (q : Page) (r j v : Nat), r < 64 → j < elemsPerRow ti 1 →
    let p := pageWithElem ti q r j (v % 2 ^ ti.bits)
    p.poison = false ∧ p.ftype = ti.code
    ∧ (∀ r' j', r' < 64 → j' < elemsPerRow ti 1 →
        elemAt ti [p] r' j' = if r' = r ∧ j' = j then v % 2 ^ ti.bits else elemAt ti [q] r' j')
    ∧ ∀ r' k, r' < 64 → k < 4 → scaleAt [p] 4 r' k = scaleAt [q] 4 r' k

/-- R211, R212: the TMOVE forms: TMOV shares pages, TZERO, TFILL and TIOTA write fresh ones whose elements are 0, the
scalar's low bits and the index, TGET delivers an encoding, TINS shares all pages but the one it changes. R212: a page
with one element replaced reads that element at its place and every other as before, keeps its scale slots and is not
poisoned. -/
def Obligations.TileMoveResults : Prop := Claims.TileMoveResultsPart ∧ Claims.ElementReplacedPart

/-- R215 to R223: the MMA family reads clean groups and writes the quad at D; MMZ and MMZS read no accumulator; POISON
comes from any page read. Element (m, n) is the passes over the pages of A and B in K order, from the old element of D or from
none, each reading what the one before delivered. -/
def Sys2Proof.Claims.MatrixResultsPart : Prop :=
  ∀ (s : State) (x : MmaOp),
    let quad : TGrp := { base := x.d, w := 2 }
    let a := s.group x.a
    let b := s.group x.b
    (Clean s x.a → Clean s x.b →
      (Clean s quad →
        exec (.mma x) s = tileDone s quad (mmaPages x false (some (s.group quad)) a b)
        ∧ exec (.mmas x) s = tileDone s quad (mmaPages x true (some (s.group quad)) a b))
      ∧ exec (.mmz x) s = tileDone s quad (mmaPages x false none a b)
      ∧ exec (.mmzs x) s = tileDone s quad (mmaPages x true none a b))
    ∧ (¬Clean s x.a → ∀ i ∈ [Instr.mma x, .mmz x, .mmas x, .mmzs x], exec i s = .next (s.takeTrap (.at .poison 0)))
    ∧ (¬Clean s quad → ∀ i ∈ [Instr.mma x, .mmas x], exec i s = .next (s.takeTrap (.at .poison 0)))
    ∧ ∀ (scaled : Bool) (m n : Nat), m < 64 → n < 64 → MmaOp.ok x scaled = true →
        (∀ acc : List Page, acc.length = 4 →
          some (elemAt x.out (mmaPages x scaled (some acc) a b).1 m n)
            = (afterPasses x scaled m n (some (elemAt x.out acc m n)) (a.zip b)).map (· % 2 ^ 32))
        ∧ some (elemAt x.out (mmaPages x scaled none a b).1 m n) = (afterPasses x scaled m n none (a.zip b)).map (· % 2 ^ 32)

/-- R98, R101, R102: exact arithmetic over the rational numbers that finite terms are: a product is their product, an exact
sum their sum, which is -0 only where every term is -0; a NaN, or infinities of both signs, make a sum a NaN, and else an
infinity one. -/
def Sys2Proof.Claims.ExactSumPart : Prop :=
  (∀ x y : Exact, isNum x = true → isNum y = true → isNum (x.mul y) = true ∧ ratOf (x.mul y) = ratOf x * ratOf y)
  ∧ (∀ l : List Exact, (∀ e ∈ l, isNum e = true) →
      isNum (exactSum l) = true ∧ ratOf (exactSum l) = (l.map ratOf).sum
      ∧ ((l.map ratOf).sum = 0 → (exactSum l).neg? = l.all (fun e => e.isZero && e.neg?)))
  ∧ (∀ l : List Exact, (∃ e ∈ l, e.isNan = true) → (exactSum l).isNan = true)
  ∧ (∀ l : List Exact, (∃ e ∈ l, e.isPosInf = true) → (∃ e ∈ l, e.isNegInf = true) → exactSum l = .nan true)
  ∧ (∀ l : List Exact, (∀ e ∈ l, e.isNan = false ∧ e.isNegInf = false) → (∃ e ∈ l, e.isPosInf = true) →
      exactSum l = .inf false false)
  ∧ (∀ l : List Exact, (∀ e ∈ l, e.isNan = false ∧ e.isPosInf = false) → (∃ e ∈ l, e.isNegInf = true) →
      exactSum l = .inf true false)

/-- R218 to R220: one pass into F32 is one rounding of the exact sum of the accumulator and the products; into I32 it is the
sum, wrapped, or clamped with SAT = 1. -/
def Sys2Proof.Claims.MatrixPassPart : Prop :=
  ∀ (rnd : Rnd) (sat : Bool) (a b : List Int) (c : Int), a.length = b.length →
    let products := List.zipWith (· * ·) a b
    let exact := c + products.foldl (· + ·) 0
    let terms := passTerms false [] [] [a.map Exact.int] [b.map Exact.int]
    passResult .i32 rnd sat (some (Exact.int c)) terms = intToInt .i32 sat exact
    ∧ (exact ≠ 0 → passResult .f32 rnd sat (some (Exact.int c)) terms = roundFloat .f32 rnd sat (Exact.int exact))

/-- R215 to R223: the MMA family reads clean groups and writes the quad at D; MMZ and MMZS read no accumulator; POISON
comes from any page read. Element (m, n) is the passes over the pages of A and B in K order, each one rounding of the exact sum of
what it reads and the products, scaled block by block in MMAS and MMZS; into I32 the sum, wrapped, or clamped with SAT = 1. -/
def Obligations.MatrixResults : Prop := Claims.MatrixResultsPart ∧ Claims.MatrixPassPart ∧ Claims.ExactSumPart

/-- R233 to R257: each vector form reads clean groups and writes what it computes; its flags join TCSR, and IP moves past
it. VPERMR also needs indices from 0 to 63. -/
def Sys2Proof.Claims.VectorResultsPart : Prop :=
  ∀ (i : Instr) (s : State) (d a b c : TGrp),
    (∀ f, oneSource s i = some (d, a, f) → Clean s a → exec i s = tileDone s d (f (s.group a)))
    ∧ (∀ f, twoSources s i = some (d, a, b, f) → Clean s a → Clean s b →
        exec i s = tileDone s d (f (s.group a) (s.group b)))
    ∧ (∀ f, threeSources i = some (d, a, b, c, f) → Clean s a → Clean s b → Clean s c →
        exec i s = tileDone s d (f (s.group a) (s.group b) (s.group c)))
    ∧ (∀ r : TReg, Clean s a → Clean s (single r) →
        let ix := permIndices (s.group (single r))
        ((∀ k ∈ ix, 0 ≤ k ∧ k ≤ 63) →
          exec (.vpermr d a r) s = tileDone s d (permutePages (fun r => (ix.getD r 0).toNat) (s.group a), Flags.none))
        ∧ ((∃ k ∈ ix, k < 0 ∨ 63 < k) → exec (.vpermr d a r) s = .next (s.takeTrap (.at .illegal 0))))

/-- R194: a vector form that reads a poisoned page takes POISON and writes nothing else. -/
def Sys2Proof.Claims.PoisonTrapsPart : Prop :=
  ∀ (i : Instr) (s : State) (d a b c : TGrp),
    (∀ f, oneSource s i = some (d, a, f) → ¬Clean s a → exec i s = .next (s.takeTrap (.at .poison 0)))
    ∧ (∀ f, twoSources s i = some (d, a, b, f) → ¬(Clean s a ∧ Clean s b) → exec i s = .next (s.takeTrap (.at .poison 0)))
    ∧ (∀ f, threeSources i = some (d, a, b, c, f) → ¬(Clean s a ∧ Clean s b ∧ Clean s c) →
        exec i s = .next (s.takeTrap (.at .poison 0)))
    ∧ (∀ r : TReg, ¬(Clean s a ∧ Clean s (single r)) → exec (.vpermr d a r) s = .next (s.takeTrap (.at .poison 0)))

/-- R215, R219: a form of the MMA family whose groups hold no poisoned page completes, whatever their elements are. -/
def Sys2Proof.Claims.MatrixCompletesPart : Prop :=
  ∀ (s : State) (x : MmaOp), Clean s x.a → Clean s x.b →
    (∀ i ∈ [Instr.mmz x, .mmzs x], ∃ t, exec i s = .next t ∧ t.cur.ip = s.cur.ip + 8)
    ∧ (Clean s { base := x.d, w := 2 } → ∀ i ∈ [Instr.mma x, .mmas x], ∃ t, exec i s = .next t ∧ t.cur.ip = s.cur.ip + 8)

/-- R233 to R257: each vector form reads clean groups and writes what it computes; its flags join TCSR, and IP moves
past it. VPERMR also needs indices from 0 to 63. R194: a vector form that reads a poisoned page takes POISON and
writes nothing else. R215: a form of the MMA family with clean groups completes. -/
def Obligations.VectorResults : Prop :=
  Claims.VectorResultsPart ∧ Claims.PoisonTrapsPart ∧ Claims.MatrixCompletesPart

/-- R239, R240: element (r, c) of a form of two tile sources is the exact result of the two elements, converted once into TO. -/
def Sys2Proof.Claims.TwoSourceElements : Prop :=
  ∀ (x : V3) (a b : List Page) (r c : Nat), V3.ok x = true → a.length = TGrp.n x.a → b.length = TGrp.n x.a →
    r < 64 → c < elemsPerRow x.ti (TGrp.n x.a) →
    let u := elemAt x.ti a r c
    let v := elemAt x.ti b r c
    let fu := elemValue x.ti u
    let fv := elemValue x.ti v
    let at_ := fun (fn : ElemFn) => elemAt x.out (vecTwo fn x a b).1 r c
    (x.ti.isFloat = true →
      let fl := toF x.out x.rnd x.sat
      at_ fnAdd = fl (fu.add x.rnd fv) ∧ at_ fnSub = fl (fu.add x.rnd fv.negate) ∧ at_ fnMul = fl (fu.mul fv)
      ∧ at_ fnMin = fl (fu.min fv) ∧ at_ fnMax = fl (fu.max fv) ∧ at_ fnDiv = fl (fu.div fv))
    ∧ (x.ti.isFloat = false →
      let int := intOf x.ti
      let fl := toI x.out x.rnd x.sat
      at_ fnAdd = fl (int u + int v) ∧ at_ fnSub = fl (int u - int v) ∧ at_ fnMul = fl (int u * int v)
      ∧ at_ fnMin = fl (min (int u) (int v)) ∧ at_ fnMax = fl (max (int u) (int v)))

/-- R239, R240: VFMA, VFMS and VCLMP; VADDS, VMULS and VFMAS, whose scalar is the low bits of S[B] as an encoding of TI. -/
def Sys2Proof.Claims.ThreeSourceElements : Prop :=
  (∀ (x : V4) (a b d : List Page) (r c : Nat), V4.ok x = true → a.length = TGrp.n x.a → b.length = TGrp.n x.a →
    d.length = TGrp.n x.a → r < 64 → c < elemsPerRow x.ti (TGrp.n x.a) →
    let at_ := fun (fn : ElemFn) => elemAt x.out (vecThree fn x a b d).1 r c
    (x.ti.isFloat = true →
      let u := elemValue x.ti (elemAt x.ti a r c)
      let v := elemValue x.ti (elemAt x.ti b r c)
      let w := elemValue x.ti (elemAt x.ti d r c)
      let fl := toF x.out x.rnd x.sat
      at_ fnFma = fl ((u.mul v).add x.rnd w) ∧ at_ fnFms = fl ((u.mul v).add x.rnd w.negate)
      ∧ at_ fnClamp = fl ((u.max v).min w))
    ∧ (x.ti.isFloat = false →
      let u := intOf x.ti (elemAt x.ti a r c)
      let v := intOf x.ti (elemAt x.ti b r c)
      let w := intOf x.ti (elemAt x.ti d r c)
      let fl := toI x.out x.rnd x.sat
      at_ fnFma = fl (u * v + w) ∧ at_ fnFms = fl (u * v - w) ∧ at_ fnClamp = fl (min (max u v) w)))
  ∧ (∀ (x : VS) (a : List Page) (s : Word) (r c : Nat), VS.ok x = true → a.length = TGrp.n x.a → r < 64 →
    c < elemsPerRow x.ti (TGrp.n x.a) →
    let k := s.toNat % 2 ^ x.ti.bits
    let e := elemAt x.ti a r c
    let at_ := fun (fn : ElemFn) => elemAt x.out (vecScalar fn x a s).1 r c
    (x.ti.isFloat = true →
      at_ fnAdd = toF x.out x.rnd x.sat ((elemValue x.ti e).add x.rnd (elemValue x.ti k))
      ∧ at_ fnMul = toF x.out x.rnd x.sat ((elemValue x.ti e).mul (elemValue x.ti k)))
    ∧ (x.ti.isFloat = false →
      at_ fnAdd = toI x.out x.rnd x.sat (intOf x.ti e + intOf x.ti k)
      ∧ at_ fnMul = toI x.out x.rnd x.sat (intOf x.ti e * intOf x.ti k)))
  ∧ (∀ (x : VS3) (a d : List Page) (s : Word) (r c : Nat), VS3.ok x = true → a.length = TGrp.n x.a → d.length = TGrp.n x.a →
    r < 64 → c < elemsPerRow x.ti (TGrp.n x.a) →
    let k := s.toNat % 2 ^ x.ti.bits
    let e := elemAt x.ti a r c
    let z := elemAt x.ti d r c
    let v := elemAt x.out (vecScalarAdd fnFma x a s d).1 r c
    (x.ti.isFloat = true →
      v = toF x.out x.rnd x.sat (((elemValue x.ti e).mul (elemValue x.ti k)).add x.rnd (elemValue x.ti z)))
    ∧ (x.ti.isFloat = false → v = toI x.out x.rnd x.sat (intOf x.ti e * intOf x.ti k + intOf x.ti z)))

/-- R90, R241, R242: VCMP writes 0xFF where the condition holds of the two elements, unordered where one is NaN; VSEL takes the
element of A where the mask byte is not 0. Order is that of the numbers, zeros equal. -/
def Sys2Proof.Claims.CompareElements : Prop :=
  (∀ x y : Exact, isNum x = true → isNum y = true → (x.lt y = true ↔ ratOf x < ratOf y))
  ∧ (∀ (d a b : TGrp) (ti : Ty) (cond : Cond) (p q : List Page) (r c : Nat), (Instr.vcmp d a b ti cond).wf = true →
    p.length = TGrp.n a → q.length = TGrp.n a → r < 64 → c < elemsPerRow ti (TGrp.n a) →
    let u := elemAt ti p r c
    let v := elemAt ti q r c
    let x := elemValue ti u
    let y := elemValue ti v
    let nan := x.isNan || y.isNan
    let got := elemAt .i8 (vecCompare ti cond (TGrp.n d) (TGrp.n a) p q).1 r c
    let holds : Bool := if ti.isFloat then
        (match cond with
          | .eq => !nan && !x.lt y && !y.lt x
          | .ne => nan || x.lt y || y.lt x
          | .lt => !nan && x.lt y
          | .le => !nan && !y.lt x
          | .gt => !nan && y.lt x
          | .ge => !nan && !x.lt y
          | .unord => nan)
      else
        (match cond with
          | .eq => decide (intOf ti u = intOf ti v)
          | .ne => decide (intOf ti u ≠ intOf ti v)
          | .lt => decide (intOf ti u < intOf ti v)
          | .le => decide (intOf ti u ≤ intOf ti v)
          | .gt => decide (intOf ti v < intOf ti u)
          | .ge => decide (intOf ti v ≤ intOf ti u)
          | .unord => false)
    got = if holds then 0xFF else 0)
  ∧ (∀ (d a b m : TGrp) (ti : Ty) (p q k : List Page) (r c : Nat), (Instr.vsel d a b m ti).wf = true →
    p.length = TGrp.n a → q.length = TGrp.n a → k.length = TGrp.n m → r < 64 → c < elemsPerRow ti (TGrp.n a) →
    elemAt ti (vecSelect ti (TGrp.n d) (TGrp.n m) p q k) r c
      = if elemAt .i8 k r c = 0 then elemAt ti q r c else elemAt ti p r c)

/-- R243, R244: VABS and VNEG change the sign bit alone where TO is the float TI, and else convert the magnitude or the negative
once; VCVT converts each element once, an infinity of TI = TO unchanged; VBROW and VBCOL spread row 0 and column 0, converted. -/
def Sys2Proof.Claims.UnaryElements : Prop :=
  ∀ (x : V2) (a : List Page) (r c : Nat), a.length = TGrp.n x.a → r < 64 →
    let u := elemAt x.ti a r c
    let h := 2 ^ (x.ti.bits - 1)
    let cv := fun (e : Nat) =>
      let sat := x.sat && x.ti != x.out
      if x.ti.isFloat then toF x.out x.rnd sat (elemValue x.ti e) else toI x.out x.rnd sat (intOf x.ti e)
    (V2.ok x = true → c < elemsPerRow x.ti (TGrp.n x.a) →
      elemAt x.out (vecSign fnAbs (fun _ => 0) x a).1 r c
          = (if x.ti.isFloat then (if x.ti = x.out then u % h else toF x.out x.rnd x.sat (elemValue x.ti u).abs)
             else toI x.out x.rnd x.sat |intOf x.ti u|)
      ∧ elemAt x.out (vecSign fnNeg (fun b => 1 - b) x a).1 r c
          = (if x.ti.isFloat then
               (if x.ti = x.out then (if u < h then u + h else u - h) else toF x.out x.rnd x.sat (elemValue x.ti u).negate)
             else toI x.out x.rnd x.sat (-intOf x.ti u))
      ∧ elemAt x.out (vecConvert x a).1 r c = cv u
      ∧ elemAt x.out (vecRowSpread x a).1 r c = cv (elemAt x.ti a 0 c))
    ∧ (V2.okSpread x = true → c < elemsPerRow x.out (TGrp.n x.d) →
      elemAt x.out (vecColSpread x a).1 r c = cv (elemAt x.ti a r 0))

/-- R105, R107: a transcendental's exact value is rounded once to F32 by RNE, and that once to a narrower TO. -/
def Sys2Proof.Claims.TranscendElements : Prop :=
  ∀ (x : V2) (a : List Page) (r c : Nat), V2.okFloat x = true → a.length = TGrp.n x.a → r < 64 →
    c < elemsPerRow x.ti (TGrp.n x.a) →
    let v := elemValue x.ti (elemAt x.ti a r c)
    ∀ f ∈ [Exact.exp2, Exact.log2, Exact.recip, Exact.rsqrt, Exact.sqrt, Exact.tanh, Exact.sigmoid, Exact.erf],
      let wide := (roundFloat .f32 .rne false (f v)).1
      elemAt x.out (vecTranscend f x a).1 r c
        = if x.out = .f32 then wide % 2 ^ 32 else (roundFloat x.out x.rnd x.sat (elemValue .f32 wide)).1 % 2 ^ x.out.bits

/-- R105, R106: the special results, the exact ones, and a quotient and a root to one unit of the digits kept, marked where they
are not exact. -/
def Sys2Proof.Claims.TranscendValues : Prop :=
  (∀ f ∈ [Exact.exp2, Exact.log2, Exact.recip, Exact.rsqrt, Exact.sqrt, Exact.tanh, Exact.sigmoid, Exact.erf], ∀ i,
      (f (.nan i)).isNan = true ∧ (f (.nan i)).madeInvalid = false)
  ∧ (∀ d, Exact.exp2 (.inf true d) = Exact.zero false ∧ Exact.log2 (.inf true d) = .nan true
      ∧ Exact.recip (.inf true d) = Exact.zero true ∧ Exact.rsqrt (.inf true d) = .nan true ∧ Exact.sqrt (.inf true d) = .nan true
      ∧ Exact.tanh (.inf true d) = .num true 1 0 false ∧ Exact.sigmoid (.inf true d) = Exact.zero false
      ∧ Exact.erf (.inf true d) = .num true 1 0 false)
  ∧ (∀ d, Exact.exp2 (.inf false d) = .inf false false ∧ Exact.log2 (.inf false d) = .inf false false
      ∧ Exact.recip (.inf false d) = Exact.zero false ∧ Exact.rsqrt (.inf false d) = Exact.zero false
      ∧ Exact.sqrt (.inf false d) = .inf false false ∧ Exact.tanh (.inf false d) = .num false 1 0 false
      ∧ ratOf (Exact.sigmoid (.inf false d)) = 1 ∧ Exact.erf (.inf false d) = .num false 1 0 false)
  ∧ (∀ n e, ratOf (Exact.exp2 (.num n 0 e false)) = 1 ∧ Exact.log2 (.num n 0 e false) = .inf true true
      ∧ Exact.recip (.num n 0 e false) = .inf n true ∧ Exact.rsqrt (.num n 0 e false) = .inf n true
      ∧ Exact.sqrt (.num n 0 e false) = Exact.zero n ∧ Exact.tanh (.num n 0 e false) = Exact.zero n
      ∧ ratOf (Exact.sigmoid (.num n 0 e false)) = 1 / 2 ∧ Exact.erf (.num n 0 e false) = Exact.zero n)
  ∧ (∀ m e, m ≠ 0 → Exact.log2 (.num true m e false) = .nan true ∧ Exact.rsqrt (.num true m e false) = .nan true
      ∧ Exact.sqrt (.num true m e false) = .nan true)
  ∧ (∀ k : Int, -4096 < k → k < 4096 → ratOf (Exact.exp2 (Exact.int k)) = (2 : Rat) ^ k)
  ∧ (∀ (b : Nat) (e : Int), Exact.log2 (.num false (2 ^ b) e false) = Exact.int (b + e))
  ∧ (∀ (n k : Bool) (m l : Nat) (e f : Int), m ≠ 0 → l ≠ 0 →
      ∃ q g st, Exact.div (.num n m e false) (.num k l f false) = .num (n != k) q g st
        ∧ (q : Rat) * 2 ^ g ≤ (m : Rat) * 2 ^ e / ((l : Rat) * 2 ^ f)
        ∧ (m : Rat) * 2 ^ e / ((l : Rat) * 2 ^ f) < ((q : Rat) + 1) * 2 ^ g ∧ 2 ^ 64 ≤ q
        ∧ (st = false ↔ (q : Rat) * 2 ^ g = (m : Rat) * 2 ^ e / ((l : Rat) * 2 ^ f)))
  ∧ (∀ x, Exact.recip x = Exact.div (.num false 1 0 false) x)
  ∧ (∀ (m : Nat) (e : Int), m ≠ 0 →
      ∃ q g st, Exact.sqrt (.num false m e false) = .num false q g st
        ∧ ((q : Rat) * 2 ^ g) ^ 2 ≤ (m : Rat) * 2 ^ e ∧ (m : Rat) * 2 ^ e < (((q : Rat) + 1) * 2 ^ g) ^ 2 ∧ 2 ^ 64 ≤ q
        ∧ (st = false ↔ ((q : Rat) * 2 ^ g) ^ 2 = (m : Rat) * 2 ^ e))

/-- R108 to R111: the scale of a unit: 1.0 where its amax is 0, 0x1FF where that is NaN or infinite, and else the smallest by
which amax divided is at most the target's maximum; the amax of finite elements is their largest magnitude. -/
def Sys2Proof.Claims.QuantScales : Prop :=
  (∀ (t : Ty) (n : Bool) (e : Int), quantScale t (.num n 0 e false) = 0x0FE)
  ∧ (∀ (t : Ty) (i n d : Bool), quantScale t (.nan i) = 0x1FF ∧ quantScale t (.inf n d) = 0x1FF)
  ∧ (∀ (t : Ty) (m : Nat) (e : Int), Ty.isQuant t = true → m ≠ 0 → (m : Rat) * 2 ^ e < 2 ^ (128 : Nat) →
      let max : Nat := match t with | .e4m3 => 448 | .e5m2 => 57344 | .e2m1 => 6 | _ => 127
      let s := quantScale t (.num false m e false)
      s ≠ 0x1FF ∧ (m : Rat) * 2 ^ e ≤ ratOf (scale9 s) * max
      ∧ ∀ k : BitVec 9, k < s → ratOf (scale9 k) * max < (m : Rat) * 2 ^ e)
  ∧ (∀ (t : Ty) (l : List Nat), (∀ e ∈ l, isNum (elemValue t e) = true) →
      isNum (amaxOf t l) = true ∧ (∀ e ∈ l, |ratOf (elemValue t e)| ≤ ratOf (amaxOf t l))
      ∧ (l ≠ [] → ∃ e ∈ l, |ratOf (elemValue t e)| = ratOf (amaxOf t l)))
  ∧ (∀ (t : Ty) (l : List Nat), (∃ e ∈ l, (elemValue t e).isNan = true) → (amaxOf t l).isNan = true)

/-- R109 to R112, R245, R246: VQNT divides each element by the scale of its unit (a block of 32, or the row) and rounds the
quotient once, saturating; a unit whose amax is 0 or not finite gives 0. The scales stand in the slots of the result. VDQN
multiplies each element by the scale of its block and rounds once. -/
def Sys2Proof.Claims.QuantElements : Prop :=
  (∀ (x : V2) (mode : QMode) (a k : List Page) (r c : Nat), (Instr.vqnt x mode).wf = true → a.length = TGrp.n x.a → r < 64 →
    c < elemsPerRow x.ti (TGrp.n x.a) →
    let row := (List.range (elemsPerRow x.ti (TGrp.n x.a))).map (fun j => elemAt x.ti a r j)
    let amax := match mode with
      | .block => amaxOf x.ti ((row.drop (c / 32 * 32)).take 32)
      | .row => amaxOf x.ti row
      | .givenRow _ => (elemValue .f32 (elemAt .f32 k r 0)).abs
      | .givenBlock _ => (elemValue .f32 (elemAt .f32 k r (c / 32))).abs
    let code := quantScale x.out amax
    let q := (elemValue x.ti (elemAt x.ti a r c)).div (scale9 code)
    let pages := (vecQuantise x mode a k).1
    elemAt x.out pages r c
        = (if code = 0x1FF ∨ amax.isZero = true then 0
           else if x.out = .i8 then
             (match q with
               | .nan _ => 0
               | .inf neg _ => if neg then 0x80 else 0x7F
               | .num neg m e st => ((max (-128) (min 127 (roundInt x.rnd neg m e st).1)) % 256).toNat)
           else (roundFloat x.out x.rnd true q).1 % 2 ^ x.out.bits)
    ∧ scaleAt pages x.out.blocks r (c / 32) = code)
  ∧ (∀ (x : V2) (a : List Page) (r c : Nat), (Instr.vdqn x).wf = true → a.length = TGrp.n x.a → r < 64 →
    c < elemsPerRow x.ti (TGrp.n x.a) →
    elemAt x.out (vecDequantise x a).1 r c
      = (roundFloat x.out x.rnd x.sat
          ((scale9 (scaleAt a x.ti.blocks r (c / 32))).mul (elemValue x.ti (elemAt x.ti a r c)))).1 % 2 ^ x.out.bits)

/-- R247, R248: element (r, 0) of a row reduction, +0 elsewhere; element (0, c) of a column reduction, +0 in the other rows. -/
def Sys2Proof.Claims.ReductionElements : Prop :=
  ∀ (x : V2) (a : List Page) (r c : Nat), a.length = TGrp.n x.a → r < 64 →
    let n := elemsPerRow x.ti (TGrp.n x.a)
    let row := (List.range n).map (fun j => elemAt x.ti a r j)
    let col := (List.range 64).map (fun j => elemAt x.ti a j c)
    let most := fun (l : List Exact) => l.tail.foldl Exact.max (l.headD (Exact.zero false))
    let least := fun (l : List Exact) => l.tail.foldl Exact.min (l.headD (Exact.zero false))
    let got := fun (red : Reduction) => elemAt x.out (vecRowReduce red x a).1 r 0
    let down := fun (red : Reduction) => elemAt x.out (vecColReduce red x a).1 0 c
    let gives := fun (f : List Exact → Exact) (g : List Int → Int) (l : List Nat) =>
      if x.ti.isFloat then toF x.out x.rnd x.sat (f (l.map (elemValue x.ti))) else toI x.out x.rnd x.sat (g (l.map (intOf x.ti)))
    (V2.okRow x = true →
      got redMax = gives most (fun l => l.tail.foldl max (l.headD 0)) row
      ∧ got redMin = gives least (fun l => l.tail.foldl min (l.headD 0)) row
      ∧ got redSum = gives exactSum List.sum row
      ∧ got redAbsMax = gives (fun l => most (l.map Exact.abs)) (fun l => l.foldl (fun m i => max m |i|) 0) row
      ∧ (x.ti.isFloat = true → got redSquares = toF x.out x.rnd x.sat (exactSum ((row.map (elemValue x.ti)).map (fun v => v.mul v))))
      ∧ ∀ red ∈ [redMax, redMin, redSum, redAbsMax, redSquares], 0 < c → c < elemsPerRow x.out 1 →
          elemAt x.out (vecRowReduce red x a).1 r c = 0)
    ∧ (V2.ok x = true → reduceTypes x.ti x.out = true → c < n →
      down redMax = gives most (fun l => l.tail.foldl max (l.headD 0)) col
      ∧ down redSum = gives exactSum List.sum col
      ∧ ∀ red ∈ [redMax, redSum], 0 < r → elemAt x.out (vecColReduce red x a).1 r c = 0)

/-- R249: VRMRG of two pairs: a NaN gives two NaNs; else the larger maximum, and the exact sum of the two sums, that of the
smaller maximum times 2 to minus their distance, rounded once (here where the distance is a whole number). -/
def Sys2Proof.Claims.MergeElements : Prop :=
  ∀ (p q : List Page) (r : Nat), p.length = 1 → q.length = 1 → r < 64 →
    let at_ := fun (g : List Page) (c : Nat) => elemValue .f32 (elemAt .f32 g r c)
    let got := (vecMerge p q).1
    let fl := fun (e : Exact) => (roundFloat .f32 .rne false e).1
    let scaled := fun (v : Exact) (k : Nat) => match v with
      | .num n m e _ => Exact.num n m (e - k) false
      | y => y
    let nan := (at_ p 0).isNan || (at_ p 1).isNan || (at_ q 0).isNan || (at_ q 1).isNan
    (∀ c, 1 < c → c < 16 → elemAt .f32 got r c = 0)
    ∧ (nan = true → elemAt .f32 got r 0 = 0x7FC00000 ∧ elemAt .f32 got r 1 = 0x7FC00000)
    ∧ (nan = false → elemAt .f32 got r 0 = fl ((at_ p 0).max (at_ q 0)))
    ∧ (∀ k : Nat, nan = false → isNum (at_ p 0) = true → isNum (at_ q 0) = true → k < 4096 →
        (ratOf (at_ p 0) - ratOf (at_ q 0) = k → elemAt .f32 got r 1 = fl (exactSum [at_ p 1, scaled (at_ q 1) k]))
        ∧ (0 < k → ratOf (at_ q 0) - ratOf (at_ p 0) = k → elemAt .f32 got r 1 = fl (exactSum [at_ q 1, scaled (at_ p 1) k])))

/-- R251 to R253: VTRN, VROTR, VROTC, VPERMR and VBROT move rows, elements and bits, and change none. -/
def Sys2Proof.Claims.PermuteElements : Prop :=
  ∀ (w : Fin 4) (ti : Ty) (a : List Page) (r c : Nat) (k : Nat) (j : Int), a.length = 2 ^ w.val → r < 64 →
    let n := elemsPerRow ti (2 ^ w.val)
    let l := 512 * 2 ^ w.val
    (transposable ti w = true → c < 64 → elemAt ti (vecTranspose ti (2 ^ w.val) a) r c = elemAt ti a c r)
    ∧ groupRow (vecRotateRows k a) ((r + k) % 64) = groupRow a r
    ∧ (c < n → elemAt ti (vecRotateCols ti (2 ^ w.val) k a) r ((c + k) % n) = elemAt ti a r c)
    ∧ (∀ ix : List Page, (∀ i ∈ permIndices ix, 0 ≤ i ∧ i ≤ 63) →
        groupRow (vecPermuteRows ix a) r = groupRow a (elemAt .i32 ix r 0))
    ∧ (c < l → (groupRow (vecRotateBits (2 ^ w.val) j a) r).testBit (((c + j) % (l : Int)).toNat) = (groupRow a r).testBit c)

/-- R186, R254 to R257: the bit forms, bit by bit, the shifts and the population count element by element. -/
def Sys2Proof.Claims.LogicElements : Prop :=
  ∀ (w : Fin 4) (ti : Ty) (a b d : List Page) (table : BitVec 8) (r c i k : Nat),
    a.length = 2 ^ w.val → b.length = 2 ^ w.val → d.length = 2 ^ w.val → r < 64 →
    let n := 2 ^ w.val
    let l := 512 * n
    let x := fun (i : Nat) => (groupRow a r).testBit i
    let y := fun (i : Nat) => (groupRow b r).testBit i
    let z := fun (i : Nat) => (groupRow d r).testBit i
    let got := fun (g : List Page) => (groupRow g r).testBit i
    (i < l →
      got (vecBits2 (· &&& ·) n a b) = (x i && y i) ∧ got (vecBits2 (· ||| ·) n a b) = (x i || y i)
      ∧ got (vecBits2 (· ^^^ ·) n a b) = (x i != y i) ∧ got (vecNot n a) = !x i
      ∧ got (vecBitMap table n a b d) = table.getLsbD (bit (x i) + 2 * bit (y i) + 4 * bit (z i))
      ∧ got (vecFunnelLeft n k a b) = (if k % l ≤ i then x (i - k % l) else y (l + i - k % l))
      ∧ got (vecFunnelRight n k a b) = (if i + k % l < l then y (i + k % l) else x (i + k % l - l)))
    ∧ (Ty.isInt ti = true → c < elemsPerRow ti n →
      let u := BitVec.ofNat ti.bits (elemAt ti a r c)
      elemAt ti (vecShift shiftLeft ti n k a) r c = (u <<< k).toNat
      ∧ elemAt ti (vecShift shiftRight ti n k a) r c = (u >>> k).toNat
      ∧ elemAt ti (vecShift shiftArith ti n k a) r c = (u.sshiftRight k).toNat)
    ∧ ∀ (e f : TGrp) (out : Ty), (Instr.vpopc e f ti out).wf = true → TGrp.n f = n → c < elemsPerRow ti n →
        elemAt out (vecPopCount ti out (TGrp.n e) n a) r c
          = ((List.range ti.bits).countP (fun j => (elemAt ti a r c).testBit j)) % 2 ^ out.bits

/-- R239 to R257: the elements that each vector form writes, from the elements it reads: exact results converted once into TO. -/
def Obligations.VectorElements : Prop :=
  Claims.TwoSourceElements ∧ Claims.ThreeSourceElements ∧ Claims.CompareElements ∧ Claims.UnaryElements
  ∧ Claims.TranscendElements ∧ Claims.TranscendValues ∧ Claims.QuantScales ∧ Claims.QuantElements ∧ Claims.ReductionElements
  ∧ Claims.MergeElements ∧ Claims.PermuteElements ∧ Claims.LogicElements

end

/-! ### Channels, barriers, ALT, timers, the deadlock service (12_channels.md) -/

namespace Sys2Proof.Claims

open Sys2Proof Sys2Proof.Machine

/-- No read of the state meets an error that has not shown itself, and nothing handed to a link is on its way: what the device
reads of its areas changes no byte. -/
def Calm (s : State) : Prop := s.errs = [] ∧ s.outbox = []

/-- A process of the state with a property. -/
def ProcAt (t : State) (pid : Pid) (P : Proc → Prop) : Prop := ∃ p, t.proc? pid = some p ∧ P p

/-- A process that went on: its IP moved n bytes past what it was, and it waits for nothing. -/
def WentOn (t : State) (p : Proc) (n : Nat) (P : Proc → Prop) : Prop :=
  ProcAt t p.pid (fun q => q.ip = p.ip + BitVec.ofNat 64 n ∧ q.wait = .none ∧ P q)

/-- What a channel form posts, at which register, for which kinds; A pages that are read must be clean. -/
def posting (s : State) : Instr → Option (EReg × List Nat × Posted × Option TGrp)
  | .send a b => some (a, [1, 4, 5], .send (s.rd b), none)
  | .recv d a => some (a, [1, 3, 4, 5], .recv d, none)
  | .xmaxf d a b => some (b, [1, 5], .xcol .maxf (s.rd a) d, none)
  | .xminf d a b => some (b, [1, 5], .xcol .minf (s.rd a) d, none)
  | .xsumf d a b => some (b, [1, 5], .xcol .sumf (s.rd a) d, none)
  | .xsumi d a b => some (b, [1, 5], .xcol .sumi (s.rd a) d, none)
  | .xmaxi d a b => some (b, [1, 5], .xcol .maxi (s.rd a) d, none)
  | .xswp d a b => some (b, [1, 5], .xcol .swp (s.rd a) d, none)
  | .sendt b c => some (b, [1, 5], .sendt c.w (.regs c), none)
  | .recvt d b => some (b, [1, 5], .recvt d, none)
  | .txmax d a b ti => some (b, [1, 5], .txmax d ti (.regs a), some a)
  | .txsum d a b ti => some (b, [1, 5], .txsum d ti (.regs a), some a)
  | .txmrg d a b => some (b, [1, 5], .txmrg d (.regs a), some a)
  | _ => none

/-- Two resident processes, their cores in no clock pause, hold the two ends of an open channel cell, and each has posted one
operation there. -/
structure Facing (s : State) (c : Cell) (p q : Proc) (x y : Posted) : Prop where
  here    : s.cell? c.id = some c
  kind    : c.kind = .chan ∧ c.bar = none
  posted  : c.end0.post = some x ∧ c.end1.post = some y
  plain   : x.isOffer = false ∧ y.isOffer = false
  open0   : c.end0.closed = false ∧ c.end0.held = none
  open1   : c.end1.closed = false ∧ c.end1.held = none
  owner0  : s.endOwner c false = some p.pid ∧ s.proc? p.pid = some p
  owner1  : s.endOwner c true = some q.pid ∧ s.proc? q.pid = some q
  apart   : p.pid ≠ q.pid
  running : p.isResident = true ∧ q.isResident = true
  clocked : s.pausedCore p.pid = none ∧ s.pausedCore q.pid = none

/-- The device reaches the entry of the handle that a process sends. -/
def EntryNear (s : State) (p : Proc) (b : EReg) : Prop :=
  ∀ f k, s.entryOf p.part p.pid p.e[b] = some f → s.cell? f.cell = some k → s.reachEntry f k = .ok ()

/-- A handle passes at a cell: the sender's register empties, the receiver's holds it, and its entry has a new owner. -/
def HandlePasses (s : State) (c : Cell) (src dst : Proc) (b d : EReg) : Prop :=
  ∃ t, exec (.rendezvous c.id) s = .next t ∧ (Calm s → SameBytes s t)
    ∧ WentOn t src 4 (fun r => r.e[b] = 0) ∧ WentOn t dst 4 (fun r => r.e[d] = src.e[b])
    ∧ t.entries = s.entries.map (fun (e : Entry) =>
        if e.live && e.part == src.part && e.handle == src.e[b] && e.owner == src.pid then { e with owner := dst.pid } else e)

/-- Pages pass at a cell, where the receiver's pool has room in its shared part. -/
def TilesPass (s : State) (c : Cell) (src dst : Proc) (d : TGrp) (pages : List Page) : Prop :=
  pages.length = TGrp.n d → TGrp.ok d = true → s.sharedRoom dst.core pages.length = true →
  ∃ t, exec (.rendezvous c.id) s = .next t ∧ SameBytes s t ∧ WentOn t src 8 (fun r => r.t = src.t)
    ∧ WentOn t dst 8 (fun r => ∀ k (h : k < pages.length), ∃ f ∈ t.pages,
        r.tref (d.base.val + k) = .pool f.id ∧ f.page = pages[k] ∧ f.owner = dst.pid)

end Sys2Proof.Claims

section

open Sys2Proof Sys2Proof.Machine Sys2Proof.Claims

/-- R318 to R322, R346, R348, R349: CHNEW, EMOV, EINFO, BRNEW, BREP, CHCLOSE on registers that pass their checks, with a cell
and entries free; and what they take where a check fails. That all but CHCLOSE act before older stores have performed is the
model's choice (log 7). -/
def Sys2Proof.Claims.EndpointFormsPart : Prop :=
  ∀ (s u v : State) (d a : EReg) (r : SReg) (h0 h1 : Word32) (id : Nat) (e : Entry) (c : Cell),
    (s.rdE d = 0 → s.rdE a = 0 → d ≠ a → s.newChannel s.cur.part s.cur.pid s.cur.pid = .ok (u, h0, h1, id) →
      ∃ t, exec (.chnew d a) s = .next t ∧ t.cur.ip = s.cur.ip + 4 ∧ t.rdE d = h0 ∧ t.rdE a = h1
        ∧ (∀ k, k ≠ d → k ≠ a → t.rdE k = s.rdE k) ∧ (∀ k, t.rd k = s.rd k) ∧ (Calm s → SameBytes s t)
        ∧ (∃ n ∈ t.cells, n.id = id ∧ n.end0.post = none ∧ n.end1.post = none ∧ n.end0.closed = false
            ∧ n.end1.closed = false ∧ n.bar = none)
        ∧ ∃ x ∈ t.entries, ∃ y ∈ t.entries, x.handle = h0 ∧ y.handle = h1 ∧ x.number = 0 ∧ y.number = 1
            ∧ x.cell = id ∧ y.cell = id ∧ x.owner = s.cur.pid ∧ y.owner = s.cur.pid ∧ x.live = true ∧ y.live = true)
    ∧ (s.rdE d = 0 → s.rdE a = 0 → s.newCell s.cur.part false .chan .proc .proc none = none →
        exec (.chnew d a) s = .next (s.takeTrap (.at .endpoint 0xFFFFFFFFFFFFFFFF)))
    ∧ (s.checkE a [1, 2, 3, 4, 5] = .ok (e, c) →
        (s.rdE d = 0 → d ≠ a → ∃ t, exec (.emov d a) s = .next t ∧ t.cur.ip = s.cur.ip + 4 ∧ t.rdE d = s.rdE a ∧ t.rdE a = 0
          ∧ (∀ k, k ≠ d → k ≠ a → t.rdE k = s.rdE k) ∧ t.entries = s.entries ∧ SameBytes s t
          ∧ t.cur.waitGen = s.cur.waitGen + 1)
        ∧ (s.rdE d ≠ 0 → d ≠ a → ∃ x : Word, exec (.emov d a) s
            = .next (s.takeTrap { cause := .endpoint, addr := x, detail := BitVec.ofNat 40 d.val }))
        ∧ (s.reach e c = .ok () → ∃ t, exec (.einfo r a) s = .next t ∧ t.cur = ((s.wr r (infoWord e c)).next 4).cur
          ∧ t.cells = s.cells ∧ t.entries = s.entries ∧ (Calm s → SameBytes s t)))
    ∧ (s.rdE a = 0 → exec (.einfo r a) s = put s r 0 4
        ∧ exec (.emov d a) s = .next (s.takeTrap { cause := .endpoint, addr := 0, detail := BitVec.ofNat 40 a.val }))
    ∧ (s.rdE a ≠ 0 → s.entryOf s.cur.part s.cur.pid (s.rdE a) = none →
        exec (.einfo r a) s = put s r (7 <<< 61) 4)
    ∧ (s.rdE d = 0 →
        ((s.rd r).toNat < 2 ∨ 4096 < (s.rd r).toNat → exec (.brnew d r) s = .next (s.takeTrap (.at .illegal 0)))
        ∧ (2 ≤ (s.rd r).toNat → (s.rd r).toNat ≤ 4096 →
            s.newCell s.cur.part false .chan .proc .proc
              (some { n := (s.rd r).toNat, k := 1, lower := 0, phase := 0, arrived := 0 }) = some (u, id) →
            u.newEntry s.cur.part false id 0 s.cur.pid = some (v, h0) → u.cell? id = some c → v.reachCell c = .ok () →
            v.reachHandle s.cur.part c h0 = .ok () →
            ∃ t, exec (.brnew d r) s = .next t ∧ t.cur.ip = s.cur.ip + 4 ∧ t.rdE d = h0 ∧ (∀ k, t.rd k = s.rd k)
              ∧ (∃ n ∈ t.cells, n.id = id
                  ∧ n.bar = some { n := (s.rd r).toNat, k := 1, lower := 0, phase := 0, arrived := 0 })
              ∧ ∃ x ∈ t.entries, x.handle = h0 ∧ x.number = 0 ∧ x.cell = id ∧ x.owner = s.cur.pid))
    ∧ (∀ b : Barrier, s.checkE a [2] = .ok (e, c) → s.rdE d = 0 → c.bar = some b →
        (b.n - b.lower ≤ b.k → ∃ x, exec (.brep d a) s
          = .next (s.takeTrap { cause := .endpoint, addr := x, detail := BitVec.ofNat 40 a.val }))
        ∧ (b.k < b.n - b.lower → s.newEntry s.cur.part false c.id (s.nextNumber c) s.cur.pid = some (u, h0) →
            s.reach e c = .ok () → u.reachHandle s.cur.part c h0 = .ok () →
            ∃ t, exec (.brep d a) s = .next t ∧ t.cur.ip = s.cur.ip + 4 ∧ t.rdE d = h0 ∧ (∀ k, t.rd k = s.rd k)
              ∧ (∃ n ∈ t.cells, n.id = c.id ∧ n.bar = some { b with k := b.k + 1 })
              ∧ ∃ x ∈ t.entries, x.handle = h0 ∧ x.cell = c.id ∧ x.owner = s.cur.pid))
    ∧ (u = s.release → u.checkE a [1, 2, 3, 4, 5] = .ok (e, c) → u.reach e c = .ok () →
        exec (.chclose a) s = .next ((((u.wrE a 0).closeEntry e).next 4).reached e c))

/-- R348, R349: CHNEW, EMOV, EINFO, BRNEW, BREP and CHCLOSE each retire with their effect on the registers they name. -/
def Sys2Proof.Claims.EndpointsCompletePart : Prop :=
  ∀ (s u v : State) (d x : EReg) (r : SReg) (h0 h1 : Word32) (id : Nat) (e : Entry) (c : Cell) (b : Barrier),
    let past := fun (t : State) => t.cur.ip = s.cur.ip + 4 ∧ ∀ k, t.rd k = s.rd k
    (s.rdE d = 0 → s.rdE x = 0 → d ≠ x → s.newChannel s.cur.part s.cur.pid s.cur.pid = .ok (u, h0, h1, id) →
      ∃ t, exec (.chnew d x) s = .next t ∧ past t ∧ t.rdE d = h0 ∧ t.rdE x = h1)
    ∧ (s.checkE x [1, 2, 3, 4, 5] = .ok (e, c) → s.rdE d = 0 → d ≠ x →
      ∃ t, exec (.emov d x) s = .next t ∧ past t ∧ t.rdE d = s.rdE x ∧ t.rdE x = 0)
    ∧ (s.rdE x = 0 → exec (.einfo r x) s = put s r 0 4)
    ∧ (s.checkE x [1, 2, 3, 4, 5] = .ok (e, c) → s.reach e c = .ok () →
      ∃ t, exec (.einfo r x) s = .next t ∧ t.cur.ip = s.cur.ip + 4 ∧ (r ≠ 0 → t.rd r = infoWord e c) ∧ SameBut r s t)
    ∧ (s.rdE d = 0 → 2 ≤ (s.rd r).toNat → (s.rd r).toNat ≤ 4096 →
      s.newCell s.cur.part false .chan .proc .proc
        (some { n := (s.rd r).toNat, k := 1, lower := 0, phase := 0, arrived := 0 }) = some (u, id) →
      u.newEntry s.cur.part false id 0 s.cur.pid = some (v, h0) → u.cell? id = some c → v.reachCell c = .ok () →
      v.reachHandle s.cur.part c h0 = .ok () → ∃ t, exec (.brnew d r) s = .next t ∧ past t ∧ t.rdE d = h0)
    ∧ (s.checkE x [2] = .ok (e, c) → s.rdE d = 0 → c.bar = some b → b.k < b.n - b.lower →
      s.newEntry s.cur.part false c.id (s.nextNumber c) s.cur.pid = some (u, h0) → s.reach e c = .ok () →
      u.reachHandle s.cur.part c h0 = .ok () → ∃ t, exec (.brep d x) s = .next t ∧ past t ∧ t.rdE d = h0)
    ∧ (s.cur.stores = [] → s.checkE x [1, 2, 3, 4, 5] = .ok (e, c) → s.reach e c = .ok () → c.bar = none →
      (c.side (!(e.side c))).post = none →
      ∃ t, exec (.chclose x) s = .next t ∧ past t ∧ t.rdE x = 0)

/-- R318 to R322, R348, R349: CHNEW, EMOV, EINFO, BRNEW, BREP, CHCLOSE on registers that pass their checks, with a
cell and entries free; and what they take where a check fails. R348, R349: CHNEW, EMOV, EINFO, BRNEW, BREP and CHCLOSE
each retire with their effect on the registers they name. That CHNEW, EMOV, EINFO, BRNEW and BREP act without waiting for older
stores is the model's choice (log 7). -/
def Obligations.EndpointForms : Prop := Claims.EndpointFormsPart ∧ Claims.EndpointsCompletePart

/-- R325, R326, R350 to R352, R367: a channel form that passes its checks posts its operation, after every older store of the
context has performed, and at a host endpoint or a peer end once those to host and peer memory are complete. Where its cell
decides nothing yet the context is blocked there, IP and registers as they were; where the cell decides, that happens at
once. -/
def Sys2Proof.Claims.PostingFormsPart : Prop :=
  ∀ (i : Instr) (s : State) (x : EReg) (kinds : List Nat) (op : Posted) (g : Option TGrp) (e : Entry) (c : Cell),
    posting s i = some (x, kinds, op, g) →
    let u := s.release
    let w := (u.releaseAt c).post c.id (e.side c) op
    u.checkE x kinds = .ok (e, c) → (∀ a, g = some a → Clean u a) → u.reach e c = .ok () →
    (∀ t, w.settle c.id = some t → exec i s = .next (t.reached e c))
    ∧ (w.settle c.id = none → ∃ t, exec i s = .next t ∧ t.cur.wait = .op c.id (e.side c) ∧ t.cur.ip = u.cur.ip
        ∧ (∀ r, t.rd r = u.rd r) ∧ t.cur.t = u.cur.t ∧ (Calm u → SameBytes u t)
        ∧ ((c.kind = .host ∨ c.kind = .peer) → ∀ o ∈ t.outbox, o.pid ≠ u.cur.pid))

/-- R348: SENDE and RECVE check both registers, then post; RECVE takes ENDPOINT where E[d] is not empty. -/
def Sys2Proof.Claims.HandleFormsPart : Prop :=
  ∀ (s : State) (d a b : EReg) (e : Entry) (c : Cell),
    let u := s.release
    u.checkE a [1] = .ok (e, c) → u.reach e c = .ok () →
    let posted := fun (op : Posted) => ((((u.releaseAt c).post c.id (e.side c) op).settled c.id).reached e c)
    (∀ f k, u.useE b = .ok (f, k) → exec (.sende a b) s = .next (posted (.sende b)))
    ∧ (u.rdE b = 0 → exec (.sende a b) s
        = .next (u.takeTrap { cause := .endpoint, addr := 0, detail := BitVec.ofNat 40 b.val }))
    ∧ (u.rdE d = 0 → exec (.recve d a) s = .next (posted (.recve d)))
    ∧ (u.rdE d ≠ 0 → ∃ x, exec (.recve d a) s
        = .next (u.takeTrap { cause := .endpoint, addr := x, detail := BitVec.ofNat 40 d.val }))

/-- R325, R326, R350 to R352: a channel form that passes its checks posts its operation, after every older store of
the context has performed. Where its cell decides nothing yet the context is blocked there, IP and registers as they
were; where the cell decides, that happens at once. R348: SENDE and RECVE check both registers, then post; RECVE takes
ENDPOINT where E[d] is not empty. -/
def Obligations.PostingForms : Prop := Claims.PostingFormsPart ∧ Claims.HandleFormsPart

/-- R326, R327, R331, R348: when the two ends of an open channel hold a pair, both instructions complete: the scalar, the
handle with its owner, the pages, or the exchanged value arrive; no store is made. -/
def Sys2Proof.Claims.RendezvousResultsPart : Prop :=
  ∀ (s : State) (c : Cell) (p q : Proc) (x y : Posted), Facing s c p q x y →
    (∀ v d, x = .send v → y = .recv d → ∃ t, exec (.rendezvous c.id) s = .next t ∧ SameBytes s t
      ∧ WentOn t p 4 (fun r => ∀ k, r.rd k = p.rd k)
      ∧ WentOn t q 4 (fun r => (d ≠ 0 → r.rd d = v) ∧ ∀ k, k ≠ d → r.rd k = q.rd k))
    ∧ (∀ v d, x = .recv d → y = .send v → ∃ t, exec (.rendezvous c.id) s = .next t ∧ SameBytes s t
      ∧ WentOn t q 4 (fun r => ∀ k, r.rd k = q.rd k)
      ∧ WentOn t p 4 (fun r => (d ≠ 0 → r.rd d = v) ∧ ∀ k, k ≠ d → r.rd k = p.rd k))
    ∧ (∀ b d, x = .sende b → y = .recve d → EntryNear s p b → HandlePasses s c p q b d)
    ∧ (∀ b d, x = .recve d → y = .sende b → EntryNear s q b → HandlePasses s c q p b d)
    ∧ (∀ w src pages d, x = .sendt w src → y = .recvt d → s.srcPages (some p.pid) src = .ok (s, pages) → w = d.w →
      TilesPass s c p q d pages)
    ∧ (∀ w src pages d, x = .recvt d → y = .sendt w src → s.srcPages (some q.pid) src = .ok (s, pages) → w = d.w →
      TilesPass s c q p d pages)
    ∧ (∀ f m n d e, x = .xcol f m d → y = .xcol f n e → ∃ t, exec (.rendezvous c.id) s = .next t ∧ SameBytes s t
      ∧ WentOn t p 4 (fun r => (d ≠ 0 → r.rd d = (exchangeValue f m n).1) ∧ r.fcsr = p.fcsr ||| (exchangeValue f m n).2.fcsr)
      ∧ WentOn t q 4 (fun r => (e ≠ 0 → r.rd e = (exchangeValue f n m).1)
          ∧ r.fcsr = q.fcsr ||| (exchangeValue f n m).2.fcsr))
    ∧ (∀ x1 y1 d e r t, s.loaded (some p.pid) x = .ok (s, x1) → s.loaded (some q.pid) y = .ok (s, y1) →
      pairBoth x1 y1 = some (.tx d e r) → s.settle c.id = some t →
      TGrp.ok d = true → TGrp.ok e = true → x1.pages.length = TGrp.n d → y1.pages.length = TGrp.n e →
      exec (.rendezvous c.id) s = .next t ∧ SameBytes s t
      ∧ WentOn t p 8 (fun z => z.tcsr = p.tcsr ||| r.2.tcsr ∧ ∀ k (h : k < (withPoison y1.pages r.1).length), ∃ f ∈ t.pages,
          z.tref (d.base.val + k) = .pool f.id ∧ f.page = (withPoison y1.pages r.1)[k])
      ∧ WentOn t q 8 (fun z => z.tcsr = q.tcsr ||| r.2.tcsr ∧ ∀ k (h : k < (withPoison x1.pages r.1).length), ∃ f ∈ t.pages,
          z.tref (e.base.val + k) = .pool f.id ∧ f.page = (withPoison x1.pages r.1)[k]))

/-- R326: two operations that form no pair take CHMISMATCH, both, and leave the cell open and empty. -/
def Sys2Proof.Claims.MismatchRulePart : Prop :=
  ∀ (s : State) (c : Cell) (p q : Proc) (x y x1 y1 : Posted), Facing s c p q x y →
    s.loaded (some p.pid) x = .ok (s, x1) → s.loaded (some q.pid) y = .ok (s, y1) →
    pairOne x1 y1 = none → pairOne y1 x1 = none → pairBoth x1 y1 = none → p.sup = false → q.sup = false →
    p.faulted = false → q.faulted = false →
    ∃ t, exec (.rendezvous c.id) s = .next t
      ∧ (∃ n, t.cell? c.id = some n ∧ n.end0.post = none ∧ n.end1.post = none ∧ n.end0.closed = false ∧ n.end1.closed = false)
      ∧ ∀ o ∈ [p, q], ProcAt t o.pid (fun r => r.faulted = true ∧ r.held = true ∧ r.wait = .none ∧ r.ip = o.rollback.ip
          ∧ r.record.map (fun z => (z.cause, z.addr)) = some (.chmismatch, c.word))

/-- R326, R332: TXMAX and TXSUM of one type and width, and TXMRG of one width, pair with their own form. Each result element is
the larger of the two, or their exact sum rounded once by RNE, wrapped for an integer type; TXMRG gives each row what VRMRG gives
its first page's row, +0 in the other elements. The pages have the type TI, or F32, and scales 0x0FE. -/
def Sys2Proof.Claims.TileExchangePart : Prop :=
  (∀ (ti : Ty) (d e : TGrp) (a b : List Page), d.w = e.w →
    pairBoth (.txmax d ti (.held a)) (.txmax e ti (.held b)) = some (.tx d e (exchangeTiles ti false a b))
    ∧ pairBoth (.txsum d ti (.held a)) (.txsum e ti (.held b)) = some (.tx d e (exchangeTiles ti true a b))
    ∧ pairBoth (.txmrg d (.held a)) (.txmrg e (.held b)) = some (.tx d e (exchangeMerge a b)))
  ∧ (∀ (ti : Ty) (w : Fin 4) (a b : List Page) (r c : Nat), a.length = 2 ^ w.val → b.length = 2 ^ w.val → r < 64 →
    c < elemsPerRow ti (2 ^ w.val) →
    let u := elemAt ti a r c
    let v := elemAt ti b r c
    let got := fun (sum : Bool) => elemAt ti (exchangeTiles ti sum a b).1 r c
    (ti.isFloat = true →
      got false = toF ti .rne false ((elemValue ti u).max (elemValue ti v))
      ∧ got true = toF ti .rne false (exactSum [elemValue ti u, elemValue ti v]))
    ∧ (ti.isFloat = false →
      got false = (if intOf ti u < intOf ti v then v else u)
      ∧ got true = ((intOf ti u + intOf ti v) % 2 ^ ti.bits).toNat)
    ∧ ∀ sum, ∀ g ∈ (exchangeTiles ti sum a b).1, g.ftype = ti.code ∧ g.poison = false
        ∧ ∀ j, j < ti.blocks → scaleAt [g] ti.blocks r j = 0x0FE)
  ∧ (∀ (p q : Page) (a b : List Page) (r c : Nat), a.length = b.length → r < 64 →
    c < elemsPerRow .f32 (a.length + 1) →
    elemAt .f32 (exchangeMerge (p :: a) (q :: b)).1 r c
        = (if c < 2 then elemAt .f32 (vecMerge [p] [q]).1 r c else 0)
    ∧ ∀ g ∈ (exchangeMerge (p :: a) (q :: b)).1, g.ftype = Ty.f32.code ∧ g.poison = false
        ∧ ∀ j, j < Ty.f32.blocks → scaleAt [g] Ty.f32.blocks r j = 0x0FE)

/-- R326, R327, R331, R332, R348: when the two ends of an open channel hold a pair, either way round, both instructions complete:
the scalar, the handle with its owner, the pages, or the exchanged value arrive; no store is made. R326: two operations that form
no pair take CHMISMATCH, both, and leave the cell open and empty. -/
def Obligations.RendezvousResults : Prop :=
  Claims.RendezvousResultsPart ∧ Claims.MismatchRulePart ∧ Claims.TileExchangePart

/-- R331: the value an XCOL gives, and that the exchange is symmetric: both parties receive the same bits and flags, XSWP
apart. -/
def Obligations.ExchangeValues : Prop :=
  ∀ (x y : Word),
    let f := fun (v : Word) => elemValue .f32 (v.toNat % 2 ^ 32)
    let enc := fun (e : Exact) => BitVec.ofNat 64 (roundFloat .f32 .rne false e).1
    exchangeValue .sumi x y = (x + y, Flags.none) ∧ exchangeValue .swp x y = (y, Flags.none)
    ∧ exchangeValue .maxi x y = (if x.toInt ≤ y.toInt then y else x, Flags.none)
    ∧ exchangeValue .sumf x y = ((roundFloat .f32 .rne false (exactSum [f x, f y])).1 |> BitVec.ofNat 64,
        (roundFloat .f32 .rne false (exactSum [f x, f y])).2)
    ∧ exchangeValue .maxf x y = (enc ((f x).max (f y)), Flags.none)
    ∧ exchangeValue .minf x y = (enc ((f x).min (f y)), Flags.none)
    ∧ ∀ g, g ≠ .swp → exchangeValue g x y = exchangeValue g y x

/-- R339, R340: an ARRIVE counts once per endpoint and phase, a second one waits; AWAIT waits exactly where its endpoint
has arrived; the last arrival completes the phase, and BSYNC waits for that phase. -/
def Obligations.BarrierResults : Prop :=
  ∀ (s : State) (a : EReg) (e : Entry) (c : Cell) (b : Barrier),
    let u := s.release
    u.checkE a [2] = .ok (e, c) → u.reach e c = .ok () → c.bar = some b → u.cur.pid ≠ 0 → u.cur.isResident = true →
    u.pausedCore u.cur.pid = none →
    (e.arrived = true →
      exec (.arrive a) s = .next ((u.blockOn (.barrierArrive e.index)).reached e c)
      ∧ exec (.await a) s = .next ((u.blockOn (.barrierAwait e.index)).reached e c)
      ∧ exec (.bsync a) s = .next ((u.blockOn (.barrierSync e.index)).reached e c))
    ∧ (e.arrived = false → exec (.await a) s = .next ((u.next 4).reached e c)
      ∧ (b.arrived + 1 < b.n →
          (∃ t, exec (.arrive a) s = .next t ∧ t.cur.ip = u.cur.ip + 4 ∧ t.cur.wait = u.cur.wait
            ∧ (t.cell? c.id).bind Cell.bar = some { b with arrived := b.arrived + 1 })
          ∧ (∃ t, exec (.bsync a) s = .next t ∧ t.cur.ip = u.cur.ip ∧ t.cur.wait = .barrierAwait e.index
            ∧ (t.cell? c.id).bind Cell.bar = some { b with arrived := b.arrived + 1 }))
      ∧ (b.n ≤ b.arrived + 1 → u.barWaiters c.id = [] → u.cur.wait = .none →
          (∃ t, exec (.arrive a) s = .next t ∧ t.cur.ip = u.cur.ip + 4
            ∧ (t.cell? c.id).bind Cell.bar
                = some { n := b.n - b.lower, k := b.k, lower := 0, phase := b.phase + 1, arrived := 0 })
          ∧ (∃ t, exec (.bsync a) s = .next t ∧ t.cur.ip = u.cur.ip + 4 ∧ t.cur.wait = .none
            ∧ (t.cell? c.id).bind Cell.bar
                = some { n := b.n - b.lower, k := b.k, lower := 0, phase := b.phase + 1, arrived := 0 })))

/-- R333 to R337: ALT with no posted arm, ALT that finds a ready arm whose partner is no ALT, POLL that finds none, and ALT
that waits. -/
def Sys2Proof.Claims.AltResultsPart : Prop :=
  ∀ (s : State) (d a : SReg) (b : EReg) (arms dirs prio : BitVec 8) (poll : Bool),
    let posted := altArms b arms dirs ((s.rd a).setWidth 8)
    let u := s.release
    let alt := exec (.alt d a b arms dirs prio poll) s
    (posted = [] → alt = put s d 0xFFFFFFFFFFFFFFFF 8)
    ∧ ∀ l : List (Nat × Bool × Entry × Cell), posted ≠ [] → u.altChecks posted = .ok l → u.altReach l = .ok () →
      let v := l.foldl (fun s x => s.releaseAt x.2.2.2) u
      let ready := (l.filter (fun x => v.armNow x.2.2.2 (x.2.2.1.side x.2.2.2) x.2.1)).map Prod.fst
      (altChoice u.cur.altLast prio ready = none → poll = true →
          ∃ t, alt = .next t ∧ t.cur = ((u.wr d 0xFFFFFFFFFFFFFFFF).next 8).cur ∧ t.cells = u.cells ∧ (Calm u → SameBytes u t))
      ∧ (altChoice u.cur.altLast prio ready = none → poll = false →
          ∃ t, alt = .next t ∧ t.cur.wait = .alt d b arms dirs prio .unclaimed ∧ t.cur.ip = u.cur.ip
            ∧ (∀ r, t.rd r = u.rd r) ∧ (Calm u → SameBytes u t))
      ∧ (∀ i x, altChoice u.cur.altLast prio ready = some i → l.find? (fun x => x.1 == i) = some x →
          x.2.2.2.offerArm (!(x.2.2.1.side x.2.2.2)) = none → u.cur.pid ≠ 0 → u.cur.isResident = true → u.pausedCore u.cur.pid = none →
          ∃ t, alt = .next t ∧ t.cur.ip = u.cur.ip + 8 ∧ t.cur.wait = .none
            ∧ (d ≠ 0 → t.rd d = BitVec.ofNat 64 i) ∧ (∀ r, r ≠ d → t.rd r = u.rd r) ∧ t.cur.altLast = Fin.ofNat 8 i
            ∧ (Calm u → SameBytes u t))

/-- R335: the choice among ready arms takes a high-priority one if any is ready, and within a class the first at or after
the one chosen last plus 1, wrapping from 7 to 0. -/
def Sys2Proof.Claims.AltChoiceRulePart : Prop :=
  ∀ (last : Fin 8) (prio : BitVec 8) (ready : List Nat), (∀ i ∈ ready, i < 8) →
    (ready = [] ↔ altChoice last prio ready = none)
    ∧ ∀ i, altChoice last prio ready = some i →
      i ∈ ready ∧ ∀ j ∈ ready, (prio.getLsbD j = true → prio.getLsbD i = true)
        ∧ (prio.getLsbD j = prio.getLsbD i → (i + 7 - last.val) % 8 ≤ (j + 7 - last.val) % 8)

/-- R334: two ALTs that offer the two ends of a cell, the first of the lower PID. The claim of the cell takes the lower PID's key
for now, where that is unclaimed; then the higher PID's, and both ALTs return their arm. No other cell claims here. -/
def Sys2Proof.Claims.TwoClaimsPart : Prop :=
  ∀ (s : State) (c : Cell) (p q : Proc) (a b : Fin 8) (isSend : Bool) (d e : SReg) (x y : EReg)
    (arms dirs prio arms' dirs' prio' : BitVec 8) (k : Key),
    s.cell? c.id = some c → s.endOwner c false = some p.pid → s.proc? p.pid = some p → s.endOwner c true = some q.pid →
    s.proc? q.pid = some q → p.pid < q.pid → p.isResident = true → q.isResident = true →
    c.offerArm false = some (a, isSend) → c.offerArm true = some (b, !isSend) → c.end0.bound = false → c.end1.bound = false →
    p.wait = .alt d x arms dirs prio k → q.wait = .alt e y arms' dirs' prio' .unclaimed →
    (∀ z ∈ s.cells, z.id ≠ c.id → s.claimOf z = none) →
    (k = .unclaimed → ∃ t, exec (.claim c.id) s = .next t ∧ SameBytes s t ∧ t.cells = s.cells
      ∧ t.proc? p.pid = some { p with wait := .alt d x arms dirs prio (.provisional c.id) } ∧ t.proc? q.pid = some q)
    ∧ (k = .provisional c.id → s.pausedCore p.pid = none → s.pausedCore q.pid = none →
      ∃ t, exec (.claim c.id) s = .next t ∧ SameBytes s t
        ∧ WentOn t p 8 (fun r => (d ≠ 0 → r.rd d = BitVec.ofNat 64 a.val) ∧ (∀ k, k ≠ d → r.rd k = p.rd k) ∧ r.altLast = a)
        ∧ WentOn t q 8 (fun r => (e ≠ 0 → r.rd e = BitVec.ofNat 64 b.val) ∧ (∀ k, k ≠ e → r.rd k = q.rd k) ∧ r.altLast = b))

/-- R333 to R337: ALT with no posted arm, ALT that finds a ready arm whose partner is no ALT, POLL that finds none,
and ALT that waits. R335: the choice among ready arms takes a high-priority one if any is ready, and within a class
the first at or after the one chosen last plus 1, wrapping from 7 to 0. R334: two ALTs bind through one cell, the lower PID's key
first. -/
def Obligations.AltResults : Prop := Claims.AltResultsPart ∧ Claims.AltChoiceRulePart ∧ Claims.TwoClaimsPart

/-- R334: a claim for the one offer of a cell whose partner is ready is granted where the key is unclaimed: the ALT returns
its arm, the partner's operation stays posted, the end is bound, and no offer of that ALT is left in any cell, as of every
ALT whose key is spent. A claim that reaches a key provisional at another cell waits: the state stays (log 59). -/
def Obligations.ClaimChoosesArm : Prop :=
  ∀ (s : State) (c : Cell) (p : Proc) (arm : Fin 8) (isSend : Bool),
    s.cell? c.id = some c → s.endOwner c false = some p.pid → s.proc? p.pid = some p → c.offerArm false = some (arm, isSend) →
    c.offerArm true = none → s.armReady c false isSend = true →
    (∀ d b arms dirs prio, p.wait = .alt d b arms dirs prio .unclaimed → p.isResident = true → s.pausedCore p.pid = none →
      s.ownerMoving c true = false → (∀ x ∈ s.cells, x.id ≠ c.id → s.claimOf x = none) →
      ∃ t, exec (.claim c.id) s = .next t ∧ SameBytes s t
        ∧ WentOn t p 8 (fun r => (d ≠ 0 → r.rd d = BitVec.ofNat 64 arm.val) ∧ (∀ k, k ≠ d → r.rd k = p.rd k) ∧ r.altLast = arm)
        ∧ (t.cell? c.id).map (fun n => (n.end1.post, n.end0.post)) = some (c.end1.post, none)
        ∧ (c.end1.closed = false → (t.cell? c.id).map (fun n => n.end0.bound) = some true)
        ∧ ∀ x ∈ t.cells, ∀ side, t.endOwner x side = some p.pid → x.offerArm side = none)
    ∧ (∀ d b arms dirs prio k, p.wait = .alt d b arms dirs prio (.provisional k) → k ≠ c.id →
      (∀ x ∈ s.cells, x.id ≠ c.id → s.claimOf x = none) → exec (.claim c.id) s = .next s)

/-- R342, R407: a write of TMRCMP arms or disarms the timer it names; at its instant the CYCLE value of the expiry is held in
the timer's cell, with bit [63] set where one was held already. User mode takes PRIVILEGE (R25, R407). That timerArm and
timerDisarm stand for the register write apart from its MTSR's retirement is the model's reading (log 40). -/
def Obligations.TimerResults : Prop :=
  ∀ (s : State) (v : Word) (part i : Nat),
    (s.cur.sup = true → v.getLsbD 63 = true →
      exec (.timerArm v) s = .next (s.setTimer s.cur.part (Fin.ofNat 8 (v.toNat / 2 ^ 56 % 8))
        (some (s.cycle + (v &&& 0x00FFFFFFFFFFFFFF)))))
    ∧ (s.cur.sup = true → v.getLsbD 63 = false →
      exec (.timerDisarm v) s = .next (s.setTimer s.cur.part (Fin.ofNat 8 (v.toNat / 2 ^ 56 % 8)) none))
    ∧ (s.cur.sup = false → v.getLsbD 63 = true → exec (.timerArm v) s = .next (s.takeTrap (.at .privilege 0)))
    ∧ (∀ (w : Word) (c : Cell), i < 8 → ((s.part part).timer i).due = some w → w ≤ s.cycle → s.power = .on →
        s.cell? ((s.part part).timer i).cell = some c → c.end0.closed = false → c.end0.post = none → c.end1.post = none →
        ∃ t, exec (.timerExpiry part i) s = .next t ∧ SameBytes s t
          ∧ (t.cell? c.id).map (fun n => n.end0.held)
              = some (some (if c.end0.held.isSome then w ||| 0x8000000000000000 else w))
          ∧ (s.part? part ≠ none → ((t.part part).timer i).due = none))

/-- R343, R345, R346: a wait longer than DLTHR launches a detection; a probed process answers, a blocked one forwarding
along its edges; an answer that is not blocked ends the detection. -/
def Obligations.DeadlockEvents : Prop :=
  ∀ (s : State) (p : Proc) (d : Detect),
    (s.proc? p.pid = some p → s.launchDue p = true →
      ∃ t, exec (.detectionLaunch p.pid) s = .next t ∧ SameBytes s t
        ∧ t.detects = s.detects ++ [{ init := p.pid, round := 1, todo := [p.pid], answers := [], members := [], first := [] }]
        ∧ ProcAt t p.pid (fun q => q = { p with probeAt := s.cycle }))
    ∧ (s.proc? p.pid = some p → s.detects = [d] → p.pid ∈ d.todo →
      ∃ t n, exec (.probe d.init p.pid) s = .next t ∧ t.detects = [n] ∧ SameBytes s t
        ∧ n.answers = d.answers ++ [(p.pid, (s.answerOf p.pid).1, p.waitGen)] ∧ p.pid ∉ n.todo
        ∧ (p.wait = .none → p.stopped = false → p.faulted = false → p.held = false → (s.answerOf p.pid).1 = .proceeds)
        ∧ (p.wait ≠ .none → p.stopped = false → p.faulted = false → s.waitDecided p = true → (s.answerOf p.pid).1 = .proceeds)
        ∧ (p.wait = .none → ∀ x ∈ n.todo, x ∈ d.todo)
        ∧ (p.wait ≠ .none → p.stopped = false → p.faulted = false → s.waitDecided p = false → s.waitOutside p = false →
            (s.answerOf p.pid).1 = .blocked ∧ ∀ x ∈ s.waitEdges p, x ≠ p.pid →
              x ∈ n.todo ∨ (∃ m ∈ d.members, m.1 = x) ∨ ∃ y ∈ d.answers, y.1 = x))
    ∧ (∀ ans gen, s.detects = [d] → d.answers.find? (fun x => x.1 == p.pid) = some (p.pid, ans, gen) → ans ≠ .blocked →
      exec (.probeAnswer d.init p.pid) s = .next { s with detects := [] })

end

/-! ### Processes, system forms and traps (05_processes.md, 15_traps.md, 14_translation.md R385, 10_scratchpad.md R279) -/

section

open Sys2Proof Sys2Proof.Machine Sys2Proof.Claims

/-- R155 to R159, R297, R298: the read forms, SPRIO, GSET, YIELD and EXIT. -/
def Obligations.ProcessResults : Prop :=
  ∀ (s : State) (d a b : SReg) (g : GReg),
    exec (.pid d) s = put s d (s.cur.pid.setWidth 64) 4
    ∧ exec (.lcore d) s = put s d (BitVec.ofNat 64 s.cur.core) 4
    ∧ exec (.gprio d) s = put s d (s.cur.prio.setWidth 64) 4
    ∧ exec (.cycle d) s = put s d s.cycle 4
    ∧ exec (.part d) s = put s d (BitVec.ofNat 64 s.cur.part) 4
    ∧ exec (.sprio a) s = .next { s with cur := { s.cur with
        ip := s.cur.ip + 4
        prio := if s.curPart.ceiling.toNat < (s.rd a).toNat then s.curPart.ceiling else (s.rd a).setWidth 6 } }
    ∧ (∃ t, exec (.gset g a b) s = .next t ∧ t = { s with cur := { s.cur with ip := s.cur.ip + 4, g := t.cur.g } }
        ∧ (∀ r, r ≠ g → t.cur.g[r] = s.cur.g[r])
        ∧ t.geom g = { stride := ((s.rd a).setWidth 32).toInt, rows := (s.rd b).toNat % 128,
                       bytes := (s.rd b).toNat / 256 % 1024, zf := (s.rd b).getLsbD 18 })
    ∧ (∀ c k, s.cur.place = .resident c k →
        ((∀ p ∈ s.workPrios c, p < s.cur.prio) →
          ∃ t, exec .yield s = .next t ∧ t.cur = { s.cur with ip := s.cur.ip + 4 } ∧ SameBytes s t)
        ∧ ((∃ p ∈ s.workPrios c, s.cur.prio ≤ p) → s.cur.pid ≠ 0 → c < 90 → (s.core c).pause = none → s.cur.region = none →
          ∃ t, exec .yield s = .next t ∧ SameBytes s t
            ∧ ProcAt t s.cur.pid (fun q => q.place = .parked ∧ q.home = s.homeAt c ∧ q.ip = s.cur.ip + 4 ∧ q.held = s.cur.held))
        ∧ (s.cur.sup = false → exec (.exit a) s = .next { s with cur := { s.cur with
            ip := s.cur.ip + 4, exitCode := some (s.rd a), place := .exiting c k } }))
    ∧ (s.cur.sup = true → ∃ t, exec (.exit a) s = .next t
        ∧ (s.part? s.cur.part ≠ none → (t.part s.cur.part).ended = true)
        ∧ (s.host.events.length < 64 → t.host.events
            = s.host.events ++ [{ kind := 5, words := [s.cur.pid.setWidth 64, s.rd a] }]))

/-- R151, R265, R346: SPAWN pushes a record of its operands at the bottom of the deque of its core, gives E[D] the parent's
end of the join channel and moves the endpoints of MASK; a bad entry address traps before anything changes, no room for the
push stops it as SpillPart says, and no free slot takes SPFAULT. v, s2, s3 and s4 are the states after the room, the PID, the
channel and the cleared slot. -/
def Sys2Proof.Claims.SpawnFormPart : Prop :=
  ∀ (s v s2 s3 s4 : State) (d : EReg) (a b : SReg) (dom : Domain) (mask : BitVec 8) (child : Pid) (jp je : Word32)
    (cell : Nat),
    let u := s.release
    let x := s.rd a
    (x.toNat % 4 ≠ 0 → exec (.spawn d a b dom mask) s = .next (u.takeTrap (.at .misalign x)))
    ∧ (x.toNat % 4 = 0 → 2 ^ 52 ≤ x.toNat → exec (.spawn d a b dom mask) s = .next (u.takeTrap (.at .gprot x)))
    ∧ (x.toNat % 4 = 0 → x.toNat < 2 ^ 52 → u.movedOk (movedRegs mask) = .ok () →
      ((∃ i ∈ movedRegs mask, upperE i = d) ∨ u.emptyE d = .ok ()) → u.movedReach (movedRegs mask) = .ok () →
      (∀ t, u.roomForPush u.curCore = .error (.trap t) → exec (.spawn d a b dom mask) s = .next (u.takeTrap t))
      ∧ (u.roomForPush u.curCore = .error (.stall .spill) →
          exec (.spawn d a b dom mask) s = .next { u with cur := { u.cur with stall := .spill } })
      ∧ (u.roomForPush u.curCore = .ok v → v.newPid = (s2, child) → s2.newChannel s2.cur.part s2.cur.pid child = .ok (s3, jp, je, cell) →
        (s3.freeSpSlot s3.cur.part = none →
          exec (.spawn d a b dom mask) s = .next (u.takeTrap (.at .spfault 0xFFFFFFFFFFFFFFFF)))
        ∧ (∀ slot, s3.freeSpSlot s3.cur.part = some slot → s3.clearSlot s3.cur.part slot = .ok s4 → s4.curCore < 90 →
        ∃ t, exec (.spawn d a b dom mask) s = .next t ∧ t.cur.ip = s4.cur.ip + 4 ∧ t.rdE d = jp
          ∧ (∀ i ∈ movedRegs mask, upperE i ≠ d → t.rdE (upperE i) = 0) ∧ (Calm s4 → SameBytes s4 t)
          ∧ (mask ≠ 0 → t.cur.waitGen ≠ s4.cur.waitGen)
          ∧ ∃ r, (t.core s4.curCore).deque.getLast? = some r ∧ r.entry = x ∧ r.arg = s4.rd b ∧ r.pid = child
            ∧ r.prio = s4.cur.prio ∧ r.domain = Domain.min dom s4.curPart.domLimit ∧ r.origin = s4.curCore
            ∧ r.part = s4.cur.part ∧ r.join = .chan cell ∧ r.seq = (s4.core s4.curCore).seqNext ∧ r.spSlot = some slot
            ∧ ∀ i : Fin 8, r.moved[i] = if mask.getLsbD i.val then s4.rdE (upperE i) else 0)))

/-- R118 to R120: a push finds room where the deque has a free entry. Where it has none, the oldest record is written to the
first place of its partition's segment that no spilled record lies in, with its bytes; a segment whose every place holds one
makes the push wait, and one that faults gives GFAULT with the address. -/
def Sys2Proof.Claims.SpillPart : Prop :=
  ∀ (s : State) (c : Nat) (r : Rec), c < 90 →
    let k := s.core c
    let p := s.part r.part
    let place := fun (i : Nat) => s.areaXlate p (p.overflowAddr c i) 64 .write
    let taken := fun (pa : Nat) => ∃ a ∈ s.spillPlaces p.num, a < pa + 64 ∧ pa < a + 64
    (k.deque.length < 64 → s.roomForPush c = .ok s)
    ∧ (64 ≤ k.deque.length → k.oldest k.deque = some r →
      ((∀ i < p.dqovf.toNat % 4096 * 64, ∃ pa, place i = .ok pa ∧ taken pa) → s.roomForPush c = .error (.stall .spill))
      ∧ (∀ i < p.dqovf.toNat % 4096 * 64, (∀ j < i, ∃ pa, place j = .ok pa ∧ taken pa) →
        (∀ t, place i = .error t → s.roomForPush c = .error (.trap (.at .gfault t.addr)))
        ∧ (∀ pa, place i = .ok pa → ¬taken pa →
            ∃ t q, s.roomForPush c = .ok t ∧ (t.core c).deque = k.deque.filter (fun x => x.pid != r.pid)
              ∧ (t.core c).spilled = k.spilled ++ [q]
              ∧ q = { r with spill := some pa, spillVa := p.overflowAddr c i, seg := p.overflowAddr c 0, sealed := s.recBytes r }
              ∧ (s.memOk = true → pa + 64 ≤ hbmTop → t.physBytes pa 64 = s.recBytes r))))

/-- R151, R265, R346: SPAWN pushes a record of its operands at the bottom of the deque of its core, gives E[D] the parent's end
of the join channel and moves the endpoints of MASK. R118 to R120: a push that finds no free entry spills the oldest record, waits
or takes GFAULT. -/
def Obligations.SpawnResult : Prop := Claims.SpawnFormPart ∧ Claims.SpillPart

/-- R403 to R406, R40: NOP, BRK, TRAP, HALT, and PARK, RESUME, KILL, MIGR on a process of the partition, on none, and on the
caller; a KILL waits for a process that is exiting; in user mode the supervisor forms take PRIVILEGE. -/
def Obligations.SystemResults : Prop :=
  ∀ (s : State) (a b : SReg) (code : BitVec 20) (p : Pid),
    let own := s.rd a = s.cur.pid.setWidth 64
    let named := s.rd a = p.setWidth 64 ∧ (s.next 4).inPart s.cur.part p = true
    exec .nop s = .next (s.next 4)
    ∧ exec .brk s = .next (s.takeTrap (.at .brk s.cur.ip))
    ∧ exec (.trap code) s = .next (s.takeTrap { cause := .trapi, addr := 0, detail := code.setWidth 40 })
    ∧ (s.cur.sup = false → ∀ i ∈ [Instr.halt, .park a, .resume a, .migr a b, .kill a, .tlbi a b, .tlbia],
        exec i s = .next (s.takeTrap (.at .privilege 0)))
    ∧ (s.cur.sup = true →
      (∃ t, exec .halt s = .next t ∧ t.cur = { s.cur with ip := s.cur.ip + 4, halted := true, haltOp := true }
        ∧ (s.host.events.length < 64 → t.host.events
            = s.host.events ++ [{ kind := 2, words := [s.cur.pid.setWidth 64] }]))
      ∧ (own → (∀ i ∈ [Instr.park a, .resume a], exec i s = .next (s.takeTrap (.at .illegal 0)))
          ∧ (s.cur.isExiting = false → exec (.kill a) s = .next (s.takeTrap (.at .illegal 0))))
      ∧ (named → ¬own →
          exec (.park a) s = .next ((s.next 4).parkAny p)
          ∧ (s.exitsNow (s.rd a) = false → exec (.kill a) s = .next ((s.next 4).killAny p))
          ∧ (s.exitsNow (s.rd a) = true → exec (.kill a) s = .next s)
          ∧ exec (.resume a) s = .next ((s.next 4).release.resumeProc p))
      ∧ (¬own → (2 ^ 32 ≤ (s.rd a).toNat ∨ (s.rd a = p.setWidth 64 ∧ (s.next 4).inPart s.cur.part p = false)) →
          (∀ i ∈ [Instr.park a, .resume a, .kill a], exec i s = .next (s.next 4))
          ∧ ((s.rd b).toNat < 90 → exec (.migr a b) s = .next (s.next 4)))
      ∧ (90 ≤ (s.rd b).toNat → exec (.migr a b) s = .next (s.takeTrap (.at .illegal 0)))
      ∧ ((s.rd b).toNat < 90 → named → exec (.migr a b) s = .next ((s.next 4).migrate p (s.rd b).toNat)))

/-- R404, R132, R141: what PARK, RESUME, KILL and MIGR make of a process that is no deque record and whose core is in no
clock pause. That RESUME also takes up a halted parked process that is not held is the model's choice (log 21). -/
def Sys2Proof.Claims.ControlRulePart : Prop :=
  ∀ (s : State) (p : Proc), s.proc? p.pid = some p → s.queued? p.pid = none → s.pausedCore p.pid = none →
    (∀ c k, p.place = .resident c k → c < 90 →
      (∃ t, t = s.parkAny p.pid ∧ SameBytes s t ∧ (∀ h : k < 4, (t.core c).slots[k] = none)
        ∧ ProcAt t p.pid (fun q => q.place = .parked ∧ q.held = true ∧ q.home = s.homeAt c ∧ q.ip = p.rollback.ip ∧ q.rob = []))
      ∧ (∀ n, s.coreOnline n = true → s.affinityTarget p = none → ∃ t, t = s.migrate p.pid n ∧ SameBytes s t ∧ (∀ h : k < 4, (t.core c).slots[k] = none)
        ∧ ProcAt t p.pid (fun q => q.place = .moving c n ∧ q.ip = p.rollback.ip)))
    ∧ (p.place = .parked → (p.held = true ∨ p.faulted = true ∨ p.halted = true) → p.wait = .none → p.home < 90 →
      ∃ t, t = s.resumeProc p.pid ∧ SameBytes s t ∧ (p.imageOk = true → p.pid ∈ (t.core p.home).runq) ∧ .inl p.pid ∉ (t.part p.part).order
        ∧ ProcAt t p.pid (fun q => q.held = false ∧ q.faulted = false ∧ q.halted = false ∧ q.record = none ∧ q.ip = p.ip))
    ∧ (s.entries = [] → s.cur.pid ≠ p.pid → p.stores = [] → p.latch.sent = false → (∀ c k, p.place ≠ .exiting c k) →
      ∃ t, t = s.killAny p.pid ∧ SameBytes s t ∧ t.proc? p.pid = none
        ∧ (p.join = .root → s.host.events.length < 64 →
            t.host.events = s.host.events ++ [{ kind := 6, words := [p.pid.setWidth 64, 0, 1] }]))

/-- R370, R403 to R406, R385: FENCE, NOP, HALT, BRK, TRAP, PARK, RESUME, MIGR, KILL, TLBI and TLBIA each have their effect and,
the two traps apart, leave their context as it was with IP past them. -/
def Sys2Proof.Claims.ControlCompletesPart : Prop :=
  ∀ (s : State) (a b : SReg) (code : BitVec 20) (q : Proc),
    let went := fun (t : State) => t.cur = { s.cur with ip := s.cur.ip + 4 }
    (∀ eng kind sc, s.cur.latch.sent = false → s.cur.stores = [] → ∃ t, exec (.fence eng kind sc) s = .next t ∧ went t
      ∧ (s.curCore < 90 → (t.core s.curCore).l1d = []))
    ∧ (∃ t, exec .nop s = .next t ∧ went t ∧ SameBytes s t)
    ∧ (∀ c k, s.cur.pid ≠ 0 → s.cur.sup = false → s.cur.faulted = false → s.cur.place = .resident c k →
      ∀ i ∈ [(Instr.brk, Cause.brk, s.cur.ip, (0 : BitVec 40)), (.trap code, .trapi, 0, code.setWidth 40)],
        ∃ t, exec i.1 s = .next t ∧ ProcAt t s.cur.pid (fun p => p.place = .parked ∧ p.faulted = true ∧ p.held = true
          ∧ p.ip = s.cur.rollback.ip
          ∧ p.record.map (fun x => (x.cause, x.addr, x.detail)) = some (i.2.1, i.2.2.1, i.2.2.2)))
    ∧ (s.cur.sup = true →
      (∃ t, exec .halt s = .next t ∧ t.cur = { s.cur with ip := s.cur.ip + 4, halted := true, haltOp := true })
      ∧ (s.cur.latch.sent = false → (∀ p ∈ s.allProcs, p.stores = []) → s.requestsOut s.cur.part s.cur.pid = false →
          (∀ p ∈ s.allProcs, p.rob = []) → s.cur.rob = [] →
          ∀ i ∈ [Instr.tlbia, .tlbi a b], (i = .tlbi a b → (s.rd b).toNat = s.curPart.asid.toNat ∧ (s.rd a).toNat < 2 ^ 52) →
            ∃ t, exec i s = .next t ∧ went t ∧ SameBytes s t)
      ∧ (s.proc? q.pid = some q → q.pid ≠ s.cur.pid → q.part = s.cur.part → s.queued? q.pid = none →
          s.pausedCore q.pid = none → s.rd a = q.pid.setWidth 64 →
          (∀ c k, q.place = .resident c k →
            (∃ t, exec (.park a) s = .next t ∧ went t ∧ ProcAt t q.pid (fun p => p.place = .parked ∧ p.held = true))
            ∧ (∀ n, (s.rd b).toNat = n → s.coreOnline n = true → s.affinityTarget q = none →
                ∃ t, exec (.migr a b) s = .next t ∧ went t ∧ SameBytes s t ∧ ProcAt t q.pid (fun p => p.place = .moving c n)))
          ∧ (q.place = .parked → q.held = true → s.cur.stores = [] →
            ∃ t, exec (.resume a) s = .next t ∧ went t
              ∧ ProcAt t q.pid (fun p => p.held = false ∧ p.faulted = false ∧ p.halted = false ∧ p.record = none))
          ∧ ((∀ c k, q.place ≠ .exiting c k) → s.entries = [] → q.stores = [] → q.latch.sent = false →
            ∃ t, exec (.kill a) s = .next t ∧ went t ∧ t.proc? q.pid = none)))

/-- R404, R132, R141: what PARK, RESUME, KILL and MIGR make of a process that is no deque record and whose core is in no
clock pause (RESUME of a halted process that is not held: log 21). R370, R403 to R406, R385: FENCE, NOP, HALT, BRK, TRAP,
PARK, RESUME, MIGR, KILL, TLBI and TLBIA each have their effect and, the two traps apart, leave their context as it was with
IP past them. -/
def Obligations.ControlRule : Prop := Claims.ControlRulePart ∧ Claims.ControlCompletesPart

/-- R387, R392 to R394: a trap of a resident user-mode process parks it, faulted and held, at its retirement boundary, frees
its slot, and makes a record of what happened; a supervisor's trap ends its partition and becomes host event 1; illegal
words and fetch faults take their traps. That word 1 of a fetch fault's record is 0, whichever word could not be fetched, is the
model's choice (log 20). -/
def Obligations.TrapEntry : Prop :=
  ∀ (s : State) (x : TrapInfo) (w0 w1 : Word32) (addr : Word),
    (∀ c k, s.cur.pid ≠ 0 → s.cur.sup = false → s.cur.faulted = false → s.cur.place = .resident c k → c < 90 →
      ∃ t, t = s.takeTrap x ∧ SameBytes s t ∧ (∀ h : k < 4, (t.core c).slots[k] = none)
        ∧ (s.part? s.cur.part ≠ none → .inl s.cur.pid ∈ (t.part s.cur.part).order)
        ∧ ProcAt t s.cur.pid (fun q => q.place = .parked ∧ q.faulted = true ∧ q.held = true ∧ q.home = s.homeAt c
            ∧ q.ip = s.cur.rollback.ip ∧ q.s = s.cur.rollback.s ∧ q.rob = []
            ∧ q.record = some
                { lost := 0, cause := x.cause, part := s.cur.part, pid := s.cur.pid, ip := s.cur.rollback.ip, addr := x.addr
                  iw0 := s.cur.iw0, iw1 := s.cur.iw1, latch0 := s.cur.latch.word0, latch1 := s.cur.latch.word1
                  cycle := s.cycle, lcore := c, detail := x.detail, report := [] }))
    ∧ (s.cur.pid ≠ 0 → s.cur.sup = true → s.cur.faulted = false → s.cur.isExiting = false →
      ∃ t, t = s.takeTrap x ∧ SameBytes s t ∧ (s.part? s.cur.part ≠ none → (t.part s.cur.part).ended = true)
        ∧ (s.host.events.length < 64 → ∃ w, t.host.events = s.host.events ++ [{ kind := 1, words := w }]))
    ∧ exec (.illegalEncoding w0 w1) s = .next ((s.setWords w0 w1).takeTrap (.at .illegal 0))
    ∧ ∀ c ∈ [Cause.gfault, .gprot, .poison, .memoff],
        exec (.instructionFetchFault c addr w0) s = .next ((s.setWords w0 0).takeTrap (.at c addr))

/-- R279 to R282: STTW and STTI with operands that pass their checks, their traps, and the entry that each STTW request
makes of an entry. The dirty and saved bits that a request keeps where the table does not name them, and what leftEntry keeps,
are the model's choice (log 30). -/
def Obligations.TableForms : Prop :=
  (∀ (s s1 s2 s3 : State) (a b : SReg) (p : Proc) (e : Word),
    let x := s.rd a
    let v := s.rd b
    let op := v.toNat % 8
    let pg := x.toNat / 4096
    s.sttExists = .ok p →
    ((op = 7 ∨ v.toNat / 8 % 8 ≠ 0 ∨ v.toNat / 256 % 16 ≠ 0) → exec (.sttw a b) s = .next (s.takeTrap (.at .illegal 0)))
    ∧ (op ≠ 7 → v.toNat / 8 % 8 = 0 → v.toNat / 256 % 16 = 0 → x.toNat % 4096 = 0 → x.toNat < 2 ^ 24 →
      (op = 5 → s.cur.sup = false → exec (.sttw a b) s = .next (s.takeTrap (.at .privilege 0)))
      ∧ ((op = 5 → s.cur.sup = true) → (op = 1 ∨ op = 3 ∨ op = 6 → v.toNat < 2 ^ 52) → s.sttGet p.pid pg = .ok (s1, e) →
        (op = 6 → sttState e = 2 ∨ sttState e = 3) → s1.sttwCopy p pg op = .ok s2 →
        s2.sttPut p.pid pg (sttwEntry e v) = .ok s3 → exec (.sttw a b) s = .next ((s3.sttChanged p.pid pg).next 4)))
    ∧ (x.toNat % 4096 = 0 → x.toNat < 2 ^ 24 → s.sttGet p.pid pg = .ok (s1, e) →
      (sttState e ≠ 3 → exec (.stti a) s = .next ((s1.sttChanged p.pid pg).next 4))
      ∧ (sttState e = 3 → (if sttDirty e then s1.release.writeBack p.pid pg e s.curCore else .ok s1) = .ok s2 →
        (s2.dropCopy p.pid pg).sttPut p.pid pg (leftEntry e) = .ok s3 →
        exec (.stti a) s = .next ((s3.sttChanged p.pid pg).next 4)))
    ∧ (x.toNat % 4096 ≠ 0 → exec (.stti a) s = .next (s.takeTrap (.at .misalign x))))
  ∧ ∀ (e v : Word),
    let op := v.toNat % 8
    let n := sttwEntry e v
    op ≠ 7 → sttR n = v.getLsbD 7 ∧ sttW n = v.getLsbD 6
    ∧ sttState n = (if op < 4 then op else if op = 4 then sttState e else if op = 6 then 3
        else if sttState e = 1 ∨ sttState e = 3 ∨ sttState e = 5 then 5 else 4)
    ∧ sttBacking n = (if op = 1 ∨ op = 3 ∨ op = 6 then sttBacking v else if op = 4 ∨ op = 5 then sttBacking e else 0)
    ∧ sttDirty n = (decide (op = 3 ∨ op = 6) || sttDirty e)
    ∧ sttSaved n = (!decide (op = 1 ∨ op = 3 ∨ op = 6) && sttSaved e)

/-- R369, R370, R371, R291, R367: a FENCE waits while the latch holds a request that its kind waits for; else it retires:
IP moves on, with the stores it waits for performed and the core's L1 data cache empty; LOADS waits for no store, STORES and
ALL for the scalar ones, with the engines bit for the tile stores too, and at SYS scope those to the links are complete. -/
def Obligations.FenceRule : Prop :=
  ∀ (s : State) (eng : Bool) (kind : FenceKind) (sc : Scope),
    let l := s.cur.latch
    let u := s.fenceDrain kind eng sc
    let waits := l.sent = true ∧ ((kind = .loads ∧ l.kind ≠ 3 ∧ l.done = false) ∨ (kind ≠ .loads ∧ (eng = true ∨ l.kind ≠ 3)))
    (waits → exec (.fence eng kind sc) s = .next s)
    ∧ (¬waits → ∃ t, exec (.fence eng kind sc) s = .next t ∧ t.cur = { u.cur with ip := u.cur.ip + 4 } ∧ t.mem = u.mem
        ∧ (u.curCore < 90 → (t.core u.curCore).l1d = [])
        ∧ (kind = .loads → t.cur = { s.cur with ip := s.cur.ip + 4 } ∧ SameBytes s t)
        ∧ (s.cur.stores = [] → t.cur = { s.cur with ip := s.cur.ip + 4 } ∧ (sc ≠ .sys ∨ s.outbox = [] → SameBytes s t))
        ∧ (kind ≠ .loads → s.cur.pid ≠ 0 → s.cells = [] → s.entries = [] →
            t.cur.ip = s.cur.ip + 4 ∧ (∀ r, t.rd r = s.rd r) ∧ (∀ st ∈ t.cur.stores, st.tile = true ∧ eng = false)
            ∧ (sc = .sys → ∀ o ∈ t.outbox, o.pid ≠ s.cur.pid)))

/-- R385: TLBI and TLBIA retire once no cached leaf of their scope is left on a die that is there and no other context of the
partition has a request on its way; while the retry latch holds a request they wait. -/
def Obligations.InvalidationRule : Prop :=
  ∀ (s : State) (a b : SReg), s.cur.sup = true → (∀ p ∈ s.allProcs, p.stores = []) →
    let asid := s.curPart.asid
    let gone := fun (t : State) (P : TEntry → Prop) =>
      (∀ c, s.coreOnline c = true → ∀ e ∈ (t.core c).tcache, ¬P e)
      ∧ (∀ q, q < 24 → s.dieAway (q / 12) = false → ∀ e ∈ (t.quad q).tcache, ¬P e)
    let done := fun (i : Instr) (P : TEntry → Prop) => ∃ t, exec i s = .next t
      ∧ t.cur = { s.cur with rob := t.cur.rob, ip := if s.requestsOut s.cur.part s.cur.pid then s.cur.ip else s.cur.ip + 4 }
      ∧ SameBytes s t ∧ gone t P
    (s.cur.latch.sent = true → exec .tlbia s = .next s)
    ∧ (s.cur.latch.sent = false → done .tlbia (fun e => e.asid = asid))
    ∧ ((s.rd b).toNat ≠ asid.toNat → exec (.tlbi a b) s = .next (s.takeTrap (.at .illegal 0)))
    ∧ ((s.rd b).toNat = asid.toNat →
      (2 ^ 52 ≤ (s.rd a).toNat → exec (.tlbi a b) s = .next (s.takeTrap (.at .illegal 0)))
      ∧ ((s.rd a).toNat < 2 ^ 52 → s.cur.latch.sent = true → exec (.tlbi a b) s = .next s)
      ∧ ((s.rd a).toNat < 2 ^ 52 → s.cur.latch.sent = false → done (.tlbi a b) (fun e => e.covers asid (s.rd a) = true)))

/-- R407, R408, R25: MFSR and MTSR of each register, the writes that are events of their own (that these are the MTSR's write
without its retirement is the model's reading, log 40), and what simple registers read after a write (R166, R95, R343, R135, R119,
R276, R263, R321, R396, R410, R441, R451; that IBP stores its low bits as 0 is the model's reading, log 72). -/
def Obligations.SystemRegisters : Prop :=
  (∀ (s : State) (d : SReg) (n : BitVec 15),
    (0x100 ≤ n.toNat → s.cur.sup = false →
      exec (.mfsr d n) s = .next (s.takeTrap (.at .privilege 0)) ∧ exec (.mtsr n d) s = .next (s.takeTrap (.at .privilege 0)))
    ∧ ((n.toNat < 0x100 ∨ s.cur.sup = true) →
      exec (.mfsr d n) s = put s d (s.sysRead n.toNat) 4
      ∧ (n.toNat = 0x110 ∧ s.cur.latch.sent = true → exec (.mtsr n d) s = .next s)
      ∧ (¬(n.toNat = 0x110 ∧ (s.cur.latch.sent = true ∨ s.requestsOut s.cur.part s.cur.pid = true)) →
          exec (.mtsr n d) s = .next ((s.next 4).sysWrite n.toNat (s.rd d)))))
  ∧ (∀ (s : State) (v : Word) (b : Fin 3) (n : BitVec 15),
    exec (.fcsrWrite v) s = .next (s.sysWrite 0x10 v)
    ∧ (s.cur.sup = true →
      (s.cur.latch.sent = false → s.requestsOut s.cur.part s.cur.pid = false → exec (.ptrootWrite v) s = .next (s.sysWrite 0x110 v))
      ∧ exec (.thrreasonWrite v) s = .next (s.sysWrite 0x130 v) ∧ exec (.bucketLevelWrite b v) s = .next (s.sysWrite (0x120 + b.val) v)
      ∧ exec (.dqovfWrite v) s = .next (s.sysWrite 0x102 v) ∧ exec (.spareaWrite v) s = .next (s.sysWrite 0x119 v)
      ∧ exec (.chareaWrite v) s = .next (s.sysWrite 0x11A v) ∧ exec (.imgareaWrite v) s = .next (s.sysWrite 0x11B v)
      ∧ exec (.linkcfgWrite v) s = .next (s.sysWrite 0x160 v)
      ∧ (sysWritable n.toNat = true → n.toNat ≠ 0x110 → exec (.registerWrite (.sys n) v) s = .next (s.sysWrite n.toNat v))))
  ∧ (∀ (s : State) (v : Word), s.part? s.cur.part ≠ none →
    let after := fun (n : Nat) => (s.sysWrite n v).sysRead n
    let p := s.curPart
    after 0x10 = BitVec.ofNat 64 (v.toNat % 64 + (if v.toNat / 256 % 8 ≤ 4 then v.toNat / 256 % 8 * 256 else 0))
    ∧ after 0x11 = v &&& 0x1F ∧ after 0x100 = v &&& 0xFFFFFFFF ∧ after 0x101 = v &&& 0x7F
    ∧ after 0x102 = v &&& 0x000FFFFFFFFFFFFF ∧ after 0x118 = v &&& 0x80000000FFFFFFFF
    ∧ (s.slotsInUse s.cur.part = false → after 0x119 = v &&& 0x000FFFFFFFFFFFFF ∧ after 0x11B = v &&& 0x000FFFFFFFFFF001)
    ∧ (s.slotsInUse s.cur.part = true →
        after 0x119 = (p.sparea &&& 0x000FFFFFFFFF8000) ||| (v &&& 0x7FFF)
        ∧ after 0x11B = (p.imgarea &&& 0x000FFFFFFFFFF000) ||| (v &&& 1))
    ∧ (s.cells = [] → after 0x11A = (v &&& 0x000FFFFFFC000020) ||| BitVec.ofNat 64 (min (v.toNat % 32) 20))
    ∧ (p.debug = .invasive → after 0x171 = v &&& 0xFFFFFFFFFFFFFFFC ∧ after 0x175 = v &&& 0x000FFFFFFFFFFFFB)
    ∧ (p.debug ≠ .invasive → after 0x171 = s.sysRead 0x171)
    ∧ (p.linkOwn = false → s.sysWrite 0x160 v = s))
  ∧ ∀ (b : Bucket) (v : Word),
    (b.setRefill v).refillWord = v
    ∧ (b.rate ≠ 0xFFFFFFFF → (b.setLevel v).level = min (v.toNat % 2 ^ 40) b.cap.toNat ∧ (b.setLevel v).mark.toNat = v.toNat / 2 ^ 40)

end

/-! ### Events of scheduling, the pager, power, the meshes and boot -/

section

open Sys2Proof Sys2Proof.Machine Sys2Proof.Claims

/-- R130, R203 to R206, R210, R381 to R383: an engine takes the entry it serves next, whose rows a memory form translates then;
an entry that is on an engine completes; one of the oldest 4 walks ends, its leaf cached where it passes every check; the
contexts passed over 4,096 times are promoted. -/
def Sys2Proof.Claims.CoreEventsPart : Prop :=
  ∀ (s : State) (p : Proc) (c slot q : Nat) (older : List RobEntry) (r : RobEntry) (e : Engine),
    (s.proc? p.pid = some p → s.coreRuns c = true → s.served c e = some (slot, p) → nextFor e [] p.rob = some (older, r) →
      (∀ e' x, s.served c e' = some x → x.2.pid = p.pid → e' = e) →
      let v := s.switchTo p.pid
      let f := ((older.getLast?).map RobEntry.ahead).getD p.base
      ∃ t early, exec (.tileDispatch c p.pid) s = .next t ∧ (Calm s → SameBytes s t)
        ∧ early = (memForm r.instr).map (fun m =>
            (((v.withAhead f).rowWalks (f.rd m.base) (geomOf f.g[m.geo]) m.n m.index).withAhead f).translated m)
        ∧ ProcAt t p.pid (fun x => x = { p with
            rob := older ++ { r with started := true, early := early } :: p.rob.drop (older.length + 1) }))
    ∧ (s.proc? p.pid = some p → p.core = c → p.isResident = true → s.coreRuns c = true →
      (∃ x ∈ p.rob, x.started = true ∧ x.done = false) →
      ∃ t k x y, exec (.engineCompletion c p.pid) s = .next t ∧ p.rob[k]? = some x ∧ x.started = true ∧ x.done = false
        ∧ y = { x with done := true, early := y.early }
        ∧ ProcAt t p.pid (fun z => z = { p with rob := p.rob.set k y, acc := z.acc })
        ∧ (memForm x.instr = none → y.early = x.early ∧ SameBytes s t))
    ∧ ((s.quad q).walks ≠ [] → q < 24 → s.errs = [] → s.seals = [] → s.garbled = [] →
      ∃ t, ∃ w ∈ (s.quad q).walks.take 4, exec (.walkComplete q) s = .next t ∧ SameBytes s t
        ∧ (t.quad q).walks = (s.quad q).walks.filter (fun x => x != w)
        ∧ (∀ level leaf, s.walkLeaf (s.part w.part) (BitVec.ofNat 64 (w.page * 65536)) = some (level, leaf) →
            (s.part w.part).checkLeaf w.sup w.va w.n .read (leafAddr level leaf w.va) leaf = none →
            ∃ x ∈ (t.quad q).tcache, x.leaf = leaf ∧ x.level = level ∧ x.asid = (s.part w.part).asid)
        ∧ ((∀ level leaf, s.walkLeaf (s.part w.part) (BitVec.ofNat 64 (w.page * 65536)) = some (level, leaf) →
              (s.part w.part).checkLeaf w.sup w.va w.n .read (leafAddr level leaf w.va) leaf ≠ none) →
            (t.quad q).tcache = (s.quad q).tcache))
    ∧ (s.starved c ≠ [] → c < 90 →
      ∃ t, exec (.starvationPromotion c) s = .next t ∧ t.cur = s.cur ∧ SameBytes s t
        ∧ ∀ i (_ : i < 4), (t.core c).promoted[i] = true
            ↔ (s.core c).promoted[i] = true ∨ 4096 ≤ (s.core c).unchosen[i])

/-- R125 to R127, R130, R203 to R206, R382: an idle slot takes its core's record, a victim gives one, a thief starts it, a
search is due again; an engine takes an entry and completes it, a walk ends, contexts are promoted. -/
def Sys2Proof.Claims.SchedulingCompletesPart : Prop :=
  ∀ (s : State) (c v k : Nat) (r : Rec) (st : Steal) (w : Word) (p : Proc) (x : RobEntry) (e : Engine),
    (s.mayFill c k = true → s.ownerPick c = some r → r.spill = none →
      ∃ t, exec (.slotFill c k) s = .next t ∧ ∀ h : k < 4, (t.core c).slots[k] = some r.pid)
    ∧ (c < 90 → s.firstThief v = some c → s.coreOpen v = true → (s.core c).steal = some st → s.thiefPick v c = some r →
      s.ownerTakes v r = false → r.spill = none →
      ∃ t, exec (.stealRequest v) s = .next t ∧ (t.core c).steal = some { st with answer := some (some r) })
    ∧ ((s.core c).steal = some st → st.answer = some (some r) → (s.part r.part).parked = false → s.coreOpen c = true →
      (s.idleSlots c).contains st.slot = true →
      ∃ t, exec (.stealAnswer c) s = .next t ∧ (t.core c).steal = none ∧ ∀ h : st.slot < 4, (t.core c).slots[st.slot] = some r.pid)
    ∧ (c < 90 → (s.core c).retryAt = some w → w ≤ s.cycle →
      ∃ t, exec (.stealRetry c) s = .next t ∧ (t.core c).retryAt = none)
    ∧ (s.proc? p.pid = some p → p.rob = [x] → x.started = false → x.eng = some e → s.coreRuns c = true →
      s.served c e = some (k, p) →
      ∃ t, exec (.tileDispatch c p.pid) s = .next t
        ∧ ProcAt t p.pid (fun q => ∃ y, q.rob = [y] ∧ y.started = true ∧ y.instr = x.instr ∧ y.ip = x.ip))
    ∧ (s.proc? p.pid = some p → p.rob = [x] → x.started = true → x.done = false → p.core = c → p.isResident = true →
      s.coreRuns c = true →
      ∃ t, exec (.engineCompletion c p.pid) s = .next t
        ∧ ProcAt t p.pid (fun q => ∃ y, q.rob = [y] ∧ y.done = true ∧ y.instr = x.instr ∧ y.ip = x.ip))
    ∧ (∀ z, c < 24 → (s.quad c).walks = [z] → s.errs = [] → s.seals = [] → s.garbled = [] →
      ∃ t, exec (.walkComplete c) s = .next t ∧ (t.quad c).walks = [] ∧ SameBytes s t)
    ∧ (∀ i (_ : i < 4), c < 90 → (s.core c).promoted[i] = false → 4096 ≤ (s.core c).unchosen[i] →
      ∃ t, exec (.starvationPromotion c) s = .next t ∧ (t.core c).promoted[i] = true)

/-- R130, R203 to R206, R210, R381 to R383: an engine takes the entry it serves next, whose rows a memory form
translates then; an entry that is on an engine completes; one of the oldest 4 walks ends, its leaf cached where it
passes every check; the contexts passed over 4,096 times are promoted. R125 to R127, R130, R203 to R206, R382: an idle
slot takes its core's record, a victim gives one, a thief starts it, a search is due again; an engine takes an entry
and completes it, a walk ends, contexts are promoted. -/
def Obligations.CoreEvents : Prop := Claims.CoreEventsPart ∧ Claims.SchedulingCompletesPart

/-- R125 to R127, R153: an idle slot starts the record its core picks, with the start state: IP the entry, S1 the argument,
the other S registers, FCSR, TCSR and G0 to G7 0, T0 to T31 the zero page, E0 to E7 the moved endpoints, the retry latch
empty. E8 to E15 are the words that the model keeps beside the record, empty but for a supervisor's (log 22). Without work of
its own the core asks a victim or waits; a victim answers with its oldest eligible record, unless an idle slot of its own
takes that one; the answer starts in the idle slot where its partition is not parked. -/
def Obligations.StealEvents : Prop :=
  ∀ (s : State) (c v k : Nat) (r : Rec) (st : Steal), c < 90 →
    let started := fun (t : State) => (∀ h : k < 4, (t.core c).slots[k] = some r.pid)
      ∧ ProcAt t r.pid (fun p => p.place = .resident c k ∧ p.ip = r.entry ∧ (∀ i, p.rd i = if i = 1 then r.arg else 0)
          ∧ p.fcsr = 0 ∧ p.tcsr = 0 ∧ (∀ i : GReg, p.g[i] = 0) ∧ (∀ i, i < 32 → p.tref i = .zero)
          ∧ (∀ i : Fin 8, p.e[i.val] = r.moved[i.val] ∧ p.e[8 + i.val] = r.extra[i.val])
          ∧ p.latch.sent = false ∧ p.latch.done = false ∧ p.latch.stop = 0 ∧ p.region = none ∧ p.stores = [] ∧ p.wait = .none
          ∧ p.spSlot = r.spSlot ∧ p.spDir = r.spDir
          ∧ p.prio = r.prio ∧ p.part = r.part ∧ p.home = c)
    (∀ (ti : Ty) (i j : Nat), i < 64 → elemAt ti [zeroPage] i j = 0 ∧ (j < ti.blocks → scaleAt [zeroPage] ti.blocks i j = 0x0FE)
      ∧ zeroPage.ftype = 0xF ∧ zeroPage.poison = false)
    ∧ (s.mayFill c k = true → s.ownerPick c = some r → r.spill = none → r.pid ≠ 0 → s.cur.pid ≠ r.pid →
      ∃ t, exec (.slotFill c k) s = .next t ∧ started t)
    ∧ (∀ p, s.mayFill c k = true → s.ownerPick c = none → s.runnablePick c = some p →
      exec (.slotFill c k) s = .next ((s.unpark c k p.pid).resend p.pid))
    ∧ (s.mayFill c k = true → s.ownerPick c = none → s.runnablePick c = none →
      ∃ t, exec (.slotFill c k) s = .next t ∧ ((t.core c).steal ≠ none ∨ (t.core c).retryAt ≠ none) ∧ t.cur = s.cur)
    ∧ (s.firstThief v = some c → s.coreOpen v = true → (s.core c).steal = some st →
      (s.thiefPick v c = some r → s.ownerTakes v r = false → r.spill = none →
        ∃ t, exec (.stealRequest v) s = .next t ∧ (t.core c).steal = some { st with answer := some (some r) }
          ∧ r ∉ (t.core v).held)
      ∧ ((∀ x, s.thiefPick v c = some x → s.ownerTakes v x = true) →
        ∃ t, exec (.stealRequest v) s = .next t ∧ (t.core c).steal = some { st with answer := some none }))
    ∧ ((s.core c).steal = some st → st.slot = k → st.answer = some (some r) → s.coreOpen c = true →
      (s.idleSlots c).contains k = true → (s.part r.part).parked = false → r.pid ≠ 0 → s.cur.pid ≠ r.pid →
      ∃ t, exec (.stealAnswer c) s = .next t ∧ (t.core c).steal = none ∧ started t)
    ∧ (∀ w, (s.core c).retryAt = some w → w ≤ s.cycle →
      ∃ t, exec (.stealRetry c) s = .next t ∧ (t.core c).retryAt = none ∧ t.cur = s.cur)

/-- R128, R132, R134, R141 to R147, R156, R200, R270: pre-emption and the park of a long-blocked context free a slot; images
complete, exits end, moves end or are abandoned at a page that no good copy can be made of, page-ins end and pages are
evicted, each in the state that enables it. That a supervisor's exit gives no event 6 (log 55), which page an address of
losePage means (log 29) and the order in which oldestVictim takes pages (log 54) are the model's choice. -/
def Obligations.ParkEvents : Prop :=
  ∀ (s : State) (p : Proc) (c k a b v : Nat) (addr : Word),
    (∀ r, s.preemptee c = some (k, p) → s.pausedCore p.pid = none →
      let u := s.parkProc p.pid false
      ProcAt u p.pid (fun q => q.place = .parked ∧ q.ip = p.rollback.ip)
      ∧ (u.preemptor c = some r → r.spill = none →
          ∃ t, exec (.preemption c) s = .next t ∧ ∀ h : k < 4, (t.core c).slots[k] = some r.pid))
    ∧ (s.blockedDue c k = some p → s.pausedCore p.pid = none →
      ∃ t, exec (.blockedPark c k) s = .next t ∧ SameBytes s t
        ∧ ProcAt t p.pid (fun q => q.place = .parked ∧ q.wait = p.wait))
    ∧ (s.proc? p.pid = some p →
      (∀ u w, p.imageDue = true → s.imageWrite p 0 (s.imageHead p) = .ok u → u.imageZero p 0x600 0xA00 = .ok w →
        exec (.imageComplete p.pid) s
          = .next ((w.updProc p.pid (fun q => { q with imageOk := true })).drew.enqueue p.pid))
      ∧ (p.exitDue = true → p.join = .root → s.entries = [] → s.cur.pid ≠ p.pid → s.host.events.length < 64 →
        ∃ t, exec (.exitCompletion p.pid) s = .next t ∧ t.proc? p.pid = none ∧ SameBytes s t
          ∧ t.host.events
            = s.host.events ++ [{ kind := 6, words := [p.pid.setWidth 64, p.exitCode.getD 0, 0] }])
      ∧ (∀ cell, p.exitDue = true → p.join = .chan cell →
        exec (.exitCompletion p.pid) s = .next ((s.postCode p.pid cell (p.exitCode.getD 0)).endProc p.pid))
      ∧ (p.exitDue = true → p.join = .supervisor → exec (.exitCompletion p.pid) s = .next (s.endProc p.pid))
      ∧ (p.place = .parked → s.pagesOff p.pid p.home ≠ [] → s.pagesFit p.pid p.home = true →
        ∃ t, exec (.moveComplete p.pid) s = .next t ∧ t = s.carryPages p.pid p.home
          ∧ ((∀ q ∈ s.pages, q.err = none ∧ q.hurt = false) → SameBytes s t
              ∧ ∀ x ∈ t.pages, x.owner = p.pid → x.core = p.home))
      ∧ (p.place = .moving a b → p.drained = true →
        (s.pagesFit p.pid b = true → (s.readForMove p.pid b).2 = [] → exec (.moveComplete p.pid) s = .next (s.endMove p.pid b true))
        ∧ (∀ id rest, s.pagesFit p.pid b = true → (s.readForMove p.pid b).2 = id :: rest →
            (s.die (dieOfCore a) = .goingDown → exec (.moveComplete p.pid) s = .next (s.endMove p.pid b true))
            ∧ (s.die (dieOfCore a) ≠ .goingDown → exec (.moveComplete p.pid) s
                = .next (((s.readForMove p.pid b).1.endMove p.pid a false).migFail p.pid (p.pageAddr id) b)))
        ∧ (s.die (dieOfCore a) ≠ .goingDown →
            exec (.moveAbandon p.pid addr) s = .next ((s.endMove p.pid a false).migFail p.pid addr b)))
      ∧ (p.place = .moving a b → s.die (dieOfCore a) = .goingDown →
        exec (.moveAbandon p.pid addr) s = .next (s.losePage p addr))
      ∧ (∀ n, s.affinityTarget p = some n → exec (.affinityMove p.pid) s = .next (s.beginMove p.pid n))
      ∧ (∀ u, v ∈ p.pageIns → s.pageIn p.pid v = .ok u → exec (.pageInComplete p.pid v) s = .next (u.endPageIn p.pid v)))
    ∧ (∀ x, s.poolWanted c = true → oldestVictim (s.group1 c) = some x → exec (.eviction c) s = .next (s.evict c x))

/-- R435 to R443: the end of a pause sets the core's point, a withdrawn point is gone and its quad shows REL, an evaluation
takes the sensors' readings, a refill step adds rate / 2^10 tokens exactly up to cap and resumes a partition above its
marks, an empty bucket parks its partition. -/
def Obligations.PowerEvents : Prop :=
  (∀ (s : State) (c n : Nat) (x : Pause), c < 90 →
    ((s.core c).pause = some x → x.latched = [] → (s.core c).wanted = none →
      ∃ t, exec (.pauseEnd c) s = .next t ∧ (t.core c).point = x.point ∧ (t.core c).pause = none ∧ t.cur = s.cur)
    ∧ (n < 16 → (s.core c).gone.contains n = false → s.quadOf c < 24 →
      ∃ t, exec (.pointWithdrawal c n) s = .next t ∧ (t.core c).gone = n :: (s.core c).gone
        ∧ (s.boot.ready = true → (t.quad (s.quadOf c)).reason.getLsbD 4 = true)
        ∧ (s.boot.ready = false → (t.core c).point ≠ n ∨ (t.core c).point = 0))
    ∧ (∀ (r : Reading) (power : Nat), s.powered = true → s.evalAt < s.cycle.toNat / 2 ^ 16 → r.core < 90 →
      ∃ t, exec (.evaluation [r] power) s = .next t ∧ t.evalAt = s.evalAt + 1 ∧ (t.core r.core).temp = r.temp)
    ∧ ((s.part n).empty = true → ∃ t, exec (.bucketEmpty n) s = .next t ∧ (t.part n).parked = true ∧ SameBytes s t)
    ∧ (s.refillAt < s.cycle.toNat / 2 ^ 10 → ∃ t, exec .refillStep s = .next t ∧ t.refillAt = s.refillAt + 1
        ∧ t.parts.length = s.parts.length ∧ SameBytes s t
        ∧ ∀ i (h : i < s.parts.length) (h' : i < t.parts.length),
            t.parts[i].buckets = s.parts[i].buckets.map Bucket.refill
            ∧ (t.parts[i].parked = true ↔ s.parts[i].parked = true ∧ ∃ b ∈ t.parts[i].buckets, b.level ≤ b.mark.toNat)))
  ∧ ∀ b : Bucket, b.rate ≠ 0xFFFFFFFF →
    let total := b.level * 2 ^ 20 + b.carry + b.rate.toNat * 2 ^ 10
    (b.refill.level = min (total / 2 ^ 20) b.cap.toNat)
    ∧ (total / 2 ^ 20 < b.cap.toNat → b.refill.carry = total % 2 ^ 20) ∧ (b.cap.toNat ≤ total / 2 ^ 20 → b.refill.carry = 0)

/-- R425 to R431, R444, R455, R457: lanes (their number and numbering are the model's reading, log 44), one of which sleeps
when it has been idle for 4,096 cycles and is awake when a flit is assigned to it, and modules, answers of an offline die, a
die that goes down or comes back with zeroed memory, ports and links. -/
def Obligations.MeshEvents : Prop :=
  ∀ (s : State) (n : Nat) (p : Proc) (dev : Fin 4),
    (n < 688 → n ∉ s.mesh.asleep → s.laneIdle n = true → ∃ m, exec (.laneSleep n) s = .next { s with mesh := m } ∧ m.failed = s.mesh.failed
      ∧ ∀ x, x ∈ m.asleep ↔ x = n ∨ x ∈ s.mesh.asleep)
    ∧ (n < 688 → ∃ m, exec (.laneWake n) s = .next { s with mesh := m } ∧ m.failed = s.mesh.failed
      ∧ State.laneIdle { s with mesh := m } n = false ∧ ∀ x, x ∈ m.asleep ↔ x ≠ n ∧ x ∈ s.mesh.asleep)
    ∧ (n < 16 → n ∉ s.mesh.failed → (if n % 2 = 0 then n + 1 else n - 1) ∉ s.mesh.failed →
      ∃ m, exec (.moduleFailure n) s = .next { s with mesh := m } ∧ m.asleep = s.mesh.asleep
        ∧ ∀ x, x ∈ m.failed ↔ x = n ∨ x ∈ s.mesh.failed)
    ∧ (s.proc? p.pid = some p → s.latchOffline p.latch = true → ∃ t, exec (.offlineAnswer p.pid) s = .next t ∧ SameBytes s t
      ∧ ProcAt t p.pid (fun q => q = { p with latch := { p.latch with stop := 2 } }))
    ∧ (n < 2 → s.die n = .goingDown → s.dieEmpty n = true → (∀ q ∈ s.allProcs, q.stores = []) →
      (∀ q ∈ s.pages, q.err = none ∧ q.hurt = false) → s.host.events.length < 64 →
      ∃ t, exec (.dieDownComplete n) s = .next t ∧ t.die n = .offline ∧ t.die (1 - n) = s.die (1 - n)
        ∧ (s.powered = true → t.power = .oneDie)
        ∧ (∀ c, c < 90 → (t.core c).l1d = [])
        ∧ t.host.events = s.host.events ++ [{ kind := 3, words := [BitVec.ofNat 64 n, 0] }])
    ∧ (n < 2 → s.die n = .comingUp → s.memOk = true → s.cells = [] → s.entries = [] → s.host.events.length < 64 →
      ∃ t, exec (.dieUpComplete n) s = .next t ∧ t.die n = .online ∧ (s.powered = true → t.power = .on)
        ∧ (∀ a, a < hbmTop → t.physByte a = if dieOf a = n then 0 else s.physByte a)
        ∧ (∀ x ∈ t.poison, dieOf (x * 32) ≠ n ∨ hbmTop ≤ x * 32)
        ∧ t.host.events = s.host.events ++ [{ kind := 3, words := [BitVec.ofNat 64 n, 1] }])
    ∧ (∀ h : n < 8, s.link.ports[n] = true → ∃ t, exec (.linkPortFailure n) s = .next t ∧ t.link.ports[n] = false)
    ∧ (dev ≠ s.link.self → s.link.up.getLsbD dev.val = false → (∃ i, i < 8 ∧ s.portDev i = some dev) →
      ∃ t, exec (.linkUp dev) s = .next t ∧ t.link.up.getLsbD dev.val = true ∧ t.cells = s.cells
        ∧ (s.host.events.length < 64 →
            t.host.events = s.host.events ++ [{ kind := 4, words := [BitVec.ofNat 64 dev.val, 1] }]))

/-- R465 to R467, R474: power-on runs the firmware only where both items of the flash pass; a bundle in BOOTWIN that fails is
discarded; the power states. Memory that lists nothing (log 1), the state before POWER_ON (log 2), and the cores' aim in IDLE with
the rest of SUSPEND and D0 (log 33) are the model's choice. -/
def Obligations.BootEvents : Prop :=
  ∀ (s : State),
    (∃ t, exec .powerOn s = .next t ∧ t.parts = [] ∧ t.procs = [] ∧ t.mem = [] ∧ t.cycle = 0 ∧ t.boot.hostFw = false
      ∧ t.boot.ready = bundlePasses s.boot.flashFw s.boot.flashCfg)
    ∧ (s.boot.ready = false → s.boot.checking = false →
      exec .bootwinTrigger s = .next { s with boot := { s.boot with checking := true } })
    ∧ (∀ fw cfg, s.boot.checking = true → bundleOf s.boot.bootwin = some (fw, cfg) → bundlePasses fw cfg = true →
      ∃ t, exec .bundleVerified s = .next t ∧ t.boot.ready = true ∧ t.boot.hostFw = true ∧ t.boot.checking = false
        ∧ t.boot.firmware = fw)
    ∧ (s.boot.checking = true → (∀ fw cfg, bundleOf s.boot.bootwin = some (fw, cfg) → bundlePasses fw cfg = false) →
      exec .bundleVerified s = .next { s with boot := { s.boot with checking := false, bootwin := [] } })
    ∧ (s.powered = true → s.noWork = true → 2 ^ 20 ≤ (s.cycle - s.idleAt).toNat →
      ∃ t, exec .idleEntry s = .next t ∧ t.power = .idle ∧ ∀ c, s.coreOnline c = true → (t.core c).aim = 0)
    ∧ (s.power = .idle → s.noWork = false → ∃ t, exec .idleExit s = .next t
      ∧ t.power = (if s.dieAway 0 || s.dieAway 1 then .oneDie else .on) ∧ SameBytes s t)
    ∧ (s.boot.ready = true → s.power = .on ∨ s.power = .oneDie ∨ s.power = .idle →
      ∃ t, exec .suspend s = .next t ∧ t.power = .suspended)
    ∧ (s.power = .suspended → ∃ t, exec .d0Resume s = .next t ∧ SameBytes s t ∧ t.cur = s.cur ∧ t.procs = s.procs
      ∧ t.power = (if s.dieAway 0 || s.dieAway 1 then .oneDie else .on))
    ∧ (∃ t, exec .powerRemoved s = .next t ∧ t.power = .off ∧ t.parts = [] ∧ t.procs = [] ∧ t.mem = []
      ∧ t.boot.flashFw = s.boot.flashFw ∧ t.boot.flashCfg = s.boot.flashCfg ∧ t.boot.ready = false)

end

/-! ### The host port, debug controls and peers (18_host.md, 19_trust.md R475, 15_traps.md R409 to R412) -/

namespace Sys2Proof.Claims

open Sys2Proof Sys2Proof.Machine

/-- What a command that has ended leaves in its block and in CMDSTAT. -/
def Answers (t : State) (code : Nat) (out : List Word) : Prop :=
  t.host.code = BitVec.ofNat 8 code ∧ t.host.busy = false
  ∧ ∀ i (_ : i < 4), i < out.length → t.host.cmd[4 + i] = out.getD i 0

/-- A device that reads the block c when its doorbell rings: ON, ready, no command running, c's opcode. -/
def Ready (s : State) (c : Cmd) (op : Nat) : Prop :=
  s.power = .on ∧ s.boot.ready = true ∧ s.host.busy = false ∧ Cmd.opcode c = op ∧ Cmd.word0Ok c = true

/-- Nothing but plain bytes: no marked sector, no cell or entry, no seal, canonical memory. -/
def Plain (s : State) : Prop :=
  s.memOk = true ∧ s.errs = [] ∧ s.seals = [] ∧ s.garbled = [] ∧ s.cells = [] ∧ s.entries = []

/-- Bytes stand at a physical address, and every other byte reads as before. -/
def Stored (s t : State) (pa : Nat) (l : List Byte) : Prop :=
  (∀ k (h : k < l.length), t.physByte (pa + k) = l[k])
  ∧ ∀ a, a < pa ∨ pa + l.length ≤ a → t.physByte a = s.physByte a

end Sys2Proof.Claims

section

open Sys2Proof Sys2Proof.Machine Sys2Proof.Claims

/-- R450, R451: CREATE, GRANT, DESTROY, COPY, EVENT, DIEDOWN and DIEUP with arguments within their limits, and the codes
they give otherwise; the code measurement that a COPY extends is R469's. That COPY and EVENT need bus mastering is the model's
choice (log 34). -/
def Obligations.PartitionCommands : Prop :=
  ∀ (s : State) (c : Cmd) (p : Part),
    let n := Cmd.part c
    let a := c.w1.toNat
    (∀ num asid, Ready s c 1 → n = 0 → Cmd.createOk c = true → s.chooseFree 4096 1 (s.parts.map Part.num) = some num →
      s.drew.chooseFree 4096 1 (s.parts.map (fun p => p.asid.toNat)) = some asid →
      ∃ t q, exec (.create c) s = .next t ∧ Answers t 0 [BitVec.ofNat 64 num, BitVec.ofNat 64 asid] ∧ t.parts = s.parts ++ [q]
        ∧ q.num = num ∧ q.asid = BitVec.ofNat 12 asid ∧ q.ceiling = c.w1.setWidth 6 ∧ q.ptroot = c.w3 ∧ q.conf = c.w1.getLsbD 11
        ∧ q.preempt = 8 ∧ q.granted = [] ∧ q.sup = none ∧ SameBytes s t)
    ∧ (Ready s c 2 → a % 65536 = 0 → c.w2.toNat % 65536 = 0 → c.w2 ≠ 0 → inOneRegion a c.w2.toNat = true → s.part? n = some p →
      ((∀ q ∈ s.parts, q.num ≠ n → ∀ g ∈ q.granted, overlaps g.1 g.2 a c.w2.toNat = false) →
        ∃ t, exec (.grant c) s = .next t ∧ Answers t 0 [] ∧ (t.part n).granted = p.granted ++ [(a, c.w2.toNat)] ∧ SameBytes s t)
      ∧ ((∃ q ∈ s.parts, q.num ≠ n ∧ ∃ g ∈ q.granted, overlaps g.1 g.2 a c.w2.toNat = true) →
        ∃ t, exec (.grant c) s = .next t ∧ Answers t 4 [] ∧ t.parts = s.parts))
    ∧ (Ready s c 3 → s.part? n = some p →
      ∃ t, exec (.destroy c) s = .next t ∧ Answers t 0 [] ∧ t.part? n = none ∧ (n ≠ 0 → ∀ x ∈ t.cells, x.part ≠ n))
    ∧ (Ready s c 3 → s.part? n = none → ∃ t, exec (.destroy c) s = .next t ∧ Answers t 3 [] ∧ t.parts = s.parts)
    ∧ (Ready s c 4 → s.part? n = some p → c.w3.getLsbD 63 = false → c.w3.toNat % 32 = 0 → c.w3 ≠ 0 →
      c.w2.toNat + c.w3.toNat ≤ hbmTop →
      (p.grants c.w2.toNat c.w3.toNat = false → ∃ t, exec (.copy c) s = .next t ∧ Answers t 4 [] ∧ SameBytes s t)
      ∧ (p.grants c.w2.toNat c.w3.toNat = true → (∀ d, s.die d = .online) → p.spawned = false → p.conf = false →
        s.host.busMaster = true → Plain s →
        let data := s.hostMem.getBytes a c.w3.toNat
        ∃ t, exec (.copy c) s = .next t ∧ Answers t 0 [] ∧ Stored s t c.w2.toNat data
          ∧ (p.inAuthBlock c.w2.toNat c.w3.toNat = false →
              (t.part n).mCode = extend p.mCode (bytesOf 8 c.w2.toNat ++ bytesOf 8 c.w3.toNat ++ data))))
    ∧ (Ready s c 0xE → n = 0 → s.host.busMaster = true →
      (s.host.events = [] → ∃ t, exec (.event c) s = .next t ∧ Answers t 5 [])
      ∧ (∀ e rest, s.host.events = e :: rest → ∃ t, exec (.event c) s = .next t ∧ Answers t 0 [BitVec.ofNat 64 e.kind]
          ∧ t.host.events = rest ∧ t.host.dropped = 0))
    ∧ (n = 0 → a < 2 → s.die (1 - a) = .online →
      (Ready s c 0xC → s.die a = .online → ∃ t, exec (.diedown c) s = .next t ∧ Answers t 0 [] ∧ t.die a = .goingDown)
      ∧ (Ready s c 0xD → s.die a = .offline → ∃ t, exec (.dieup c) s = .next t ∧ Answers t 0 [] ∧ t.die a = .comingUp))

/-- R452 to R456, R405, R388: SPAWN of a supervisor and of a root, HSEND, HRECV, HCLOSE, EXPORT, IMPORT, RELEASE and FAULTEND
on what they name; u is the state with the block in place. DENIED for EXPORT and IMPORT of a confidential partition is R473's and
R475's; that both need bus mastering is the model's choice (log 34). -/
def Obligations.ProcessCommands : Prop :=
  ∀ (s : State) (c : Cmd) (p : Part) (q : Proc) (x : Cell),
    let n := Cmd.part c
    let k := c.w1.toNat
    let u := s.setCmd (Cmd.words c)
    let slot := fun (h : k < 64) => s.host.slots[k] = some (n, x.id) ∧ s.cell? x.id = some x
    s.part? n = some p →
    (∀ g rest, Ready s c 5 → p.spawned = false → s.spawnArgs c true = true → Cmd.ofKind c 2 = [] →
      (Cmd.ofKind c 1).length ≤ s.freeSlots.length → p.granted = g :: rest → Config.supervisorBytes ≤ g.2 →
      ∃ t pid, exec (.spawnCommand c) s = .next t ∧ t.host.code = 0 ∧ t.host.busy = false
        ∧ t.host.cmd[4] = pid.setWidth 64 ∧ (t.part n).spawned = true ∧ (t.part n).sup = some pid)
    ∧ (∀ i v, Ready s c 5 → p.spawned = true → s.spawnArgs c false = true → Cmd.ofKind c 2 = [] →
      (Cmd.ofKind c 1).length ≤ s.freeSlots.length → u.freeSpSlot n = some i → u.clearSlot n i = .ok v →
      ∃ t, exec (.spawnCommand c) s = .next t ∧ t.host.code = 0 ∧ t.host.cmd[4] = v.newPid.2.setWidth 64)
    ∧ (∀ h : k < 64, slot h →
      (Ready s c 6 → x.end0.closed = false → x.end0.held.isSome = true →
        ∃ t, exec (.hsend c) s = .next t ∧ Answers t 6 [] ∧ t.cells = s.cells)
      ∧ (Ready s c 6 → x.end0.closed = false → x.end0.held = none → ∃ t, exec (.hsend c) s = .next t ∧ Answers t 0 []
          ∧ (x.end0.post = none → x.end1.post = none → (t.cell? x.id).map (fun y => y.end0.held) = some (some c.w2)))
      ∧ (∀ v, Ready s c 7 → x.end1.held = some v → ∃ t, exec (.hrecv c) s = .next t ∧ Answers t 0 [v])
      ∧ (Ready s c 7 → x.end1.held = none → x.end0.closed = true → ∃ t, exec (.hrecv c) s = .next t ∧ Answers t 7 [])
      ∧ (Ready s c 8 → ∃ t, exec (.hclose c) s = .next t ∧ Answers t 0 [] ∧ t.host.slots[k] = none))
    ∧ (p.conf = false → s.host.busMaster = true →
      (∀ v l, Ready s c 9 → k < 2 ^ 32 → s.proc? (c.w1.setWidth 32) = some q → q.part = n → q.isHeld = true →
        let u0 := (u.drain q.pid).finishRequest q.pid
        let u1 := (if q.imageOk then u0 else u0.completeImage q.pid).storeRefs q.pid
        u1.imageRead q 0 Config.imageSlotBytes = .ok (v, l) →
        ∃ t, exec (.exportCmd c) s = .next t ∧ Answers t 0 []
          ∧ t.hostMem = v.hostMem.setBytes c.w2.toNat (exportBytes l))
      ∧ (∀ i v pid, Ready s c 0xA →
        let l := s.hostMem.getBytes k Config.imageSlotBytes
        (∀ y ∈ (l.drop 0x130).take 16, y = 0) → u.freeSpSlot n = some i → u.importProc p i l = .ok (v, pid) →
        ∃ t, exec (.importCmd c) s = .next t ∧ Answers t 0 [pid.setWidth 64]))
    ∧ (p.conf = true → (Ready s c 9 → k < 2 ^ 32 → ∃ t, exec (.exportCmd c) s = .next t ∧ Answers t 4 [])
      ∧ (Ready s c 0xA → ∃ t, exec (.importCmd c) s = .next t ∧ Answers t 4 []))
    ∧ (Ready s c 0xB → k < 2 ^ 32 → s.proc? (c.w1.setWidth 32) = some q → q.part = n → q.sup = true → q.haltOp = true →
      ∃ t, exec (.release c) s = .next t ∧ Answers t 0 [] ∧ SameBytes s t
        ∧ ProcAt t (c.w1.setWidth 32) (fun r => r.halted = false ∧ r.haltOp = false ∧ r.stepping = false ∧ r.ip = q.ip))
    ∧ (Ready s c 0xF → k < 16 → s.supOf p = some q → s.faultOpen p = false →
      (s.standsStill q = true → q.e[Fin.ofNat 16 k] = 0 → s.postsTo q (Fin.ofNat 16 k) = false →
        ∃ t, exec (.faultend c) s = .next t ∧ Answers t 0 [])
      ∧ (s.standsStill q = false →
        ∃ t, exec (.faultend c) s = .next t ∧ t.host.busy = true ∧ (t.part n).placing = some (Fin.ofNat 16 k)))
    ∧ (∀ r, p.placing = some r →
      ∃ t, exec (.faultEndPlacement n) s = .next t ∧ t.host.busy = false ∧ (t.part n).placing = none)

/-- R446 to R449, R409, R412, R475, R374, R457 to R459: the port's registers, bus mastering, debug controls of a process, and
what a peer does to this device's memory and channels. -/
def Obligations.PortEvents : Prop :=
  ∀ (s : State) (v : Word) (on : Bool) (p : Proc) (wm : BitVec 2) (bm : BitVec 4) (pa : Nat) (l : List Byte) (dev : Fin 4)
    (tag : BitVec 6) (c : Cell),
    (s.power ≠ .suspended →
      exec .cmdstatRead s = .next { s with host := { s.host with overrun := false } }
      ∧ (s.boot.ready = true → s.host.busy = true →
          exec .doorbellWhileBusy s = .next { s with host := { s.host with overrun := true } })
      ∧ (∀ i (_ : i < 8), exec (.registerWrite (.bar (BitVec.ofNat 16 (0x100 + 8 * i))) v) s
          = .next { s with host := { s.host with cmd := s.host.cmd.set i v } }))
    ∧ exec (.busMasteringChange on) s = .next { s with host := { s.host with busMaster := on } }
    ∧ (s.power ≠ .suspended → s.power ≠ .off → s.proc? p.pid = some p →
      ((s.part p.part).debug = .invasive →
        (∃ t, exec (.setMasks p.part p.pid wm bm) s = .next t ∧ SameBytes s t
          ∧ ProcAt t p.pid (fun q => q = { p with wmask := wm, bmask := bm }))
        ∧ (∃ t, exec (.debugHalt p.part p.pid) s = .next t ∧ SameBytes s t
          ∧ ProcAt t p.pid (fun q => q = { p with halted := true, stepping := false }))
        ∧ (p.halted = true →
          (∃ t, exec (.debugRelease p.part p.pid) s = .next t ∧ SameBytes s t
            ∧ ProcAt t p.pid (fun q => q.halted = false ∧ q.stepping = false ∧ q.skipBp = true ∧ q.ip = p.ip))
          ∧ (∃ t, exec (.debugStep p.part p.pid) s = .next t ∧ SameBytes s t
            ∧ ProcAt t p.pid (fun q => q.halted = true ∧ q.stepping = true ∧ q.skipBp = true ∧ q.ip = p.ip))))
      ∧ ((s.part p.part).debug ≠ .invasive →
        ∀ i ∈ [Instr.setMasks p.part p.pid wm bm, .debugHalt p.part p.pid, .debugRelease p.part p.pid, .debugStep p.part p.pid],
          exec i s = .next s))
    ∧ (pa + l.length ≤ hbmTop → s.offlineAt pa = false → Plain s →
      (∃ t, exec (.peerMemoryAccess (.write pa l)) s = .next t ∧ Stored s t pa l)
      ∧ (∃ t, exec (.peerMemoryAccess (.read pa l.length)) s = .next t ∧ SameBytes s t)
      ∧ (∀ op cmp, l.length = 8 → s.rangeBad pa 8 = false →
        ∃ t, exec (.peerMemoryAccess (.amo pa op false v cmp)) s = .next t
          ∧ Stored s t pa (bytesOf 8 (amoNew op 8 (ofBytes (s.physBytes pa 8)) v.toNat cmp.toNat))))
    ∧ (s.link.up.getLsbD dev.val = true → s.tagOf dev tag = none →
      exec (.peerChannelMessage (.pair dev tag)) s = .next (s.setTag dev tag (0, false)))
    ∧ (s.tagOf dev tag = some (c.id, true) → s.cell? c.id = some c → c.end1.closed = false →
      exec (.peerChannelMessage (.close dev tag)) s = .next (s.closeEnd c.id true)
      ∧ (∀ op o, PeerOp.posted op = some o → s.link.up.getLsbD dev.val = true → c.end1.post = none →
        exec (.peerChannelMessage (.post dev tag op)) s
          = .next ((s.updEnd c.id true (fun e => { e with post := some o })).settled c.id)))

end

/-! ### The device as a whole -/

section

open Sys2Proof Sys2Proof.Machine Sys2Proof.Claims

/-- The state before power-on: no power, no partition, process, cell or page, no memory listed, nothing resident. The
model's choice (log 2, log 4), but for what R465 says of a device that has not run its boot ROM. -/
def Obligations.ResetState : Prop :=
  State.reset.memOk = true ∧ State.reset.power = .off ∧ State.reset.boot.ready = false ∧ State.reset.cycle = 0
  ∧ State.reset.parts = [] ∧ State.reset.allProcs = [] ∧ State.reset.cells = [] ∧ State.reset.pages = []
  ∧ (∀ pa, State.reset.physByte pa = 0) ∧ (∀ c i (_ : i < 4), (State.reset.core c).slots[i] = none)
  ∧ State.reset.host.events = [] ∧ State.reset.host.busy = false ∧ State.reset.dueAction = none ∧ State.reset.queueUp = []

/-- R26, R27, R55, R129, R203: when nothing is due and a core issues, the chosen context fetches the words where it stands,
behind its instructions that have not retired; where they decode to an allowed instruction, a scalar one with nothing
unretired before it runs: the step is exec of it, followed by the passage of time; any other gets its place behind them. The
oldest, when it is done, runs at its retirement. What runs at once and what waits is the model's choice (log 46), as is the
order of happenings (log 5). -/
def Obligations.StepRunsDecoded : Prop :=
  (∀ (s : State) (c slot : Nat) (p : Proc),
    let l := s.charged.queueUp
    let v := s.charged.drew.noteWaiting l (.issue c)
    s.charged.dueAction = none → s.charged.choose l s.charged.draws = .issue c → v.chosen c = some (slot, p) →
    ∀ u i, (v.selectOn c slot p).lookAhead = (u, .instr i) →
      (takesEntry i = false → u.cur.rob = [] → (u.cur.latch.sent = true → u.waitsForLatch i = false) → step s
        = onNext (exec i { u with cur := u.cur.countRegion i }) (fun t => (t.updProc u.cur.pid (fun q =>
            { q.afterIssue u.cur.ip (jumps i) with early := none, copies := none })).advance))
      ∧ (takesEntry i = true ∨ u.cur.rob ≠ [] ∨ (u.cur.latch.sent = true ∧ u.waitsForLatch i = true) →
          step s = .next (u.enterRob i).advance))
  ∧ (∀ (s : State) (pid : Pid) (r : RobEntry) (rest : List RobEntry),
    let u := s.charged.switchTo pid
    let v := { u with cur := { u.cur with
      early := r.early, copies := if r.tile then some r.copies else none, iw0 := r.iw0, iw1 := r.iw1, rob := rest, stall := .none } }.readBy r
    s.charged.dueAction = some (.retire pid) → u.cur.rob = r :: rest → step s
      = onNext (exec r.instr v) (fun t =>
          (t.updProc v.cur.pid (fun q => { q.afterIssue v.cur.ip (jumps r.instr) with early := none, copies := none })).updProc
            u.cur.pid (fun q => { q with rob := if q.stays r.ip (jumps r.instr) then r :: q.rob else q.robAfter r q.rob })))
  ∧ (∀ (s v : State) (w0 : Word32) (w1 : Option Word32) (i : Instr), s.fetch = (v, .words w0 w1) →
    decode w0.toNat (w1.getD 0).toNat = some i → v.ibpHit = none → masked v.curPart.feat w0 i = false →
    (v.cur.regionAllows i = true ∨ supervisorForm i = true ∧ v.cur.sup = false) →
    s.look = (v.setWords w0 (w1.getD 0), .instr i))
  ∧ ∀ (s : State) (va : Word) (x : Xlated),
    let c := s.curCore
    (s.cachedLeaf c s.curPart va).isSome = true → s.xlate c s.curPart s.cur.sup va 4 .fetch = .ok x →
    s.memOff s.curPart x.pa = false → s.cachedWord c x.pa = none → s.errs = [] → s.seals = [] → s.garbled = [] → s.outbox = [] →
    x.leaf.getLsbD 59 = false → s.rangeBad x.pa 4 = false →
    (s.fetchWord va).2 = .ok (BitVec.ofNat 32 (ofBytes (s.physBytes x.pa 4)))

/-- R26 to R53 and the worked words of 02_encoding.md: one word of each of several families, and words that decode to
nothing. -/
def Obligations.DecodeWords : Prop :=
  decode 0x02321400 0 = some (.add 3 4 5) ∧ decode 0x30507FFD 0 = some (.loop 5 0x7FFD)
  ∧ decode 0x84740000 0x03010200 = some (.alt 7 8 0 0x03 0x01 0x02 false)
  ∧ decode 0x8C044000 0xBC300003 = some (.mma
      { d := 0, a := { base := 8, w := 3 }, b := { base := 16, w := 3 }, ta := .e4m3, tb := .e4m3, out := .f32, rtz := false
        sat := false })
  ∧ decode 0x50000000 0 = some .nop ∧ decode 0x18113FF8 0 = some (.ld 1 2 .d 0xFF8)
  ∧ decode 0x40110000 0 = some (.chnew 1 2) ∧ decode 0x54300010 0 = some (.mtsr 0x10 3)
  ∧ decode 0x4A110E81 0 = some (.spawn 1 2 3 .device 0x81)
  ∧ decode 0x88428400 0x80000001 = some (.tld { base := 4, w := 2 } 5 1 .stream)
  ∧ decode 0x8E008800 0 = some (.vadd
      { d := { base := 0, w := 0 }, a := { base := 1, w := 0 }, b := { base := 2, w := 0 }, ti := .f32, out := .f32
        rnd := .rne, sat := false })
  ∧ decode 0 0 = none ∧ (∀ w1, decode 0xFFFFFFFF w1 = none) ∧ decode 0x02321409 0 = none ∧ decode 0x02321450 0 = none
  ∧ decode 0x42088C00 0 = none ∧ decode 0x84743800 0x07000000 = none

/-- R53: the all-zero word is a 32-bit instruction and illegal, the all-ones word frames a 64-bit one and is illegal
whatever follows it; a context that fetches either stands at illegal words. -/
def Obligations.ErasedWords : Prop :=
  isLong 0 = false ∧ isLong 0xFFFFFFFF = true ∧ (∀ w1, decode 0 w1 = none ∧ decode 0xFFFFFFFF w1 = none)
  ∧ ∀ (s v : State) (w0 : Word32) (w1 : Option Word32), (w0 = 0 ∨ w0 = 0xFFFFFFFF) → s.fetch = (v, .words w0 w1) →
    v.ibpHit = none → s.look.2 = .illegal w0 (w1.getD 0)

/-- R26 to R51: the words of every well-formed instruction decode to it, and they are words. -/
def Obligations.RoundTrip : Prop :=
  ∀ (i : Instr) (w0 : Nat) (w1 : Option Nat), i.wf = true → encode i = some (w0, w1) →
    w0 < 2 ^ 32 ∧ (∀ w, w1 = some w → w < 2 ^ 32) ∧ isLong w0 = w1.isSome ∧ decode w0 (w1.getD 0) = some i

/-- Every step of the device answers a next state: no instruction and no event of its own stops it. It rests on the model's
choice of the next happening (log 5), and on its taking an event that does not occur as a pass in which nothing happens (log
59). -/
def Obligations.StepGoesOn : Prop := ∀ s : State, s.goesOn

/-- The canonical form of every byte memory is kept by every step. -/
def Obligations.StepKeepsMemory : Prop := ∀ (s t : State), s.memOk = true → step s = .next t → t.memOk = true

/-- R472: a store under a key is read back under that key; an access that fits sees the stored bytes and changes no seal. HBM
stores a sector of a key as its XTS encryption under that key, with the sector's address as the tweak; a read under another
key that misses the L2 leaves there, and takes, what its own key makes of the stored bytes (the stored bytes themselves under
none), and what is written stays. -/
def Obligations.EncryptionRule : Prop :=
  ∀ (s : State) (key other : Option Nat) (w : Via) (pa n sec : Nat) (l : List Byte),
    (s.memOk = true → s.errs = [] → pa + l.length ≤ hbmTop → (s.physPut w pa l).bytesAs w.key pa l.length = l)
    ∧ (Readable s key pa n → s.bytesAs key pa n = s.physBytes pa n ∧ s.noteKey key pa n = s ∧ s.sealFor key pa n = s)
    ∧ (s.sealOf sec = none → s.stored sec = s.physBytes (sec * 32) 32)
    ∧ (∀ k, s.sealOf sec = some k → s.stored sec = sealBytes (keyPair k) (sec * 32) (s.physBytes (sec * 32) 32))
    ∧ (sec * 32 + 32 ≤ hbmTop → s.garble? sec = none → other ≠ s.sealOf sec → s.held? sec = none →
        (s.noteKey other (sec * 32) 32).garble? sec = some other
        ∧ (s.noteKey other (sec * 32) 32).sealOf sec = s.sealOf sec ∧ SameBytes s (s.noteKey other (sec * 32) 32)
        ∧ (other = none → ∀ k < 32, s.byteAs other (sec * 32 + k) = (s.stored sec).getD k 0)
        ∧ ∀ o, other = some o → ∀ k < 32,
            s.byteAs other (sec * 32 + k) = (openBytes (keyPair o) (sec * 32) (s.stored sec)).getD k 0)

/-- R68, R69, R463: hi and lo rebuild an address and lo lies in -2,048 to 2,047; the field of a branch is the distance in
words where that fits; a partition gets the native image of the highest level that qualifies, the earlier on a tie, else the
distance image where its features are present, else none. -/
def Obligations.CodeObjects : Prop :=
  (∀ x : Int, hiPart x * 4096 + loPart x = x ∧ -2048 ≤ loPart x ∧ loPart x ≤ 2047)
  ∧ (∀ (x : ImageDesc) (profile : Nat) (feat : Word), x.qualifies profile feat = true ↔
      x.kind = .native ∧ x.level ≤ profile ∧ ∀ k < 64, x.features.getLsbD k = true → feat.getLsbD k = true)
  ∧ (∀ (n : Nat) (t p f : Int), branchField n t p = some f ↔ t = p + 4 * f ∧ -(2 ^ (n - 1) : Int) ≤ f ∧ f < 2 ^ (n - 1))
  ∧ ∀ (l : List ImageDesc) (profile : Nat) (feat : Word),
    (∀ i, chooseImage l profile feat = some i → (∃ x ∈ l, x.qualifies profile feat = true) →
      i.qualifies profile feat = true
      ∧ ∃ a b, l = a ++ i :: b ∧ (∀ x ∈ a, x.qualifies profile feat = true → x.level < i.level)
        ∧ ∀ x ∈ b, x.qualifies profile feat = true → x.level ≤ i.level)
    ∧ ((∃ x ∈ l, x.qualifies profile feat = true) → (chooseImage l profile feat).isSome = true)
    ∧ ((∀ x ∈ l, x.qualifies profile feat = false) →
      chooseImage l profile feat = (l.find? (fun i => i.kind == .distance)).filter (fun i => i.featuresIn feat))

end
end

