-- ==== Sys2Proof/Laws/State.lean ====
section
/-! SUPPORT. What each update of a field leaves: one lemma per field of the state for each update, so that no proof unfolds a
record update. -/

namespace Sys2Proof.Machine

/-! ### Registers, IP and flags of the executing context -/

@[simp] theorem State.wr_procs (s : State) (d : SReg) (v : Word) : (s.wr d v).procs = s.procs := rfl
@[simp] theorem State.wr_cores (s : State) (d : SReg) (v : Word) : (s.wr d v).cores = s.cores := rfl
@[simp] theorem State.wr_quads (s : State) (d : SReg) (v : Word) : (s.wr d v).quads = s.quads := rfl
@[simp] theorem State.wr_parts (s : State) (d : SReg) (v : Word) : (s.wr d v).parts = s.parts := rfl
@[simp] theorem State.wr_cells (s : State) (d : SReg) (v : Word) : (s.wr d v).cells = s.cells := rfl
@[simp] theorem State.wr_entries (s : State) (d : SReg) (v : Word) : (s.wr d v).entries = s.entries := rfl
@[simp] theorem State.wr_pages (s : State) (d : SReg) (v : Word) : (s.wr d v).pages = s.pages := rfl
@[simp] theorem State.wr_mem (s : State) (d : SReg) (v : Word) : (s.wr d v).mem = s.mem := rfl
@[simp] theorem State.wr_poison (s : State) (d : SReg) (v : Word) : (s.wr d v).poison = s.poison := rfl
@[simp] theorem State.wr_errs (s : State) (d : SReg) (v : Word) : (s.wr d v).errs = s.errs := rfl
@[simp] theorem State.wr_seals (s : State) (d : SReg) (v : Word) : (s.wr d v).seals = s.seals := rfl
@[simp] theorem State.wr_hostMem (s : State) (d : SReg) (v : Word) : (s.wr d v).hostMem = s.hostMem := rfl
@[simp] theorem State.wr_peerMem (s : State) (d : SReg) (v : Word) : (s.wr d v).peerMem = s.peerMem := rfl
@[simp] theorem State.wr_cycle (s : State) (d : SReg) (v : Word) : (s.wr d v).cycle = s.cycle := rfl
@[simp] theorem State.wr_nextPid (s : State) (d : SReg) (v : Word) : (s.wr d v).nextPid = s.nextPid := rfl
@[simp] theorem State.wr_dies (s : State) (d : SReg) (v : Word) : (s.wr d v).dies = s.dies := rfl
@[simp] theorem State.wr_mesh (s : State) (d : SReg) (v : Word) : (s.wr d v).mesh = s.mesh := rfl
@[simp] theorem State.wr_link (s : State) (d : SReg) (v : Word) : (s.wr d v).link = s.link := rfl
@[simp] theorem State.wr_host (s : State) (d : SReg) (v : Word) : (s.wr d v).host = s.host := rfl
@[simp] theorem State.wr_boot (s : State) (d : SReg) (v : Word) : (s.wr d v).boot = s.boot := rfl
@[simp] theorem State.wr_power (s : State) (d : SReg) (v : Word) : (s.wr d v).power = s.power := rfl
@[simp] theorem State.wr_idleAt (s : State) (d : SReg) (v : Word) : (s.wr d v).idleAt = s.idleAt := rfl
@[simp] theorem State.wr_refillAt (s : State) (d : SReg) (v : Word) : (s.wr d v).refillAt = s.refillAt := rfl
@[simp] theorem State.wr_evalAt (s : State) (d : SReg) (v : Word) : (s.wr d v).evalAt = s.evalAt := rfl
@[simp] theorem State.wr_detects (s : State) (d : SReg) (v : Word) : (s.wr d v).detects = s.detects := rfl
@[simp] theorem State.wr_nextId (s : State) (d : SReg) (v : Word) : (s.wr d v).nextId = s.nextId := rfl
@[simp] theorem State.wr_draws (s : State) (d : SReg) (v : Word) : (s.wr d v).draws = s.draws := rfl
@[simp] theorem State.wr_turn (s : State) (d : SReg) (v : Word) : (s.wr d v).turn = s.turn := rfl
@[simp] theorem State.wr_agenda (s : State) (d : SReg) (v : Word) : (s.wr d v).agenda = s.agenda := rfl
@[simp] theorem State.wr_l2 (s : State) (d : SReg) (v : Word) : (s.wr d v).l2 = s.l2 := rfl
@[simp] theorem State.wr_garbled (s : State) (d : SReg) (v : Word) : (s.wr d v).garbled = s.garbled := rfl
@[simp] theorem State.wr_outbox (s : State) (d : SReg) (v : Word) : (s.wr d v).outbox = s.outbox := rfl
@[simp] theorem State.wr_waiting (s : State) (d : SReg) (v : Word) : (s.wr d v).waiting = s.waiting := rfl
@[simp] theorem State.wr_waited (s : State) (d : SReg) (v : Word) : (s.wr d v).waited = s.waited := rfl

@[simp] theorem State.wrE_procs (s : State) (d : EReg) (v : Word32) : (s.wrE d v).procs = s.procs := rfl
@[simp] theorem State.wrE_cores (s : State) (d : EReg) (v : Word32) : (s.wrE d v).cores = s.cores := rfl
@[simp] theorem State.wrE_quads (s : State) (d : EReg) (v : Word32) : (s.wrE d v).quads = s.quads := rfl
@[simp] theorem State.wrE_parts (s : State) (d : EReg) (v : Word32) : (s.wrE d v).parts = s.parts := rfl
@[simp] theorem State.wrE_cells (s : State) (d : EReg) (v : Word32) : (s.wrE d v).cells = s.cells := rfl
@[simp] theorem State.wrE_entries (s : State) (d : EReg) (v : Word32) : (s.wrE d v).entries = s.entries := rfl
@[simp] theorem State.wrE_pages (s : State) (d : EReg) (v : Word32) : (s.wrE d v).pages = s.pages := rfl
@[simp] theorem State.wrE_mem (s : State) (d : EReg) (v : Word32) : (s.wrE d v).mem = s.mem := rfl
@[simp] theorem State.wrE_poison (s : State) (d : EReg) (v : Word32) : (s.wrE d v).poison = s.poison := rfl
@[simp] theorem State.wrE_errs (s : State) (d : EReg) (v : Word32) : (s.wrE d v).errs = s.errs := rfl
@[simp] theorem State.wrE_seals (s : State) (d : EReg) (v : Word32) : (s.wrE d v).seals = s.seals := rfl
@[simp] theorem State.wrE_hostMem (s : State) (d : EReg) (v : Word32) : (s.wrE d v).hostMem = s.hostMem := rfl
@[simp] theorem State.wrE_peerMem (s : State) (d : EReg) (v : Word32) : (s.wrE d v).peerMem = s.peerMem := rfl
@[simp] theorem State.wrE_cycle (s : State) (d : EReg) (v : Word32) : (s.wrE d v).cycle = s.cycle := rfl
@[simp] theorem State.wrE_nextPid (s : State) (d : EReg) (v : Word32) : (s.wrE d v).nextPid = s.nextPid := rfl
@[simp] theorem State.wrE_dies (s : State) (d : EReg) (v : Word32) : (s.wrE d v).dies = s.dies := rfl
@[simp] theorem State.wrE_mesh (s : State) (d : EReg) (v : Word32) : (s.wrE d v).mesh = s.mesh := rfl
@[simp] theorem State.wrE_link (s : State) (d : EReg) (v : Word32) : (s.wrE d v).link = s.link := rfl
@[simp] theorem State.wrE_host (s : State) (d : EReg) (v : Word32) : (s.wrE d v).host = s.host := rfl
@[simp] theorem State.wrE_boot (s : State) (d : EReg) (v : Word32) : (s.wrE d v).boot = s.boot := rfl
@[simp] theorem State.wrE_power (s : State) (d : EReg) (v : Word32) : (s.wrE d v).power = s.power := rfl
@[simp] theorem State.wrE_idleAt (s : State) (d : EReg) (v : Word32) : (s.wrE d v).idleAt = s.idleAt := rfl
@[simp] theorem State.wrE_refillAt (s : State) (d : EReg) (v : Word32) : (s.wrE d v).refillAt = s.refillAt := rfl
@[simp] theorem State.wrE_evalAt (s : State) (d : EReg) (v : Word32) : (s.wrE d v).evalAt = s.evalAt := rfl
@[simp] theorem State.wrE_detects (s : State) (d : EReg) (v : Word32) : (s.wrE d v).detects = s.detects := rfl
@[simp] theorem State.wrE_nextId (s : State) (d : EReg) (v : Word32) : (s.wrE d v).nextId = s.nextId := rfl
@[simp] theorem State.wrE_draws (s : State) (d : EReg) (v : Word32) : (s.wrE d v).draws = s.draws := rfl
@[simp] theorem State.wrE_turn (s : State) (d : EReg) (v : Word32) : (s.wrE d v).turn = s.turn := rfl
@[simp] theorem State.wrE_agenda (s : State) (d : EReg) (v : Word32) : (s.wrE d v).agenda = s.agenda := rfl
@[simp] theorem State.wrE_l2 (s : State) (d : EReg) (v : Word32) : (s.wrE d v).l2 = s.l2 := rfl
@[simp] theorem State.wrE_garbled (s : State) (d : EReg) (v : Word32) : (s.wrE d v).garbled = s.garbled := rfl
@[simp] theorem State.wrE_outbox (s : State) (d : EReg) (v : Word32) : (s.wrE d v).outbox = s.outbox := rfl
@[simp] theorem State.wrE_waiting (s : State) (d : EReg) (v : Word32) : (s.wrE d v).waiting = s.waiting := rfl
@[simp] theorem State.wrE_waited (s : State) (d : EReg) (v : Word32) : (s.wrE d v).waited = s.waited := rfl

@[simp] theorem State.next_procs (s : State) (n : Nat) : (s.next n).procs = s.procs := rfl
@[simp] theorem State.next_cores (s : State) (n : Nat) : (s.next n).cores = s.cores := rfl
@[simp] theorem State.next_quads (s : State) (n : Nat) : (s.next n).quads = s.quads := rfl
@[simp] theorem State.next_parts (s : State) (n : Nat) : (s.next n).parts = s.parts := rfl
@[simp] theorem State.next_cells (s : State) (n : Nat) : (s.next n).cells = s.cells := rfl
@[simp] theorem State.next_entries (s : State) (n : Nat) : (s.next n).entries = s.entries := rfl
@[simp] theorem State.next_pages (s : State) (n : Nat) : (s.next n).pages = s.pages := rfl
@[simp] theorem State.next_mem (s : State) (n : Nat) : (s.next n).mem = s.mem := rfl
@[simp] theorem State.next_poison (s : State) (n : Nat) : (s.next n).poison = s.poison := rfl
@[simp] theorem State.next_errs (s : State) (n : Nat) : (s.next n).errs = s.errs := rfl
@[simp] theorem State.next_seals (s : State) (n : Nat) : (s.next n).seals = s.seals := rfl
@[simp] theorem State.next_hostMem (s : State) (n : Nat) : (s.next n).hostMem = s.hostMem := rfl
@[simp] theorem State.next_peerMem (s : State) (n : Nat) : (s.next n).peerMem = s.peerMem := rfl
@[simp] theorem State.next_cycle (s : State) (n : Nat) : (s.next n).cycle = s.cycle := rfl
@[simp] theorem State.next_nextPid (s : State) (n : Nat) : (s.next n).nextPid = s.nextPid := rfl
@[simp] theorem State.next_dies (s : State) (n : Nat) : (s.next n).dies = s.dies := rfl
@[simp] theorem State.next_mesh (s : State) (n : Nat) : (s.next n).mesh = s.mesh := rfl
@[simp] theorem State.next_link (s : State) (n : Nat) : (s.next n).link = s.link := rfl
@[simp] theorem State.next_host (s : State) (n : Nat) : (s.next n).host = s.host := rfl
@[simp] theorem State.next_boot (s : State) (n : Nat) : (s.next n).boot = s.boot := rfl
@[simp] theorem State.next_power (s : State) (n : Nat) : (s.next n).power = s.power := rfl
@[simp] theorem State.next_idleAt (s : State) (n : Nat) : (s.next n).idleAt = s.idleAt := rfl
@[simp] theorem State.next_refillAt (s : State) (n : Nat) : (s.next n).refillAt = s.refillAt := rfl
@[simp] theorem State.next_evalAt (s : State) (n : Nat) : (s.next n).evalAt = s.evalAt := rfl
@[simp] theorem State.next_detects (s : State) (n : Nat) : (s.next n).detects = s.detects := rfl
@[simp] theorem State.next_nextId (s : State) (n : Nat) : (s.next n).nextId = s.nextId := rfl
@[simp] theorem State.next_draws (s : State) (n : Nat) : (s.next n).draws = s.draws := rfl
@[simp] theorem State.next_turn (s : State) (n : Nat) : (s.next n).turn = s.turn := rfl
@[simp] theorem State.next_agenda (s : State) (n : Nat) : (s.next n).agenda = s.agenda := rfl
@[simp] theorem State.next_l2 (s : State) (n : Nat) : (s.next n).l2 = s.l2 := rfl
@[simp] theorem State.next_garbled (s : State) (n : Nat) : (s.next n).garbled = s.garbled := rfl
@[simp] theorem State.next_outbox (s : State) (n : Nat) : (s.next n).outbox = s.outbox := rfl
@[simp] theorem State.next_waiting (s : State) (n : Nat) : (s.next n).waiting = s.waiting := rfl
@[simp] theorem State.next_waited (s : State) (n : Nat) : (s.next n).waited = s.waited := rfl

@[simp] theorem State.jump_procs (s : State) (x : Word) : (s.jump x).procs = s.procs := rfl
@[simp] theorem State.jump_cores (s : State) (x : Word) : (s.jump x).cores = s.cores := rfl
@[simp] theorem State.jump_quads (s : State) (x : Word) : (s.jump x).quads = s.quads := rfl
@[simp] theorem State.jump_parts (s : State) (x : Word) : (s.jump x).parts = s.parts := rfl
@[simp] theorem State.jump_cells (s : State) (x : Word) : (s.jump x).cells = s.cells := rfl
@[simp] theorem State.jump_entries (s : State) (x : Word) : (s.jump x).entries = s.entries := rfl
@[simp] theorem State.jump_pages (s : State) (x : Word) : (s.jump x).pages = s.pages := rfl
@[simp] theorem State.jump_mem (s : State) (x : Word) : (s.jump x).mem = s.mem := rfl
@[simp] theorem State.jump_poison (s : State) (x : Word) : (s.jump x).poison = s.poison := rfl
@[simp] theorem State.jump_errs (s : State) (x : Word) : (s.jump x).errs = s.errs := rfl
@[simp] theorem State.jump_seals (s : State) (x : Word) : (s.jump x).seals = s.seals := rfl
@[simp] theorem State.jump_hostMem (s : State) (x : Word) : (s.jump x).hostMem = s.hostMem := rfl
@[simp] theorem State.jump_peerMem (s : State) (x : Word) : (s.jump x).peerMem = s.peerMem := rfl
@[simp] theorem State.jump_cycle (s : State) (x : Word) : (s.jump x).cycle = s.cycle := rfl
@[simp] theorem State.jump_nextPid (s : State) (x : Word) : (s.jump x).nextPid = s.nextPid := rfl
@[simp] theorem State.jump_dies (s : State) (x : Word) : (s.jump x).dies = s.dies := rfl
@[simp] theorem State.jump_mesh (s : State) (x : Word) : (s.jump x).mesh = s.mesh := rfl
@[simp] theorem State.jump_link (s : State) (x : Word) : (s.jump x).link = s.link := rfl
@[simp] theorem State.jump_host (s : State) (x : Word) : (s.jump x).host = s.host := rfl
@[simp] theorem State.jump_boot (s : State) (x : Word) : (s.jump x).boot = s.boot := rfl
@[simp] theorem State.jump_power (s : State) (x : Word) : (s.jump x).power = s.power := rfl
@[simp] theorem State.jump_idleAt (s : State) (x : Word) : (s.jump x).idleAt = s.idleAt := rfl
@[simp] theorem State.jump_refillAt (s : State) (x : Word) : (s.jump x).refillAt = s.refillAt := rfl
@[simp] theorem State.jump_evalAt (s : State) (x : Word) : (s.jump x).evalAt = s.evalAt := rfl
@[simp] theorem State.jump_detects (s : State) (x : Word) : (s.jump x).detects = s.detects := rfl
@[simp] theorem State.jump_nextId (s : State) (x : Word) : (s.jump x).nextId = s.nextId := rfl
@[simp] theorem State.jump_draws (s : State) (x : Word) : (s.jump x).draws = s.draws := rfl
@[simp] theorem State.jump_turn (s : State) (x : Word) : (s.jump x).turn = s.turn := rfl
@[simp] theorem State.jump_agenda (s : State) (x : Word) : (s.jump x).agenda = s.agenda := rfl
@[simp] theorem State.jump_l2 (s : State) (x : Word) : (s.jump x).l2 = s.l2 := rfl
@[simp] theorem State.jump_garbled (s : State) (x : Word) : (s.jump x).garbled = s.garbled := rfl
@[simp] theorem State.jump_outbox (s : State) (x : Word) : (s.jump x).outbox = s.outbox := rfl
@[simp] theorem State.jump_waiting (s : State) (x : Word) : (s.jump x).waiting = s.waiting := rfl
@[simp] theorem State.jump_waited (s : State) (x : Word) : (s.jump x).waited = s.waited := rfl

@[simp] theorem State.joinF_procs (s : State) (f : Flags) : (s.joinF f).procs = s.procs := rfl
@[simp] theorem State.joinF_cores (s : State) (f : Flags) : (s.joinF f).cores = s.cores := rfl
@[simp] theorem State.joinF_quads (s : State) (f : Flags) : (s.joinF f).quads = s.quads := rfl
@[simp] theorem State.joinF_parts (s : State) (f : Flags) : (s.joinF f).parts = s.parts := rfl
@[simp] theorem State.joinF_cells (s : State) (f : Flags) : (s.joinF f).cells = s.cells := rfl
@[simp] theorem State.joinF_entries (s : State) (f : Flags) : (s.joinF f).entries = s.entries := rfl
@[simp] theorem State.joinF_pages (s : State) (f : Flags) : (s.joinF f).pages = s.pages := rfl
@[simp] theorem State.joinF_mem (s : State) (f : Flags) : (s.joinF f).mem = s.mem := rfl
@[simp] theorem State.joinF_poison (s : State) (f : Flags) : (s.joinF f).poison = s.poison := rfl
@[simp] theorem State.joinF_errs (s : State) (f : Flags) : (s.joinF f).errs = s.errs := rfl
@[simp] theorem State.joinF_seals (s : State) (f : Flags) : (s.joinF f).seals = s.seals := rfl
@[simp] theorem State.joinF_hostMem (s : State) (f : Flags) : (s.joinF f).hostMem = s.hostMem := rfl
@[simp] theorem State.joinF_peerMem (s : State) (f : Flags) : (s.joinF f).peerMem = s.peerMem := rfl
@[simp] theorem State.joinF_cycle (s : State) (f : Flags) : (s.joinF f).cycle = s.cycle := rfl
@[simp] theorem State.joinF_nextPid (s : State) (f : Flags) : (s.joinF f).nextPid = s.nextPid := rfl
@[simp] theorem State.joinF_dies (s : State) (f : Flags) : (s.joinF f).dies = s.dies := rfl
@[simp] theorem State.joinF_mesh (s : State) (f : Flags) : (s.joinF f).mesh = s.mesh := rfl
@[simp] theorem State.joinF_link (s : State) (f : Flags) : (s.joinF f).link = s.link := rfl
@[simp] theorem State.joinF_host (s : State) (f : Flags) : (s.joinF f).host = s.host := rfl
@[simp] theorem State.joinF_boot (s : State) (f : Flags) : (s.joinF f).boot = s.boot := rfl
@[simp] theorem State.joinF_power (s : State) (f : Flags) : (s.joinF f).power = s.power := rfl
@[simp] theorem State.joinF_idleAt (s : State) (f : Flags) : (s.joinF f).idleAt = s.idleAt := rfl
@[simp] theorem State.joinF_refillAt (s : State) (f : Flags) : (s.joinF f).refillAt = s.refillAt := rfl
@[simp] theorem State.joinF_evalAt (s : State) (f : Flags) : (s.joinF f).evalAt = s.evalAt := rfl
@[simp] theorem State.joinF_detects (s : State) (f : Flags) : (s.joinF f).detects = s.detects := rfl
@[simp] theorem State.joinF_nextId (s : State) (f : Flags) : (s.joinF f).nextId = s.nextId := rfl
@[simp] theorem State.joinF_draws (s : State) (f : Flags) : (s.joinF f).draws = s.draws := rfl
@[simp] theorem State.joinF_turn (s : State) (f : Flags) : (s.joinF f).turn = s.turn := rfl
@[simp] theorem State.joinF_agenda (s : State) (f : Flags) : (s.joinF f).agenda = s.agenda := rfl
@[simp] theorem State.joinF_l2 (s : State) (f : Flags) : (s.joinF f).l2 = s.l2 := rfl
@[simp] theorem State.joinF_garbled (s : State) (f : Flags) : (s.joinF f).garbled = s.garbled := rfl
@[simp] theorem State.joinF_outbox (s : State) (f : Flags) : (s.joinF f).outbox = s.outbox := rfl
@[simp] theorem State.joinF_waiting (s : State) (f : Flags) : (s.joinF f).waiting = s.waiting := rfl
@[simp] theorem State.joinF_waited (s : State) (f : Flags) : (s.joinF f).waited = s.waited := rfl

@[simp] theorem State.joinT_procs (s : State) (f : Flags) : (s.joinT f).procs = s.procs := rfl
@[simp] theorem State.joinT_cores (s : State) (f : Flags) : (s.joinT f).cores = s.cores := rfl
@[simp] theorem State.joinT_quads (s : State) (f : Flags) : (s.joinT f).quads = s.quads := rfl
@[simp] theorem State.joinT_parts (s : State) (f : Flags) : (s.joinT f).parts = s.parts := rfl
@[simp] theorem State.joinT_cells (s : State) (f : Flags) : (s.joinT f).cells = s.cells := rfl
@[simp] theorem State.joinT_entries (s : State) (f : Flags) : (s.joinT f).entries = s.entries := rfl
@[simp] theorem State.joinT_pages (s : State) (f : Flags) : (s.joinT f).pages = s.pages := rfl
@[simp] theorem State.joinT_mem (s : State) (f : Flags) : (s.joinT f).mem = s.mem := rfl
@[simp] theorem State.joinT_poison (s : State) (f : Flags) : (s.joinT f).poison = s.poison := rfl
@[simp] theorem State.joinT_errs (s : State) (f : Flags) : (s.joinT f).errs = s.errs := rfl
@[simp] theorem State.joinT_seals (s : State) (f : Flags) : (s.joinT f).seals = s.seals := rfl
@[simp] theorem State.joinT_hostMem (s : State) (f : Flags) : (s.joinT f).hostMem = s.hostMem := rfl
@[simp] theorem State.joinT_peerMem (s : State) (f : Flags) : (s.joinT f).peerMem = s.peerMem := rfl
@[simp] theorem State.joinT_cycle (s : State) (f : Flags) : (s.joinT f).cycle = s.cycle := rfl
@[simp] theorem State.joinT_nextPid (s : State) (f : Flags) : (s.joinT f).nextPid = s.nextPid := rfl
@[simp] theorem State.joinT_dies (s : State) (f : Flags) : (s.joinT f).dies = s.dies := rfl
@[simp] theorem State.joinT_mesh (s : State) (f : Flags) : (s.joinT f).mesh = s.mesh := rfl
@[simp] theorem State.joinT_link (s : State) (f : Flags) : (s.joinT f).link = s.link := rfl
@[simp] theorem State.joinT_host (s : State) (f : Flags) : (s.joinT f).host = s.host := rfl
@[simp] theorem State.joinT_boot (s : State) (f : Flags) : (s.joinT f).boot = s.boot := rfl
@[simp] theorem State.joinT_power (s : State) (f : Flags) : (s.joinT f).power = s.power := rfl
@[simp] theorem State.joinT_idleAt (s : State) (f : Flags) : (s.joinT f).idleAt = s.idleAt := rfl
@[simp] theorem State.joinT_refillAt (s : State) (f : Flags) : (s.joinT f).refillAt = s.refillAt := rfl
@[simp] theorem State.joinT_evalAt (s : State) (f : Flags) : (s.joinT f).evalAt = s.evalAt := rfl
@[simp] theorem State.joinT_detects (s : State) (f : Flags) : (s.joinT f).detects = s.detects := rfl
@[simp] theorem State.joinT_nextId (s : State) (f : Flags) : (s.joinT f).nextId = s.nextId := rfl
@[simp] theorem State.joinT_draws (s : State) (f : Flags) : (s.joinT f).draws = s.draws := rfl
@[simp] theorem State.joinT_turn (s : State) (f : Flags) : (s.joinT f).turn = s.turn := rfl
@[simp] theorem State.joinT_agenda (s : State) (f : Flags) : (s.joinT f).agenda = s.agenda := rfl
@[simp] theorem State.joinT_l2 (s : State) (f : Flags) : (s.joinT f).l2 = s.l2 := rfl
@[simp] theorem State.joinT_garbled (s : State) (f : Flags) : (s.joinT f).garbled = s.garbled := rfl
@[simp] theorem State.joinT_outbox (s : State) (f : Flags) : (s.joinT f).outbox = s.outbox := rfl
@[simp] theorem State.joinT_waiting (s : State) (f : Flags) : (s.joinT f).waiting = s.waiting := rfl
@[simp] theorem State.joinT_waited (s : State) (f : Flags) : (s.joinT f).waited = s.waited := rfl

@[simp] theorem State.setWords_procs (s : State) (a b : Word32) : (s.setWords a b).procs = s.procs := rfl
@[simp] theorem State.setWords_cores (s : State) (a b : Word32) : (s.setWords a b).cores = s.cores := rfl
@[simp] theorem State.setWords_quads (s : State) (a b : Word32) : (s.setWords a b).quads = s.quads := rfl
@[simp] theorem State.setWords_parts (s : State) (a b : Word32) : (s.setWords a b).parts = s.parts := rfl
@[simp] theorem State.setWords_cells (s : State) (a b : Word32) : (s.setWords a b).cells = s.cells := rfl
@[simp] theorem State.setWords_entries (s : State) (a b : Word32) : (s.setWords a b).entries = s.entries := rfl
@[simp] theorem State.setWords_pages (s : State) (a b : Word32) : (s.setWords a b).pages = s.pages := rfl
@[simp] theorem State.setWords_mem (s : State) (a b : Word32) : (s.setWords a b).mem = s.mem := rfl
@[simp] theorem State.setWords_poison (s : State) (a b : Word32) : (s.setWords a b).poison = s.poison := rfl
@[simp] theorem State.setWords_errs (s : State) (a b : Word32) : (s.setWords a b).errs = s.errs := rfl
@[simp] theorem State.setWords_seals (s : State) (a b : Word32) : (s.setWords a b).seals = s.seals := rfl
@[simp] theorem State.setWords_hostMem (s : State) (a b : Word32) : (s.setWords a b).hostMem = s.hostMem := rfl
@[simp] theorem State.setWords_peerMem (s : State) (a b : Word32) : (s.setWords a b).peerMem = s.peerMem := rfl
@[simp] theorem State.setWords_cycle (s : State) (a b : Word32) : (s.setWords a b).cycle = s.cycle := rfl
@[simp] theorem State.setWords_nextPid (s : State) (a b : Word32) : (s.setWords a b).nextPid = s.nextPid := rfl
@[simp] theorem State.setWords_dies (s : State) (a b : Word32) : (s.setWords a b).dies = s.dies := rfl
@[simp] theorem State.setWords_mesh (s : State) (a b : Word32) : (s.setWords a b).mesh = s.mesh := rfl
@[simp] theorem State.setWords_link (s : State) (a b : Word32) : (s.setWords a b).link = s.link := rfl
@[simp] theorem State.setWords_host (s : State) (a b : Word32) : (s.setWords a b).host = s.host := rfl
@[simp] theorem State.setWords_boot (s : State) (a b : Word32) : (s.setWords a b).boot = s.boot := rfl
@[simp] theorem State.setWords_power (s : State) (a b : Word32) : (s.setWords a b).power = s.power := rfl
@[simp] theorem State.setWords_idleAt (s : State) (a b : Word32) : (s.setWords a b).idleAt = s.idleAt := rfl
@[simp] theorem State.setWords_refillAt (s : State) (a b : Word32) : (s.setWords a b).refillAt = s.refillAt := rfl
@[simp] theorem State.setWords_evalAt (s : State) (a b : Word32) : (s.setWords a b).evalAt = s.evalAt := rfl
@[simp] theorem State.setWords_detects (s : State) (a b : Word32) : (s.setWords a b).detects = s.detects := rfl
@[simp] theorem State.setWords_nextId (s : State) (a b : Word32) : (s.setWords a b).nextId = s.nextId := rfl
@[simp] theorem State.setWords_draws (s : State) (a b : Word32) : (s.setWords a b).draws = s.draws := rfl
@[simp] theorem State.setWords_turn (s : State) (a b : Word32) : (s.setWords a b).turn = s.turn := rfl
@[simp] theorem State.setWords_agenda (s : State) (a b : Word32) : (s.setWords a b).agenda = s.agenda := rfl
@[simp] theorem State.setWords_l2 (s : State) (a b : Word32) : (s.setWords a b).l2 = s.l2 := rfl
@[simp] theorem State.setWords_garbled (s : State) (a b : Word32) : (s.setWords a b).garbled = s.garbled := rfl
@[simp] theorem State.setWords_outbox (s : State) (a b : Word32) : (s.setWords a b).outbox = s.outbox := rfl
@[simp] theorem State.setWords_waiting (s : State) (a b : Word32) : (s.setWords a b).waiting = s.waiting := rfl
@[simp] theorem State.setWords_waited (s : State) (a b : Word32) : (s.setWords a b).waited = s.waited := rfl

/-! ### Free values -/

@[simp] theorem State.drew_cur (s : State)  : (s.drew ).cur = s.cur := rfl
@[simp] theorem State.drew_procs (s : State)  : (s.drew ).procs = s.procs := rfl
@[simp] theorem State.drew_cores (s : State)  : (s.drew ).cores = s.cores := rfl
@[simp] theorem State.drew_quads (s : State)  : (s.drew ).quads = s.quads := rfl
@[simp] theorem State.drew_parts (s : State)  : (s.drew ).parts = s.parts := rfl
@[simp] theorem State.drew_cells (s : State)  : (s.drew ).cells = s.cells := rfl
@[simp] theorem State.drew_entries (s : State)  : (s.drew ).entries = s.entries := rfl
@[simp] theorem State.drew_pages (s : State)  : (s.drew ).pages = s.pages := rfl
@[simp] theorem State.drew_mem (s : State)  : (s.drew ).mem = s.mem := rfl
@[simp] theorem State.drew_poison (s : State)  : (s.drew ).poison = s.poison := rfl
@[simp] theorem State.drew_errs (s : State)  : (s.drew ).errs = s.errs := rfl
@[simp] theorem State.drew_seals (s : State)  : (s.drew ).seals = s.seals := rfl
@[simp] theorem State.drew_hostMem (s : State)  : (s.drew ).hostMem = s.hostMem := rfl
@[simp] theorem State.drew_peerMem (s : State)  : (s.drew ).peerMem = s.peerMem := rfl
@[simp] theorem State.drew_cycle (s : State)  : (s.drew ).cycle = s.cycle := rfl
@[simp] theorem State.drew_nextPid (s : State)  : (s.drew ).nextPid = s.nextPid := rfl
@[simp] theorem State.drew_dies (s : State)  : (s.drew ).dies = s.dies := rfl
@[simp] theorem State.drew_mesh (s : State)  : (s.drew ).mesh = s.mesh := rfl
@[simp] theorem State.drew_link (s : State)  : (s.drew ).link = s.link := rfl
@[simp] theorem State.drew_host (s : State)  : (s.drew ).host = s.host := rfl
@[simp] theorem State.drew_boot (s : State)  : (s.drew ).boot = s.boot := rfl
@[simp] theorem State.drew_power (s : State)  : (s.drew ).power = s.power := rfl
@[simp] theorem State.drew_idleAt (s : State)  : (s.drew ).idleAt = s.idleAt := rfl
@[simp] theorem State.drew_refillAt (s : State)  : (s.drew ).refillAt = s.refillAt := rfl
@[simp] theorem State.drew_evalAt (s : State)  : (s.drew ).evalAt = s.evalAt := rfl
@[simp] theorem State.drew_detects (s : State)  : (s.drew ).detects = s.detects := rfl
@[simp] theorem State.drew_nextId (s : State)  : (s.drew ).nextId = s.nextId := rfl
@[simp] theorem State.drew_turn (s : State)  : (s.drew ).turn = s.turn := rfl
@[simp] theorem State.drew_agenda (s : State)  : (s.drew ).agenda = s.agenda := rfl
@[simp] theorem State.drew_l2 (s : State)  : (s.drew ).l2 = s.l2 := rfl
@[simp] theorem State.drew_garbled (s : State)  : (s.drew ).garbled = s.garbled := rfl
@[simp] theorem State.drew_outbox (s : State)  : (s.drew ).outbox = s.outbox := rfl
@[simp] theorem State.drew_waiting (s : State)  : (s.drew ).waiting = s.waiting := rfl
@[simp] theorem State.drew_waited (s : State)  : (s.drew ).waited = s.waited := rfl

/-! ### Cores and quads -/

@[simp] theorem State.updCore_cur (s : State) (c : Nat) (f : Core → Core) : (s.updCore c f).cur = s.cur := by unfold State.updCore; split <;> rfl
@[simp] theorem State.updCore_procs (s : State) (c : Nat) (f : Core → Core) : (s.updCore c f).procs = s.procs := by unfold State.updCore; split <;> rfl
@[simp] theorem State.updCore_quads (s : State) (c : Nat) (f : Core → Core) : (s.updCore c f).quads = s.quads := by unfold State.updCore; split <;> rfl
@[simp] theorem State.updCore_parts (s : State) (c : Nat) (f : Core → Core) : (s.updCore c f).parts = s.parts := by unfold State.updCore; split <;> rfl
@[simp] theorem State.updCore_cells (s : State) (c : Nat) (f : Core → Core) : (s.updCore c f).cells = s.cells := by unfold State.updCore; split <;> rfl
@[simp] theorem State.updCore_entries (s : State) (c : Nat) (f : Core → Core) : (s.updCore c f).entries = s.entries := by unfold State.updCore; split <;> rfl
@[simp] theorem State.updCore_pages (s : State) (c : Nat) (f : Core → Core) : (s.updCore c f).pages = s.pages := by unfold State.updCore; split <;> rfl
@[simp] theorem State.updCore_mem (s : State) (c : Nat) (f : Core → Core) : (s.updCore c f).mem = s.mem := by unfold State.updCore; split <;> rfl
@[simp] theorem State.updCore_poison (s : State) (c : Nat) (f : Core → Core) : (s.updCore c f).poison = s.poison := by unfold State.updCore; split <;> rfl
@[simp] theorem State.updCore_errs (s : State) (c : Nat) (f : Core → Core) : (s.updCore c f).errs = s.errs := by unfold State.updCore; split <;> rfl
@[simp] theorem State.updCore_seals (s : State) (c : Nat) (f : Core → Core) : (s.updCore c f).seals = s.seals := by unfold State.updCore; split <;> rfl
@[simp] theorem State.updCore_hostMem (s : State) (c : Nat) (f : Core → Core) : (s.updCore c f).hostMem = s.hostMem := by unfold State.updCore; split <;> rfl
@[simp] theorem State.updCore_peerMem (s : State) (c : Nat) (f : Core → Core) : (s.updCore c f).peerMem = s.peerMem := by unfold State.updCore; split <;> rfl
@[simp] theorem State.updCore_cycle (s : State) (c : Nat) (f : Core → Core) : (s.updCore c f).cycle = s.cycle := by unfold State.updCore; split <;> rfl
@[simp] theorem State.updCore_nextPid (s : State) (c : Nat) (f : Core → Core) : (s.updCore c f).nextPid = s.nextPid := by unfold State.updCore; split <;> rfl
@[simp] theorem State.updCore_dies (s : State) (c : Nat) (f : Core → Core) : (s.updCore c f).dies = s.dies := by unfold State.updCore; split <;> rfl
@[simp] theorem State.updCore_mesh (s : State) (c : Nat) (f : Core → Core) : (s.updCore c f).mesh = s.mesh := by unfold State.updCore; split <;> rfl
@[simp] theorem State.updCore_link (s : State) (c : Nat) (f : Core → Core) : (s.updCore c f).link = s.link := by unfold State.updCore; split <;> rfl
@[simp] theorem State.updCore_host (s : State) (c : Nat) (f : Core → Core) : (s.updCore c f).host = s.host := by unfold State.updCore; split <;> rfl
@[simp] theorem State.updCore_boot (s : State) (c : Nat) (f : Core → Core) : (s.updCore c f).boot = s.boot := by unfold State.updCore; split <;> rfl
@[simp] theorem State.updCore_power (s : State) (c : Nat) (f : Core → Core) : (s.updCore c f).power = s.power := by unfold State.updCore; split <;> rfl
@[simp] theorem State.updCore_idleAt (s : State) (c : Nat) (f : Core → Core) : (s.updCore c f).idleAt = s.idleAt := by unfold State.updCore; split <;> rfl
@[simp] theorem State.updCore_refillAt (s : State) (c : Nat) (f : Core → Core) : (s.updCore c f).refillAt = s.refillAt := by unfold State.updCore; split <;> rfl
@[simp] theorem State.updCore_evalAt (s : State) (c : Nat) (f : Core → Core) : (s.updCore c f).evalAt = s.evalAt := by unfold State.updCore; split <;> rfl
@[simp] theorem State.updCore_detects (s : State) (c : Nat) (f : Core → Core) : (s.updCore c f).detects = s.detects := by unfold State.updCore; split <;> rfl
@[simp] theorem State.updCore_nextId (s : State) (c : Nat) (f : Core → Core) : (s.updCore c f).nextId = s.nextId := by unfold State.updCore; split <;> rfl
@[simp] theorem State.updCore_draws (s : State) (c : Nat) (f : Core → Core) : (s.updCore c f).draws = s.draws := by unfold State.updCore; split <;> rfl
@[simp] theorem State.updCore_turn (s : State) (c : Nat) (f : Core → Core) : (s.updCore c f).turn = s.turn := by unfold State.updCore; split <;> rfl
@[simp] theorem State.updCore_agenda (s : State) (c : Nat) (f : Core → Core) : (s.updCore c f).agenda = s.agenda := by unfold State.updCore; split <;> rfl
@[simp] theorem State.updCore_l2 (s : State) (c : Nat) (f : Core → Core) : (s.updCore c f).l2 = s.l2 := by unfold State.updCore; split <;> rfl
@[simp] theorem State.updCore_garbled (s : State) (c : Nat) (f : Core → Core) : (s.updCore c f).garbled = s.garbled := by unfold State.updCore; split <;> rfl
@[simp] theorem State.updCore_outbox (s : State) (c : Nat) (f : Core → Core) : (s.updCore c f).outbox = s.outbox := by unfold State.updCore; split <;> rfl
@[simp] theorem State.updCore_waiting (s : State) (c : Nat) (f : Core → Core) : (s.updCore c f).waiting = s.waiting := by unfold State.updCore; split <;> rfl
@[simp] theorem State.updCore_waited (s : State) (c : Nat) (f : Core → Core) : (s.updCore c f).waited = s.waited := by unfold State.updCore; split <;> rfl

@[simp] theorem State.updQuad_cur (s : State) (q : Nat) (f : Quad → Quad) : (s.updQuad q f).cur = s.cur := by unfold State.updQuad; split <;> rfl
@[simp] theorem State.updQuad_procs (s : State) (q : Nat) (f : Quad → Quad) : (s.updQuad q f).procs = s.procs := by unfold State.updQuad; split <;> rfl
@[simp] theorem State.updQuad_cores (s : State) (q : Nat) (f : Quad → Quad) : (s.updQuad q f).cores = s.cores := by unfold State.updQuad; split <;> rfl
@[simp] theorem State.updQuad_parts (s : State) (q : Nat) (f : Quad → Quad) : (s.updQuad q f).parts = s.parts := by unfold State.updQuad; split <;> rfl
@[simp] theorem State.updQuad_cells (s : State) (q : Nat) (f : Quad → Quad) : (s.updQuad q f).cells = s.cells := by unfold State.updQuad; split <;> rfl
@[simp] theorem State.updQuad_entries (s : State) (q : Nat) (f : Quad → Quad) : (s.updQuad q f).entries = s.entries := by unfold State.updQuad; split <;> rfl
@[simp] theorem State.updQuad_pages (s : State) (q : Nat) (f : Quad → Quad) : (s.updQuad q f).pages = s.pages := by unfold State.updQuad; split <;> rfl
@[simp] theorem State.updQuad_mem (s : State) (q : Nat) (f : Quad → Quad) : (s.updQuad q f).mem = s.mem := by unfold State.updQuad; split <;> rfl
@[simp] theorem State.updQuad_poison (s : State) (q : Nat) (f : Quad → Quad) : (s.updQuad q f).poison = s.poison := by unfold State.updQuad; split <;> rfl
@[simp] theorem State.updQuad_errs (s : State) (q : Nat) (f : Quad → Quad) : (s.updQuad q f).errs = s.errs := by unfold State.updQuad; split <;> rfl
@[simp] theorem State.updQuad_seals (s : State) (q : Nat) (f : Quad → Quad) : (s.updQuad q f).seals = s.seals := by unfold State.updQuad; split <;> rfl
@[simp] theorem State.updQuad_hostMem (s : State) (q : Nat) (f : Quad → Quad) : (s.updQuad q f).hostMem = s.hostMem := by unfold State.updQuad; split <;> rfl
@[simp] theorem State.updQuad_peerMem (s : State) (q : Nat) (f : Quad → Quad) : (s.updQuad q f).peerMem = s.peerMem := by unfold State.updQuad; split <;> rfl
@[simp] theorem State.updQuad_cycle (s : State) (q : Nat) (f : Quad → Quad) : (s.updQuad q f).cycle = s.cycle := by unfold State.updQuad; split <;> rfl
@[simp] theorem State.updQuad_nextPid (s : State) (q : Nat) (f : Quad → Quad) : (s.updQuad q f).nextPid = s.nextPid := by unfold State.updQuad; split <;> rfl
@[simp] theorem State.updQuad_dies (s : State) (q : Nat) (f : Quad → Quad) : (s.updQuad q f).dies = s.dies := by unfold State.updQuad; split <;> rfl
@[simp] theorem State.updQuad_mesh (s : State) (q : Nat) (f : Quad → Quad) : (s.updQuad q f).mesh = s.mesh := by unfold State.updQuad; split <;> rfl
@[simp] theorem State.updQuad_link (s : State) (q : Nat) (f : Quad → Quad) : (s.updQuad q f).link = s.link := by unfold State.updQuad; split <;> rfl
@[simp] theorem State.updQuad_host (s : State) (q : Nat) (f : Quad → Quad) : (s.updQuad q f).host = s.host := by unfold State.updQuad; split <;> rfl
@[simp] theorem State.updQuad_boot (s : State) (q : Nat) (f : Quad → Quad) : (s.updQuad q f).boot = s.boot := by unfold State.updQuad; split <;> rfl
@[simp] theorem State.updQuad_power (s : State) (q : Nat) (f : Quad → Quad) : (s.updQuad q f).power = s.power := by unfold State.updQuad; split <;> rfl
@[simp] theorem State.updQuad_idleAt (s : State) (q : Nat) (f : Quad → Quad) : (s.updQuad q f).idleAt = s.idleAt := by unfold State.updQuad; split <;> rfl
@[simp] theorem State.updQuad_refillAt (s : State) (q : Nat) (f : Quad → Quad) : (s.updQuad q f).refillAt = s.refillAt := by unfold State.updQuad; split <;> rfl
@[simp] theorem State.updQuad_evalAt (s : State) (q : Nat) (f : Quad → Quad) : (s.updQuad q f).evalAt = s.evalAt := by unfold State.updQuad; split <;> rfl
@[simp] theorem State.updQuad_detects (s : State) (q : Nat) (f : Quad → Quad) : (s.updQuad q f).detects = s.detects := by unfold State.updQuad; split <;> rfl
@[simp] theorem State.updQuad_nextId (s : State) (q : Nat) (f : Quad → Quad) : (s.updQuad q f).nextId = s.nextId := by unfold State.updQuad; split <;> rfl
@[simp] theorem State.updQuad_draws (s : State) (q : Nat) (f : Quad → Quad) : (s.updQuad q f).draws = s.draws := by unfold State.updQuad; split <;> rfl
@[simp] theorem State.updQuad_turn (s : State) (q : Nat) (f : Quad → Quad) : (s.updQuad q f).turn = s.turn := by unfold State.updQuad; split <;> rfl
@[simp] theorem State.updQuad_agenda (s : State) (q : Nat) (f : Quad → Quad) : (s.updQuad q f).agenda = s.agenda := by unfold State.updQuad; split <;> rfl
@[simp] theorem State.updQuad_l2 (s : State) (q : Nat) (f : Quad → Quad) : (s.updQuad q f).l2 = s.l2 := by unfold State.updQuad; split <;> rfl
@[simp] theorem State.updQuad_garbled (s : State) (q : Nat) (f : Quad → Quad) : (s.updQuad q f).garbled = s.garbled := by unfold State.updQuad; split <;> rfl
@[simp] theorem State.updQuad_outbox (s : State) (q : Nat) (f : Quad → Quad) : (s.updQuad q f).outbox = s.outbox := by unfold State.updQuad; split <;> rfl
@[simp] theorem State.updQuad_waiting (s : State) (q : Nat) (f : Quad → Quad) : (s.updQuad q f).waiting = s.waiting := by unfold State.updQuad; split <;> rfl
@[simp] theorem State.updQuad_waited (s : State) (q : Nat) (f : Quad → Quad) : (s.updQuad q f).waited = s.waited := by unfold State.updQuad; split <;> rfl

@[simp] theorem State.flushL1_cur (s : State) (c : Nat) : (s.flushL1 c).cur = s.cur := State.updCore_cur s c _
@[simp] theorem State.flushL1_procs (s : State) (c : Nat) : (s.flushL1 c).procs = s.procs := State.updCore_procs s c _
@[simp] theorem State.flushL1_quads (s : State) (c : Nat) : (s.flushL1 c).quads = s.quads := State.updCore_quads s c _
@[simp] theorem State.flushL1_parts (s : State) (c : Nat) : (s.flushL1 c).parts = s.parts := State.updCore_parts s c _
@[simp] theorem State.flushL1_cells (s : State) (c : Nat) : (s.flushL1 c).cells = s.cells := State.updCore_cells s c _
@[simp] theorem State.flushL1_entries (s : State) (c : Nat) : (s.flushL1 c).entries = s.entries := State.updCore_entries s c _
@[simp] theorem State.flushL1_pages (s : State) (c : Nat) : (s.flushL1 c).pages = s.pages := State.updCore_pages s c _
@[simp] theorem State.flushL1_mem (s : State) (c : Nat) : (s.flushL1 c).mem = s.mem := State.updCore_mem s c _
@[simp] theorem State.flushL1_poison (s : State) (c : Nat) : (s.flushL1 c).poison = s.poison := State.updCore_poison s c _
@[simp] theorem State.flushL1_errs (s : State) (c : Nat) : (s.flushL1 c).errs = s.errs := State.updCore_errs s c _
@[simp] theorem State.flushL1_seals (s : State) (c : Nat) : (s.flushL1 c).seals = s.seals := State.updCore_seals s c _
@[simp] theorem State.flushL1_hostMem (s : State) (c : Nat) : (s.flushL1 c).hostMem = s.hostMem := State.updCore_hostMem s c _
@[simp] theorem State.flushL1_peerMem (s : State) (c : Nat) : (s.flushL1 c).peerMem = s.peerMem := State.updCore_peerMem s c _
@[simp] theorem State.flushL1_cycle (s : State) (c : Nat) : (s.flushL1 c).cycle = s.cycle := State.updCore_cycle s c _
@[simp] theorem State.flushL1_nextPid (s : State) (c : Nat) : (s.flushL1 c).nextPid = s.nextPid := State.updCore_nextPid s c _
@[simp] theorem State.flushL1_dies (s : State) (c : Nat) : (s.flushL1 c).dies = s.dies := State.updCore_dies s c _
@[simp] theorem State.flushL1_mesh (s : State) (c : Nat) : (s.flushL1 c).mesh = s.mesh := State.updCore_mesh s c _
@[simp] theorem State.flushL1_link (s : State) (c : Nat) : (s.flushL1 c).link = s.link := State.updCore_link s c _
@[simp] theorem State.flushL1_host (s : State) (c : Nat) : (s.flushL1 c).host = s.host := State.updCore_host s c _
@[simp] theorem State.flushL1_boot (s : State) (c : Nat) : (s.flushL1 c).boot = s.boot := State.updCore_boot s c _
@[simp] theorem State.flushL1_power (s : State) (c : Nat) : (s.flushL1 c).power = s.power := State.updCore_power s c _
@[simp] theorem State.flushL1_idleAt (s : State) (c : Nat) : (s.flushL1 c).idleAt = s.idleAt := State.updCore_idleAt s c _
@[simp] theorem State.flushL1_refillAt (s : State) (c : Nat) : (s.flushL1 c).refillAt = s.refillAt := State.updCore_refillAt s c _
@[simp] theorem State.flushL1_evalAt (s : State) (c : Nat) : (s.flushL1 c).evalAt = s.evalAt := State.updCore_evalAt s c _
@[simp] theorem State.flushL1_detects (s : State) (c : Nat) : (s.flushL1 c).detects = s.detects := State.updCore_detects s c _
@[simp] theorem State.flushL1_nextId (s : State) (c : Nat) : (s.flushL1 c).nextId = s.nextId := State.updCore_nextId s c _
@[simp] theorem State.flushL1_draws (s : State) (c : Nat) : (s.flushL1 c).draws = s.draws := State.updCore_draws s c _
@[simp] theorem State.flushL1_turn (s : State) (c : Nat) : (s.flushL1 c).turn = s.turn := State.updCore_turn s c _
@[simp] theorem State.flushL1_agenda (s : State) (c : Nat) : (s.flushL1 c).agenda = s.agenda := State.updCore_agenda s c _
@[simp] theorem State.flushL1_l2 (s : State) (c : Nat) : (s.flushL1 c).l2 = s.l2 := State.updCore_l2 s c _
@[simp] theorem State.flushL1_garbled (s : State) (c : Nat) : (s.flushL1 c).garbled = s.garbled := State.updCore_garbled s c _
@[simp] theorem State.flushL1_outbox (s : State) (c : Nat) : (s.flushL1 c).outbox = s.outbox := State.updCore_outbox s c _
@[simp] theorem State.flushL1_waiting (s : State) (c : Nat) : (s.flushL1 c).waiting = s.waiting := State.updCore_waiting s c _
@[simp] theorem State.flushL1_waited (s : State) (c : Nat) : (s.flushL1 c).waited = s.waited := State.updCore_waited s c _

/-! ### Partitions -/

@[simp] theorem State.updPart_cur (s : State) (n : Nat) (f : Part → Part) : (s.updPart n f).cur = s.cur := rfl
@[simp] theorem State.updPart_procs (s : State) (n : Nat) (f : Part → Part) : (s.updPart n f).procs = s.procs := rfl
@[simp] theorem State.updPart_cores (s : State) (n : Nat) (f : Part → Part) : (s.updPart n f).cores = s.cores := rfl
@[simp] theorem State.updPart_quads (s : State) (n : Nat) (f : Part → Part) : (s.updPart n f).quads = s.quads := rfl
@[simp] theorem State.updPart_cells (s : State) (n : Nat) (f : Part → Part) : (s.updPart n f).cells = s.cells := rfl
@[simp] theorem State.updPart_entries (s : State) (n : Nat) (f : Part → Part) : (s.updPart n f).entries = s.entries := rfl
@[simp] theorem State.updPart_pages (s : State) (n : Nat) (f : Part → Part) : (s.updPart n f).pages = s.pages := rfl
@[simp] theorem State.updPart_mem (s : State) (n : Nat) (f : Part → Part) : (s.updPart n f).mem = s.mem := rfl
@[simp] theorem State.updPart_poison (s : State) (n : Nat) (f : Part → Part) : (s.updPart n f).poison = s.poison := rfl
@[simp] theorem State.updPart_errs (s : State) (n : Nat) (f : Part → Part) : (s.updPart n f).errs = s.errs := rfl
@[simp] theorem State.updPart_seals (s : State) (n : Nat) (f : Part → Part) : (s.updPart n f).seals = s.seals := rfl
@[simp] theorem State.updPart_hostMem (s : State) (n : Nat) (f : Part → Part) : (s.updPart n f).hostMem = s.hostMem := rfl
@[simp] theorem State.updPart_peerMem (s : State) (n : Nat) (f : Part → Part) : (s.updPart n f).peerMem = s.peerMem := rfl
@[simp] theorem State.updPart_cycle (s : State) (n : Nat) (f : Part → Part) : (s.updPart n f).cycle = s.cycle := rfl
@[simp] theorem State.updPart_nextPid (s : State) (n : Nat) (f : Part → Part) : (s.updPart n f).nextPid = s.nextPid := rfl
@[simp] theorem State.updPart_dies (s : State) (n : Nat) (f : Part → Part) : (s.updPart n f).dies = s.dies := rfl
@[simp] theorem State.updPart_mesh (s : State) (n : Nat) (f : Part → Part) : (s.updPart n f).mesh = s.mesh := rfl
@[simp] theorem State.updPart_link (s : State) (n : Nat) (f : Part → Part) : (s.updPart n f).link = s.link := rfl
@[simp] theorem State.updPart_host (s : State) (n : Nat) (f : Part → Part) : (s.updPart n f).host = s.host := rfl
@[simp] theorem State.updPart_boot (s : State) (n : Nat) (f : Part → Part) : (s.updPart n f).boot = s.boot := rfl
@[simp] theorem State.updPart_power (s : State) (n : Nat) (f : Part → Part) : (s.updPart n f).power = s.power := rfl
@[simp] theorem State.updPart_idleAt (s : State) (n : Nat) (f : Part → Part) : (s.updPart n f).idleAt = s.idleAt := rfl
@[simp] theorem State.updPart_refillAt (s : State) (n : Nat) (f : Part → Part) : (s.updPart n f).refillAt = s.refillAt := rfl
@[simp] theorem State.updPart_evalAt (s : State) (n : Nat) (f : Part → Part) : (s.updPart n f).evalAt = s.evalAt := rfl
@[simp] theorem State.updPart_detects (s : State) (n : Nat) (f : Part → Part) : (s.updPart n f).detects = s.detects := rfl
@[simp] theorem State.updPart_nextId (s : State) (n : Nat) (f : Part → Part) : (s.updPart n f).nextId = s.nextId := rfl
@[simp] theorem State.updPart_draws (s : State) (n : Nat) (f : Part → Part) : (s.updPart n f).draws = s.draws := rfl
@[simp] theorem State.updPart_turn (s : State) (n : Nat) (f : Part → Part) : (s.updPart n f).turn = s.turn := rfl
@[simp] theorem State.updPart_agenda (s : State) (n : Nat) (f : Part → Part) : (s.updPart n f).agenda = s.agenda := rfl
@[simp] theorem State.updPart_l2 (s : State) (n : Nat) (f : Part → Part) : (s.updPart n f).l2 = s.l2 := rfl
@[simp] theorem State.updPart_garbled (s : State) (n : Nat) (f : Part → Part) : (s.updPart n f).garbled = s.garbled := rfl
@[simp] theorem State.updPart_outbox (s : State) (n : Nat) (f : Part → Part) : (s.updPart n f).outbox = s.outbox := rfl
@[simp] theorem State.updPart_waiting (s : State) (n : Nat) (f : Part → Part) : (s.updPart n f).waiting = s.waiting := rfl
@[simp] theorem State.updPart_waited (s : State) (n : Nat) (f : Part → Part) : (s.updPart n f).waited = s.waited := rfl

/-! ### Processes -/

@[simp] theorem State.updProc_cores (s : State) (pid : Pid) (f : Proc → Proc) : (s.updProc pid f).cores = s.cores := by unfold State.updProc; split <;> rfl
@[simp] theorem State.updProc_quads (s : State) (pid : Pid) (f : Proc → Proc) : (s.updProc pid f).quads = s.quads := by unfold State.updProc; split <;> rfl
@[simp] theorem State.updProc_parts (s : State) (pid : Pid) (f : Proc → Proc) : (s.updProc pid f).parts = s.parts := by unfold State.updProc; split <;> rfl
@[simp] theorem State.updProc_cells (s : State) (pid : Pid) (f : Proc → Proc) : (s.updProc pid f).cells = s.cells := by unfold State.updProc; split <;> rfl
@[simp] theorem State.updProc_entries (s : State) (pid : Pid) (f : Proc → Proc) : (s.updProc pid f).entries = s.entries := by unfold State.updProc; split <;> rfl
@[simp] theorem State.updProc_pages (s : State) (pid : Pid) (f : Proc → Proc) : (s.updProc pid f).pages = s.pages := by unfold State.updProc; split <;> rfl
@[simp] theorem State.updProc_mem (s : State) (pid : Pid) (f : Proc → Proc) : (s.updProc pid f).mem = s.mem := by unfold State.updProc; split <;> rfl
@[simp] theorem State.updProc_poison (s : State) (pid : Pid) (f : Proc → Proc) : (s.updProc pid f).poison = s.poison := by unfold State.updProc; split <;> rfl
@[simp] theorem State.updProc_errs (s : State) (pid : Pid) (f : Proc → Proc) : (s.updProc pid f).errs = s.errs := by unfold State.updProc; split <;> rfl
@[simp] theorem State.updProc_seals (s : State) (pid : Pid) (f : Proc → Proc) : (s.updProc pid f).seals = s.seals := by unfold State.updProc; split <;> rfl
@[simp] theorem State.updProc_hostMem (s : State) (pid : Pid) (f : Proc → Proc) : (s.updProc pid f).hostMem = s.hostMem := by unfold State.updProc; split <;> rfl
@[simp] theorem State.updProc_peerMem (s : State) (pid : Pid) (f : Proc → Proc) : (s.updProc pid f).peerMem = s.peerMem := by unfold State.updProc; split <;> rfl
@[simp] theorem State.updProc_cycle (s : State) (pid : Pid) (f : Proc → Proc) : (s.updProc pid f).cycle = s.cycle := by unfold State.updProc; split <;> rfl
@[simp] theorem State.updProc_nextPid (s : State) (pid : Pid) (f : Proc → Proc) : (s.updProc pid f).nextPid = s.nextPid := by unfold State.updProc; split <;> rfl
@[simp] theorem State.updProc_dies (s : State) (pid : Pid) (f : Proc → Proc) : (s.updProc pid f).dies = s.dies := by unfold State.updProc; split <;> rfl
@[simp] theorem State.updProc_mesh (s : State) (pid : Pid) (f : Proc → Proc) : (s.updProc pid f).mesh = s.mesh := by unfold State.updProc; split <;> rfl
@[simp] theorem State.updProc_link (s : State) (pid : Pid) (f : Proc → Proc) : (s.updProc pid f).link = s.link := by unfold State.updProc; split <;> rfl
@[simp] theorem State.updProc_host (s : State) (pid : Pid) (f : Proc → Proc) : (s.updProc pid f).host = s.host := by unfold State.updProc; split <;> rfl
@[simp] theorem State.updProc_boot (s : State) (pid : Pid) (f : Proc → Proc) : (s.updProc pid f).boot = s.boot := by unfold State.updProc; split <;> rfl
@[simp] theorem State.updProc_power (s : State) (pid : Pid) (f : Proc → Proc) : (s.updProc pid f).power = s.power := by unfold State.updProc; split <;> rfl
@[simp] theorem State.updProc_idleAt (s : State) (pid : Pid) (f : Proc → Proc) : (s.updProc pid f).idleAt = s.idleAt := by unfold State.updProc; split <;> rfl
@[simp] theorem State.updProc_refillAt (s : State) (pid : Pid) (f : Proc → Proc) : (s.updProc pid f).refillAt = s.refillAt := by unfold State.updProc; split <;> rfl
@[simp] theorem State.updProc_evalAt (s : State) (pid : Pid) (f : Proc → Proc) : (s.updProc pid f).evalAt = s.evalAt := by unfold State.updProc; split <;> rfl
@[simp] theorem State.updProc_detects (s : State) (pid : Pid) (f : Proc → Proc) : (s.updProc pid f).detects = s.detects := by unfold State.updProc; split <;> rfl
@[simp] theorem State.updProc_nextId (s : State) (pid : Pid) (f : Proc → Proc) : (s.updProc pid f).nextId = s.nextId := by unfold State.updProc; split <;> rfl
@[simp] theorem State.updProc_draws (s : State) (pid : Pid) (f : Proc → Proc) : (s.updProc pid f).draws = s.draws := by unfold State.updProc; split <;> rfl
@[simp] theorem State.updProc_turn (s : State) (pid : Pid) (f : Proc → Proc) : (s.updProc pid f).turn = s.turn := by unfold State.updProc; split <;> rfl
@[simp] theorem State.updProc_agenda (s : State) (pid : Pid) (f : Proc → Proc) : (s.updProc pid f).agenda = s.agenda := by unfold State.updProc; split <;> rfl
@[simp] theorem State.updProc_l2 (s : State) (pid : Pid) (f : Proc → Proc) : (s.updProc pid f).l2 = s.l2 := by unfold State.updProc; split <;> rfl
@[simp] theorem State.updProc_garbled (s : State) (pid : Pid) (f : Proc → Proc) : (s.updProc pid f).garbled = s.garbled := by unfold State.updProc; split <;> rfl
@[simp] theorem State.updProc_outbox (s : State) (pid : Pid) (f : Proc → Proc) : (s.updProc pid f).outbox = s.outbox := by unfold State.updProc; split <;> rfl
@[simp] theorem State.updProc_waiting (s : State) (pid : Pid) (f : Proc → Proc) : (s.updProc pid f).waiting = s.waiting := by unfold State.updProc; split <;> rfl
@[simp] theorem State.updProc_waited (s : State) (pid : Pid) (f : Proc → Proc) : (s.updProc pid f).waited = s.waited := by unfold State.updProc; split <;> rfl

@[simp] theorem State.mapProcs_cores (s : State) (f : Proc → Proc) : (s.mapProcs f).cores = s.cores := rfl
@[simp] theorem State.mapProcs_quads (s : State) (f : Proc → Proc) : (s.mapProcs f).quads = s.quads := rfl
@[simp] theorem State.mapProcs_parts (s : State) (f : Proc → Proc) : (s.mapProcs f).parts = s.parts := rfl
@[simp] theorem State.mapProcs_cells (s : State) (f : Proc → Proc) : (s.mapProcs f).cells = s.cells := rfl
@[simp] theorem State.mapProcs_entries (s : State) (f : Proc → Proc) : (s.mapProcs f).entries = s.entries := rfl
@[simp] theorem State.mapProcs_pages (s : State) (f : Proc → Proc) : (s.mapProcs f).pages = s.pages := rfl
@[simp] theorem State.mapProcs_mem (s : State) (f : Proc → Proc) : (s.mapProcs f).mem = s.mem := rfl
@[simp] theorem State.mapProcs_poison (s : State) (f : Proc → Proc) : (s.mapProcs f).poison = s.poison := rfl
@[simp] theorem State.mapProcs_errs (s : State) (f : Proc → Proc) : (s.mapProcs f).errs = s.errs := rfl
@[simp] theorem State.mapProcs_seals (s : State) (f : Proc → Proc) : (s.mapProcs f).seals = s.seals := rfl
@[simp] theorem State.mapProcs_hostMem (s : State) (f : Proc → Proc) : (s.mapProcs f).hostMem = s.hostMem := rfl
@[simp] theorem State.mapProcs_peerMem (s : State) (f : Proc → Proc) : (s.mapProcs f).peerMem = s.peerMem := rfl
@[simp] theorem State.mapProcs_cycle (s : State) (f : Proc → Proc) : (s.mapProcs f).cycle = s.cycle := rfl
@[simp] theorem State.mapProcs_nextPid (s : State) (f : Proc → Proc) : (s.mapProcs f).nextPid = s.nextPid := rfl
@[simp] theorem State.mapProcs_dies (s : State) (f : Proc → Proc) : (s.mapProcs f).dies = s.dies := rfl
@[simp] theorem State.mapProcs_mesh (s : State) (f : Proc → Proc) : (s.mapProcs f).mesh = s.mesh := rfl
@[simp] theorem State.mapProcs_link (s : State) (f : Proc → Proc) : (s.mapProcs f).link = s.link := rfl
@[simp] theorem State.mapProcs_host (s : State) (f : Proc → Proc) : (s.mapProcs f).host = s.host := rfl
@[simp] theorem State.mapProcs_boot (s : State) (f : Proc → Proc) : (s.mapProcs f).boot = s.boot := rfl
@[simp] theorem State.mapProcs_power (s : State) (f : Proc → Proc) : (s.mapProcs f).power = s.power := rfl
@[simp] theorem State.mapProcs_idleAt (s : State) (f : Proc → Proc) : (s.mapProcs f).idleAt = s.idleAt := rfl
@[simp] theorem State.mapProcs_refillAt (s : State) (f : Proc → Proc) : (s.mapProcs f).refillAt = s.refillAt := rfl
@[simp] theorem State.mapProcs_evalAt (s : State) (f : Proc → Proc) : (s.mapProcs f).evalAt = s.evalAt := rfl
@[simp] theorem State.mapProcs_detects (s : State) (f : Proc → Proc) : (s.mapProcs f).detects = s.detects := rfl
@[simp] theorem State.mapProcs_nextId (s : State) (f : Proc → Proc) : (s.mapProcs f).nextId = s.nextId := rfl
@[simp] theorem State.mapProcs_draws (s : State) (f : Proc → Proc) : (s.mapProcs f).draws = s.draws := rfl
@[simp] theorem State.mapProcs_turn (s : State) (f : Proc → Proc) : (s.mapProcs f).turn = s.turn := rfl
@[simp] theorem State.mapProcs_agenda (s : State) (f : Proc → Proc) : (s.mapProcs f).agenda = s.agenda := rfl
@[simp] theorem State.mapProcs_l2 (s : State) (f : Proc → Proc) : (s.mapProcs f).l2 = s.l2 := rfl
@[simp] theorem State.mapProcs_garbled (s : State) (f : Proc → Proc) : (s.mapProcs f).garbled = s.garbled := rfl
@[simp] theorem State.mapProcs_outbox (s : State) (f : Proc → Proc) : (s.mapProcs f).outbox = s.outbox := rfl
@[simp] theorem State.mapProcs_waiting (s : State) (f : Proc → Proc) : (s.mapProcs f).waiting = s.waiting := rfl
@[simp] theorem State.mapProcs_waited (s : State) (f : Proc → Proc) : (s.mapProcs f).waited = s.waited := rfl

@[simp] theorem State.dropProc_cores (s : State) (pid : Pid) : (s.dropProc pid).cores = s.cores := by unfold State.dropProc; split <;> rfl
@[simp] theorem State.dropProc_quads (s : State) (pid : Pid) : (s.dropProc pid).quads = s.quads := by unfold State.dropProc; split <;> rfl
@[simp] theorem State.dropProc_parts (s : State) (pid : Pid) : (s.dropProc pid).parts = s.parts := by unfold State.dropProc; split <;> rfl
@[simp] theorem State.dropProc_cells (s : State) (pid : Pid) : (s.dropProc pid).cells = s.cells := by unfold State.dropProc; split <;> rfl
@[simp] theorem State.dropProc_entries (s : State) (pid : Pid) : (s.dropProc pid).entries = s.entries := by unfold State.dropProc; split <;> rfl
@[simp] theorem State.dropProc_pages (s : State) (pid : Pid) : (s.dropProc pid).pages = s.pages := by unfold State.dropProc; split <;> rfl
@[simp] theorem State.dropProc_mem (s : State) (pid : Pid) : (s.dropProc pid).mem = s.mem := by unfold State.dropProc; split <;> rfl
@[simp] theorem State.dropProc_poison (s : State) (pid : Pid) : (s.dropProc pid).poison = s.poison := by unfold State.dropProc; split <;> rfl
@[simp] theorem State.dropProc_errs (s : State) (pid : Pid) : (s.dropProc pid).errs = s.errs := by unfold State.dropProc; split <;> rfl
@[simp] theorem State.dropProc_seals (s : State) (pid : Pid) : (s.dropProc pid).seals = s.seals := by unfold State.dropProc; split <;> rfl
@[simp] theorem State.dropProc_hostMem (s : State) (pid : Pid) : (s.dropProc pid).hostMem = s.hostMem := by unfold State.dropProc; split <;> rfl
@[simp] theorem State.dropProc_peerMem (s : State) (pid : Pid) : (s.dropProc pid).peerMem = s.peerMem := by unfold State.dropProc; split <;> rfl
@[simp] theorem State.dropProc_cycle (s : State) (pid : Pid) : (s.dropProc pid).cycle = s.cycle := by unfold State.dropProc; split <;> rfl
@[simp] theorem State.dropProc_nextPid (s : State) (pid : Pid) : (s.dropProc pid).nextPid = s.nextPid := by unfold State.dropProc; split <;> rfl
@[simp] theorem State.dropProc_dies (s : State) (pid : Pid) : (s.dropProc pid).dies = s.dies := by unfold State.dropProc; split <;> rfl
@[simp] theorem State.dropProc_mesh (s : State) (pid : Pid) : (s.dropProc pid).mesh = s.mesh := by unfold State.dropProc; split <;> rfl
@[simp] theorem State.dropProc_link (s : State) (pid : Pid) : (s.dropProc pid).link = s.link := by unfold State.dropProc; split <;> rfl
@[simp] theorem State.dropProc_host (s : State) (pid : Pid) : (s.dropProc pid).host = s.host := by unfold State.dropProc; split <;> rfl
@[simp] theorem State.dropProc_boot (s : State) (pid : Pid) : (s.dropProc pid).boot = s.boot := by unfold State.dropProc; split <;> rfl
@[simp] theorem State.dropProc_power (s : State) (pid : Pid) : (s.dropProc pid).power = s.power := by unfold State.dropProc; split <;> rfl
@[simp] theorem State.dropProc_idleAt (s : State) (pid : Pid) : (s.dropProc pid).idleAt = s.idleAt := by unfold State.dropProc; split <;> rfl
@[simp] theorem State.dropProc_refillAt (s : State) (pid : Pid) : (s.dropProc pid).refillAt = s.refillAt := by unfold State.dropProc; split <;> rfl
@[simp] theorem State.dropProc_evalAt (s : State) (pid : Pid) : (s.dropProc pid).evalAt = s.evalAt := by unfold State.dropProc; split <;> rfl
@[simp] theorem State.dropProc_detects (s : State) (pid : Pid) : (s.dropProc pid).detects = s.detects := by unfold State.dropProc; split <;> rfl
@[simp] theorem State.dropProc_nextId (s : State) (pid : Pid) : (s.dropProc pid).nextId = s.nextId := by unfold State.dropProc; split <;> rfl
@[simp] theorem State.dropProc_draws (s : State) (pid : Pid) : (s.dropProc pid).draws = s.draws := by unfold State.dropProc; split <;> rfl
@[simp] theorem State.dropProc_turn (s : State) (pid : Pid) : (s.dropProc pid).turn = s.turn := by unfold State.dropProc; split <;> rfl
@[simp] theorem State.dropProc_agenda (s : State) (pid : Pid) : (s.dropProc pid).agenda = s.agenda := by unfold State.dropProc; split <;> rfl
@[simp] theorem State.dropProc_l2 (s : State) (pid : Pid) : (s.dropProc pid).l2 = s.l2 := by unfold State.dropProc; split <;> rfl
@[simp] theorem State.dropProc_garbled (s : State) (pid : Pid) : (s.dropProc pid).garbled = s.garbled := by unfold State.dropProc; split <;> rfl
@[simp] theorem State.dropProc_outbox (s : State) (pid : Pid) : (s.dropProc pid).outbox = s.outbox := by unfold State.dropProc; split <;> rfl
@[simp] theorem State.dropProc_waiting (s : State) (pid : Pid) : (s.dropProc pid).waiting = s.waiting := by unfold State.dropProc; split <;> rfl
@[simp] theorem State.dropProc_waited (s : State) (pid : Pid) : (s.dropProc pid).waited = s.waited := by unfold State.dropProc; split <;> rfl

@[simp] theorem State.switchTo_cores (s : State) (pid : Pid) : (s.switchTo pid).cores = s.cores := by unfold State.switchTo; repeat' split <;> try rfl
@[simp] theorem State.switchTo_quads (s : State) (pid : Pid) : (s.switchTo pid).quads = s.quads := by unfold State.switchTo; repeat' split <;> try rfl
@[simp] theorem State.switchTo_parts (s : State) (pid : Pid) : (s.switchTo pid).parts = s.parts := by unfold State.switchTo; repeat' split <;> try rfl
@[simp] theorem State.switchTo_cells (s : State) (pid : Pid) : (s.switchTo pid).cells = s.cells := by unfold State.switchTo; repeat' split <;> try rfl
@[simp] theorem State.switchTo_entries (s : State) (pid : Pid) : (s.switchTo pid).entries = s.entries := by unfold State.switchTo; repeat' split <;> try rfl
@[simp] theorem State.switchTo_pages (s : State) (pid : Pid) : (s.switchTo pid).pages = s.pages := by unfold State.switchTo; repeat' split <;> try rfl
@[simp] theorem State.switchTo_mem (s : State) (pid : Pid) : (s.switchTo pid).mem = s.mem := by unfold State.switchTo; repeat' split <;> try rfl
@[simp] theorem State.switchTo_poison (s : State) (pid : Pid) : (s.switchTo pid).poison = s.poison := by unfold State.switchTo; repeat' split <;> try rfl
@[simp] theorem State.switchTo_errs (s : State) (pid : Pid) : (s.switchTo pid).errs = s.errs := by unfold State.switchTo; repeat' split <;> try rfl
@[simp] theorem State.switchTo_seals (s : State) (pid : Pid) : (s.switchTo pid).seals = s.seals := by unfold State.switchTo; repeat' split <;> try rfl
@[simp] theorem State.switchTo_hostMem (s : State) (pid : Pid) : (s.switchTo pid).hostMem = s.hostMem := by unfold State.switchTo; repeat' split <;> try rfl
@[simp] theorem State.switchTo_peerMem (s : State) (pid : Pid) : (s.switchTo pid).peerMem = s.peerMem := by unfold State.switchTo; repeat' split <;> try rfl
@[simp] theorem State.switchTo_cycle (s : State) (pid : Pid) : (s.switchTo pid).cycle = s.cycle := by unfold State.switchTo; repeat' split <;> try rfl
@[simp] theorem State.switchTo_nextPid (s : State) (pid : Pid) : (s.switchTo pid).nextPid = s.nextPid := by unfold State.switchTo; repeat' split <;> try rfl
@[simp] theorem State.switchTo_dies (s : State) (pid : Pid) : (s.switchTo pid).dies = s.dies := by unfold State.switchTo; repeat' split <;> try rfl
@[simp] theorem State.switchTo_mesh (s : State) (pid : Pid) : (s.switchTo pid).mesh = s.mesh := by unfold State.switchTo; repeat' split <;> try rfl
@[simp] theorem State.switchTo_link (s : State) (pid : Pid) : (s.switchTo pid).link = s.link := by unfold State.switchTo; repeat' split <;> try rfl
@[simp] theorem State.switchTo_host (s : State) (pid : Pid) : (s.switchTo pid).host = s.host := by unfold State.switchTo; repeat' split <;> try rfl
@[simp] theorem State.switchTo_boot (s : State) (pid : Pid) : (s.switchTo pid).boot = s.boot := by unfold State.switchTo; repeat' split <;> try rfl
@[simp] theorem State.switchTo_power (s : State) (pid : Pid) : (s.switchTo pid).power = s.power := by unfold State.switchTo; repeat' split <;> try rfl
@[simp] theorem State.switchTo_idleAt (s : State) (pid : Pid) : (s.switchTo pid).idleAt = s.idleAt := by unfold State.switchTo; repeat' split <;> try rfl
@[simp] theorem State.switchTo_refillAt (s : State) (pid : Pid) : (s.switchTo pid).refillAt = s.refillAt := by unfold State.switchTo; repeat' split <;> try rfl
@[simp] theorem State.switchTo_evalAt (s : State) (pid : Pid) : (s.switchTo pid).evalAt = s.evalAt := by unfold State.switchTo; repeat' split <;> try rfl
@[simp] theorem State.switchTo_detects (s : State) (pid : Pid) : (s.switchTo pid).detects = s.detects := by unfold State.switchTo; repeat' split <;> try rfl
@[simp] theorem State.switchTo_nextId (s : State) (pid : Pid) : (s.switchTo pid).nextId = s.nextId := by unfold State.switchTo; repeat' split <;> try rfl
@[simp] theorem State.switchTo_draws (s : State) (pid : Pid) : (s.switchTo pid).draws = s.draws := by unfold State.switchTo; repeat' split <;> try rfl
@[simp] theorem State.switchTo_turn (s : State) (pid : Pid) : (s.switchTo pid).turn = s.turn := by unfold State.switchTo; repeat' split <;> try rfl
@[simp] theorem State.switchTo_agenda (s : State) (pid : Pid) : (s.switchTo pid).agenda = s.agenda := by unfold State.switchTo; repeat' split <;> try rfl
@[simp] theorem State.switchTo_l2 (s : State) (pid : Pid) : (s.switchTo pid).l2 = s.l2 := by unfold State.switchTo; repeat' split <;> try rfl
@[simp] theorem State.switchTo_garbled (s : State) (pid : Pid) : (s.switchTo pid).garbled = s.garbled := by unfold State.switchTo; repeat' split <;> try rfl
@[simp] theorem State.switchTo_outbox (s : State) (pid : Pid) : (s.switchTo pid).outbox = s.outbox := by unfold State.switchTo; repeat' split <;> try rfl
@[simp] theorem State.switchTo_waiting (s : State) (pid : Pid) : (s.switchTo pid).waiting = s.waiting := by unfold State.switchTo; repeat' split <;> try rfl
@[simp] theorem State.switchTo_waited (s : State) (pid : Pid) : (s.switchTo pid).waited = s.waited := by unfold State.switchTo; repeat' split <;> try rfl

/-! ### The host port -/

@[simp] theorem State.hostEvent_cur (s : State) (k : Nat) (w : List Word) : (s.hostEvent k w).cur = s.cur := by simp only [State.hostEvent]; split <;> rfl
@[simp] theorem State.hostEvent_procs (s : State) (k : Nat) (w : List Word) : (s.hostEvent k w).procs = s.procs := by simp only [State.hostEvent]; split <;> rfl
@[simp] theorem State.hostEvent_cores (s : State) (k : Nat) (w : List Word) : (s.hostEvent k w).cores = s.cores := by simp only [State.hostEvent]; split <;> rfl
@[simp] theorem State.hostEvent_quads (s : State) (k : Nat) (w : List Word) : (s.hostEvent k w).quads = s.quads := by simp only [State.hostEvent]; split <;> rfl
@[simp] theorem State.hostEvent_parts (s : State) (k : Nat) (w : List Word) : (s.hostEvent k w).parts = s.parts := by simp only [State.hostEvent]; split <;> rfl
@[simp] theorem State.hostEvent_cells (s : State) (k : Nat) (w : List Word) : (s.hostEvent k w).cells = s.cells := by simp only [State.hostEvent]; split <;> rfl
@[simp] theorem State.hostEvent_entries (s : State) (k : Nat) (w : List Word) : (s.hostEvent k w).entries = s.entries := by simp only [State.hostEvent]; split <;> rfl
@[simp] theorem State.hostEvent_pages (s : State) (k : Nat) (w : List Word) : (s.hostEvent k w).pages = s.pages := by simp only [State.hostEvent]; split <;> rfl
@[simp] theorem State.hostEvent_mem (s : State) (k : Nat) (w : List Word) : (s.hostEvent k w).mem = s.mem := by simp only [State.hostEvent]; split <;> rfl
@[simp] theorem State.hostEvent_poison (s : State) (k : Nat) (w : List Word) : (s.hostEvent k w).poison = s.poison := by simp only [State.hostEvent]; split <;> rfl
@[simp] theorem State.hostEvent_errs (s : State) (k : Nat) (w : List Word) : (s.hostEvent k w).errs = s.errs := by simp only [State.hostEvent]; split <;> rfl
@[simp] theorem State.hostEvent_seals (s : State) (k : Nat) (w : List Word) : (s.hostEvent k w).seals = s.seals := by simp only [State.hostEvent]; split <;> rfl
@[simp] theorem State.hostEvent_hostMem (s : State) (k : Nat) (w : List Word) : (s.hostEvent k w).hostMem = s.hostMem := by simp only [State.hostEvent]; split <;> rfl
@[simp] theorem State.hostEvent_peerMem (s : State) (k : Nat) (w : List Word) : (s.hostEvent k w).peerMem = s.peerMem := by simp only [State.hostEvent]; split <;> rfl
@[simp] theorem State.hostEvent_cycle (s : State) (k : Nat) (w : List Word) : (s.hostEvent k w).cycle = s.cycle := by simp only [State.hostEvent]; split <;> rfl
@[simp] theorem State.hostEvent_nextPid (s : State) (k : Nat) (w : List Word) : (s.hostEvent k w).nextPid = s.nextPid := by simp only [State.hostEvent]; split <;> rfl
@[simp] theorem State.hostEvent_dies (s : State) (k : Nat) (w : List Word) : (s.hostEvent k w).dies = s.dies := by simp only [State.hostEvent]; split <;> rfl
@[simp] theorem State.hostEvent_mesh (s : State) (k : Nat) (w : List Word) : (s.hostEvent k w).mesh = s.mesh := by simp only [State.hostEvent]; split <;> rfl
@[simp] theorem State.hostEvent_link (s : State) (k : Nat) (w : List Word) : (s.hostEvent k w).link = s.link := by simp only [State.hostEvent]; split <;> rfl
@[simp] theorem State.hostEvent_boot (s : State) (k : Nat) (w : List Word) : (s.hostEvent k w).boot = s.boot := by simp only [State.hostEvent]; split <;> rfl
@[simp] theorem State.hostEvent_power (s : State) (k : Nat) (w : List Word) : (s.hostEvent k w).power = s.power := by simp only [State.hostEvent]; split <;> rfl
@[simp] theorem State.hostEvent_idleAt (s : State) (k : Nat) (w : List Word) : (s.hostEvent k w).idleAt = s.idleAt := by simp only [State.hostEvent]; split <;> rfl
@[simp] theorem State.hostEvent_refillAt (s : State) (k : Nat) (w : List Word) : (s.hostEvent k w).refillAt = s.refillAt := by simp only [State.hostEvent]; split <;> rfl
@[simp] theorem State.hostEvent_evalAt (s : State) (k : Nat) (w : List Word) : (s.hostEvent k w).evalAt = s.evalAt := by simp only [State.hostEvent]; split <;> rfl
@[simp] theorem State.hostEvent_detects (s : State) (k : Nat) (w : List Word) : (s.hostEvent k w).detects = s.detects := by simp only [State.hostEvent]; split <;> rfl
@[simp] theorem State.hostEvent_nextId (s : State) (k : Nat) (w : List Word) : (s.hostEvent k w).nextId = s.nextId := by simp only [State.hostEvent]; split <;> rfl
@[simp] theorem State.hostEvent_draws (s : State) (k : Nat) (w : List Word) : (s.hostEvent k w).draws = s.draws := by simp only [State.hostEvent]; split <;> rfl
@[simp] theorem State.hostEvent_turn (s : State) (k : Nat) (w : List Word) : (s.hostEvent k w).turn = s.turn := by simp only [State.hostEvent]; split <;> rfl
@[simp] theorem State.hostEvent_agenda (s : State) (k : Nat) (w : List Word) : (s.hostEvent k w).agenda = s.agenda := by simp only [State.hostEvent]; split <;> rfl
@[simp] theorem State.hostEvent_l2 (s : State) (k : Nat) (w : List Word) : (s.hostEvent k w).l2 = s.l2 := by simp only [State.hostEvent]; split <;> rfl
@[simp] theorem State.hostEvent_garbled (s : State) (k : Nat) (w : List Word) : (s.hostEvent k w).garbled = s.garbled := by simp only [State.hostEvent]; split <;> rfl
@[simp] theorem State.hostEvent_outbox (s : State) (k : Nat) (w : List Word) : (s.hostEvent k w).outbox = s.outbox := by simp only [State.hostEvent]; split <;> rfl
@[simp] theorem State.hostEvent_waiting (s : State) (k : Nat) (w : List Word) : (s.hostEvent k w).waiting = s.waiting := by simp only [State.hostEvent]; split <;> rfl
@[simp] theorem State.hostEvent_waited (s : State) (k : Nat) (w : List Word) : (s.hostEvent k w).waited = s.waited := by simp only [State.hostEvent]; split <;> rfl
/-! ### A scalar register of a process -/

@[simp] theorem Proc.wr_pid (p : Proc) (d : SReg) (v : Word) : (p.wr d v).pid = p.pid := by unfold Proc.wr; split <;> rfl
@[simp] theorem Proc.wr_part (p : Proc) (d : SReg) (v : Word) : (p.wr d v).part = p.part := by unfold Proc.wr; split <;> rfl
@[simp] theorem Proc.wr_prio (p : Proc) (d : SReg) (v : Word) : (p.wr d v).prio = p.prio := by unfold Proc.wr; split <;> rfl
@[simp] theorem Proc.wr_sup (p : Proc) (d : SReg) (v : Word) : (p.wr d v).sup = p.sup := by unfold Proc.wr; split <;> rfl
@[simp] theorem Proc.wr_ip (p : Proc) (d : SReg) (v : Word) : (p.wr d v).ip = p.ip := by unfold Proc.wr; split <;> rfl
@[simp] theorem Proc.wr_fcsr (p : Proc) (d : SReg) (v : Word) : (p.wr d v).fcsr = p.fcsr := by unfold Proc.wr; split <;> rfl
@[simp] theorem Proc.wr_tcsr (p : Proc) (d : SReg) (v : Word) : (p.wr d v).tcsr = p.tcsr := by unfold Proc.wr; split <;> rfl
@[simp] theorem Proc.wr_t (p : Proc) (d : SReg) (v : Word) : (p.wr d v).t = p.t := by unfold Proc.wr; split <;> rfl
@[simp] theorem Proc.wr_e (p : Proc) (d : SReg) (v : Word) : (p.wr d v).e = p.e := by unfold Proc.wr; split <;> rfl
@[simp] theorem Proc.wr_g (p : Proc) (d : SReg) (v : Word) : (p.wr d v).g = p.g := by unfold Proc.wr; split <;> rfl
@[simp] theorem Proc.wr_spSlot (p : Proc) (d : SReg) (v : Word) : (p.wr d v).spSlot = p.spSlot := by unfold Proc.wr; split <;> rfl
@[simp] theorem Proc.wr_spDir (p : Proc) (d : SReg) (v : Word) : (p.wr d v).spDir = p.spDir := by unfold Proc.wr; split <;> rfl
@[simp] theorem Proc.wr_wbSkip (p : Proc) (d : SReg) (v : Word) : (p.wr d v).wbSkip = p.wbSkip := by unfold Proc.wr; split <;> rfl
@[simp] theorem Proc.wr_latch (p : Proc) (d : SReg) (v : Word) : (p.wr d v).latch = p.latch := by unfold Proc.wr; split <;> rfl
@[simp] theorem Proc.wr_region (p : Proc) (d : SReg) (v : Word) : (p.wr d v).region = p.region := by unfold Proc.wr; split <;> rfl
@[simp] theorem Proc.wr_altLast (p : Proc) (d : SReg) (v : Word) : (p.wr d v).altLast = p.altLast := by unfold Proc.wr; split <;> rfl
@[simp] theorem Proc.wr_wait (p : Proc) (d : SReg) (v : Word) : (p.wr d v).wait = p.wait := by unfold Proc.wr; split <;> rfl
@[simp] theorem Proc.wr_waitGen (p : Proc) (d : SReg) (v : Word) : (p.wr d v).waitGen = p.waitGen := by unfold Proc.wr; split <;> rfl
@[simp] theorem Proc.wr_waitAt (p : Proc) (d : SReg) (v : Word) : (p.wr d v).waitAt = p.waitAt := by unfold Proc.wr; split <;> rfl
@[simp] theorem Proc.wr_probeAt (p : Proc) (d : SReg) (v : Word) : (p.wr d v).probeAt = p.probeAt := by unfold Proc.wr; split <;> rfl
@[simp] theorem Proc.wr_place (p : Proc) (d : SReg) (v : Word) : (p.wr d v).place = p.place := by unfold Proc.wr; split <;> rfl
@[simp] theorem Proc.wr_home (p : Proc) (d : SReg) (v : Word) : (p.wr d v).home = p.home := by unfold Proc.wr; split <;> rfl
@[simp] theorem Proc.wr_faulted (p : Proc) (d : SReg) (v : Word) : (p.wr d v).faulted = p.faulted := by unfold Proc.wr; split <;> rfl
@[simp] theorem Proc.wr_held (p : Proc) (d : SReg) (v : Word) : (p.wr d v).held = p.held := by unfold Proc.wr; split <;> rfl
@[simp] theorem Proc.wr_halted (p : Proc) (d : SReg) (v : Word) : (p.wr d v).halted = p.halted := by unfold Proc.wr; split <;> rfl
@[simp] theorem Proc.wr_stepping (p : Proc) (d : SReg) (v : Word) : (p.wr d v).stepping = p.stepping := by unfold Proc.wr; split <;> rfl
@[simp] theorem Proc.wr_skipBp (p : Proc) (d : SReg) (v : Word) : (p.wr d v).skipBp = p.skipBp := by unfold Proc.wr; split <;> rfl
@[simp] theorem Proc.wr_stall (p : Proc) (d : SReg) (v : Word) : (p.wr d v).stall = p.stall := by unfold Proc.wr; split <;> rfl
@[simp] theorem Proc.wr_pageIns (p : Proc) (d : SReg) (v : Word) : (p.wr d v).pageIns = p.pageIns := by unfold Proc.wr; split <;> rfl
@[simp] theorem Proc.wr_pagerStop (p : Proc) (d : SReg) (v : Word) : (p.wr d v).pagerStop = p.pagerStop := by unfold Proc.wr; split <;> rfl
@[simp] theorem Proc.wr_early (p : Proc) (d : SReg) (v : Word) : (p.wr d v).early = p.early := by unfold Proc.wr; split <;> rfl
@[simp] theorem Proc.wr_haltOp (p : Proc) (d : SReg) (v : Word) : (p.wr d v).haltOp = p.haltOp := by unfold Proc.wr; split <;> rfl
@[simp] theorem Proc.wr_imageOk (p : Proc) (d : SReg) (v : Word) : (p.wr d v).imageOk = p.imageOk := by unfold Proc.wr; split <;> rfl
@[simp] theorem Proc.wr_record (p : Proc) (d : SReg) (v : Word) : (p.wr d v).record = p.record := by unfold Proc.wr; split <;> rfl
@[simp] theorem Proc.wr_stores (p : Proc) (d : SReg) (v : Word) : (p.wr d v).stores = p.stores := by unfold Proc.wr; split <;> rfl
@[simp] theorem Proc.wr_rob (p : Proc) (d : SReg) (v : Word) : (p.wr d v).rob = p.rob := by unfold Proc.wr; split <;> rfl
@[simp] theorem Proc.wr_bmask (p : Proc) (d : SReg) (v : Word) : (p.wr d v).bmask = p.bmask := by unfold Proc.wr; split <;> rfl
@[simp] theorem Proc.wr_wmask (p : Proc) (d : SReg) (v : Word) : (p.wr d v).wmask = p.wmask := by unfold Proc.wr; split <;> rfl
@[simp] theorem Proc.wr_hinge (p : Proc) (d : SReg) (v : Word) : (p.wr d v).hinge = p.hinge := by unfold Proc.wr; split <;> rfl
@[simp] theorem Proc.wr_dbgsel (p : Proc) (d : SReg) (v : Word) : (p.wr d v).dbgsel = p.dbgsel := by unfold Proc.wr; split <;> rfl
@[simp] theorem Proc.wr_join (p : Proc) (d : SReg) (v : Word) : (p.wr d v).join = p.join := by unfold Proc.wr; split <;> rfl
@[simp] theorem Proc.wr_exitCode (p : Proc) (d : SReg) (v : Word) : (p.wr d v).exitCode = p.exitCode := by unfold Proc.wr; split <;> rfl
@[simp] theorem Proc.wr_killed (p : Proc) (d : SReg) (v : Word) : (p.wr d v).killed = p.killed := by unfold Proc.wr; split <;> rfl
@[simp] theorem Proc.wr_since (p : Proc) (d : SReg) (v : Word) : (p.wr d v).since = p.since := by unfold Proc.wr; split <;> rfl
@[simp] theorem Proc.wr_runAt (p : Proc) (d : SReg) (v : Word) : (p.wr d v).runAt = p.runAt := by unfold Proc.wr; split <;> rfl
@[simp] theorem Proc.wr_movedAt (p : Proc) (d : SReg) (v : Word) : (p.wr d v).movedAt = p.movedAt := by unfold Proc.wr; split <;> rfl
@[simp] theorem Proc.wr_nextHome (p : Proc) (d : SReg) (v : Word) : (p.wr d v).nextHome = p.nextHome := by unfold Proc.wr; split <;> rfl
@[simp] theorem Proc.wr_iw0 (p : Proc) (d : SReg) (v : Word) : (p.wr d v).iw0 = p.iw0 := by unfold Proc.wr; split <;> rfl
@[simp] theorem Proc.wr_iw1 (p : Proc) (d : SReg) (v : Word) : (p.wr d v).iw1 = p.iw1 := by unfold Proc.wr; split <;> rfl
@[simp] theorem Proc.wr_acc (p : Proc) (d : SReg) (v : Word) : (p.wr d v).acc = p.acc := by unfold Proc.wr; split <;> rfl
@[simp] theorem Proc.wr_winAt (p : Proc) (d : SReg) (v : Word) : (p.wr d v).winAt = p.winAt := by unfold Proc.wr; split <;> rfl

@[simp] theorem Proc.rd_zero (p : Proc) : p.rd 0 = 0 := rfl

@[simp] theorem Proc.wr_zero (p : Proc) (v : Word) : p.wr 0 v = p := rfl

theorem Proc.rd_wr_same (p : Proc) (d : SReg) (v : Word) (h : d ≠ 0) : (p.wr d v).rd d = v := by
  simp [Proc.rd, Proc.wr, h]

theorem Proc.rd_wr_other (p : Proc) (d r : SReg) (v : Word) (h : r ≠ d) : (p.wr d v).rd r = p.rd r := by
  have hv : d.val ≠ r.val := fun e => h (Fin.ext e.symm)
  unfold Proc.rd Proc.wr
  split
  · rfl
  · split
    · rfl
    · simp [hv]

/-! ### The executing context after an update -/

@[simp] theorem State.wr_cur (s : State) (d : SReg) (v : Word) : (s.wr d v).cur = s.cur.wr d v := rfl
@[simp] theorem State.next_cur (s : State) (n : Nat) :
    (s.next n).cur = { s.cur with ip := s.cur.ip + BitVec.ofNat 64 n } := rfl
@[simp] theorem State.jump_cur (s : State) (x : Word) : (s.jump x).cur = { s.cur with ip := x } := rfl
@[simp] theorem State.joinF_cur (s : State) (f : Flags) :
    (s.joinF f).cur = { s.cur with fcsr := s.cur.fcsr ||| f.fcsr } := rfl
@[simp] theorem State.joinT_cur (s : State) (f : Flags) :
    (s.joinT f).cur = { s.cur with tcsr := s.cur.tcsr ||| f.tcsr } := rfl
@[simp] theorem State.wrE_cur (s : State) (d : EReg) (v : Word32) :
    (s.wrE d v).cur = { s.cur with e := s.cur.e.set d v } := rfl
@[simp] theorem State.setWords_cur (s : State) (a b : Word32) :
    (s.setWords a b).cur = { s.cur with iw0 := a, iw1 := b } := rfl
@[simp] theorem State.mapProcs_cur (s : State) (f : Proc → Proc) : (s.mapProcs f).cur = f s.cur := rfl
@[simp] theorem State.drew_draws (s : State) : s.drew.draws = s.draws + 1 := rfl

/-! ### Scalar reads after an update -/

@[simp] theorem State.rd_zero (s : State) : s.rd 0 = 0 := rfl
@[simp] theorem State.wr_zero (s : State) (v : Word) : s.wr 0 v = s := rfl
@[simp] theorem State.next_rd (s : State) (n : Nat) (r : SReg) : (s.next n).rd r = s.rd r := rfl
@[simp] theorem State.jump_rd (s : State) (x : Word) (r : SReg) : (s.jump x).rd r = s.rd r := rfl
@[simp] theorem State.joinF_rd (s : State) (f : Flags) (r : SReg) : (s.joinF f).rd r = s.rd r := rfl
@[simp] theorem State.joinT_rd (s : State) (f : Flags) (r : SReg) : (s.joinT f).rd r = s.rd r := rfl
@[simp] theorem State.wrE_rd (s : State) (d : EReg) (v : Word32) (r : SReg) : (s.wrE d v).rd r = s.rd r := rfl

theorem State.rd_wr_same (s : State) (d : SReg) (v : Word) (h : d ≠ 0) : (s.wr d v).rd d = v :=
  Proc.rd_wr_same s.cur d v h

theorem State.rd_wr_other (s : State) (d r : SReg) (v : Word) (h : r ≠ d) : (s.wr d v).rd r = s.rd r :=
  Proc.rd_wr_other s.cur d r v h

/-! ### What is found after an update -/

theorem State.core_updCore (s : State) (c : Nat) (f : Core → Core) (h : c < 90) :
    (s.updCore c f).core c = f (s.core c) := by
  simp [State.core, State.updCore, h]

theorem State.core_updCore_other (s : State) (c d : Nat) (f : Core → Core) (h : d ≠ c) :
    (s.updCore c f).core d = s.core d := by
  unfold State.core State.updCore
  split
  · split
    · simp [h.symm]
    · rfl
  · rfl

theorem State.quad_updQuad (s : State) (q : Nat) (f : Quad → Quad) (h : q < 24) :
    (s.updQuad q f).quad q = f (s.quad q) := by
  simp [State.quad, State.updQuad, h]

theorem State.quad_updQuad_other (s : State) (q r : Nat) (f : Quad → Quad) (h : r ≠ q) :
    (s.updQuad q f).quad r = s.quad r := by
  unfold State.quad State.updQuad
  split
  · split
    · simp [h.symm]
    · rfl
  · rfl

@[simp] theorem State.updCore_quad (s : State) (c : Nat) (f : Core → Core) (q : Nat) :
    (s.updCore c f).quad q = s.quad q := by unfold State.quad; simp

@[simp] theorem State.updCore_part? (s : State) (c : Nat) (f : Core → Core) (n : Nat) :
    (s.updCore c f).part? n = s.part? n := by unfold State.part?; simp

@[simp] theorem State.updCore_part (s : State) (c : Nat) (f : Core → Core) (n : Nat) :
    (s.updCore c f).part n = s.part n := by unfold State.part; simp

@[simp] theorem State.updProc_part (s : State) (pid : Pid) (f : Proc → Proc) (n : Nat) :
    (s.updProc pid f).part n = s.part n := by simp [State.part, State.part?]

@[simp] theorem State.updProc_core (s : State) (pid : Pid) (f : Proc → Proc) (c : Nat) :
    (s.updProc pid f).core c = s.core c := by simp [State.core]

@[simp] theorem State.updCore_proc? (s : State) (c : Nat) (f : Core → Core) (pid : Pid) :
    (s.updCore c f).proc? pid = s.proc? pid := by simp [State.proc?]

@[simp] theorem State.updPart_proc? (s : State) (n : Nat) (f : Part → Part) (pid : Pid) :
    (s.updPart n f).proc? pid = s.proc? pid := rfl

@[simp] theorem State.updPart_core (s : State) (n : Nat) (f : Part → Part) (c : Nat) :
    (s.updPart n f).core c = s.core c := rfl

/-- What a search by a key finds after the entries of one key have changed without changing it. -/
theorem find?_map_at {α β : Type} [DecidableEq β] (key : α → β) (f : α → α) (hf : ∀ p, key (f p) = key p) (k q : β)
    (l : List α) :
    (l.map (fun p => if key p = k then f p else p)).find? (fun p => key p == q)
      = if q = k then (l.find? (fun p => key p == q)).map f else l.find? (fun p => key p == q) := by
  induction l with
  | nil => simp
  | cons a l ih =>
    rw [List.map_cons]
    by_cases hq : key a = q
    · by_cases hk : key a = k
      · have e : q = k := hq.symm.trans hk
        rw [if_pos hk, List.find?_cons_of_pos (by simp [hf, hq]), List.find?_cons_of_pos (by simp [hq])]
        simp [e]
      · have e : q ≠ k := fun h => hk (hq.trans h)
        rw [if_neg hk, List.find?_cons_of_pos (by simp [hq]), List.find?_cons_of_pos (by simp [hq])]
        simp [e]
    · have h1 : key (if key a = k then f a else a) ≠ q := by split <;> simp [hf, hq]
      rw [List.find?_cons_of_neg (by simpa using h1), List.find?_cons_of_neg (by simpa using hq), ih]

/-- A process found after a change of one process: the changed one, or what stood there. -/
theorem State.proc?_updProc (s : State) (pid q : Pid) (f : Proc → Proc) (hf : ∀ p, (f p).pid = p.pid) :
    (s.updProc pid f).proc? q = if q = pid then (s.proc? q).map f else s.proc? q := by
  unfold State.proc? State.updProc
  by_cases hq : q = 0
  · simp [hq]
  by_cases hc : s.cur.pid = pid
  · subst hc
    by_cases h : s.cur.pid = q
    · subst h; simp only [hf, hq, if_true, if_false, Option.map_some]
    · have h' : q ≠ s.cur.pid := fun e => h e.symm
      simp [hf, h, h']
  · simp only [hc, if_false, hq]
    by_cases h : s.cur.pid = q
    · have hqp : q ≠ pid := fun e => hc (h.trans e)
      simp [h, hqp]
    · simpa only [h, if_false] using find?_map_at Proc.pid f hf pid q s.procs

/-- The partition found after a change of one partition. -/
theorem State.part?_updPart (s : State) (n m : Nat) (f : Part → Part) (hf : ∀ p, (f p).num = p.num) :
    (s.updPart n f).part? m = if m = n then (s.part? m).map f else s.part? m :=
  find?_map_at Part.num f hf n m s.parts

end Sys2Proof.Machine
end

