-- ==== Sys2Proof/Laws/Memory.lean ====
section
/-! SUPPORT. The byte memory keeps its canonical form, a write is read back and leaves every other byte, and what the
device's own writes do to the memories. -/

namespace Sys2Proof.Machine

/-! ### The canonical form -/

theorem Memory.wfFrom_mono {m : Memory} {lo lo' : Nat} (hl : lo' ≤ lo) (h : Memory.wfFrom lo m = true) :
    Memory.wfFrom lo' m = true := by
  cases m with
  | nil => rfl
  | cons c r =>
    obtain ⟨k, v⟩ := c
    simp only [Memory.wfFrom, Bool.and_eq_true, decide_eq_true_eq] at h ⊢
    exact ⟨⟨by omega, h.1.2⟩, h.2⟩

/-- Below its first address a canonical memory reads 0. -/
theorem Memory.get_below {m : Memory} {lo a : Nat} (h : Memory.wfFrom lo m = true) (ha : a < lo) : m.get a = 0 := by
  cases m with
  | nil => rfl
  | cons c r =>
    obtain ⟨k, v⟩ := c
    simp only [Memory.wfFrom, Bool.and_eq_true, decide_eq_true_eq] at h
    simp [Memory.get, show k ≠ a by omega, show a < k by omega]

theorem Memory.wfFrom_set {m : Memory} {lo a : Nat} {v : Byte} (h : Memory.wfFrom lo m = true) (hl : lo ≤ a) :
    Memory.wfFrom lo (m.set a v) = true := by
  induction m generalizing lo with
  | nil =>
    unfold Memory.set
    split
    · rfl
    · rename_i hv; simp [Memory.wfFrom, hl, show ¬v = 0#8 from hv]
  | cons c r ih =>
    obtain ⟨k, w⟩ := c
    simp only [Memory.wfFrom, Bool.and_eq_true, decide_eq_true_eq] at h
    obtain ⟨⟨h1, h2⟩, h3⟩ := h
    unfold Memory.set
    split
    · subst k
      split
      · exact Memory.wfFrom_mono (by omega) h3
      · rename_i hv; simp [Memory.wfFrom, hl, h3, show ¬v = 0#8 from hv]
    · split
      · split
        · simp [Memory.wfFrom, h1, h3, show ¬w = 0#8 from h2]
        · rename_i hk hv
          simp only [Memory.wfFrom, Bool.and_eq_true, decide_eq_true_eq]
          exact ⟨⟨hl, hv⟩, ⟨by omega, h2⟩, h3⟩
      · simp only [Memory.wfFrom, Bool.and_eq_true, decide_eq_true_eq]
        exact ⟨⟨h1, h2⟩, ih h3 (by omega)⟩

/-- A write keeps the canonical form. -/
theorem Memory.wf_set {m : Memory} {a : Nat} {v : Byte} (h : m.wf = true) : (m.set a v).wf = true :=
  Memory.wfFrom_set h (Nat.zero_le a)

/-- A write of consecutive bytes keeps the canonical form. -/
theorem Memory.wf_setBytes {m : Memory} {a : Nat} {l : List Byte} (h : m.wf = true) : (m.setBytes a l).wf = true := by
  induction l generalizing m a with
  | nil => exact h
  | cons b r ih => exact ih (Memory.wf_set h)

theorem Memory.wfFrom_filter {m : Memory} {lo : Nat} (p : Host.Cell → Bool) (h : Memory.wfFrom lo m = true) :
    Memory.wfFrom lo (m.filter p) = true := by
  induction m generalizing lo with
  | nil => rfl
  | cons c r ih =>
    obtain ⟨k, v⟩ := c
    simp only [Memory.wfFrom, Bool.and_eq_true, decide_eq_true_eq] at h
    obtain ⟨⟨h1, h2⟩, h3⟩ := h
    rw [List.filter_cons]
    split
    · simp only [Memory.wfFrom, Bool.and_eq_true, decide_eq_true_eq]
      exact ⟨⟨h1, h2⟩, ih h3⟩
    · exact Memory.wfFrom_mono (by omega) (ih h3)

/-- Zeroing a range keeps the canonical form. -/
theorem Memory.wf_zero {m : Memory} {a n : Nat} (h : m.wf = true) : (m.zero a n).wf = true :=
  Memory.wfFrom_filter _ h

/-! ### What is read -/

theorem Memory.getFrom_set {m : Memory} {lo a b : Nat} {v : Byte} (h : Memory.wfFrom lo m = true) :
    (m.set a v).get b = if b = a then v else m.get b := by
  induction m generalizing lo with
  | nil =>
    unfold Memory.set
    by_cases hv : v = 0#8
    · subst hv; simp [Memory.get]
    · rw [if_neg (show ¬v = 0 from hv)]; simp only [Memory.get]
      by_cases hb : a = b
      · simp [hb]
      · have hb' : b ≠ a := fun e => hb e.symm
        simp [hb, hb']
  | cons c r ih =>
    obtain ⟨k, w⟩ := c
    simp only [Memory.wfFrom, Bool.and_eq_true, decide_eq_true_eq] at h
    obtain ⟨⟨h1, h2⟩, h3⟩ := h
    unfold Memory.set
    by_cases hk : k = a
    · subst hk
      rw [if_pos rfl]
      by_cases hb : b = k
      · subst hb
        by_cases hv : v = 0#8
        · simp [hv, Memory.get_below h3 (Nat.lt_succ_self b)]
        · simp [hv, Memory.get]
      · have hb' : k ≠ b := fun e => hb e.symm
        by_cases hv : v = 0#8
        · by_cases hlt : b < k
          · simp [hv, Memory.get, hb, hb', hlt, Memory.get_below h3 (show b < k + 1 by omega)]
          · simp [hv, Memory.get, hb, hb', hlt]
        · simp [hv, Memory.get, hb, hb']
    · rw [if_neg hk]
      by_cases hak : a < k
      · rw [if_pos hak]
        by_cases hv : v = 0#8
        · by_cases hb : b = a
          · subst hb; simp [hv, Memory.get, hk, hak]
          · simp [hv, hb]
        · by_cases hb : b = a
          · subst hb; simp [hv, Memory.get]
          · have hb' : a ≠ b := fun e => hb e.symm
            by_cases hlt : b < a
            · simp [hv, Memory.get, hb, hb', hlt, show k ≠ b by omega, show b < k by omega]
            · simp [hv, Memory.get, hb, hb', hlt]
      · rw [if_neg hak]
        unfold Memory.get
        by_cases hkb : k = b
        · subst hkb; simp [hk]
        · rw [if_neg hkb, if_neg hkb]
          by_cases hlt : b < k
          · simp [hlt, show b ≠ a by omega]
          · simp only [hlt, if_false]; exact ih h3

/-- A byte written is read back, and every other byte reads as before. -/
theorem Memory.get_set {m : Memory} {a b : Nat} {v : Byte} (h : m.wf = true) :
    (m.set a v).get b = if b = a then v else m.get b := Memory.getFrom_set h

/-- Consecutive bytes are read back, and every other byte reads as before. -/
theorem Memory.get_setBytes {m : Memory} {a b : Nat} {l : List Byte} (h : m.wf = true) :
    (m.setBytes a l).get b = if h : a ≤ b ∧ b < a + l.length then l[b - a] else m.get b := by
  induction l generalizing m a with
  | nil => simp only [Memory.setBytes, List.length_nil]; rw [dif_neg (by omega)]
  | cons c r ih =>
    rw [Memory.setBytes, ih (Memory.wf_set h)]
    by_cases hb : b = a
    · subst hb
      rw [dif_neg (by omega), dif_pos ⟨Nat.le_refl _, by simp⟩, Memory.get_set h]
      simp
    · by_cases hin : a + 1 ≤ b ∧ b < a + 1 + r.length
      · rw [dif_pos hin, dif_pos ⟨by omega, by simp; omega⟩]
        have e : b - a = (b - (a + 1)) + 1 := by omega
        simp [e]
      · rw [dif_neg hin, dif_neg (by simp; omega), Memory.get_set h, if_neg hb]

theorem Memory.getFrom_filter {m : Memory} {lo b : Nat} (p : Host.Cell → Bool) (q : Nat → Bool)
    (hp : ∀ c, p c = q c.1) (h : Memory.wfFrom lo m = true) :
    Memory.get (m.filter p) b = if q b then m.get b else 0 := by
  induction m generalizing lo with
  | nil => simp [Memory.get]
  | cons c r ih =>
    obtain ⟨k, v⟩ := c
    simp only [Memory.wfFrom, Bool.and_eq_true, decide_eq_true_eq] at h
    obtain ⟨⟨h1, h2⟩, h3⟩ := h
    rw [List.filter_cons, hp]
    by_cases hk : q k
    · rw [if_pos hk]
      simp only [Memory.get]
      by_cases hkb : k = b
      · subst hkb; simp [hk]
      · by_cases hlt : b < k
        · simp [hkb, hlt]
        · simp only [hkb, hlt, if_false]; exact ih h3
    · rw [if_neg hk, ih h3]
      simp only [Memory.get]
      by_cases hkb : k = b
      · subst hkb; simp [hk]
      · by_cases hlt : b < k
        · simp [hkb, hlt, Memory.get_below h3 (show b < k + 1 by omega)]
        · simp [hkb, hlt]

/-- A zeroed range reads 0, and every other byte as before. -/
theorem Memory.get_zero {m : Memory} {a n b : Nat} (h : m.wf = true) :
    (m.zero a n).get b = if a ≤ b ∧ b < a + n then 0 else m.get b := by
  unfold Memory.zero
  rw [Memory.getFrom_filter _ (fun k => decide (k < a) || decide (a + n ≤ k)) (fun _ => rfl) h]
  by_cases hb : a ≤ b ∧ b < a + n
  · rw [if_pos hb, if_neg (by simp; omega)]
  · rw [if_neg hb, if_pos (by simp; omega)]

theorem Memory.extFrom {m n : Memory} {lo : Nat} (hm : Memory.wfFrom lo m = true) (hn : Memory.wfFrom lo n = true)
    (h : ∀ a, m.get a = n.get a) : m = n := by
  induction m generalizing n lo with
  | nil =>
    cases n with
    | nil => rfl
    | cons c r =>
      obtain ⟨k, v⟩ := c
      simp only [Memory.wfFrom, Bool.and_eq_true, decide_eq_true_eq] at hn
      have := h k
      simp only [Memory.get, if_true] at this
      exact absurd this.symm hn.1.2
  | cons c r ih =>
    obtain ⟨k, v⟩ := c
    have hm' := hm
    simp only [Memory.wfFrom, Bool.and_eq_true, decide_eq_true_eq] at hm'
    obtain ⟨⟨m1, m2⟩, m3⟩ := hm'
    cases n with
    | nil =>
      have := h k
      simp only [Memory.get, if_true] at this
      exact absurd this m2
    | cons d t =>
      obtain ⟨j, w⟩ := d
      have hn' := hn
      simp only [Memory.wfFrom, Bool.and_eq_true, decide_eq_true_eq] at hn'
      obtain ⟨⟨n1, n2⟩, n3⟩ := hn'
      have hkj : k = j := by
        rcases Nat.lt_trichotomy k j with hlt | he | hlt
        · have := h k
          simp only [Memory.get, if_true, show j ≠ k by omega, hlt, if_false] at this
          exact absurd this m2
        · exact he
        · have := h j
          simp only [Memory.get, if_true, show k ≠ j by omega, hlt, if_false] at this
          exact absurd this.symm n2
      subst hkj
      have hv := h k
      simp only [Memory.get, if_true] at hv
      subst hv
      rw [ih m3 n3 fun a => ?_]
      by_cases ha : a < k + 1
      · rw [Memory.get_below m3 ha, Memory.get_below n3 ha]
      · have := h a
        simpa only [Memory.get, show k ≠ a by omega, show ¬a < k by omega, if_false] using this

/-- Canonical memories that read alike are equal. -/
theorem Memory.ext_get {m n : Memory} (hm : m.wf = true) (hn : n.wf = true) (h : ∀ a, m.get a = n.get a) : m = n :=
  Memory.extFrom hm hn h

theorem Memory.getBytes_length (m : Memory) (a n : Nat) : (m.getBytes a n).length = n := by
  induction n generalizing a with
  | zero => rfl
  | succ n ih => simp [Memory.getBytes, ih]

/-! ### Little-endian values -/

@[simp] theorem bytesOf_length (n v : Nat) : (bytesOf n v).length = n := by
  induction n generalizing v with
  | zero => rfl
  | succ n ih => simp [bytesOf, ih]

theorem ofBytes_lt (l : List Byte) : ofBytes l < 2 ^ (8 * l.length) := by
  induction l with
  | nil => simp [ofBytes]
  | cons b r ih =>
    have hb := b.isLt
    simp only [ofBytes, List.length_cons, Nat.mul_add, Nat.pow_add]
    omega

theorem ofBytes_bytesOf (n v : Nat) : ofBytes (bytesOf n v) = v % 2 ^ (8 * n) := by
  induction n generalizing v with
  | zero => simp [bytesOf, ofBytes, Nat.mod_one]
  | succ n ih =>
    simp only [bytesOf, ofBytes, BitVec.toNat_ofNat, ih]
    have e : 2 ^ (8 * (n + 1)) = 2 ^ 8 * 2 ^ (8 * n) := by rw [← Nat.pow_add]; congr 1; omega
    rw [e, Nat.mod_mul]; rfl

/-! ### The memories as a whole -/

/-- No memory differs. -/
structure SameMem (s t : State) : Prop where
  mem  : t.mem = s.mem
  host : t.hostMem = s.hostMem
  peer : t.peerMem = s.peerMem
  boot : t.boot.bootwin = s.boot.bootwin

theorem SameMem.refl (s : State) : SameMem s s := ⟨rfl, rfl, rfl, rfl⟩

theorem SameMem.trans {s t u : State} (h : SameMem s t) (k : SameMem t u) : SameMem s u :=
  ⟨k.mem.trans h.mem, k.host.trans h.host, k.peer.trans h.peer, k.boot.trans h.boot⟩

theorem SameMem.memOk {s t : State} (h : SameMem s t) : t.memOk = s.memOk := by
  simp [State.memOk, h.mem, h.host, h.peer, h.boot]

theorem SameMem.physByte {s t : State} (h : SameMem s t) (pa : Nat) : t.physByte pa = s.physByte pa := by
  simp [State.physByte, h.mem, h.host, h.peer]

theorem SameMem.foldl {α : Type} (f : State → α → State) (hf : ∀ s a, SameMem s (f s a)) (l : List α) (s : State) :
    SameMem s (l.foldl f s) := by
  induction l generalizing s with
  | nil => exact SameMem.refl s
  | cons a l ih => exact (hf s a).trans (ih _)

/-- What holds of a state and is kept by every step of a fold holds of its result. -/
theorem foldl_keeps {σ α : Type} (P : σ → Prop) (f : σ → α → σ) (hf : ∀ s a, P s → P (f s a)) (l : List α) (s : σ)
    (h : P s) : P (l.foldl f s) := by
  induction l generalizing s with
  | nil => exact h
  | cons a l ih => exact ih _ (hf s a h)

theorem State.memOk_iff (s : State) :
    s.memOk = true ↔ s.mem.wf = true ∧ s.hostMem.wf = true ∧ s.peerMem.wf = true ∧ s.boot.bootwin.wf = true := by
  simp [State.memOk, Bool.and_eq_true, and_assoc]

/-- The reset memories are canonical. -/
theorem State.reset_memOk : State.reset.memOk = true := rfl

/-! ### Physical addresses -/

theorem State.physBytes_length (s : State) (pa n : Nat) : (s.physBytes pa n).length = n := by
  induction n generalizing pa with
  | zero => rfl
  | succ n ih => simp [State.physBytes, ih]

theorem State.physBytes_getElem (s : State) (pa n k : Nat) (h : k < (s.physBytes pa n).length) :
    (s.physBytes pa n)[k] = s.physByte (pa + k) := by
  induction n generalizing pa k with
  | zero => simp [State.physBytes] at h
  | succ n ih =>
    cases k with
    | zero => rfl
    | succ k =>
      simp only [State.physBytes, List.getElem_cons_succ]
      rw [ih]; congr 1; omega

theorem physRegion_hbm {pa : Nat} (h : pa < hbmTop) : physRegion pa = .hbm := by simp [physRegion, h]

theorem physRegion_hbm_iff (pa : Nat) : physRegion pa = .hbm ↔ pa < hbmTop := by
  unfold physRegion
  repeat' split
  all_goals simp_all

/-- A device write into HBM is read back, and leaves every other physical byte. -/
theorem State.physByte_rawPut {s : State} {pa b : Nat} {l : List Byte} (h : s.memOk = true) (hp : pa < hbmTop)
    (ht : pa + l.length ≤ hbmTop) :
    (s.rawPut pa l).physByte b = if h : pa ≤ b ∧ b < pa + l.length then l[b - pa] else s.physByte b := by
  rw [State.memOk_iff] at h
  unfold State.rawPut
  rw [physRegion_hbm hp]
  by_cases hb : physRegion b = .hbm
  · unfold State.physByte
    rw [hb]
    exact Memory.get_setBytes h.1
  · have hb' := hb
    rw [physRegion_hbm_iff] at hb'
    rw [dif_neg (by omega)]
    unfold State.physByte
    split <;> first | rfl | contradiction

theorem State.rawPut_memOk {s : State} {pa : Nat} {l : List Byte} (h : s.memOk = true) : (s.rawPut pa l).memOk = true := by
  rw [State.memOk_iff] at *
  unfold State.rawPut
  split
  · exact ⟨Memory.wf_setBytes h.1, h.2⟩
  · exact ⟨h.1, Memory.wf_setBytes h.2.1, h.2.2⟩
  · exact ⟨h.1, h.2.1, Memory.wf_setBytes h.2.2.1, h.2.2.2⟩
  · exact h

theorem State.rawZero_memOk {s : State} {pa n : Nat} (h : s.memOk = true) : (s.rawZero pa n).memOk = true := by
  rw [State.memOk_iff] at *
  unfold State.rawZero
  split
  · exact ⟨Memory.wf_zero h.1, h.2⟩
  · exact ⟨h.1, Memory.wf_zero h.2.1, h.2.2⟩
  · exact ⟨h.1, h.2.1, Memory.wf_zero h.2.2.1, h.2.2.2⟩
  · exact h

/-! ### Seals, marks and the error log -/

theorem State.noteKey_same (s : State) (key : Option Nat) (pa n : Nat) : SameMem s (s.noteKey key pa n) := by
  unfold State.noteKey
  split
  · exact SameMem.foldl _ (fun s sec => by split <;> exact ⟨rfl, rfl, rfl, rfl⟩) _ _
  · exact SameMem.refl s

theorem State.sealSector_memOk {key : Option Nat} {pa n : Nat} {s : State} {sec : Nat} (h : s.memOk = true) :
    (State.sealSector key pa n s sec).memOk = true := by
  unfold State.sealSector
  split
  · exact h
  · dsimp only
    split
    · exact h
    · exact State.rawPut_memOk h

theorem State.sealFor_memOk {s : State} {key : Option Nat} {pa n : Nat} (h : s.memOk = true) :
    (s.sealFor key pa n).memOk = true := by
  unfold State.sealFor
  split
  · exact foldl_keeps (fun s : State => s.memOk = true) _ (fun _ _ h => State.sealSector_memOk h) _ _ h
  · exact h

theorem State.updPart_same (s : State) (n : Nat) (f : Part → Part) : SameMem s (s.updPart n f) := ⟨rfl, rfl, rfl, rfl⟩

theorem State.wholeMarks_same (s : State) (pa n : Nat) : SameMem s (s.wholeMarks pa n) := ⟨rfl, rfl, rfl, rfl⟩

theorem State.logEntry_memOk {s : State} {part a b c : Nat} (h : s.memOk = true) :
    (s.logEntry part a b c).memOk = true := by
  unfold State.logEntry
  split
  · exact h
  · rw [(State.updPart_same _ _ _).memOk]
    refine State.rawPut_memOk (State.rawPut_memOk ?_)
    rw [(State.wholeMarks_same _ _ _).memOk]
    exact State.sealFor_memOk h

theorem State.logMemory_memOk {s : State} {source kind pa : Nat} (h : s.memOk = true) :
    (s.logMemory source kind pa).memOk = true := by
  unfold State.logMemory
  split
  · exact State.logEntry_memOk h
  · exact h

theorem State.logAll_memOk {s : State} {a b c : Nat} (h : s.memOk = true) : (s.logAll a b c).memOk = true :=
  foldl_keeps (fun s : State => s.memOk = true) _ (fun _ _ h => State.logEntry_memOk h) _ _ h

theorem State.readSector_memOk {s : State} {sec : Nat} (h : s.memOk = true) : (s.readSector sec).memOk = true := by
  unfold State.readSector
  split
  · exact h
  · split
    · exact h
    · dsimp only
      split <;> exact State.logMemory_memOk h

theorem State.readRange_memOk {s : State} {pa n : Nat} (h : s.memOk = true) : (s.readRange pa n).memOk = true := by
  unfold State.readRange
  split
  · exact foldl_keeps (fun s : State => s.memOk = true) _ (fun _ _ h => State.readSector_memOk h) _ _ h
  · exact h

theorem State.storeSector_memOk {s : State} {pa n sec : Nat} (h : s.memOk = true) :
    (State.storeSector pa n s sec).memOk = true := by
  unfold State.storeSector
  split
  · exact h
  · exact State.readSector_memOk h

theorem State.storeMarks_memOk {s : State} {pa n : Nat} (h : s.memOk = true) : (s.storeMarks pa n).memOk = true := by
  unfold State.storeMarks
  split
  · exact foldl_keeps (fun s : State => s.memOk = true) _ (fun _ _ h => State.storeSector_memOk h) _ _ h
  · exact h

theorem State.updBucket_same (s : State) (n i : Nat) (f : Bucket → Bucket) : SameMem s (s.updBucket n i f) :=
  State.updPart_same s n _

theorem State.oweSector_same (s : State) (p : Option Part) : SameMem s (s.oweSector p) := by
  unfold State.oweSector
  split
  · exact SameMem.refl s
  · split
    · exact SameMem.refl s
    · exact State.updBucket_same _ _ _ _

theorem State.evictLine_same (s : State) (l : L2Line) : SameMem s (s.evictLine l) := by
  unfold State.evictLine
  refine SameMem.trans ?_ (SameMem.foldl _ (fun s x => State.oweSector_same s _) _ _)
  exact ⟨rfl, rfl, rfl, rfl⟩

theorem State.roomInSet_same (s : State) (h : Hint) (line : Nat) : SameMem s (s.roomInSet h line) := by
  unfold State.roomInSet
  dsimp only
  split
  · exact SameMem.refl s
  · split
    · exact State.evictLine_same _ _
    · exact SameMem.refl s

theorem State.holdSector_same (s : State) (h : Hint) (x : L2Sector) : SameMem s (s.holdSector h x) := by
  unfold State.holdSector
  split
  · exact ⟨rfl, rfl, rfl, rfl⟩
  · have k := State.roomInSet_same s h (x.sector / 4)
    exact ⟨k.mem, k.host, k.peer, k.boot⟩

/-- What the L2 takes and gives changes no byte. -/
theorem State.fillL2_same (s : State) (v : Via) (pa n : Nat) : SameMem s (s.fillL2 v pa n) := by
  unfold State.fillL2
  split
  · refine SameMem.foldl _ (fun s sec => ?_) _ _
    split
    · exact SameMem.refl s
    · exact (State.oweSector_same s _).trans (State.holdSector_same _ _ _)
  · exact SameMem.refl s

theorem State.holdOwn_same (s : State) (pa n : Nat) : SameMem s (s.holdOwn pa n) := by
  unfold State.holdOwn
  split
  · exact SameMem.foldl _ (fun s sec => State.holdSector_same s _ _) _ _
  · exact SameMem.refl s

theorem State.dirtyL2_same (s : State) (v : Via) (pa n : Nat) : SameMem s (s.dirtyL2 v pa n) := by
  unfold State.dirtyL2
  split
  · refine SameMem.foldl _ (fun s sec => ?_) _ _
    dsimp only
    split
    · exact State.holdSector_same _ _ _
    · exact (State.oweSector_same s _).trans (State.holdSector_same _ _ _)
  · exact SameMem.refl s

theorem State.dropL2_same (s : State) (pa n : Nat) : SameMem s (s.dropL2 pa n) := ⟨rfl, rfl, rfl, rfl⟩

theorem State.arrive_memOk {s : State} {o : OutStore} (h : s.memOk = true) : (s.arrive o).memOk = true := by
  unfold State.arrive
  split
  · split
    · exact State.rawPut_memOk h
    · exact State.logAll_memOk h
  · exact State.rawPut_memOk h

theorem State.flushOut_memOk {s : State} {f : OutStore → Bool} (h : s.memOk = true) : (s.flushOut f).memOk = true :=
  foldl_keeps (fun s : State => s.memOk = true) _ (fun _ _ h => State.arrive_memOk h) _ _ h

theorem State.flushFor_memOk {s : State} {pa : Nat} (h : s.memOk = true) : (s.flushFor pa).memOk = true := by
  unfold State.flushFor
  split
  · exact h
  · exact State.flushOut_memOk h

/-- HBM waits for no link. -/
theorem State.flushFor_hbm (s : State) {pa : Nat} (h : pa < hbmTop) : s.flushFor pa = s := by
  simp [State.flushFor, physRegion_hbm h]

theorem State.physPut_memOk {s : State} {v : Via} {pa : Nat} {l : List Byte} (h : s.memOk = true) :
    (s.physPut v pa l).memOk = true := by
  unfold State.physPut
  rw [(State.dirtyL2_same _ _ _ _).memOk]
  exact State.rawPut_memOk (State.storeMarks_memOk (State.sealFor_memOk (State.flushFor_memOk h)))

theorem State.physZero_memOk {s : State} {key : Option Nat} {pa n : Nat} (h : s.memOk = true) :
    (s.physZero key pa n).memOk = true := by
  unfold State.physZero
  rw [(State.dropL2_same _ _ _).memOk]
  exact State.rawZero_memOk (State.storeMarks_memOk (State.sealFor_memOk (State.flushFor_memOk h)))

theorem State.noteRead_memOk {s : State} {v : Via} {pa n : Nat} (h : s.memOk = true) :
    (s.noteRead v pa n).memOk = true := by
  unfold State.noteRead
  rw [(State.fillL2_same _ _ _ _).memOk, (State.noteKey_same _ _ _ _).memOk]
  exact State.readRange_memOk (State.flushFor_memOk h)

/-! ### Where no sector is marked or sealed -/

theorem State.allPlain_none {s : State} (h : s.seals = []) (g : s.garbled = []) : s.allPlain none = true := by
  simp [State.allPlain, h, g]

theorem State.noteKey_none {s : State} (h : s.seals = []) (g : s.garbled = []) (pa n : Nat) : s.noteKey none pa n = s := by
  simp [State.noteKey, State.allPlain_none h g]

theorem State.sealFor_none {s : State} (h : s.seals = []) (g : s.garbled = []) (pa n : Nat) : s.sealFor none pa n = s := by
  simp [State.sealFor, State.allPlain_none h g]

theorem foldl_fixed {σ α : Type} (f : σ → α → σ) (l : List α) (s : σ) (h : ∀ a ∈ l, f s a = s) : l.foldl f s = s := by
  induction l with
  | nil => rfl
  | cons a l ih =>
    rw [List.foldl_cons, h a (by simp), ih fun b hb => h b (by simp [hb])]

/-- Where every sector of a range is written under the key and none is garbled, a read garbles none, a store seals none. -/
theorem State.noteKey_fits {s : State} {key : Option Nat} {pa n : Nat}
    (h : ∀ sec ∈ sectorsOf pa n, s.sees key sec = true) : s.noteKey key pa n = s := by
  unfold State.noteKey
  split
  · exact foldl_fixed _ _ _ fun sec hs => by simp [h sec hs]
  · rfl

theorem State.sealFor_fits {s : State} {key : Option Nat} {pa n : Nat}
    (h : ∀ sec ∈ sectorsOf pa n, key = s.sealOf sec ∧ s.garble? sec = none) : s.sealFor key pa n = s := by
  unfold State.sealFor
  split
  · exact foldl_fixed _ _ _ fun sec hs => by
      rw [State.sealSector, if_pos ⟨(h sec hs).1, by rw [(h sec hs).2]; rfl⟩]
  · rfl

/-- Where no error is pending, a read retries nothing. -/
theorem State.readSector_clean {s : State} (h : s.errs = []) (sec : Nat) : s.readSector sec = s := by
  unfold State.readSector
  split
  · rfl
  · simp [h]

theorem State.readRange_clean {s : State} (h : s.errs = []) (pa n : Nat) : s.readRange pa n = s := by
  unfold State.readRange
  split
  · exact foldl_fixed _ _ _ fun _ _ => State.readSector_clean h _
  · rfl

/-- Where no error is pending, a store changes the poison marks alone. -/
theorem State.storeMarks_clean {s : State} (h : s.errs = []) (pa n : Nat) :
    ∃ p, s.storeMarks pa n = { s with poison := p } := by
  unfold State.storeMarks
  split
  · refine foldl_keeps (fun t => ∃ p, t = { s with poison := p }) _ ?_ _ _ ⟨s.poison, rfl⟩
    rintro t sec ⟨p, rfl⟩
    unfold State.storeSector
    split
    · exact ⟨p.filter (· != sec), by simp [h]⟩
    · exact ⟨p, State.readSector_clean (s := { s with poison := p }) h sec⟩
  · exact ⟨s.poison, rfl⟩

/-- The device's write into clean, fitting HBM: its bytes stand there, every other physical byte reads as before. -/
theorem State.physByte_physPut {s : State} {v : Via} {pa b : Nat} {l : List Byte} (h : s.memOk = true)
    (he : s.errs = []) (hk : ∀ sec ∈ sectorsOf pa l.length, v.key = s.sealOf sec ∧ s.garble? sec = none)
    (hp : pa < hbmTop) (ht : pa + l.length ≤ hbmTop) :
    (s.physPut v pa l).physByte b = if h : pa ≤ b ∧ b < pa + l.length then l[b - pa] else s.physByte b := by
  unfold State.physPut
  rw [State.flushFor_hbm s hp, State.sealFor_fits hk]
  obtain ⟨p, e⟩ := State.storeMarks_clean he pa l.length
  rw [(State.dirtyL2_same _ _ _ _).physByte, e, State.physByte_rawPut (s := { s with poison := p }) h hp ht]
  rfl

end Sys2Proof.Machine
end

