-- ==== Sys2Proof/Laws/Ops.lean ====
section
/-! SUPPORT. What the shared operations can do: parking, waking, trapping and page moves touch no memory; the device's own
accesses to areas and images keep the memories canonical; how a meaning ends. -/

namespace Sys2Proof.Machine

/-! ### How a meaning ends -/

@[simp] theorem State.finish_ok (s t : State) : s.finish (.ok t) = .next t := rfl

@[simp] theorem State.finish_error (s : State) (h : Halt) : s.finish (.error h) = .next (s.halt h) := rfl

/-- A meaning that ends in finish always answers a next state. -/
theorem State.finish_next (s : State) (r : Except Halt State) : ∃ t, s.finish r = .next t := by
  cases r <;> exact ⟨_, rfl⟩

theorem trapIf_ok {b : Bool} {c : Cause} {a : Word} : trapIf b c a = .ok () ↔ b = false := by
  cases b <;> simp [trapIf]

/-! ### Updates that touch no memory -/

theorem State.updCore_same (s : State) (c : Nat) (f : Core → Core) : SameMem s (s.updCore c f) :=
  ⟨by simp, by simp, by simp, by simp⟩

theorem State.updQuad_same (s : State) (q : Nat) (f : Quad → Quad) : SameMem s (s.updQuad q f) :=
  ⟨by simp, by simp, by simp, by simp⟩

theorem State.updProc_same (s : State) (pid : Pid) (f : Proc → Proc) : SameMem s (s.updProc pid f) :=
  ⟨by simp, by simp, by simp, by simp⟩

theorem State.mapProcs_same (s : State) (f : Proc → Proc) : SameMem s (s.mapProcs f) := ⟨rfl, rfl, rfl, rfl⟩

theorem State.dropProc_same (s : State) (pid : Pid) : SameMem s (s.dropProc pid) := ⟨by simp, by simp, by simp, by simp⟩

theorem State.switchTo_same (s : State) (pid : Pid) : SameMem s (s.switchTo pid) := ⟨by simp, by simp, by simp, by simp⟩

theorem State.hostEvent_same (s : State) (k : Nat) (w : List Word) : SameMem s (s.hostEvent k w) :=
  ⟨by simp, by simp, by simp, by simp⟩

theorem State.flushL1_same (s : State) (c : Nat) : SameMem s (s.flushL1 c) := State.updCore_same s c _

theorem State.rejoin_same (s : State) (pid : Pid) : SameMem s (s.rejoin pid) := by
  unfold State.rejoin
  split
  · exact SameMem.refl s
  · split
    · exact State.updCore_same _ _ _
    · exact SameMem.refl s

theorem State.enqueue_same (s : State) (pid : Pid) : SameMem s (s.enqueue pid) := by
  unfold State.enqueue
  split
  · exact SameMem.refl s
  · split
    · exact (State.updProc_same _ _ _).trans (State.rejoin_same _ _)
    · exact SameMem.refl s

theorem State.dequeue_same (s : State) (pid : Pid) : SameMem s (s.dequeue pid) := by
  unfold State.dequeue
  split
  · exact SameMem.refl s
  · exact State.updCore_same _ _ _

theorem State.wake_same (s : State) (pid : Pid) : SameMem s (s.wake pid) :=
  (State.updProc_same _ _ _).trans (State.enqueue_same _ _)

theorem State.freeSlot_same (s : State) (c slot : Nat) (pid : Pid) : SameMem s (s.freeSlot c slot pid) :=
  State.updCore_same _ _ _

/-- A park touches no memory: the image is written when the park completes. -/
theorem State.parkNow_same (s : State) (pid : Pid) (hold : Bool) : SameMem s (s.parkNow pid hold) := by
  unfold State.parkNow
  split
  · exact SameMem.refl s
  · split
    · exact ((State.updProc_same _ _ _).trans (State.freeSlot_same _ _ _ _)).trans (State.enqueue_same _ _)
    · split
      · exact (State.dequeue_same _ _).trans (State.updProc_same _ _ _)
      · exact SameMem.refl s
    · split
      · exact State.updProc_same _ _ _
      · exact SameMem.refl s
    · exact SameMem.refl s

theorem State.latchAt_same (s : State) (c : Nat) (l : Latched) : SameMem s (s.latchAt c l) := State.updCore_same _ _ _

theorem State.parkProc_same (s : State) (pid : Pid) (hold : Bool) : SameMem s (s.parkProc pid hold) := by
  unfold State.parkProc
  split
  · exact State.latchAt_same _ _ _
  · exact State.parkNow_same _ _ _

theorem State.unqueue_same (s : State) (c : Nat) (r : Rec) : SameMem s (s.unqueue c r) := by
  have h := State.updCore_same s c (fun k => k.without r.pid)
  exact ⟨h.mem, h.host, h.peer, h.boot⟩

theorem State.updRec_same (s : State) (pid : Pid) (f : Rec → Rec) : SameMem s (s.updRec pid f) := ⟨rfl, rfl, rfl, rfl⟩

theorem State.fillSpill_same (s : State) (r : Rec) : SameMem s (s.fillSpill r) := by
  unfold State.fillSpill
  split
  · exact State.fillL2_same _ _ _ _
  · exact SameMem.refl s

theorem State.unqueueEnded_same (s : State) (c : Nat) (r : Rec) : SameMem s (s.unqueueEnded c r) := by
  unfold State.unqueueEnded
  split
  · exact (State.fillSpill_same s r).trans (State.unqueue_same _ _ _)
  · exact State.updCore_same _ _ _
  · exact State.updRec_same _ _ _

theorem State.infoRecord_same (s : State) (part : Nat) (r : Record) : SameMem s (s.infoRecord part r) :=
  State.updPart_same _ _ _

theorem State.parkAll_same (s : State) (part : Nat) (keep : Pid) : SameMem s (s.parkAll part keep) := by
  unfold State.parkAll
  generalize List.range 90 = cores
  extract_lets s1
  have h : SameMem s s1 :=
    SameMem.foldl _ (fun s c => SameMem.foldl _ (fun s r => State.unqueueEnded_same s c r) _ s) cores s
  exact h.trans (SameMem.foldl _ (fun s (p : Proc) => State.parkProc_same s p.pid true) _ _)

theorem State.fatal_same (s : State) (part : Nat) (r : Record) : SameMem s (s.fatal part r) := by
  unfold State.fatal
  refine SameMem.trans ?_ (State.hostEvent_same _ _ _)
  have h := (State.parkAll_same s part 0).trans
    (State.updPart_same (s.parkAll part 0) part (fun q => { q with ended := true }))
  split
  · exact h.trans (State.updProc_same _ _ _)
  · exact h

/-- A trap touches no memory. -/
theorem State.trapNow_same (s : State) (pid : Pid) (t : TrapInfo) (a b : Word32) (c : Word) :
    SameMem s (s.trapNow pid t a b c) := by
  unfold State.trapNow
  split
  · exact SameMem.refl s
  · dsimp only
    split
    · exact SameMem.refl s
    · split
      · exact State.fatal_same _ _ _
      · exact (((State.parkNow_same _ _ _).trans (State.dequeue_same _ _)).trans (State.updProc_same _ _ _)).trans
          (State.updPart_same _ _ _)

theorem State.trapProc_same (s : State) (pid : Pid) (t : TrapInfo) (a b : Word32) : SameMem s (s.trapProc pid t a b) := by
  unfold State.trapProc
  split
  · exact State.latchAt_same _ _ _
  · exact State.trapNow_same _ _ _ _ _ _

theorem State.takeTrap_same (s : State) (t : TrapInfo) : SameMem s (s.takeTrap t) := State.trapNow_same _ _ _ _ _ _

/-- A return from a trap touches no memory. -/
theorem State.resumeProc_same (s : State) (pid : Pid) : SameMem s (s.resumeProc pid) := by
  unfold State.resumeProc
  split
  · exact SameMem.refl s
  · split
    · dsimp only
      split
      · exact ((State.updProc_same _ _ _).trans (State.updPart_same _ _ _)).trans (State.enqueue_same _ _)
      · exact (State.updProc_same _ _ _).trans (State.updPart_same _ _ _)
    · exact SameMem.refl s

theorem State.sweep_same (s : State) (pid : Pid) : SameMem s (s.sweep pid) := by
  unfold State.sweep
  split <;> exact ⟨rfl, rfl, rfl, rfl⟩

theorem State.freshPages_same (s : State) (p : Proc) (l : List Page) : SameMem s (s.freshPages p l).1 :=
  ⟨rfl, rfl, rfl, rfl⟩

theorem State.mapGroup_same (s : State) (pid : Pid) (g : TGrp) (r : List TRef) : SameMem s (s.mapGroup pid g r) :=
  (State.updProc_same _ _ _).trans (State.sweep_same _ _)

/-- A tile write touches no memory. -/
theorem State.writeGroup_same (s : State) (g : TGrp) (l : List Page) : SameMem s (s.writeGroup g l) :=
  (State.freshPages_same s s.cur l).trans (State.mapGroup_same _ _ _ _)

theorem State.updDir_same (s : State) (pid : Pid) (f : List (Nat × Nat) → List (Nat × Nat)) :
    SameMem s (s.updDir pid f) := by
  unfold State.updDir
  split
  · exact State.updProc_same _ _ _
  · exact ⟨rfl, rfl, rfl, rfl⟩

theorem State.cacheXlate_same (s : State) (c : Nat) (p : Part) (va : Word) (x : Xlated) :
    SameMem s (s.cacheXlate c p va x) := by
  unfold State.cacheXlate
  split
  · exact SameMem.refl s
  · exact (State.updCore_same _ _ _).trans (State.updQuad_same _ _ _)

/-! ### Operations that keep the memories canonical -/

/-- From canonical memories to canonical memories. -/
def MemKept (s t : State) : Prop := s.memOk = true → t.memOk = true

theorem MemKept.refl (s : State) : MemKept s s := id

theorem MemKept.trans {s t u : State} (h : MemKept s t) (k : MemKept t u) : MemKept s u := fun m => k (h m)

theorem SameMem.kept {s t : State} (h : SameMem s t) : MemKept s t := fun m => h.memOk.trans m

theorem MemKept.foldl {α : Type} (f : State → α → State) (hf : ∀ s a, MemKept s (f s a)) (l : List α) (s : State) :
    MemKept s (l.foldl f s) := fun m => foldl_keeps (fun s : State => s.memOk = true) f hf l s m

theorem State.physPut_kept (s : State) (v : Via) (pa : Nat) (l : List Byte) : MemKept s (s.physPut v pa l) :=
  fun m => State.physPut_memOk m

theorem State.sealFor_kept (s : State) (key : Option Nat) (pa n : Nat) : MemKept s (s.sealFor key pa n) :=
  fun m => State.sealFor_memOk m

theorem State.readRange_kept (s : State) (pa n : Nat) : MemKept s (s.readRange pa n) := fun m => State.readRange_memOk m

theorem State.noteRead_kept (s : State) (v : Via) (pa n : Nat) : MemKept s (s.noteRead v pa n) :=
  fun m => State.noteRead_memOk m

theorem State.readNodes_kept (s : State) (p : Part) (va : Word) : MemKept s (s.readNodes p va) := by
  unfold State.readNodes
  split
  · exact MemKept.foldl _ (fun s a => State.noteRead_kept _ _ _ _) _ _
  · exact MemKept.refl s

theorem State.prefetch_kept (s : State) (p : Part) (level : Nat) (leaf : Word) (x : Prefetch) :
    MemKept s (s.prefetch p level leaf x) := by
  unfold State.prefetch
  dsimp only
  split
  · exact State.noteRead_kept _ _ _ _
  · exact MemKept.refl s

theorem State.finishWalk_kept (s : State) (quad : Nat) (w : Walk) : MemKept s (s.finishWalk quad w) := by
  have h := (State.readNodes_kept s (s.part w.part) (BitVec.ofNat 64 (w.page * 65536))).trans
    (State.updQuad_same _ quad (fun q => { q with walks := q.walks.filter (fun x => x != w) })).kept
  unfold State.finishWalk
  dsimp only
  split
  · exact h
  · refine h.trans (MemKept.trans ?_ (MemKept.foldl _ (fun s x => State.prefetch_kept _ _ _ _ _) _ _))
    split
    · exact MemKept.refl _
    · exact (State.updQuad_same _ _ _).kept

theorem State.noteWalk_kept (s : State) (c : Nat) (p : Part) (va : Word) : MemKept s (s.noteWalk c p va) := by
  unfold State.noteWalk
  split
  · exact MemKept.refl s
  · have h : MemKept s (s.freeWalker (s.quadOf c)) := MemKept.foldl _ (fun s w => State.finishWalk_kept _ _ _) _ _
    dsimp only
    split
    · exact h.trans (State.finishWalk_kept _ _ _)
    · split
      · exact h
      · exact h.trans (State.readNodes_kept _ _ _)

/-- What the device's fault in an area leaves. -/
theorem State.areaFault_kept (s : State) (part : Nat) (t : TrapInfo) : MemKept s (s.areaFault part t) := by
  have h : MemKept s (s.noteArea part t) := by
    unfold State.noteArea
    split
    · exact State.readRange_kept _ _ _
    · split
      · exact State.noteWalk_kept _ _ _ _
      · exact MemKept.refl s
  unfold State.areaFault
  split
  · exact MemKept.refl s
  · dsimp only
    split
    · exact h
    · exact h.trans (State.fatal_same _ _ _).kept

theorem State.halt_kept (s : State) (h : Halt) : MemKept s (s.halt h) := by
  unfold State.halt
  split
  · exact (State.takeTrap_same _ _).kept
  · exact State.areaFault_kept _ _ _
  · exact SameMem.kept ⟨rfl, rfl, rfl, rfl⟩
  · exact SameMem.kept ⟨rfl, rfl, rfl, rfl⟩

theorem State.logEntry_kept (s : State) (p a b c : Nat) : MemKept s (s.logEntry p a b c) := fun m => State.logEntry_memOk m

/-- A read of a pool page writes no memory but the error log. -/
theorem State.settlePage_kept (s : State) (id : Nat) : MemKept s (s.settlePage id) := by
  unfold State.settlePage
  split
  · split
    · exact MemKept.refl s
    · refine MemKept.trans ?_ (State.logEntry_kept _ _ _ _ _)
      exact SameMem.kept ⟨rfl, rfl, rfl, rfl⟩
  · exact MemKept.refl s

theorem State.shareRefs_kept (s : State) (l : List (Nat × TRef)) (done : List TRef) : MemKept s (s.shareRefs l done).1 := by
  induction l generalizing s done with
  | nil => exact MemKept.refl s
  | cons x rest ih =>
    obtain ⟨i, r⟩ := x
    unfold State.shareRefs
    split
    · split
      · exact ((State.settlePage_kept s _).trans (State.freshPages_same _ _ _).kept).trans (ih _ _)
      · exact ih _ _
    · exact ih _ _

theorem State.areaPieces_kept {s t : State} {p : Part} {va : Word} {n : Nat} {k : Access} {l : List (Word × Nat × Nat)}
    (h : s.areaPieces p va n k = .ok (t, l)) : MemKept s t := by
  unfold State.areaPieces at h
  split at h
  · cases h
  · split at h
    · cases h
    · cases h
      exact MemKept.foldl _ (fun s x => State.noteWalk_kept _ _ _ _) _ _

theorem State.areaPut_kept {s t : State} {p : Part} {va : Word} {l : List Byte} (h : s.areaPut p va l = .ok t) :
    MemKept s t := by
  unfold State.areaPut at h
  cases hp : s.areaPieces p va l.length .write with
  | error e => rw [hp] at h; cases h
  | ok x =>
    rw [hp] at h
    cases h
    intro m
    exact foldl_keeps (fun x : State × List Byte => x.1.memOk = true) _ (fun _ _ m => State.physPut_memOk m) _ _
      (State.areaPieces_kept hp m)

theorem State.areaZero_kept {s t : State} {p : Part} {va : Word} {n : Nat} (h : s.areaZero p va n = .ok t) :
    MemKept s t := by
  unfold State.areaZero at h
  cases hp : s.areaPieces p va n .write with
  | error e => rw [hp] at h; cases h
  | ok x =>
    rw [hp] at h
    cases h
    exact (State.areaPieces_kept hp).trans (MemKept.foldl _ (fun s x => fun m => State.physZero_memOk m) _ _)

theorem State.areaRead_kept {s t : State} {p : Part} {va : Word} {n : Nat} {l : List Byte} {b : Option (Word × Nat)}
    (h : s.areaRead p va n = .ok (t, l, b)) : MemKept s t := by
  unfold State.areaRead at h
  cases hp : s.areaPieces p va n .read with
  | error e => rw [hp] at h; cases h
  | ok x =>
    rw [hp] at h
    cases h
    exact (State.areaPieces_kept hp).trans (MemKept.foldl _ (fun s x => State.noteRead_kept _ _ _ _) _ _)

/-- Bytes that are all good were read. -/
theorem allGood_ok {r : Except TrapInfo (State × List Byte × Option (Word × Nat))} {t : State} {l : List Byte}
    (h : allGood r = .ok (t, l)) : r = .ok (t, l, none) := by
  unfold allGood at h
  split at h <;> cases h
  rfl

theorem State.areaGet_kept {s t : State} {p : Part} {va : Word} {n : Nat} {l : List Byte}
    (h : s.areaGet p va n = .ok (t, l)) : MemKept s t := State.areaRead_kept (allGood_ok h)

theorem State.ownRead_kept {s t : State} {p : Part} {pa n : Nat} {l : List Byte} {b : Option (Word × Nat)}
    (h : s.ownRead p pa n = .ok (t, l, b)) : MemKept s t := by
  unfold State.ownRead at h
  cases hp : s.physOff pa n with
  | error e => rw [hp] at h; cases h
  | ok x => rw [hp] at h; cases h; exact State.noteRead_kept _ _ _ _

theorem State.ownPut_kept {s t : State} {p : Part} {pa : Nat} {l : List Byte} (h : s.ownPut p pa l = .ok t) : MemKept s t := by
  unfold State.ownPut at h
  cases hp : s.physOff pa l.length with
  | error e => rw [hp] at h; cases h
  | ok x => rw [hp] at h; cases h; exact State.physPut_kept _ _ _ _

theorem State.imageWrite_kept {s t : State} {p : Proc} {off : Nat} {l : List Byte} (h : s.imageWrite p off l = .ok t) :
    MemKept s t := by
  unfold State.imageWrite at h
  dsimp only at h
  split at h
  · split at h
    · cases h; exact MemKept.refl _
    · exact State.ownPut_kept h
  · split at h
    · cases h; exact MemKept.refl _
    · exact State.areaPut_kept h

theorem State.imageRead_kept {s t : State} {p : Proc} {off n : Nat} {l : List Byte}
    (h : s.imageRead p off n = .ok (t, l)) : MemKept s t := by
  unfold State.imageRead at h
  dsimp only at h
  split at h
  · split at h
    · cases h; exact MemKept.refl _
    · exact State.ownRead_kept (allGood_ok h)
  · split at h
    · cases h; exact MemKept.refl _
    · exact State.areaGet_kept h

theorem State.imagePut_kept (s : State) (p : Proc) (off : Nat) (l : List Byte) : MemKept s (s.imagePut p off l) := by
  unfold State.imagePut
  split
  · exact State.imageWrite_kept ‹_›
  · exact State.areaFault_kept _ _ _

theorem State.imageZero_kept {s t : State} {p : Proc} {off n : Nat} (h : s.imageZero p off n = .ok t) : MemKept s t := by
  unfold State.imageZero at h
  dsimp only at h
  split at h
  · split at h
    · cases h; exact MemKept.refl _
    · rename_i b _
      cases hp : s.physOff (b + Config.sttSlotBytes + off) n with
      | error e => rw [hp] at h; cases h
      | ok x => rw [hp] at h; cases h; exact fun m => State.physZero_memOk m
  · split at h
    · cases h; exact MemKept.refl _
    · exact State.areaZero_kept h

theorem State.completeImage_kept (s : State) (pid : Pid) : MemKept s (s.completeImage pid) := by
  unfold State.completeImage
  split
  · exact MemKept.refl s
  · split
    · rename_i t h
      exact (State.imagePut_kept _ _ _ _).trans ((State.imageZero_kept h).trans
        ((State.updProc_same _ _ _).kept.trans (SameMem.kept ⟨rfl, rfl, rfl, rfl⟩)))
    · exact State.areaFault_kept _ _ _

theorem State.syncImage_kept (s : State) (pid : Pid) (l : Proc → List (Nat × List Byte)) :
    MemKept s (s.syncImage pid l) := by
  unfold State.syncImage
  split
  · exact MemKept.refl s
  · split
    · exact MemKept.foldl _ (fun s x => State.imagePut_kept _ _ _ _) _ _
    · exact MemKept.refl s

/-- The image of a resident process is not touched: its context is in the core. -/
theorem State.syncImage_resident {s : State} {pid : Pid} {p : Proc} (h : s.proc? pid = some p)
    (hp : p.place ≠ .parked) (l : Proc → List (Nat × List Byte)) : s.syncImage pid l = s := by
  unfold State.syncImage
  rw [h]
  simp [Proc.inImage, hp]

theorem State.pageToImage_kept {s t : State} {p : Proc} {k : Nat} {pg : Page} (h : s.pageToImage p k pg = .ok t) :
    MemKept s t := by
  unfold State.pageToImage at h
  split at h
  · cases h
  · rename_i s1 h1
    split at h
    · cases h
    · rename_i s2 h2
      exact ((State.imageWrite_kept h1).trans (State.imageWrite_kept h2)).trans (State.imageWrite_kept h)

theorem State.pageFromImage_kept {s t : State} {p : Proc} {k : Nat} {pg : Page}
    (h : s.pageFromImage p k = .ok (t, pg)) : MemKept s t := by
  unfold State.pageFromImage at h
  split at h
  · cases h
  · rename_i s1 d h1
    split at h
    · cases h
    · rename_i s2 e h2
      cases h
      exact (State.imageRead_kept h1).trans (State.imageRead_kept h2)

theorem State.restorePages_kept {s t : State} {pid : Pid} {l : List Nat} (h : s.restorePages pid l = .ok t) :
    MemKept s t := by
  induction l generalizing s with
  | nil => cases h; exact MemKept.refl _
  | cons k rest ih =>
    unfold State.restorePages at h
    split at h
    · cases h; exact MemKept.refl _
    · split at h
      · split at h
        · cases h
        · rename_i s1 pg h1
          exact (State.pageFromImage_kept h1).trans
            (((State.freshPages_same s1 _ [pg]).trans (State.updProc_same _ _ _)).kept.trans (ih h))
      · exact ih h

theorem State.readContext_kept {s t : State} {p q : Proc} (h : s.readContext p = .ok (t, q)) : MemKept s t := by
  unfold State.readContext at h
  split at h
  · cases h0 : s.imageRead p 0 0x600 with
    | error e => rw [h0] at h; cases h
    | ok x => rw [h0] at h; cases h; exact State.imageRead_kept h0
  · cases h; exact MemKept.refl _

theorem State.unpark_kept (s : State) (c slot : Nat) (pid : Pid) : MemKept s (s.unpark c slot pid) := by
  unfold State.unpark
  split
  · exact MemKept.refl s
  · split
    · exact State.areaFault_kept _ _ _
    · rename_i s0 l h0
      dsimp only
      split
      · exact State.areaFault_kept _ _ _
      · rename_i s2 h2
        exact (State.readContext_kept h0).trans
          (((State.dequeue_same _ _).trans (State.updProc_same _ _ _)).kept.trans
            ((State.restorePages_kept h2).trans ((State.updCore_same _ _ _).trans (State.flushL1_same _ _)).kept))

end Sys2Proof.Machine
end

