-- ==== Sys2Proof/Laws/Chan.lean ====
section
/-! SUPPORT. What completions, rendezvous, closures and performing stores do to the memories: a completion writes the image of
a parked process alone, a store its bytes and what they touch; every memory stays canonical. -/

namespace Sys2Proof.Machine

theorem State.updCell_same (s : State) (id : Nat) (f : Cell → Cell) : SameMem s (s.updCell id f) := ⟨rfl, rfl, rfl, rfl⟩

theorem State.updEnd_same (s : State) (id : Nat) (b : Bool) (f : EndSt → EndSt) : SameMem s (s.updEnd id b f) :=
  State.updCell_same _ _ _

theorem State.updEntry_same (s : State) (part idx : Nat) (f : Entry → Entry) : SameMem s (s.updEntry part idx f) :=
  ⟨rfl, rfl, rfl, rfl⟩

theorem State.updBar_same (s : State) (id : Nat) (f : Barrier → Barrier) : SameMem s (s.updBar id f) :=
  State.updCell_same _ _ _

theorem State.unpost_same (s : State) (id : Nat) (b : Bool) : SameMem s (s.unpost id b) := State.updEnd_same _ _ _ _

theorem State.unbind_same (s : State) (id : Nat) : SameMem s (s.unbind id) :=
  (State.updEnd_same _ _ _ _).trans (State.updEnd_same _ _ _ _)

theorem State.post_same (s : State) (id : Nat) (b : Bool) (op : Posted) : SameMem s (s.post id b op) := ⟨rfl, rfl, rfl, rfl⟩

theorem State.dropEntry_same (s : State) (c : Cell) (b : Bool) : SameMem s (s.dropEntry c b) := ⟨rfl, rfl, rfl, rfl⟩

theorem State.freeCell_same (s : State) (id : Nat) : SameMem s (s.freeCell id) := by
  unfold State.freeCell
  split
  · exact SameMem.refl s
  · split
    · exact ⟨rfl, rfl, rfl, rfl⟩
    · exact SameMem.refl s

theorem State.popRecord_same (s : State) (part : Nat) : SameMem s (s.popRecord part) := by
  unfold State.popRecord
  split
  · exact SameMem.refl s
  · exact State.updPart_same _ _ _
  · exact (State.updProc_same _ _ _).trans (State.updPart_same _ _ _)

theorem State.acquire_same (s : State) (pid : Pid) : SameMem s (s.acquire pid) := by
  unfold State.acquire
  split
  · exact SameMem.refl s
  · split
    · exact State.flushL1_same _ _
    · exact SameMem.refl s

theorem State.trapParked_kept (s : State) (pid : Pid) (t : TrapInfo) (a b : Word32) : MemKept s (s.trapParked pid t a b) :=
  (State.trapProc_same _ _ _ _ _).kept.trans (State.syncImage_kept _ _ _)

theorem State.opTrap_kept (s : State) (pid : Pid) (t : TrapInfo) : MemKept s (s.opTrap pid t) := by
  unfold State.opTrap
  split
  · exact MemKept.refl s
  · exact (State.updProc_same _ _ _).kept.trans (State.trapParked_kept _ _ _ _ _)

theorem State.write_kept (s : State) (pid : Pid) (w : Writes) : MemKept s (s.write pid w) :=
  (State.updProc_same _ _ _).kept.trans (State.syncImage_kept _ _ _)

theorem State.writeWhen_kept (s : State) (pid : Pid) (w : Writes) : MemKept s (s.writeWhen pid w) := by
  unfold State.writeWhen
  split
  · exact (State.latchAt_same _ _ _).kept
  · exact State.write_kept _ _ _

/-- A completion keeps the memories canonical. -/
theorem State.complete_kept (s : State) (pid : Pid) (w : Writes) : MemKept s (s.complete pid w) :=
  (State.updProc_same _ _ _).kept.trans ((State.writeWhen_kept _ _ _).trans (State.enqueue_same _ _).kept)

@[simp] theorem Proc.popRob_pid (p : Proc) (ip : Word) : (p.popRob ip).pid = p.pid := by
  unfold Proc.popRob
  split
  · split <;> rfl
  · rfl

@[simp] theorem Proc.popRob_place (p : Proc) (ip : Word) : (p.popRob ip).place = p.place := by
  unfold Proc.popRob
  split
  · split <;> rfl
  · rfl

/-- A context that takes writes keeps its number and its place. -/
@[simp] theorem Proc.take_pid (p : Proc) (w : Writes) : (p.take w).pid = p.pid := by
  refine foldl_keeps (fun q : Proc => q.pid = p.pid) _ (fun q x h => (Proc.wr_pid q x.1 x.2).trans h) w.s _ ?_
  split
  · rfl
  · simp

@[simp] theorem Proc.take_place (p : Proc) (w : Writes) : (p.take w).place = p.place := by
  refine foldl_keeps (fun q : Proc => q.place = p.place) _ (fun q x h => (Proc.wr_place q x.1 x.2).trans h) w.s _ ?_
  split
  · rfl
  · simp

/-- A completion into a process that is not parked touches no memory. -/
theorem State.complete_same {s : State} {pid : Pid} {p : Proc} (w : Writes) (h : s.proc? pid = some p)
    (hp : p.place ≠ .parked) : SameMem s (s.complete pid w) := by
  unfold State.complete
  extract_lets s1
  have e : s1.proc? pid = some { p with wait := .none, waitGen := p.waitGen + 1, stepping := false } := by
    have := State.proc?_updProc s pid pid
      (fun p => { p with wait := .none, waitGen := p.waitGen + 1, stepping := false }) (fun _ => rfl)
    rwa [if_pos rfl, h] at this
  have k : SameMem s s1 := State.updProc_same _ _ _
  clear_value s1
  refine k.trans (SameMem.trans ?_ (State.enqueue_same _ _))
  unfold State.writeWhen
  split
  · exact State.latchAt_same _ _ _
  · unfold State.write
    have e2 := State.proc?_updProc s1 pid pid (fun p => p.take w) (fun _ => by simp)
    rw [if_pos rfl, e] at e2
    rw [State.syncImage_resident e2 (by simpa using hp)]
    exact State.updProc_same _ _ _

theorem State.giveScalar_kept (s : State) (pid : Pid) (v : Word) (d : SReg) : MemKept s (s.giveScalar pid v d) :=
  (State.complete_kept _ _ _).trans (State.acquire_same _ _).kept

theorem State.touchOwn_kept (s : State) (p : Part) (va : Word) (n : Nat) : MemKept s (s.touchOwn p va n) := by
  unfold State.touchOwn
  split
  · exact (State.noteWalk_kept _ _ _ _).trans ((State.noteRead_kept _ _ _ _).trans (State.holdOwn_same _ _ _).kept)
  · exact MemKept.refl s

theorem State.reachedCell_kept (s : State) (c : Cell) : MemKept s (s.reachedCell c) := by
  unfold State.reachedCell
  split
  · exact MemKept.refl s
  · exact State.touchOwn_kept _ _ _ _

theorem State.reachedEntry_kept (s : State) (e : Entry) : MemKept s (s.reachedEntry e) := by
  unfold State.reachedEntry
  split
  · exact MemKept.refl s
  · exact State.touchOwn_kept _ _ _ _

/-- What reaching a cell and an entry leaves keeps the memories canonical. -/
theorem State.reached_kept (s : State) (e : Entry) (c : Cell) : MemKept s (s.reached e c) :=
  (State.reachedCell_kept _ _).trans (State.reachedEntry_kept _ _)

theorem State.reachedNew_kept (s : State) (part id : Nat) (hs : List Word32) : MemKept s (s.reachedNew part id hs) := by
  unfold State.reachedNew
  refine MemKept.trans ?_ (MemKept.foldl _ (fun s e => State.reachedEntry_kept s e) _ _)
  split
  · exact State.reachedCell_kept _ _
  · exact MemKept.refl s

theorem State.deviceReach_kept {s : State} {part : Nat} {r : Except Halt Unit} {f : State → State} (h : MemKept s (f s)) :
    MemKept s (s.deviceReach part r f) := by
  unfold State.deviceReach
  split
  · exact h
  · exact State.areaFault_kept _ _ _
  · exact MemKept.refl s

theorem State.reachMoved_kept (s : State) (part : Nat) (pid : Pid) (h : Word32) : MemKept s (s.reachMoved part pid h) := by
  unfold State.reachMoved
  split
  · exact MemKept.refl s
  · split
    · exact MemKept.refl s
    · exact State.deviceReach_kept (State.reachedEntry_kept _ _)

theorem State.mapPages_kept (s : State) (pid : Pid) (d : TGrp) (l : List Page) : MemKept s (s.mapPages pid d l) := by
  unfold State.mapPages
  split
  · exact MemKept.refl s
  · exact ((State.freshPages_same _ _ _).trans (State.mapGroup_same _ _ _ _)).kept.trans (State.syncImage_kept _ _ _)

theorem State.giveHandle_kept (s : State) (a b : Pid) (x y : EReg) : MemKept s (s.giveHandle a b x y) := by
  unfold State.giveHandle
  split
  · extract_lets h s0 s1 w2 s2 s3
    have k1 : MemKept s s1 := (State.reachMoved_kept s _ _ _).trans (SameMem.kept ⟨rfl, rfl, rfl, rfl⟩)
    have k2 : MemKept s1 s2 := State.complete_kept _ _ _
    have k3 : MemKept s2 s3 := State.complete_kept _ _ _
    split
    · exact (k1.trans (k2.trans k3)).trans (State.acquire_same _ _).kept
    · exact k1.trans (k2.trans k3)
  · exact MemKept.refl s

theorem State.deliver_kept {s t : State} {pid : Pid} {d : TGrp} {l : List Page} (h : s.deliver pid d l = some t) :
    MemKept s t := by
  unfold State.deliver at h
  split at h
  · cases h; exact MemKept.refl _
  · split at h
    · cases h
      split
      · exact (State.latchAt_same _ _ _).kept
      · exact State.mapPages_kept _ _ _ _
    · split at h
      · cases h
        refine (MemKept.trans (MemKept.foldl _ (fun s x => ?_) _ _) (State.mapGroup_same _ _ _ _).kept).trans
          (State.syncImage_kept _ _ _)
        split
        · exact State.pageToImage_kept ‹_›
        · exact State.areaFault_kept _ _ _
      · cases h

theorem State.failEnd_kept (s : State) (c : Cell) (b : Bool) (cause : Cause) : MemKept s (s.failEnd c b cause) := by
  unfold State.failEnd
  have k : MemKept s ((s.unpost c.id b).unbind c.id) := ((State.unpost_same _ _ _).trans (State.unbind_same _ _)).kept
  dsimp only
  split
  · exact k.trans (State.opTrap_kept _ _ _)
  · exact k

theorem State.settleFault_kept {s t : State} {c : Cell} {b : Bool} {op : Posted} (h : s.settleFault c b op = some t) :
    MemKept s t := by
  unfold State.settleFault at h
  split at h
  · split at h
    · split at h
      · split at h
        · cases h
        · rw [Option.map_eq_some_iff] at h
          obtain ⟨s1, h1, rfl⟩ := h
          exact ((State.unpost_same _ _ _).trans (State.unbind_same _ _)).kept.trans
            ((State.deliver_kept h1).trans ((State.popRecord_same _ _).kept.trans
              ((State.complete_kept _ _ _).trans (State.acquire_same _ _).kept)))
      · cases h
    · cases h; exact State.failEnd_kept _ _ _ _
  · cases h; exact State.failEnd_kept _ _ _ _

theorem State.sent_kept (s : State) (o : Option Pid) (n : Nat) : MemKept s (s.sent o n) := by
  unfold State.sent
  split
  · exact State.complete_kept _ _ _
  · exact MemKept.refl s

theorem State.holdSend_kept {s t : State} {c : Cell} {b : Bool} {op : Posted} (h : s.holdSend c b op = some t) :
    MemKept s t := by
  unfold State.holdSend at h
  dsimp only at h
  split at h
  · rw [Option.ite_none_right_eq_some] at h
    cases h.2
    exact ((State.unpost_same _ _ _).trans (State.updEnd_same _ _ _ _)).kept.trans (State.sent_kept _ _ _)
  · cases h

theorem State.takeHeld_kept (s : State) (c : Cell) (b : Bool) (v : Word) (d : SReg) : MemKept s (s.takeHeld c b v d) := by
  have k : MemKept s ((s.updEnd c.id b (fun e => { e with held := none, post := none })).unbind c.id) :=
    ((State.updEnd_same _ _ _ _).trans (State.unbind_same _ _)).kept
  unfold State.takeHeld
  dsimp only
  split
  · exact k.trans (State.giveScalar_kept _ _ _ _)
  · exact k

theorem State.settleBound_kept {s t : State} {c : Cell} {b : Bool} {op : Posted} (h : s.settleBound c b op = some t) :
    MemKept s t := by
  unfold State.settleBound at h
  dsimp only at h
  split at h
  · cases h; exact State.failEnd_kept _ _ _ _
  · split at h
    · split at h
      · cases h
        have k : MemKept s (((s.unpost c.id false).unbind c.id).updEnd c.id true (fun e => { e with held := some ‹_› })) :=
          (((State.unpost_same _ _ _).trans (State.unbind_same _ _)).trans (State.updEnd_same _ _ _ _)).kept
        split
        · exact k.trans (State.complete_kept _ _ _)
        · exact k
      · cases h; exact State.failEnd_kept _ _ _ _
    · exact State.holdSend_kept h

theorem State.settleEnd_kept {s t : State} {c : Cell} {b : Bool} {op : Posted} (h : s.settleEnd c b op = some t) :
    MemKept s t := by
  unfold State.settleEnd at h
  dsimp only at h
  split at h
  · exact State.settleFault_kept h
  · split at h
    · split at h
      · exact State.settleBound_kept h
      · split at h
        · cases h
        · cases h; exact State.takeHeld_kept _ _ _ _ _
    · split at h
      · cases h; exact State.failEnd_kept _ _ _ _
      · exact State.settleBound_kept h
    · exact State.settleBound_kept h

theorem State.clearPair_same (s : State) (c : Cell) : SameMem s (s.clearPair c) :=
  ((State.unpost_same _ _ _).trans (State.unpost_same _ _ _)).trans (State.unbind_same _ _)

theorem State.passScalar_kept {s t : State} {c : Cell} {v : Word} {d : SReg} {a b : Option Pid} {side : Bool}
    (h : s.passScalar c v d a b side = some t) : MemKept s t := by
  unfold State.passScalar at h
  split at h
  · split at h
    · cases h
    · cases h
      exact ((State.unpost_same _ _ _).trans (State.updEnd_same _ _ _ _)).kept.trans (State.sent_kept _ _ _)
  · have k := (State.clearPair_same s c).kept.trans (State.sent_kept _ a 4)
    cases h
    split
    · exact k.trans (State.giveScalar_kept _ _ _ _)
    · exact k

theorem State.passHandle_kept {s t : State} {c : Cell} {x y : EReg} {a b : Option Pid} {side : Bool}
    (h : s.passHandle c x y a b side = some t) : MemKept s t := by
  unfold State.passHandle at h
  split at h
  · cases h
  · split at h
    · cases h; exact (State.clearPair_same _ _).kept.trans (State.giveHandle_kept _ _ _ _ _)
    · cases h; exact (State.clearPair_same _ _).kept

theorem State.passTiles_kept {s t : State} {c : Cell} {l : List Page} {d : TGrp} {a b : Option Pid} {side : Bool}
    (h : s.passTiles c l d a b side = some t) : MemKept s t := by
  unfold State.passTiles at h
  split at h
  · cases h
  · split at h
    · cases h; exact (State.clearPair_same _ _).kept.trans (State.sent_kept _ _ _)
    · split at h
      · cases h
      · rename_i s1 h1
        cases h
        exact ((State.clearPair_same _ _).kept.trans (State.deliver_kept h1)).trans
          ((State.sent_kept _ _ _).trans ((State.complete_kept _ _ _).trans (State.acquire_same _ _).kept))

theorem State.passOne_kept {s t : State} {c : Cell} {p : Pairing} {a b : Option Pid} {side : Bool}
    (h : s.passOne c p a b side = some t) : MemKept s t := by
  unfold State.passOne at h
  split at h
  · exact State.passScalar_kept h
  · exact State.passHandle_kept h
  · exact State.passTiles_kept h
  · cases h

theorem State.giveXcol_kept (s : State) (o : Option Pid) (f : XFn) (x y : Word) (d : SReg) :
    MemKept s (s.giveXcol o f x y d) := by
  unfold State.giveXcol
  split
  · exact MemKept.refl s
  · exact (State.complete_kept _ _ _).trans (State.acquire_same _ _).kept

theorem State.giveTx_kept {s t : State} {o : Option Pid} {g : TGrp} {l : List Page} {r : List Page × Flags}
    (h : s.giveTx o g l r = some t) : MemKept s t := by
  unfold State.giveTx at h
  split at h
  · cases h; exact MemKept.refl _
  · rw [Option.map_eq_some_iff] at h
    obtain ⟨s1, h1, rfl⟩ := h
    exact (State.deliver_kept h1).trans ((State.complete_kept _ _ _).trans (State.acquire_same _ _).kept)

theorem State.mismatchTrap_kept (s : State) (c : Cell) (o : Option Pid) : MemKept s (s.mismatchTrap c o) := by
  unfold State.mismatchTrap
  split
  · exact State.opTrap_kept _ _ _
  · exact MemKept.refl s

theorem State.sendPage_kept {s t : State} {p : Proc} {k : Nat} {pg : Page} (h : s.sendPage p k = .ok (t, pg)) :
    MemKept s t := by
  unfold State.sendPage at h
  split at h
  · cases h; exact State.settlePage_kept _ _
  · exact State.pageFromImage_kept h
  · cases h; exact MemKept.refl _

theorem State.sendRegs_kept {s t : State} {p : Proc} {l : List Nat} {r : List Page} (h : s.sendRegs p l = .ok (t, r)) :
    MemKept s t := by
  induction l generalizing s r with
  | nil => cases h; exact MemKept.refl _
  | cons k l ih =>
    unfold State.sendRegs at h
    split at h
    · cases h
    · rename_i h1
      cases h2 : State.sendRegs _ p l with
      | error e => rw [h2] at h; cases h
      | ok x => rw [h2] at h; cases h; exact (State.sendPage_kept h1).trans (ih h2)

theorem State.loaded_kept {s t : State} {o : Option Pid} {x y : Posted} (h : s.loaded o x = .ok (t, y)) : MemKept s t := by
  unfold State.loaded at h
  cases h2 : s.srcPages o x.src with
  | error e => rw [h2] at h; cases h
  | ok r =>
    rw [h2] at h; cases h
    unfold State.srcPages at h2
    split at h2
    · cases h2; exact MemKept.refl _
    · split at h2
      · exact State.sendRegs_kept h2
      · cases h2; exact MemKept.refl _

theorem State.pairLoaded_kept {s t : State} {c : Cell} {x y : Posted} (h : s.pairLoaded c x y = some t) : MemKept s t := by
  unfold State.pairLoaded at h
  dsimp only at h
  split at h
  · exact State.passOne_kept h
  · split at h
    · exact State.passOne_kept h
    · split at h
      · split at h
        · cases h
        · split at h
          · cases h
            exact (State.clearPair_same _ _).kept.trans
              ((State.giveXcol_kept _ _ _ _ _ _).trans (State.giveXcol_kept _ _ _ _ _ _))
          · cases h
      · split at h
        · cases h
        · rw [Option.bind_eq_some_iff] at h
          obtain ⟨s1, h1, h2⟩ := h
          exact (State.clearPair_same _ _).kept.trans ((State.giveTx_kept h1).trans (State.giveTx_kept h2))
      · cases h
        exact (State.clearPair_same _ _).kept.trans
          ((State.mismatchTrap_kept _ _ _).trans (State.mismatchTrap_kept _ _ _))

/-- A rendezvous keeps the memories canonical. -/
theorem State.pairUp_kept {s t : State} {c : Cell} {x y : Posted} (h : s.pairUp c x y = some t) : MemKept s t := by
  unfold State.pairUp at h
  split at h
  · cases h; exact State.areaFault_kept _ _ _
  · rename_i h1
    split at h
    · cases h; exact State.areaFault_kept _ _ _
    · rename_i h2
      exact (State.loaded_kept h1).trans ((State.loaded_kept h2).trans (State.pairLoaded_kept h))

/-- What a cell decides keeps the memories canonical. -/
theorem State.settle_kept {s t : State} {id : Nat} (h : s.settle id = some t) : MemKept s t := by
  unfold State.settle at h
  split at h
  · cases h
  · rename_i c _
    extract_lets op try0 try1 at h
    have h0 : ∀ b u, (op b).bind (s.settleEnd c b) = some u → MemKept s u := by
      intro b u hu
      rw [Option.bind_eq_some_iff] at hu
      obtain ⟨o, _, ho⟩ := hu
      exact State.settleEnd_kept ho
    have k0 : ∀ u, try0 = some u → MemKept s u := h0 false
    have k1 : ∀ u, try1 = some u → MemKept s u := h0 true
    clear_value try0 try1
    split at h
    · cases h; exact k0 _ rfl
    · split at h
      · cases h; exact k1 _ rfl
      · split at h
        · split at h
          · cases h
          · exact State.pairUp_kept h
        · cases h

theorem State.settled_kept (s : State) (id : Nat) : MemKept s (s.settled id) := by
  unfold State.settled
  cases h : s.settle id with
  | none => exact MemKept.refl s
  | some t => exact State.settle_kept h

theorem State.setKey_same (s : State) (pid : Pid) (k : Key) : SameMem s (s.setKey pid k) := State.updProc_same _ _ _

theorem State.freeKey_same (s : State) (c : Cell) (b : Bool) : SameMem s (s.freeKey c b) := by
  unfold State.freeKey
  split
  · exact SameMem.refl s
  · split
    · exact State.setKey_same _ _ _
    · exact SameMem.refl s

theorem State.closeEnd_kept (s : State) (id : Nat) (b : Bool) : MemKept s (s.closeEnd id b) := by
  unfold State.closeEnd
  split
  · exact MemKept.refl s
  · exact ((((State.freeKey_same _ _ _).trans (State.updEnd_same _ _ _ _)).trans (State.unbind_same _ _)).trans
      (State.dropEntry_same _ _ _)).kept.trans ((State.settled_kept _ _).trans (State.freeCell_same _ _).kept)

theorem State.arriveAt_same (s : State) (c : Cell) (i : Nat) : SameMem s (s.arriveAt c i) :=
  (State.updEntry_same _ _ _ _).trans (State.updBar_same _ _ _)

theorem State.phaseCheck_kept (s : State) (cell fuel : Nat) : MemKept s (s.phaseCheck cell fuel) := by
  induction fuel generalizing s with
  | zero => exact MemKept.refl s
  | succ n ih =>
    unfold State.phaseCheck
    split
    · exact MemKept.refl s
    · split
      · exact MemKept.refl s
      · split
        · refine MemKept.trans ?_ (ih _)
          refine MemKept.trans ?_ (MemKept.foldl _ (fun s w => ?_) _ _)
          · exact SameMem.kept ⟨rfl, rfl, rfl, rfl⟩
          split
          · exact (State.complete_kept _ _ _).trans (State.acquire_same _ _).kept
          · exact (State.arriveAt_same _ _ _).kept.trans
              ((State.complete_kept _ _ _).trans (State.acquire_same _ _).kept)
          · split
            · exact MemKept.refl s
            · exact ((State.arriveAt_same _ _ _).trans (State.updProc_same _ _ _)).kept
          · exact MemKept.refl s
        · exact MemKept.refl s

theorem State.closeBarrier_kept (s : State) (e : Entry) : MemKept s (s.closeBarrier e) := by
  unfold State.closeBarrier
  extract_lets s1 s2
  have k : MemKept s s2 := ((State.updEntry_same s e.part e.index _).trans (State.updBar_same _ _ _)).kept
  split
  · exact k
  · split
    · exact k
    · split
      · exact k.trans (SameMem.kept ⟨rfl, rfl, rfl, rfl⟩)
      · exact k.trans (State.phaseCheck_kept _ _ _)

theorem State.closeEntry_kept (s : State) (e : Entry) : MemKept s (s.closeEntry e) := by
  unfold State.closeEntry
  split
  · exact (State.updEntry_same _ _ _ _).kept
  · split
    · exact State.closeBarrier_kept _ _
    · exact State.closeEnd_kept _ _ _

theorem State.closeReach_kept (s : State) (e : Entry) : MemKept s (s.closeReach e) := by
  unfold State.closeReach
  split
  · exact MemKept.refl s
  · exact State.deviceReach_kept (State.reached_kept _ _ _)

theorem State.closeAll_kept (s : State) (pid : Pid) : MemKept s (s.closeAll pid) := by
  refine MemKept.foldl _ (fun s e => ?_) _ _
  split
  · exact (State.closeReach_kept _ _).trans (State.closeEntry_kept _ _)
  · exact MemKept.refl s

theorem State.withdraw_same (s : State) (pid : Pid) : SameMem s (s.withdraw pid) :=
  SameMem.foldl _ (fun _ _ => (State.unpost_same _ _ _).trans (State.freeKey_same _ _ _)) _ _

theorem State.altReturn_kept (s : State) (pid : Pid) (c : Cell) (b : Bool) (arm : Nat) :
    MemKept s (s.altReturn pid c b arm) := by
  unfold State.altReturn
  split
  · exact MemKept.refl s
  · split
    · dsimp only
      refine MemKept.trans ?_ ((State.complete_kept _ _ _).trans (State.acquire_same _ _).kept)
      split
      · exact (State.withdraw_same _ _).kept
      · exact ((State.withdraw_same _ _).trans (State.updEnd_same _ _ _ _)).kept
    · exact MemKept.refl s

theorem State.expire_kept (s : State) (part i : Nat) : MemKept s (s.expire part i) :=
  ((State.updPart_same _ _ _).trans (State.updEnd_same _ _ _ _)).kept.trans (State.settled_kept _ _)

/-! ### Performing stores -/

theorem State.breakCell_kept (s : State) (id : Nat) : MemKept s (s.breakCell id) := by
  unfold State.breakCell
  split
  · exact MemKept.refl s
  · split
    · extract_lets s1
      have k : MemKept s s1 := MemKept.foldl _ (fun s w => State.opTrap_kept _ _ _) _ _
      exact k.trans (MemKept.foldl _ (fun s e => State.closeEntry_kept s e) _ _)
    · extract_lets s1 s2
      have k1 : MemKept s s1 := (State.updCell_same _ _ _).kept
      have k2 : MemKept s1 s2 := by
        refine MemKept.foldl _ (fun s b => ?_) _ _
        split
        · exact MemKept.refl s
        · split
          · exact MemKept.refl s
          · split
            · exact State.altReturn_kept _ _ _ _ _
            · exact MemKept.refl s
          · exact (State.unpost_same _ _ _).kept.trans (State.opTrap_kept _ _ _)
      exact (k1.trans k2).trans
        (((State.dropEntry_same _ _ _).trans (State.dropEntry_same _ _ _)).trans (State.freeCell_same _ _)).kept

theorem State.breakEntry_kept (s : State) (e : Entry) : MemKept s (s.breakEntry e) := by
  unfold State.breakEntry
  split
  · exact MemKept.refl s
  · split
    · extract_lets s1
      have k : MemKept s s1 := by
        show MemKept s (match s.proc? e.owner with | some p => _ | none => s)
        split
        · split
          · exact State.opTrap_kept _ _ _
          · exact MemKept.refl s
        · exact MemKept.refl s
      exact k.trans (State.closeEntry_kept _ _)
    · dsimp only
      split
      · exact (State.freeKey_same _ _ _).kept.trans (State.closeEnd_kept _ _ _)
      · exact (State.unpost_same _ _ _).kept.trans ((State.opTrap_kept _ _ _).trans (State.closeEnd_kept _ _ _))
      · exact State.closeEnd_kept _ _ _

theorem State.touchAreas_kept (s : State) (pa n : Nat) : MemKept s (s.touchAreas pa n) := by
  unfold State.touchAreas
  extract_lets hitCells hitEntries s1
  have k : MemKept s s1 := MemKept.foldl _ (fun s c => State.breakCell_kept _ _) _ _
  exact k.trans (MemKept.foldl _ (fun s e => State.breakEntry_kept _ _) _ _)

theorem State.touchRegions_same (s : State) (agent : Pid) (pa n : Nat) : SameMem s (s.touchRegions agent pa n) :=
  State.mapProcs_same _ _

/-- Where no cell or entry stands, a store touches none. -/
theorem State.touchAreas_none {s : State} (hc : s.cells = []) (he : s.entries = []) (pa n : Nat) :
    s.touchAreas pa n = s := by
  unfold State.touchAreas; simp [hc, he]

/-- A store that performs keeps the memories canonical. -/
theorem State.storeVia_kept (s : State) (agent : Pid) (h : Hint) (pa : Nat) (l : List Byte) :
    MemKept s (s.storeVia agent h pa l) := by
  unfold State.storeVia
  dsimp only
  split
  · split
    · exact SameMem.kept ⟨rfl, rfl, rfl, rfl⟩
    · exact fun m => State.logAll_memOk m
  · exact SameMem.kept ⟨rfl, rfl, rfl, rfl⟩
  · have k : MemKept s ((s.storeMarks pa l.length).rawPut pa l) := fun m => State.rawPut_memOk (State.storeMarks_memOk m)
    exact (k.trans (State.dirtyL2_same _ _ _ _).kept).trans
      ((State.touchRegions_same _ _ _ _).kept.trans (State.touchAreas_kept _ _ _))

theorem State.storeBytes_kept (s : State) (agent : Pid) (pa : Nat) (l : List Byte) : MemKept s (s.storeBytes agent pa l) :=
  State.storeVia_kept _ _ _ _ _

theorem State.flushOut_kept (s : State) (f : OutStore → Bool) : MemKept s (s.flushOut f) := fun m => State.flushOut_memOk m

theorem State.flushFor_kept (s : State) (pa : Nat) : MemKept s (s.flushFor pa) := fun m => State.flushFor_memOk m

theorem State.performNth_kept (s : State) (pid : Pid) (n : Nat) : MemKept s (s.performNth pid n) := by
  unfold State.performNth
  split
  · exact MemKept.refl s
  · split
    · exact MemKept.refl s
    · extract_lets s1
      have k1 : MemKept s s1 := (State.updProc_same _ _ _).kept
      exact k1.trans (MemKept.trans (fun m => State.sealFor_memOk m)
        ((State.storeVia_kept _ _ _ _ _).trans (State.updCore_same _ _ _).kept))

theorem State.drainFrom_kept (s : State) (pid : Pid) (n : Nat) : MemKept s (s.drainFrom pid n) := by
  induction n generalizing s with
  | zero => exact MemKept.refl s
  | succ n ih => exact (State.performNth_kept _ _ _).trans (ih _)

theorem State.drain_kept (s : State) (pid : Pid) : MemKept s (s.drain pid) := by
  unfold State.drain
  split
  · exact MemKept.refl s
  · split
    · exact MemKept.refl s
    · exact State.drainFrom_kept _ _ _

/-- Nothing waits: nothing performs. -/
theorem State.drain_none {s : State} {pid : Pid} {p : Proc} (h : s.proc? pid = some p) (hs : p.stores = []) :
    s.drain pid = s := by
  unfold State.drain; simp [h, hs]

theorem State.noteReach_same (s : State) (pa : Nat) : SameMem s (s.noteReach pa) := ⟨rfl, rfl, rfl, rfl⟩

theorem State.drainMarked_kept (s : State) (pid : Pid) (n : Nat) (l : List Bool) : MemKept s (s.drainMarked pid n l) := by
  induction l generalizing s n with
  | nil => exact MemKept.refl s
  | cons b l ih =>
    cases b with
    | true => exact (State.performNth_kept _ _ _).trans (ih _ _)
    | false => exact ih _ _

theorem State.drainOver_kept (s : State) (pid : Pid) (l : List (Nat × Nat)) : MemKept s (s.drainOver pid l) := by
  unfold State.drainOver
  split
  · exact MemKept.refl s
  · dsimp only
    split
    · exact State.drainMarked_kept _ _ _ _
    · exact MemKept.refl s

theorem State.awaitStores_kept (s : State) (l : List (Nat × Nat)) : MemKept s (s.awaitStores l) := State.drainOver_kept _ _ _

/-- Nothing waits: nothing performs. -/
theorem State.awaitStores_none {s : State} {p : Proc} (h : s.proc? s.cur.pid = some p) (hs : p.stores = [])
    (l : List (Nat × Nat)) : s.awaitStores l = s := by
  unfold State.awaitStores State.drainOver; simp [h, hs, neededFor]

theorem State.loadL1_kept (s : State) (c : Nat) (key : Option Nat) (pa n : Nat) : MemKept s (s.loadL1 c key pa n).1 := by
  unfold State.loadL1
  split
  · split
    · exact MemKept.refl s
    · dsimp only
      exact ((State.noteKey_same s key pa n).trans ((State.fillL2_same _ _ _ _).trans (State.updCore_same _ _ _))).kept
  · exact State.flushFor_kept _ _

/-- A load of the device's own memory changes none of its contents. -/
theorem State.loadL1_same (s : State) (c : Nat) (key : Option Nat) {pa : Nat} (n : Nat) (h : pa < hbmTop) :
    SameMem s (s.loadL1 c key pa n).1 := by
  unfold State.loadL1
  rw [if_pos (physRegion_hbm h)]
  split
  · exact SameMem.refl s
  · dsimp only
    exact (State.noteKey_same s key pa n).trans ((State.fillL2_same _ _ _ _).trans (State.updCore_same _ _ _))

end Sys2Proof.Machine
end

