-- ==== Sys2Proof/Laws/Decode.lean ====
section
/-! SUPPORT. The decoder's fields: what a frame's word and a tail's word read back as, and the codes of the fields. -/

namespace Sys2Proof

open Sys2Proof.Machine

theorem finOf_val (x : Fin 32) : finOf x.val = x := by simp [finOf]

theorem widthOf_val (x : Fin 4) : widthOf x.val = x := by simp [widthOf]

theorem finOf_eq {n : Nat} {x : Fin 32} (h : n % 32 = x.val) : finOf n = x := Fin.ext h

theorem widthOf_eq {n : Nat} {x : Fin 4} (h : n % 4 = x.val) : widthOf n = x := Fin.ext h

/-! ### First words -/

/-- A frame whose fields fit their places is what its word reads as. -/
theorem frameOf_word {f : Frame} (ho : f.op < 64) (hf : f.fn < 1024) : frameOf f.word = f := by
  obtain ⟨long, op, d, a, b, fn⟩ := f
  have hd := d.isLt
  have ha := a.isLt
  have hb := b.isLt
  simp only at ho hf
  unfold frameOf Frame.word
  congr 1
  · cases long <;> simp <;> omega
  · cases long <;> simp <;> omega
  · apply finOf_eq; cases long <;> simp <;> omega
  · apply finOf_eq; cases long <;> simp <;> omega
  · apply finOf_eq; cases long <;> simp <;> omega
  · cases long <;> simp <;> omega

theorem Frame.word_lt {f : Frame} (ho : f.op < 64) (hf : f.fn < 1024) : f.word < 2 ^ 32 := by
  obtain ⟨long, op, d, a, b, fn⟩ := f
  have hd := d.isLt
  have ha := a.isLt
  have hb := b.isLt
  simp only at ho hf
  unfold Frame.word
  cases long <;> simp <;> omega

theorem isLong_word {f : Frame} (ho : f.op < 64) (hf : f.fn < 1024) : isLong f.word = f.long := by
  have h := congrArg Frame.long (frameOf_word ho hf)
  exact h

/-! ### Second words -/

/-- The fields of a tail fit their places. -/
structure Tail.Small (t : Tail) : Prop where
  ti  : t.ti < 16
  out : t.out < 16
  rnd : t.rnd < 8
  md  : t.md < 4096

/-- A tail whose fields fit their places and whose SAT and MOD do not meet is what its word reads as, MOD bit 12 apart. -/
theorem tailOf_word {t : Tail} (h : t.Small) : tailOf t.word = t := by
  obtain ⟨wd, wa, wb, wc, ti, out, rnd, sat, md⟩ := t
  obtain ⟨h1, h2, h3, h4⟩ := h
  have hd := wd.isLt
  have ha := wa.isLt
  have hb := wb.isLt
  have hc := wc.isLt
  simp only at h1 h2 h3 h4
  unfold tailOf Tail.word
  congr 1
  · apply widthOf_eq; cases sat <;> simp <;> omega
  · apply widthOf_eq; cases sat <;> simp <;> omega
  · apply widthOf_eq; cases sat <;> simp <;> omega
  · apply widthOf_eq; cases sat <;> simp <;> omega
  · cases sat <;> simp <;> omega
  · cases sat <;> simp <;> omega
  · cases sat <;> simp <;> omega
  · cases sat <;> simp <;> omega
  · cases sat <;> simp <;> omega

theorem Tail.word_lt {t : Tail} (h : t.Small) : t.word < 2 ^ 32 := by
  obtain ⟨wd, wa, wb, wc, ti, out, rnd, sat, md⟩ := t
  obtain ⟨h1, h2, h3, h4⟩ := h
  have hd := wd.isLt
  have ha := wa.isLt
  have hb := wb.isLt
  have hc := wc.isLt
  simp only at h1 h2 h3 h4
  unfold Tail.word
  cases sat <;> simp <;> omega

theorem Tail.blank_small : Tail.blank.Small := ⟨by decide, by decide, by decide, by decide⟩

/-! ### Codes of the fields -/

@[simp] theorem tyOf_num (t : Ty) : tyOf (Ty.num t) = some t := by cases t <;> rfl

@[simp] theorem rndOf_num (r : Rnd) : rndOf (Rnd.num r) = some r := by cases r <;> rfl

@[simp] theorem sizeOf_num (z : Size) : sizeOf (Size.num z) = some z := by cases z <;> rfl

@[simp] theorem scopeOf_num (c : Scope) : scopeOf (Scope.num c) = some c := by cases c <;> rfl

@[simp] theorem kindOf_num (k : FenceKind) : kindOf (FenceKind.num k) = some k := by cases k <;> rfl

@[simp] theorem hintOf_num (h : Hint) : hintOf (Hint.num h) = some h := by cases h <;> rfl

@[simp] theorem domainOf_num (d : Domain) : domainOf (Domain.num d) = some d := by cases d <;> rfl

@[simp] theorem condOf_num (c : Cond) : condOf (Cond.num c) = some c := by cases c <;> rfl

@[simp] theorem eRegOf_field (x : EReg) : eRegOf (EReg.field x) = some x := by
  have h := x.isLt
  simp [eRegOf, EReg.field, h]

@[simp] theorem gRegOf_field (x : GReg) : gRegOf (GReg.field x) = some x := by
  have h := x.isLt
  simp [gRegOf, GReg.field, h]

@[simp] theorem countOf_field (k : Count) : countOf (Count.field k) (Count.md k) = k := by
  cases k with
  | imm n =>
    have h := n.isLt
    have e : n.toNat / 2048 % 2 = 0 := by omega
    simp [countOf, Count.md, e]
  | reg c => simp [countOf, Count.field, Count.md]

@[simp] theorem qmodeOf_field (q : QMode) : qmodeOf (QMode.field q) (QMode.md q) = some q := by cases q <;> rfl

theorem Ty.num_lt (t : Ty) : Ty.num t < 16 := by cases t <;> decide

theorem Rnd.num_lt (r : Rnd) : Rnd.num r < 8 := by cases r <;> decide

theorem Hint.num_lt (h : Hint) : Hint.num h < 4096 := by cases h <;> decide

theorem Cond.num_lt (c : Cond) : Cond.num c < 4096 := by cases c <;> decide

theorem QMode.md_lt (q : QMode) : QMode.md q < 4096 := by cases q <;> simp [QMode.md]

theorem Count.md_lt (k : Count) : Count.md k < 4096 := by
  cases k with
  | imm n => have h := n.isLt; show n.toNat < 4096; omega
  | reg c => show 2048 < 4096; omega

theorem bit_lt (b : Bool) : bit b < 2 := by cases b <;> decide

/-! ### Immediates -/

theorem frameI_imm15 (op : Nat) (d a : Fin 32) (v : BitVec 15) : (frameI op d a v).imm15 = v := by
  have h := v.isLt
  apply BitVec.eq_of_toNat_eq
  simp only [Frame.imm15, frameI, frame, finOf, BitVec.toNat_ofNat, Fin.ofNat]
  omega

theorem frameJ_imm20 (op : Nat) (d : Fin 32) (v : BitVec 20) : (frameJ op d v).imm20 = v := by
  have h := v.isLt
  apply BitVec.eq_of_toNat_eq
  simp only [Frame.imm20, frameJ, frame, finOf, BitVec.toNat_ofNat, Fin.ofNat]
  omega

theorem frame2_c (op : Nat) (d a b c : Fin 32) {n : Nat} (h : n < 32) : (frame2 op d a b c n).c = c := by
  apply finOf_eq
  have hc := c.isLt
  show (c.val * 32 + n) / 32 % 32 = c.val
  omega

theorem frame2_fn5 (op : Nat) (d a b c : Fin 32) {n : Nat} (h : n < 32) : (frame2 op d a b c n).fn5 = n := by
  show (c.val * 32 + n) % 32 = n
  omega

theorem frame2_fn_lt (op : Nat) (d a b c : Fin 32) {n : Nat} (h : n < 32) : (frame2 op d a b c n).fn < 1024 := by
  have hc := c.isLt
  show c.val * 32 + n < 1024
  omega

theorem frameI_fn_lt (op : Nat) (d a : Fin 32) (v : BitVec 15) : (frameI op d a v).fn < 1024 :=
  Nat.mod_lt _ (by decide)

theorem frameJ_fn_lt (op : Nat) (d : Fin 32) (v : BitVec 20) : (frameJ op d v).fn < 1024 :=
  Nat.mod_lt _ (by decide)

end Sys2Proof
end

