-- ==== Sys2Proof/Laws/PerInstr.lean ====
section
/-! SUPPORT. Coded: the fields of each instruction's words fit their places, and the decoder's reading of those fields is that
instruction. One lemma per constructor. -/

namespace Sys2Proof.Laws.Coded

open Sys2Proof Sys2Proof.Machine

/-- The words of an instruction, field by field, name it. -/
def Statement (i : Instr) : Prop :=
  ∀ f, encodeFrame i = some f → f.op < 64 ∧ f.fn < 1024 ∧ encodeSecond i < 2 ^ 32
    ∧ (if f.long then parse64 f (tailOf (encodeSecond i)) (encodeSecond i) else parse32 f) = some i

theorem of_event {i : Instr} (e : encodeFrame i = none) : Statement i := by
  intro f h
  rw [e] at h
  cases h

theorem of_short {i : Instr} {f : Frame} (e : encodeFrame i = some f) (hl : f.long = false) (ho : f.op < 64)
    (hf : f.fn < 1024) (hs : encodeSecond i = Tail.blank.word) (hp : parse32 f = some i) : Statement i := by
  intro g h
  rw [e] at h
  cases h
  exact ⟨ho, hf, hs ▸ (by decide), by simpa [hl] using hp⟩

theorem of_second {i : Instr} {f : Frame} (e : encodeFrame i = some f) (hl : f.long = true) (ho : f.op < 64)
    (hf : f.fn < 1024) (hs : encodeSecond i < 2 ^ 32) (hp : ∀ t, parse64 f t (encodeSecond i) = some i) :
    Statement i := by
  intro g h
  rw [e] at h
  cases h
  exact ⟨ho, hf, hs, by simpa [hl] using hp _⟩

theorem of_long {i : Instr} {f : Frame} {t : Tail} (e : encodeFrame i = some f) (hl : f.long = true) (ho : f.op < 64)
    (hf : f.fn < 1024) (hs : encodeSecond i = t.word) (ht : t.Small) (hp : parse64 f t (encodeSecond i) = some i) :
    Statement i := by
  intro g h
  rw [e] at h
  cases h
  refine ⟨ho, hf, hs ▸ Tail.word_lt ht, ?_⟩
  have e2 : tailOf (encodeSecond i) = t := by rw [hs, tailOf_word ht]
  rw [e2]
  simpa [hl] using hp

/-! ### Fields of several parts -/

theorem parseShi_frame {k : Nat} (d a : SReg) (n : BitVec 6) : k < 4 →
    parse32 (frameI 0x08 d a (BitVec.ofNat 15 (k * 4096 + n.toNat)))
      = match k with
        | 0 => some (.shli d a n)
        | 1 => some (.shri d a n)
        | 2 => some (.srai d a n)
        | 3 => some (.rori d a n)
        | _ => none := by
  intro hk
  have hn := n.isLt
  show parseShi _ = _
  have e : (finOf ((BitVec.ofNat 15 (k * 4096 + n.toNat)).toNat / 1024)).val * 1024
      + (BitVec.ofNat 15 (k * 4096 + n.toNat)).toNat % 1024 = k * 4096 + n.toNat := by
    simp only [finOf, Fin.ofNat, BitVec.toNat_ofNat]
    omega
  have e2 : BitVec.ofNat 6 (k * 4096 + n.toNat) = n := by
    apply BitVec.eq_of_toNat_eq
    simp only [BitVec.toNat_ofNat]
    omega
  have e3 : (k * 4096 + n.toNat) / 4096 = k := by omega
  unfold parseShi
  simp only [frameI, frame, e, e2, e3]
  all_goals interval_cases k <;> rfl

theorem parseAlb_gated (d a : SReg) (u : Fin 16) :
    parse32 (frameI 0x1B d a (BitVec.ofNat 15 (16384 + u.val * 8))) = some (.albGated d a u) := by
  revert u
  intro u
  have hu := u.isLt
  show parseAlb _ = _
  have e : (finOf ((BitVec.ofNat 15 (16384 + u.val * 8)).toNat / 1024)).val * 1024
      + (BitVec.ofNat 15 (16384 + u.val * 8)).toNat % 1024 = 16384 + u.val * 8 := by
    simp only [finOf, Fin.ofNat, BitVec.toNat_ofNat]
    omega
  have e2 : Fin.ofNat 16 ((16384 + u.val * 8) / 8) = u := by
    apply Fin.ext
    show (16384 + u.val * 8) / 8 % 16 = u.val
    omega
  have e3 : (16384 + u.val * 8) / 16384 = 1 := by omega
  unfold parseAlb
  simp only [frameI, frame, e, e2, e3, if_true]

theorem parseMem_frame (op : Nat) (d a : SReg) (sz : Size) (off : BitVec 12) (k : Size → BitVec 12 → Instr) :
    parseMem (frame op d a (finOf (Size.num sz * 4 + off.toNat / 1024)) (off.toNat % 1024)) k = some (k sz off) := by
  have ho := off.isLt
  have hz : Size.num sz < 7 := by cases sz <;> decide
  have e : (finOf (Size.num sz * 4 + off.toNat / 1024)).val = Size.num sz * 4 + off.toNat / 1024 := by
    simp only [finOf, Fin.ofNat]
    omega
  have e2 : (Size.num sz * 4 + off.toNat / 1024) / 4 = Size.num sz := by omega
  have e3 : BitVec.ofNat 12 ((Size.num sz * 4 + off.toNat / 1024) % 4 * 1024 + off.toNat % 1024) = off := by
    apply BitVec.eq_of_toNat_eq
    simp only [BitVec.toNat_ofNat]
    omega
  simp only [parseMem, Frame.off12, frame, e, e2, e3, sizeOf_num, Option.map_some]

theorem amo_fn_lt {k : Nat} (w : Bool) (sc : Scope) (hk : k < 10) : bit w * 512 + Scope.num sc * 64 + k < 1024 := by
  have h1 := bit_lt w
  have h2 : Scope.num sc < 4 := by cases sc <;> decide
  omega

theorem parseAmo_frame {k : Nat} (d a b : SReg) (w : Bool) (sc : Scope) : k < 10 →
    parse32 (frame 0x1A d a b (bit w * 512 + Scope.num sc * 64 + k))
      = match k with
        | 0 => some (.aadd d a b w sc)
        | 1 => some (.aand d a b w sc)
        | 2 => some (.aor d a b w sc)
        | 3 => some (.axor d a b w sc)
        | 4 => some (.amin d a b w sc)
        | 5 => some (.amax d a b w sc)
        | 6 => some (.aminn d a b w sc)
        | 7 => some (.amaxn d a b w sc)
        | 8 => some (.aswp d a b w sc)
        | 9 => some (.acas d a b w sc)
        | _ => none := by
  intro hk
  have h2 : Scope.num sc < 4 := by cases sc <;> decide
  have h1 := bit_lt w
  show parseAmo _ = _
  have e1 : (bit w * 512 + Scope.num sc * 64 + k) / 64 % 8 = Scope.num sc := by omega
  have e2 : (bit w * 512 + Scope.num sc * 64 + k) % 16 = k := by omega
  have e3 : ((bit w * 512 + Scope.num sc * 64 + k) / 512 % 2 == 1) = w := by
    have e : (bit w * 512 + Scope.num sc * 64 + k) / 512 % 2 = bit w := by omega
    rw [e]
    cases w <;> rfl
  unfold parseAmo
  simp only [frame, e1, e2, e3, scopeOf_num, Option.bind_some]
  all_goals interval_cases k <;> rfl

theorem spawn_fn_lt (dom : Domain) (mask : BitVec 8) : Domain.num dom * 256 + mask.toNat < 1024 := by
  have h := mask.isLt
  have h2 : Domain.num dom < 3 := by cases dom <;> decide
  omega

theorem parseSpawn_frame (d : EReg) (a b : SReg) (dom : Domain) (mask : BitVec 8) :
    parse32 (frame 0x25 (EReg.field d) a b (Domain.num dom * 256 + mask.toNat)) = some (.spawn d a b dom mask) := by
  have h := mask.isLt
  have h2 : Domain.num dom < 3 := by cases dom <;> decide
  show parseSpawn _ = _
  have e1 : (Domain.num dom * 256 + mask.toNat) / 256 % 4 = Domain.num dom := by omega
  have e2 : BitVec.ofNat 8 (Domain.num dom * 256 + mask.toNat) = mask := by
    apply BitVec.eq_of_toNat_eq
    simp only [BitVec.toNat_ofNat]
    omega
  simp only [parseSpawn, frame, eRegOf_field, e1, e2, domainOf_num, Option.bind_some, Option.map_some]

/-! ### Second words -/

theorem imm32_li (d : SReg) (v : BitVec 32) (t : Tail) :
    parse64 (frame2 0x01 d 0 0 0 0) t v.toNat = some (.li d v) := by
  show some (Instr.li d (BitVec.ofNat 32 v.toNat)) = _
  simp

theorem imm32_lihL (d : SReg) (v : BitVec 32) (t : Tail) :
    parse64 (frame2 0x01 d 0 0 0 1) t v.toNat = some (.lihL d v) := by
  show some (Instr.lihL d (BitVec.ofNat 32 v.toNat)) = _
  simp

theorem imm32_addl (d a : SReg) (v : BitVec 32) (t : Tail) :
    parse64 (frame2 0x01 d a 0 0 2) t v.toNat = some (.addl d a v) := by
  show some (Instr.addl d a (BitVec.ofNat 32 v.toNat)) = _
  simp

theorem alt_second_lt (arms dirs prio : BitVec 8) (poll : Bool) :
    arms.toNat * 2 ^ 24 + dirs.toNat * 2 ^ 16 + prio.toNat * 2 ^ 8 + bit poll * 2 ^ 7 < 2 ^ 32 := by
  have h1 := arms.isLt
  have h2 := dirs.isLt
  have h3 := prio.isLt
  have h4 := bit_lt poll
  omega

theorem imm32_alt (d a : SReg) (b : EReg) (arms dirs prio : BitVec 8) (poll : Bool) (t : Tail) :
    parse64 (frame2 0x02 d a (EReg.field b) 0 0) t
      (arms.toNat * 2 ^ 24 + dirs.toNat * 2 ^ 16 + prio.toNat * 2 ^ 8 + bit poll * 2 ^ 7)
      = some (.alt d a b arms dirs prio poll) := by
  have h1 := arms.isLt
  have h2 := dirs.isLt
  have h3 := prio.isLt
  have h4 := bit_lt poll
  generalize hw : arms.toNat * 2 ^ 24 + dirs.toNat * 2 ^ 16 + prio.toNat * 2 ^ 8 + bit poll * 2 ^ 7 = w
  show parseAlt (frame2 0x02 d a (EReg.field b) 0 0) w = _
  have e1 : BitVec.ofNat 8 (w / 2 ^ 24) = arms := by
    apply BitVec.eq_of_toNat_eq; simp only [BitVec.toNat_ofNat]; omega
  have e2 : BitVec.ofNat 8 (w / 2 ^ 16) = dirs := by
    apply BitVec.eq_of_toNat_eq; simp only [BitVec.toNat_ofNat]; omega
  have e3 : BitVec.ofNat 8 (w / 2 ^ 8) = prio := by
    apply BitVec.eq_of_toNat_eq; simp only [BitVec.toNat_ofNat]; omega
  have e4 : (w / 2 ^ 7 % 2 == 1) = poll := by
    have e : w / 2 ^ 7 % 2 = bit poll := by omega
    rw [e]
    cases poll <;> rfl
  rw [parseAlt, frame2_fn5 _ _ _ _ _ (by decide)]
  show (eRegOf (EReg.field b)).map _ = _
  rw [eRegOf_field, e1, e2, e3, e4]
  rfl

theorem field_md_lt (len pos : BitVec 6) : len.toNat * 64 + pos.toNat < 4096 := by
  have h1 := len.isLt
  have h2 := pos.isLt
  omega

theorem V2.tail_small (x : V2) {md : Nat} (h : md < 4096) : (x.tail md).Small :=
  ⟨Ty.num_lt _, Ty.num_lt _, Rnd.num_lt _, h⟩
theorem V3.tail_small (x : V3) : x.tail.Small :=
  ⟨Ty.num_lt _, Ty.num_lt _, Rnd.num_lt _, show 0 < 4096 by decide⟩
theorem V4.tail_small (x : V4) : x.tail.Small :=
  ⟨Ty.num_lt _, Ty.num_lt _, Rnd.num_lt _, show 0 < 4096 by decide⟩
theorem VS.tail_small (x : VS) : x.tail.Small :=
  ⟨Ty.num_lt _, Ty.num_lt _, Rnd.num_lt _, show 0 < 4096 by decide⟩
theorem VS3.tail_small (x : VS3) : x.tail.Small :=
  ⟨Ty.num_lt _, Ty.num_lt _, Rnd.num_lt _, show 0 < 4096 by decide⟩
theorem MmaOp.tail_small (x : MmaOp) : x.tail.Small := by
  have h := Ty.num_lt x.tb
  have h2 := bit_lt x.rtz
  exact ⟨Ty.num_lt _, Ty.num_lt _, show 0 < 8 by decide, show bit x.rtz * 16 + Ty.num x.tb < 4096 by omega⟩

theorem withRnd_tail {t : Tail} {ti out : Ty} {r : Rnd} (k : Ty → Ty → Rnd → Option Instr) (h1 : t.ti = Ty.num ti)
    (h2 : t.out = Ty.num out) (h3 : t.rnd = Rnd.num r) : withRnd t k = k ti out r := by
  simp [withRnd, withTypes, h1, h2, h3]

theorem parseV2_tail (op n : Nat) (x : V2) {md : Nat} (k : V2 → Instr) (c : SReg) :
    parseV2 (frame2 op x.d.base x.a.base 0 c n) (x.tail md) k = some (k x) :=
  withRnd_tail _ rfl rfl rfl

theorem parseV3_tail (op n : Nat) (x : V3) (k : V3 → Instr) :
    parseV3 (frame2 op x.d.base x.a.base x.b.base 0 n) x.tail k = some (k x) :=
  withRnd_tail _ rfl rfl rfl

theorem parseVS_tail (op n : Nat) (x : VS) (k : VS → Instr) :
    parseVS (frame2 op x.d.base x.a.base x.b 0 n) x.tail k = some (k x) :=
  withRnd_tail _ rfl rfl rfl

theorem parseV4_tail {op n : Nat} (x : V4) (k : V4 → Instr) (hn : n < 32) :
    parseV4 (frame2 op x.d.base x.a.base x.b.base x.c.base n) x.tail k = some (k x) := by
  unfold parseV4
  rw [withRnd_tail _ rfl rfl rfl, grpC, frame2_c _ _ _ _ _ hn]
  rfl

theorem parseVS3_tail {op n : Nat} (x : VS3) (k : VS3 → Instr) (hn : n < 32) :
    parseVS3 (frame2 op x.d.base x.a.base x.b x.c.base n) x.tail k = some (k x) := by
  unfold parseVS3
  rw [withRnd_tail _ rfl rfl rfl, grpC, frame2_c _ _ _ _ _ hn]
  rfl

theorem field_low (p l : BitVec 6) : BitVec.ofNat 6 (l.toNat * 64 + p.toNat) = p := by
  apply BitVec.eq_of_toNat_eq
  have := p.isLt
  simp only [BitVec.toNat_ofNat]
  omega

theorem field_high (p l : BitVec 6) : BitVec.ofNat 6 ((l.toNat * 64 + p.toNat) / 64) = l := by
  apply BitVec.eq_of_toNat_eq
  have := p.isLt
  have := l.isLt
  simp only [BitVec.toNat_ofNat]
  omega

theorem vqnt_tail (x : V2) (q : QMode) (w : Nat) :
    parse64 (frame2 0x09 x.d.base x.a.base 0 (QMode.field q) 1) (x.tail (QMode.md q)) w = some (.vqnt x q) := by
  show parseVconv _ _ = _
  rw [parseVconv, frame2_fn5 _ _ _ _ _ (by decide)]
  show (qmodeOf (Frame.c _) (QMode.md q)).bind _ = _
  rw [frame2_c _ _ _ _ _ (by decide), qmodeOf_field]
  exact parseV2_tail _ _ x (fun x => Instr.vqnt x q) _

theorem mma_fields (x : MmaOp) {n : Nat} : n < 32 →
    parseMma (frame2 0x06 x.d x.a.base x.b.base 0 n) x.tail
      = match n with
        | 0 => some (.mma x)
        | 1 => some (.mmz x)
        | 2 => some (.mmas x)
        | 3 => some (.mmzs x)
        | _ => none := by
  intro hn
  have h := Ty.num_lt x.tb
  have h2 := bit_lt x.rtz
  have e1 : (MmaOp.tail x).md % 16 = Ty.num x.tb := by
    show (bit x.rtz * 16 + Ty.num x.tb) % 16 = _
    omega
  have e2 : ((MmaOp.tail x).md / 16 % 2 == 1) = x.rtz := by
    have e : (MmaOp.tail x).md / 16 % 2 = bit x.rtz := by
      show (bit x.rtz * 16 + Ty.num x.tb) / 16 % 2 = _
      omega
    rw [e]
    cases x.rtz <;> rfl
  have e3 : tyOf (MmaOp.tail x).ti = some x.ta := tyOf_num _
  have e4 : tyOf (MmaOp.tail x).out = some x.out := tyOf_num _
  unfold parseMma withTypes
  rw [e1, e2, e3, e4, tyOf_num, frame2_fn5 _ _ _ _ _ hn]
  rcases n with _ | _ | _ | _ | n <;> rfl

theorem frame2_d (op : Nat) (d a b c : Fin 32) (n : Nat) : (frame2 op d a b c n).d = d := rfl
theorem frame2_a (op : Nat) (d a b c : Fin 32) (n : Nat) : (frame2 op d a b c n).a = a := rfl
theorem frame2_b (op : Nat) (d a b c : Fin 32) (n : Nat) : (frame2 op d a b c n).b = b := rfl

/-! ### One lemma per constructor -/

theorem add (x0 : SReg) (x1 : SReg) (x2 : SReg) : Statement (.add x0 x1 x2) :=
  of_short rfl rfl (of_decide_eq_true rfl) (of_decide_eq_true rfl) rfl rfl
theorem sub (x0 : SReg) (x1 : SReg) (x2 : SReg) : Statement (.sub x0 x1 x2) :=
  of_short rfl rfl (of_decide_eq_true rfl) (of_decide_eq_true rfl) rfl rfl
theorem mul (x0 : SReg) (x1 : SReg) (x2 : SReg) : Statement (.mul x0 x1 x2) :=
  of_short rfl rfl (of_decide_eq_true rfl) (of_decide_eq_true rfl) rfl rfl
theorem mulh (x0 : SReg) (x1 : SReg) (x2 : SReg) : Statement (.mulh x0 x1 x2) :=
  of_short rfl rfl (of_decide_eq_true rfl) (of_decide_eq_true rfl) rfl rfl
theorem mulhn (x0 : SReg) (x1 : SReg) (x2 : SReg) : Statement (.mulhn x0 x1 x2) :=
  of_short rfl rfl (of_decide_eq_true rfl) (of_decide_eq_true rfl) rfl rfl
theorem div (x0 : SReg) (x1 : SReg) (x2 : SReg) : Statement (.div x0 x1 x2) :=
  of_short rfl rfl (of_decide_eq_true rfl) (of_decide_eq_true rfl) rfl rfl
theorem divn (x0 : SReg) (x1 : SReg) (x2 : SReg) : Statement (.divn x0 x1 x2) :=
  of_short rfl rfl (of_decide_eq_true rfl) (of_decide_eq_true rfl) rfl rfl
theorem rem (x0 : SReg) (x1 : SReg) (x2 : SReg) : Statement (.rem x0 x1 x2) :=
  of_short rfl rfl (of_decide_eq_true rfl) (of_decide_eq_true rfl) rfl rfl
theorem remn (x0 : SReg) (x1 : SReg) (x2 : SReg) : Statement (.remn x0 x1 x2) :=
  of_short rfl rfl (of_decide_eq_true rfl) (of_decide_eq_true rfl) rfl rfl
theorem and (x0 : SReg) (x1 : SReg) (x2 : SReg) : Statement (.and x0 x1 x2) :=
  of_short rfl rfl (of_decide_eq_true rfl) (of_decide_eq_true rfl) rfl rfl
theorem or (x0 : SReg) (x1 : SReg) (x2 : SReg) : Statement (.or x0 x1 x2) :=
  of_short rfl rfl (of_decide_eq_true rfl) (of_decide_eq_true rfl) rfl rfl
theorem xor (x0 : SReg) (x1 : SReg) (x2 : SReg) : Statement (.xor x0 x1 x2) :=
  of_short rfl rfl (of_decide_eq_true rfl) (of_decide_eq_true rfl) rfl rfl
theorem andn (x0 : SReg) (x1 : SReg) (x2 : SReg) : Statement (.andn x0 x1 x2) :=
  of_short rfl rfl (of_decide_eq_true rfl) (of_decide_eq_true rfl) rfl rfl
theorem orn (x0 : SReg) (x1 : SReg) (x2 : SReg) : Statement (.orn x0 x1 x2) :=
  of_short rfl rfl (of_decide_eq_true rfl) (of_decide_eq_true rfl) rfl rfl
theorem xnor (x0 : SReg) (x1 : SReg) (x2 : SReg) : Statement (.xnor x0 x1 x2) :=
  of_short rfl rfl (of_decide_eq_true rfl) (of_decide_eq_true rfl) rfl rfl
theorem shl (x0 : SReg) (x1 : SReg) (x2 : SReg) : Statement (.shl x0 x1 x2) :=
  of_short rfl rfl (of_decide_eq_true rfl) (of_decide_eq_true rfl) rfl rfl
theorem shr (x0 : SReg) (x1 : SReg) (x2 : SReg) : Statement (.shr x0 x1 x2) :=
  of_short rfl rfl (of_decide_eq_true rfl) (of_decide_eq_true rfl) rfl rfl
theorem sra (x0 : SReg) (x1 : SReg) (x2 : SReg) : Statement (.sra x0 x1 x2) :=
  of_short rfl rfl (of_decide_eq_true rfl) (of_decide_eq_true rfl) rfl rfl
theorem rol (x0 : SReg) (x1 : SReg) (x2 : SReg) : Statement (.rol x0 x1 x2) :=
  of_short rfl rfl (of_decide_eq_true rfl) (of_decide_eq_true rfl) rfl rfl
theorem ror (x0 : SReg) (x1 : SReg) (x2 : SReg) : Statement (.ror x0 x1 x2) :=
  of_short rfl rfl (of_decide_eq_true rfl) (of_decide_eq_true rfl) rfl rfl
theorem min (x0 : SReg) (x1 : SReg) (x2 : SReg) : Statement (.min x0 x1 x2) :=
  of_short rfl rfl (of_decide_eq_true rfl) (of_decide_eq_true rfl) rfl rfl
theorem max (x0 : SReg) (x1 : SReg) (x2 : SReg) : Statement (.max x0 x1 x2) :=
  of_short rfl rfl (of_decide_eq_true rfl) (of_decide_eq_true rfl) rfl rfl
theorem minn (x0 : SReg) (x1 : SReg) (x2 : SReg) : Statement (.minn x0 x1 x2) :=
  of_short rfl rfl (of_decide_eq_true rfl) (of_decide_eq_true rfl) rfl rfl
theorem maxn (x0 : SReg) (x1 : SReg) (x2 : SReg) : Statement (.maxn x0 x1 x2) :=
  of_short rfl rfl (of_decide_eq_true rfl) (of_decide_eq_true rfl) rfl rfl
theorem slt (x0 : SReg) (x1 : SReg) (x2 : SReg) : Statement (.slt x0 x1 x2) :=
  of_short rfl rfl (of_decide_eq_true rfl) (of_decide_eq_true rfl) rfl rfl
theorem sltn (x0 : SReg) (x1 : SReg) (x2 : SReg) : Statement (.sltn x0 x1 x2) :=
  of_short rfl rfl (of_decide_eq_true rfl) (of_decide_eq_true rfl) rfl rfl
theorem seq (x0 : SReg) (x1 : SReg) (x2 : SReg) : Statement (.seq x0 x1 x2) :=
  of_short rfl rfl (of_decide_eq_true rfl) (of_decide_eq_true rfl) rfl rfl
theorem sne (x0 : SReg) (x1 : SReg) (x2 : SReg) : Statement (.sne x0 x1 x2) :=
  of_short rfl rfl (of_decide_eq_true rfl) (of_decide_eq_true rfl) rfl rfl
theorem clz (x0 : SReg) (x1 : SReg) : Statement (.clz x0 x1) :=
  of_short rfl rfl (of_decide_eq_true rfl) (of_decide_eq_true rfl) rfl rfl
theorem ctz (x0 : SReg) (x1 : SReg) : Statement (.ctz x0 x1) :=
  of_short rfl rfl (of_decide_eq_true rfl) (of_decide_eq_true rfl) rfl rfl
theorem popc (x0 : SReg) (x1 : SReg) : Statement (.popc x0 x1) :=
  of_short rfl rfl (of_decide_eq_true rfl) (of_decide_eq_true rfl) rfl rfl
theorem brev (x0 : SReg) (x1 : SReg) : Statement (.brev x0 x1) :=
  of_short rfl rfl (of_decide_eq_true rfl) (of_decide_eq_true rfl) rfl rfl
theorem sextb (x0 : SReg) (x1 : SReg) : Statement (.sextb x0 x1) :=
  of_short rfl rfl (of_decide_eq_true rfl) (of_decide_eq_true rfl) rfl rfl
theorem sexth (x0 : SReg) (x1 : SReg) : Statement (.sexth x0 x1) :=
  of_short rfl rfl (of_decide_eq_true rfl) (of_decide_eq_true rfl) rfl rfl
theorem sextw (x0 : SReg) (x1 : SReg) : Statement (.sextw x0 x1) :=
  of_short rfl rfl (of_decide_eq_true rfl) (of_decide_eq_true rfl) rfl rfl
theorem zextb (x0 : SReg) (x1 : SReg) : Statement (.zextb x0 x1) :=
  of_short rfl rfl (of_decide_eq_true rfl) (of_decide_eq_true rfl) rfl rfl
theorem zexth (x0 : SReg) (x1 : SReg) : Statement (.zexth x0 x1) :=
  of_short rfl rfl (of_decide_eq_true rfl) (of_decide_eq_true rfl) rfl rfl
theorem zextw (x0 : SReg) (x1 : SReg) : Statement (.zextw x0 x1) :=
  of_short rfl rfl (of_decide_eq_true rfl) (of_decide_eq_true rfl) rfl rfl
theorem addi (x0 : SReg) (x1 : SReg) (x2 : BitVec 15) : Statement (.addi x0 x1 x2) :=
  of_short rfl rfl (of_decide_eq_true rfl) (frameI_fn_lt _ _ _ _) rfl (congrArg (fun y => some (Instr.addi x0 x1 y)) (frameI_imm15 _ _ _ _))
theorem andi (x0 : SReg) (x1 : SReg) (x2 : BitVec 15) : Statement (.andi x0 x1 x2) :=
  of_short rfl rfl (of_decide_eq_true rfl) (frameI_fn_lt _ _ _ _) rfl (congrArg (fun y => some (Instr.andi x0 x1 y)) (frameI_imm15 _ _ _ _))
theorem ori (x0 : SReg) (x1 : SReg) (x2 : BitVec 15) : Statement (.ori x0 x1 x2) :=
  of_short rfl rfl (of_decide_eq_true rfl) (frameI_fn_lt _ _ _ _) rfl (congrArg (fun y => some (Instr.ori x0 x1 y)) (frameI_imm15 _ _ _ _))
theorem xori (x0 : SReg) (x1 : SReg) (x2 : BitVec 15) : Statement (.xori x0 x1 x2) :=
  of_short rfl rfl (of_decide_eq_true rfl) (frameI_fn_lt _ _ _ _) rfl (congrArg (fun y => some (Instr.xori x0 x1 y)) (frameI_imm15 _ _ _ _))
theorem slti (x0 : SReg) (x1 : SReg) (x2 : BitVec 15) : Statement (.slti x0 x1 x2) :=
  of_short rfl rfl (of_decide_eq_true rfl) (frameI_fn_lt _ _ _ _) rfl (congrArg (fun y => some (Instr.slti x0 x1 y)) (frameI_imm15 _ _ _ _))
theorem sltni (x0 : SReg) (x1 : SReg) (x2 : BitVec 15) : Statement (.sltni x0 x1 x2) :=
  of_short rfl rfl (of_decide_eq_true rfl) (frameI_fn_lt _ _ _ _) rfl (congrArg (fun y => some (Instr.sltni x0 x1 y)) (frameI_imm15 _ _ _ _))
theorem muli (x0 : SReg) (x1 : SReg) (x2 : BitVec 15) : Statement (.muli x0 x1 x2) :=
  of_short rfl rfl (of_decide_eq_true rfl) (frameI_fn_lt _ _ _ _) rfl (congrArg (fun y => some (Instr.muli x0 x1 y)) (frameI_imm15 _ _ _ _))
theorem shli (x0 : SReg) (x1 : SReg) (x2 : BitVec 6) : Statement (.shli x0 x1 x2) :=
  of_short rfl rfl (of_decide_eq_true rfl) (frameI_fn_lt _ _ _ _) rfl (parseShi_frame (k := 0) x0 x1 x2 (by decide))
theorem shri (x0 : SReg) (x1 : SReg) (x2 : BitVec 6) : Statement (.shri x0 x1 x2) :=
  of_short rfl rfl (of_decide_eq_true rfl) (frameI_fn_lt _ _ _ _) rfl (parseShi_frame (k := 1) x0 x1 x2 (by decide))
theorem srai (x0 : SReg) (x1 : SReg) (x2 : BitVec 6) : Statement (.srai x0 x1 x2) :=
  of_short rfl rfl (of_decide_eq_true rfl) (frameI_fn_lt _ _ _ _) rfl (parseShi_frame (k := 2) x0 x1 x2 (by decide))
theorem rori (x0 : SReg) (x1 : SReg) (x2 : BitVec 6) : Statement (.rori x0 x1 x2) :=
  of_short rfl rfl (of_decide_eq_true rfl) (frameI_fn_lt _ _ _ _) rfl (parseShi_frame (k := 3) x0 x1 x2 (by decide))
theorem lih (x0 : SReg) (x1 : BitVec 20) : Statement (.lih x0 x1) :=
  of_short rfl rfl (of_decide_eq_true rfl) (frameJ_fn_lt _ _ _) rfl (congrArg (fun y => some (Instr.lih x0 y)) (frameJ_imm20 _ _ _))
theorem pcadd (x0 : SReg) (x1 : BitVec 20) : Statement (.pcadd x0 x1) :=
  of_short rfl rfl (of_decide_eq_true rfl) (frameJ_fn_lt _ _ _) rfl (congrArg (fun y => some (Instr.pcadd x0 y)) (frameJ_imm20 _ _ _))
theorem ld (x0 : SReg) (x1 : SReg) (x2 : Size) (x3 : BitVec 12) : Statement (.ld x0 x1 x2 x3) :=
  of_short rfl rfl (of_decide_eq_true rfl) (Nat.mod_lt _ (by decide)) rfl (parseMem_frame 12 x0 x1 x2 x3 _)
theorem st (x0 : SReg) (x1 : SReg) (x2 : Size) (x3 : BitVec 12) : Statement (.st x0 x1 x2 x3) :=
  of_short rfl rfl (of_decide_eq_true rfl) (Nat.mod_lt _ (by decide)) rfl (parseMem_frame 13 x0 x1 x2 x3 _)
theorem pld (x0 : SReg) (x1 : SReg) (x2 : Size) (x3 : BitVec 12) : Statement (.pld x0 x1 x2 x3) :=
  of_short rfl rfl (of_decide_eq_true rfl) (Nat.mod_lt _ (by decide)) rfl (parseMem_frame 14 x0 x1 x2 x3 _)
theorem pst (x0 : SReg) (x1 : SReg) (x2 : Size) (x3 : BitVec 12) : Statement (.pst x0 x1 x2 x3) :=
  of_short rfl rfl (of_decide_eq_true rfl) (Nat.mod_lt _ (by decide)) rfl (parseMem_frame 15 x0 x1 x2 x3 _)
theorem beq (x0 : SReg) (x1 : SReg) (x2 : BitVec 15) : Statement (.beq x0 x1 x2) :=
  of_short rfl rfl (of_decide_eq_true rfl) (frameI_fn_lt _ _ _ _) rfl (congrArg (fun y => some (Instr.beq x0 x1 y)) (frameI_imm15 _ _ _ _))
theorem bne (x0 : SReg) (x1 : SReg) (x2 : BitVec 15) : Statement (.bne x0 x1 x2) :=
  of_short rfl rfl (of_decide_eq_true rfl) (frameI_fn_lt _ _ _ _) rfl (congrArg (fun y => some (Instr.bne x0 x1 y)) (frameI_imm15 _ _ _ _))
theorem blt (x0 : SReg) (x1 : SReg) (x2 : BitVec 15) : Statement (.blt x0 x1 x2) :=
  of_short rfl rfl (of_decide_eq_true rfl) (frameI_fn_lt _ _ _ _) rfl (congrArg (fun y => some (Instr.blt x0 x1 y)) (frameI_imm15 _ _ _ _))
theorem bge (x0 : SReg) (x1 : SReg) (x2 : BitVec 15) : Statement (.bge x0 x1 x2) :=
  of_short rfl rfl (of_decide_eq_true rfl) (frameI_fn_lt _ _ _ _) rfl (congrArg (fun y => some (Instr.bge x0 x1 y)) (frameI_imm15 _ _ _ _))
theorem bltn (x0 : SReg) (x1 : SReg) (x2 : BitVec 15) : Statement (.bltn x0 x1 x2) :=
  of_short rfl rfl (of_decide_eq_true rfl) (frameI_fn_lt _ _ _ _) rfl (congrArg (fun y => some (Instr.bltn x0 x1 y)) (frameI_imm15 _ _ _ _))
theorem bgen (x0 : SReg) (x1 : SReg) (x2 : BitVec 15) : Statement (.bgen x0 x1 x2) :=
  of_short rfl rfl (of_decide_eq_true rfl) (frameI_fn_lt _ _ _ _) rfl (congrArg (fun y => some (Instr.bgen x0 x1 y)) (frameI_imm15 _ _ _ _))
theorem jal (x0 : SReg) (x1 : BitVec 20) : Statement (.jal x0 x1) :=
  of_short rfl rfl (of_decide_eq_true rfl) (frameJ_fn_lt _ _ _) rfl (congrArg (fun y => some (Instr.jal x0 y)) (frameJ_imm20 _ _ _))
theorem jalr (x0 : SReg) (x1 : SReg) (x2 : BitVec 15) : Statement (.jalr x0 x1 x2) :=
  of_short rfl rfl (of_decide_eq_true rfl) (frameI_fn_lt _ _ _ _) rfl (congrArg (fun y => some (Instr.jalr x0 x1 y)) (frameI_imm15 _ _ _ _))
theorem loop (x0 : SReg) (x1 : BitVec 15) : Statement (.loop x0 x1) :=
  of_short rfl rfl (of_decide_eq_true rfl) (frameI_fn_lt _ _ _ _) rfl (congrArg (fun y => some (Instr.loop x0 y)) (frameI_imm15 _ _ _ _))
theorem fadd (x0 : SReg) (x1 : SReg) (x2 : SReg) : Statement (.fadd x0 x1 x2) :=
  of_short rfl rfl (of_decide_eq_true rfl) (of_decide_eq_true rfl) rfl rfl
theorem fsub (x0 : SReg) (x1 : SReg) (x2 : SReg) : Statement (.fsub x0 x1 x2) :=
  of_short rfl rfl (of_decide_eq_true rfl) (of_decide_eq_true rfl) rfl rfl
theorem fmul (x0 : SReg) (x1 : SReg) (x2 : SReg) : Statement (.fmul x0 x1 x2) :=
  of_short rfl rfl (of_decide_eq_true rfl) (of_decide_eq_true rfl) rfl rfl
theorem fdiv (x0 : SReg) (x1 : SReg) (x2 : SReg) : Statement (.fdiv x0 x1 x2) :=
  of_short rfl rfl (of_decide_eq_true rfl) (of_decide_eq_true rfl) rfl rfl
theorem fsqrt (x0 : SReg) (x1 : SReg) : Statement (.fsqrt x0 x1) :=
  of_short rfl rfl (of_decide_eq_true rfl) (of_decide_eq_true rfl) rfl rfl
theorem fmin (x0 : SReg) (x1 : SReg) (x2 : SReg) : Statement (.fmin x0 x1 x2) :=
  of_short rfl rfl (of_decide_eq_true rfl) (of_decide_eq_true rfl) rfl rfl
theorem fmax (x0 : SReg) (x1 : SReg) (x2 : SReg) : Statement (.fmax x0 x1 x2) :=
  of_short rfl rfl (of_decide_eq_true rfl) (of_decide_eq_true rfl) rfl rfl
theorem fabs (x0 : SReg) (x1 : SReg) : Statement (.fabs x0 x1) :=
  of_short rfl rfl (of_decide_eq_true rfl) (of_decide_eq_true rfl) rfl rfl
theorem fneg (x0 : SReg) (x1 : SReg) : Statement (.fneg x0 x1) :=
  of_short rfl rfl (of_decide_eq_true rfl) (of_decide_eq_true rfl) rfl rfl
theorem feq (x0 : SReg) (x1 : SReg) (x2 : SReg) : Statement (.feq x0 x1 x2) :=
  of_short rfl rfl (of_decide_eq_true rfl) (of_decide_eq_true rfl) rfl rfl
theorem flt (x0 : SReg) (x1 : SReg) (x2 : SReg) : Statement (.flt x0 x1 x2) :=
  of_short rfl rfl (of_decide_eq_true rfl) (of_decide_eq_true rfl) rfl rfl
theorem fle (x0 : SReg) (x1 : SReg) (x2 : SReg) : Statement (.fle x0 x1 x2) :=
  of_short rfl rfl (of_decide_eq_true rfl) (of_decide_eq_true rfl) rfl rfl
theorem fclass (x0 : SReg) (x1 : SReg) : Statement (.fclass x0 x1) :=
  of_short rfl rfl (of_decide_eq_true rfl) (of_decide_eq_true rfl) rfl rfl
theorem fcvtif (x0 : SReg) (x1 : SReg) : Statement (.fcvtif x0 x1) :=
  of_short rfl rfl (of_decide_eq_true rfl) (of_decide_eq_true rfl) rfl rfl
theorem fcvtnf (x0 : SReg) (x1 : SReg) : Statement (.fcvtnf x0 x1) :=
  of_short rfl rfl (of_decide_eq_true rfl) (of_decide_eq_true rfl) rfl rfl
theorem fcvtfi (x0 : SReg) (x1 : SReg) : Statement (.fcvtfi x0 x1) :=
  of_short rfl rfl (of_decide_eq_true rfl) (of_decide_eq_true rfl) rfl rfl
theorem fcvtfn (x0 : SReg) (x1 : SReg) : Statement (.fcvtfn x0 x1) :=
  of_short rfl rfl (of_decide_eq_true rfl) (of_decide_eq_true rfl) rfl rfl
theorem aadd (x0 : SReg) (x1 : SReg) (x2 : SReg) (x3 : Bool) (x4 : Scope) : Statement (.aadd x0 x1 x2 x3 x4) :=
  of_short rfl rfl (of_decide_eq_true rfl) (amo_fn_lt x3 x4 (by decide)) rfl (parseAmo_frame (k := 0) x0 x1 x2 x3 x4 (by decide))
theorem aand (x0 : SReg) (x1 : SReg) (x2 : SReg) (x3 : Bool) (x4 : Scope) : Statement (.aand x0 x1 x2 x3 x4) :=
  of_short rfl rfl (of_decide_eq_true rfl) (amo_fn_lt x3 x4 (by decide)) rfl (parseAmo_frame (k := 1) x0 x1 x2 x3 x4 (by decide))
theorem aor (x0 : SReg) (x1 : SReg) (x2 : SReg) (x3 : Bool) (x4 : Scope) : Statement (.aor x0 x1 x2 x3 x4) :=
  of_short rfl rfl (of_decide_eq_true rfl) (amo_fn_lt x3 x4 (by decide)) rfl (parseAmo_frame (k := 2) x0 x1 x2 x3 x4 (by decide))
theorem axor (x0 : SReg) (x1 : SReg) (x2 : SReg) (x3 : Bool) (x4 : Scope) : Statement (.axor x0 x1 x2 x3 x4) :=
  of_short rfl rfl (of_decide_eq_true rfl) (amo_fn_lt x3 x4 (by decide)) rfl (parseAmo_frame (k := 3) x0 x1 x2 x3 x4 (by decide))
theorem amin (x0 : SReg) (x1 : SReg) (x2 : SReg) (x3 : Bool) (x4 : Scope) : Statement (.amin x0 x1 x2 x3 x4) :=
  of_short rfl rfl (of_decide_eq_true rfl) (amo_fn_lt x3 x4 (by decide)) rfl (parseAmo_frame (k := 4) x0 x1 x2 x3 x4 (by decide))
theorem amax (x0 : SReg) (x1 : SReg) (x2 : SReg) (x3 : Bool) (x4 : Scope) : Statement (.amax x0 x1 x2 x3 x4) :=
  of_short rfl rfl (of_decide_eq_true rfl) (amo_fn_lt x3 x4 (by decide)) rfl (parseAmo_frame (k := 5) x0 x1 x2 x3 x4 (by decide))
theorem aminn (x0 : SReg) (x1 : SReg) (x2 : SReg) (x3 : Bool) (x4 : Scope) : Statement (.aminn x0 x1 x2 x3 x4) :=
  of_short rfl rfl (of_decide_eq_true rfl) (amo_fn_lt x3 x4 (by decide)) rfl (parseAmo_frame (k := 6) x0 x1 x2 x3 x4 (by decide))
theorem amaxn (x0 : SReg) (x1 : SReg) (x2 : SReg) (x3 : Bool) (x4 : Scope) : Statement (.amaxn x0 x1 x2 x3 x4) :=
  of_short rfl rfl (of_decide_eq_true rfl) (amo_fn_lt x3 x4 (by decide)) rfl (parseAmo_frame (k := 7) x0 x1 x2 x3 x4 (by decide))
theorem aswp (x0 : SReg) (x1 : SReg) (x2 : SReg) (x3 : Bool) (x4 : Scope) : Statement (.aswp x0 x1 x2 x3 x4) :=
  of_short rfl rfl (of_decide_eq_true rfl) (amo_fn_lt x3 x4 (by decide)) rfl (parseAmo_frame (k := 8) x0 x1 x2 x3 x4 (by decide))
theorem acas (x0 : SReg) (x1 : SReg) (x2 : SReg) (x3 : Bool) (x4 : Scope) : Statement (.acas x0 x1 x2 x3 x4) :=
  of_short rfl rfl (of_decide_eq_true rfl) (amo_fn_lt x3 x4 (by decide)) rfl (parseAmo_frame (k := 9) x0 x1 x2 x3 x4 (by decide))
theorem albGated (x0 : SReg) (x1 : SReg) (x2 : Fin 16) : Statement (.albGated x0 x1 x2) :=
  of_short rfl rfl (of_decide_eq_true rfl) (frameI_fn_lt _ _ _ _) rfl (parseAlb_gated x0 x1 x2)
theorem alb (x0 : SReg) : Statement (.alb x0) :=
  of_short rfl rfl (of_decide_eq_true rfl) (frameI_fn_lt _ _ _ _) rfl (by decide +revert)
theorem ale (x0 : SReg) : Statement (.ale x0) :=
  of_short rfl rfl (of_decide_eq_true rfl) (frameI_fn_lt _ _ _ _) rfl rfl
theorem fence (x0 : Bool) (x1 : FenceKind) (x2 : Scope) : Statement (.fence x0 x1 x2) :=
  of_short rfl rfl (of_decide_eq_true rfl) (by cases x0 <;> cases x1 <;> cases x2 <;> decide) rfl (by cases x0 <;> cases x1 <;> cases x2 <;> rfl)
theorem chnew (x0 : EReg) (x1 : EReg) : Statement (.chnew x0 x1) :=
  of_short rfl rfl (of_decide_eq_true rfl) (of_decide_eq_true rfl) rfl (by show parseChan (frame 0x20 (EReg.field x0) (EReg.field x1) 0 0x000) = _; simp [parseChan, frame])
theorem chclose (x0 : EReg) : Statement (.chclose x0) :=
  of_short rfl rfl (of_decide_eq_true rfl) (of_decide_eq_true rfl) rfl (by show parseChan (frame 0x20 0 (EReg.field x0) 0 0x001) = _; simp [parseChan, frame])
theorem emov (x0 : EReg) (x1 : EReg) : Statement (.emov x0 x1) :=
  of_short rfl rfl (of_decide_eq_true rfl) (of_decide_eq_true rfl) rfl (by show parseChan (frame 0x20 (EReg.field x0) (EReg.field x1) 0 0x002) = _; simp [parseChan, frame])
theorem einfo (x0 : SReg) (x1 : EReg) : Statement (.einfo x0 x1) :=
  of_short rfl rfl (of_decide_eq_true rfl) (of_decide_eq_true rfl) rfl (by show parseChan (frame 0x20 x0 (EReg.field x1) 0 0x003) = _; simp [parseChan, frame])
theorem brnew (x0 : EReg) (x1 : SReg) : Statement (.brnew x0 x1) :=
  of_short rfl rfl (of_decide_eq_true rfl) (of_decide_eq_true rfl) rfl (by show parseChan (frame 0x20 (EReg.field x0) x1 0 0x008) = _; simp [parseChan, frame])
theorem brep (x0 : EReg) (x1 : EReg) : Statement (.brep x0 x1) :=
  of_short rfl rfl (of_decide_eq_true rfl) (of_decide_eq_true rfl) rfl (by show parseChan (frame 0x20 (EReg.field x0) (EReg.field x1) 0 0x009) = _; simp [parseChan, frame])
theorem arrive (x0 : EReg) : Statement (.arrive x0) :=
  of_short rfl rfl (of_decide_eq_true rfl) (of_decide_eq_true rfl) rfl (by show parseChan (frame 0x20 0 (EReg.field x0) 0 0x00A) = _; simp [parseChan, frame])
theorem await (x0 : EReg) : Statement (.await x0) :=
  of_short rfl rfl (of_decide_eq_true rfl) (of_decide_eq_true rfl) rfl (by show parseChan (frame 0x20 0 (EReg.field x0) 0 0x00B) = _; simp [parseChan, frame])
theorem bsync (x0 : EReg) : Statement (.bsync x0) :=
  of_short rfl rfl (of_decide_eq_true rfl) (of_decide_eq_true rfl) rfl (by show parseChan (frame 0x20 0 (EReg.field x0) 0 0x00C) = _; simp [parseChan, frame])
theorem sende (x0 : EReg) (x1 : EReg) : Statement (.sende x0 x1) :=
  of_short rfl rfl (of_decide_eq_true rfl) (of_decide_eq_true rfl) rfl (by show parseChan (frame 0x20 0 (EReg.field x0) (EReg.field x1) 0x010) = _; simp [parseChan, frame])
theorem recve (x0 : EReg) (x1 : EReg) : Statement (.recve x0 x1) :=
  of_short rfl rfl (of_decide_eq_true rfl) (of_decide_eq_true rfl) rfl (by show parseChan (frame 0x20 (EReg.field x0) (EReg.field x1) 0 0x011) = _; simp [parseChan, frame])
theorem send (x0 : EReg) (x1 : SReg) : Statement (.send x0 x1) :=
  of_short rfl rfl (of_decide_eq_true rfl) (of_decide_eq_true rfl) rfl (by show Option.map _ _ = _; simp [frame])
theorem recv (x0 : SReg) (x1 : EReg) : Statement (.recv x0 x1) :=
  of_short rfl rfl (of_decide_eq_true rfl) (of_decide_eq_true rfl) rfl (by show Option.map _ _ = _; simp [frame])
theorem xmaxf (x0 : SReg) (x1 : SReg) (x2 : EReg) : Statement (.xmaxf x0 x1 x2) :=
  of_short rfl rfl (of_decide_eq_true rfl) (of_decide_eq_true rfl) rfl (by show parseXcol (frame 0x23 x0 x1 (EReg.field x2) 0) = _; simp [parseXcol, frame])
theorem xminf (x0 : SReg) (x1 : SReg) (x2 : EReg) : Statement (.xminf x0 x1 x2) :=
  of_short rfl rfl (of_decide_eq_true rfl) (of_decide_eq_true rfl) rfl (by show parseXcol (frame 0x23 x0 x1 (EReg.field x2) 1) = _; simp [parseXcol, frame])
theorem xsumf (x0 : SReg) (x1 : SReg) (x2 : EReg) : Statement (.xsumf x0 x1 x2) :=
  of_short rfl rfl (of_decide_eq_true rfl) (of_decide_eq_true rfl) rfl (by show parseXcol (frame 0x23 x0 x1 (EReg.field x2) 2) = _; simp [parseXcol, frame])
theorem xsumi (x0 : SReg) (x1 : SReg) (x2 : EReg) : Statement (.xsumi x0 x1 x2) :=
  of_short rfl rfl (of_decide_eq_true rfl) (of_decide_eq_true rfl) rfl (by show parseXcol (frame 0x23 x0 x1 (EReg.field x2) 3) = _; simp [parseXcol, frame])
theorem xmaxi (x0 : SReg) (x1 : SReg) (x2 : EReg) : Statement (.xmaxi x0 x1 x2) :=
  of_short rfl rfl (of_decide_eq_true rfl) (of_decide_eq_true rfl) rfl (by show parseXcol (frame 0x23 x0 x1 (EReg.field x2) 4) = _; simp [parseXcol, frame])
theorem xswp (x0 : SReg) (x1 : SReg) (x2 : EReg) : Statement (.xswp x0 x1 x2) :=
  of_short rfl rfl (of_decide_eq_true rfl) (of_decide_eq_true rfl) rfl (by show parseXcol (frame 0x23 x0 x1 (EReg.field x2) 5) = _; simp [parseXcol, frame])
theorem exit (x0 : SReg) : Statement (.exit x0) :=
  of_short rfl rfl (of_decide_eq_true rfl) (of_decide_eq_true rfl) rfl rfl
theorem yield : Statement (.yield) :=
  of_short rfl rfl (of_decide_eq_true rfl) (of_decide_eq_true rfl) rfl rfl
theorem pid (x0 : SReg) : Statement (.pid x0) :=
  of_short rfl rfl (of_decide_eq_true rfl) (of_decide_eq_true rfl) rfl rfl
theorem lcore (x0 : SReg) : Statement (.lcore x0) :=
  of_short rfl rfl (of_decide_eq_true rfl) (of_decide_eq_true rfl) rfl rfl
theorem sprio (x0 : SReg) : Statement (.sprio x0) :=
  of_short rfl rfl (of_decide_eq_true rfl) (of_decide_eq_true rfl) rfl rfl
theorem gprio (x0 : SReg) : Statement (.gprio x0) :=
  of_short rfl rfl (of_decide_eq_true rfl) (of_decide_eq_true rfl) rfl rfl
theorem cycle (x0 : SReg) : Statement (.cycle x0) :=
  of_short rfl rfl (of_decide_eq_true rfl) (of_decide_eq_true rfl) rfl rfl
theorem part (x0 : SReg) : Statement (.part x0) :=
  of_short rfl rfl (of_decide_eq_true rfl) (of_decide_eq_true rfl) rfl rfl
theorem spawn (x0 : EReg) (x1 : SReg) (x2 : SReg) (x3 : Domain) (x4 : BitVec 8) : Statement (.spawn x0 x1 x2 x3 x4) :=
  of_short rfl rfl (of_decide_eq_true rfl) (spawn_fn_lt x3 x4) rfl (parseSpawn_frame x0 x1 x2 x3 x4)
theorem gset (x0 : GReg) (x1 : SReg) (x2 : SReg) : Statement (.gset x0 x1 x2) :=
  of_short rfl rfl (of_decide_eq_true rfl) (of_decide_eq_true rfl) rfl (by show Option.map _ _ = _; simp [frame])
theorem nop : Statement (.nop) :=
  of_short rfl rfl (of_decide_eq_true rfl) (of_decide_eq_true rfl) rfl rfl
theorem halt : Statement (.halt) :=
  of_short rfl rfl (of_decide_eq_true rfl) (of_decide_eq_true rfl) rfl rfl
theorem brk : Statement (.brk) :=
  of_short rfl rfl (of_decide_eq_true rfl) (of_decide_eq_true rfl) rfl rfl
theorem park (x0 : SReg) : Statement (.park x0) :=
  of_short rfl rfl (of_decide_eq_true rfl) (of_decide_eq_true rfl) rfl rfl
theorem resume (x0 : SReg) : Statement (.resume x0) :=
  of_short rfl rfl (of_decide_eq_true rfl) (of_decide_eq_true rfl) rfl rfl
theorem migr (x0 : SReg) (x1 : SReg) : Statement (.migr x0 x1) :=
  of_short rfl rfl (of_decide_eq_true rfl) (of_decide_eq_true rfl) rfl rfl
theorem kill (x0 : SReg) : Statement (.kill x0) :=
  of_short rfl rfl (of_decide_eq_true rfl) (of_decide_eq_true rfl) rfl rfl
theorem sttw (x0 : SReg) (x1 : SReg) : Statement (.sttw x0 x1) :=
  of_short rfl rfl (of_decide_eq_true rfl) (of_decide_eq_true rfl) rfl rfl
theorem stti (x0 : SReg) : Statement (.stti x0) :=
  of_short rfl rfl (of_decide_eq_true rfl) (of_decide_eq_true rfl) rfl rfl
theorem tlbi (x0 : SReg) (x1 : SReg) : Statement (.tlbi x0 x1) :=
  of_short rfl rfl (of_decide_eq_true rfl) (of_decide_eq_true rfl) rfl rfl
theorem tlbia : Statement (.tlbia) :=
  of_short rfl rfl (of_decide_eq_true rfl) (of_decide_eq_true rfl) rfl rfl
theorem mfsr (x0 : SReg) (x1 : BitVec 15) : Statement (.mfsr x0 x1) :=
  of_short rfl rfl (of_decide_eq_true rfl) (frameI_fn_lt _ _ _ _) rfl (congrArg (fun y => some (Instr.mfsr x0 y)) (frameI_imm15 _ _ _ _))
theorem mtsr (x0 : BitVec 15) (x1 : SReg) : Statement (.mtsr x0 x1) :=
  of_short rfl rfl (of_decide_eq_true rfl) (frameI_fn_lt _ _ _ _) rfl (congrArg (fun y => some (Instr.mtsr y x1)) (frameI_imm15 _ _ _ _))
theorem trap (x0 : BitVec 20) : Statement (.trap x0) :=
  of_short rfl rfl (of_decide_eq_true rfl) (frameJ_fn_lt _ _ _) rfl (congrArg (fun y => some (Instr.trap y)) (frameJ_imm20 _ _ _))
theorem li (x0 : SReg) (x1 : BitVec 32) : Statement (.li x0 x1) :=
  of_second rfl rfl (of_decide_eq_true rfl) (frame2_fn_lt _ _ _ _ _ (by decide)) (BitVec.isLt _) (imm32_li x0 x1)
theorem lihL (x0 : SReg) (x1 : BitVec 32) : Statement (.lihL x0 x1) :=
  of_second rfl rfl (of_decide_eq_true rfl) (frame2_fn_lt _ _ _ _ _ (by decide)) (BitVec.isLt _) (imm32_lihL x0 x1)
theorem addl (x0 : SReg) (x1 : SReg) (x2 : BitVec 32) : Statement (.addl x0 x1 x2) :=
  of_second rfl rfl (of_decide_eq_true rfl) (frame2_fn_lt _ _ _ _ _ (by decide)) (BitVec.isLt _) (imm32_addl x0 x1 x2)
theorem bmap (x0 : SReg) (x1 : SReg) (x2 : SReg) (x3 : SReg) (x4 : BitVec 8) : Statement (.bmap x0 x1 x2 x3 x4) :=
  of_long (t := { Tail.blank with md := x4.toNat }) rfl rfl (of_decide_eq_true rfl) (frame2_fn_lt _ _ _ _ _ (by decide)) rfl ⟨(of_decide_eq_true rfl), (of_decide_eq_true rfl), (of_decide_eq_true rfl), (Nat.lt_trans (BitVec.isLt _) (by decide))⟩ (by show parseLscal (frame2 0x01 x0 x1 x2 x3 3) ({ Tail.blank with md := x4.toNat }) (encodeSecond (.bmap x0 x1 x2 x3 x4)) = _; rw [parseLscal, frame2_fn5 _ _ _ _ _ (by decide)]; simp [frame2_c, frame2_d, frame2_a, frame2_b])
theorem fshl (x0 : SReg) (x1 : SReg) (x2 : SReg) (x3 : SReg) : Statement (.fshl x0 x1 x2 x3) :=
  of_long (t := Tail.blank) rfl rfl (of_decide_eq_true rfl) (frame2_fn_lt _ _ _ _ _ (by decide)) rfl Tail.blank_small (by show parseLscal (frame2 0x01 x0 x1 x2 x3 4) Tail.blank (encodeSecond (.fshl x0 x1 x2 x3)) = _; rw [parseLscal, frame2_fn5 _ _ _ _ _ (by decide)]; simp [frame2_c, frame2_d, frame2_a, frame2_b])
theorem fshr (x0 : SReg) (x1 : SReg) (x2 : SReg) (x3 : SReg) : Statement (.fshr x0 x1 x2 x3) :=
  of_long (t := Tail.blank) rfl rfl (of_decide_eq_true rfl) (frame2_fn_lt _ _ _ _ _ (by decide)) rfl Tail.blank_small (by show parseLscal (frame2 0x01 x0 x1 x2 x3 5) Tail.blank (encodeSecond (.fshr x0 x1 x2 x3)) = _; rw [parseLscal, frame2_fn5 _ _ _ _ _ (by decide)]; simp [frame2_c, frame2_d, frame2_a, frame2_b])
theorem fma (x0 : SReg) (x1 : SReg) (x2 : SReg) (x3 : SReg) : Statement (.fma x0 x1 x2 x3) :=
  of_long (t := Tail.blank) rfl rfl (of_decide_eq_true rfl) (frame2_fn_lt _ _ _ _ _ (by decide)) rfl Tail.blank_small (by show parseLscal (frame2 0x01 x0 x1 x2 x3 6) Tail.blank (encodeSecond (.fma x0 x1 x2 x3)) = _; rw [parseLscal, frame2_fn5 _ _ _ _ _ (by decide)]; simp [frame2_c, frame2_d, frame2_a, frame2_b])
theorem fms (x0 : SReg) (x1 : SReg) (x2 : SReg) (x3 : SReg) : Statement (.fms x0 x1 x2 x3) :=
  of_long (t := Tail.blank) rfl rfl (of_decide_eq_true rfl) (frame2_fn_lt _ _ _ _ _ (by decide)) rfl Tail.blank_small (by show parseLscal (frame2 0x01 x0 x1 x2 x3 7) Tail.blank (encodeSecond (.fms x0 x1 x2 x3)) = _; rw [parseLscal, frame2_fn5 _ _ _ _ _ (by decide)]; simp [frame2_c, frame2_d, frame2_a, frame2_b])
theorem fnma (x0 : SReg) (x1 : SReg) (x2 : SReg) (x3 : SReg) : Statement (.fnma x0 x1 x2 x3) :=
  of_long (t := Tail.blank) rfl rfl (of_decide_eq_true rfl) (frame2_fn_lt _ _ _ _ _ (by decide)) rfl Tail.blank_small (by show parseLscal (frame2 0x01 x0 x1 x2 x3 8) Tail.blank (encodeSecond (.fnma x0 x1 x2 x3)) = _; rw [parseLscal, frame2_fn5 _ _ _ _ _ (by decide)]; simp [frame2_c, frame2_d, frame2_a, frame2_b])
theorem csel (x0 : SReg) (x1 : SReg) (x2 : SReg) (x3 : SReg) : Statement (.csel x0 x1 x2 x3) :=
  of_long (t := Tail.blank) rfl rfl (of_decide_eq_true rfl) (frame2_fn_lt _ _ _ _ _ (by decide)) rfl Tail.blank_small (by show parseLscal (frame2 0x01 x0 x1 x2 x3 9) Tail.blank (encodeSecond (.csel x0 x1 x2 x3)) = _; rw [parseLscal, frame2_fn5 _ _ _ _ _ (by decide)]; simp [frame2_c, frame2_d, frame2_a, frame2_b])
theorem bfx (x0 : SReg) (x1 : SReg) (x2 : BitVec 6) (x3 : BitVec 6) : Statement (.bfx x0 x1 x2 x3) :=
  of_long (t := { Tail.blank with md := x3.toNat * 64 + x2.toNat }) rfl rfl (of_decide_eq_true rfl) (frame2_fn_lt _ _ _ _ _ (by decide)) rfl ⟨(of_decide_eq_true rfl), (of_decide_eq_true rfl), (of_decide_eq_true rfl), (field_md_lt _ _)⟩ (by show parseLscal (frame2 0x01 x0 x1 0 0 10) ({ Tail.blank with md := x3.toNat * 64 + x2.toNat }) (encodeSecond (.bfx x0 x1 x2 x3)) = _; rw [parseLscal, frame2_fn5 _ _ _ _ _ (by decide)]; simp [frame2_d, frame2_a]; exact ⟨field_low x2 x3, field_high x2 x3⟩)
theorem bfi (x0 : SReg) (x1 : SReg) (x2 : BitVec 6) (x3 : BitVec 6) : Statement (.bfi x0 x1 x2 x3) :=
  of_long (t := { Tail.blank with md := x3.toNat * 64 + x2.toNat }) rfl rfl (of_decide_eq_true rfl) (frame2_fn_lt _ _ _ _ _ (by decide)) rfl ⟨(of_decide_eq_true rfl), (of_decide_eq_true rfl), (of_decide_eq_true rfl), (field_md_lt _ _)⟩ (by show parseLscal (frame2 0x01 x0 x1 0 0 11) ({ Tail.blank with md := x3.toNat * 64 + x2.toNat }) (encodeSecond (.bfi x0 x1 x2 x3)) = _; rw [parseLscal, frame2_fn5 _ _ _ _ _ (by decide)]; simp [frame2_d, frame2_a]; exact ⟨field_low x2 x3, field_high x2 x3⟩)
theorem alt (x0 : SReg) (x1 : SReg) (x2 : EReg) (x3 : BitVec 8) (x4 : BitVec 8) (x5 : BitVec 8) (x6 : Bool) : Statement (.alt x0 x1 x2 x3 x4 x5 x6) :=
  of_second rfl rfl (of_decide_eq_true rfl) (frame2_fn_lt _ _ _ _ _ (by decide)) (alt_second_lt x3 x4 x5 x6) (imm32_alt x0 x1 x2 x3 x4 x5 x6)
theorem sendt (x0 : EReg) (x1 : TGrp) : Statement (.sendt x0 x1) :=
  of_long (t := { Tail.blank with wc := x1.w }) rfl rfl (of_decide_eq_true rfl) (frame2_fn_lt _ _ _ _ _ (by decide)) rfl ⟨(of_decide_eq_true rfl), (of_decide_eq_true rfl), (of_decide_eq_true rfl), (of_decide_eq_true rfl)⟩ (by show parseTchan (frame2 0x03 0 0 (EReg.field x0) x1.base 0) ({ Tail.blank with wc := x1.w }) = _; rw [parseTchan, frame2_fn5 _ _ _ _ _ (by decide)]; simp [grpC, frame2_c, frame2_b])
theorem recvt (x0 : TGrp) (x1 : EReg) : Statement (.recvt x0 x1) :=
  of_long (t := { Tail.blank with wd := x0.w }) rfl rfl (of_decide_eq_true rfl) (frame2_fn_lt _ _ _ _ _ (by decide)) rfl ⟨(of_decide_eq_true rfl), (of_decide_eq_true rfl), (of_decide_eq_true rfl), (of_decide_eq_true rfl)⟩ (by show parseTchan (frame2 0x03 x0.base 0 (EReg.field x1) 0 1) ({ Tail.blank with wd := x0.w }) = _; rw [parseTchan, frame2_fn5 _ _ _ _ _ (by decide)]; simp [grpD, frame2_d, frame2_b])
theorem txmax (x0 : TGrp) (x1 : TGrp) (x2 : EReg) (x3 : Ty) : Statement (.txmax x0 x1 x2 x3) :=
  of_long (t := { Tail.blank with wd := x0.w, wa := x1.w, ti := Ty.num x3 }) rfl rfl (of_decide_eq_true rfl) (frame2_fn_lt _ _ _ _ _ (by decide)) rfl ⟨(Ty.num_lt _), (of_decide_eq_true rfl), (of_decide_eq_true rfl), (of_decide_eq_true rfl)⟩ (by show parseTchan (frame2 0x03 x0.base x1.base (EReg.field x2) 0 2) ({ Tail.blank with wd := x0.w, wa := x1.w, ti := Ty.num x3 }) = _; rw [parseTchan, frame2_fn5 _ _ _ _ _ (by decide)]; simp [grpD, grpA, withTi, frame2_d, frame2_a, frame2_b])
theorem txsum (x0 : TGrp) (x1 : TGrp) (x2 : EReg) (x3 : Ty) : Statement (.txsum x0 x1 x2 x3) :=
  of_long (t := { Tail.blank with wd := x0.w, wa := x1.w, ti := Ty.num x3 }) rfl rfl (of_decide_eq_true rfl) (frame2_fn_lt _ _ _ _ _ (by decide)) rfl ⟨(Ty.num_lt _), (of_decide_eq_true rfl), (of_decide_eq_true rfl), (of_decide_eq_true rfl)⟩ (by show parseTchan (frame2 0x03 x0.base x1.base (EReg.field x2) 0 3) ({ Tail.blank with wd := x0.w, wa := x1.w, ti := Ty.num x3 }) = _; rw [parseTchan, frame2_fn5 _ _ _ _ _ (by decide)]; simp [grpD, grpA, withTi, frame2_d, frame2_a, frame2_b])
theorem txmrg (x0 : TGrp) (x1 : TGrp) (x2 : EReg) : Statement (.txmrg x0 x1 x2) :=
  of_long (t := { Tail.blank with wd := x0.w, wa := x1.w }) rfl rfl (of_decide_eq_true rfl) (frame2_fn_lt _ _ _ _ _ (by decide)) rfl ⟨(of_decide_eq_true rfl), (of_decide_eq_true rfl), (of_decide_eq_true rfl), (of_decide_eq_true rfl)⟩ (by show parseTchan (frame2 0x03 x0.base x1.base (EReg.field x2) 0 4) ({ Tail.blank with wd := x0.w, wa := x1.w }) = _; rw [parseTchan, frame2_fn5 _ _ _ _ _ (by decide)]; simp [grpD, grpA, frame2_d, frame2_a, frame2_b])
theorem tld (x0 : TGrp) (x1 : SReg) (x2 : GReg) (x3 : Hint) : Statement (.tld x0 x1 x2 x3) :=
  of_long (t := { Tail.blank with wd := x0.w, md := Hint.num x3 }) rfl rfl (of_decide_eq_true rfl) (frame2_fn_lt _ _ _ _ _ (by decide)) rfl ⟨(of_decide_eq_true rfl), (of_decide_eq_true rfl), (of_decide_eq_true rfl), (Hint.num_lt _)⟩ (by show parseTmem (frame2 0x04 x0.base x1 (GReg.field x2) 0 0) ({ Tail.blank with wd := x0.w, md := Hint.num x3 }) = _; rw [parseTmem, frame2_fn5 _ _ _ _ _ (by decide)]; simp [grpD, withGeom, frame2_d, frame2_a, frame2_b])
theorem tst (x0 : SReg) (x1 : GReg) (x2 : TGrp) (x3 : Hint) : Statement (.tst x0 x1 x2 x3) :=
  of_long (t := { Tail.blank with wc := x2.w, md := Hint.num x3 }) rfl rfl (of_decide_eq_true rfl) (frame2_fn_lt _ _ _ _ _ (by decide)) rfl ⟨(of_decide_eq_true rfl), (of_decide_eq_true rfl), (of_decide_eq_true rfl), (Hint.num_lt _)⟩ (by show parseTmem (frame2 0x04 0 x0 (GReg.field x1) x2.base 1) ({ Tail.blank with wc := x2.w, md := Hint.num x3 }) = _; rw [parseTmem, frame2_fn5 _ _ _ _ _ (by decide)]; simp [grpC, withGeom, frame2_c, frame2_a, frame2_b])
theorem tldx (x0 : TGrp) (x1 : SReg) (x2 : GReg) (x3 : TReg) (x4 : Hint) : Statement (.tldx x0 x1 x2 x3 x4) :=
  of_long (t := { Tail.blank with wd := x0.w, md := Hint.num x4 }) rfl rfl (of_decide_eq_true rfl) (frame2_fn_lt _ _ _ _ _ (by decide)) rfl ⟨(of_decide_eq_true rfl), (of_decide_eq_true rfl), (of_decide_eq_true rfl), (Hint.num_lt _)⟩ (by show parseTmem (frame2 0x04 x0.base x1 (GReg.field x2) x3 2) ({ Tail.blank with wd := x0.w, md := Hint.num x4 }) = _; rw [parseTmem, frame2_fn5 _ _ _ _ _ (by decide)]; simp [grpD, withGeom, frame2_c, frame2_d, frame2_a, frame2_b])
theorem tstx (x0 : TGrp) (x1 : SReg) (x2 : GReg) (x3 : TReg) (x4 : Hint) : Statement (.tstx x0 x1 x2 x3 x4) :=
  of_long (t := { Tail.blank with wd := x0.w, md := Hint.num x4 }) rfl rfl (of_decide_eq_true rfl) (frame2_fn_lt _ _ _ _ _ (by decide)) rfl ⟨(of_decide_eq_true rfl), (of_decide_eq_true rfl), (of_decide_eq_true rfl), (Hint.num_lt _)⟩ (by show parseTmem (frame2 0x04 x0.base x1 (GReg.field x2) x3 3) ({ Tail.blank with wd := x0.w, md := Hint.num x4 }) = _; rw [parseTmem, frame2_fn5 _ _ _ _ _ (by decide)]; simp [grpD, withGeom, frame2_c, frame2_d, frame2_a, frame2_b])
theorem tpf (x0 : SReg) (x1 : GReg) (x2 : Hint) : Statement (.tpf x0 x1 x2) :=
  of_long (t := { Tail.blank with md := Hint.num x2 }) rfl rfl (of_decide_eq_true rfl) (frame2_fn_lt _ _ _ _ _ (by decide)) rfl ⟨(of_decide_eq_true rfl), (of_decide_eq_true rfl), (of_decide_eq_true rfl), (Hint.num_lt _)⟩ (by show parseTmem (frame2 0x04 0 x0 (GReg.field x1) 0 4) ({ Tail.blank with md := Hint.num x2 }) = _; rw [parseTmem, frame2_fn5 _ _ _ _ _ (by decide)]; simp [withGeom, frame2_a, frame2_b])
theorem tred (x0 : SReg) (x1 : GReg) (x2 : TGrp) (x3 : Ty) (x4 : Hint) : Statement (.tred x0 x1 x2 x3 x4) :=
  of_long (t := { Tail.blank with wc := x2.w, ti := Ty.num x3, md := Hint.num x4 }) rfl rfl (of_decide_eq_true rfl) (frame2_fn_lt _ _ _ _ _ (by decide)) rfl ⟨(Ty.num_lt _), (of_decide_eq_true rfl), (of_decide_eq_true rfl), (Hint.num_lt _)⟩ (by show parseTmem (frame2 0x04 0 x0 (GReg.field x1) x2.base 5) ({ Tail.blank with wc := x2.w, ti := Ty.num x3, md := Hint.num x4 }) = _; rw [parseTmem, frame2_fn5 _ _ _ _ _ (by decide)]; simp [grpC, withTi, withGeom, frame2_c, frame2_a, frame2_b])
theorem spld (x0 : TGrp) (x1 : SReg) : Statement (.spld x0 x1) :=
  of_long (t := { Tail.blank with wd := x0.w }) rfl rfl (of_decide_eq_true rfl) (frame2_fn_lt _ _ _ _ _ (by decide)) rfl ⟨(of_decide_eq_true rfl), (of_decide_eq_true rfl), (of_decide_eq_true rfl), (of_decide_eq_true rfl)⟩ (by show parseTmem (frame2 0x04 x0.base x1 0 0 6) ({ Tail.blank with wd := x0.w }) = _; rw [parseTmem, frame2_fn5 _ _ _ _ _ (by decide)]; simp [grpD, frame2_d, frame2_a])
theorem spst (x0 : SReg) (x1 : TGrp) : Statement (.spst x0 x1) :=
  of_long (t := { Tail.blank with wc := x1.w }) rfl rfl (of_decide_eq_true rfl) (frame2_fn_lt _ _ _ _ _ (by decide)) rfl ⟨(of_decide_eq_true rfl), (of_decide_eq_true rfl), (of_decide_eq_true rfl), (of_decide_eq_true rfl)⟩ (by show parseTmem (frame2 0x04 0 x0 0 x1.base 7) ({ Tail.blank with wc := x1.w }) = _; rw [parseTmem, frame2_fn5 _ _ _ _ _ (by decide)]; simp [grpC, frame2_c, frame2_a])
theorem tmov (x0 : TGrp) (x1 : TGrp) : Statement (.tmov x0 x1) :=
  of_long (t := { Tail.blank with wd := x0.w, wa := x1.w }) rfl rfl (of_decide_eq_true rfl) (frame2_fn_lt _ _ _ _ _ (by decide)) rfl ⟨(of_decide_eq_true rfl), (of_decide_eq_true rfl), (of_decide_eq_true rfl), (of_decide_eq_true rfl)⟩ (by show parseTmove (frame2 0x05 x0.base x1.base 0 0 0) ({ Tail.blank with wd := x0.w, wa := x1.w }) = _; rw [parseTmove, frame2_fn5 _ _ _ _ _ (by decide)]; simp [grpD, grpA, frame2_d, frame2_a])
theorem tzero (x0 : TGrp) : Statement (.tzero x0) :=
  of_long (t := { Tail.blank with wd := x0.w }) rfl rfl (of_decide_eq_true rfl) (frame2_fn_lt _ _ _ _ _ (by decide)) rfl ⟨(of_decide_eq_true rfl), (of_decide_eq_true rfl), (of_decide_eq_true rfl), (of_decide_eq_true rfl)⟩ (by show parseTmove (frame2 0x05 x0.base 0 0 0 1) ({ Tail.blank with wd := x0.w }) = _; rw [parseTmove, frame2_fn5 _ _ _ _ _ (by decide)]; simp [grpD, frame2_d])
theorem tfill (x0 : TGrp) (x1 : SReg) (x2 : Ty) : Statement (.tfill x0 x1 x2) :=
  of_long (t := { Tail.blank with wd := x0.w, ti := Ty.num x2 }) rfl rfl (of_decide_eq_true rfl) (frame2_fn_lt _ _ _ _ _ (by decide)) rfl ⟨(Ty.num_lt _), (of_decide_eq_true rfl), (of_decide_eq_true rfl), (of_decide_eq_true rfl)⟩ (by show parseTmove (frame2 0x05 x0.base 0 x1 0 2) ({ Tail.blank with wd := x0.w, ti := Ty.num x2 }) = _; rw [parseTmove, frame2_fn5 _ _ _ _ _ (by decide)]; simp [grpD, withTi, frame2_d, frame2_b])
theorem tget (x0 : SReg) (x1 : TGrp) (x2 : SReg) (x3 : SReg) (x4 : Ty) : Statement (.tget x0 x1 x2 x3 x4) :=
  of_long (t := { Tail.blank with wa := x1.w, ti := Ty.num x4 }) rfl rfl (of_decide_eq_true rfl) (frame2_fn_lt _ _ _ _ _ (by decide)) rfl ⟨(Ty.num_lt _), (of_decide_eq_true rfl), (of_decide_eq_true rfl), (of_decide_eq_true rfl)⟩ (by show parseTmove (frame2 0x05 x0 x1.base x2 x3 3) ({ Tail.blank with wa := x1.w, ti := Ty.num x4 }) = _; rw [parseTmove, frame2_fn5 _ _ _ _ _ (by decide)]; simp [grpA, withTi, frame2_c, frame2_d, frame2_a, frame2_b])
theorem tins (x0 : TGrp) (x1 : TGrp) (x2 : SReg) (x3 : SReg) (x4 : Ty) : Statement (.tins x0 x1 x2 x3 x4) :=
  of_long (t := { Tail.blank with wd := x0.w, wa := x1.w, ti := Ty.num x4 }) rfl rfl (of_decide_eq_true rfl) (frame2_fn_lt _ _ _ _ _ (by decide)) rfl ⟨(Ty.num_lt _), (of_decide_eq_true rfl), (of_decide_eq_true rfl), (of_decide_eq_true rfl)⟩ (by show parseTmove (frame2 0x05 x0.base x1.base x2 x3 4) ({ Tail.blank with wd := x0.w, wa := x1.w, ti := Ty.num x4 }) = _; rw [parseTmove, frame2_fn5 _ _ _ _ _ (by decide)]; simp [grpD, grpA, withTi, frame2_c, frame2_d, frame2_a, frame2_b])
theorem tiota (x0 : TGrp) (x1 : Ty) (x2 : Bool) : Statement (.tiota x0 x1 x2) :=
  of_long (t := { Tail.blank with wd := x0.w, ti := Ty.num x1, md := bit x2 }) rfl rfl (of_decide_eq_true rfl) (frame2_fn_lt _ _ _ _ _ (by decide)) rfl ⟨(Ty.num_lt _), (of_decide_eq_true rfl), (of_decide_eq_true rfl), (Nat.lt_trans (bit_lt _) (by decide))⟩ (by show parseTmove (frame2 0x05 x0.base 0 0 0 5) ({ Tail.blank with wd := x0.w, ti := Ty.num x1, md := bit x2 }) = _; rw [parseTmove, frame2_fn5 _ _ _ _ _ (by decide)]; simp [grpD, withTi, frame2_d]; cases x2 <;> rfl)
theorem mma (x0 : MmaOp) : Statement (.mma x0) :=
  of_long (t := MmaOp.tail x0) rfl rfl (of_decide_eq_true rfl) (frame2_fn_lt _ _ _ _ _ (by decide)) rfl (MmaOp.tail_small x0) (mma_fields x0 (n := 0) (by decide))
theorem mmz (x0 : MmaOp) : Statement (.mmz x0) :=
  of_long (t := MmaOp.tail x0) rfl rfl (of_decide_eq_true rfl) (frame2_fn_lt _ _ _ _ _ (by decide)) rfl (MmaOp.tail_small x0) (mma_fields x0 (n := 1) (by decide))
theorem mmas (x0 : MmaOp) : Statement (.mmas x0) :=
  of_long (t := MmaOp.tail x0) rfl rfl (of_decide_eq_true rfl) (frame2_fn_lt _ _ _ _ _ (by decide)) rfl (MmaOp.tail_small x0) (mma_fields x0 (n := 2) (by decide))
theorem mmzs (x0 : MmaOp) : Statement (.mmzs x0) :=
  of_long (t := MmaOp.tail x0) rfl rfl (of_decide_eq_true rfl) (frame2_fn_lt _ _ _ _ _ (by decide)) rfl (MmaOp.tail_small x0) (mma_fields x0 (n := 3) (by decide))
theorem vadd (x0 : V3) : Statement (.vadd x0) :=
  of_long (t := V3.tail x0) rfl rfl (of_decide_eq_true rfl) (frame2_fn_lt _ _ _ _ _ (by decide)) rfl (V3.tail_small x0) (parseV3_tail 0x07 0 x0 .vadd)
theorem vsub (x0 : V3) : Statement (.vsub x0) :=
  of_long (t := V3.tail x0) rfl rfl (of_decide_eq_true rfl) (frame2_fn_lt _ _ _ _ _ (by decide)) rfl (V3.tail_small x0) (parseV3_tail 0x07 1 x0 .vsub)
theorem vmul (x0 : V3) : Statement (.vmul x0) :=
  of_long (t := V3.tail x0) rfl rfl (of_decide_eq_true rfl) (frame2_fn_lt _ _ _ _ _ (by decide)) rfl (V3.tail_small x0) (parseV3_tail 0x07 2 x0 .vmul)
theorem vfma (x0 : V4) : Statement (.vfma x0) :=
  of_long (t := V4.tail x0) rfl rfl (of_decide_eq_true rfl) (frame2_fn_lt _ _ _ _ _ (by decide)) rfl (V4.tail_small x0) (by show parseVarith _ _ = _; rw [parseVarith, frame2_fn5 _ _ _ _ _ (by decide)]; exact parseV4_tail x0 .vfma (by decide))
theorem vfms (x0 : V4) : Statement (.vfms x0) :=
  of_long (t := V4.tail x0) rfl rfl (of_decide_eq_true rfl) (frame2_fn_lt _ _ _ _ _ (by decide)) rfl (V4.tail_small x0) (by show parseVarith _ _ = _; rw [parseVarith, frame2_fn5 _ _ _ _ _ (by decide)]; exact parseV4_tail x0 .vfms (by decide))
theorem vmin (x0 : V3) : Statement (.vmin x0) :=
  of_long (t := V3.tail x0) rfl rfl (of_decide_eq_true rfl) (frame2_fn_lt _ _ _ _ _ (by decide)) rfl (V3.tail_small x0) (parseV3_tail 0x07 5 x0 .vmin)
theorem vmax (x0 : V3) : Statement (.vmax x0) :=
  of_long (t := V3.tail x0) rfl rfl (of_decide_eq_true rfl) (frame2_fn_lt _ _ _ _ _ (by decide)) rfl (V3.tail_small x0) (parseV3_tail 0x07 6 x0 .vmax)
theorem vdiv (x0 : V3) : Statement (.vdiv x0) :=
  of_long (t := V3.tail x0) rfl rfl (of_decide_eq_true rfl) (frame2_fn_lt _ _ _ _ _ (by decide)) rfl (V3.tail_small x0) (parseV3_tail 0x07 7 x0 .vdiv)
theorem vadds (x0 : VS) : Statement (.vadds x0) :=
  of_long (t := VS.tail x0) rfl rfl (of_decide_eq_true rfl) (frame2_fn_lt _ _ _ _ _ (by decide)) rfl (VS.tail_small x0) (parseVS_tail 0x07 8 x0 .vadds)
theorem vmuls (x0 : VS) : Statement (.vmuls x0) :=
  of_long (t := VS.tail x0) rfl rfl (of_decide_eq_true rfl) (frame2_fn_lt _ _ _ _ _ (by decide)) rfl (VS.tail_small x0) (parseVS_tail 0x07 9 x0 .vmuls)
theorem vfmas (x0 : VS3) : Statement (.vfmas x0) :=
  of_long (t := VS3.tail x0) rfl rfl (of_decide_eq_true rfl) (frame2_fn_lt _ _ _ _ _ (by decide)) rfl (VS3.tail_small x0) (by show parseVarith _ _ = _; rw [parseVarith, frame2_fn5 _ _ _ _ _ (by decide)]; exact parseVS3_tail x0 .vfmas (by decide))
theorem vcmp (x0 : TGrp) (x1 : TGrp) (x2 : TGrp) (x3 : Ty) (x4 : Cond) : Statement (.vcmp x0 x1 x2 x3 x4) :=
  of_long (t := { Tail.blank with wd := x0.w, wa := x1.w, wb := x2.w, ti := Ty.num x3, out := 8, md := Cond.num x4 }) rfl rfl (of_decide_eq_true rfl) (frame2_fn_lt _ _ _ _ _ (by decide)) rfl ⟨(Ty.num_lt _), (of_decide_eq_true rfl), (of_decide_eq_true rfl), (Cond.num_lt _)⟩ (by show parseVarith (frame2 0x07 x0.base x1.base x2.base 0 11) ({ Tail.blank with wd := x0.w, wa := x1.w, wb := x2.w, ti := Ty.num x3, out := 8, md := Cond.num x4 }) = _; rw [parseVarith, frame2_fn5 _ _ _ _ _ (by decide)]; simp [grpD, grpA, grpB, withTi, frame2_d, frame2_a, frame2_b])
theorem vsel (x0 : TGrp) (x1 : TGrp) (x2 : TGrp) (x3 : TGrp) (x4 : Ty) : Statement (.vsel x0 x1 x2 x3 x4) :=
  of_long (t := { Tail.blank with wd := x0.w, wa := x1.w, wb := x2.w, wc := x3.w, ti := Ty.num x4 }) rfl rfl (of_decide_eq_true rfl) (frame2_fn_lt _ _ _ _ _ (by decide)) rfl ⟨(Ty.num_lt _), (of_decide_eq_true rfl), (of_decide_eq_true rfl), (of_decide_eq_true rfl)⟩ (by show parseVarith (frame2 0x07 x0.base x1.base x2.base x3.base 12) ({ Tail.blank with wd := x0.w, wa := x1.w, wb := x2.w, wc := x3.w, ti := Ty.num x4 }) = _; rw [parseVarith, frame2_fn5 _ _ _ _ _ (by decide)]; simp [grpD, grpA, grpB, grpC, withTi, frame2_c, frame2_d, frame2_a, frame2_b])
theorem vclmp (x0 : V4) : Statement (.vclmp x0) :=
  of_long (t := V4.tail x0) rfl rfl (of_decide_eq_true rfl) (frame2_fn_lt _ _ _ _ _ (by decide)) rfl (V4.tail_small x0) (by show parseVarith _ _ = _; rw [parseVarith, frame2_fn5 _ _ _ _ _ (by decide)]; exact parseV4_tail x0 .vclmp (by decide))
theorem vabs (x0 : V2) : Statement (.vabs x0) :=
  of_long (t := V2.tail x0 0) rfl rfl (of_decide_eq_true rfl) (frame2_fn_lt _ _ _ _ _ (by decide)) rfl (V2.tail_small x0 (by decide)) (parseV2_tail 0x08 0 x0 .vabs 0)
theorem vneg (x0 : V2) : Statement (.vneg x0) :=
  of_long (t := V2.tail x0 0) rfl rfl (of_decide_eq_true rfl) (frame2_fn_lt _ _ _ _ _ (by decide)) rfl (V2.tail_small x0 (by decide)) (parseV2_tail 0x08 1 x0 .vneg 0)
theorem vexp2 (x0 : V2) : Statement (.vexp2 x0) :=
  of_long (t := V2.tail x0 0) rfl rfl (of_decide_eq_true rfl) (frame2_fn_lt _ _ _ _ _ (by decide)) rfl (V2.tail_small x0 (by decide)) (parseV2_tail 0x08 2 x0 .vexp2 0)
theorem vlog2 (x0 : V2) : Statement (.vlog2 x0) :=
  of_long (t := V2.tail x0 0) rfl rfl (of_decide_eq_true rfl) (frame2_fn_lt _ _ _ _ _ (by decide)) rfl (V2.tail_small x0 (by decide)) (parseV2_tail 0x08 3 x0 .vlog2 0)
theorem vrcp (x0 : V2) : Statement (.vrcp x0) :=
  of_long (t := V2.tail x0 0) rfl rfl (of_decide_eq_true rfl) (frame2_fn_lt _ _ _ _ _ (by decide)) rfl (V2.tail_small x0 (by decide)) (parseV2_tail 0x08 4 x0 .vrcp 0)
theorem vrsq (x0 : V2) : Statement (.vrsq x0) :=
  of_long (t := V2.tail x0 0) rfl rfl (of_decide_eq_true rfl) (frame2_fn_lt _ _ _ _ _ (by decide)) rfl (V2.tail_small x0 (by decide)) (parseV2_tail 0x08 5 x0 .vrsq 0)
theorem vsqrt (x0 : V2) : Statement (.vsqrt x0) :=
  of_long (t := V2.tail x0 0) rfl rfl (of_decide_eq_true rfl) (frame2_fn_lt _ _ _ _ _ (by decide)) rfl (V2.tail_small x0 (by decide)) (parseV2_tail 0x08 6 x0 .vsqrt 0)
theorem vtanh (x0 : V2) : Statement (.vtanh x0) :=
  of_long (t := V2.tail x0 0) rfl rfl (of_decide_eq_true rfl) (frame2_fn_lt _ _ _ _ _ (by decide)) rfl (V2.tail_small x0 (by decide)) (parseV2_tail 0x08 7 x0 .vtanh 0)
theorem vsigm (x0 : V2) : Statement (.vsigm x0) :=
  of_long (t := V2.tail x0 0) rfl rfl (of_decide_eq_true rfl) (frame2_fn_lt _ _ _ _ _ (by decide)) rfl (V2.tail_small x0 (by decide)) (parseV2_tail 0x08 8 x0 .vsigm 0)
theorem verf (x0 : V2) : Statement (.verf x0) :=
  of_long (t := V2.tail x0 0) rfl rfl (of_decide_eq_true rfl) (frame2_fn_lt _ _ _ _ _ (by decide)) rfl (V2.tail_small x0 (by decide)) (parseV2_tail 0x08 9 x0 .verf 0)
theorem vcvt (x0 : V2) : Statement (.vcvt x0) :=
  of_long (t := V2.tail x0 0) rfl rfl (of_decide_eq_true rfl) (frame2_fn_lt _ _ _ _ _ (by decide)) rfl (V2.tail_small x0 (by decide)) (parseV2_tail 0x09 0 x0 .vcvt 0)
theorem vqnt (x0 : V2) (x1 : QMode) : Statement (.vqnt x0 x1) :=
  of_long (t := V2.tail x0 (QMode.md x1)) rfl rfl (of_decide_eq_true rfl) (frame2_fn_lt _ _ _ _ _ (by decide)) rfl (V2.tail_small x0 (QMode.md_lt x1)) (vqnt_tail x0 x1 _)
theorem vdqn (x0 : V2) : Statement (.vdqn x0) :=
  of_long (t := V2.tail x0 0) rfl rfl (of_decide_eq_true rfl) (frame2_fn_lt _ _ _ _ _ (by decide)) rfl (V2.tail_small x0 (by decide)) (parseV2_tail 0x09 2 x0 .vdqn 0)
theorem vrmax (x0 : V2) : Statement (.vrmax x0) :=
  of_long (t := V2.tail x0 0) rfl rfl (of_decide_eq_true rfl) (frame2_fn_lt _ _ _ _ _ (by decide)) rfl (V2.tail_small x0 (by decide)) (parseV2_tail 0x0A 0 x0 .vrmax 0)
theorem vrmin (x0 : V2) : Statement (.vrmin x0) :=
  of_long (t := V2.tail x0 0) rfl rfl (of_decide_eq_true rfl) (frame2_fn_lt _ _ _ _ _ (by decide)) rfl (V2.tail_small x0 (by decide)) (parseV2_tail 0x0A 1 x0 .vrmin 0)
theorem vrsum (x0 : V2) : Statement (.vrsum x0) :=
  of_long (t := V2.tail x0 0) rfl rfl (of_decide_eq_true rfl) (frame2_fn_lt _ _ _ _ _ (by decide)) rfl (V2.tail_small x0 (by decide)) (parseV2_tail 0x0A 2 x0 .vrsum 0)
theorem vramax (x0 : V2) : Statement (.vramax x0) :=
  of_long (t := V2.tail x0 0) rfl rfl (of_decide_eq_true rfl) (frame2_fn_lt _ _ _ _ _ (by decide)) rfl (V2.tail_small x0 (by decide)) (parseV2_tail 0x0A 3 x0 .vramax 0)
theorem vrssq (x0 : V2) : Statement (.vrssq x0) :=
  of_long (t := V2.tail x0 0) rfl rfl (of_decide_eq_true rfl) (frame2_fn_lt _ _ _ _ _ (by decide)) rfl (V2.tail_small x0 (by decide)) (parseV2_tail 0x0A 4 x0 .vrssq 0)
theorem vcmax (x0 : V2) : Statement (.vcmax x0) :=
  of_long (t := V2.tail x0 0) rfl rfl (of_decide_eq_true rfl) (frame2_fn_lt _ _ _ _ _ (by decide)) rfl (V2.tail_small x0 (by decide)) (parseV2_tail 0x0A 5 x0 .vcmax 0)
theorem vcsum (x0 : V2) : Statement (.vcsum x0) :=
  of_long (t := V2.tail x0 0) rfl rfl (of_decide_eq_true rfl) (frame2_fn_lt _ _ _ _ _ (by decide)) rfl (V2.tail_small x0 (by decide)) (parseV2_tail 0x0A 6 x0 .vcsum 0)
theorem vrmrg (x0 : TReg) (x1 : TReg) (x2 : TReg) : Statement (.vrmrg x0 x1 x2) :=
  of_long (t := Tail.blank) rfl rfl (of_decide_eq_true rfl) (frame2_fn_lt _ _ _ _ _ (by decide)) rfl Tail.blank_small (by show parseVred (frame2 0x0A x0 x1 x2 0 7) Tail.blank = _; rw [parseVred, frame2_fn5 _ _ _ _ _ (by decide)]; simp [frame2_d, frame2_a, frame2_b])
theorem vbrow (x0 : V2) : Statement (.vbrow x0) :=
  of_long (t := V2.tail x0 0) rfl rfl (of_decide_eq_true rfl) (frame2_fn_lt _ _ _ _ _ (by decide)) rfl (V2.tail_small x0 (by decide)) (parseV2_tail 0x0A 8 x0 .vbrow 0)
theorem vbcol (x0 : V2) : Statement (.vbcol x0) :=
  of_long (t := V2.tail x0 0) rfl rfl (of_decide_eq_true rfl) (frame2_fn_lt _ _ _ _ _ (by decide)) rfl (V2.tail_small x0 (by decide)) (parseV2_tail 0x0A 9 x0 .vbcol 0)
theorem vtrn (x0 : TGrp) (x1 : TGrp) (x2 : Ty) : Statement (.vtrn x0 x1 x2) :=
  of_long (t := { Tail.blank with wd := x0.w, wa := x1.w, ti := Ty.num x2 }) rfl rfl (of_decide_eq_true rfl) (frame2_fn_lt _ _ _ _ _ (by decide)) rfl ⟨(Ty.num_lt _), (of_decide_eq_true rfl), (of_decide_eq_true rfl), (of_decide_eq_true rfl)⟩ (by show parseVperm (frame2 0x0B x0.base x1.base 0 0 0) ({ Tail.blank with wd := x0.w, wa := x1.w, ti := Ty.num x2 }) = _; rw [parseVperm, frame2_fn5 _ _ _ _ _ (by decide)]; simp [grpD, grpA, withTi, frame2_d, frame2_a])
theorem vrotr (x0 : TGrp) (x1 : TGrp) (x2 : Count) : Statement (.vrotr x0 x1 x2) :=
  of_long (t := { Tail.blank with wd := x0.w, wa := x1.w, md := Count.md x2 }) rfl rfl (of_decide_eq_true rfl) (frame2_fn_lt _ _ _ _ _ (by decide)) rfl ⟨(of_decide_eq_true rfl), (of_decide_eq_true rfl), (of_decide_eq_true rfl), (Count.md_lt _)⟩ (by show parseVperm (frame2 0x0B x0.base x1.base 0 (Count.field x2) 1) ({ Tail.blank with wd := x0.w, wa := x1.w, md := Count.md x2 }) = _; rw [parseVperm, frame2_fn5 _ _ _ _ _ (by decide)]; simp [grpD, grpA, frame2_c, frame2_d, frame2_a])
theorem vrotc (x0 : TGrp) (x1 : TGrp) (x2 : Ty) (x3 : Count) : Statement (.vrotc x0 x1 x2 x3) :=
  of_long (t := { Tail.blank with wd := x0.w, wa := x1.w, ti := Ty.num x2, md := Count.md x3 }) rfl rfl (of_decide_eq_true rfl) (frame2_fn_lt _ _ _ _ _ (by decide)) rfl ⟨(Ty.num_lt _), (of_decide_eq_true rfl), (of_decide_eq_true rfl), (Count.md_lt _)⟩ (by show parseVperm (frame2 0x0B x0.base x1.base 0 (Count.field x3) 2) ({ Tail.blank with wd := x0.w, wa := x1.w, ti := Ty.num x2, md := Count.md x3 }) = _; rw [parseVperm, frame2_fn5 _ _ _ _ _ (by decide)]; simp [grpD, grpA, withTi, frame2_c, frame2_d, frame2_a])
theorem vpermr (x0 : TGrp) (x1 : TGrp) (x2 : TReg) : Statement (.vpermr x0 x1 x2) :=
  of_long (t := { Tail.blank with wd := x0.w, wa := x1.w }) rfl rfl (of_decide_eq_true rfl) (frame2_fn_lt _ _ _ _ _ (by decide)) rfl ⟨(of_decide_eq_true rfl), (of_decide_eq_true rfl), (of_decide_eq_true rfl), (of_decide_eq_true rfl)⟩ (by show parseVperm (frame2 0x0B x0.base x1.base 0 x2 3) ({ Tail.blank with wd := x0.w, wa := x1.w }) = _; rw [parseVperm, frame2_fn5 _ _ _ _ _ (by decide)]; simp [grpD, grpA, frame2_c, frame2_d, frame2_a])
theorem vbrot (x0 : TGrp) (x1 : TGrp) (x2 : Count) : Statement (.vbrot x0 x1 x2) :=
  of_long (t := { Tail.blank with wd := x0.w, wa := x1.w, md := Count.md x2 }) rfl rfl (of_decide_eq_true rfl) (frame2_fn_lt _ _ _ _ _ (by decide)) rfl ⟨(of_decide_eq_true rfl), (of_decide_eq_true rfl), (of_decide_eq_true rfl), (Count.md_lt _)⟩ (by show parseVperm (frame2 0x0B x0.base x1.base 0 (Count.field x2) 4) ({ Tail.blank with wd := x0.w, wa := x1.w, md := Count.md x2 }) = _; rw [parseVperm, frame2_fn5 _ _ _ _ _ (by decide)]; simp [grpD, grpA, frame2_c, frame2_d, frame2_a])
theorem vand (x0 : TGrp) (x1 : TGrp) (x2 : TGrp) : Statement (.vand x0 x1 x2) :=
  of_long (t := { Tail.blank with wd := x0.w, wa := x1.w, wb := x2.w }) rfl rfl (of_decide_eq_true rfl) (frame2_fn_lt _ _ _ _ _ (by decide)) rfl ⟨(of_decide_eq_true rfl), (of_decide_eq_true rfl), (of_decide_eq_true rfl), (of_decide_eq_true rfl)⟩ (by show parseVlogic (frame2 0x0C x0.base x1.base x2.base 0 0) ({ Tail.blank with wd := x0.w, wa := x1.w, wb := x2.w }) = _; rw [parseVlogic, frame2_fn5 _ _ _ _ _ (by decide)]; simp [grpD, grpA, grpB, frame2_d, frame2_a, frame2_b])
theorem vor (x0 : TGrp) (x1 : TGrp) (x2 : TGrp) : Statement (.vor x0 x1 x2) :=
  of_long (t := { Tail.blank with wd := x0.w, wa := x1.w, wb := x2.w }) rfl rfl (of_decide_eq_true rfl) (frame2_fn_lt _ _ _ _ _ (by decide)) rfl ⟨(of_decide_eq_true rfl), (of_decide_eq_true rfl), (of_decide_eq_true rfl), (of_decide_eq_true rfl)⟩ (by show parseVlogic (frame2 0x0C x0.base x1.base x2.base 0 1) ({ Tail.blank with wd := x0.w, wa := x1.w, wb := x2.w }) = _; rw [parseVlogic, frame2_fn5 _ _ _ _ _ (by decide)]; simp [grpD, grpA, grpB, frame2_d, frame2_a, frame2_b])
theorem vxor (x0 : TGrp) (x1 : TGrp) (x2 : TGrp) : Statement (.vxor x0 x1 x2) :=
  of_long (t := { Tail.blank with wd := x0.w, wa := x1.w, wb := x2.w }) rfl rfl (of_decide_eq_true rfl) (frame2_fn_lt _ _ _ _ _ (by decide)) rfl ⟨(of_decide_eq_true rfl), (of_decide_eq_true rfl), (of_decide_eq_true rfl), (of_decide_eq_true rfl)⟩ (by show parseVlogic (frame2 0x0C x0.base x1.base x2.base 0 2) ({ Tail.blank with wd := x0.w, wa := x1.w, wb := x2.w }) = _; rw [parseVlogic, frame2_fn5 _ _ _ _ _ (by decide)]; simp [grpD, grpA, grpB, frame2_d, frame2_a, frame2_b])
theorem vnot (x0 : TGrp) (x1 : TGrp) : Statement (.vnot x0 x1) :=
  of_long (t := { Tail.blank with wd := x0.w, wa := x1.w }) rfl rfl (of_decide_eq_true rfl) (frame2_fn_lt _ _ _ _ _ (by decide)) rfl ⟨(of_decide_eq_true rfl), (of_decide_eq_true rfl), (of_decide_eq_true rfl), (of_decide_eq_true rfl)⟩ (by show parseVlogic (frame2 0x0C x0.base x1.base 0 0 3) ({ Tail.blank with wd := x0.w, wa := x1.w }) = _; rw [parseVlogic, frame2_fn5 _ _ _ _ _ (by decide)]; simp [grpD, grpA, frame2_d, frame2_a])
theorem vbmap (x0 : TGrp) (x1 : TGrp) (x2 : TGrp) (x3 : TGrp) (x4 : BitVec 8) : Statement (.vbmap x0 x1 x2 x3 x4) :=
  of_long (t := { Tail.blank with wd := x0.w, wa := x1.w, wb := x2.w, wc := x3.w, md := x4.toNat }) rfl rfl (of_decide_eq_true rfl) (frame2_fn_lt _ _ _ _ _ (by decide)) rfl ⟨(of_decide_eq_true rfl), (of_decide_eq_true rfl), (of_decide_eq_true rfl), (Nat.lt_trans (BitVec.isLt _) (by decide))⟩ (by show parseVlogic (frame2 0x0C x0.base x1.base x2.base x3.base 4) ({ Tail.blank with wd := x0.w, wa := x1.w, wb := x2.w, wc := x3.w, md := x4.toNat }) = _; rw [parseVlogic, frame2_fn5 _ _ _ _ _ (by decide)]; simp [grpD, grpA, grpB, grpC, frame2_c, frame2_d, frame2_a, frame2_b])
theorem vshl (x0 : TGrp) (x1 : TGrp) (x2 : Ty) (x3 : Count) : Statement (.vshl x0 x1 x2 x3) :=
  of_long (t := { Tail.blank with wd := x0.w, wa := x1.w, ti := Ty.num x2, md := Count.md x3 }) rfl rfl (of_decide_eq_true rfl) (frame2_fn_lt _ _ _ _ _ (by decide)) rfl ⟨(Ty.num_lt _), (of_decide_eq_true rfl), (of_decide_eq_true rfl), (Count.md_lt _)⟩ (by show parseVlogic (frame2 0x0C x0.base x1.base 0 (Count.field x3) 5) ({ Tail.blank with wd := x0.w, wa := x1.w, ti := Ty.num x2, md := Count.md x3 }) = _; rw [parseVlogic, frame2_fn5 _ _ _ _ _ (by decide)]; simp [grpD, grpA, withTi, frame2_c, frame2_d, frame2_a])
theorem vshr (x0 : TGrp) (x1 : TGrp) (x2 : Ty) (x3 : Count) : Statement (.vshr x0 x1 x2 x3) :=
  of_long (t := { Tail.blank with wd := x0.w, wa := x1.w, ti := Ty.num x2, md := Count.md x3 }) rfl rfl (of_decide_eq_true rfl) (frame2_fn_lt _ _ _ _ _ (by decide)) rfl ⟨(Ty.num_lt _), (of_decide_eq_true rfl), (of_decide_eq_true rfl), (Count.md_lt _)⟩ (by show parseVlogic (frame2 0x0C x0.base x1.base 0 (Count.field x3) 6) ({ Tail.blank with wd := x0.w, wa := x1.w, ti := Ty.num x2, md := Count.md x3 }) = _; rw [parseVlogic, frame2_fn5 _ _ _ _ _ (by decide)]; simp [grpD, grpA, withTi, frame2_c, frame2_d, frame2_a])
theorem vsra (x0 : TGrp) (x1 : TGrp) (x2 : Ty) (x3 : Count) : Statement (.vsra x0 x1 x2 x3) :=
  of_long (t := { Tail.blank with wd := x0.w, wa := x1.w, ti := Ty.num x2, md := Count.md x3 }) rfl rfl (of_decide_eq_true rfl) (frame2_fn_lt _ _ _ _ _ (by decide)) rfl ⟨(Ty.num_lt _), (of_decide_eq_true rfl), (of_decide_eq_true rfl), (Count.md_lt _)⟩ (by show parseVlogic (frame2 0x0C x0.base x1.base 0 (Count.field x3) 7) ({ Tail.blank with wd := x0.w, wa := x1.w, ti := Ty.num x2, md := Count.md x3 }) = _; rw [parseVlogic, frame2_fn5 _ _ _ _ _ (by decide)]; simp [grpD, grpA, withTi, frame2_c, frame2_d, frame2_a])
theorem vfshl (x0 : TGrp) (x1 : TGrp) (x2 : TGrp) (x3 : Count) : Statement (.vfshl x0 x1 x2 x3) :=
  of_long (t := { Tail.blank with wd := x0.w, wa := x1.w, wb := x2.w, md := Count.md x3 }) rfl rfl (of_decide_eq_true rfl) (frame2_fn_lt _ _ _ _ _ (by decide)) rfl ⟨(of_decide_eq_true rfl), (of_decide_eq_true rfl), (of_decide_eq_true rfl), (Count.md_lt _)⟩ (by show parseVlogic (frame2 0x0C x0.base x1.base x2.base (Count.field x3) 8) ({ Tail.blank with wd := x0.w, wa := x1.w, wb := x2.w, md := Count.md x3 }) = _; rw [parseVlogic, frame2_fn5 _ _ _ _ _ (by decide)]; simp [grpD, grpA, grpB, frame2_c, frame2_d, frame2_a, frame2_b])
theorem vfshr (x0 : TGrp) (x1 : TGrp) (x2 : TGrp) (x3 : Count) : Statement (.vfshr x0 x1 x2 x3) :=
  of_long (t := { Tail.blank with wd := x0.w, wa := x1.w, wb := x2.w, md := Count.md x3 }) rfl rfl (of_decide_eq_true rfl) (frame2_fn_lt _ _ _ _ _ (by decide)) rfl ⟨(of_decide_eq_true rfl), (of_decide_eq_true rfl), (of_decide_eq_true rfl), (Count.md_lt _)⟩ (by show parseVlogic (frame2 0x0C x0.base x1.base x2.base (Count.field x3) 9) ({ Tail.blank with wd := x0.w, wa := x1.w, wb := x2.w, md := Count.md x3 }) = _; rw [parseVlogic, frame2_fn5 _ _ _ _ _ (by decide)]; simp [grpD, grpA, grpB, frame2_c, frame2_d, frame2_a, frame2_b])
theorem vpopc (x0 : TGrp) (x1 : TGrp) (x2 : Ty) (x3 : Ty) : Statement (.vpopc x0 x1 x2 x3) :=
  of_long (t := { Tail.blank with wd := x0.w, wa := x1.w, ti := Ty.num x2, out := Ty.num x3 }) rfl rfl (of_decide_eq_true rfl) (frame2_fn_lt _ _ _ _ _ (by decide)) rfl ⟨(Ty.num_lt _), (Ty.num_lt _), (of_decide_eq_true rfl), (of_decide_eq_true rfl)⟩ (by show parseVlogic (frame2 0x0C x0.base x1.base 0 0 10) ({ Tail.blank with wd := x0.w, wa := x1.w, ti := Ty.num x2, out := Ty.num x3 }) = _; rw [parseVlogic, frame2_fn5 _ _ _ _ _ (by decide)]; simp [grpD, grpA, withTypes, frame2_d, frame2_a])
theorem tileDispatch (x0 : Nat) (x1 : Pid) : Statement (.tileDispatch x0 x1) := of_event rfl
theorem engineCompletion (x0 : Nat) (x1 : Pid) : Statement (.engineCompletion x0 x1) := of_event rfl
theorem storePerform (x0 : Pid) (x1 : Nat) : Statement (.storePerform x0 x1) := of_event rfl
theorem atomicAtHome (x0 : Pid) (x1 : Nat) : Statement (.atomicAtHome x0 x1) := of_event rfl
theorem atomicReply (x0 : Pid) : Statement (.atomicReply x0) := of_event rfl
theorem atomicStop (x0 : Pid) : Statement (.atomicStop x0) := of_event rfl
theorem walkComplete (x0 : Nat) : Statement (.walkComplete x0) := of_event rfl
theorem rendezvous (x0 : Nat) : Statement (.rendezvous x0) := of_event rfl
theorem claim (x0 : Nat) : Statement (.claim x0) := of_event rfl
theorem timerExpiry (x0 : Nat) (x1 : Nat) : Statement (.timerExpiry x0 x1) := of_event rfl
theorem timerArm (x0 : Word) : Statement (.timerArm x0) := of_event rfl
theorem timerDisarm (x0 : Word) : Statement (.timerDisarm x0) := of_event rfl
theorem detectionLaunch (x0 : Pid) : Statement (.detectionLaunch x0) := of_event rfl
theorem probe (x0 : Pid) (x1 : Pid) : Statement (.probe x0 x1) := of_event rfl
theorem probeAnswer (x0 : Pid) (x1 : Pid) : Statement (.probeAnswer x0 x1) := of_event rfl
theorem starvationPromotion (x0 : Nat) : Statement (.starvationPromotion x0) := of_event rfl
theorem slotFill (x0 : Nat) (x1 : Nat) : Statement (.slotFill x0 x1) := of_event rfl
theorem stealRequest (x0 : Nat) : Statement (.stealRequest x0) := of_event rfl
theorem stealAnswer (x0 : Nat) : Statement (.stealAnswer x0) := of_event rfl
theorem stealRetry (x0 : Nat) : Statement (.stealRetry x0) := of_event rfl
theorem preemption (x0 : Nat) : Statement (.preemption x0) := of_event rfl
theorem blockedPark (x0 : Nat) (x1 : Nat) : Statement (.blockedPark x0 x1) := of_event rfl
theorem imageComplete (x0 : Pid) : Statement (.imageComplete x0) := of_event rfl
theorem exitCompletion (x0 : Pid) : Statement (.exitCompletion x0) := of_event rfl
theorem moveComplete (x0 : Pid) : Statement (.moveComplete x0) := of_event rfl
theorem moveAbandon (x0 : Pid) (x1 : Word) : Statement (.moveAbandon x0 x1) := of_event rfl
theorem affinityMove (x0 : Pid) : Statement (.affinityMove x0) := of_event rfl
theorem evaluation (x0 : List Reading) (x1 : Nat) : Statement (.evaluation x0 x1) := of_event rfl
theorem pauseEnd (x0 : Nat) : Statement (.pauseEnd x0) := of_event rfl
theorem pointWithdrawal (x0 : Nat) (x1 : Nat) : Statement (.pointWithdrawal x0 x1) := of_event rfl
theorem refillStep : Statement (.refillStep) := of_event rfl
theorem bucketEmpty (x0 : Nat) : Statement (.bucketEmpty x0) := of_event rfl
theorem pageInComplete (x0 : Pid) (x1 : Nat) : Statement (.pageInComplete x0 x1) := of_event rfl
theorem eviction (x0 : Nat) : Statement (.eviction x0) := of_event rfl
theorem laneSleep (x0 : Nat) : Statement (.laneSleep x0) := of_event rfl
theorem laneWake (x0 : Nat) : Statement (.laneWake x0) := of_event rfl
theorem moduleFailure (x0 : Nat) : Statement (.moduleFailure x0) := of_event rfl
theorem offlineAnswer (x0 : Pid) : Statement (.offlineAnswer x0) := of_event rfl
theorem dieDownComplete (x0 : Nat) : Statement (.dieDownComplete x0) := of_event rfl
theorem dieUpComplete (x0 : Nat) : Statement (.dieUpComplete x0) := of_event rfl
theorem linkPortFailure (x0 : Nat) : Statement (.linkPortFailure x0) := of_event rfl
theorem powerOn : Statement (.powerOn) := of_event rfl
theorem bootwinTrigger : Statement (.bootwinTrigger) := of_event rfl
theorem bundleVerified : Statement (.bundleVerified) := of_event rfl
theorem idleEntry : Statement (.idleEntry) := of_event rfl
theorem idleExit : Statement (.idleExit) := of_event rfl
theorem suspend : Statement (.suspend) := of_event rfl
theorem d0Resume : Statement (.d0Resume) := of_event rfl
theorem cmdstatRead : Statement (.cmdstatRead) := of_event rfl
theorem create (x0 : Cmd) : Statement (.create x0) := of_event rfl
theorem grant (x0 : Cmd) : Statement (.grant x0) := of_event rfl
theorem destroy (x0 : Cmd) : Statement (.destroy x0) := of_event rfl
theorem copy (x0 : Cmd) : Statement (.copy x0) := of_event rfl
theorem spawnCommand (x0 : Cmd) : Statement (.spawnCommand x0) := of_event rfl
theorem hsend (x0 : Cmd) : Statement (.hsend x0) := of_event rfl
theorem hrecv (x0 : Cmd) : Statement (.hrecv x0) := of_event rfl
theorem hclose (x0 : Cmd) : Statement (.hclose x0) := of_event rfl
theorem exportCmd (x0 : Cmd) : Statement (.exportCmd x0) := of_event rfl
theorem importCmd (x0 : Cmd) : Statement (.importCmd x0) := of_event rfl
theorem release (x0 : Cmd) : Statement (.release x0) := of_event rfl
theorem diedown (x0 : Cmd) : Statement (.diedown x0) := of_event rfl
theorem dieup (x0 : Cmd) : Statement (.dieup x0) := of_event rfl
theorem event (x0 : Cmd) : Statement (.event x0) := of_event rfl
theorem faultend (x0 : Cmd) : Statement (.faultend x0) := of_event rfl
theorem faultEndPlacement (x0 : Nat) : Statement (.faultEndPlacement x0) := of_event rfl
theorem setMasks (x0 : Nat) (x1 : Pid) (x2 : BitVec 2) (x3 : BitVec 4) : Statement (.setMasks x0 x1 x2 x3) := of_event rfl
theorem debugHalt (x0 : Nat) (x1 : Pid) : Statement (.debugHalt x0 x1) := of_event rfl
theorem debugRelease (x0 : Nat) (x1 : Pid) : Statement (.debugRelease x0 x1) := of_event rfl
theorem debugStep (x0 : Nat) (x1 : Pid) : Statement (.debugStep x0 x1) := of_event rfl
theorem ptrootWrite (x0 : Word) : Statement (.ptrootWrite x0) := of_event rfl
theorem fcsrWrite (x0 : Word) : Statement (.fcsrWrite x0) := of_event rfl
theorem thrreasonWrite (x0 : Word) : Statement (.thrreasonWrite x0) := of_event rfl
theorem bucketLevelWrite (x0 : Fin 3) (x1 : Word) : Statement (.bucketLevelWrite x0 x1) := of_event rfl
theorem dqovfWrite (x0 : Word) : Statement (.dqovfWrite x0) := of_event rfl
theorem spareaWrite (x0 : Word) : Statement (.spareaWrite x0) := of_event rfl
theorem chareaWrite (x0 : Word) : Statement (.chareaWrite x0) := of_event rfl
theorem imgareaWrite (x0 : Word) : Statement (.imgareaWrite x0) := of_event rfl
theorem linkcfgWrite (x0 : Word) : Statement (.linkcfgWrite x0) := of_event rfl
theorem registerWrite (x0 : RegTarget) (x1 : Word) : Statement (.registerWrite x0 x1) := of_event rfl
theorem illegalEncoding (x0 : Word32) (x1 : Word32) : Statement (.illegalEncoding x0 x1) := of_event rfl
theorem instructionFetchFault (x0 : Cause) (x1 : Word) (x2 : Word32) : Statement (.instructionFetchFault x0 x1 x2) := of_event rfl
theorem linkUp (x0 : Fin 4) : Statement (.linkUp x0) := of_event rfl
theorem peerMemoryAccess (x0 : PeerAccess) : Statement (.peerMemoryAccess x0) := of_event rfl
theorem peerChannelMessage (x0 : PeerMsg) : Statement (.peerChannelMessage x0) := of_event rfl
theorem powerRemoved : Statement (.powerRemoved) := of_event rfl
theorem doorbellWhileBusy : Statement (.doorbellWhileBusy) := of_event rfl
theorem busMasteringChange (x0 : Bool) : Statement (.busMasteringChange x0) := of_event rfl

end Sys2Proof.Laws.Coded
end

