-- ==== Sys2Proof/Laws/Run.lean ====
section
/-! SUPPORT. What each event of the step's own is: exec of the event's instruction; what a failing part changes. -/

namespace Sys2Proof.Machine

theorem run_tileDispatch (core : Nat) (pid : Pid) (s : State) : (Happening.tileDispatch core pid).run s = exec (.tileDispatch core pid) s := rfl
theorem run_engineCompletion (core : Nat) (pid : Pid) (s : State) : (Happening.engineCompletion core pid).run s = exec (.engineCompletion core pid) s := rfl
theorem run_storePerform (pid : Pid) (n : Nat) (s : State) : (Happening.storePerform pid n).run s = exec (.storePerform pid n) s := rfl
theorem run_atomicAtHome (pid : Pid) (row : Nat) (s : State) : (Happening.atomicAtHome pid row).run s = exec (.atomicAtHome pid row) s := rfl
theorem run_atomicReply (pid : Pid) (s : State) : (Happening.atomicReply pid).run s = exec (.atomicReply pid) s := rfl
theorem run_atomicStop (pid : Pid) (s : State) : (Happening.atomicStop pid).run s = exec (.atomicStop pid) s := rfl
theorem run_walkComplete (quad : Nat) (s : State) : (Happening.walkComplete quad).run s = exec (.walkComplete quad) s := rfl
theorem run_rendezvous (cell : Nat) (s : State) : (Happening.rendezvous cell).run s = exec (.rendezvous cell) s := rfl
theorem run_claim (cell : Nat) (s : State) : (Happening.claim cell).run s = exec (.claim cell) s := rfl
theorem run_timerExpiry (part : Nat) (timer : Nat) (s : State) : (Happening.timerExpiry part timer).run s = exec (.timerExpiry part timer) s := rfl
theorem run_detectionLaunch (pid : Pid) (s : State) : (Happening.detectionLaunch pid).run s = exec (.detectionLaunch pid) s := rfl
theorem run_probe (init : Pid) (pid : Pid) (s : State) : (Happening.probe init pid).run s = exec (.probe init pid) s := rfl
theorem run_probeAnswer (init : Pid) (pid : Pid) (s : State) : (Happening.probeAnswer init pid).run s = exec (.probeAnswer init pid) s := rfl
theorem run_starvationPromotion (core : Nat) (s : State) : (Happening.starvationPromotion core).run s = exec (.starvationPromotion core) s := rfl
theorem run_slotFill (core : Nat) (slot : Nat) (s : State) : (Happening.slotFill core slot).run s = exec (.slotFill core slot) s := rfl
theorem run_stealRequest (victim : Nat) (s : State) : (Happening.stealRequest victim).run s = exec (.stealRequest victim) s := rfl
theorem run_stealAnswer (core : Nat) (s : State) : (Happening.stealAnswer core).run s = exec (.stealAnswer core) s := rfl
theorem run_stealRetry (core : Nat) (s : State) : (Happening.stealRetry core).run s = exec (.stealRetry core) s := rfl
theorem run_preemption (core : Nat) (s : State) : (Happening.preemption core).run s = exec (.preemption core) s := rfl
theorem run_blockedPark (core : Nat) (slot : Nat) (s : State) : (Happening.blockedPark core slot).run s = exec (.blockedPark core slot) s := rfl
theorem run_imageComplete (pid : Pid) (s : State) : (Happening.imageComplete pid).run s = exec (.imageComplete pid) s := rfl
theorem run_exitCompletion (pid : Pid) (s : State) : (Happening.exitCompletion pid).run s = exec (.exitCompletion pid) s := rfl
theorem run_moveComplete (pid : Pid) (s : State) : (Happening.moveComplete pid).run s = exec (.moveComplete pid) s := rfl
theorem run_affinityMove (pid : Pid) (s : State) : (Happening.affinityMove pid).run s = exec (.affinityMove pid) s := rfl
theorem run_pauseEnd (core : Nat) (s : State) : (Happening.pauseEnd core).run s = exec (.pauseEnd core) s := rfl
theorem run_refillStep (s : State) : (Happening.refillStep).run s = exec (.refillStep) s := rfl
theorem run_bucketEmpty (part : Nat) (s : State) : (Happening.bucketEmpty part).run s = exec (.bucketEmpty part) s := rfl
theorem run_pageInComplete (pid : Pid) (page : Nat) (s : State) : (Happening.pageInComplete pid page).run s = exec (.pageInComplete pid page) s := rfl
theorem run_eviction (core : Nat) (s : State) : (Happening.eviction core).run s = exec (.eviction core) s := rfl
theorem run_offlineAnswer (pid : Pid) (s : State) : (Happening.offlineAnswer pid).run s = exec (.offlineAnswer pid) s := rfl
theorem run_dieDownComplete (die : Nat) (s : State) : (Happening.dieDownComplete die).run s = exec (.dieDownComplete die) s := rfl
theorem run_dieUpComplete (die : Nat) (s : State) : (Happening.dieUpComplete die).run s = exec (.dieUpComplete die) s := rfl
theorem run_bundleVerified (s : State) : (Happening.bundleVerified).run s = exec (.bundleVerified) s := rfl
theorem run_idleEntry (s : State) : (Happening.idleEntry).run s = exec (.idleEntry) s := rfl
theorem run_idleExit (s : State) : (Happening.idleExit).run s = exec (.idleExit) s := rfl
theorem run_faultEndPlacement (part : Nat) (s : State) : (Happening.faultEndPlacement part).run s = exec (.faultEndPlacement part) s := rfl

/-- A failure marks sectors, lines and pages; no process and no byte of memory changes. -/
theorem State.fail_same (s : State) (f : Failure) : SameMem s (s.fail f) := ⟨rfl, rfl, rfl, rfl⟩

@[simp] theorem State.fail_cur (s : State) (f : Failure) : (s.fail f).cur = s.cur := rfl
@[simp] theorem State.fail_procs (s : State) (f : Failure) : (s.fail f).procs = s.procs := rfl
@[simp] theorem State.fail_parts (s : State) (f : Failure) : (s.fail f).parts = s.parts := rfl
@[simp] theorem State.fail_cycle (s : State) (f : Failure) : (s.fail f).cycle = s.cycle := rfl

/-- The log entry of an error in an L1 line keeps every memory canonical. -/
theorem State.noteLine_memOk {s : State} {c pa : Nat} (h : s.memOk = true) : (s.noteLine c pa).memOk = true := by
  unfold State.noteLine
  split
  · exact State.logMemory_memOk h
  · exact h

/-- Where no line that the core holds shows an error, a load logs nothing. -/
theorem State.noteLine_clean {s : State} {c pa : Nat}
    (h : (s.core c).l1d.any (fun l => l.line == pa / 32 && l.err) = false) : s.noteLine c pa = s := by
  unfold State.noteLine; simp [h]

end Sys2Proof.Machine
end

