-- ==== Sys2Proof/Tests/Slice0.lean ====
section
/-! SUPPORT. Tests: the well-formedness checks, one word of every encoded instruction, and for each statement with
hypotheses a state and operands that meet them, most with what one step makes of that state. Expected values are worked
out by hand from the rules named. -/

namespace Sys2Proof.Tests

open Sys2Proof Sys2Proof.Machine Sys2Proof.Claims

set_option Elab.async false

def decodeAll (l : List (Nat × Nat × Instr)) : Bool := l.all (fun x => decode x.1 x.2.1 == some x.2.2)

/-- Words written out from R36. -/
theorem test_decode_int : decodeAll [
    (0x02321400, 0x00000000, .add 3 4 5), (0x02321401, 0x00000000, .sub 3 4 5), (0x02321402, 0x00000000, .mul 3 4 5),
    (0x02321403, 0x00000000, .mulh 3 4 5), (0x02321404, 0x00000000, .mulhn 3 4 5),
    (0x02321405, 0x00000000, .div 3 4 5), (0x02321406, 0x00000000, .divn 3 4 5), (0x02321407, 0x00000000, .rem 3 4 5),
    (0x02321408, 0x00000000, .remn 3 4 5), (0x02321410, 0x00000000, .and 3 4 5), (0x02321411, 0x00000000, .or 3 4 5),
    (0x02321412, 0x00000000, .xor 3 4 5), (0x02321413, 0x00000000, .andn 3 4 5), (0x02321414, 0x00000000, .orn 3 4 5),
    (0x02321415, 0x00000000, .xnor 3 4 5), (0x02321420, 0x00000000, .shl 3 4 5), (0x02321421, 0x00000000, .shr 3 4 5),
    (0x02321422, 0x00000000, .sra 3 4 5), (0x02321423, 0x00000000, .rol 3 4 5), (0x02321424, 0x00000000, .ror 3 4 5),
    (0x02321430, 0x00000000, .min 3 4 5), (0x02321431, 0x00000000, .max 3 4 5), (0x02321432, 0x00000000, .minn 3 4 5),
    (0x02321433, 0x00000000, .maxn 3 4 5), (0x02321440, 0x00000000, .slt 3 4 5),
    (0x02321441, 0x00000000, .sltn 3 4 5), (0x02321442, 0x00000000, .seq 3 4 5), (0x02321443, 0x00000000, .sne 3 4 5),
    (0x02320050, 0x00000000, .clz 3 4), (0x02320051, 0x00000000, .ctz 3 4), (0x02320052, 0x00000000, .popc 3 4),
    (0x02320053, 0x00000000, .brev 3 4), (0x02320058, 0x00000000, .sextb 3 4), (0x02320059, 0x00000000, .sexth 3 4),
    (0x0232005A, 0x00000000, .sextw 3 4), (0x0232005C, 0x00000000, .zextb 3 4), (0x0232005D, 0x00000000, .zexth 3 4),
    (0x0232005E, 0x00000000, .zextw 3 4)] = true := by decide +kernel

/-- Words written out from R33, R35, R41. -/
theorem test_decode_imm : decodeAll [
    (0x04327FFF, 0x00000000, .addi 3 4 0x7FFF), (0x06327FFF, 0x00000000, .andi 3 4 0x7FFF),
    (0x08327FFF, 0x00000000, .ori 3 4 0x7FFF), (0x0A327FFF, 0x00000000, .xori 3 4 0x7FFF),
    (0x0C327FFF, 0x00000000, .slti 3 4 0x7FFF), (0x0E327FFF, 0x00000000, .sltni 3 4 0x7FFF),
    (0x12324001, 0x00000000, .muli 3 4 0x4001), (0x1032003F, 0x00000000, .shli 3 4 63),
    (0x1032103F, 0x00000000, .shri 3 4 63), (0x1032203F, 0x00000000, .srai 3 4 63),
    (0x1032303F, 0x00000000, .rori 3 4 63), (0x15F80001, 0x00000000, .lih 31 0x80001),
    (0x16312345, 0x00000000, .pcadd 3 0x12345)] = true := by decide +kernel

/-- Words written out from R34. -/
theorem test_decode_mem : decodeAll [
    (0x18326801, 0x00000000, .ld 3 4 .wn 0x801), (0x1A322801, 0x00000000, .st 3 4 .w 0x801),
    (0x1C324801, 0x00000000, .pld 3 4 .bn 0x801), (0x1E323801, 0x00000000, .pst 3 4 .d 0x801)] = true := by decide +kernel

/-- Words written out from R32, R33. -/
theorem test_decode_branch : decodeAll [
    (0x20327FFD, 0x00000000, .beq 3 4 0x7FFD), (0x22327FFD, 0x00000000, .bne 3 4 0x7FFD),
    (0x24327FFD, 0x00000000, .blt 3 4 0x7FFD), (0x26327FFD, 0x00000000, .bge 3 4 0x7FFD),
    (0x28327FFD, 0x00000000, .bltn 3 4 0x7FFD), (0x2A327FFD, 0x00000000, .bgen 3 4 0x7FFD),
    (0x2C3FFFFF, 0x00000000, .jal 3 0xFFFFF), (0x2E327FFC, 0x00000000, .jalr 3 4 0x7FFC),
    (0x30507FFD, 0x00000000, .loop 5 0x7FFD)] = true := by decide +kernel

/-- Words written out from R37. -/
theorem test_decode_fps : decodeAll [
    (0x32321400, 0x00000000, .fadd 3 4 5), (0x32321401, 0x00000000, .fsub 3 4 5),
    (0x32321402, 0x00000000, .fmul 3 4 5), (0x32321403, 0x00000000, .fdiv 3 4 5),
    (0x32320004, 0x00000000, .fsqrt 3 4), (0x32321405, 0x00000000, .fmin 3 4 5),
    (0x32321406, 0x00000000, .fmax 3 4 5), (0x32320007, 0x00000000, .fabs 3 4), (0x32320008, 0x00000000, .fneg 3 4),
    (0x32321410, 0x00000000, .feq 3 4 5), (0x32321411, 0x00000000, .flt 3 4 5), (0x32321412, 0x00000000, .fle 3 4 5),
    (0x32320018, 0x00000000, .fclass 3 4), (0x32320020, 0x00000000, .fcvtif 3 4),
    (0x32320021, 0x00000000, .fcvtnf 3 4), (0x32320022, 0x00000000, .fcvtfi 3 4),
    (0x32320023, 0x00000000, .fcvtfn 3 4)] = true := by decide +kernel

/-- Words written out from R41, R42. -/
theorem test_decode_amo : decodeAll [
    (0x34321400, 0x00000000, .aadd 3 4 5 false .core), (0x34321641, 0x00000000, .aand 3 4 5 true .die),
    (0x34321482, 0x00000000, .aor 3 4 5 false .dev), (0x343216C3, 0x00000000, .axor 3 4 5 true .sys),
    (0x34321404, 0x00000000, .amin 3 4 5 false .core), (0x34321645, 0x00000000, .amax 3 4 5 true .die),
    (0x34321486, 0x00000000, .aminn 3 4 5 false .dev), (0x343216C7, 0x00000000, .amaxn 3 4 5 true .sys),
    (0x34321408, 0x00000000, .aswp 3 4 5 false .core), (0x34321649, 0x00000000, .acas 3 4 5 true .die),
    (0x36324078, 0x00000000, .albGated 3 4 15), (0x36020000, 0x00000000, .alb 4), (0x38300000, 0x00000000, .ale 3),
    (0x3A00001B, 0x00000000, .fence true .stores .sys)] = true := by decide +kernel

/-- Words written out from R38. -/
theorem test_decode_chan : decodeAll [
    (0x40110000, 0x00000000, .chnew 1 2), (0x40010001, 0x00000000, .chclose 2), (0x40110002, 0x00000000, .emov 1 2),
    (0x41110003, 0x00000000, .einfo 17 2), (0x401A0008, 0x00000000, .brnew 1 20), (0x40110009, 0x00000000, .brep 1 2),
    (0x4007800A, 0x00000000, .arrive 15), (0x4007800B, 0x00000000, .await 15), (0x4007800C, 0x00000000, .bsync 15),
    (0x40010C10, 0x00000000, .sende 2 3), (0x40110011, 0x00000000, .recve 1 2), (0x42015000, 0x00000000, .send 2 20),
    (0x45410000, 0x00000000, .recv 20 2), (0x474A8C00, 0x00000000, .xmaxf 20 21 3),
    (0x474A8C01, 0x00000000, .xminf 20 21 3), (0x474A8C02, 0x00000000, .xsumf 20 21 3),
    (0x474A8C03, 0x00000000, .xsumi 20 21 3), (0x474A8C04, 0x00000000, .xmaxi 20 21 3),
    (0x474A8C05, 0x00000000, .xswp 20 21 3)] = true := by decide +kernel

/-- Words written out from R39, R41. -/
theorem test_decode_proc : decodeAll [
    (0x48020000, 0x00000000, .exit 4), (0x48000001, 0x00000000, .yield), (0x48300002, 0x00000000, .pid 3),
    (0x48300003, 0x00000000, .lcore 3), (0x48020004, 0x00000000, .sprio 4), (0x48300005, 0x00000000, .gprio 3),
    (0x48300006, 0x00000000, .cycle 3), (0x48300007, 0x00000000, .part 3),
    (0x4A1A5681, 0x00000000, .spawn 1 20 21 .device 0x81), (0x4C7A5400, 0x00000000, .gset 7 20 21)] = true := by decide +kernel

/-- Words written out from R40, R43. -/
theorem test_decode_sys : decodeAll [
    (0x50000000, 0x00000000, .nop), (0x50000001, 0x00000000, .halt), (0x50000002, 0x00000000, .brk),
    (0x50020008, 0x00000000, .park 4), (0x50020009, 0x00000000, .resume 4), (0x5002140A, 0x00000000, .migr 4 5),
    (0x5002000B, 0x00000000, .kill 4), (0x50021410, 0x00000000, .sttw 4 5), (0x50020011, 0x00000000, .stti 4),
    (0x50021418, 0x00000000, .tlbi 4 5), (0x50000019, 0x00000000, .tlbia), (0x52300110, 0x00000000, .mfsr 3 0x110),
    (0x54300110, 0x00000000, .mtsr 0x110 3), (0x580ABCDE, 0x00000000, .trap 0xABCDE)] = true := by decide +kernel

/-- Words written out from R47. -/
theorem test_decode_lscal : decodeAll [
    (0x82300000, 0xFEDCBA98, .li 3 0xFEDCBA98), (0x82300001, 0xFEDCBA98, .lihL 3 0xFEDCBA98),
    (0x82320002, 0xFEDCBA98, .addl 3 4 0xFEDCBA98), (0x823214C3, 0x000000E8, .bmap 3 4 5 6 0xE8),
    (0x823214C4, 0x00000000, .fshl 3 4 5 6), (0x823214C5, 0x00000000, .fshr 3 4 5 6),
    (0x823214C6, 0x00000000, .fma 3 4 5 6), (0x823214C7, 0x00000000, .fms 3 4 5 6),
    (0x823214C8, 0x00000000, .fnma 3 4 5 6), (0x823214C9, 0x00000000, .csel 3 4 5 6),
    (0x8232000A, 0x00000261, .bfx 3 4 33 9), (0x8232000B, 0x00000261, .bfi 3 4 33 9)] = true := by decide +kernel

/-- Words written out from R48, R50. -/
theorem test_decode_alt : decodeAll [
    (0x84740C00, 0x07050480, .alt 7 8 3 0x07 0x05 0x04 true), (0x86000E00, 0x01000000, .sendt 3 ⟨16, 1⟩),
    (0x86400C01, 0x40000000, .recvt ⟨4, 1⟩ 3), (0x86440C02, 0x50200000, .txmax ⟨4, 1⟩ ⟨8, 1⟩ 3 .f16),
    (0x86440C03, 0x50200000, .txsum ⟨4, 1⟩ ⟨8, 1⟩ 3 .f16), (0x86440C04, 0x50000000, .txmrg ⟨4, 1⟩ ⟨8, 1⟩ 3)] = true := by decide +kernel

/-- Words written out from R50. -/
theorem test_decode_tmem : decodeAll [
    (0x884A1C00, 0x40000001, .tld ⟨4, 1⟩ 20 7 .stream), (0x880A1E01, 0x01000002, .tst 20 7 ⟨16, 1⟩ .keep),
    (0x884A1E22, 0x40000002, .tldx ⟨4, 1⟩ 20 7 17 .keep), (0x884A1E23, 0x40000002, .tstx ⟨4, 1⟩ 20 7 17 .keep),
    (0x880A1C04, 0x00000001, .tpf 20 7 .stream), (0x880A1E05, 0x01600000, .tred 20 7 ⟨16, 1⟩ .i32 .normal),
    (0x884A0006, 0x40000000, .spld ⟨4, 1⟩ 20), (0x880A0207, 0x01000000, .spst 20 ⟨16, 1⟩)] = true := by decide +kernel

/-- Words written out from R50. -/
theorem test_decode_tmove : decodeAll [
    (0x8A440000, 0x50000000, .tmov ⟨4, 1⟩ ⟨8, 1⟩), (0x8A400001, 0x40000000, .tzero ⟨4, 1⟩),
    (0x8A405002, 0x40E00000, .tfill ⟨4, 1⟩ 20 .b1), (0x8A3452A3, 0x10900000, .tget 3 ⟨8, 1⟩ 20 21 .i4),
    (0x8A4452A4, 0x50500000, .tins ⟨4, 1⟩ ⟨8, 1⟩ 20 21 .e2m1), (0x8A400005, 0x40D00001, .tiota ⟨4, 1⟩ .n4 true)] = true := by decide +kernel

/-- Words written out from R51. -/
theorem test_decode_mma : decodeAll [
    (0x8C444000, 0xBC301014, .mma ⟨4, ⟨8, 3⟩, ⟨16, 3⟩, .e4m3, .e5m2, .f32, true, true⟩),
    (0x8C444001, 0xBC301014, .mmz ⟨4, ⟨8, 3⟩, ⟨16, 3⟩, .e4m3, .e5m2, .f32, true, true⟩),
    (0x8C444002, 0xBC300004, .mmas ⟨4, ⟨8, 3⟩, ⟨16, 3⟩, .e4m3, .e5m2, .f32, false, false⟩),
    (0x8C444003, 0xBC300004, .mmzs ⟨4, ⟨8, 3⟩, ⟨16, 3⟩, .e4m3, .e5m2, .f32, false, false⟩)] = true := by decide +kernel

/-- Words written out from R50. -/
theorem test_decode_varith : decodeAll [
    (0x8E443000, 0x54213000, .vadd ⟨⟨4, 1⟩, ⟨8, 1⟩, ⟨12, 1⟩, .f16, .bf16, .rtz, true⟩),
    (0x8E443001, 0x54213000, .vsub ⟨⟨4, 1⟩, ⟨8, 1⟩, ⟨12, 1⟩, .f16, .bf16, .rtz, true⟩),
    (0x8E443002, 0x54213000, .vmul ⟨⟨4, 1⟩, ⟨8, 1⟩, ⟨12, 1⟩, .f16, .bf16, .rtz, true⟩),
    (0x8E443005, 0x54213000, .vmin ⟨⟨4, 1⟩, ⟨8, 1⟩, ⟨12, 1⟩, .f16, .bf16, .rtz, true⟩),
    (0x8E443006, 0x54213000, .vmax ⟨⟨4, 1⟩, ⟨8, 1⟩, ⟨12, 1⟩, .f16, .bf16, .rtz, true⟩),
    (0x8E443007, 0x54213000, .vdiv ⟨⟨4, 1⟩, ⟨8, 1⟩, ⟨12, 1⟩, .f16, .bf16, .rtz, true⟩),
    (0x8E443203, 0x55213000, .vfma ⟨⟨4, 1⟩, ⟨8, 1⟩, ⟨12, 1⟩, ⟨16, 1⟩, .f16, .bf16, .rtz, true⟩),
    (0x8E443204, 0x55213000, .vfms ⟨⟨4, 1⟩, ⟨8, 1⟩, ⟨12, 1⟩, ⟨16, 1⟩, .f16, .bf16, .rtz, true⟩),
    (0x8E44320D, 0x55213000, .vclmp ⟨⟨4, 1⟩, ⟨8, 1⟩, ⟨12, 1⟩, ⟨16, 1⟩, .f16, .bf16, .rtz, true⟩),
    (0x8E445008, 0x50213000, .vadds ⟨⟨4, 1⟩, ⟨8, 1⟩, 20, .f16, .bf16, .rtz, true⟩),
    (0x8E445009, 0x50213000, .vmuls ⟨⟨4, 1⟩, ⟨8, 1⟩, 20, .f16, .bf16, .rtz, true⟩),
    (0x8E44520A, 0x51213000, .vfmas ⟨⟨4, 1⟩, ⟨8, 1⟩, 20, ⟨16, 1⟩, .f16, .bf16, .rtz, true⟩),
    (0x8E44300B, 0x54880006, .vcmp ⟨4, 1⟩ ⟨8, 1⟩ ⟨12, 1⟩ .i8 .unord),
    (0x8E44320C, 0x55800000, .vsel ⟨4, 1⟩ ⟨8, 1⟩ ⟨12, 1⟩ ⟨16, 1⟩ .i8)] = true := by decide +kernel

/-- Words written out from R50. -/
theorem test_decode_vunary : decodeAll [
    (0x90440000, 0x50213000, .vabs ⟨⟨4, 1⟩, ⟨8, 1⟩, .f16, .bf16, .rtz, true⟩),
    (0x90440001, 0x50213000, .vneg ⟨⟨4, 1⟩, ⟨8, 1⟩, .f16, .bf16, .rtz, true⟩),
    (0x90440002, 0x50213000, .vexp2 ⟨⟨4, 1⟩, ⟨8, 1⟩, .f16, .bf16, .rtz, true⟩),
    (0x90440003, 0x50213000, .vlog2 ⟨⟨4, 1⟩, ⟨8, 1⟩, .f16, .bf16, .rtz, true⟩),
    (0x90440004, 0x50213000, .vrcp ⟨⟨4, 1⟩, ⟨8, 1⟩, .f16, .bf16, .rtz, true⟩),
    (0x90440005, 0x50213000, .vrsq ⟨⟨4, 1⟩, ⟨8, 1⟩, .f16, .bf16, .rtz, true⟩),
    (0x90440006, 0x50213000, .vsqrt ⟨⟨4, 1⟩, ⟨8, 1⟩, .f16, .bf16, .rtz, true⟩),
    (0x90440007, 0x50213000, .vtanh ⟨⟨4, 1⟩, ⟨8, 1⟩, .f16, .bf16, .rtz, true⟩),
    (0x90440008, 0x50213000, .vsigm ⟨⟨4, 1⟩, ⟨8, 1⟩, .f16, .bf16, .rtz, true⟩),
    (0x90440009, 0x50213000, .verf ⟨⟨4, 1⟩, ⟨8, 1⟩, .f16, .bf16, .rtz, true⟩)] = true := by decide +kernel

/-- Words written out from R50. -/
theorem test_decode_vconv : decodeAll [
    (0x92440000, 0x50213000, .vcvt ⟨⟨4, 1⟩, ⟨8, 1⟩, .f16, .bf16, .rtz, true⟩),
    (0x92440001, 0x10233000, .vqnt ⟨⟨4, 0⟩, ⟨8, 1⟩, .f16, .e4m3, .rtz, true⟩ .block),
    (0x92440001, 0x10233001, .vqnt ⟨⟨4, 0⟩, ⟨8, 1⟩, .f16, .e4m3, .rtz, true⟩ .row),
    (0x92440221, 0x10233002, .vqnt ⟨⟨4, 0⟩, ⟨8, 1⟩, .f16, .e4m3, .rtz, true⟩ (.givenRow 17)),
    (0x92440221, 0x10233003, .vqnt ⟨⟨4, 0⟩, ⟨8, 1⟩, .f16, .e4m3, .rtz, true⟩ (.givenBlock 17)),
    (0x92440002, 0x40323000, .vdqn ⟨⟨4, 1⟩, ⟨8, 0⟩, .e4m3, .f16, .rtz, true⟩)] = true := by decide +kernel

/-- Words written out from R50. -/
theorem test_decode_vred : decodeAll [
    (0x94440000, 0x10203000, .vrmax ⟨⟨4, 0⟩, ⟨8, 1⟩, .f16, .f32, .rtz, true⟩),
    (0x94440001, 0x10203000, .vrmin ⟨⟨4, 0⟩, ⟨8, 1⟩, .f16, .f32, .rtz, true⟩),
    (0x94440002, 0x10203000, .vrsum ⟨⟨4, 0⟩, ⟨8, 1⟩, .f16, .f32, .rtz, true⟩),
    (0x94440003, 0x10203000, .vramax ⟨⟨4, 0⟩, ⟨8, 1⟩, .f16, .f32, .rtz, true⟩),
    (0x94440004, 0x10203000, .vrssq ⟨⟨4, 0⟩, ⟨8, 1⟩, .f16, .f32, .rtz, true⟩),
    (0x94440005, 0x90203000, .vcmax ⟨⟨4, 2⟩, ⟨8, 1⟩, .f16, .f32, .rtz, true⟩),
    (0x94440006, 0x90203000, .vcsum ⟨⟨4, 2⟩, ⟨8, 1⟩, .f16, .f32, .rtz, true⟩),
    (0x94443007, 0x00000000, .vrmrg 4 8 12),
    (0x94440008, 0x50213000, .vbrow ⟨⟨4, 1⟩, ⟨8, 1⟩, .f16, .bf16, .rtz, true⟩),
    (0x94440009, 0x40213000, .vbcol ⟨⟨4, 1⟩, ⟨8, 0⟩, .f16, .bf16, .rtz, true⟩)] = true := by decide +kernel

/-- Words written out from R49, R50. -/
theorem test_decode_vperm : decodeAll [
    (0x96440000, 0x50100000, .vtrn ⟨4, 1⟩ ⟨8, 1⟩ .bf16), (0x96440001, 0x500007FF, .vrotr ⟨4, 1⟩ ⟨8, 1⟩ (.imm 0x7FF)),
    (0x96440282, 0x50100800, .vrotc ⟨4, 1⟩ ⟨8, 1⟩ .bf16 (.reg 20)),
    (0x96440223, 0x50000000, .vpermr ⟨4, 1⟩ ⟨8, 1⟩ 17), (0x96440284, 0x50000800, .vbrot ⟨4, 1⟩ ⟨8, 1⟩ (.reg 20))] = true := by decide +kernel

/-- Words written out from R49, R50. -/
theorem test_decode_vlogic : decodeAll [
    (0x98443000, 0x54000000, .vand ⟨4, 1⟩ ⟨8, 1⟩ ⟨12, 1⟩), (0x98443001, 0x54000000, .vor ⟨4, 1⟩ ⟨8, 1⟩ ⟨12, 1⟩),
    (0x98443002, 0x54000000, .vxor ⟨4, 1⟩ ⟨8, 1⟩ ⟨12, 1⟩), (0x98440003, 0x50000000, .vnot ⟨4, 1⟩ ⟨8, 1⟩),
    (0x98443204, 0x55000096, .vbmap ⟨4, 1⟩ ⟨8, 1⟩ ⟨12, 1⟩ ⟨16, 1⟩ 0x96),
    (0x98440005, 0x50700003, .vshl ⟨4, 1⟩ ⟨8, 1⟩ .i16 (.imm 3)),
    (0x98440006, 0x50700003, .vshr ⟨4, 1⟩ ⟨8, 1⟩ .i16 (.imm 3)),
    (0x98440007, 0x50700003, .vsra ⟨4, 1⟩ ⟨8, 1⟩ .i16 (.imm 3)),
    (0x98443288, 0x54000800, .vfshl ⟨4, 1⟩ ⟨8, 1⟩ ⟨12, 1⟩ (.reg 20)),
    (0x98443289, 0x54000800, .vfshr ⟨4, 1⟩ ⟨8, 1⟩ ⟨12, 1⟩ (.reg 20)),
    (0x9882000A, 0xC0E80000, .vpopc ⟨8, 3⟩ ⟨4, 0⟩ .b1 .i8)] = true := by decide +kernel
def t (b : TReg) (w : Fin 4) : TGrp := ⟨b, w⟩
def v2 (d a : TGrp) (ti out : Ty) : V2 := ⟨d, a, ti, out, .rne, false⟩
def v3 (d a b : TGrp) (ti out : Ty) : V3 := ⟨d, a, b, ti, out, .rne, false⟩
def v4 (d a b c : TGrp) (ti out : Ty) : V4 := ⟨d, a, b, c, ti, out, .rne, false⟩
def up : TGrp := t 4 3

/-- One ill-formed term for each check of Instr.wf, in three parts; each encodes to words that decode to nothing. -/
def illFormed1 : List Instr :=
  [.st 1 2 .bn 0, .pst 1 2 .wn 0, .mfsr 1 0x7FFF, .mtsr 0x00 1, .chnew 1 1, .emov 2 2, .brep 3 3, .recve 4 4, .sende 5 5,
   .alt 1 2 0 0 0 0 false, .alt 1 2 14 0x07 0 0 false, .alt 1 2 0 0x01 0x02 0 false, .alt 1 2 0 0x01 0 0x02 true,
   .sendt 0 up, .recvt up 0, .txmax (t 0 0) (t 2 1) 0 .f32, .txmax (t 0 0) (t 1 0) 0 .b1, .txsum up up 0 .f32,
   .txsum (t 0 0) (t 1 0) 0 .b1, .txmrg (t 0 1) (t 2 0) 0, .tld up 1 0 .normal, .tst 1 0 up .normal, .tldx up 1 0 1 .normal,
   .tstx up 1 0 1 .normal, .tred 1 0 up .f32 .normal, .tred 1 0 (t 0 0) .f16 .normal, .spld up 1, .spst 1 up,
   .tmov (t 0 0) (t 2 1), .tzero up, .tfill up 1 .f32, .tget 1 up 2 3 .f32, .tins (t 0 0) (t 2 1) 1 2 .f32, .tiota up .f32 true,
   .tiota (t 0 0) .b1 true, .mma ⟨1, t 0 0, t 1 0, .f16, .f16, .f32, false, false⟩, .mma ⟨0, t 0 0, t 2 1, .f16, .f16, .f32, false, false⟩,
   .mmz ⟨0, t 0 0, t 1 0, .i8, .i8, .i32, true, false⟩, .mmz ⟨0, t 0 0, t 1 0, .f16, .f16, .f16, false, false⟩,
   .mmas ⟨0, t 0 0, t 1 0, .i8, .i8, .f32, false, false⟩, .mmzs ⟨0, t 0 0, t 1 0, .i8, .i8, .i32, false, false⟩]

def illFormed2 : List Instr :=
  [.vadd (v3 (t 0 0) up up .f32 .f32), .vsub (v3 (t 0 0) (t 1 0) (t 2 1) .f32 .f32), .vmul (v3 (t 0 0) (t 1 0) (t 2 0) .f32 .f16),
   .vmin (v3 (t 0 0) (t 1 0) (t 2 0) .b1 .b1), .vmax (v3 up (t 1 0) (t 2 0) .f32 .f32), .vdiv (v3 (t 0 0) (t 1 0) (t 2 0) .i32 .i32),
   .vfma (v4 (t 0 0) (t 1 0) (t 2 0) (t 4 1) .f32 .f32), .vfms (v4 (t 0 0) (t 1 0) (t 2 1) (t 4 0) .f32 .f32),
   .vclmp (v4 (t 0 0) (t 1 0) (t 2 0) up .f32 .f32), .vadds ⟨up, up, 1, .f32, .f32, .rne, false⟩,
   .vmuls ⟨t 0 0, t 1 0, 1, .f32, .f16, .rne, false⟩, .vfmas ⟨t 0 0, t 1 0, 1, t 2 1, .f32, .f32, .rne, false⟩,
   .vcmp (t 0 0) (t 1 0) (t 2 0) .f32 .eq, .vcmp (t 0 0) (t 1 0) (t 2 1) .i8 .eq, .vcmp (t 0 3) (t 8 0) (t 9 0) .b1 .eq,
   .vsel (t 0 0) (t 1 0) (t 2 0) (t 3 0) .f32, .vsel (t 0 0) (t 1 0) (t 2 1) (t 4 0) .i8, .vabs (v2 (t 0 0) (t 1 0) .f32 .f16),
   .vneg (v2 up up .f32 .f32), .vexp2 (v2 (t 0 0) (t 1 0) .i32 .i32), .vlog2 (v2 (t 0 0) (t 1 0) .f32 .i32),
   .vrcp (v2 (t 0 0) (t 1 0) .i32 .f32), .vrsq (v2 (t 0 0) (t 1 0) .i32 .f32), .vsqrt (v2 (t 0 0) (t 1 0) .i32 .f32),
   .vtanh (v2 (t 0 0) (t 1 0) .i32 .f32), .vsigm (v2 (t 0 0) (t 1 0) .i32 .f32), .verf (v2 (t 0 0) (t 1 0) .i32 .f32),
   .vcvt (v2 (t 0 0) (t 1 0) .f32 .f16), .vqnt (v2 (t 0 0) (t 1 0) .f32 .f32) .block, .vqnt (v2 (t 0 0) (t 1 0) .e4m3 .e4m3) .row,
   .vdqn (v2 (t 0 0) (t 1 0) .f32 .f32)]

def illFormed3 : List Instr :=
  [.vrmax (v2 (t 0 1) (t 2 0) .f32 .f32), .vrmin (v2 up (t 2 0) .f32 .f32), .vrsum (v2 (t 0 0) up .f32 .f32),
   .vramax (v2 (t 0 0) (t 1 0) .b1 .i32), .vrssq (v2 (t 0 0) (t 1 0) .i32 .i32), .vcmax (v2 (t 0 0) (t 2 1) .f32 .f32),
   .vcsum (v2 up up .f32 .f32), .vbrow (v2 (t 0 0) (t 1 0) .f32 .f16), .vbcol (v2 up (t 1 0) .f32 .f32), .vtrn (t 0 0) (t 2 1) .f32,
   .vrotr (t 0 0) (t 2 1) (.imm 1), .vrotc (t 0 0) (t 2 1) .f32 (.imm 1), .vpermr (t 0 0) (t 2 1) 3, .vbrot up up (.imm 1),
   .vand (t 0 0) (t 1 0) (t 2 1), .vor (t 0 0) (t 2 1) (t 4 0), .vxor up up up, .vnot (t 0 0) (t 2 1),
   .vbmap (t 0 0) (t 1 0) (t 2 0) (t 4 1) 0, .vshl (t 0 0) (t 1 0) .f32 (.imm 1), .vshr (t 0 0) (t 2 1) .i32 (.imm 1),
   .vsra up up .i32 (.imm 1), .vfshl (t 0 0) (t 1 0) (t 2 1) (.imm 1), .vfshr (t 0 0) (t 2 1) (t 4 0) (.imm 1),
   .vpopc (t 0 0) (t 1 0) .b1 .i8, .vpopc (t 0 0) (t 1 0) .i8 .f16]

def refused (l : List Instr) : Bool :=
  l.all (fun i => !i.wf && (match encode i with
    | some (w0, w1) => decode w0 (w1.getD 0) == none
    | none => false))

theorem test_wf_refuses :
    (refused illFormed1 && refused illFormed2 && refused illFormed3) = true := by decide +kernel

/-! ### Small states -/

/-- A device that runs one supervisor, PID 1, in slot 0 of core 0, NOP at its IP 0x10000, with S registers set. -/
def sup (l : List (SReg × Word)) : State := l.foldl (fun s x => s.wr x.1 x.2) (State.reset.withFetchWord 32 0x50000000)

/-- The same process as a user-mode process of a partition whose supervisor is another. -/
def user (l : List (SReg × Word)) : State :=
  let s := sup l
  { s with cur := { s.cur with sup := false, join := .root }, parts := s.parts.map (fun p => { p with sup := some 9 }) }

/-- Whether an outcome is a next state with a property. -/
def nextIs (o : Host.Outcome State Fault Refusal) (p : State → Bool) : Bool :=
  match o with
  | .next t => p t
  | _ => false

/-- The state of an outcome, or the one before. -/
def after (i : Instr) (s : State) : State :=
  match exec i s with
  | .next t => t
  | _ => s

def okIs {α : Type} (x : Except Halt α) (p : α → Bool) : Bool :=
  match x with
  | .ok a => p a
  | .error _ => false

/-- Whether an instruction leaves a value in S3. -/
def leaves (s : State) (l : List (Instr × Word)) : Bool := l.all (fun x => nextIs (exec x.1 s) (fun t => t.rd 3 == x.2))

/-- The trap that the supervisor's partition ended with: the cause and address words of host event 1 (R455). -/
def trapped (t : State) : List (List Word) := (t.host.events.filter (fun e => e.kind == 1)).map HEvent.words

/-- The record of a process: cause and address. -/
def recorded (t : State) (pid : Pid) : Option (Cause × Word) := ((t.proc? pid).bind Proc.record).map (fun r => (r.cause, r.addr))

/-- A user-mode step that ends in a trap of the process, with its address. -/
def traps (s : State) (i : Instr) (c : Cause) (a : Word) : Bool :=
  nextIs (exec i s) (fun t => recorded t 1 == some (c, a))

/-! ### Scalar instructions -/

/-- R169, R170 at S4 = -2^63 and S5 = -1: shifts take 63 places. -/
theorem test_int_values : leaves (sup [(4, 0x8000000000000000), (5, 0xFFFFFFFFFFFFFFFF)])
    [(.add 3 4 5, 0x7FFFFFFFFFFFFFFF), (.sub 3 4 5, 0x8000000000000001), (.mul 3 4 5, 0x8000000000000000),
     (.mulh 3 4 5, 0), (.mulhn 3 4 5, 0x7FFFFFFFFFFFFFFF), (.div 3 4 5, 0x8000000000000000), (.divn 3 4 5, 0),
     (.rem 3 4 5, 0), (.remn 3 4 5, 0x8000000000000000), (.and 3 4 5, 0x8000000000000000), (.or 3 4 5, 0xFFFFFFFFFFFFFFFF),
     (.xor 3 4 5, 0x7FFFFFFFFFFFFFFF), (.andn 3 4 5, 0), (.orn 3 4 5, 0x8000000000000000), (.xnor 3 4 5, 0x8000000000000000),
     (.shl 3 4 5, 0), (.shr 3 4 5, 1), (.sra 3 4 5, 0xFFFFFFFFFFFFFFFF), (.rol 3 4 5, 0x4000000000000000), (.ror 3 4 5, 1),
     (.min 3 4 5, 0x8000000000000000), (.max 3 4 5, 0xFFFFFFFFFFFFFFFF), (.minn 3 4 5, 0x8000000000000000),
     (.maxn 3 4 5, 0xFFFFFFFFFFFFFFFF), (.slt 3 4 5, 1), (.sltn 3 4 5, 1), (.seq 3 4 5, 0), (.sne 3 4 5, 1),
     (.clz 3 4, 0), (.ctz 3 4, 63), (.popc 3 4, 1), (.brev 3 4, 1)] = true := by decide +kernel

/-- R170: a zero divisor; R169: the extensions of 0x8081_8283; -7 by 2 truncates toward 0. -/
theorem test_int_corners : leaves (sup [(4, 0xFFFFFFFF80818283), (6, 0xFFFFFFFFFFFFFFF9), (7, 2)])
    [(.div 3 4 0, 0xFFFFFFFFFFFFFFFF), (.divn 3 4 0, 0xFFFFFFFFFFFFFFFF), (.rem 3 4 0, 0xFFFFFFFF80818283),
     (.remn 3 4 0, 0xFFFFFFFF80818283), (.div 3 6 7, 0xFFFFFFFFFFFFFFFD), (.rem 3 6 7, 0xFFFFFFFFFFFFFFFF),
     (.clz 3 0, 64), (.ctz 3 0, 64), (.sextb 3 4, 0xFFFFFFFFFFFFFF83), (.sexth 3 4, 0xFFFFFFFFFFFF8283),
     (.sextw 3 4, 0xFFFFFFFF80818283), (.zextb 3 4, 0x83), (.zexth 3 4, 0x8283), (.zextw 3 4, 0x80818283)] = true := by
  decide +kernel

/-- R171 to R175, R186 to R189 at S4 = 0x10, S5 = -1, S6 = 4. -/
theorem test_immediate_values : leaves (sup [(3, 0x1111222233334444), (4, 0x10), (5, 0xFFFFFFFFFFFFFFFF), (6, 4)])
    [(.addi 3 4 0x7FFF, 0xF), (.andi 3 5 0x7FFE, 0xFFFFFFFFFFFFFFFE), (.ori 3 4 1, 0x11), (.xori 3 5 0x7FFF, 0),
     (.slti 3 5 0, 1), (.sltni 3 5 0x7FFF, 0), (.muli 3 4 0x7FFE, 0xFFFFFFFFFFFFFFE0), (.shli 3 4 63, 0), (.shri 3 5 63, 1),
     (.srai 3 5 63, 0xFFFFFFFFFFFFFFFF), (.rori 3 4 5, 0x8000000000000000), (.lih 3 0x80000, 0xFFFFFFFF80000000),
     (.pcadd 3 1, 0x11000), (.li 3 0x80000000, 0xFFFFFFFF80000000), (.lihL 3 0x80000000, 0x8000000033334444),
     (.addl 3 4 0xFFFFFFFF, 0xF), (.bmap 3 4 5 0 0x08, 0x10), (.fshl 3 4 5 6, 0x10F), (.fshr 3 4 5 6, 0x0FFFFFFFFFFFFFFF),
     (.csel 3 4 5 6, 0x10), (.csel 3 4 5 0, 0xFFFFFFFFFFFFFFFF), (.bfx 3 3 4 8, 0x44), (.bfx 3 5 60 0, 0xF),
     (.bfi 3 5 60 0, 0xF111222233334444), (.bfi 3 4 0 8, 0x1111222233334410)] = true := by decide +kernel

/-- R176 to R179: where IP goes, and the link. -/
theorem test_branch_targets :
    [(Instr.beq 4 4 0x7FFD, (0xFFF4 : Word)), (.bne 4 4 0x7FFD, 0x10004), (.blt 5 4 4, 0x10010), (.bge 5 4 4, 0x10004),
     (.bltn 5 4 4, 0x10004), (.bgen 5 4 4, 0x10010), (.jal 3 0xFFFFF, 0xFFFC), (.jalr 3 4 0x7FFC, 0xC), (.loop 4 4, 0x10010),
     (.loop 6 4, 0x10004)].all (fun x =>
        nextIs (exec x.1 (sup [(4, 0x10), (5, 0xFFFFFFFFFFFFFFFF), (6, 1)])) (fun t => t.cur.ip == x.2)) = true
    ∧ leaves (sup [(3, 1), (4, 0x10)]) [(.jal 3 8, 0x10004), (.jalr 3 4 0, 0x10004), (.loop 3 4, 0)] = true := by
  constructor <;> decide +kernel

/-- R178: a target that is not a multiple of 4, and the last one that is. -/
theorem test_jalr_alignment :
    traps (user [(4, 0x10)]) (.jalr 3 4 3) .misalign 0x13 = true
    ∧ nextIs (exec (.jalr 3 4 4) (user [(4, 0x10)])) (fun t => t.cur.ip == 0x14 && t.rd 3 == 0x10004) = true := by
  constructor <;> decide +kernel

/-- R160. -/
theorem test_zero_register :
    leaves (sup [(0, 7), (3, 0)]) [(.add 3 0 0, 0), (.add 0 3 3, 0)] = true
    ∧ ((sup []).wr 3 5).rd 3 = 5 ∧ ((sup []).wr 3 5).rd 4 = 0 := by
  refine ⟨?_, ?_, ?_⟩ <;> decide +kernel

/-- R180 to R185 on 1.5, -0.25, 2 and a signalling NaN; 1/3 is inexact, 1/0 a division by zero. -/
theorem test_float_values : leaves (sup [(4, 0x3FC00000), (5, 0xBE800000), (6, 0x40000000), (7, 0x7F800001), (8, 0xFFFFFFFFFFFFFFF9)])
    [(.fadd 3 4 5, 0x3FA00000), (.fsub 3 4 5, 0x3FE00000), (.fmul 3 4 5, 0xBEC00000), (.fdiv 3 4 5, 0xC0C00000),
     (.fsqrt 3 5, 0x7FC00000), (.fmin 3 4 5, 0xBE800000), (.fmax 3 4 5, 0x3FC00000), (.fabs 3 5, 0x3E800000),
     (.fneg 3 4, 0xBFC00000), (.feq 3 4 4, 1), (.flt 3 5 4, 1), (.fle 3 4 5, 0), (.feq 3 7 7, 0), (.fclass 3 5, 2),
     (.fclass 3 7, 0x100), (.fcvtif 3 8, 0xC0E00000), (.fcvtfi 3 4, 2), (.fcvtfn 3 5, 0), (.fma 3 4 6 5, 0x40300000),
     (.fms 3 4 6 5, 0x40500000), (.fnma 3 4 6 5, 0xC0500000), (.fdiv 3 4 0, 0x7F800000)] = true := by decide +kernel

theorem test_float_flags :
    [(Instr.fdiv 3 4 0, (2 : Word)), (.flt 3 7 4, 1), (.fadd 3 4 4, 0), (.fsqrt 3 5, 1)].all (fun x =>
      nextIs (exec x.1 (sup [(4, 0x3FC00000), (5, 0xBE800000), (7, 0x7F800001)])) (fun t => t.cur.fcsr == x.2)) = true := by
  decide +kernel

/-- The frames: each hypothesis is met by an instruction that answers a next state. -/
theorem witness_scalar_frame :
    scalarDest (.add 3 4 5) = some 3 ∧ floatDest (.fadd 3 4 5) = some 3 ∧ (sup []).rd 4 + (4 : BitVec 15).signExtend 64 = 4
    ∧ [Instr.add 3 4 5, .fadd 3 4 5, .beq 4 5 1, .jalr 3 4 4].all (fun i => nextIs (exec i (sup [])) (fun _ => true)) = true := by
  refine ⟨rfl, rfl, ?_, ?_⟩ <;> decide +kernel

/-! ### Global memory, atomics and regions -/

/-- The supervisor with bytes at an address, S4 = 0x20000. -/
def withData (pa : Nat) (l : List Byte) (regs : List (SReg × Word)) : State :=
  let s := sup ((4, 0x20000) :: regs)
  { s with mem := s.mem.setBytes pa l }

/-- Every sector of a range is written under a key, and not garbled. -/
def readable (s : State) (key : Option Nat) (pa n : Nat) : Bool :=
  (sectorsOf pa n).all (fun i => key == s.sealOf i && (s.garble? i).isNone)

/-- What LoadResult asks of a load of z bytes at x from its home. -/
def mayLoad (s : State) (x : Word) (z : Nat) : Bool :=
  x.toNat % z == 0 && okIs ((atAccess s x).scalarXlate x z .read) (fun r =>
    let u := r.1
    let w := (noted u x z).awaitStores [(r.2, z)]
    let v := w.noteLine w.curCore r.2
    u.cur.region.all (fun g => !g.covers x z) && w.errs == [] && decide (r.2 < hbmTop) && !w.hitsL1 w.curCore r.2
      && readable v (u.keyAt u.curCore u.curPart x) r.2 z && !v.rangeBad r.2 z
      && (u.watchHit x.toNat (x.toNat + z - 1) true false).isNone)

/-- R293: the extensions of SZ, at the lowest and the highest offset of off12 and at the top of HBM's grant; R208: with an older
store of other bytes waiting; R311: in a region whose line does not cover it. -/
theorem witness_load :
    let s := withData 0x207F8 [0x81, 0x82, 0x83, 0x84, 0x85, 0x86, 0x87, 0x88] [(5, 0x21000)]
    (mayLoad s 0x207F8 8 && mayLoad s 0x207FF 1 && mayLoad s 0x20800 8 && mayLoad s 0x1FFFFF8 8
      && mayLoad (after (.st 3 4 .d 0) s) 0x207F8 8 && mayLoad (after (.alb 4) s) 0x207F8 8) = true
    ∧ leaves s [(.ld 3 4 .d 0x7F8, 0x8887868584838281), (.ld 3 4 .w 0x7FC, 0xFFFFFFFF88878685), (.ld 3 4 .wn 0x7FC, 0x88878685),
        (.ld 3 4 .b 0x7FF, 0xFFFFFFFFFFFFFF88), (.ld 3 4 .bn 0x7FF, 0x88), (.ld 3 4 .h 0x7FE, 0xFFFFFFFFFFFF8887),
        (.ld 3 4 .hn 0x7FE, 0x8887), (.ld 3 5 .d 0x800, 0)] = true := by
  constructor <;> decide +kernel

/-- R208: the premises of a load of the bytes that a store waits to write, and what it reads. -/
theorem witness_load_after_store :
    let s := after (.st 5 4 .d 8) (withData 0x20000 [1, 2] [(5, 0x1122334455667788)])
    okIs ((atAccess s 0x20008).scalarXlate 0x20008 8 .read) (fun r =>
      let u := r.1
      u.cur.region.isNone && u.cur.pid == 1 && u.cur.stores.length == 1
        && u.cur.stores.all (fun x => x.pa == r.2 && x.bytes.length == 8 && x.span == [(r.2, 8)] && readable u x.key r.2 8)
        && u.memOk && u.errs == [] && u.cells == [] && u.entries == [] && decide (r.2 + 8 ≤ hbmTop)
        && (u.core u.curCore).l1d.all (fun l => l.line != r.2 / 32) && !u.rangeBad r.2 8
        && (u.watchHit 0x20008 0x2000F true false).isNone) = true
    ∧ leaves s [(.ld 3 4 .d 8, 0x1122334455667788)] = true
    ∧ (after (.ld 3 4 .d 8) s).cur.stores = [] := by
  refine ⟨?_, ?_, ?_⟩ <;> decide +kernel

/-- R289: the line of an earlier load, which other bytes at the home do not change; R311: an open region's copy. -/
theorem witness_load_hit :
    let s := after (.ld 6 4 .d 0) (withData 0x20000 [7] [])
    let v := { s with mem := s.mem.setBytes 0x20000 [9] }
    let r := after (.alb 4) (withData 0x20000 [7] [])
    okIs ((atAccess v 0x20000).scalarXlate 0x20000 8 .read) (fun x => x.1.cur.region.isNone && x.1.cur.stores == []
      && decide (x.2 < hbmTop) && ((x.1.core x.1.curCore).l1d.find? (fun y => y.line == x.2 / 32 && !y.err)).isSome
      && (x.1.watchHit 0x20000 0x20007 true false).isNone) = true
    ∧ leaves v [(.ld 3 4 .d 0, 7)] = true
    ∧ okIs ((atAccess r 0x20078).scalarXlate 0x20078 8 .read) (fun x => x.1.cur.region.any (fun g => (0x20078 - g.line).toNat + 8 ≤ 128)
      && (x.1.watchHit 0x20078 0x2007F true false).isNone) = true
    ∧ leaves { r with mem := r.mem.setBytes 0x20000 [9] } [(.ld 3 4 .d 0, 7)] = true
    ∧ (after (.ld 3 4 .d 0) r).cur.region.map (fun g => (g.access, g.hasLoad)) = some (1, true) := by
  refine ⟨?_, ?_, ?_, ?_, ?_⟩ <;> decide +kernel

/-- R293, R285, R277: the first address of each refused range. -/
theorem test_access_traps :
    (traps (user [(4, 0x20001)]) (.ld 3 4 .h 0) .misalign 0x20001 && traps (user [(4, 0x20004)]) (.st 3 4 .d 0) .misalign 0x20004
      && traps (user [(4, 2 ^ 52)]) (.ld 3 4 .d 0) .gprot (2 ^ 52) && traps (user [(4, 2 ^ 52)]) (.st 3 4 .d 0) .gprot (2 ^ 52)
      && traps (user [(4, 2 ^ 24)]) (.pld 3 4 .d 0) .spfault (2 ^ 24) && traps (user [(4, 2 ^ 24)]) (.pst 3 4 .d 0) .spfault (2 ^ 24)
      && traps (user [(4, 3)]) (.pld 3 4 .w 0) .misalign 3 && traps (user [(4, 3)]) (.pst 3 4 .w 0) .misalign 3) = true := by
  decide +kernel

/-- R293, R295: a store waits with the low bytes of S3, and then stands at its address. -/
theorem witness_store :
    let s := sup [(3, 0x1122334455667788), (4, 0x20000)]
    let t := after (.st 3 4 .w 4) s
    okIs ((atAccess s 0x20004).scalarXlate 0x20004 4 .write) (fun r => (r.1.watchHit 0x20004 0x20007 false true).isNone) = true
    ∧ t.cur.stores.map (fun x => (x.pa, x.bytes, x.key)) = [(0x20004, [0x88, 0x77, 0x66, 0x55], none)]
    ∧ t.physBytes 0x20000 12 = List.replicate 12 0
    ∧ (t.proc? 1).map (fun p => p.mayPerform 0) = some true ∧ (t.cells, t.entries, t.errs, t.memOk) = ([], [], [], true)
    ∧ (after (.storePerform 1 0) t).physBytes 0x20000 12 = [0, 0, 0, 0, 0x88, 0x77, 0x66, 0x55, 0, 0, 0, 0] := by
  refine ⟨?_, ?_, ?_, ?_, ?_, ?_⟩ <;> decide +kernel

/-- What AmoRequest asks. -/
def mayAmo (s : State) (x : Word) (z : Nat) : Bool :=
  let u := atAccess s x
  x.toNat % z == 0 && !s.cur.latch.sent && (u.watchHit x.toNat (x.toNat + z - 1) true true).isNone
    && (match u.xlate u.curCore u.curPart u.cur.sup x z .modify with
        | .ok r => physRegion r.pa == .hbm && !u.memOff u.curPart r.pa
        | .error _ => false)

/-- R307, R308, R313: old = 0x8000_0001 at 0x20000, s = 1: the request, what its home makes of it, and the reply. -/
theorem witness_amo :
    let s := withData 0x20000 [1, 0, 0, 0x80, 7] [(3, 0x80000001), (5, 1)]
    let sent := fun (i : Instr) => after i s
    let home := fun (i : Instr) => after (.atomicAtHome 1 0) (sent i)
    let word := fun (i : Instr) => ofBytes ((home i).physBytes 0x20000 4)
    (mayAmo s 0x20000 4 && mayAmo s 0x20000 8) = true
    ∧ ((sent (.aadd 3 4 5 true .core)).cur.latch.kind, (sent (.aadd 3 4 5 true .core)).rd 3) = (1, 0x80000001)
    ∧ [Instr.aadd 3 4 5 true .core, .aand 3 4 5 true .core, .aor 3 4 5 true .core, .axor 3 4 5 true .core, .amin 3 4 5 true .core,
        .amax 3 4 5 true .core, .aminn 3 4 5 true .core, .amaxn 3 4 5 true .core, .aswp 3 4 5 true .core, .acas 3 4 5 true .core].map word
      = [0x80000002, 1, 0x80000001, 0x80000000, 0x80000001, 1, 1, 0x80000001, 1, 1]
    ∧ (after (.atomicReply 1) (home (.aswp 3 4 5 true .core))).rd 3 = 0xFFFFFFFF80000001
    ∧ (after (.atomicReply 1) (home (.aswp 3 4 5 false .dev))).rd 3 = 0x780000001
    ∧ (home (.aswp 3 4 5 false .dev)).physBytes 0x20000 8 = [1, 0, 0, 0, 0, 0, 0, 0] := by
  refine ⟨?_, ?_, ?_, ?_, ?_, ?_⟩ <;> decide +kernel

/-- R307: values at the boundary 2^31 of z = 4 and 2^63 of z = 8. -/
theorem test_amo_values :
    (amoNew .min 4 0x80000000 0x7FFFFFFF 0, amoNew .minn 4 0x80000000 0x7FFFFFFF 0, amoNew .max 8 (2 ^ 63) (2 ^ 63 - 1) 0,
      amoNew .add 8 (2 ^ 64 - 1) 1 0, amoNew .cas 4 5 6 5, amoNew .cas 4 5 6 4)
    = (0x80000000, 0x7FFFFFFF, 2 ^ 63 - 1, 0, 6, 5) := by decide +kernel

/-- R314: on a die that is offline the home performs nothing; R315: the stop parks the context with cause ATOMIC. -/
theorem witness_atomic_stop :
    let s := { after (.aswp 3 4 5 true .core) (user [(4, 0x20000), (5, 1)]) with dies := Vector.replicate 2 .offline }
    let t := after (.atomicAtHome 1 0) s
    let u := after (.atomicStop 1) t
    s.offlineAt 0x20000 = true ∧ t.cur.latch.stop = 2 ∧ t.physBytes 0x20000 4 = [0, 0, 0, 0] ∧ t.cur.faulted = false
    ∧ (t.cur.latch.told, t.pausedCore 1) = (false, none)
    ∧ recorded u 1 = some (.atomic, 0x20000) ∧ (u.proc? 1).map (fun p => (p.latch.sent, p.faulted)) = some (true, true) := by
  refine ⟨?_, ?_, ?_, ?_, ?_, ?_, ?_⟩ <;> decide +kernel

/-- R308, R314: the premises of an AMO at its home; a poisoned sector is stop 1. -/
theorem witness_amo_home :
    let s := after (.aadd 3 4 5 true .core) (withData 0x20000 [1, 0, 0, 0x80, 7] [(3, 0x80000001), (5, 1)])
    let b := { s with poison := [0x20000 / 32] }
    let ok := fun (v : State) => v.cur.latch.sent && v.cur.latch.stop == 0 && !v.cur.latch.done && v.cur.stores == [] && v.memOk
      && v.errs == [] && v.cells == [] && v.entries == [] && readable v v.cur.latch.key 0x20000 4
    (ok s && ok b && !s.rangeBad 0x20000 4 && b.rangeBad 0x20000 4) = true
    ∧ (after (.atomicAtHome 1 0) b).cur.latch.stop = 1
    ∧ (after (.atomicAtHome 1 0) b).physBytes 0x20000 5 = [1, 0, 0, 0x80, 7] := by
  refine ⟨?_, ?_, ?_⟩ <;> decide +kernel

/-- R309 to R311: a gated region with one store to its line, and the line after its home has performed it. -/
theorem witness_region :
    let s := withData 0x20008 [5] [(3, 5), (5, 9)]
    let r := after (.albGated 3 4 1) s
    let t := after (.ale 3) (after (.st 5 4 .d 16) r)
    mayLoad s 0x20000 128 = true ∧ r.cur.region.map (fun g => (g.gate, g.line, g.copy[8]!)) = some (some (8, 5), 0x20000, 5)
    ∧ (after (.alb 4) s).cur.region.map (fun g => g.gate) = some none
    ∧ (after (.st 5 4 .d 16) r).cur.region.map (fun g => (decide (g.access ≤ 8), g.outside)) = some (true, false)
    ∧ (t.cur.latch.kind, t.cur.region.isNone) = (2, true)
    ∧ (after (.atomicAtHome 1 0) t).physBytes 0x20000 24 = [0, 0, 0, 0, 0, 0, 0, 0, 5, 0, 0, 0, 0, 0, 0, 0, 9, 0, 0, 0, 0, 0, 0, 0]
    ∧ traps (user []) (.ale 3) .illegal 0 = true := by
  refine ⟨?_, ?_, ?_, ?_, ?_, ?_, ?_⟩ <;> decide +kernel

/-- R311, R314: the premises of a region at its home; its answer where the gate holds, fails, the line has been touched, is
poisoned, or lies on an offline die. -/
theorem witness_region_home :
    let open_ := fun (gate : Word) => after (.st 5 4 .d 16) (after (.albGated 3 4 1) (withData 0x20008 [5] [(3, gate), (5, 9)]))
    let s := after (.ale 3) (open_ 5)
    let home := fun (v : State) => (after (.atomicAtHome 1 0) v).cur.latch
    let plain := after (.ale 3) (after (.ld 6 4 .d 0) (after (.alb 4) (withData 0x20008 [5] [])))
    (match s.cur.latch.req with
      | .region _ pa stores gate loads touched _ => pa + 128 ≤ hbmTop && stores.all (fun x => decide (pa ≤ x.1 ∧ x.1 + x.2.length ≤ pa + 128))
          && gate == some (8, 5) && !loads && !touched && readable s s.cur.latch.key pa 128
      | _ => false) = true
    ∧ (s.cur.latch.sent, s.cur.latch.stop, s.cur.latch.done, s.cur.stores) = (true, 0, false, [])
    ∧ (s.memOk, s.errs, s.cells, s.entries) = (true, [], [], [])
    ∧ ((home s).done, (home s).result) = (true, some 1)
    ∧ ((home (after (.ale 3) (open_ 6))).done, (home (after (.ale 3) (open_ 6))).result) = (true, some 0)
    ∧ (home (after (.peerMemoryAccess (.write 0x20008 [5])) plain)).result = some 0 ∧ (home plain).result = some 1
    ∧ ((home { s with poison := [0x20000 / 32] }).stop, (home { s with poison := [0x20000 / 32] }).done) = (1, false)
    ∧ (home { s with dies := Vector.replicate 2 .offline }).stop = 2 := by
  refine ⟨?_, ?_, ?_, ?_, ?_, ?_, ?_, ?_, ?_⟩ <;> decide +kernel

/-- R370, R371: with nothing to wait for; with an AMO in the latch and a store waiting, before its home has performed it and,
for LOADS, after. -/
theorem witness_fence :
    let s := after (.st 5 4 .d 64) (after (.aswp 3 4 5 true .core) (sup [(4, 0x20000), (5, 1)]))
    let d := after (.st 5 4 .d 64) (after (.atomicAtHome 1 0) (after (.aswp 3 4 5 true .core) (sup [(4, 0x20000), (5, 1)])))
    nextIs (exec (.fence true .all .sys) (sup [])) (fun t => t.cur.ip == 0x10004) = true
    ∧ (s.cur.latch.sent, s.cur.latch.kind, s.cur.latch.done, s.cur.stores.length, s.curCore) = (true, 1, false, 1, 0)
    ∧ nextIs (exec (.fence false .loads .core) s) (fun t => t.cur.ip == s.cur.ip) = true
    ∧ (d.cur.latch.sent, d.cur.latch.done, d.cur.stores.length) = (true, true, 1)
    ∧ nextIs (exec (.fence false .loads .core) d) (fun t => t.cur.ip == d.cur.ip + 4 && t.cur.stores.length == 1) = true := by
  refine ⟨?_, ?_, ?_, ?_, ?_⟩ <;> decide +kernel

/-- R308: after an AMO to S3 the ADD at IP that reads S3 takes its place and does not retire, one that does not runs; an EXIT may
retire with the request out, and a stop of it then is for information (R156). -/
theorem witness_beside_latch :
    let s := after (.aswp 3 4 5 true .core) (sup [(4, 0x20000), (5, 1)])
    let e := { after (.exit 5) (after (.aswp 3 4 5 true .core) (user [(4, 0x20000), (5, 1)])) with
      dies := Vector.replicate 2 .offline }
    (s.cur.latch.req.dest, s.cur.latch.resent, takesEntry (.add 6 3 5)) = (some 3, false, false)
    ∧ (s.waitsForLatch (.add 6 3 5), s.waitsForLatch (.add 3 6 5), s.waitsForLatch (.add 6 4 5)) = (true, true, false)
    ∧ nextIs (s.act (.instr (.add 6 3 5))) (fun t => t.cur.rob.length == 1 && t.rd 6 == 0 && t.cur.ip == 0x10004 && !t.mayRetire t.cur)
      = true
    ∧ nextIs (s.act (.instr (.add 6 4 5))) (fun t => t.rd 6 == 0x20001 && t.cur.rob == []) = true
    ∧ (e.proc? 1).any (fun p => p.latch.sent && p.place == .exiting 0 0) = true
    ∧ nextIs (exec (.atomicStop 1) (after (.atomicAtHome 1 0) e)) (fun t => (t.proc? 1).any (fun p => !p.latch.sent)
        && (t.part 1).infos.map (fun r => r.detail) == [6]) = true := by
  refine ⟨?_, ?_, ?_, ?_, ?_, ?_⟩ <;> decide +kernel

/-! ### The scratchpad and its table -/

/-- The supervisor with scratchpad page 1 resident: readable, writable, dirty; page 2 likewise, with no copy of either poisoned. -/
def scratch (regs : List (SReg × Word)) : State :=
  let s := sup regs
  { s with
    cur := { s.cur with spDir := [(1, 101), (2, 102)] }
    pages := [101, 102].map (fun i => { id := i, core := 0, owner := 1, page := zeroPage, stamp := 0, hurt := false, err := none }), nextId := 103
    cores := s.cores.set 0 { s.core 0 with stlb := [1, 2].map (fun v => { pid := 1, page := v, entry := 0x702 }) } }

/-- R277: a store to page 1 is read back; the entry's flags, the page and its pins are as the statement asks. -/
theorem witness_scratch :
    let s := scratch [(3, 0x1122334455667788), (4, 0x1FF8)]
    let t := after (.pst 3 4 .w 0) s
    okIs (s.sttGet 1 1) (fun r => sttState r.2 == 2 && sttR r.2 && sttW r.2 && sttDirty r.2
      && ((r.1.pages.find? (fun q => q.id == 101)).bind PoolPage.err).isNone
      && r.1.cur.resident? 1 == some 101 && !(r.1.pageOf 101).poison && decide (r.1.cur.pins 101 ≤ 1)) = true
    ∧ leaves t [(.pld 3 4 .d 0, 0x55667788), (.pld 3 4 .w 0, 0x55667788), (.pld 3 4 .b 3, 0x55)] = true := by
  constructor <;> decide +kernel

theorem test_scratch_page :
    let q := pageStore zeroPage 4088 8 0x1122334455667788
    (pageRead q 4088 8, pageRead q 4087 1, pageRead q 4095 1, q.ftype) = (0x1122334455667788, 0, 0x11, 0xF) := by
  decide +kernel

/-- R278: the two pages as a pair of tile registers, and a pair as pages; a misaligned address, one past 16 MiB. -/
theorem witness_scratch_tiles :
    let s := scratch [(4, 0x1000)]
    let v := after (.tzero (t 4 1)) s
    okIs (s.spChecks false (spPages 0x1000 2)) (fun r => r.2.all (fun e => sttState e != 1)) = true
    ∧ (after (.spld (t 2 1) 4) s).cur.tref 3 = .pool 102
    ∧ okIs (v.spChecks true (spPages 0x1000 2)) (fun r => okIs (r.1.spstAll ((List.range 2).zip ((spPages 0x1000 2).zip ((TGrp.regs (t 4 1)).zip r.2))))
        (fun _ => true)) = true
    ∧ (v.cur.tref 4, v.cur.tref 5) = (.pool 103, .pool 104)
    ∧ ((after (.spst 4 (t 4 1)) v).cur.resident? 1, (after (.spst 4 (t 4 1)) v).cur.resident? 2) = (some 103, some 104)
    ∧ (traps (user [(4, 0x1001)]) (.spld (t 2 1) 4) .misalign 0x1001 && traps (user [(4, 0xFFF000)]) (.spst 4 (t 2 1)) .spfault 0xFFF000
        && traps (user [(4, 0xFFFFFFFFFFFFF000)]) (.spld (t 2 1) 4) .spfault 0xFFFFFFFFFFFFF000)
      = true := by
  refine ⟨?_, ?_, ?_, ?_, ?_, ?_⟩ <;> decide +kernel

/-- R279, R280: STTW of each kind on page 1 and STTI, with the checks that TableForms asks; op 7 and a bad address. -/
theorem witness_table :
    let s := scratch [(4, 0x1000), (5, 0xC0), (6, 0xC2), (7, 0xC5), (8, 7)]
    let ready := fun (v : Word) => okIs s.sttExists (fun p => okIs (s.sttGet p.pid 1) (fun r =>
      okIs (r.1.sttwCopy p 1 (v.toNat % 8)) (fun s2 => okIs (s2.sttPut p.pid 1 (sttwEntry r.2 v)) (fun _ => true))))
    (ready 0xC0 && ready 0xC2 && ready 0xC5 && ready 0x4) = true
    ∧ nextIs (exec (.sttw 4 5) s) (fun t => okIs (t.sttGet 1 1) (fun r => sttState r.2 == 0)) = true
    ∧ nextIs (exec (.sttw 4 6) s) (fun t => okIs (t.sttGet 1 1) (fun r => sttState r.2 == 2 && sttR r.2)) = true
    ∧ nextIs (exec (.stti 4) s) (fun t => t.cur.ip == 0x10004) = true
    ∧ (traps (user [(4, 0x1000), (5, 7)]) (.sttw 4 5) .illegal 0 && traps (user [(4, 0x1000), (5, 5)]) (.sttw 4 5) .privilege 0
        && traps (user [(4, 0x1004)]) (.stti 4) .misalign 0x1004) = true := by
  refine ⟨?_, ?_, ?_, ?_, ?_⟩ <;> decide +kernel

/-! ### Tile memory and tile registers -/

/-- A geometry register: stride, rows, bytes, zero-fill. -/
def withGeom (s : State) (stride : BitVec 32) (rows bytes : Nat) (zf : Bool) : State :=
  { s with cur := { s.cur with g := s.cur.g.set 0 (BitVec.ofNat 128
      (stride.toNat + rows * 2 ^ 32 + bytes * 2 ^ 40 + if zf then 2 ^ 50 else 0)) } }

/-- A tile register filled with a scalar's low bits. -/
def filled (s : State) (g : TGrp) (v : Word) (ti : Ty) : State := after (.tfill g 9 ti) (s.wr 9 v)

/-- A tile register whose page is poisoned. -/
def poisoned (s : State) (k : Nat) : State :=
  { s with cur := { s.cur with t := s.cur.t.set! k (.pool 900) }
           pages := s.pages ++ [{ id := 900, core := 0, owner := s.cur.pid, page := { zeroPage with poison := true }, stamp := 0, hurt := false, err := none }] }

/-- Whether no page of a group is poisoned. -/
def clean (s : State) (g : TGrp) : Bool := (s.group g).all (fun p => !p.poison)

/-- R297: stride -32, 64 rows of 1023 bytes, zero-fill. -/
theorem test_gset :
    (after (.gset 7 4 5) (sup [(4, 0xFFFFFFE0), (5, 0x7FF40)])).geom 7 = { stride := -32, rows := 64, bytes := 1023, zf := true } := by
  decide +kernel

/-- R302: two rows of 3 bytes, at 0x20000 and 0x20020, with and without zero-fill over a page of ones. -/
theorem witness_tile_load :
    let s := withData 0x20000 [1, 2, 3, 4] []
    let z := filled (withGeom s 32 2 3 true) (t 1 0) 0x01010101 .i32
    let k := filled (withGeom s 32 2 3 false) (t 1 0) 0x01010101 .i32
    let rows := fun (u : State) => okIs (u.rowsOf (u.rd 4) (u.geom 0) none .read true false) (fun r => r.length == 2)
    (rows z && (z.geom 0).valid 1 && rows k && clean k (t 1 0)) = true
    ∧ nextIs (exec (.tld (t 1 0) 4 0 .normal) z) (fun u =>
        elemAt .i32 (u.group (t 1 0)) 0 0 == 0x30201 && elemAt .i32 (u.group (t 1 0)) 0 1 == 0 && elemAt .i32 (u.group (t 1 0)) 2 0 == 0) = true
    ∧ nextIs (exec (.tld (t 1 0) 4 0 .stream) k) (fun u =>
        elemAt .i32 (u.group (t 1 0)) 0 0 == 0x1030201 && elemAt .i32 (u.group (t 1 0)) 1 0 == 0x1000000
          && elemAt .i32 (u.group (t 1 0)) 2 0 == 0x1010101) = true := by
  refine ⟨?_, ?_, ?_⟩ <;> decide +kernel

/-- R302, the bytes of a page from two rows: zero-fill beyond the row's bytes and beyond the rows. -/
theorem witness_tile_load_bytes :
    let s := withData 0x20000 [1, 2, 3, 4] []
    let l := loadPages { stride := 32, rows := 1, bytes := 3, zf := true } 1 [] (s.readRows [[(0, 0x20000, 3)]])
    s.keyAt s.curCore s.curPart 0 = none ∧ s.seals = [] ∧ s.garbled = []
    ∧ (pageRead (l.getD 0 zeroPage) 2 1, pageRead (l.getD 0 zeroPage) 3 1, pageRead (l.getD 0 zeroPage) 64 1) = (3, 0, 0) := by
  refine ⟨?_, ?_, ?_, ?_⟩ <;> decide +kernel

/-- R303, R304: indices 32 and 0 of T2 place rows 0 and 1; a store leaves its pieces waiting, TRED a request; an invalid geometry. -/
theorem witness_tile_store :
    let s := filled (withGeom (withData 0x20000 [1, 2, 3, 4] []) 32 1 64 true) (t 1 0) 0x01020304 .i32
    let v := filled s (t 2 0) 32 .i32
    okIs (v.rowsOf 0x20000 (v.geom 0) none .write false true) (fun r => r.flatten.length == 1) = true
    ∧ okIs (v.rowsOf 0x20000 (v.geom 0) (some (v.group (t 2 0))) .write false true) (fun r => r == [[(0x20020, 0x20020, 64)]]) = true
    ∧ (clean v (t 1 0) && clean v (t 2 0) && (v.geom 0).valid 1) = true
    ∧ nextIs (exec (.tst 4 0 (t 1 0) .keep) v) (fun u => u.cur.stores.map (fun x => (x.pa, x.bytes.take 4)) == [(0x20000, [4, 3, 2, 1])]) = true
    ∧ nextIs (exec (.tstx (t 1 0) 4 0 2 .normal) v) (fun u => u.cur.stores.map (fun x => x.pa) == [0x20020]) = true
    ∧ nextIs (exec (.tldx (t 3 0) 4 0 2 .normal) v) (fun u => elemAt .i32 (u.group (t 3 0)) 0 0 == 0) = true
    ∧ nextIs (exec (.tred 4 0 (t 1 0) .i32 .normal) v) (fun u => u.cur.latch.kind == 3 && u.cur.latch.rowsLeft.length == 1) = true
    ∧ nextIs (exec (.tpf 4 0 .normal) v) (fun u => u.cur.ip == v.cur.ip + 8) = true
    ∧ (Geom.valid { stride := 0, rows := 0, bytes := 64, zf := true } 1, Geom.valid { stride := 0, rows := 65, bytes := 64, zf := true } 1,
        Geom.valid { stride := 0, rows := 64, bytes := 65, zf := true } 1, Geom.valid { stride := 0, rows := 64, bytes := 512, zf := true } 8)
      = (false, false, false, true)
    ∧ traps (withGeom (user [(4, 0x20000)]) 32 65 64 true) (.tst 4 0 (t 1 0) .normal) .illegal 0 = true := by
  refine ⟨?_, ?_, ?_, ?_, ?_, ?_, ?_, ?_, ?_, ?_⟩ <;> decide +kernel

/-- R303: what two rows of 64 bytes leave waiting: address, bytes of each row, hint; R305: a row whose leaf is cached. -/
theorem witness_tile_store_list :
    let s := withGeom (withData 0x20000 [1, 2, 3, 4] []) 96 2 64 true
    let v := { s with cur := { s.cur with t := s.cur.t.set! 1 (.pool 900) }
                      pages := [{ id := 900, core := 0, owner := 1, page := pageWithElem .i8 zeroPage 1 0 7, stamp := 0, hurt := false, err := none }] }
    let x := after (.ld 6 4 .d 0) (withGeom (withData 0x20000 [1, 2, 3, 4] []) 96 1 64 true)
    let y := { x with l2 := [] }
    okIs (v.rowsOf 0x20000 (v.geom 0) none .write false true) (fun r => r.length == (v.geom 0).rows
      && r.all (fun l => (l.map (fun p => p.2.2)).sum == 64)) = true
    ∧ (after (.tst 4 0 (t 1 0) .keep) v).cur.stores.map (fun x => ((storeView x).1, (storeView x).2.1, (storeView x).2.2.1.take 2, x.hint))
      = [(0x20000, 0x20000, [0, 0], .keep), (0x20060, 0x20060, [7, 0], .keep)]
    ∧ (match y.cachedLeaf y.curCore y.curPart 0x20000 with
        | some e => leafAddr e.level e.leaf 0x20000 == 0x20000 && (y.curPart.checkLeaf true 0x20000 64 .read 0x20000 e.leaf).isNone
        | none => false) = true
    ∧ ((y.geom 0).rows, (y.geom 0).stride % 32, (y.geom 0).bytes, y.errs, y.offlineAt 0x20000) = (1, 0, 64, [], false)
    ∧ ((after (.tpf 4 0 .stream) y).line? (0x20000 / 128)).map (fun l => (l.hint, l.sectors.length)) = some (.stream, 2) := by
  refine ⟨?_, ?_, ?_, ?_, ?_⟩ <;> decide +kernel

/-- R206, R210, R296: an entry whose engine has translated, found a fault, or read; a die of its rows gone since. -/
theorem witness_tile_early :
    let s := filled (withGeom (withData 0x20000 [1, 2, 3, 4] []) 32 1 64 true) (t 1 0) 0x01020304 .i32
    let rows := [[((0x20000 : Word), 0x20000, 64)]]
    let with_ := fun (e : Early) => { s with cur := { s.cur with early := some e } }
    let e : Early := { rows := rows, span := [(0x20000, 64)], fault := none, data := none }
    let f : Early := { e with fault := some (.at .gprot 0x20000) }
    let v := with_ { e with data := some [[(9, true)]] }
    (s.cur.early, s.cur.stores) = (none, [])
    ∧ (with_ e).memOff (with_ e).curPart 0x20000 = false
    ∧ ({ with_ e with dies := Vector.replicate 2 .offline } : State).memOff s.curPart 0x20000 = true
    ∧ okIs ((with_ e).rowsNow 0 (s.geom 0) none .write false true) (fun r => r == rows) = true
    ∧ (v.loadNow 0 (s.geom 0) false .normal rows).2 = [[(9, true)]]
    ∧ trapped (after (.tred 4 0 (t 1 0) .i32 .normal) (with_ f)) ≠ []
    ∧ (after (.tred 4 0 (t 1 0) .i32 .normal) (with_ e)).cur.latch.rowsLeft.length = 1 := by
  refine ⟨?_, ?_, ?_, ?_, ?_, ?_, ?_⟩ <;> decide +kernel

/-- R304, R314: the premises of a row at its home; poison and an offline die. -/
theorem witness_tred_home :
    let s := after (.tred 4 0 (t 1 0) .i32 .normal)
      (filled (withGeom (withData 0x20000 [1, 2, 3, 4] []) 32 1 64 true) (t 1 0) 0x01020304 .i32)
    (match s.cur.latch.req with
      | .tred ti rows _ _ => ti == .i32 && rows.all (fun r => r.row == 0 && r.keys.length == r.elems.length && r.elems.length == 16
          && s.cur.latch.rowFirst r && decide (r.elems.Pairwise (fun x y => x.1 + 4 ≤ y.1 ∨ y.1 + 4 ≤ x.1))
          && (r.elems.zip r.keys).all (fun e => decide (e.1.1 + 4 ≤ hbmTop) && readable s e.2 e.1.1 4 && !s.rangeBad e.1.1 4))
      | _ => false) = true
    ∧ (s.cur.latch.sent, s.cur.latch.stop, s.cur.latch.done, s.cur.latch.rows) = (true, 0, false, 0)
    ∧ (s.cur.stores, s.memOk, s.errs, s.cells.length + s.entries.length) = ([], true, [], 0)
    ∧ (after (.atomicAtHome 1 0) { s with poison := [0x20000 / 32] }).cur.latch.stop = 1
    ∧ (after (.atomicAtHome 1 0) { s with dies := Vector.replicate 2 .offline }).cur.latch.stop = 2 := by
  refine ⟨?_, ?_, ?_, ?_, ?_⟩ <;> decide +kernel

/-- R304: the home adds the row of T1 into memory. -/
theorem test_tred_at_home :
    let s := filled (withGeom (withData 0x20000 [1, 2, 3, 4] []) 32 1 64 true) (t 1 0) 0x01020304 .i32
    (after (.atomicAtHome 1 0) (after (.tred 4 0 (t 1 0) .i32 .normal) s)).physBytes 0x20000 8 = [5, 5, 5, 5, 4, 3, 2, 1] := by
  decide +kernel

/-- R195, R211, R212: an octet's last register, the elements of each move, the bounds of TGET and TINS. -/
theorem witness_tile_moves :
    let s := sup [(4, 63), (5, 15), (6, 0xABCD5678), (7, 1023), (8, 16), (10, 1024)]
    let f := filled s (t 0 0) 0x80000001 .i32
    TGrp.ok (t 24 3) = true ∧ s.cur.pid = 1
    ∧ nextIs (exec (.tzero (t 24 3)) s) (fun u => u.cur.tref 31 == .pool (s.nextId + 7)) = true
    ∧ leaves f [(.tget 3 (t 0 0) 4 5 .i32, 0xFFFFFFFF80000001), (.tget 3 (t 0 0) 4 5 .n32, 0x80000001)] = true
    ∧ nextIs (exec (.tmov (t 1 0) (t 0 0)) f) (fun u => u.cur.tref 1 == f.cur.tref 0) = true
    ∧ nextIs (exec (.tins (t 1 0) (t 0 0) 6 7 .i32) f) (fun u => elemAt .i32 (u.group (t 1 0)) 63 15 == 0xABCD5678
        && elemAt .i32 (u.group (t 1 0)) 63 14 == 0x80000001) = true
    ∧ nextIs (exec (.tiota (t 1 0) .n8 true) s) (fun u => elemAt .n8 (u.group (t 1 0)) 5 63 == 63) = true
    ∧ nextIs (exec (.tiota (t 1 0) .f32 false) s) (fun u => elemAt .f32 (u.group (t 1 0)) 63 0 == 0x427C0000) = true := by
  refine ⟨?_, ?_, ?_, ?_, ?_, ?_, ?_, ?_⟩ <;> decide +kernel

theorem witness_tile_move_traps :
    let u := user [(4, 63), (5, 15), (7, 1023), (8, 16), (9, 64), (10, 1024)]
    (traps u (.tget 3 (t 0 0) 4 8 .i32) .illegal 0 && traps u (.tget 3 (t 0 0) 9 5 .i32) .illegal 0
      && traps u (.tins (t 1 0) (t 0 0) 6 10 .i32) .illegal 0 && traps (poisoned u 0) (.tget 3 (t 0 0) 4 5 .i32) .poison 0
      && traps (poisoned u 0) (.tins (t 1 0) (t 0 0) 6 7 .i32) .poison 0) = true := by decide +kernel

theorem test_element_replaced :
    let p := pageWithElem .i16 zeroPage 63 31 0xBEEF
    (elemAt .i16 [p] 63 31, elemAt .i16 [p] 63 30, p.ftype, p.poison) = (0xBEEF, 0, 7, false) := by decide +kernel

/-! ### The matrix engine and the vector engines -/

/-- R215 to R223: 64 products of 1 by 1 in E4M3 (code 0x38) over clean pages make 64; over I8 1 by -1, -64; POISON. -/
theorem witness_matrix :
    let s := filled (filled (sup []) (t 8 0) 0x38 .e4m3) (t 9 0) 0x38 .e4m3
    let r := filled (filled (sup []) (t 8 0) 1 .i8) (t 9 0) 0xFF .i8
    let x : MmaOp := ⟨0, t 8 0, t 9 0, .e4m3, .e4m3, .f32, false, false⟩
    let y : MmaOp := ⟨0, t 8 0, t 9 0, .i8, .i8, .i32, false, false⟩
    (clean s (t 8 0) && clean s (t 9 0) && clean s (t 0 2)) = true
    ∧ nextIs (exec (.mmz x) s) (fun u => elemAt .f32 (u.group (t 0 2)) 63 63 == 0x42800000) = true
    ∧ nextIs (exec (.mma y) r) (fun u => elemAt .i32 (u.group (t 0 2)) 0 63 == 0xFFFFFFC0) = true
    ∧ traps (poisoned (user []) 8) (.mmz x) .poison 0 = true ∧ traps (poisoned (user []) 3) (.mma x) .poison 0 = true
    ∧ nextIs (exec (.mmz x) (poisoned (sup []) 3)) (fun u => u.cur.ip == 0x10008) = true := by
  refine ⟨?_, ?_, ?_, ?_, ?_, ?_⟩ <;> decide +kernel

theorem test_matrix_pass :
    passResult .i32 .rne true (some (Exact.int (2 ^ 31 - 1))) [Exact.int 6] = (2 ^ 31 - 1, { Flags.none with saturated := true })
    ∧ passResult .f32 .rne false (some (Exact.int 0)) (passTerms false [] [] [[Exact.int 2, Exact.int (-1)]] [[Exact.int 3, Exact.int 3]]) = (0x40400000, Flags.none) := by
  constructor <;> decide +kernel

/-- R215, R216, R219: 64 products of 1 by 1 over an accumulator of 64 make 128 in each form; the passes of the statement. -/
theorem witness_matrix_accumulate :
    let s := filled (filled (filled (sup []) (t 8 0) 0x38 .e4m3) (t 9 0) 0x38 .e4m3) (t 0 2) 0x42800000 .f32
    let x : MmaOp := ⟨0, t 8 0, t 9 0, .e4m3, .e4m3, .f32, false, false⟩
    let ones := List.replicate 1 ((s.group (t 8 0)).getD 0 zeroPage)
    (clean s (t 8 0) && clean s (t 9 0) && clean s (t 0 2) && MmaOp.ok x false && MmaOp.ok x true) = true
    ∧ [Instr.mma x, .mmas x].map (fun i => elemAt .f32 ((after i s).group (t 0 2)) 5 63) = [0x43000000, 0x43000000]
    ∧ elemAt .f32 ((after (.mmzs x) s).group (t 0 2)) 5 63 = 0x42800000
    ∧ ones.all (fun p => elemAt .e4m3 [p] 5 63 == 0x38) = true := by
  refine ⟨?_, ?_, ?_, ?_⟩ <;> decide +kernel

/-- R98, R101, R102: -0 alone sums to -0; infinities of both signs, of one, and a NaN. -/
theorem witness_exact_sum :
    isNum (Exact.int 3) = true ∧ ((exactSum [Exact.zero true, Exact.zero true]).neg?, (exactSum [Exact.zero true, Exact.zero false]).neg?)
      = (true, false)
    ∧ exactSum [.inf true false, Exact.int 1, .inf false false] = .nan true ∧ exactSum [Exact.int 1, .inf true false] = .inf true false
    ∧ exactSum [Exact.int 1, .inf false false] = .inf false false ∧ (exactSum [.nan false, .inf true false]).isNan = true := by
  refine ⟨?_, ?_, ?_, ?_, ?_, ?_⟩ <;> decide +kernel

/-- The vector forms over clean groups: one of each number of sources; R233, R239, R241, R248, R252. -/
theorem witness_vector :
    let s := filled (filled (filled (sup [(5, 0x40000000)]) (t 1 0) 0x3FC00000 .f32) (t 2 0) 0x40000000 .f32) (t 3 0) 0xBE800000 .f32
    let d := t 4 0
    let at0 := fun (i : Instr) (ti : Ty) => match exec i s with | .next u => elemAt ti (u.group d) 63 0 | _ => 7
    let v2 : V2 := ⟨d, t 1 0, .f32, .f32, .rne, false⟩
    let v3 : V3 := ⟨d, t 1 0, t 2 0, .f32, .f32, .rne, false⟩
    let v4 : V4 := ⟨d, t 1 0, t 2 0, t 3 0, .f32, .f32, .rne, false⟩
    (clean s (t 1 0) && clean s (t 2 0) && clean s (t 3 0)) = true
    ∧ (oneSource s (.vabs v2)).isSome = true ∧ (twoSources s (.vadd v3)).isSome = true ∧ (threeSources (.vfma v4)).isSome = true
    ∧ [(Instr.vadd v3, Ty.f32), (.vsub v3, .f32), (.vmul v3, .f32), (.vdiv v3, .f32), (.vmin v3, .f32), (.vmax v3, .f32), (.vfma v4, .f32),
        (.vfms v4, .f32), (.vadds ⟨d, t 1 0, 5, .f32, .f32, .rne, false⟩, .f32), (.vmuls ⟨d, t 1 0, 5, .f32, .f32, .rne, false⟩, .f32),
        (.vfmas ⟨d, t 1 0, 5, t 3 0, .f32, .f32, .rne, false⟩, .f32), (.vneg v2, .f32), (.vabs v2, .f32)].map (fun x => at0 x.1 x.2)
      = [0x40600000, 0xBF000000, 0x40400000, 0x3F400000, 0x3FC00000, 0x40000000, 0x40300000, 0x40500000, 0x40600000, 0x40400000, 0x40300000,
         0xBFC00000, 0x3FC00000] := by
  refine ⟨?_, ?_, ?_, ?_, ?_⟩ <;> decide +kernel

theorem test_vector_more :
    let s := filled (filled (sup [(5, 1)]) (t 1 0) 0x0000F00F .i32) (t 2 0) 0x00000FF0 .i32
    let d := t 4 0
    let at0 := fun (i : Instr) (ti : Ty) => match exec i s with | .next u => elemAt ti (u.group d) 63 0 | _ => 7
    let v2 := fun (a b : Ty) => (⟨d, t 1 0, a, b, .rne, true⟩ : V2)
    [(Instr.vand d (t 1 0) (t 2 0), Ty.i32), (.vor d (t 1 0) (t 2 0), .i32), (.vxor d (t 1 0) (t 2 0), .i32), (.vnot d (t 1 0), .i32),
      (.vbmap d (t 1 0) (t 2 0) (t 2 0) 0x80, .i32), (.vshl d (t 1 0) .i32 (.imm 4), .i32), (.vshr d (t 1 0) .i32 (.reg 5), .i32),
      (.vsra d (t 1 0) .i16 (.imm 12), .i32), (.vpopc d (t 1 0) .i32 .n32, .n32), (.vcvt (v2 .i32 .f32), .f32), (.vrmax (v2 .i32 .i32), .i32),
      (.vrsum (v2 .i32 .i32), .i32), (.vcmax (v2 .i32 .i32), .i32), (.vbrow (v2 .i32 .i32), .i32), (.vbcol (v2 .i32 .i32), .i32),
      (.vrotr d (t 1 0) (.imm 63), .i32), (.vrotc d (t 1 0) .i16 (.imm 1), .i32), (.vbrot d (t 1 0) (.imm 4), .i32),
      (.vfshl d (t 1 0) (t 2 0) (.imm 8), .i32), (.vfshr d (t 1 0) (t 2 0) (.imm 8), .i32)].map (fun x => at0 x.1 x.2)
    = [0, 0xFFFF, 0xFFFF, 0xFFFF0FF0, 0, 0xF00F0, 0x7807, 0xFFFF, 8, 0x47700F00, 0xF00F, 0xF00F0, 0, 0xF00F, 0xF00F,
       0xF00F, 0xF00F0000, 0xF00F0, 0xF00F00, 0xF000000F] := by decide +kernel

/-- R252: indices 0 to 63 are rows, 64 is not; R194: each poisoned source. -/
theorem witness_permute_and_poison :
    let s := filled (filled (sup []) (t 1 0) 7 .i32) (t 2 0) 63 .i32
    let d := t 4 0
    let u := filled (user []) (t 2 0) 64 .i32
    let v3 : V3 := ⟨d, t 1 0, t 2 0, .f32, .f32, .rne, false⟩
    (permIndices (s.group (single 2))).all (fun k => decide (0 ≤ k ∧ k ≤ 63)) = true
    ∧ nextIs (exec (.vpermr d (t 1 0) 2) s) (fun x => elemAt .i32 (x.group d) 0 0 == 7) = true
    ∧ traps u (.vpermr d (t 1 0) 2) .illegal 0 = true
    ∧ (traps (poisoned u 1) (.vabs ⟨d, t 1 0, .f32, .f32, .rne, false⟩) .poison 0 && traps (poisoned u 1) (.vadd v3) .poison 0
        && traps (poisoned u 2) (.vadd v3) .poison 0 && traps (poisoned u 3) (.vfma ⟨d, t 1 0, t 2 0, t 3 0, .f32, .f32, .rne, false⟩) .poison 0
        && traps (poisoned u 2) (.vpermr d (t 1 0) 2) .poison 0) = true := by
  refine ⟨?_, ?_, ?_, ?_⟩ <;> decide +kernel

/-- R239: the element rule at its last row and column, for a float and an integer form. -/
theorem witness_vector_elements :
    let p := pageWithElem .i8 zeroPage 63 63 0x80
    let x : V3 := ⟨t 0 0, t 1 0, t 2 0, .i8, .i8, .rne, true⟩
    V3.ok x = true ∧ V3.ok { x with ti := .f32, out := .f32 } = true ∧ elemsPerRow .i8 1 = 64
    ∧ (elemAt .i8 (vecTwo fnAdd x [p] [p]).1 63 63, elemAt .i8 (vecTwo fnSub x [p] [p]).1 63 63) = (0x80, 0) := by
  refine ⟨?_, ?_, ?_, ?_⟩ <;> decide +kernel

/-- R239 to R257: each kind of form of the element statements is well formed for some groups and types. -/
theorem witness_element_forms :
    let v2 := fun (a b : Ty) => (⟨t 4 0, t 1 0, a, b, .rne, false⟩ : V2)
    let q := fun (a b : Ty) => (⟨t 4 0, t 8 2, a, b, .rne, true⟩ : V2)
    (V4.ok ⟨t 4 0, t 1 0, t 2 0, t 3 0, .f32, .f32, .rne, false⟩ && V4.ok ⟨t 4 0, t 1 0, t 2 0, t 3 0, .i8, .i8, .rne, true⟩
      && VS.ok ⟨t 4 0, t 1 0, 5, .f32, .f32, .rne, false⟩ && VS3.ok ⟨t 4 0, t 1 0, 5, t 3 0, .i32, .i32, .rne, false⟩
      && (Instr.vcmp (t 4 0) (t 8 2) (t 12 2) .f32 .unord).wf && (Instr.vsel (t 16 2) (t 8 2) (t 12 2) (t 4 0) .f32).wf) = true
    ∧ (V2.ok (v2 .f32 .f32) && V2.ok (v2 .i8 .i8) && V2.okSpread (v2 .f32 .f32) && V2.okFloat (v2 .f32 .f32) && V2.okRow (v2 .i32 .i32)
      && reduceTypes .f32 .f32 && Ty.isQuant .e4m3) = true
    ∧ ([QMode.block, .row, .givenRow 20, .givenBlock 20].map (fun m => (Instr.vqnt (q .f32 .e4m3) m).wf)) = [true, true, true, true]
    ∧ (Instr.vdqn ⟨t 8 2, t 4 0, .e4m3, .f32, .rne, false⟩).wf = true
    ∧ (transposable .f32 2 && Ty.isInt .i8 && (Instr.vpopc (t 4 0) (t 1 0) .i32 .n32).wf) = true := by
  refine ⟨?_, ?_, ?_, ?_, ?_⟩ <;> decide +kernel

/-- R109, R110: the scale of amax 1 for E4M3 is 1.5 times 2^-9 (447 is below 448 / 1, 1 / (1.5 * 2^-9) = 341.3, the next lower scale
2^-9 gives 512); of amax 448, 1.0; of 0, 1.0; of an infinity, none. R106: 1/2, a root of 4, 2^3. -/
theorem test_scales_and_roots :
    (quantScale .e4m3 (Exact.int 1), quantScale .e4m3 (Exact.int 448), quantScale .e4m3 (Exact.zero true), quantScale .i8 (.inf true false))
      = (0x0ED, 0x0FE, 0x0FE, 0x1FF)
    ∧ ((roundFloat .f32 .rne false (Exact.recip (Exact.int 2))).1, (roundFloat .f32 .rne false (Exact.sqrt (Exact.int 4))).1,
        (roundFloat .f32 .rne false (Exact.exp2 (Exact.int 3))).1) = (0x3F000000, 0x40000000, 0x41000000) := by
  constructor <;> decide +kernel

/-- R241, R242, R249: NaN is unordered; a mask byte of 0 takes B; two pairs whose maxima are 1 apart, sums 4 and 2. -/
theorem test_compare_and_merge :
    let nan := pageWithElem .f32 zeroPage 0 0 0x7FC00000
    let p := pageWithElem .f32 (pageWithElem .f32 zeroPage 0 0 0x40000000) 0 1 0x40800000
    let q := pageWithElem .f32 (pageWithElem .f32 zeroPage 0 0 0x3F800000) 0 1 0x40000000
    (elemAt .i8 (vecCompare .f32 .unord 1 1 [nan] [zeroPage]).1 0 0, elemAt .i8 (vecCompare .f32 .lt 1 1 [nan] [zeroPage]).1 0 0,
      elemAt .i8 (vecCompare .f32 .eq 1 1 [zeroPage] [pageWithElem .f32 zeroPage 0 1 0x80000000]).1 0 1) = (0xFF, 0, 0xFF)
    ∧ elemAt .f32 (vecSelect .f32 1 1 [p] [q] [zeroPage]) 0 0 = 0x3F800000
    ∧ (elemAt .f32 (vecMerge [p] [q]).1 0 0, elemAt .f32 (vecMerge [p] [q]).1 0 1) = (0x40000000, 0x40A00000) := by
  refine ⟨?_, ?_, ?_⟩ <;> decide +kernel
/-! ### Channels -/

/-- An end with an operation posted. -/
def posted (o : Option Posted) : EndSt := { EndSt.fresh .proc with post := o }

/-- Two user-mode processes, PID 1 in slot 0 of core 0 and PID 2 in slot 0 of core 1, at the two ends of channel 1, each
through its E0; the cell and both entries are the device's own, so that no memory is reached. -/
def linked (e0 e1 : EndSt) (regs : List (SReg × Word)) : State :=
  let s := user regs
  let h := fun (k : Nat) => (BitVec.ofNat 32 (0x3FFFFF - k) : Word32)
  let q := { s.cur with pid := 2, place := .resident 1 0, home := 1, e := s.cur.e.set 0 (h 1) }
  let entry := fun (k : Nat) => ({ part := 1, dh := true, index := 0x3FFFFF - k, gen := 0, cell := 1, number := k, owner := BitVec.ofNat 32 (k + 1),
                                   arrived := false, live := true } : Entry)
  { s with
    cur := { s.cur with e := s.cur.e.set 0 (h 0) }, procs := [q], entries := [entry 0, entry 1], nextId := 2, nextPid := 3
    cores := s.cores.set 1 { Core.reset with phys := 1, slots := #v[some 2, none, none, none] }
    cells := [{ id := 1, part := 1, chid := 0, dh := true, kind := .chan, end0 := e0, end1 := e1, bar := none }] }

/-- Both ends hold an operation. -/
def facing (x y : Posted) (regs : List (SReg × Word)) : State := linked (posted (some x)) (posted (some y)) regs

/-- What Facing asks, as a test. -/
def isFacing (s : State) : Bool :=
  match s.cell? 1 with
  | none => false
  | some c => c.kind == .chan && c.bar.isNone && c.end0.post.isSome && c.end1.post.isSome && !c.end0.post.any Posted.isOffer
      && !c.end1.post.any Posted.isOffer && !c.end0.closed && !c.end1.closed && c.end0.held.isNone && c.end1.held.isNone
      && s.endOwner c false == some 1 && s.endOwner c true == some 2
      && (match s.proc? 1, s.proc? 2 with
          | some p, some q => p.pid == 1 && q.pid == 2 && p.isResident && q.isResident && (s.pausedCore 1).isNone && (s.pausedCore 2).isNone
          | _, _ => false)

def okEnd (s : State) (kinds : List Nat) : Bool := okIs (s.checkE 0 kinds) (fun r => okIs (s.reach r.1 r.2) (fun _ => true))

/-- A property of a process of a state. -/
def procIs (s : State) (pid : Pid) (f : Proc → Bool) : Bool := (s.proc? pid).any f

/-- R319, R348: EINFO, EMOV, CHCLOSE on a live end, on an empty register and on a handle that names nothing. -/
theorem witness_endpoints :
    let s := linked (posted none) (posted none) []
    let b := { s with cur := { s.cur with e := s.cur.e.set 1 5 } }
    (okEnd s [1, 2, 3, 4, 5] && s.rdE 1 == 0 && okEnd s.release [1, 2, 3, 4, 5]) = true
    ∧ leaves s [(.einfo 3 0, 0x2200000000000000), (.einfo 3 1, 0)] = true
    ∧ (nextIs (exec (.emov 1 0) s) (fun u => u.rdE 1 == 0x3FFFFF && u.rdE 0 == 0 && u.cur.waitGen == s.cur.waitGen + 1)) = true
    ∧ (traps b (.emov 1 0) .endpoint 0 && traps s (.emov 0 1) .endpoint 0) = true
    ∧ (b.rdE 1 != 0 && (b.entryOf b.cur.part b.cur.pid (b.rdE 1)).isNone) = true ∧ leaves b [(.einfo 3 1, 0xE000000000000000)] = true
    ∧ nextIs (exec (.chclose 0) s) (fun u => u.rdE 0 == 0 && (u.cell? 1).any (fun c => c.end0.closed && !c.end1.closed)) = true := by
  refine ⟨?_, ?_, ?_, ?_, ?_, ?_, ?_⟩ <;> decide +kernel

/-- A free number below n is found where none below it is used. -/
theorem chooseFree_out (s : State) (n lo : Nat) (used : List Nat) (h : lo < n) (hu : ∀ x ∈ used, n ≤ x) :
    ∃ k, s.chooseFree n lo used = some k ∧ k < n := by
  have hl : lo + Config.freeIndex s.draws % (n - lo) < n := by
    have := Nat.mod_lt (Config.freeIndex s.draws) (show 0 < n - lo by omega)
    omega
  have hn : (lo + Config.freeIndex s.draws % (n - lo)) ∉ used := fun hm => by have := hu _ hm; omega
  exact ⟨_, by simp only [State.chooseFree, firstFree, List.contains_eq_mem, hn, decide_false, Bool.false_eq_true, if_false, if_pos hl], hl⟩

theorem firstFree_one (x lo : Nat) : firstFree [x] lo 2 ≤ lo + 1 := by
  simp only [firstFree, List.contains_cons, List.contains_nil, Bool.or_false, beq_iff_eq]
  split
  · next h => subst h; simp
  · omega

theorem chooseFree_one (s : State) (n lo x : Nat) (h : lo + 1 < n) : ∃ k, s.chooseFree n lo [x] = some k ∧ k < n := by
  have hb : firstFree [x] lo 2 < n := Nat.lt_of_le_of_lt (firstFree_one x lo) h
  show ∃ k, (if firstFree [x] (lo + Config.freeIndex s.draws % (n - lo)) 2 < n then some _ else
    if firstFree [x] lo 2 < n then some _ else none) = some k ∧ k < n
  split
  · next h => exact ⟨_, rfl, h⟩
  · exact ⟨_, rfl, hb⟩

/-- Entries and cells are found in an area with room. -/
theorem newEntry_out (s : State) (p cell number : Nat) (owner : Pid) (ha : (s.part p).charea.getLsbD 5 = true)
    (hu : ∀ x ∈ (s.entries.filter (fun (e : Entry) => e.part == p && e.live)).map Entry.index, 4 * 2 ^ ((s.part p).charea.toNat % 32) ≤ x) :
    ∃ r, s.newEntry p false cell number owner = some r := by
  have : 1 < 4 * 2 ^ ((s.part p).charea.toNat % 32) := by have := Nat.two_pow_pos ((s.part p).charea.toNat % 32); omega
  obtain ⟨k, hk, -⟩ := chooseFree_out s _ 1 _ this hu
  exact ⟨_, by simp only [State.newEntry, ha, Bool.false_eq_true, if_false, if_true, hk]; rfl⟩

theorem newCell_out (s : State) (p : Nat) (b : Option Barrier) (ha : (s.part p).charea.getLsbD 5 = true)
    (hu : ∀ x ∈ (s.cells.filter (fun c => c.part == p && c.dh == false)).map Cell.chid, 2 ^ ((s.part p).charea.toNat % 32) ≤ x) :
    ∃ r, s.newCell p false .chan .proc .proc b = some r := by
  obtain ⟨k, hk, -⟩ := chooseFree_out s _ 0 _ (Nat.two_pow_pos ((s.part p).charea.toNat % 32)) hu
  exact ⟨_, by simp only [State.newCell, ha, Bool.false_eq_true, if_false, if_true, hk]; rfl⟩

/-- R325, R326: a posting form that passes its checks: with no partner it blocks, with one it completes; each class of form. -/
theorem witness_posting :
    let s := linked (posted none) (posted none) [(4, 9)]
    let r := linked (posted none) (posted (some (.recv 3))) [(4, 9)]
    ((posting s (.send 0 4)).isSome && (posting s (.recvt (t 1 0) 0)).isSome && okEnd s.release [1]) = true
    ∧ ((s.release.post 1 false (.send 9)).settle 1).isNone = true ∧ ((r.release.post 1 false (.send 9)).settle 1).isSome = true
    ∧ nextIs (exec (.send 0 4) s) (fun u => u.cur.wait == .op 1 false && u.cur.ip == 0x10000) = true
    ∧ nextIs (exec (.send 0 4) r) (fun u => u.cur.wait == .none && u.cur.ip == 0x10004 && procIs u 2 (fun q => q.rd 3 == 9 && q.ip == 0x10004)) = true
    ∧ clean s.release (t 1 0) = true ∧ nextIs (exec (.txmrg (t 1 0) (t 1 0) 0) s) (fun u => u.cur.wait == .op 1 false) = true := by
  refine ⟨?_, ?_, ?_, ?_, ?_, ?_, ?_⟩ <;> decide +kernel

/-- R348: SENDE of E1 over E0, of an empty register; RECVE into an empty register and into one that is not. -/
theorem witness_handles :
    let s := linked (posted none) (posted none) []
    let b := { s with cur := { s.cur with e := s.cur.e.set 1 s.cur.e[0] } }
    okEnd s.release [1] = true ∧ okIs (b.release.useE 1) (fun _ => true) = true ∧ s.release.rdE 1 = 0 ∧ b.release.rdE 1 ≠ 0
    ∧ (traps s (.sende 0 1) .endpoint 0 && traps b (.recve 1 0) .endpoint 0x100000000) = true
    ∧ nextIs (exec (.recve 1 0) s) (fun u => u.cur.wait == .op 1 false) = true := by
  refine ⟨?_, ?_, ?_, ?_, ?_, ?_⟩ <;> decide +kernel

/-- R326, R327: both ends hold a pair, in each order and of each class. -/
theorem witness_rendezvous :
    let sr := facing (.send 9) (.recv 3) []
    let rs := facing (.recv 3) (.send 9) []
    let more := fun (s : State) (o : Pid) => { s with
      cells := s.cells ++ s.cells.map (fun c => { c with id := 5, chid := 5, end0 := posted none, end1 := posted none })
      entries := s.entries ++ [{ part := 1, dh := true, index := 7, gen := 0, cell := 5, number := 0, owner := o, arrived := false, live := true }] }
    let h := facing (.sende 1) (.recve 2) []
    let g := more { h with cur := { h.cur with e := h.cur.e.set 1 7 } } 1
    let i := facing (.recve 2) (.sende 1) []
    let j := more { i with procs := i.procs.map (fun q => { q with e := q.e.set 1 7 }) } 2
    let near := fun (s : State) (o : Pid) => (s.entryOf 1 o 7).any (fun f => (s.cell? f.cell).any (fun k => okIs (s.reachEntry f k) (fun _ => true)))
    let five := [pageWithElem .i32 zeroPage 0 0 5]
    let tt := facing (.sendt 0 (.held five)) (.recvt (t 2 0)) []
    let uu := facing (.recvt (t 2 0)) (.sendt 0 (.held five)) []
    let xx := facing (.xcol .sumi 5 3) (.xcol .sumi 6 4) []
    let tx := facing (.txsum (t 1 0) .f32 (.held [zeroPage])) (.txsum (t 2 0) .f32 (.held [zeroPage])) []
    (isFacing sr && isFacing rs && isFacing g && isFacing j && isFacing tt && isFacing uu && isFacing xx && isFacing tx) = true
    ∧ nextIs (exec (.rendezvous 1) sr) (fun u => procIs u 2 (fun q => q.rd 3 == 9 && q.ip == 0x10004) && u.cur.ip == 0x10004) = true
    ∧ nextIs (exec (.rendezvous 1) rs) (fun u => u.rd 3 == 9 && u.cur.ip == 0x10004) = true
    ∧ (near g 1 && near j 2) = true
    ∧ nextIs (exec (.rendezvous 1) g) (fun u => procIs u 2 (fun q => q.e[2] == 7) && u.rdE 1 == 0
        && (u.entries.filter (fun e => e.owner == 2)).map Entry.index == [0x3FFFFE, 7]) = true
    ∧ nextIs (exec (.rendezvous 1) j) (fun u => procIs u 2 (fun q => q.e[1] == 0) && u.rdE 2 == 7
        && (u.entries.filter (fun e => e.owner == 1)).map Entry.index == [0x3FFFFF, 7]) = true
    ∧ (tt.sharedRoom 1 1, uu.sharedRoom 0 1, TGrp.ok (t 2 0)) = (true, true, true)
    ∧ nextIs (exec (.rendezvous 1) tt) (fun u => procIs u 2 (fun q => elemAt .i32 (u.groupOf q (t 2 0)) 0 0 == 5 && q.ip == 0x10008)) = true
    ∧ nextIs (exec (.rendezvous 1) uu) (fun u => elemAt .i32 (u.group (t 2 0)) 0 0 == 5 && u.cur.ip == 0x10008) = true
    ∧ nextIs (exec (.rendezvous 1) xx) (fun u => u.rd 3 == 11 && procIs u 2 (fun q => q.rd 4 == 11)) = true
    ∧ ((pairBoth (.txsum (t 1 0) .f32 (.held [zeroPage])) (.txsum (t 2 0) .f32 (.held [zeroPage]))).isSome && (tx.settle 1).isSome) = true
    ∧ nextIs (exec (.rendezvous 1) tx) (fun u => u.cur.ip == 0x10008 && procIs u 2 (fun q => q.ip == 0x10008)) = true := by
  refine ⟨?_, ?_, ?_, ?_, ?_, ?_, ?_, ?_, ?_, ?_, ?_, ?_⟩ <;> decide +kernel

/-- R326: two sends are no pair. -/
theorem witness_mismatch :
    let s := facing (.send 9) (.send 8) []
    isFacing s = true ∧ (pairOne (.send 9) (.send 8)).isNone = true ∧ (pairBoth (.send 9) (.send 8)).isNone = true
    ∧ procIs s 1 (fun p => !p.sup && !p.faulted) = true ∧ procIs s 2 (fun p => !p.sup && !p.faulted) = true
    ∧ nextIs (exec (.rendezvous 1) s) (fun u => recorded u 1 == some (.chmismatch, 0x100000000) && recorded u 2 == some (.chmismatch, 0x100000000)) = true := by
  refine ⟨?_, ?_, ?_, ?_, ?_, ?_⟩ <;> decide +kernel

/-- R331 on 1.5 and -0.25, and on signed integers. -/
theorem test_exchange_values :
    (exchangeValue .sumf 0x3FC00000 0xBE800000).1 = 0x3FA00000 ∧ (exchangeValue .maxf 0x3FC00000 0xBE800000).1 = 0x3FC00000
    ∧ (exchangeValue .minf 0x3FC00000 0xBE800000).1 = 0xBE800000 ∧ (exchangeValue .maxi (-1) 1).1 = 1 ∧ (exchangeValue .swp 1 2).1 = 2
    ∧ (exchangeValue .sumi (-1) 3).1 = 2 := by decide +kernel

/-- R332 on a signed and an unsigned 3 and 5, and two values of row 3 that TXMRG orders. -/
theorem test_tile_exchange :
    let a := [pageWithElem .i32 zeroPage 63 15 0xFFFFFFFD]
    let b := [pageWithElem .i32 zeroPage 63 15 5]
    (t 1 0).w = (t 2 0).w ∧ elemAt .i32 (exchangeTiles .i32 false a b).1 63 15 = 5 ∧ elemAt .i32 (exchangeTiles .i32 true a b).1 63 15 = 2
    ∧ ((exchangeTiles .i32 true a b).1.map Page.ftype) = [Ty.i32.code]
    ∧ elemAt .f32 (exchangeMerge [zeroPage] [zeroPage]).1 63 15 = 0 := by decide +kernel

/-- PID 1 and PID 2 at a barrier of n endpoints, a of them arrived; whether PID 1's has, and a register E0 of it. -/
def atBarrier (n a : Nat) (mine : Bool) : State :=
  let s := linked (posted none) (posted none) []
  { s with
    cells := s.cells.map (fun c => { c with bar := some { n := n, k := 2, lower := 0, phase := 0, arrived := a } })
    entries := s.entries.map (fun e => if e.number = 0 then { e with arrived := mine } else e) }

/-- R339, R340: the first of two arrivals, the last one, and a second arrival of the same endpoint. -/
theorem witness_barrier :
    let s := atBarrier 2 0 false
    let l := atBarrier 2 1 false
    let w := atBarrier 2 1 true
    (okEnd s.release [2] && okEnd l.release [2] && okEnd w.release [2] && s.release.cur.pid != 0 && s.release.cur.isResident
      && (l.release.barWaiters 1).isEmpty && l.release.cur.wait == .none) = true
    ∧ nextIs (exec (.arrive 0) s) (fun u => u.cur.ip == 0x10004 && ((u.cell? 1).bind Cell.bar).any (fun b => b.arrived == 1)) = true
    ∧ nextIs (exec (.await 0) s) (fun u => u.cur.ip == 0x10004) = true
    ∧ nextIs (exec (.bsync 0) s) (fun u => u.cur.ip == 0x10000 && u.cur.wait == .barrierAwait 0x3FFFFF) = true
    ∧ nextIs (exec (.arrive 0) l) (fun u => ((u.cell? 1).bind Cell.bar).any (fun b => b.phase == 1 && b.arrived == 0)) = true
    ∧ nextIs (exec (.bsync 0) l) (fun u => u.cur.ip == 0x10004 && u.cur.wait == .none) = true
    ∧ nextIs (exec (.arrive 0) w) (fun u => u.cur.wait == .barrierArrive 0x3FFFFF) = true
    ∧ nextIs (exec (.await 0) w) (fun u => u.cur.wait == .barrierAwait 0x3FFFFF) = true
    ∧ nextIs (exec (.bsync 0) w) (fun u => u.cur.wait == .barrierSync 0x3FFFFF) = true := by
  refine ⟨?_, ?_, ?_, ?_, ?_, ?_, ?_, ?_, ?_⟩ <;> decide +kernel

/-- The partition's CHAREA: at 0, two cells and eight entries. -/
def withArea (s : State) : State := { s with parts := s.parts.map (fun p => { p with charea := 0x21, granted := [(0, 2 ^ 30)] }) }

/-- R338, R348: BREP with an endpoint left and with none; BRNEW's count at 1, 2, 4096 and 4097. -/
theorem witness_barrier_forms :
    let s := withArea (atBarrier 3 0 false)
    let f := atBarrier 2 0 false
    (okEnd s [2] && okEnd f [2] && s.rdE 1 == 0) = true
    ∧ (∃ r, s.newEntry 1 false 1 2 1 = some r) ∧ traps f (.brep 1 0) .endpoint 0x100000000 = true
    ∧ (traps (user [(4, 1)]) (.brnew 1 4) .illegal 0 && traps (user [(4, 4097)]) (.brnew 1 4) .illegal 0) = true
    ∧ ∀ n, n = 2 ∨ n = 4096 → ((withArea (user [(4, n)])).rd 4 = n ∧ ∃ r, (withArea (user [(4, n)])).newCell 1 false .chan .proc .proc
        (some { n := n.toNat, k := 1, lower := 0, phase := 0, arrived := 0 }) = some r) := by
  refine ⟨by decide +kernel, newEntry_out _ _ _ _ _ (by decide +kernel) (by decide +kernel), by decide +kernel, by decide +kernel, ?_⟩
  rintro n (rfl | rfl)
  · exact ⟨by decide +kernel, newCell_out _ _ _ (by decide +kernel) (by decide +kernel)⟩
  · exact ⟨by decide +kernel, newCell_out _ _ _ (by decide +kernel) (by decide +kernel)⟩

/-- A device whose partition has a CHAREA of one cell, at 0, its leaf cached; two scratchpad slots at 0x8000, images on. -/
def smallArea (regs : List (SReg × Word)) : State :=
  let s := user regs
  { s with
    parts := s.parts.map (fun p : Part => { p with charea := 0x20, granted := [(0, 2 ^ 30)], sparea := 0x8002, imgarea := 1 })
    cores := s.cores.set 0 { s.core 0 with tcache := [{ asid := 1, level := 0, vpn := 0, leaf := 0x3F }] } }

/-- The one cell, and a state with other cells, entries and counters. -/
def onlyCell (s : State) : Cell :=
  { id := s.nextId, part := 1, chid := 0, dh := false, kind := .chan, end0 := EndSt.fresh .proc, end1 := EndSt.fresh .proc, bar := none }
def with4 (s : State) (cs : List Cell) (n : Nat) (l : List Entry) (d : Nat) : State := { s with cells := cs, nextId := n, entries := l, draws := d }

theorem with4_cachedLeaf (s : State) (cs n l d c p va) : (with4 s cs n l d).cachedLeaf c p va = s.cachedLeaf c p va := rfl
theorem with4_memOff (s : State) (cs n l d p va) : (with4 s cs n l d).memOff p va = s.memOff p va := rfl
theorem with4_rangeBad (s : State) (cs n l d p va) : (with4 s cs n l d).rangeBad p va = s.rangeBad p va := rfl
theorem with4_part (s : State) (cs n l d p) : (with4 s cs n l d).part p = s.part p := rfl
theorem with4_freeSpSlot (s : State) (cs n l d p) : (with4 s cs n l d).freeSpSlot p = s.freeSpSlot p := by
  have a : (with4 s cs n l d).allProcs = s.allProcs := rfl
  have b : (with4 s cs n l d).cores = s.cores := rfl
  simp only [State.freeSpSlot, with4_part, a, b]

/-- What makes the cell and the slots of such a device reachable. -/
structure Small (s : State) : Prop where
  area    : (s.part 1).charea = 0x20
  cells   : s.cells = []
  entries : s.entries = []
  leaf    : s.cachedLeaf 0 (s.part 1) ((s.part 1).cellAddr 0) = some { asid := 1, level := 0, vpn := 0, leaf := 0x3F }
  xlated  : s.xlate 0 (s.part 1) true ((s.part 1).cellAddr 0) 64 .modify = .ok { pa := leafAddr 0 0x3F ((s.part 1).cellAddr 0), level := 0, leaf := 0x3F }
  on      : s.memOff (s.part 1) (leafAddr 0 0x3F ((s.part 1).cellAddr 0)) = false
  good    : s.rangeBad (leafAddr 0 0x3F ((s.part 1).cellAddr 0)) 64 = false
  leaves  : ∀ i < 4, (s.cachedLeaf 0 (s.part 1) ((s.part 1).entryAddr i)).isSome = true
  entryOk : ∀ i < 4, (s.areaXlate (s.part 1) ((s.part 1).entryAddr i) 16 .modify).toOption.any (fun pa => !s.rangeBad pa 16) = true

theorem with4_xlate (s : State) (cs n l d c p sup va z k e) (h : s.cachedLeaf c p va = some e) :
    (with4 s cs n l d).xlate c p sup va z k = s.xlate c p sup va z k := by
  unfold State.xlate
  rw [with4_cachedLeaf, h]

theorem areaXlate_of {s : State} {p : Part} {va : Word} {n : Nat} {k : Access} {x : Xlated} (h : s.xlate 0 p true va n k = .ok x)
    (m : s.memOff p x.pa = false) : s.areaXlate p va n k = .ok x.pa := by
  simp only [State.areaXlate, h, m, Bool.false_eq_true, if_false]

theorem reachCell_of {s : State} {c : Cell} {pa : Nat} (hd : c.dh = false)
    (h : s.areaXlate (s.part c.part) ((s.part c.part).cellAddr c.chid) 64 .modify = .ok pa) (b : s.rangeBad pa 64 = false) :
    s.reachCell c = .ok () := by
  simp only [State.reachCell, hd, h, b, Bool.false_eq_true, if_false]

theorem Small.reach {s : State} (h : Small s) (cs : List Cell) (n : Nat) (l : List Entry) (d : Nat) (b : Option Barrier) :
    (with4 s cs n l d).reachCell { onlyCell s with bar := b } = .ok () := by
  have r := areaXlate_of ((with4_xlate s cs n l d 0 _ true _ 64 .modify _ h.leaf).trans h.xlated) ((with4_memOff s cs n l d _ _).trans h.on)
  exact reachCell_of rfl r ((with4_rangeBad s cs n l d _ _).trans h.good)

/-- An entry of the device's own, or one of the area. -/
def InArea (e : Entry) : Prop := e.dh = true ∨ e.part = 1 ∧ e.dh = false ∧ e.index < 4

theorem with4_areaXlate (s cs n l d p va z k) (h : (s.cachedLeaf 0 p va).isSome = true) :
    (with4 s cs n l d).areaXlate p va z k = s.areaXlate p va z k := by
  obtain ⟨f, hf⟩ := Option.isSome_iff_exists.mp h
  unfold State.areaXlate
  rw [with4_xlate s cs n l d 0 _ true _ z k f hf]
  simp only [with4_memOff]
  cases s.xlate 0 p true va z k <;> rfl

theorem reachEntry_of {s : State} {e : Entry} {c : Cell} (p : Part) (hd : e.dh = false) (hp : s.part e.part = p)
    (h : (s.areaXlate p (p.entryAddr e.index) 16 .modify).toOption.any (fun pa => !s.rangeBad pa 16) = true) :
    s.reachEntry e c = .ok () := by
  subst hp
  revert h
  simp only [State.reachEntry, hd, Bool.false_eq_true, if_false]
  generalize s.areaXlate (s.part e.part) ((s.part e.part).entryAddr e.index) 16 .modify = r
  cases r with
  | error x => intro h; cases h
  | ok pa => intro h; simp only [Except.toOption, Option.any_some, Bool.not_eq_true'] at h; simp [h]

theorem Small.reachEntry {s : State} (h : Small s) (cs : List Cell) (n : Nat) (l : List Entry) (d : Nat) (e : Entry) (c : Cell)
    (he : InArea e) : (with4 s cs n l d).reachEntry e c = .ok () := by
  rcases he with hd | he
  · simp only [State.reachEntry, hd, if_true]
  refine reachEntry_of (s.part 1) he.2.1 (by rw [he.1, with4_part]) ?_
  rw [with4_areaXlate s cs n l d _ _ _ _ (h.leaves e.index he.2.2)]
  simp only [with4_rangeBad]
  exact h.entryOk e.index he.2.2

theorem Small.reachHandle {s : State} (h : Small s) (cs : List Cell) (n : Nat) (l : List Entry) (d : Nat) (c : Cell) (x : Word32)
    (hl : ∀ e ∈ l, InArea e) : (with4 s cs n l d).reachHandle 1 c x = .ok () := by
  unfold State.reachHandle
  split
  · next e he => exact h.reachEntry cs n l d e c (hl e (List.mem_of_find?_eq_some he))
  · rfl

theorem Small.cell {s : State} (h : Small s) (b : Option Barrier) : s.newCell 1 false .chan .proc .proc b
    = some (with4 s [{ onlyCell s with bar := b }] (s.nextId + 1) [] (s.draws + 1), s.nextId) := by
  obtain ⟨k, hk, hl⟩ := chooseFree_out s 1 0 [] (by decide) (by simp)
  obtain rfl : k = 0 := by omega
  simp [State.newCell, h.area, h.cells, h.entries, hk, with4, onlyCell, State.drew]

theorem Small.entry {s : State} (h : Small s) (cs : List Cell) (n d cell number : Nat) (o : Pid) :
    ∃ e x, InArea e ∧ e.part = 1 ∧ e.live = true ∧ (with4 s cs n [] d).newEntry 1 false cell number o = some (with4 s cs n [e] (d + 1), x) := by
  obtain ⟨k, hk, hb⟩ := chooseFree_out (with4 s cs n [] d) 4 1 [] (by decide) (by simp)
  have ha : ((with4 s cs n [] d).part 1).charea = 0x20 := h.area
  have he : (with4 s cs n [] d).entries = [] := rfl
  let e : Entry := { part := 1, dh := false, index := k, gen := 0, cell := cell, number := number, owner := o, arrived := false, live := true }
  refine ⟨e, e.handle, .inr ⟨rfl, rfl, hb⟩, rfl, rfl, ?_⟩
  simp [State.newEntry, ha, he, hk]
  exact ⟨rfl, rfl⟩

theorem chooseFree_lt {s : State} {n lo k : Nat} {used : List Nat} (h : s.chooseFree n lo used = some k) : k < n := by
  unfold State.chooseFree at h
  dsimp only at h
  split at h
  · next hk => exact (Option.some.inj h) ▸ hk
  · split at h
    · next hk => exact (Option.some.inj h) ▸ hk
    · cases h

theorem newEntry_inArea {s t : State} {cell number : Nat} {o : Pid} {x : Word32} (h : s.newEntry 1 false cell number o = some (t, x))
    (ha : (s.part 1).charea = 0x20) (hs : ∀ e ∈ s.entries, InArea e) : ∀ e ∈ t.entries, InArea e := by
  simp only [State.newEntry, ha, Bool.false_eq_true, if_false] at h
  split at h
  · cases h
  · next i hi =>
    cases h
    intro e he
    rcases List.mem_append.mp he with he | he
    · exact hs e (List.mem_of_mem_filter he)
    · rw [List.mem_singleton.mp he]
      exact .inr ⟨rfl, rfl, chooseFree_lt hi⟩

theorem Small.entry2 {s : State} (h : Small s) (cs : List Cell) (n d cell number : Nat) (o : Pid) (e : Entry) (hi : InArea e) (hp : e.part = 1) (hl : e.live = true) :
    ∃ l x, (∀ e ∈ l, InArea e) ∧ (with4 s cs n [e] d).newEntry 1 false cell number o = some (with4 s cs n l (d + 1), x) := by
  have ha : ((with4 s cs n [e] d).part 1).charea = 0x20 := h.area
  have out : ∃ l x, (with4 s cs n [e] d).newEntry 1 false cell number o = some (with4 s cs n l (d + 1), x) := by
    obtain ⟨k, hk, -⟩ := chooseFree_one (with4 s cs n [e] d) 4 1 e.index (by decide)
    have he : (with4 s cs n [e] d).entries = [e] := rfl
    apply Exists.intro
    apply Exists.intro
    simp only [State.newEntry, ha, he, List.filter_cons, hp, hl]
    simp [hk]
    exact ⟨rfl, rfl⟩
  obtain ⟨l, x, hx⟩ := out
  exact ⟨l, x, newEntry_inArea hx ha (fun f hf => by rw [List.mem_singleton.mp hf]; exact hi), hx⟩

theorem newChannel_of {s s1 s2 s3 : State} {part id : Nat} {a b : Pid} {x y : Word32} {c : Cell}
    (e1 : s.newCell part false .chan .proc .proc none = some (s1, id)) (e2 : s1.newEntry part false id 0 a = some (s2, x))
    (e3 : s2.newEntry part false id 1 b = some (s3, y)) (h : s3.cell? id = some c) (r : s3.reachCell c = .ok ())
    (rx : s3.reachHandle part c x = .ok ()) (ry : s3.reachHandle part c y = .ok ()) : s.newChannel part a b = .ok (s3, x, y, id) := by
  simp only [State.newChannel, e1, e2, e3, h, r, rx, ry]

theorem Small.channel {s : State} (h : Small s) (a b : Pid) : ∃ l h0 h1, s.newChannel 1 a b
    = .ok (with4 s [onlyCell s] (s.nextId + 1) l (s.draws + 1 + 1 + 1), h0, h1, s.nextId) := by
  obtain ⟨e, x, hi, hp, hl, e1⟩ := h.entry [onlyCell s] (s.nextId + 1) (s.draws + 1) s.nextId 0 a
  obtain ⟨l, y, hm, e2⟩ := h.entry2 [onlyCell s] (s.nextId + 1) (s.draws + 1 + 1) s.nextId 1 b e hi hp hl
  have h3 : (with4 s [onlyCell s] (s.nextId + 1) l (s.draws + 1 + 1 + 1)).cell? s.nextId = some (onlyCell s) := by
    simp [State.cell?, with4, onlyCell]
  exact ⟨l, x, y, newChannel_of (h.cell none) e1 e2 h3 (h.reach _ _ _ _ none) (h.reachHandle _ _ _ _ _ _ hm) (h.reachHandle _ _ _ _ _ _ hm)⟩

theorem smallArea_small (regs : List (SReg × Word)) (h : regs = [] ∨ regs = [(4, 0x20000), (5, 7)]) :
    Small (smallArea regs) ∧ Small ((smallArea regs).release.newPid).1 := by
  rcases h with rfl | rfl <;>
    refine ⟨⟨?_, ?_, ?_, ?_, ?_, ?_, ?_, ?_, ?_⟩, ⟨?_, ?_, ?_, ?_, ?_, ?_, ?_, ?_, ?_⟩⟩ <;> decide +kernel

/-- R318, R348: a channel in an area of one cell, where the cell is reached; no area, no channel. -/
theorem witness_new_channel :
    ((smallArea []).rdE 0, (smallArea []).rdE 1) = (0, 0) ∧ ((user []).newCell 1 false .chan .proc .proc none).isNone = true
    ∧ traps (user []) (.chnew 0 1) .endpoint 0xFFFFFFFFFFFFFFFF = true ∧ ∃ r, (smallArea []).newChannel 1 1 1 = .ok r := by
  obtain ⟨l, x, y, h⟩ := (smallArea_small [] (.inl rfl)).1.channel 1 1
  exact ⟨by decide +kernel, by decide +kernel, by decide +kernel, _, h⟩

theorem foldl_cur {α : Type} (f : State → α → State) (h : ∀ s x, (f s x).cur = s.cur) : ∀ l s, (List.foldl f s l).cur = s.cur
  | [], _ => rfl
  | x :: l, s => (foldl_cur f h l (f s x)).trans (h s x)

theorem rawPut_cur (s : State) (pa : Nat) (l : List Byte) : (s.rawPut pa l).cur = s.cur := by
  unfold State.rawPut
  split <;> rfl

theorem sealFor_cur (s : State) (key : Option Nat) (pa n : Nat) : (s.sealFor key pa n).cur = s.cur := by
  unfold State.sealFor
  split
  · refine foldl_cur _ (fun u x => ?_) _ _
    unfold State.sealSector
    split
    · rfl
    · dsimp only
      split
      · rfl
      · exact rawPut_cur _ _ _
  · rfl

theorem logEntry_cur (s : State) (part source kind addr : Nat) : (s.logEntry part source kind addr).cur = s.cur := by
  unfold State.logEntry
  split
  · rfl
  · have h : ∀ (u : State) f, (u.updPart part f).cur = u.cur := fun _ _ => rfl
    have k : ∀ (u : State) pa n, (u.wholeMarks pa n).cur = u.cur := fun _ _ _ => rfl
    dsimp only
    rw [h, rawPut_cur, rawPut_cur, k, sealFor_cur]

theorem readSector_cur (s : State) (x : Nat) : (s.readSector x).cur = s.cur := by
  have log : ∀ (u : State) src k pa, (u.logMemory src k pa).cur = u.cur := fun u src k pa => by
    unfold State.logMemory
    split
    · exact logEntry_cur _ _ _ _ _
    · rfl
  unfold State.readSector
  split
  · rfl
  · split
    · rfl
    · dsimp only
      split
      · exact log _ _ _ _
      · exact log _ _ _ _

theorem flushFor_cur (s : State) (pa : Nat) : (s.flushFor pa).cur = s.cur := by
  have arrive : ∀ (u : State) o, (u.arrive o).cur = u.cur := fun u o => by
    unfold State.arrive
    split
    · split
      · exact rawPut_cur _ _ _
      · exact foldl_cur _ (fun v (x : Part) => logEntry_cur v x.num 4 4 _) _ _
    · exact rawPut_cur _ _ _
  unfold State.flushFor
  split
  · rfl
  · exact foldl_cur _ arrive _ _

theorem physZero_cur (s : State) (key : Option Nat) (pa n : Nat) : (s.physZero key pa n).cur = s.cur := by
  have zero : ∀ u : State, (u.rawZero pa n).cur = u.cur := fun u => by unfold State.rawZero; split <;> rfl
  have drop : ∀ u : State, (u.dropL2 pa n).cur = u.cur := fun _ => rfl
  have marks : ∀ u : State, (u.storeMarks pa n).cur = u.cur := fun u => by
    unfold State.storeMarks
    split
    · refine foldl_cur _ (fun u x => ?_) _ _
      unfold State.storeSector
      split
      · rfl
      · exact readSector_cur u x
    · rfl
  rw [State.physZero, drop, zero, marks, sealFor_cur, flushFor_cur]

/-- R151: an entry address on the last word below 2^52 and one past it, a misaligned one; a channel for the child, no slot
and a slot that is cleared. -/
theorem witness_spawn :
    let s := smallArea [(4, 0x20000), (5, 7)]
    let u := s.release
    (traps (user [(4, 2)]) (.spawn 1 4 5 .device 0) .misalign 2 && traps (user [(4, 2 ^ 52)]) (.spawn 1 4 5 .device 0) .gprot (2 ^ 52)) = true
    ∧ okIs (u.movedOk (movedRegs 0)) (fun _ => true) = true ∧ okIs (u.emptyE 1) (fun _ => true) = true
    ∧ okIs (u.movedReach (movedRegs 0)) (fun _ => true) = true ∧ okIs (u.roomForPush u.curCore) (fun v => v == u) = true
    ∧ (user []).freeSpSlot 1 = none
    ∧ ∃ s3 jp je s4, (u.newPid).1.newChannel 1 1 (u.newPid).2 = .ok (s3, jp, je, (u.newPid).1.nextId) ∧ s3.freeSpSlot 1 = some 0
        ∧ s3.clearSlot 1 0 = .ok s4 ∧ s4.curCore = 0 := by
  refine ⟨by decide +kernel, by decide +kernel, by decide +kernel, by decide +kernel, by decide +kernel, by decide +kernel, ?_⟩
  obtain ⟨l, x, y, h⟩ := (smallArea_small [(4, 0x20000), (5, 7)] (.inr rfl)).2.channel 1 ((smallArea [(4, 0x20000), (5, 7)]).release.newPid).2
  generalize hs : ((smallArea [(4, 0x20000), (5, 7)]).release.newPid).1 = s2 at h
  have hl : s2.cachedLeaf 0 (s2.part 1) 0x8000 = some { asid := 1, level := 0, vpn := 0, leaf := 0x3F } := by rw [← hs]; decide +kernel
  have hp : (s2.part 1).sparea = 0x8002 := by rw [← hs]; decide +kernel
  have hx : s2.xlate 0 (s2.part 1) true 0x8000 0x8000 .write = .ok { pa := 0x8000, level := 0, leaf := 0x3F } := by rw [← hs]; decide +kernel
  have hm : s2.memOff (s2.part 1) 0x8000 = false := by rw [← hs]; decide +kernel
  have hf : s2.freeSpSlot 1 = some 0 := by rw [← hs]; decide +kernel
  have hq : pieces 0x8000 0x8000 = [(0x8000, 0x8000)] := by decide +kernel
  have ha : BitVec.ofNat 64 ((0x8002 : Word).toNat / 2 ^ 15 % 2 ^ 37 * 2 ^ 15 + 0 * Config.sttSlotBytes) = 0x8000 := by decide +kernel
  refine ⟨with4 s2 [onlyCell s2] (s2.nextId + 1) l (s2.draws + 1 + 1 + 1), x, y,
    (with4 s2 [onlyCell s2] (s2.nextId + 1) l (s2.draws + 1 + 1 + 1)).physZero
      ((with4 s2 [onlyCell s2] (s2.nextId + 1) l (s2.draws + 1 + 1 + 1)).keyAt 0 (s2.part 1) 0x8000) 0x8000 0x8000, h, by rw [with4_freeSpSlot]; exact hf, ?_, ?_⟩
  · simp only [State.clearSlot, State.areaZero, State.areaPieces, with4_part, hp, ha, hq, State.xlateAll,
      with4_xlate _ _ _ _ _ _ _ _ _ _ _ _ hl, hx, with4_memOff, List.find?_cons, List.find?_nil, hm, State.noteWalk, with4_cachedLeaf, hl,
      List.foldl_cons, List.foldl_nil]
    rfl
  · rw [State.curCore, physZero_cur]
    show s2.cur.core = 0
    rw [← hs]
    decide +kernel


/-- A device of one small area with a barrier of n = 3 of its own, an endpoint of it in E0 of PID 1. -/
def smallBarrier : State :=
  let b := atBarrier 3 0 false
  with4 { smallArea [] with cur := { (smallArea []).cur with e := b.cur.e } } b.cells b.nextId b.entries 0

theorem newEntry_with4 {s t : State} {cs : List Cell} {n d p cell number : Nat} {l : List Entry} {o : Pid} {x : Word32}
    (h : (with4 s cs n l d).newEntry p false cell number o = some (t, x)) : t = with4 s cs n t.entries (d + 1) := by
  simp only [State.newEntry, Bool.false_eq_true, if_false] at h
  split at h
  · cases h
  · cases h
    rfl

/-- R338, R348: BRNEW of two participants and BREP with an endpoint left, where the cell and the entries are reached. -/
theorem witness_barrier_area :
    (let s := smallArea [(4, 2)]
     s.rdE 0 = 0 ∧ s.rd 4 = 2 ∧ ∃ u id v h0 c, s.newCell 1 false .chan .proc .proc
        (some { n := 2, k := 1, lower := 0, phase := 0, arrived := 0 }) = some (u, id)
      ∧ u.newEntry 1 false id 0 1 = some (v, h0) ∧ u.cell? id = some c ∧ v.reachCell c = .ok () ∧ v.reachHandle 1 c h0 = .ok ())
    ∧ (let s := smallBarrier
       (okEnd s [2] && s.rdE 1 == 0 && (s.cell? 1).any (fun c => c.dh && c.bar.any (fun b => decide (b.k < b.n - b.lower)))) = true
       ∧ ∀ c, c.dh = true → ∃ u h0, s.newEntry 1 false 1 2 1 = some (u, h0) ∧ u.reachHandle 1 c h0 = .ok ()) := by
  have small : Small (smallArea [(4, 2)]) := by refine ⟨?_, ?_, ?_, ?_, ?_, ?_, ?_, ?_, ?_⟩ <;> decide +kernel
  have base : Small { smallArea [] with cur := { (smallArea []).cur with e := (atBarrier 3 0 false).cur.e } } := by
    refine ⟨?_, ?_, ?_, ?_, ?_, ?_, ?_, ?_, ?_⟩ <;> decide +kernel
  refine ⟨⟨by decide +kernel, by decide +kernel, ?_⟩, by decide +kernel, fun c _ => ?_⟩
  · obtain ⟨e, x, hi, -, -, he⟩ := small.entry _ _ _ (smallArea [(4, 2)]).nextId 0 1
    refine ⟨_, _, _, _, _, small.cell _, he, ?_, small.reach _ _ _ _ (some { n := 2, k := 1, lower := 0, phase := 0, arrived := 0 }), small.reachHandle _ _ _ _ _ _ ?_⟩
    · simp [State.cell?, with4, onlyCell]
    · intro f hf
      rw [List.mem_singleton.mp hf]
      exact hi
  · obtain ⟨⟨u, h0⟩, hu⟩ := newEntry_out smallBarrier 1 1 2 1 (by decide +kernel) (by decide +kernel)
    have hr := base.reachHandle (atBarrier 3 0 false).cells (atBarrier 3 0 false).nextId u.entries 1 c h0
      (newEntry_inArea hu (by decide +kernel) (fun e he => .inl (by revert e; decide +kernel)))
    exact ⟨u, h0, hu, (newEntry_with4 hu) ▸ hr⟩
/-! ### ALT, timers, the deadlock service -/

/-- R333 to R337: no posted arm; an arm of a bound partner; no ready arm, with and without POLL. -/
theorem witness_alt :
    let n := linked (posted none) (posted none) [(8, 1)]
    let r := linked (posted none) (posted (some (.send 9))) [(8, 1)]
    let arms := altArms 0 1 0 1
    let ready := fun (s : State) => okIs (s.release.altChecks arms) (fun l => okIs (s.release.altReach l) (fun _ => true)
      && (altChoice s.release.cur.altLast 0 ((l.filter (fun x => s.release.armNow x.2.2.2 (x.2.2.1.side x.2.2.2) x.2.1)).map Prod.fst)
          == if s == n then none else some 0)
      && l.all (fun x => (x.2.2.2.offerArm (!(x.2.2.1.side x.2.2.2))).isNone))
    arms ≠ [] ∧ altArms 0 1 0 0 = [] ∧ (ready n && ready r && r.release.cur.pid != 0 && r.release.cur.isResident) = true
    ∧ nextIs (exec (.alt 7 0 0 1 0 0 false) n) (fun u => u.rd 7 == 0xFFFFFFFFFFFFFFFF && u.cur.ip == 0x10008) = true
    ∧ nextIs (exec (.alt 7 8 0 1 0 0 true) n) (fun u => u.rd 7 == 0xFFFFFFFFFFFFFFFF && u.cur.ip == 0x10008) = true
    ∧ nextIs (exec (.alt 7 8 0 1 0 0 false) n) (fun u => u.cur.wait == .alt 7 0 1 0 0 .unclaimed && u.cur.ip == 0x10000) = true
    ∧ nextIs (exec (.alt 7 8 0 1 0 0 false) r) (fun u => u.rd 7 == 0 && u.cur.ip == 0x10008 && u.cur.altLast == 0) = true := by
  refine ⟨?_, ?_, ?_, ?_, ?_, ?_, ?_⟩ <;> decide +kernel

/-- R335: after arm 6, arm 7 comes before arm 0; a high-priority arm comes first. -/
theorem test_alt_choice : (altChoice 6 0 [0, 7], altChoice 6 1 [0, 7], altChoice 7 0 [0, 7], altChoice 7 0 []) = (some 7, some 0, some 0, none) := by
  decide +kernel

/-- R334: an offer to receive, of arm 3, whose partner has sent; the key unclaimed and provisional at another cell. -/
theorem witness_claim :
    let s := fun (k : Key) =>
      let l := linked (posted (some (.offer 3 false))) (posted (some (.send 9))) []
      { l with cur := { l.cur with wait := .alt 7 0 8 0 0 k } }
    (((s .unclaimed).cell? 1).any (fun c => c.offerArm false == some (3, false) && (c.offerArm true).isNone && !c.end1.closed
      && (s .unclaimed).armReady c false false && (s .unclaimed).endOwner c false == some 1)) = true
    ∧ ((s .unclaimed).cells.length = 1 ∧ (s .unclaimed).cur.isResident = true ∧ ((s .unclaimed).pausedCore 1).isNone = true
      ∧ ((s .unclaimed).cell? 1).any (fun c => !(s .unclaimed).ownerMoving c true) = true)
    ∧ nextIs (exec (.claim 1) (s .unclaimed)) (fun u => u.rd 7 == 3 && u.cur.ip == 0x10008 && u.cur.altLast == 3
        && u.cells.all (fun c => c.end0.post.isNone && c.end0.bound && c.end1.post == some (.send 9))) = true
    ∧ nextIs (exec (.claim 1) (s (.provisional 5))) (fun u => u == s (.provisional 5)) = true := by
  refine ⟨?_, ?_, ?_, ?_⟩ <;> decide +kernel

/-- R334: two ALTs that offer both ends, arm 2 to send and arm 5 to receive: the lower PID's key, then the higher's. -/
theorem witness_two_claims :
    let s := fun (k : Key) =>
      let l := linked (posted (some (.offer 2 true))) (posted (some (.offer 5 false))) []
      { l with cur := { l.cur with wait := .alt 7 0 4 4 0 k }
               procs := l.procs.map (fun q => { q with wait := .alt 8 0 32 0 0 .unclaimed }) }
    let u := s .unclaimed
    ((u.cell? 1).any (fun c => c.offerArm false == some (2, true) && c.offerArm true == some (5, false) && !c.end0.bound && !c.end1.bound
      && u.endOwner c false == some 1 && u.endOwner c true == some 2)
      && u.cells.length == 1 && u.cur.isResident && procIs u 2 Proc.isResident && (u.pausedCore 1).isNone && (u.pausedCore 2).isNone) = true
    ∧ nextIs (exec (.claim 1) u) (fun v => v == s (.provisional 1)) = true
    ∧ nextIs (exec (.claim 1) (s (.provisional 1))) (fun v => v.rd 7 == 2 && v.cur.ip == 0x10008 && v.cur.altLast == 2
        && procIs v 2 (fun q => q.rd 8 == 5 && q.ip == 0x10008 && q.altLast == 5)) = true := by
  refine ⟨?_, ?_, ?_⟩ <;> decide +kernel

/-- R342: timer 7 armed 5 periods ahead, and at its instant, the cell empty and the cell holding an expiry. -/
theorem witness_timer :
    let s := linked (posted none) (posted none) []
    let d := fun (h : Option Word) =>
      let u := s.updEnd 1 false (fun e => { e with held := h })
      { u with parts := u.parts.map (fun p : Part => { p with timers := p.timers.set 7 { cell := 1, due := some 0 } }) }
    (sup []).cur.sup = true ∧ s.cur.sup = false
    ∧ nextIs (exec (.timerArm 0x8700000000000005) (sup [])) (fun u => ((u.part 1).timer 7).due == some 5) = true
    ∧ nextIs (exec (.timerDisarm 0x0700000000000000) (after (.timerArm 0x8700000000000005) (sup []))) (fun u => ((u.part 1).timer 7).due == none) = true
    ∧ traps s (.timerArm 0x8700000000000005) .privilege 0 = true
    ∧ ((d none).part 1 |>.timer 7).due = some 0 ∧ (d none).power = .on
    ∧ nextIs (exec (.timerExpiry 1 7) (d none)) (fun u => (u.cell? 1).any (fun c => c.end0.held == some 0)) = true
    ∧ nextIs (exec (.timerExpiry 1 7) (d (some 3))) (fun u => (u.cell? 1).any (fun c => c.end0.held == some 0x8000000000000000)) = true := by
  refine ⟨?_, ?_, ?_, ?_, ?_, ?_, ?_, ?_, ?_⟩ <;> decide +kernel

/-- R343 to R346: DLTHR = 4 and a wait of 5 periods; a probe of a process that goes on and of one that is blocked; an answer. -/
theorem witness_deadlock :
    let l := linked (posted (some (.send 9))) (posted none) []
    let b := { l with cur := { l.cur with wait := .op 1 false }, cycle := 5, parts := l.parts.map (fun p : Part => { p with dlthr := 4 }) }
    let d : Detect := { init := 1, round := 1, todo := [1, 2], answers := [], members := [], first := [] }
    (b.proc? 1).map b.launchDue = some true
    ∧ nextIs (exec (.detectionLaunch 1) b) (fun u => u.detects.map Detect.todo == [[1]]) = true
    ∧ nextIs (exec (.probe 1 2) { b with detects := [d] }) (fun u => u.detects.map (fun x => (x.todo, x.answers)) == [([1], [(2, .proceeds, 0)])]) = true
    ∧ nextIs (exec (.probe 1 1) { b with detects := [d] }) (fun u => u.detects.map (fun x => x.answers) == [[(1, .blocked, 0)]]) = true
    ∧ b.waitOutside b.cur = false ∧ b.waitEdges b.cur = [2]
    ∧ nextIs (exec (.probeAnswer 1 2) { b with detects := [{ d with answers := [(2, .proceeds, 0)] }] }) (fun u => u.detects.isEmpty) = true := by
  refine ⟨?_, ?_, ?_, ?_, ?_, ?_, ?_⟩ <;> decide +kernel

/-! ### Processes, system forms, traps -/

/-- A record of a user-mode process of partition 1, with its PID and priority. -/
def rec (pid : Pid) (prio : BitVec 6) : Rec :=
  { entry := 0x20000, arg := 7, pid := pid, prio := prio, domain := .device, origin := 0, part := 1, join := .root, seq := 0,
    moved := Vector.replicate 8 0, sup := false, spSlot := none, spDir := [], spill := none, spillVa := 0, seg := 0, sealed := [], bmask := 0
    wmask := 0, halted := false, stepping := false, skipBp := false, extra := Vector.replicate 8 0 }

/-- A second user-mode process, PID 2, in a place, and what core 0 holds for it. -/
def second (regs : List (SReg × Word)) (f : Proc → Proc) (k : Core → Core) : State :=
  let s := user regs
  ({ s with procs := [f { s.cur with pid := 2 }], nextPid := 3 }).updCore 0 k

def inSlot1 (k : Core) : Core := { k with slots := k.slots.set 1 (some 2) }

/-- R155 to R159: the ceiling 63 at its bound; YIELD with nothing to yield to, and to an equal priority; EXIT in both modes. -/
theorem witness_process :
    let q := second [(4, 64), (5, 63)] id (fun k => { inSlot1 k with deque := [rec 5 0] })
    leaves (user []) [(.pid 3, 1), (.lcore 3, 0), (.gprio 3, 0), (.part 3, 1), (.cycle 3, 0)] = true
    ∧ [(Instr.sprio 4, 63), (.sprio 5, 63), (.sprio 0, 0)].all (fun x => nextIs (exec x.1 q) (fun u => u.cur.prio == x.2)) = true
    ∧ ((user []).workPrios 0, q.workPrios 0, (q.core 0).pause.isNone, q.cur.region.isNone) = ([], [0], true, true)
    ∧ nextIs (exec .yield (user [])) (fun u => u.cur.place == .resident 0 0 && u.cur.ip == 0x10004) = true
    ∧ nextIs (exec .yield q) (fun u => procIs u 1 (fun p => p.place == .parked && p.ip == 0x10004)) = true
    ∧ nextIs (exec (.exit 5) q) (fun u => u.cur.exitCode == some 63 && u.cur.place == .exiting 0 0) = true
    ∧ nextIs (exec (.exit 5) (sup [(5, 9)])) (fun u => (u.part 1).ended && u.host.events.map HEvent.words == [[1, 9]]) = true := by
  refine ⟨?_, ?_, ?_, ?_, ?_, ?_, ?_⟩ <;> decide +kernel

/-- R403 to R406: the supervisor forms on a process of the partition, on the caller, on none, at core 89 and 90; in user mode. -/
theorem witness_system :
    let u := second [] id inSlot1
    let s := { u with cur := { (sup [(4, 2), (5, 1), (6, 0x100000000), (7, 89), (8, 90), (9, 3)]).cur with sup := true } }
    ((s.next 4).inPart s.cur.part 2, (s.next 4).inPart s.cur.part 3) = (true, false)
    ∧ nextIs (exec .halt s) (fun u => u.cur.halted && u.host.events.map HEvent.kind == [2]) = true
    ∧ nextIs (exec (.park 4) s) (fun u => procIs u 2 (fun p => p.place == .parked && p.held)) = true
    ∧ nextIs (exec (.kill 4) s) (fun u => (u.proc? 2).isNone) = true
    ∧ nextIs (exec (.resume 9) s) (fun u => u.cur.ip == 0x10004) = true ∧ nextIs (exec (.park 6) s) (fun u => u.cur.ip == 0x10004) = true
    ∧ nextIs (exec (.migr 4 7) s) (fun u => procIs u 2 (fun p => p.place == .moving 0 89)) = true
    ∧ [Instr.park 5, .kill 5, .resume 5, .migr 4 8].all (fun i => nextIs (exec i s) (fun u => (u.part 1).ended)) = true
    ∧ [Instr.halt, .park 4, .resume 4, .migr 4 7, .kill 4, .tlbi 4 5, .tlbia].all (fun i => traps (user []) i .privilege 0) = true
    ∧ (traps (user []) .brk .brk 0x10000 && traps (user []) (.trap 5) .trapi 0) = true
    ∧ nextIs (exec .nop s) (fun u => u.cur.ip == 0x10004) = true := by
  refine ⟨?_, ?_, ?_, ?_, ?_, ?_, ?_, ?_, ?_, ?_, ?_⟩ <;> decide +kernel

/-- R132, R141, R404: a resident process, a parked one that is held, a root. -/
theorem witness_control :
    let s := second [] id inSlot1
    let p := second [] (fun q => { q with place := .parked, held := true, home := 0 }) id
    (s.queued? 2).isNone = true ∧ (s.pausedCore 2).isNone = true ∧ procIs s 2 (fun q => q.place == .resident 0 0) = true
    ∧ (s.coreOnline 5 && procIs p 2 (fun q => q.place == .parked && q.held && q.wait == .none) && s.entries.isEmpty && s.cur.pid != 2) = true
    ∧ 2 ∈ ((p.resumeProc 2).core 0).runq ∧ (s.killAny 2).host.events.map HEvent.words = [[2, 0, 1]] := by
  refine ⟨?_, ?_, ?_, ?_, ?_, ?_⟩ <;> decide +kernel

/-- R387, R392, R393: a trap of a user-mode process, of a supervisor; illegal words; a fetch fault. -/
theorem witness_trap :
    let s := user []
    traps s (.illegalEncoding 0 0) .illegal 0 = true ∧ traps s (.instructionFetchFault .gprot 0x10000 0) .gprot 0x10000 = true
    ∧ (s.cur.pid != 0 && s.cur.place == .resident 0 0 && (s.part? 1).isSome) = true
    ∧ nextIs (exec .brk s) (fun u => procIs u 1 (fun p => p.place == .parked && p.faulted && p.held && p.ip == 0x10000)
        && (u.core 0).slots[0].isNone && (u.part 1).order == [.inl 1]) = true
    ∧ nextIs (exec .brk (sup [])) (fun u => (u.part 1).ended && u.host.events.map HEvent.kind == [1]) = true := by
  refine ⟨?_, ?_, ?_, ?_, ?_⟩ <;> decide +kernel

/-- R279, R280: STTI of a dirty page in state 3 whose backing is at 0x40000: what the statement asks of it. -/
theorem witness_stti :
    let b := scratch [(4, 0x1000)]
    let s := { b with l2 := (131072 :: (List.range 4).map (fun i => 131332 + i) ++ (List.range 32).map (fun i => 2048 + i)).map (fun i => { line := i, hint := .normal, sectors := [] })
                      cores := b.cores.set 0 { b.core 0 with stlb := [{ pid := 1, page := 1, entry := 0x40703 }] }
                      pages := b.pages.map (fun q => { q with page := pageStore zeroPage 0 8 5 }) }
    okIs (s.sttGet 1 1) (fun r => sttState r.2 == 3 && sttDirty r.2
      && okIs (r.1.release.writeBack 1 1 r.2 0) (fun s2 => okIs ((s2.dropCopy 1 1).sttPut 1 1 (leftEntry r.2)) (fun _ => true))) = true
    ∧ nextIs (exec (.stti 4) s) (fun u => u.cur.ip == 0x10004 && (u.core 0).stlb.isEmpty) = true := by
  constructor <;> decide +kernel

/-- R385: no process has a store waiting; the ASID's leaf goes; another ASID; the latch holds a request. -/
theorem witness_invalidation :
    let u := sup [(4, 0x20000), (5, 1), (6, 2)]
    let s := u.updCore 3 (fun k => { k with tcache := [{ asid := 1, level := 0, vpn := 0, leaf := 0x3F }, { asid := 2, level := 0, vpn := 0, leaf := 0x3F }] })
    (s.cur.sup && s.allProcs.all (fun p => p.stores.isEmpty)) = true
    ∧ nextIs (exec .tlbia s) (fun t => ((t.core 3).tcache).map TEntry.asid == [2]) = true
    ∧ nextIs (exec (.tlbi 4 5) s) (fun t => ((t.core 3).tcache).map TEntry.asid == [2]) = true
    ∧ nextIs (exec (.tlbi 4 6) s) (fun t => (t.part 1).ended) = true
    ∧ (let w := after (.aswp 3 4 5 true .core) s; nextIs (exec .tlbia w) (fun t => t == w)) = true := by
  refine ⟨?_, ?_, ?_, ?_, ?_⟩ <;> decide +kernel

/-- R25, R407: numbers 0x0FF and 0x100 in user mode, each write event, and a slot in use. -/
theorem witness_system_registers :
    let s := sup [(4, 0xFFFFFFFFFFFFFFFF)]
    (traps (user []) (.mfsr 3 0x100) .privilege 0 && traps (user []) (.mtsr 0x100 3) .privilege 0
      && nextIs (exec (.mfsr 3 0x10) (user [])) (fun u => u.cur.ip == 0x10004)) = true
    ∧ nextIs (exec (.mtsr 0x10 4) s) (fun u => u.sysRead 0x10 == 0x3F) = true
    ∧ nextIs (exec (.mtsr 0x118 4) s) (fun u => u.sysRead 0x118 == 0x80000000FFFFFFFF) = true
    ∧ [Instr.fcsrWrite 1, .ptrootWrite 1, .thrreasonWrite 1, .bucketLevelWrite 2 1, .dqovfWrite 1, .spareaWrite 1, .chareaWrite 1, .imgareaWrite 1,
        .linkcfgWrite 1, .registerWrite (.sys 0x101) 1].all (fun i => nextIs (exec i s) (fun _ => true)) = true
    ∧ (s.slotsInUse 1, (second [] (fun q => { q with spSlot := some 0 }) id).slotsInUse 1) = (false, true)
    ∧ (s.part? s.cur.part).isSome = true ∧ (s.part 1).debug ≠ .invasive ∧ (s.part 1).linkOwn = false ∧ sysWritable 0x101 = true
    ∧ (let w := after (.aswp 3 4 5 true .core) (sup [(4, 0x20000)]); nextIs (exec (.mtsr 0x110 4) w) (fun t => t == w)) = true := by
  refine ⟨?_, ?_, ?_, ?_, ?_, ?_, ?_, ?_, ?_, ?_⟩ <;> decide +kernel


/-- Core 0 with its deque full and a segment of 4 KiB at 0x8000, whose first n places hold spilled records; a leaf maps it. -/
def fullDeque (n : Nat) (dq : Word) : State :=
  let s := smallArea []
  { s with
    parts := s.parts.map (fun p : Part => { p with dqovf := dq })
    cores := s.cores.set 0 { s.core 0 with
      deque := (List.range 64).map (fun i => { rec (BitVec.ofNat 32 (100 + i)) 0 with seq := BitVec.ofNat 32 i })
      spilled := (List.range n).map (fun i => { rec (BitVec.ofNat 32 (200 + i)) 0 with spill := some (0x8000 + 64 * i) }) } }

/-- R118 to R120: every place of the segment taken; a free place behind two that are taken; a segment that no leaf maps. -/
theorem witness_spill :
    let room := fun (s : State) (f : Except Halt State → Bool) => f (s.roomForPush 0)
    ((fullDeque 2 0x8001).core 0).deque.length = 64 ∧ (((fullDeque 2 0x8001).core 0).oldest ((fullDeque 2 0x8001).core 0).deque).map Rec.pid = some 100
    ∧ ((fullDeque 2 0x8001).part 1).segmentPlaces = 64
    ∧ room (fullDeque 64 0x8001) (fun r => match r with | .error (.stall .spill) => true | _ => false) = true
    ∧ room (fullDeque 2 0x8001) (fun r => okIs r (fun t => (t.core 0).deque.length == 63 && (t.core 0).spilled.getLast?.any (fun q => q.pid == 100
        && q.spill == some 0x8080 && q.spillVa == 0x8080 && q.seg == 0x8000))) = true
    ∧ room (fullDeque 2 0x4000000001) (fun r => match r with | .error (.trap t) => t.cause == .gfault && t.addr == 0x4000000000 | _ => false) = true := by
  refine ⟨?_, ?_, ?_, ?_, ?_, ?_⟩ <;> decide +kernel
/-! ### Events of scheduling, the pager, power, the meshes, boot -/

/-- A whole-row instruction of a vector engine, standing in the reorder buffer of PID 1 in a state of work. -/
def queued (started done : Bool) : State :=
  let s := (sup []).enterRob (.vnot (t 0 0) (t 1 0))
  { s with cur := { s.cur with rob := s.cur.rob.map (fun r => { r with started := started, done := done }) } }

/-- One page on quad 0's list of walks, PTROOT as given. -/
def walking (root : Word) : State :=
  let s := { sup [] with quads := (sup []).quads.set 0 { Quad.reset with walks := [⟨1, 2, true, 0x20000, 4, []⟩] } }
  { s with parts := s.parts.map (fun p : Part => { p with ptroot := root }) }

theorem pick_single {α : Type} {l : List α} {x : α} (h : l = [x]) (n : Nat) : l[n % l.length]? = some x := by
  subst h
  simp [Nat.mod_one]

/-- R382, R210: the one walk ends, its leaf cached; one that finds no root caches none; the one entry on an engine completes. -/
theorem test_one_walk :
    nextIs (exec (.walkComplete 0) (walking ((sup []).part 1).ptroot)) (fun u => ((u.quad 0).tcache).map TEntry.leaf == [0x3F] && (u.quad 0).walks.isEmpty) = true
    ∧ nextIs (exec (.walkComplete 0) (walking 0)) (fun u => (u.quad 0).tcache.isEmpty && (u.quad 0).walks.isEmpty) = true := by
  have h : ∀ w, ((walking w).quad 0).walks.take 4 = [⟨1, 2, true, 0x20000, 4, []⟩] := fun _ => rfl
  constructor
  · show nextIs (State.occur _ (tryWalkComplete 0 _)) _ = true
    rw [tryWalkComplete, pick_single (h _)]
    decide +kernel
  · show nextIs (State.occur _ (tryWalkComplete 0 _)) _ = true
    rw [tryWalkComplete, pick_single (h _)]
    decide +kernel

theorem test_one_completion : nextIs (exec (.engineCompletion 0 1) (queued true false)) (fun u => u.cur.rob.map RobEntry.done == [true]) = true := by
  show nextIs (State.occur _ (tryEngineCompletion 0 1 _)) _ = true
  have h : ((List.range (queued true false).cur.rob.length).filter (fun k => ((queued true false).cur.rob[k]?).any (fun r => r.started && !r.done))) = [0] := rfl
  have hp : (queued true false).proc? 1 = some (queued true false).cur := rfl
  rw [tryEngineCompletion, hp, Option.bind_some]
  simp only [pick_single h]
  decide +kernel

/-- R203 to R206, R381 to R383, R130: an entry served and completed, a walk that finds the root's leaf and one of no PTROOT, a slot
passed over 4,096 times. -/
theorem witness_core_events :
    let w := walking ((sup []).part 1).ptroot
    let f := walking 0
    let k := (sup []).updCore 3 (fun k => { k with unchosen := k.unchosen.set 2 4096 })
    ((engineOf (.vnot (t 0 0) (t 1 0))).bind ((queued false false).served 0)).map (fun x => (x.1, x.2.pid)) = some (0, 1)
    ∧ nextIs (exec (.tileDispatch 0 1) (queued false false)) (fun u => u.cur.rob.map RobEntry.started == [true]) = true
    ∧ ((queued true false).coreRuns 0 && (w.walkLeaf (w.part 1) 0x20000).isSome && (f.walkLeaf (f.part 1) 0x20000).isNone) = true
    ∧ (w.quad 0).walks.length = 1 ∧ (w.errs.isEmpty && w.seals.isEmpty && w.garbled.isEmpty) = true
    ∧ k.starved 3 = [2] ∧ nextIs (exec (.starvationPromotion 3) k) (fun u => (u.core 3).promoted == #v[false, false, true, false]) = true := by
  refine ⟨?_, ?_, ?_, ?_, ?_, ?_, ?_⟩ <;> decide +kernel

/-- R125 to R127: an idle slot with a record, with a runnable process, with neither; a victim with and without; the answer; a retry. -/
theorem witness_steal :
    let own := (second [] id (fun k => { inSlot1 k with deque := [rec 5 0] })).updCore 7 (fun k => { k with retryAt := none })
    let run := second [] (fun q => { q with place := .parked, imageOk := true }) (fun k => { k with runq := [2] })
    let st : Steal := { slot := 2, level := 3, left := 0, victim := some 0, answer := none }
    let ask := { own with cores := (own.cores.set 0 { own.core 0 with reqs := [7], slots := #v[some 1, some 2, some 3, some 4] }).set 7 { Core.reset with steal := some st } }
    let none_ := ask.updCore 0 (fun k => { k with deque := [] })
    let mine := ask.updCore 0 (fun k => { k with slots := #v[some 1, some 2, none, none] })
    let ans := own.updCore 7 (fun k => { k with steal := some { st with answer := some (some (rec 5 0)) } })
    (own.mayFill 0 2 && run.mayFill 0 2 && own.mayFill 7 0 && (own.ownerPick 0).isSome && (run.ownerPick 0).isNone && (run.runnablePick 0).isSome
      && (own.ownerPick 7).isNone && (own.runnablePick 7).isNone) = true
    ∧ nextIs (exec (.slotFill 0 2) own) (fun u => procIs u 5 (fun p => p.place == .resident 0 2 && p.ip == 0x20000 && p.rd 1 == 7)) = true
    ∧ nextIs (exec (.slotFill 0 2) run) (fun u => procIs u 2 (fun p => p.place == .resident 0 2)) = true
    ∧ nextIs (exec (.slotFill 7 0) own) (fun u => (u.core 7).steal.isSome || (u.core 7).retryAt.isSome) = true
    ∧ (ask.firstThief 0, none_.firstThief 0, ask.coreOpen 0, (ask.thiefPick 0 7).isSome, (none_.thiefPick 0 7).isSome) = (some 7, some 7, true, true, false)
    ∧ nextIs (exec (.stealRequest 0) ask) (fun u => (u.core 0).records.isEmpty && (u.core 7).steal.any (fun x => x.answer.any Option.isSome)) = true
    ∧ [none_, mine].all (fun v => nextIs (exec (.stealRequest 0) v) (fun u => (u.core 7).steal.any (fun x => x.answer.any Option.isNone))) = true
    ∧ ((ask.thiefPick 0 7).map (ask.ownerTakes 0), (mine.thiefPick 0 7).map (mine.ownerTakes 0)) = (some false, some true)
    ∧ nextIs (exec (.stealAnswer 7) ans) (fun u => procIs u 5 (fun p => p.place == .resident 7 2) && (u.core 7).steal.isNone) = true
    ∧ nextIs (exec (.stealRetry 7) (own.updCore 7 (fun k => { k with retryAt := some 0 }))) (fun u => (u.core 7).retryAt.isNone) = true := by
  refine ⟨?_, ?_, ?_, ?_, ?_, ?_, ?_, ?_, ?_, ?_⟩ <;> decide +kernel

/-- Core 0 with four processes, PID 1 to 4, PID 2 changed, and records in its deque. -/
def full (f : Proc → Proc) (l : List Rec) : State :=
  let s := user []
  ({ s with procs := [f { s.cur with pid := 2, place := .resident 0 1 }, { s.cur with pid := 3, prio := 5, place := .resident 0 2 },
                      { s.cur with pid := 4, prio := 5, place := .resident 0 3 }]
            cur := { s.cur with prio := 5 }, nextPid := 6, cycle := 65536
            parts := s.parts.map (fun p : Part => { p with preempt := 1 }) }).updCore 0 (fun k =>
    { k with slots := #v[some 1, some 2, some 3, some 4], deque := l })

/-- R128, R134: PID 2 of priority 0 gives its slot to a record of priority 1; blocked 65,536 periods, to any work. -/
theorem witness_preemption :
    let s := full id [rec 5 1]
    let b := full (fun q => { q with wait := .op 9 false }) [rec 5 0]
    (s.preemptee 0).map (fun x => (x.1, x.2.pid)) = some (1, 2) ∧ (s.pausedCore 2).isNone = true
    ∧ ((s.parkProc 2 false).preemptor 0).map Rec.pid = some 5
    ∧ nextIs (exec (.preemption 0) s) (fun u => (u.core 0).slots[1] == some 5 && procIs u 2 (fun p => p.place == .parked)) = true
    ∧ (b.blockedDue 0 1).map Proc.pid = some 2 ∧ (b.pausedCore 2).isNone = true
    ∧ nextIs (exec (.blockedPark 0 1) b) (fun u => procIs u 2 (fun p => p.place == .parked && p.wait == .op 9 false)) = true := by
  refine ⟨?_, ?_, ?_, ?_, ?_, ?_, ?_⟩ <;> decide +kernel

/-- R132, R141 to R145, R156: PID 2 parked with its image to write, exiting, moving, far from what it uses. -/
theorem witness_park_events :
    let im := second [] (fun q => { q with place := .parked, imageOk := false }) id
    let ex := second [] (fun q => { q with place := .exiting 0 1, exitCode := some 9 }) inSlot1
    let mv := second [] (fun q => { q with place := .moving 0 50 }) id
    let far := second [] (fun q => { q with acc := [(0, true)] }) inSlot1
    let af := { far with cycle := 2 ^ 20, procs := far.procs.map (fun q => { q with acc := [(2 ^ 20, true)] })
                         parts := far.parts.map (fun p : Part => { p with affinity := true }) }
    procIs im 2 (fun p => p.imageDue && (im.imageWrite p 0 (im.imageHead p)).isOk) = true
    ∧ nextIs (exec (.imageComplete 2) im) (fun u => procIs u 2 Proc.imageOk) = true
    ∧ procIs ex 2 (fun p => p.exitDue && p.join == .root) = true
    ∧ nextIs (exec (.exitCompletion 2) ex) (fun u => (u.proc? 2).isNone && u.host.events.map HEvent.words == [[2, 9, 0]]) = true
    ∧ procIs mv 2 Proc.drained = true ∧ (mv.die (dieOfCore 0)) ≠ .goingDown
    ∧ nextIs (exec (.moveComplete 2) mv) (fun u => procIs u 2 (fun p => p.home == 50)) = true
    ∧ nextIs (exec (.moveAbandon 2 0x5000) mv) (fun u => procIs u 2 (fun p => p.home == 0)) = true
    ∧ nextIs (exec (.moveAbandon 2 0x5000) { mv with dies := mv.dies.set 0 .goingDown }) (fun _ => true) = true
    ∧ (af.proc? 2).bind af.affinityTarget = some 45
    ∧ nextIs (exec (.affinityMove 2) af) (fun u => procIs u 2 (fun p => p.place == .moving 0 45)) = true := by
  refine ⟨?_, ?_, ?_, ?_, ?_, ?_, ?_, ?_, ?_, ?_, ?_⟩ <;> decide +kernel

/-- R154: an exit of a process whose join channel is 1 posts its code there. -/
theorem witness_exit_join :
    let l := linked (posted none) (posted none) []
    let s := { l with procs := l.procs.map (fun q => { q with place := .exiting 1 0, exitCode := some 9, join := .chan 1 }) }
    procIs s 2 (fun p => p.exitDue && p.join == .chan 1) = true
    ∧ nextIs (exec (.exitCompletion 2) s) (fun u => (u.proc? 2).isNone && (u.cell? 1).any (fun c => c.end0.held == some 9)) = true := by
  constructor <;> decide +kernel

/-- R200, R202, R270: a page-in that ends; the pool of core 0 full and a parked owner's page, which goes. -/
theorem witness_pager :
    let p := scratch []
    let i := { p with cur := { p.cur with pageIns := [1], stall := .pageIn 1 } }
    let v := second [] (fun q => { q with place := .parked, t := q.t.set 0 (.pool 900) }) id
    let l := (List.range 863).map (fun n => ({ id := 1000 + n, core := 0, owner := 1, page := zeroPage, stamp := 1, hurt := false, err := none } : PoolPage))
    let w := { v with cur := { v.cur with stall := .pool 0 }, pages := { id := 900, core := 0, owner := 2, page := zeroPage, stamp := 0, hurt := false, err := none } :: l }
    okIs (i.pageIn 1 1) (fun _ => true) = true ∧ nextIs (exec (.pageInComplete 1 1) i) (fun u => u.cur.pageIns.isEmpty) = true
    ∧ (w.poolWanted 0 && (oldestVictim (w.group1 0)).any (fun x => x.pid == 2)) = true
    ∧ nextIs (exec (.eviction 0) w) (fun u => procIs u 2 (fun q => q.tref 0 == .image) && u.pages.length == 863) = true := by
  refine ⟨?_, ?_, ?_, ?_⟩ <;> decide +kernel

/-- R435 to R443: the end of a pause, a withdrawal of the last point, an evaluation, an empty bucket, a refill step. -/
theorem witness_power :
    let s := { sup [] with cycle := 65536, evalAt := 0, refillAt := 0 }
    let z := s.updCore 0 (fun k => { k with pause := some { point := 3, latched := [] } })
    let b : Bucket := { mark := 1, level := 0, cap := 10, rate := 0x100000, carry := 0, owed := 0 }
    let e := { s with parts := s.parts.map (fun p : Part => { p with buckets := p.buckets.set 0 b }) }
    let r := { e with parts := e.parts.map (fun p : Part => { p with parked := true }), refillAt := 0 }
    ((z.core 0).wanted.isNone && (s.core 0).gone.isEmpty && decide (s.quadOf 0 < 24) && s.powered && (e.part 1).empty) = true
    ∧ nextIs (exec (.pauseEnd 0) z) (fun u => (u.core 0).point == 3 && (u.core 0).pause.isNone) = true
    ∧ nextIs (exec (.pointWithdrawal 0 15) s) (fun u => (u.core 0).gone == [15] && (u.quad (u.quadOf 0)).reason == 16) = true
    ∧ nextIs (exec (.evaluation [⟨89, 50, 0⟩] 0) s) (fun u => u.evalAt == 1 && (u.core 89).temp == 50) = true
    ∧ nextIs (exec (.bucketEmpty 1) e) (fun u => (u.part 1).parked) = true
    ∧ nextIs (exec .refillStep r) (fun u => u.refillAt == 1 && !(u.part 1).parked && (u.part 1).buckets[0].level == 10) = true
    ∧ ((b.refill).level, ({ b with cap := 2000 } : Bucket).refill.level, ({ b with rate := 1025 } : Bucket).refill.carry) = (10, 1024, 1025 * 1024 % 2 ^ 20) := by
  refine ⟨?_, ?_, ?_, ?_, ?_, ?_, ?_⟩ <;> decide +kernel

/-- R425 to R431, R444, R457: lane 687, modules 0 and 1, an answer of an offline die, a die down and up, a port, a link. -/
theorem witness_mesh :
    let s := { sup [] with cycle := 4096 }
    let o := { after (.aswp 3 4 5 true .core) (sup [(4, 0x20000)]) with dies := Vector.replicate 2 .offline }
    let g := { State.reset with dies := #v[.online, .goingDown], power := .on, boot := { State.reset.boot with ready := true } }
    let c := { g with dies := #v[.online, .comingUp], power := .oneDie }
    let l := { s with boot := { s.boot with record := { s.boot.record with ports := [0, 1, 1, 2, 2, 3, 3, 3] } } }
    nextIs (exec (.laneSleep 687) s) (fun u => u.mesh.asleep == [687]) = true
    ∧ nextIs (exec (.laneWake 687) (after (.laneSleep 687) s)) (fun u => u.mesh.asleep.isEmpty) = true
    ∧ nextIs (exec (.moduleFailure 15) s) (fun u => u.mesh.failed == [15]) = true
    ∧ procIs o 1 (fun p => o.latchOffline p.latch) = true ∧ nextIs (exec (.offlineAnswer 1) o) (fun u => u.cur.latch.stop == 2) = true
    ∧ (g.dieEmpty 1 && g.allProcs.all (fun q => q.stores.isEmpty)) = true
    ∧ nextIs (exec (.dieDownComplete 1) g) (fun u => u.die 1 == .offline && u.power == .oneDie && u.host.events.map HEvent.words == [[1, 0]]) = true
    ∧ nextIs (exec (.dieUpComplete 1) c) (fun u => u.die 1 == .online && u.power == .on && u.host.events.map HEvent.words == [[1, 1]]) = true
    ∧ nextIs (exec (.linkPortFailure 7) s) (fun u => u.link.ports[7] == false) = true
    ∧ (l.link.self == 0 && l.link.up == 0 && l.portDev 7 == some 3) = true
    ∧ nextIs (exec (.linkUp 3) l) (fun u => u.link.up == 8 && u.host.events.map HEvent.words == [[3, 1]]) = true := by
  refine ⟨?_, ?_, ?_, ?_, ?_, ?_, ?_, ?_, ?_, ?_, ?_⟩ <;> decide +kernel

/-- R465 to R467, R474. A bundle that passes is a value of the vendor's free functions (log 11): none can be shown here; one that
does not parse fails. -/
theorem witness_boot :
    let r := State.reset
    let c := { r with boot := { r.boot with checking := true, bootwin := r.boot.bootwin.setBytes 0 [1] } }
    let i := { sup [] with cur := Proc.absent, cores := Vector.replicate 90 Core.reset, cycle := 2 ^ 20, idleAt := 0 }
    (bundleOf c.boot.bootwin = none) ∧ (i.powered && i.noWork && !(sup []).noWork) = true
    ∧ nextIs (exec .powerOn r) (fun u => u.parts.isEmpty && u.cycle == 0) = true
    ∧ nextIs (exec .bootwinTrigger r) (fun u => u.boot.checking) = true
    ∧ nextIs (exec .bundleVerified c) (fun u => !u.boot.checking && u.boot.bootwin.isEmpty && !u.boot.ready) = true
    ∧ nextIs (exec .idleEntry i) (fun u => u.power == .idle && (u.core 89).aim == 0) = true
    ∧ nextIs (exec .idleExit { sup [] with power := .idle }) (fun u => u.power == .on) = true
    ∧ nextIs (exec .suspend (sup [])) (fun u => u.power == .suspended) = true
    ∧ nextIs (exec .d0Resume { sup [] with power := .suspended, dies := #v[.online, .offline] }) (fun u => u.power == .oneDie) = true
    ∧ nextIs (exec .powerRemoved (sup [])) (fun u => u.power == .off && u.parts.isEmpty && u.procs.isEmpty) = true := by
  refine ⟨?_, ?_, ?_, ?_, ?_, ?_, ?_, ?_, ?_, ?_⟩ <;> decide +kernel

/-! ### The host, peers, a step, the keys -/

/-- A command block. -/
def cmd (w0 w1 w2 w3 : Word) : Cmd := { w0 := w0, w1 := w1, w2 := w2, w3 := w3, w4 := 0, w5 := 0, w6 := 0, w7 := 0 }

/-- What Ready asks of a state and a block of opcode op. -/
def ready (s : State) (c : Cmd) (op : Nat) : Bool :=
  s.power == .on && s.boot.ready && !s.host.busy && Cmd.opcode c == op && Cmd.word0Ok c

/-- A host that may be read and written. -/
def hosted (s : State) : State := { s with host := { s.host with busMaster := true } }

/-- A command that ends with a code and the first result words, and a property of what it leaves. -/
def ends (i : Instr) (s : State) (code : Nat) (out : List Word) (f : State → Bool) : Bool :=
  nextIs (exec i s) (fun t => t.host.code == BitVec.ofNat 8 code && !t.host.busy && (t.host.cmd.toList.drop 4).take out.length == out && f t)

/-- R451: CREATE finds a number and an ASID where no partition exists; the fields of word 1 at their bounds, domain 3 beyond. -/
theorem witness_create :
    (∃ num asid, ({ sup [] with parts := [] } : State).chooseFree 4096 1 [] = some num
      ∧ ({ sup [] with parts := [] } : State).drew.chooseFree 4096 1 [] = some asid)
    ∧ ready { sup [] with parts := [] } (cmd 1 0x6E3F 31 0) 1 = true ∧ Cmd.createOk (cmd 1 0x6E3F 31 0) = true
    ∧ Cmd.createOk (cmd 1 0x300 0 0) = false := by
  obtain ⟨num, h, -⟩ := chooseFree_out { sup [] with parts := [] } 4096 1 [] (by omega) (by simp)
  obtain ⟨asid, h', -⟩ := chooseFree_out ({ sup [] with parts := [] } : State).drew 4096 1 [] (by omega) (by simp)
  exact ⟨⟨num, asid, h, h'⟩, by decide +kernel, by decide +kernel, by decide +kernel⟩

/-- R450, R451, R455, R469: GRANT up to the top of HBM and over another partition's range, DESTROY, COPY of 32 bytes with and
without a grant, EVENT, both dies. -/
theorem witness_partition_commands :
    let s := hosted (sup [])
    let w := { s with parts := s.parts ++ [{ Part.absent with num := 2, granted := [(0x5FFFFF0000, 0x10000)] }] }
    let p := { s with parts := s.parts.map (fun p : Part => { p with spawned := false, sup := none }), hostMem := s.hostMem.setBytes 64 [5] }
    let e := { s with host := { s.host with events := [{ kind := 6, words := [7] }] } }
    let d := { s with dies := #v[.offline, .online] }
    (ready w (cmd 0x10002 0x5FFFFE0000 0x10000 0) 2 && inOneRegion 0x5FFFFF0000 0x10000 && !inOneRegion 0x5FFFFF0000 0x20000) = true
    ∧ ends (.grant (cmd 0x10002 0x5FFFFE0000 0x10000 0)) w 0 [] (fun t => (t.part 1).granted.length == 3) = true
    ∧ ends (.grant (cmd 0x10002 0x5FFFFF0000 0x10000 0)) w 4 [] (fun t => (t.part 1).granted.length == 2) = true
    ∧ ends (.destroy (cmd 0x20003 0 0 0)) w 0 [] (fun t => t.parts.map Part.num == [1]) = true
    ∧ ends (.destroy (cmd 0x30003 0 0 0)) w 3 [] (fun t => t.parts.map Part.num == [1, 2]) = true
    ∧ (p.memOk && p.errs.isEmpty && p.seals.isEmpty && p.garbled.isEmpty && p.cells.isEmpty && p.entries.isEmpty && (p.part 1).grants 0x1FFFFE0 32
        && !(p.part 1).grants 0x2000000 32 && p.host.busMaster && !(p.part 1).spawned && !(p.part 1).conf) = true
    ∧ ends (.copy (cmd 0x10004 64 0x1FFFFE0 32)) p 0 [] (fun t => t.physByte 0x1FFFFE0 == 5) = true
    ∧ ends (.copy (cmd 0x10004 64 0x2000000 32)) p 4 [] (fun t => t.physByte 0x2000000 == 0) = true
    ∧ ends (.event (cmd 0xE 0 0 0)) s 5 [] (fun _ => true) = true
    ∧ ends (.event (cmd 0xE 0 0 0)) e 0 [6] (fun t => t.host.events.isEmpty && t.hostMem.getBytes 0 9 == [6, 0, 0, 0, 0, 0, 0, 0, 7]) = true
    ∧ ends (.diedown (cmd 0xC 1 0 0)) s 0 [] (fun t => t.die 1 == .goingDown) = true
    ∧ ends (.dieup (cmd 0xD 0 0 0)) d 0 [] (fun t => t.die 0 == .comingUp) = true := by
  refine ⟨?_, ?_, ?_, ?_, ?_, ?_, ?_, ?_, ?_, ?_, ?_, ?_⟩ <;> decide +kernel

/-- R452 to R454: a supervisor with the least first range, a root with a slot; a host slot at 63, full, empty, closed. -/
theorem witness_host_spawn :
    let s := hosted (sup [])
    let f := { s with parts := s.parts.map (fun p : Part => { p with spawned := false, sup := none, granted := [(0x1000000, 0x230000)] }) }
    let r := { s with parts := s.parts.map (fun p : Part => { p with sparea := 0x1000001, imgarea := 0x1800001 }) }
    let c := cmd 0x10005 0x10000 7 0x100000005
    (ready f c 5 && f.spawnArgs c true && (Cmd.ofKind c 2).isEmpty && Cmd.ofKind c 1 == [0] && f.freeSlots.length == 64) = true
    ∧ ((f.part 1).granted == [(0x1000000, 0x230000)]) = true
    ∧ ends (.spawnCommand c) f 0 [2] (fun t => (t.part 1).sup == some 2 && (t.part 1).spawned) = true
    ∧ (ready r c 5 && r.spawnArgs c false && (r.setCmd (Cmd.words c)).freeSpSlot 1 == some 0 && okIs ((r.setCmd (Cmd.words c)).clearSlot 1 0) (fun _ => true)) = true
    ∧ ends (.spawnCommand c) r 0 [2] (fun t => (t.core 0).records.map Rec.pid == [2] && t.freeSlots.length == 63) = true := by
  refine ⟨?_, ?_, ?_, ?_, ?_⟩ <;> decide +kernel

/-- A host channel of partition 1 in slot 63. -/
def slotted (e0 e1 : EndSt) : State :=
  let s := hosted (sup [])
  { s with
    cells := [{ id := 1, part := 1, chid := 0, dh := true, kind := .host, end0 := e0, end1 := e1, bar := none }]
    host := { s.host with slots := s.host.slots.set 63 (some (1, 1)) } }

theorem witness_host_slots :
    let v := slotted (EndSt.fresh .proc) (EndSt.fresh (.slot 63))
    let full := slotted { EndSt.fresh .proc with held := some 5 } { EndSt.fresh (.slot 63) with held := some 6 }
    let shut := slotted { EndSt.fresh .proc with closed := true } (EndSt.fresh (.slot 63))
    ready v (cmd 0x10006 63 9 0) 6 = true
    ∧ ends (.hsend (cmd 0x10006 63 9 0)) v 0 [] (fun t => (t.cell? 1).any (fun c => c.end0.held == some 9)) = true
    ∧ ends (.hsend (cmd 0x10006 63 9 0)) full 6 [] (fun t => (t.cell? 1).any (fun c => c.end0.held == some 5)) = true
    ∧ ends (.hrecv (cmd 0x10007 63 0 0)) full 0 [6] (fun t => (t.cell? 1).any (fun c => c.end1.held == none)) = true
    ∧ ends (.hrecv (cmd 0x10007 63 0 0)) shut 7 [] (fun _ => true) = true
    ∧ ends (.hclose (cmd 0x10008 63 0 0)) v 0 [] (fun t => (t.host.slots[63]).isNone) = true := by
  refine ⟨?_, ?_, ?_, ?_, ?_, ?_⟩ <;> decide +kernel

/-- R456, R405, R450: EXPORT and IMPORT through slot 0, denied to a confidential partition; RELEASE of a halted supervisor; FAULTEND
of one that is halted and of one that runs. -/
theorem witness_host_processes :
    let s := hosted (sup [])
    let k := { s with procs := [{ s.cur with pid := 2, sup := false, place := .parked, held := true, imageOk := true, spSlot := some 0
                                             t := Vector.replicate 32 .image }], nextPid := 3
                      parts := s.parts.map (fun p : Part => { p with sparea := 0x1000002, imgarea := 0x1800001 }) }
    let h := { s with cur := { s.cur with halted := true, haltOp := true } }
    let conf := { s with parts := s.parts.map (fun p : Part => { p with conf := true }) }
    let x := cmd 0x10009 2 64 0
    let y := cmd 0x1000A 64 0 0
    let z := cmd 0x1000F 15 0 0
    (ready k x 9 && procIs k 2 (fun q => q.isHeld && q.imageOk && q.part == 1)
      && (k.proc? 2).any (fun q => ((((k.setCmd (Cmd.words x)).drain 2).finishRequest 2).storeRefs 2 |>.imageRead q 0 Config.imageSlotBytes).isOk)) = true
    ∧ (ready k y 0xA && ((k.hostMem.getBytes 64 Config.imageSlotBytes).drop 0x130).take 16 == List.replicate 16 0
        && (k.setCmd (Cmd.words y)).freeSpSlot 1 == some 1) = true
    ∧ ((k.setCmd (Cmd.words y)).importProc (k.part 1) 1 (k.hostMem.getBytes 64 Config.imageSlotBytes)).isOk = true
    ∧ ends (.exportCmd x) conf 4 [] (fun _ => true) = true ∧ ends (.importCmd y) conf 4 [] (fun _ => true) = true
    ∧ ends (.release (cmd 0x1000B 1 0 0)) h 0 [] (fun t => !t.cur.halted && t.cur.ip == 0x10000) = true
    ∧ ((s.supOf (s.part 1)).any (fun q => !s.standsStill q) && (h.supOf (h.part 1)).any (fun q => h.standsStill q && q.e[15] == 0 && !h.postsTo q 15)
        && !s.faultOpen (s.part 1)) = true
    ∧ ends (.faultend z) h 0 [] (fun t => t.cur.e[15] != 0) = true
    ∧ nextIs (exec (.faultend z) s) (fun t => t.host.busy && (t.part 1).placing == some 15) = true
    ∧ nextIs (exec (.faultEndPlacement 1) (after (.faultend z) s)) (fun t => !t.host.busy && t.cur.e[15] != 0) = true := by
  refine ⟨?_, ?_, ?_, ?_, ?_, ?_, ?_, ?_, ?_, ?_⟩ <;> decide +kernel
/-- R448, R449, R409, R412, R475, R374, R457 to R459: words 0 and 7 of the block, a process under INVASIVE debug halted and not, a peer's
access up to the top of HBM, and a channel of tag 63 that is paired, closed, asked for. -/
theorem witness_port :
    let s := sup []
    let d := { s with parts := s.parts.map (fun p : Part => { p with debug := .invasive }) }
    let h := { d with cur := { d.cur with halted := true } }
    let b := { s with host := { s.host with busy := true } }
    let l := { s with link := { s.link with up := 8 } }
    let c : Cell := { id := 1, part := 1, chid := 0, dh := true, kind := .peer, end0 := EndSt.fresh .proc, end1 := EndSt.fresh (.peer 3 63), bar := none }
    let p := ({ l with cells := [c] }).setTag 3 63 (1, true)
    (s.power == .on && s.boot.ready && b.host.busy && (s.proc? 1).isSome && (s.part 1).debug != .invasive && (d.part 1).debug == .invasive) = true
    ∧ [0, 7].all (fun i => nextIs (exec (.registerWrite (.bar (BitVec.ofNat 16 (0x100 + 8 * i))) 5) s)
        (fun t => (t.host.cmd.toList.getD i 0) == 5 && t.host.cmd.toList.sum == 5)) = true
    ∧ nextIs (exec .doorbellWhileBusy b) (fun t => t.host.overrun && nextIs (exec .cmdstatRead t) (fun u => !u.host.overrun)) = true
    ∧ nextIs (exec (.setMasks 1 1 2 9) d) (fun t => t.cur.wmask == 2 && t.cur.bmask == 9) = true
    ∧ nextIs (exec (.debugHalt 1 1) d) (fun t => t.cur.halted) = true ∧ nextIs (exec (.debugHalt 1 1) s) (fun t => !t.cur.halted) = true
    ∧ nextIs (exec (.debugRelease 1 1) h) (fun t => !t.cur.halted && t.cur.skipBp) = true
    ∧ nextIs (exec (.debugStep 1 1) h) (fun t => t.cur.halted && t.cur.stepping) = true
    ∧ (s.memOk && s.errs.isEmpty && s.seals.isEmpty && s.cells.isEmpty && s.entries.isEmpty && !s.offlineAt 0x5FFFFFFFF8 && !s.rangeBad 0x5FFFFFFFF8 8) = true
    ∧ nextIs (exec (.peerMemoryAccess (.write 0x5FFFFFFFF8 [1, 2, 3, 4, 5, 6, 7, 8])) s) (fun t => t.physBytes 0x5FFFFFFFF7 9 == [0, 1, 2, 3, 4, 5, 6, 7, 8]) = true
    ∧ nextIs (exec (.peerMemoryAccess (.amo 0x5FFFFFFFF8 .add false 9 0)) s) (fun t => t.physBytes 0x5FFFFFFFF8 8 == [9, 0, 0, 0, 0, 0, 0, 0]) = true
    ∧ (l.link.up.getLsbD 3 && (l.tagOf 3 63).isNone && p.tagOf 3 63 == some (1, true) && p.cell? 1 == some c) = true
    ∧ nextIs (exec (.peerChannelMessage (.pair 3 63)) l) (fun t => t.tagOf 3 63 == some (0, false)) = true
    ∧ nextIs (exec (.peerChannelMessage (.post 3 63 (.send 5))) p) (fun t => (t.cell? 1).any (fun x => x.end1.post == some (.send 5))) = true
    ∧ nextIs (exec (.peerChannelMessage (.close 3 63)) p) (fun t => (t.cell? 1).any (fun x => x.end1.closed)) = true := by
  refine ⟨?_, ?_, ?_, ?_, ?_, ?_, ?_, ?_, ?_, ?_, ?_, ?_, ?_, ?_, ?_⟩ <;> decide +kernel

/-- Core 0 issues next, and what stands where its context fetches has a property. -/
def looksAt (s : State) (f : Issued → Bool) : Bool :=
  let u := s.charged
  let v := u.drew.noteWaiting u.queueUp (.issue 0)
  u.dueAction.isNone && u.queueUp == [.issue 0] && (match v.chosen 0 with
    | some x => f (v.selectOn 0 x.1 x.2).lookAhead.2
    | none => false)

/-- The word of NOP stands at IP, and nothing forbids it. -/
def fetchesNop (s : State) : Bool :=
  match s.fetch with
  | (v, .words w0 w1) =>
    w0 == 0x50000000 && decode w0.toNat (w1.getD 0).toNat == some .nop && v.ibpHit.isNone && !masked v.curPart.feat w0 .nop && v.cur.regionAllows .nop
  | _ => false

/-- R26, R27, R203: core 0 issues the NOP at its IP; a vector instruction enters the reorder buffer, and retires when it is
done; the erased words. -/
theorem witness_step :
    let s := sup []
    let n := { s with mem := s.mem.setBytes 0x10000 (((encode (.vnot (t 0 0) (t 1 0))).map (fun w => bytesOf 4 w.1 ++ bytesOf 4 (w.2.getD 0))).getD []) }
    let o := queued true true
    let z := fun w => State.reset.withFetchWord 32 w
    let u := s.look.1
    looksAt s (· == .instr .nop) = true ∧ nextIs (step s) (fun v => v.cur.ip == 0x10004) = true
    ∧ looksAt n (· == .instr (.vnot (t 0 0) (t 1 0))) = true ∧ nextIs (step n) (fun v => v.cur.rob.length == 1 && v.cur.ip == 0x10000) = true
    ∧ o.charged.dueAction = some (.retire 1) ∧ nextIs (step o) (fun v => v.cur.rob.isEmpty && v.cur.ip == 0x10008) = true
    ∧ fetchesNop s = true
    ∧ ((u.cachedLeaf 0 u.curPart 0x8000).isSome && okIs ((u.xlate 0 u.curPart true 0x8000 4 .fetch).mapError Halt.trap) (fun x => x.pa == 0x8000
        && !u.memOff u.curPart 0x8000 && (u.cachedWord 0 0x8000).isNone && !x.leaf.getLsbD 59 && !u.rangeBad 0x8000 4)) = true
    ∧ (u.fetchWord 0x8000).2.toOption = some 0x3F
    ∧ (looksAt (z 0) (· == .illegal 0 0) && looksAt (z 0xFFFFFFFF) (· == .illegal 0xFFFFFFFF 0)) = true
    ∧ (s.memOk && encode (.add 3 4 5) == some (0x02321400, none) && (Instr.add 3 4 5).wf) = true := by
  refine ⟨?_, ?_, ?_, ?_, ?_, ?_, ?_, ?_, ?_, ?_, ?_⟩ <;> decide +kernel

/-- R472: the last sector of HBM stored under key 7 is read under 7; a read under key 8 and one under none leave that key's reading
in the L2, and its seal. -/
theorem witness_keys :
    let s := (sup []).physPut (Via.of (some 7) 1) 0x5FFFFFFFE0 (List.replicate 32 9)
    let r := { s with l2 := [] }
    (s.bytesAs (some 7) 0x5FFFFFFFE0 2, s.sealOf 0x2FFFFFFFF, s.sealOf 0) = ([9, 9], some 7, none)
    ∧ ((s.garble? 0x2FFFFFFFF).isNone && (r.held? 0x2FFFFFFFF).isNone && s.memOk && s.errs.isEmpty) = true
    ∧ s.stored 0 = List.replicate 32 0
    ∧ [some 8, none].all (fun k => let t := r.noteKey k 0x5FFFFFFFE0 32; t.garble? 0x2FFFFFFFF == some k && t.sealOf 0x2FFFFFFFF == some 7) = true := by
  refine ⟨?_, ?_, ?_, ?_⟩ <;> decide +kernel

/-- R68, R463: the bounds of lo, a branch field at its least value and one beyond, and the second of two equal images passed over. -/
theorem witness_code_objects :
    let i := fun (k : ImageKind) (level : Nat) (need : Word) (code : Nat) =>
      ({ kind := k, level := level, features := need, code := code, codeLen := 4, relocs := 0, nrelocs := 0, map := 0 } : ImageDesc)
    let l := [i .native 0 1 1, i .native 1 7 2, i .native 1 1 3, i .native 1 1 4, i .native 2 0 5, i .distance 0 1 6]
    (hiPart 0x1800, loPart 0x1800, hiPart 0x17FF, loPart 0x17FF, hiPart (-1), loPart (-1)) = (2, -2048, 1, 2047, 0, -1)
    ∧ (branchField 15 0 65536, branchField 15 0 65540, branchField 15 2 0) = (some (-16384), none, none)
    ∧ ((chooseImage l 1 7).map ImageDesc.code, (chooseImage l 1 5).map ImageDesc.code, (chooseImage (l.drop 5) 1 0).map ImageDesc.code,
        (chooseImage (l.drop 5) 1 1).map ImageDesc.code) = (some 2, some 3, none, some 6) := by
  refine ⟨?_, ?_, ?_⟩ <;> decide +kernel

/-! ### What the completion statements ask -/

/-- R369, R385, R403 to R406: a supervisor beside PID 2 with nothing waiting, no request out and an empty reorder buffer: FENCE,
TLBI and TLBIA; PID 2 resident, parked held, and exiting, when KILL waits. -/
theorem witness_control_completes :
    let f := fun (g : Proc → Proc) => let u := second [] g inSlot1
      { u with cur := { (sup [(4, 2), (5, 1), (6, 89)]).cur with sup := true } }
    let s := f id
    let p := f (fun q => { q with place := .parked, held := true })
    let x := f (fun q => { q with place := .exiting 0 1 })
    (!s.cur.latch.sent && s.allProcs.all (fun p => p.stores.isEmpty && p.rob.isEmpty) && !s.requestsOut s.cur.part s.cur.pid
      && (s.rd 5).toNat == s.curPart.asid.toNat && s.entries.isEmpty && (s.queued? 2).isNone && (s.pausedCore 2).isNone && s.coreOnline 89) = true
    ∧ procIs s 2 (fun q => q.place == .resident 0 0 && (s.affinityTarget q).isNone && !q.latch.sent) = true
    ∧ nextIs (exec (.fence true .stores .die) s) (fun u => u.cur.ip == 0x10004) = true
    ∧ nextIs (exec (.tlbi 4 5) s) (fun u => u.cur.ip == 0x10004) = true
    ∧ nextIs (exec (.resume 4) p) (fun u => u.cur.ip == 0x10004 && procIs u 2 (fun q => !q.held)) = true
    ∧ x.exitsNow 2 = true ∧ nextIs (exec (.kill 4) x) (fun u => u.cur.ip == 0x10000 && (u.proc? 2).isSome) = true
    ∧ nextIs (exec (.migr 5 6) { s with cur := (s.wr 5 9).cur }) (fun u => u.cur.ip == 0x10004) = true := by
  refine ⟨?_, ?_, ?_, ?_, ?_, ?_, ?_, ?_⟩ <;> decide +kernel

/-- R348: CHCLOSE of a channel whose other end waits for nothing. -/
theorem witness_close_completes :
    let s := linked (posted none) (posted none) []
    (s.cur.stores.isEmpty && okEnd s [1, 2, 3, 4, 5] && (s.cell? 1).any (fun c => c.bar.isNone && c.end0.post.isNone && c.end1.post.isNone)) = true := by
  decide +kernel

/-- R206, R210: what a copy engine did for the load that retires: its rows and bytes, and a fault. -/
theorem witness_early :
    let s := withGeom (sup [(4, 0x20000)]) 32 1 4 true
    let e : Early := { rows := [[(0x20000, 0x20000, 4)]], span := [(0x20000, 4)], fault := none, data := some [[(1, false), (2, false), (3, false), (4, false)]] }
    let with_ := fun (u : State) (e : Early) => { u with cur := { u.cur with early := some e } }
    nextIs (exec (.tld (t 1 0) 4 0 .normal) (with_ s e)) (fun u => elemAt .i32 (u.group (t 1 0)) 0 0 == 0x4030201) = true
    ∧ traps (with_ (withGeom (user [(4, 0x20000)]) 32 1 4 true) { e with fault := some (.at .gprot 0x20000) }) (.tld (t 1 0) 4 0 .normal) .gprot 0x20000
      = true := by
  constructor <;> decide +kernel

/-- R328, R331: operations whose pages are held are loaded as they stand; a tile send reads its process's registers. -/
theorem witness_loaded :
    let tx := facing (.txsum (t 1 0) .f32 (.held [zeroPage])) (.txsum (t 2 0) .f32 (.held [zeroPage])) []
    let tt := facing (.sendt 0 (.held [pageWithElem .i32 zeroPage 0 0 5])) (.recvt (t 2 0)) []
    let rr := facing (.sendt 0 (.regs (t 1 0))) (.recvt (t 2 0)) []
    ((tx.loaded (some 1) (.txsum (t 1 0) .f32 (.held [zeroPage]))).toOption.any (fun r => r.1 == tx)
      && (tt.srcPages (some 1) (.held [pageWithElem .i32 zeroPage 0 0 5])).toOption.any (fun r => r.1 == tt && r.2.length == 1)) = true
    ∧ nextIs (exec (.rendezvous 1) { rr with cur := (filled rr (t 1 0) 7 .i32).cur, pages := (filled rr (t 1 0) 7 .i32).pages })
        (fun u => procIs u 2 (fun q => elemAt .i32 (u.groupOf q (t 2 0)) 0 0 == 7)) = true := by
  constructor <;> decide +kernel

/-- R142, R147, R156, R397: a supervisor that exits, a parked process with a page in another pool, an image whose reserved part is
written 0. -/
theorem witness_more_park_events :
    let ex := second [] (fun q => { q with place := .exiting 0 1, exitCode := some 9, join := .supervisor }) inSlot1
    let pg := second [] (fun q => { q with place := .parked, t := q.t.set 0 (.pool 900) }) id
    let off := { pg with pages := [{ id := 900, core := 50, owner := 2, page := zeroPage, stamp := 0, hurt := true, err := none }] }
    let im := second [] (fun q => { q with place := .parked, imageOk := false }) id
    procIs ex 2 (fun p => p.exitDue && p.join == .supervisor) = true
    ∧ nextIs (exec (.exitCompletion 2) ex) (fun u => (u.proc? 2).isNone && u.host.events.isEmpty) = true
    ∧ (!(off.pagesOff 2 0).isEmpty && off.pagesFit 2 0) = true
    ∧ nextIs (exec (.moveComplete 2) off) (fun u => u.pages.map (fun q => (q.core, q.page.poison)) == [(0, true)]) = true
    ∧ procIs im 2 (fun p => (im.imageWrite p 0 (im.imageHead p)).toOption.any (fun u => (u.imageZero p 0x600 0xA00).isOk)) = true
    ∧ nextIs (exec (.pointWithdrawal 0 15) { (sup []) with boot := { (sup []).boot with ready := false } }) (fun u => (u.core 0).point != 15) = true := by
  refine ⟨?_, ?_, ?_, ?_, ?_, ?_⟩ <;> decide +kernel

/-- R142, R146, R147: a move whose copy finds a page with a lasting error is abandoned; on a die that goes down it ends, the page
poisoned; without such a page it ends. -/
theorem witness_move_copies :
    let mv := fun (bad : Bool) (d : DieSt) =>
      let s := second [] (fun q => { q with place := .moving 0 50, home := 0, t := q.t.set 0 (.pool 900) }) id
      { s with pages := [{ id := 900, core := 0, owner := 2, page := zeroPage, stamp := 0, hurt := bad, err := none }], dies := s.dies.set 0 d }
    procIs (mv true .online) 2 (fun p => p.drained && p.place == .moving 0 50) = true
    ∧ [true, false].all (fun b => (mv b .online).pagesFit 2 50 && ((mv b .online).readForMove 2 50).2 == if b then [900] else []) = true
    ∧ nextIs (exec (.moveComplete 2) (mv true .online)) (fun u => procIs u 2 (fun p => p.home == 0) && u.pages.map (fun q => (q.core, q.page.poison)) == [(0, false)]) = true
    ∧ nextIs (exec (.moveComplete 2) (mv true .goingDown)) (fun u => u.pages.map (fun q => (q.core, q.page.poison)) == [(50, true)]) = true
    ∧ nextIs (exec (.moveComplete 2) (mv false .online)) (fun u => procIs u 2 (fun p => p.home == 50) && u.pages.map (fun q => (q.core, q.page.poison)) == [(50, false)]) = true := by
  refine ⟨?_, ?_, ?_, ?_, ?_⟩ <;> decide +kernel

/-- R205, R206, R301: a TLD that the copy engine takes has its rows translated then. -/
theorem witness_dispatch_rows :
    let s := (withGeom (sup [(4, 0x20000)]) 32 1 4 true).enterRob (.tld (t 1 0) 4 0 .normal)
    ((engineOf (.tld (t 1 0) 4 0 .normal)).bind (s.served 0)).map (fun x => (x.1, x.2.pid)) = some (0, 1) ∧ s.coreRuns 0 = true
    ∧ nextIs (exec (.tileDispatch 0 1) s) (fun u => u.cur.rob.all (fun r => r.started && r.early.any (fun e => e.fault.isNone && e.rows == [[(0x20000, 0x20000, 4)]])))
      = true := by
  refine ⟨?_, ?_, ?_⟩ <;> decide +kernel

/-- Bytes put at 0 are found behind those before them. -/
theorem getBytes_put (a l b : List Byte) : (Memory.setBytes [] 0 (a ++ l ++ b)).getBytes a.length l.length = l := by
  induction l generalizing a with
  | nil => rfl
  | cons x r ih =>
    have h := ih (a ++ [x])
    simp only [List.append_assoc, List.cons_append, List.nil_append, List.length_append, List.length_cons, List.length_nil] at h ⊢
    rw [Memory.getBytes, Memory.get_setBytes rfl, dif_pos ⟨Nat.zero_le _, by simp⟩, h]
    simp

/-- R466: a bundle in BOOTWIN whose two items pass: what the statement asks of a state (whether an item passes rests on the vendor's
modulus, log 11). -/
theorem witness_bundle (fw cfg : List Byte) (h : fw.length % 4 = 0 ∧ cfg.length % 4 = 0 ∧ 8 + fw.length + cfg.length ≤ 0x7FF8) :
    let w := Memory.setBytes [] 0 (bytesOf 4 fw.length ++ bytesOf 4 cfg.length ++ fw ++ cfg)
    let s := { State.reset with boot := { State.reset.boot with checking := true, bootwin := w } }
    s.boot.checking = true ∧ bundleOf s.boot.bootwin = some (fw, cfg) := by
  refine ⟨rfl, ?_⟩
  have e0 := getBytes_put [] (bytesOf 4 fw.length) (bytesOf 4 cfg.length ++ fw ++ cfg)
  have e1 := getBytes_put (bytesOf 4 fw.length) (bytesOf 4 cfg.length) (fw ++ cfg)
  have e2 := getBytes_put (bytesOf 4 fw.length ++ bytesOf 4 cfg.length) fw cfg
  have e3 := getBytes_put (bytesOf 4 fw.length ++ bytesOf 4 cfg.length ++ fw) cfg []
  simp only [List.nil_append, List.append_nil, List.append_assoc, List.length_nil, List.length_append, bytesOf_length, Nat.reduceAdd] at e0 e1 e2 e3
  have f0 : ofBytes (bytesOf 4 fw.length) = fw.length := by rw [ofBytes_bytesOf]; exact Nat.mod_eq_of_lt (by omega)
  have f1 : ofBytes (bytesOf 4 cfg.length) = cfg.length := by rw [ofBytes_bytesOf]; exact Nat.mod_eq_of_lt (by omega)
  rw [show 4 + (4 + fw.length) = 8 + fw.length by omega] at e3
  simp only [bundleOf, List.append_assoc, e0, e1, f0, f1, e2, e3, h, and_self, if_true]

/-- FIPS 180-4's example for "abc" (its first 8 bytes), and FIPS 197's example C.3, both ways. -/
theorem test_hash_and_cipher :
    (sha512Bytes [0x61, 0x62, 0x63]).take 8 = [0xDD, 0xAF, 0x35, 0xA1, 0x93, 0x61, 0x7A, 0xBA]
    ∧ (let key := (List.range 32).map (BitVec.ofNat 8)
       let x := (List.range 16).map (fun i => BitVec.ofNat 8 (17 * i))
       let y : List Byte := [0x8E, 0xA2, 0xB7, 0xCA, 0x51, 0x67, 0x45, 0xBF, 0xEA, 0xFC, 0x49, 0x90, 0x4B, 0x49, 0x60, 0x89]
       aesEncrypt key x = y ∧ aesDecrypt key y = x) := by
  refine ⟨?_, ?_, ?_⟩ <;> decide +kernel

end Sys2Proof.Tests
end

section
/-! The erased words (R53): the majors of memory full of zeroes or of ones name no instruction, so a context that fetches such
a word stands at illegal words. -/

namespace Sys2Proof

/-! ### Words that decode to nothing -/

/-- No instruction of one word has major 0x00 (R35). -/
theorem parse32_eq_none_of_op_zero {f : Frame} (h : f.op = 0) : parse32 f = none := by
  simp only [parse32, h]

/-- The majors of the instructions of two words end at 0x0C (R50). -/
theorem parse64_eq_none_of_lt_op {f : Frame} (h : 12 < f.op) (t : Tail) (w1 : Nat) : parse64 f t w1 = none := by
  unfold parse64
  split
  case h_13 => rfl
  all_goals omega

theorem decode_eq_none_of_parse32 {w0 : Nat} (hl : isLong w0 = false) (hp : parse32 (frameOf w0) = none) (w1 : Nat) :
    decode w0 w1 = none := by
  have hf : (frameOf w0).long = false := hl
  simp [decode, hf, hp]

theorem decode_eq_none_of_parse64 {w0 w1 : Nat} (hl : isLong w0 = true)
    (hp : parse64 (frameOf w0) (tailOf w1) w1 = none) : decode w0 w1 = none := by
  have hf : (frameOf w0).long = true := hl
  simp [decode, hf, hp]

theorem decode_zero (w1 : Nat) : decode 0 w1 = none :=
  decode_eq_none_of_parse32 rfl (parse32_eq_none_of_op_zero rfl) w1

theorem decode_allOnes (w1 : Nat) : decode 0xFFFFFFFF w1 = none :=
  decode_eq_none_of_parse64 rfl (parse64_eq_none_of_lt_op (by decide) _ w1)

end Sys2Proof

namespace Sys2Proof.Machine

/-! ### What the front end makes of them -/

@[simp] theorem State.setWords_ibpHit (s : State) (a b : Word32) : (s.setWords a b).ibpHit = s.ibpHit := rfl

/-- Words that decode to nothing are illegal where no breakpoint comes before them. -/
theorem State.judge_of_decode_none {s : State} {w0 : Word32} {w1 : Option Word32} (hb : s.ibpHit = none)
    (hd : decode w0.toNat (w1.getD 0).toNat = none) : s.judge w0 w1 = .illegal w0 (w1.getD 0) := by
  simp only [State.judge, hb, hd]

theorem State.look_of_fetch_words {s v : State} {w0 : Word32} {w1 : Option Word32} (hf : s.fetch = (v, .words w0 w1)) :
    s.look = (v.setWords w0 (w1.getD 0), (v.setWords w0 (w1.getD 0)).judge w0 w1) := by
  simp only [State.look, hf]

theorem State.look_of_fetch_undecoded {s v : State} {w0 : Word32} {w1 : Option Word32}
    (hf : s.fetch = (v, .words w0 w1)) (hb : v.ibpHit = none) (hd : decode w0.toNat (w1.getD 0).toNat = none) :
    s.look.2 = .illegal w0 (w1.getD 0) := by
  rw [State.look_of_fetch_words hf]
  exact State.judge_of_decode_none (by rw [State.setWords_ibpHit, hb]) hd

/-- Settles O55: neither erased word's major names an instruction, and what decodes to nothing is judged illegal. -/
theorem erasedWords : Obligations.ErasedWords := by
  unfold Obligations.ErasedWords
  refine ⟨rfl, rfl, fun w1 => ⟨decode_zero w1, decode_allOnes w1⟩, ?_⟩
  rintro s v w0 w1 (rfl | rfl) hf hb
  · exact State.look_of_fetch_undecoded hf hb (decode_zero _)
  · exact State.look_of_fetch_undecoded hf hb (decode_allOnes _)

end Sys2Proof.Machine
end

section
/-! Code objects (R68, R69, R463): the address split, the branch field, and the choice of an image, which is the first image of
the highest level (`List.argmax`) among those that qualify, with the distance image behind it. -/

namespace Sys2Proof.Machine

/-! ### hi, lo and branch fields (R68, R69) -/

theorem hiPart_mul_add_loPart (x : Int) : hiPart x * 4096 + loPart x = x := by
  unfold loPart
  omega

/-- lo is (x + 0x800) mod 4096, less 0x800. -/
theorem loPart_bounds (x : Int) : -2048 ≤ loPart x ∧ loPart x ≤ 2047 := by
  unfold loPart hiPart
  omega

theorem fitsSigned_iff {n : Nat} {x : Int} : fitsSigned n x = true ↔ -(2 ^ (n - 1) : Int) ≤ x ∧ x < 2 ^ (n - 1) := by
  simp only [fitsSigned, Bool.and_eq_true, decide_eq_true_eq]

theorem branchField_eq_some_iff {n : Nat} {t p f : Int} :
    branchField n t p = some f ↔ t = p + 4 * f ∧ fitsSigned n f = true := by
  have whole : (t - p) % 4 = 0 ∧ (t - p) / 4 = f ↔ t = p + 4 * f := by omega
  rw [← whole, branchField, Option.ite_none_right_eq_some, Option.some.injEq]
  constructor
  · rintro ⟨⟨hm, hf⟩, rfl⟩
    exact ⟨⟨hm, rfl⟩, hf⟩
  · rintro ⟨⟨hm, rfl⟩, hf⟩
    exact ⟨⟨hm, hf⟩, rfl⟩

/-! ### Which images qualify (R463) -/

/-- No feature is needed outside the mask exactly where each needed one is in it. -/
theorem ImageDesc.featuresIn_iff {i : ImageDesc} {feat : Word} :
    i.featuresIn feat = true ↔ ∀ k < 64, i.features.getLsbD k = true → feat.getLsbD k = true := by
  rw [ImageDesc.featuresIn, beq_iff_eq, BitVec.eq_of_getLsbD_eq_iff]
  refine forall₂_congr fun k hk => ?_
  simp [hk]

theorem ImageDesc.qualifies_iff {i : ImageDesc} {profile : Nat} {feat : Word} :
    i.qualifies profile feat = true ↔ i.kind = .native ∧ i.level ≤ profile ∧ i.featuresIn feat = true := by
  simp only [ImageDesc.qualifies, Bool.and_eq_true, beq_iff_eq, decide_eq_true_eq, and_assoc]

/-! ### The image chosen (R463) -/

/-- The best native image is the first of the highest level among those that qualify; the distance image stands behind it. -/
theorem chooseImage_eq_or (l : List ImageDesc) (profile : Nat) (feat : Word) :
    chooseImage l profile feat =
      ((l.filter (·.qualifies profile feat)).argmax ImageDesc.level).or
        ((l.find? (·.kind == .distance)).filter (·.featuresIn feat)) := by
  unfold chooseImage
  generalize best : List.foldl _ none _ = m
  have best' : (l.filter (·.qualifies profile feat)).argmax ImageDesc.level = m :=
    best ▸ List.foldl_ext _ _ none fun b i _ => by cases b <;> rfl
  rw [best']
  cases m <;> rfl

theorem argmax_qualifies_isSome {l : List ImageDesc} {profile : Nat} {feat : Word}
    (h : ∃ x ∈ l, x.qualifies profile feat = true) :
    ((l.filter (·.qualifies profile feat)).argmax ImageDesc.level).isSome = true := by
  obtain ⟨x, hx, hq⟩ := h
  rw [Option.isSome_iff_ne_none, Ne, List.argmax_eq_none]
  exact List.ne_nil_of_mem (List.mem_filter.mpr ⟨hx, hq⟩)

theorem chooseImage_eq_argmax {l : List ImageDesc} {profile : Nat} {feat : Word}
    (h : ∃ x ∈ l, x.qualifies profile feat = true) :
    chooseImage l profile feat = (l.filter (·.qualifies profile feat)).argmax ImageDesc.level := by
  rw [chooseImage_eq_or, Option.or_of_isSome (argmax_qualifies_isSome h)]

theorem chooseImage_eq_distance {l : List ImageDesc} {profile : Nat} {feat : Word}
    (h : ∀ x ∈ l, x.qualifies profile feat = false) :
    chooseImage l profile feat = (l.find? (·.kind == .distance)).filter (·.featuresIn feat) := by
  have none_left : l.filter (·.qualifies profile feat) = [] := List.filter_eq_nil_iff.mpr (by simpa using h)
  rw [chooseImage_eq_or, none_left, List.argmax_nil, Option.none_or]

/-- `List.index_of_argmax` carried from the filtered list to the list itself, split where the greatest first stands. -/
theorem exists_split_of_mem_argmax_filter {α : Type} [DecidableEq α] {p : α → Bool} {f : α → Nat} {l : List α} {i : α}
    (h : i ∈ (l.filter p).argmax f) :
    p i = true ∧ ∃ a b, l = a ++ i :: b ∧ (∀ x ∈ a, p x = true → f x < f i) ∧ ∀ x ∈ b, p x = true → f x ≤ f i := by
  obtain ⟨hi, hp⟩ := List.mem_filter.mp (List.argmax_mem h)
  obtain ⟨a, b, rfl, ha⟩ := List.eq_append_cons_of_mem hi
  refine ⟨hp, a, b, rfl, fun x hx hpx => lt_of_not_ge fun hle => ?_, fun x hx hpx => ?_⟩
  · have hxa : x ∈ a.filter p := List.mem_filter.mpr ⟨hx, hpx⟩
    have hia : i ∉ a.filter p := fun hm => ha (List.mem_filter.mp hm).1
    have before := List.index_of_argmax h (List.mem_filter.mpr ⟨List.mem_append_left _ hx, hpx⟩) hle
    rw [List.filter_append, List.idxOf_append_of_notMem hia, List.idxOf_append_of_mem hxa] at before
    have := List.idxOf_lt_length_of_mem hxa
    omega
  · exact List.le_of_mem_argmax (List.mem_filter.mpr ⟨by simp [hx], hpx⟩) h

/-- Settles O60: the choice is an argmax over the images that qualify, of which the library gives the first on a tie. -/
theorem codeObjects : Obligations.CodeObjects := by
  unfold Obligations.CodeObjects
  refine ⟨fun x => ⟨hiPart_mul_add_loPart x, loPart_bounds x⟩, fun x profile feat => ?_, fun n t p f => ?_,
    fun l profile feat => ⟨fun i hi h => ?_, fun h => ?_, chooseImage_eq_distance⟩⟩
  · rw [ImageDesc.qualifies_iff, ImageDesc.featuresIn_iff]
  · rw [branchField_eq_some_iff, fitsSigned_iff]
  · exact exists_split_of_mem_argmax_filter (chooseImage_eq_argmax h ▸ hi)
  · rw [chooseImage_eq_argmax h]
    exact argmax_qualifies_isSome h

end Sys2Proof.Machine
end

section
/-! The words of the scalar instructions (R32, R41, R174): the word of each layout is that of a frame, and it decodes to the
instruction that the frame encodes. -/

namespace Sys2Proof

open Sys2Proof.Machine Sys2Proof.Claims Sys2Proof.Laws

/-! ### The word of each layout -/

theorem rrr_eq_word (op : Nat) (d a b : Fin 32) (fn : Nat) : rrr op d a b fn = (frame op d a b fn).word := by
  simp [rrr, frame, Frame.word]

theorem lscal_eq_word (d a b c : Fin 32) (fn : Nat) : lscal d a b c fn = (frame2 0x01 d a b c fn).word := by
  simp only [lscal, frame2, Frame.word, if_true]
  omega

theorem imm15_eq_word (op : Nat) (d a : Fin 32) (v : BitVec 15) :
    op * 2 ^ 25 + d.val * 2 ^ 20 + a.val * 2 ^ 15 + v.toNat = (frameI op d a v).word := by
  have hv := v.isLt
  simp only [frameI, frame, Frame.word, finOf, Fin.ofNat, Bool.false_eq_true, if_false]
  omega

theorem imm20_eq_word (op : Nat) (d : Fin 32) (v : BitVec 20) :
    op * 2 ^ 25 + d.val * 2 ^ 20 + v.toNat = (frameJ op d v).word := by
  have hv := v.isLt
  simp only [frameJ, frame, Frame.word, finOf, Fin.ofNat, Bool.false_eq_true, if_false]
  omega

theorem shi_eq_word {kind : Nat} (d a : Fin 32) (c : BitVec 6) (hk : kind < 4) :
    0x10000000 + d.val * 2 ^ 20 + a.val * 2 ^ 15 + kind * 2 ^ 12 + c.toNat
      = (frameI 0x08 d a (BitVec.ofNat 15 (kind * 4096 + c.toNat))).word := by
  have hc := c.isLt
  have fits : (BitVec.ofNat 15 (kind * 4096 + c.toNat)).toNat = kind * 4096 + c.toNat := by
    rw [BitVec.toNat_ofNat]
    omega
  rw [← imm15_eq_word, fits]
  omega

/-! ### Decoding the layouts -/

/-- Words are an instruction where their fields read as it and it is encoded by them. -/
theorem decode_eq_some {i : Instr} {f : Frame} {w0 w1 : Nat} (hf : frameOf w0 = f)
    (read : (if f.long then parse64 f (tailOf w1) w1 else parse32 f) = some i) (hw : i.wf = true)
    (written : encode i = some (w0, if f.long then some w1 else none)) : decode w0 w1 = some i := by
  subst hf
  unfold decode
  simp only [read]
  exact if_pos ⟨hw, written⟩

theorem encode_eq_word {i : Instr} {f : Frame} (he : encodeFrame i = some f) :
    encode i = some (f.word, if f.long then some (encodeSecond i) else none) := by
  unfold encode
  rw [he]

/-- The words that an instruction's fields give decode to it; a 32-bit instruction reads no second word. -/
theorem decode_word {i : Instr} {f : Frame} {w1 : Nat} (coded : Coded.Statement i) (hw : i.wf = true)
    (he : encodeFrame i = some f) (h1 : f.long = true → w1 = encodeSecond i) : decode f.word w1 = some i := by
  obtain ⟨hop, hfn, -, parsed⟩ := coded f he
  have written := encode_eq_word he
  cases hl : f.long with
  | false =>
    simp only [hl, Bool.false_eq_true, if_false] at parsed written
    exact decode_eq_some (frameOf_word hop hfn) (by simpa [hl] using parsed) hw (by simpa [hl] using written)
  | true =>
    obtain rfl := h1 hl
    exact decode_eq_some (frameOf_word hop hfn) parsed hw written

theorem decode_short {i : Instr} {f : Frame} (coded : Coded.Statement i) (hw : i.wf = true)
    (he : encodeFrame i = some f) (hl : f.long = false) (w1 : Nat) : decode f.word w1 = some i :=
  decode_word coded hw he fun h => by simp [hl] at h

theorem decode_rrr {i : Instr} {op fn : Nat} {d a b : Fin 32} (coded : Coded.Statement i) (hw : i.wf = true)
    (he : encodeFrame i = some (frame op d a b fn)) : decode (rrr op d a b fn) 0 = some i :=
  rrr_eq_word op d a b fn ▸ decode_short coded hw he rfl 0

theorem decode_imm15 {i : Instr} {op : Nat} {d a : Fin 32} {v : BitVec 15} (coded : Coded.Statement i) (hw : i.wf = true)
    (he : encodeFrame i = some (frameI op d a v)) :
    decode (op * 2 ^ 25 + d.val * 2 ^ 20 + a.val * 2 ^ 15 + v.toNat) 0 = some i :=
  imm15_eq_word op d a v ▸ decode_short coded hw he rfl 0

theorem decode_imm20 {i : Instr} {op : Nat} {d : Fin 32} {v : BitVec 20} (coded : Coded.Statement i) (hw : i.wf = true)
    (he : encodeFrame i = some (frameJ op d v)) : decode (op * 2 ^ 25 + d.val * 2 ^ 20 + v.toNat) 0 = some i :=
  imm20_eq_word op d v ▸ decode_short coded hw he rfl 0

theorem decode_shi {i : Instr} {kind : Nat} {d a : Fin 32} {c : BitVec 6} (coded : Coded.Statement i) (hw : i.wf = true)
    (hk : kind < 4) (he : encodeFrame i = some (frameI 0x08 d a (BitVec.ofNat 15 (kind * 4096 + c.toNat)))) :
    decode (0x10000000 + d.val * 2 ^ 20 + a.val * 2 ^ 15 + kind * 2 ^ 12 + c.toNat) 0 = some i :=
  shi_eq_word d a c hk ▸ decode_short coded hw he rfl 0

theorem decode_lscal {i : Instr} {fn w1 : Nat} {d a b c : Fin 32} (coded : Coded.Statement i) (hw : i.wf = true)
    (he : encodeFrame i = some (frame2 0x01 d a b c fn)) (h1 : w1 = encodeSecond i) :
    decode (lscal d a b c fn) w1 = some i :=
  lscal_eq_word d a b c fn ▸ decode_word coded hw he fun _ => h1

end Sys2Proof

namespace Sys2Proof.Machine

open Sys2Proof.Laws

/-! ### Branches, jumps and LOOP (R176-R179) -/

theorem displacement_eq_mul {n : Nat} (off : BitVec n) : displacement off = 4 * off.signExtend 64 := by
  rw [displacement, sextWord, BitVec.shiftLeft_eq_mul_twoPow, BitVec.mul_comm]
  rfl

/-- A branch changes IP alone. -/
theorem State.branch_eq_jump {s : State} {taken : Bool} {c : Prop} [Decidable c] (h : taken = decide c) (off : BitVec 15) :
    s.branch taken off = s.jump (if c then s.cur.ip + 4 * off.signExtend 64 else s.cur.ip + 4) := by
  rw [← displacement_eq_mul]
  subst h
  by_cases hc : c
  · simp [State.branch, hc]
  · simp only [State.branch, hc, decide_false, Bool.false_eq_true, if_false]
    rfl

theorem exec_jalr_misaligned {s : State} {d a : SReg} {imm : BitVec 15}
    (h : (s.rd a + imm.signExtend 64).toNat % 4 ≠ 0) :
    exec (.jalr d a imm) s
      = .next (s.takeTrap { cause := .misalign, addr := s.rd a + imm.signExtend 64, detail := 0 }) := by
  have check : ((s.rd a + imm.signExtend 64).toNat % 4 != 0) = true := by simpa using h
  show s.finish (trapIf ((s.rd a + imm.signExtend 64).toNat % 4 != 0) _ _ >>= _) = _
  rw [check]
  rfl

theorem exec_jalr_aligned {s : State} {d a : SReg} {imm : BitVec 15}
    (h : (s.rd a + imm.signExtend 64).toNat % 4 = 0) :
    exec (.jalr d a imm) s = .next ((s.wr d (s.cur.ip + 4)).jump (s.rd a + imm.signExtend 64)) := by
  have check : ((s.rd a + imm.signExtend 64).toNat % 4 != 0) = false := by simpa using h
  show s.finish (trapIf ((s.rd a + imm.signExtend 64).toNat % 4 != 0) _ _ >>= _) = _
  rw [check]
  rfl

/-- Settles O5: the check on the target decides between the trap and the link with the jump. -/
theorem jalrRule : Obligations.JalrRule := by
  unfold Obligations.JalrRule
  exact fun s d a imm =>
    ⟨decode_imm15 (op := 0x17) (Coded.jalr d a imm) rfl rfl, exec_jalr_misaligned, exec_jalr_aligned⟩

theorem bne_eq_decide_ne (x y : Word) : (x != y) = decide (x ≠ y) := by
  rw [bne, beq_eq_decide, decide_not]

theorem not_slt_eq_decide (x y : Word) : (!x.slt y) = decide (y.toInt ≤ x.toInt) := by
  rw [BitVec.slt_eq_decide, ← decide_not, decide_eq_decide, not_lt]

theorem not_ult_eq_decide (x y : Word) : (!x.ult y) = decide (y.toNat ≤ x.toNat) := by
  rw [BitVec.ult_eq_decide, ← decide_not, decide_eq_decide, not_lt]

theorem exec_loop (s : State) (a : SReg) (off : BitVec 15) :
    exec (.loop a off) s = .next ((s.wr a (s.rd a - 1)).jump
      (if s.rd a - 1 ≠ 0 then s.cur.ip + 4 * off.signExtend 64 else s.cur.ip + 4)) := by
  have same : (s.wr a (s.rd a - 1)).cur.ip = s.cur.ip := by simp
  rw [← same]
  exact congrArg _ (State.branch_eq_jump (bne_eq_decide_ne _ _) off)

/-- Settles O4: each condition is a comparison of the words as numbers, and a displacement of n words is 4n. -/
theorem branchResults : Obligations.BranchResults := by
  unfold Obligations.BranchResults
  intro s d a b off i20
  refine ⟨decode_imm15 (Coded.beq a b off) rfl rfl, decode_imm15 (Coded.bne a b off) rfl rfl,
    decode_imm15 (Coded.blt a b off) rfl rfl, decode_imm15 (Coded.bge a b off) rfl rfl,
    decode_imm15 (Coded.bltn a b off) rfl rfl, decode_imm15 (Coded.bgen a b off) rfl rfl,
    decode_imm20 (op := 0x16) (Coded.jal d i20) rfl rfl, decode_imm15 (Coded.loop a off) rfl rfl,
    congrArg _ (State.branch_eq_jump (beq_eq_decide _ _) off), congrArg _ (State.branch_eq_jump (bne_eq_decide_ne _ _) off),
    congrArg _ (State.branch_eq_jump rfl off), congrArg _ (State.branch_eq_jump (not_slt_eq_decide _ _) off),
    congrArg _ (State.branch_eq_jump rfl off), congrArg _ (State.branch_eq_jump (not_ult_eq_decide _ _) off), ?_,
    exec_loop s a off⟩
  rw [← displacement_eq_mul]
  rfl

end Sys2Proof.Machine
end

section
/-! The immediate and constant forms (R171-R173, R175) and the LSCAL bit forms (R186-R189): their words and what they write. -/

namespace Sys2Proof.Machine

open Sys2Proof.Claims Sys2Proof.Laws

/-! ### Immediates and constants -/

theorem flagWord_decide (c : Prop) [Decidable c] : flagWord (decide c) = if c then 1 else 0 := by
  simp [flagWord]

/-- Settles O2: the shared decoding of each layout, and flagWord of a comparison as 1 or 0. -/
theorem immediateResults : Obligations.ImmediateResults := by
  unfold Obligations.ImmediateResults
  constructor
  · intro s d a imm c
    exact ⟨⟨decode_imm15 (Coded.addi d a imm) rfl rfl, rfl⟩, ⟨decode_imm15 (Coded.andi d a imm) rfl rfl, rfl⟩,
      ⟨decode_imm15 (Coded.ori d a imm) rfl rfl, rfl⟩, ⟨decode_imm15 (Coded.xori d a imm) rfl rfl, rfl⟩,
      ⟨decode_imm15 (Coded.slti d a imm) rfl rfl, congrArg (put s d · 4) (flagWord_decide _)⟩,
      ⟨decode_imm15 (Coded.sltni d a imm) rfl rfl, congrArg (put s d · 4) (flagWord_decide _)⟩,
      ⟨decode_imm15 (Coded.muli d a imm) rfl rfl, rfl⟩,
      ⟨decode_shi (Coded.shli d a c) rfl (by decide) rfl, rfl⟩, ⟨decode_shi (Coded.shri d a c) rfl (by decide) rfl, rfl⟩,
      ⟨decode_shi (Coded.srai d a c) rfl (by decide) rfl, rfl⟩, ⟨decode_shi (Coded.rori d a c) rfl (by decide) rfl, rfl⟩⟩
  · intro s d a i20 i32
    exact ⟨decode_imm20 (op := 0x0A) (Coded.lih d i20) rfl rfl, decode_imm20 (op := 0x0B) (Coded.pcadd d i20) rfl rfl,
      decode_lscal (Coded.li d i32) rfl rfl rfl, decode_lscal (Coded.lihL d i32) rfl rfl rfl,
      decode_lscal (Coded.addl d a i32) rfl rfl rfl, rfl, rfl, rfl, rfl, _, rfl, BitVec.extractLsb'_append_eq_left,
      BitVec.extractLsb'_append_eq_right⟩

/-! ### The second word of the bit forms -/

/-- A second word that carries MOD alone is MOD. -/
theorem Tail.word_md (n : Nat) : Tail.word { Tail.blank with md := n } = n := by
  simp [Tail.word, Tail.blank]

theorem Tail.word_blank : Tail.word Tail.blank = 0 := Tail.word_md 0

theorem encodeSecond_bmap (d a b c : SReg) (table : BitVec 8) : encodeSecond (.bmap d a b c table) = table.toNat :=
  Tail.word_md _

theorem encodeSecond_bfx (d a : SReg) (pos len : BitVec 6) :
    encodeSecond (.bfx d a pos len) = pos.toNat + 64 * len.toNat :=
  (Tail.word_md _).trans (by omega)

theorem encodeSecond_bfi (d a : SReg) (pos len : BitVec 6) :
    encodeSecond (.bfi d a pos len) = pos.toNat + 64 * len.toNat :=
  (Tail.word_md _).trans (by omega)

/-! ### BMAP (R186) -/

/-- A number of n bits or its complement, as a selector asks, has the bits that equal the selector. -/
theorem testBit_pick {n x i : Nat} (want : Bool) (hx : x < 2 ^ n) (hi : i < n) :
    (if want then x else 2 ^ n - 1 - x).testBit i = (x.testBit i == want) := by
  cases want with
  | true => simp
  | false => simp [Nat.sub_sub, Nat.add_comm 1 x, Nat.testBit_two_pow_sub_succ hx, hi]

/-- The bits of an accumulated disjunction of terms are the bits of the start and of the terms chosen. -/
theorem testBit_foldl_or (l : List Nat) (p : Nat → Bool) (term : Nat → Nat) (acc i : Nat) :
    (l.foldl (fun acc j => if p j then acc ||| term j else acc) acc).testBit i
      = (acc.testBit i || l.any fun j => p j && (term j).testBit i) := by
  induction l generalizing acc with
  | nil => simp
  | cons j l ih =>
    rw [List.foldl_cons, ih]
    cases hp : p j <;> simp [hp, Bool.or_assoc]

/-- Of eight entries, three bits select one. -/
theorem any_range_eight_select (table : Nat → Bool) (x y z : Bool) :
    ((List.range 8).any fun j => table j && ((x == (j % 2 == 1)) && (y == (j / 2 % 2 == 1)) && (z == (j / 4 == 1))))
      = table (bit x + 2 * bit y + 4 * bit z) := by
  cases x <;> cases y <;> cases z <;> simp [List.range_succ, bit]

theorem testBit_bitMap {n a b c i : Nat} (table : BitVec 8) (ha : a < 2 ^ n) (hb : b < 2 ^ n) (hc : c < 2 ^ n)
    (hi : i < n) : (bitMap n table a b c).testBit i
      = table.getLsbD (bit (a.testBit i) + 2 * bit (b.testBit i) + 4 * bit (c.testBit i)) := by
  unfold bitMap
  rw [testBit_foldl_or]
  simp only [Nat.testBit_and, testBit_pick _ ha hi, testBit_pick _ hb hi, testBit_pick _ hc hi, Nat.zero_testBit,
    Bool.false_or]
  exact any_range_eight_select table.getLsbD _ _ _

theorem getLsbD_mapBits {i : Nat} (table : BitVec 8) (a b c : Word) (hi : i < 64) :
    (mapBits table a b c).getLsbD i
      = table.getLsbD (bit (a.getLsbD i) + 2 * bit (b.getLsbD i) + 4 * bit (c.getLsbD i)) := by
  rw [mapBits, BitVec.getLsbD_ofNat, testBit_bitMap table a.isLt b.isLt c.isLt hi]
  simp only [hi, decide_true, Bool.true_and, BitVec.testBit_toNat]

/-! ### BFX and BFI (R189) -/

theorem getLsbD_fieldExtract {i : Nat} (pos len : BitVec 6) (x : Word) (hi : i < 64) :
    (fieldExtract pos len x).getLsbD i = (decide (i < fieldWidth pos len) && x.getLsbD (pos.toNat + i)) := by
  simp only [fieldExtract, BitVec.getLsbD_and, BitVec.getLsbD_ushiftRight, BitVec.getLsbD_ofNat,
    Nat.testBit_two_pow_sub_one, hi, decide_true, Bool.true_and, Bool.and_comm]

theorem getLsbD_fieldMask {i : Nat} (pos len : BitVec 6) (hi : i < 64) :
    (fieldMask pos len).getLsbD i = decide (pos.toNat ≤ i ∧ i < pos.toNat + fieldWidth pos len) := by
  simp only [fieldMask, BitVec.getLsbD_ofNat, Nat.testBit_mul_two_pow, Nat.testBit_two_pow_sub_one, hi, decide_true,
    Bool.true_and, ← Bool.decide_and]
  exact decide_eq_decide.mpr (by omega)

theorem getLsbD_fieldInsert {i : Nat} (pos len : BitVec 6) (old x : Word) (hi : i < 64) :
    (fieldInsert pos len old x).getLsbD i
      = if pos.toNat ≤ i ∧ i < pos.toNat + fieldWidth pos len then x.getLsbD (i - pos.toNat) else old.getLsbD i := by
  simp only [fieldInsert, BitVec.getLsbD_or, BitVec.getLsbD_and, BitVec.getLsbD_not, BitVec.getLsbD_shiftLeft,
    getLsbD_fieldMask pos len hi, hi]
  split
  case isTrue inside => simp [inside]
  case isFalse outside => simp [outside]

/-- Settles O3: BMAP, BFX and BFI bit by bit; the funnels and CSEL are the rule's own terms. -/
theorem bitFormResults : Obligations.BitFormResults := by
  unfold Obligations.BitFormResults
  intro s d a b c table pos len
  exact ⟨decode_lscal (Coded.bmap d a b c table) rfl rfl (encodeSecond_bmap d a b c table).symm,
    decode_lscal (Coded.fshl d a b c) rfl rfl Tail.word_blank.symm, decode_lscal (Coded.fshr d a b c) rfl rfl Tail.word_blank.symm,
    decode_lscal (Coded.csel d a b c) rfl rfl Tail.word_blank.symm,
    decode_lscal (Coded.bfx d a pos len) rfl rfl (encodeSecond_bfx d a pos len).symm,
    decode_lscal (Coded.bfi d a pos len) rfl rfl (encodeSecond_bfi d a pos len).symm,
    ⟨_, rfl, fun _ => getLsbD_mapBits table _ _ _⟩, ⟨_, rfl, rfl⟩, ⟨_, rfl, rfl⟩,
    congrArg (put s d · 8) (ite_not (s.rd c = 0) (s.rd a) (s.rd b)).symm,
    ⟨_, rfl, fun _ => getLsbD_fieldExtract pos len _⟩, ⟨_, rfl, fun _ => getLsbD_fieldInsert pos len _ _⟩⟩

end Sys2Proof.Machine
end

section
/-! The INT forms (R168-R170): the high halves of the products, the division forms, the comparisons and the bit counts. -/

namespace Sys2Proof.Machine

open Sys2Proof.Claims Sys2Proof.Laws

/-! ### High halves of products (R169) -/

theorem mulHigh_eq_extractLsb' (x y : Word) :
    mulHigh x y = (x.signExtend 128 * y.signExtend 128).extractLsb' 64 64 := by
  have product : x.signExtend 128 * y.signExtend 128 = BitVec.ofInt 128 (x.toInt * y.toInt) := by
    rw [BitVec.ofInt_mul, ← BitVec.toInt_signExtend_of_le (x := x) (v := 128) (by decide),
      ← BitVec.toInt_signExtend_of_le (x := y) (v := 128) (by decide), BitVec.ofInt_toInt, BitVec.ofInt_toInt]
  apply BitVec.eq_of_toNat_eq
  rw [product, mulHigh, BitVec.extractLsb'_toNat, BitVec.toNat_ofInt, BitVec.toNat_ofInt, Nat.shiftRight_eq_div_pow]
  omega

theorem mulHighN_eq_extractLsb' (x y : Word) :
    mulHighN x y = (x.setWidth 128 * y.setWidth 128).extractLsb' 64 64 := by
  have fits : x.toNat * y.toNat < 2 ^ 128 := (Nat.mul_lt_mul'' x.isLt y.isLt).trans_eq rfl
  apply BitVec.eq_of_toNat_eq
  rw [mulHighN, BitVec.extractLsb'_toNat, BitVec.toNat_mul, BitVec.toNat_setWidth_of_le (by decide),
    BitVec.toNat_setWidth_of_le (by decide), Nat.mod_eq_of_lt fits, Nat.shiftRight_eq_div_pow, BitVec.toNat_ofNat]

/-! ### Quotients and remainders (R170) -/

theorem divSigned_eq_sdiv (x y : Word) : divSigned x y = if y = 0 then BitVec.allOnes 64 else x.sdiv y := by
  have quotient : BitVec.ofInt 64 (x.toInt.tdiv y.toInt) = x.sdiv y := by
    apply BitVec.eq_of_toInt_eq
    rw [BitVec.toInt_ofInt, BitVec.toInt_sdiv]
  rw [divSigned, quotient]

theorem remSigned_eq_srem (x y : Word) : remSigned x y = x.srem y := by
  have remainder : BitVec.ofInt 64 (x.toInt.tmod y.toInt) = x.srem y := by
    rw [← BitVec.toInt_srem, BitVec.ofInt_toInt]
  rw [remSigned, remainder]
  split
  case isTrue h => rw [h]; exact BitVec.srem_zero.symm
  case isFalse => rfl

theorem remUnsigned_eq_umod (x y : Word) : remUnsigned x y = x % y := by
  unfold remUnsigned
  split
  case isTrue h => rw [h]; exact BitVec.umod_zero.symm
  case isFalse => rfl

/-- Away from a zero divisor and from -2^63 by -1, the quotient truncates toward zero. -/
theorem toInt_divSigned {x y : Word} (hy : y ≠ 0) (h : ¬(x = 0x8000000000000000 ∧ y = 0xFFFFFFFFFFFFFFFF)) :
    (divSigned x y).toInt = x.toInt.tdiv y.toInt := by
  rw [divSigned_eq_sdiv, if_neg hy]
  exact BitVec.toInt_sdiv_of_ne_or_ne x y (not_and_or.mp h)

theorem divisionRulePart : DivisionRulePart := by
  intro s d a b
  constructor
  · refine ⟨divSigned (s.rd a) (s.rd b), remSigned (s.rd a) (s.rd b), rfl, rfl, fun hy => ?_, fun hx hy => ?_, fun hy h => ?_⟩
    · rw [divSigned, remSigned, if_pos hy, if_pos hy]
      exact ⟨by decide, rfl⟩
    · rw [hx, hy]
      exact ⟨by decide, by decide⟩
    · rw [toInt_divSigned hy h, remSigned_eq_srem, BitVec.toInt_srem, Int.tmod_def, Int.mul_comm]
      exact ⟨rfl, rfl⟩
  · refine ⟨divUnsigned (s.rd a) (s.rd b), remUnsigned (s.rd a) (s.rd b), rfl, rfl, fun hy => ?_, fun hy => ?_⟩
    · rw [divUnsigned, remUnsigned, if_pos hy, if_pos hy]
      exact ⟨by decide, rfl⟩
    · rw [divUnsigned, if_neg hy, remUnsigned_eq_umod, BitVec.toNat_umod, BitVec.toNat_udiv, Nat.mod_eq_sub_mul_div,
        Nat.mul_comm]
      exact ⟨rfl, rfl⟩

/-! ### Comparisons (R169) -/

/-- The smaller word by a key: the strict test taken the other way round keeps the first on a tie. -/
theorem ite_lt_eq_ite_le {α β : Type} [LinearOrder β] (key : α → β) (x y : α) :
    (if key y < key x then y else x) = if key x ≤ key y then x else y := by
  rw [← ite_not]
  simp only [not_lt]

/-- The larger word by an injective key: on a tie both are the same word. -/
theorem ite_lt_eq_ite_le_of_injective {α β : Type} [LinearOrder β] {key : α → β} (hk : key.Injective) (x y : α) :
    (if key x < key y then y else x) = if key x ≤ key y then y else x := by
  rcases lt_trichotomy (key x) (key y) with h | h | h
  · rw [if_pos h, if_pos h.le]
  · rw [if_neg h.not_lt, if_pos h.le, hk h]
  · rw [if_neg h.not_gt, if_neg h.not_ge]

theorem minSigned_eq (x y : Word) : (if y.slt x then y else x) = if x.toInt ≤ y.toInt then x else y := by
  simp only [BitVec.slt_iff_toInt_lt, ite_lt_eq_ite_le BitVec.toInt]

theorem maxSigned_eq (x y : Word) : (if x.slt y then y else x) = if x.toInt ≤ y.toInt then y else x := by
  simp only [BitVec.slt_iff_toInt_lt]
  exact ite_lt_eq_ite_le_of_injective (fun _ _ => BitVec.eq_of_toInt_eq) x y

theorem minUnsigned_eq (x y : Word) : (if y.ult x then y else x) = if x.toNat ≤ y.toNat then x else y := by
  simp only [BitVec.ult_iff_toNat_lt, ite_lt_eq_ite_le BitVec.toNat]

theorem maxUnsigned_eq (x y : Word) : (if x.ult y then y else x) = if x.toNat ≤ y.toNat then y else x := by
  simp only [BitVec.ult_iff_toNat_lt]
  exact ite_lt_eq_ite_le_of_injective (fun _ _ => BitVec.eq_of_toNat_eq) x y

theorem flagWord_beq (x y : Word) : flagWord (x == y) = if x = y then 1 else 0 := by
  rw [beq_eq_decide, flagWord_decide]

theorem flagWord_bne (x y : Word) : flagWord (x != y) = if x = y then 0 else 1 := by
  rw [bne_eq_decide_ne, flagWord_decide, ite_not]

/-! ### Bit counts and reversal (R169) -/

/-- A count of at most 64 is what a register holds of it. -/
theorem toNat_ofNat_of_le_64 {n : Nat} (h : n ≤ 64) : (BitVec.ofNat 64 n).toNat = n := by
  rw [BitVec.toNat_ofNat]
  omega

theorem leadZeros_le (x : Nat) : leadZeros x ≤ 64 := by
  unfold leadZeros
  split <;> omega

theorem leadZeros_add_log2 {x : Nat} (h0 : x ≠ 0) (hx : x < 2 ^ 64) : leadZeros x + (x.log2 + 1) = 64 := by
  have := (Nat.log2_lt h0).mpr hx
  rw [leadZeros, if_neg h0]
  omega

theorem testBit_eq_false_of_leadZeros {x i : Nat} (hx : x < 2 ^ 64) (hi : 64 - leadZeros x ≤ i) : x.testBit i = false := by
  by_cases h0 : x = 0
  · rw [h0, Nat.zero_testBit]
  · have := leadZeros_add_log2 h0 hx
    exact Nat.testBit_lt_two_pow (Nat.lt_log2_self.trans_le (Nat.pow_le_pow_right (by decide) (by omega)))

theorem testBit_leadZeros {x : Nat} (hx : x < 2 ^ 64) (h : leadZeros x < 64) : x.testBit (63 - leadZeros x) = true := by
  have h0 : x ≠ 0 := by
    rintro rfl
    exact absurd h (by decide)
  have top : 63 - leadZeros x = x.log2 := by
    have := leadZeros_add_log2 h0 hx
    omega
  rw [top, Nat.testBit_log2 h0]

theorem trailZeros_le (n x : Nat) : trailZeros n x ≤ n := by
  induction n generalizing x with
  | zero => exact Nat.le_refl 0
  | succ n ih =>
    have := ih (x / 2)
    unfold trailZeros
    split <;> omega

theorem testBit_of_lt_trailZeros {n x i : Nat} (h : i < trailZeros n x) : x.testBit i = false := by
  induction n generalizing x i with
  | zero => exact absurd h (Nat.not_lt_zero i)
  | succ n ih =>
    unfold trailZeros at h
    split at h
    case isTrue => exact absurd h (Nat.not_lt_zero i)
    case isFalse even =>
      cases i with
      | zero => rw [Nat.testBit_zero, decide_eq_false even]
      | succ i => rw [Nat.testBit_succ, ih (by omega)]

theorem testBit_trailZeros {n x : Nat} (h : trailZeros n x < n) : x.testBit (trailZeros n x) = true := by
  induction n generalizing x with
  | zero => exact absurd h (Nat.not_lt_zero _)
  | succ n ih =>
    unfold trailZeros at h ⊢
    split
    case isTrue odd => rw [Nat.testBit_zero, decide_eq_true odd]
    case isFalse even =>
      rw [if_neg even] at h
      rw [Nat.add_comm, Nat.testBit_succ, ih (by omega)]

theorem popBits_eq_countP (n x : Nat) : popBits n x = (List.range n).countP fun i => x.testBit i := by
  induction n generalizing x with
  | zero => rfl
  | succ n ih =>
    have low : x % 2 = if x.testBit 0 then 1 else 0 := by
      rw [Nat.testBit_zero]
      split <;> simp_all
    rw [popBits, ih, List.range_succ_eq_map, List.countP_cons, List.countP_map, low, Nat.add_comm]
    simp only [Function.comp_def, Nat.succ_eq_add_one, Nat.testBit_succ]

theorem popBits_le (n x : Nat) : popBits n x ≤ n := by
  rw [popBits_eq_countP]
  exact List.countP_le_length.trans_eq List.length_range

theorem testBit_reverseBits (n x acc j : Nat) :
    (reverseBits n x acc).testBit j = if j < n then x.testBit (n - 1 - j) else acc.testBit (j - n) := by
  induction n generalizing x acc with
  | zero => simp [reverseBits]
  | succ n ih =>
    rw [reverseBits, ih]
    rcases lt_trichotomy j n with h | rfl | h
    · rw [if_pos h, if_pos (by omega), ← Nat.testBit_succ]
      congr 1
      omega
    · simp [Nat.testBit_zero]
    · obtain ⟨k, rfl⟩ := Nat.exists_eq_add_of_lt h
      rw [if_neg (by omega), if_neg (by omega), show n + k + 1 - n = k + 1 by omega, Nat.testBit_succ]
      congr 1 <;> omega

theorem clz_spec {x v : Word} (hv : v = BitVec.ofNat 64 (leadZeros x.toNat)) :
    v.toNat ≤ 64 ∧ (∀ i, 64 - v.toNat ≤ i → x.getLsbD i = false) ∧ (v.toNat < 64 → x.getLsbD (63 - v.toNat) = true) := by
  rw [hv, toNat_ofNat_of_le_64 (leadZeros_le _)]
  exact ⟨leadZeros_le _, fun _ => testBit_eq_false_of_leadZeros x.isLt, testBit_leadZeros x.isLt⟩

theorem ctz_spec {x v : Word} (hv : v = BitVec.ofNat 64 (trailZeros 64 x.toNat)) :
    v.toNat ≤ 64 ∧ (∀ i, i < v.toNat → x.getLsbD i = false) ∧ (v.toNat < 64 → x.getLsbD v.toNat = true) := by
  rw [hv, toNat_ofNat_of_le_64 (trailZeros_le 64 _)]
  exact ⟨trailZeros_le 64 _, fun _ => testBit_of_lt_trailZeros, testBit_trailZeros⟩

theorem toNat_popc (x : Word) :
    (BitVec.ofNat 64 (popBits 64 x.toNat)).toNat = (List.range 64).countP fun i => x.getLsbD i := by
  rw [toNat_ofNat_of_le_64 (popBits_le 64 _), popBits_eq_countP]
  rfl

theorem getLsbD_brev {i : Nat} (x : Word) (hi : i < 64) :
    (BitVec.ofNat 64 (reverseBits 64 x.toNat 0)).getLsbD (63 - i) = x.getLsbD i := by
  have back : 64 - 1 - (63 - i) = i := by omega
  have inside : 63 - i < 64 := by omega
  simp only [BitVec.getLsbD_ofNat, testBit_reverseBits, inside, back, if_true, decide_true, Bool.true_and,
    BitVec.testBit_toNat]

theorem intResultsPart : IntResultsPart := by
  intro s d a b
  exact ⟨⟨decode_rrr (Coded.add d a b) rfl rfl, rfl⟩, ⟨decode_rrr (Coded.sub d a b) rfl rfl, rfl⟩,
    ⟨decode_rrr (Coded.mul d a b) rfl rfl, rfl⟩,
    ⟨decode_rrr (Coded.mulh d a b) rfl rfl, congrArg (put s d · 4) (mulHigh_eq_extractLsb' _ _)⟩,
    ⟨decode_rrr (Coded.mulhn d a b) rfl rfl, congrArg (put s d · 4) (mulHighN_eq_extractLsb' _ _)⟩,
    ⟨decode_rrr (Coded.div d a b) rfl rfl, congrArg (put s d · 4) (divSigned_eq_sdiv _ _)⟩,
    ⟨decode_rrr (Coded.divn d a b) rfl rfl, rfl⟩,
    ⟨decode_rrr (Coded.rem d a b) rfl rfl, congrArg (put s d · 4) (remSigned_eq_srem _ _)⟩,
    ⟨decode_rrr (Coded.remn d a b) rfl rfl, congrArg (put s d · 4) (remUnsigned_eq_umod _ _)⟩,
    ⟨decode_rrr (Coded.and d a b) rfl rfl, rfl⟩, ⟨decode_rrr (Coded.or d a b) rfl rfl, rfl⟩,
    ⟨decode_rrr (Coded.xor d a b) rfl rfl, rfl⟩, ⟨decode_rrr (Coded.andn d a b) rfl rfl, rfl⟩,
    ⟨decode_rrr (Coded.orn d a b) rfl rfl, rfl⟩, ⟨decode_rrr (Coded.xnor d a b) rfl rfl, rfl⟩,
    ⟨decode_rrr (Coded.shl d a b) rfl rfl, rfl⟩, ⟨decode_rrr (Coded.shr d a b) rfl rfl, rfl⟩,
    ⟨decode_rrr (Coded.sra d a b) rfl rfl, rfl⟩, ⟨decode_rrr (Coded.rol d a b) rfl rfl, rfl⟩,
    ⟨decode_rrr (Coded.ror d a b) rfl rfl, rfl⟩,
    ⟨decode_rrr (Coded.min d a b) rfl rfl, congrArg (put s d · 4) (minSigned_eq _ _)⟩,
    ⟨decode_rrr (Coded.max d a b) rfl rfl, congrArg (put s d · 4) (maxSigned_eq _ _)⟩,
    ⟨decode_rrr (Coded.minn d a b) rfl rfl, congrArg (put s d · 4) (minUnsigned_eq _ _)⟩,
    ⟨decode_rrr (Coded.maxn d a b) rfl rfl, congrArg (put s d · 4) (maxUnsigned_eq _ _)⟩,
    ⟨decode_rrr (Coded.slt d a b) rfl rfl, congrArg (put s d · 4) (flagWord_decide _)⟩,
    ⟨decode_rrr (Coded.sltn d a b) rfl rfl, congrArg (put s d · 4) (flagWord_decide _)⟩,
    ⟨decode_rrr (Coded.seq d a b) rfl rfl, congrArg (put s d · 4) (flagWord_beq _ _)⟩,
    ⟨decode_rrr (Coded.sne d a b) rfl rfl, congrArg (put s d · 4) (flagWord_bne _ _)⟩,
    ⟨decode_rrr (Coded.clz d a) rfl rfl, _, clz_spec rfl, rfl⟩,
    ⟨decode_rrr (Coded.ctz d a) rfl rfl, _, ctz_spec rfl, rfl⟩,
    ⟨decode_rrr (Coded.popc d a) rfl rfl, _, toNat_popc _, rfl⟩,
    ⟨decode_rrr (Coded.brev d a) rfl rfl, _, fun _ => getLsbD_brev _, rfl⟩,
    ⟨decode_rrr (Coded.sextb d a) rfl rfl, _, rfl, rfl⟩, ⟨decode_rrr (Coded.sexth d a) rfl rfl, _, rfl, rfl⟩,
    ⟨decode_rrr (Coded.sextw d a) rfl rfl, _, rfl, rfl⟩, ⟨decode_rrr (Coded.zextb d a) rfl rfl, _, rfl, rfl⟩,
    ⟨decode_rrr (Coded.zexth d a) rfl rfl, _, rfl, rfl⟩, ⟨decode_rrr (Coded.zextw d a) rfl rfl, _, rfl, rfl⟩⟩

/-- Settles O1: the shared decoding of the RRR layout, and for each value that the model computes another way the lemma that
it is the rule's. -/
theorem intResults : Obligations.IntResults := by
  unfold Obligations.IntResults
  exact ⟨intResultsPart, divisionRulePart⟩

end Sys2Proof.Machine
end

section
/-! MFSR and MTSR (R407, R408): the two forms and the write events go through the mode check alone, and a register that a
partition holds reads after a write as the bits its field map keeps. -/

namespace Sys2Proof.Machine

open Sys2Proof.Claims

/-! ### Which numbers the mode allows (R25) -/

/-- In user mode a meaning that checks a supervisor's number takes PRIVILEGE, whatever follows the check. -/
theorem State.finish_sysAllowed_bind_denied {s : State} {n : Nat} (k : Unit → Except Halt State) (hn : 0x100 ≤ n)
    (hs : s.cur.sup = false) : s.finish (s.sysAllowed n >>= k) = .next (s.takeTrap (.at .privilege 0)) := by
  have denied : s.sysAllowed n = .error (.trap (.at .privilege 0)) := by simp [State.sysAllowed, trapIf, hn, hs]
  rw [denied]
  rfl

theorem State.sysAllowed_eq_ok {s : State} {n : Nat} (h : n < 0x100 ∨ s.cur.sup = true) : s.sysAllowed n = .ok () := by
  refine trapIf_ok.mpr ?_
  rcases h with h | h <;> simp [h]

theorem State.finish_sysAllowed_bind {s : State} {n : Nat} (k : Unit → Except Halt State)
    (h : n < 0x100 ∨ s.cur.sup = true) : s.finish (s.sysAllowed n >>= k) = s.finish (k ()) := by
  rw [State.sysAllowed_eq_ok h]
  rfl

/-! ### MFSR and MTSR (R407) -/

theorem exec_mfsr_privilege {s : State} {n : BitVec 15} (d : SReg) (hn : 0x100 ≤ n.toNat) (hs : s.cur.sup = false) :
    exec (.mfsr d n) s = .next (s.takeTrap (.at .privilege 0)) :=
  State.finish_sysAllowed_bind_denied _ hn hs

theorem exec_mtsr_privilege {s : State} {n : BitVec 15} (d : SReg) (hn : 0x100 ≤ n.toNat) (hs : s.cur.sup = false) :
    exec (.mtsr n d) s = .next (s.takeTrap (.at .privilege 0)) :=
  State.finish_sysAllowed_bind_denied _ hn hs

theorem exec_mfsr_allowed {s : State} {n : BitVec 15} (d : SReg) (h : n.toNat < 0x100 ∨ s.cur.sup = true) :
    exec (.mfsr d n) s = put s d (s.sysRead n.toNat) 4 :=
  State.finish_sysAllowed_bind _ h

/-- A write of PTROOT waits for the retry latch before anything else (R376, R385). -/
theorem exec_mtsr_latch {s : State} {n : BitVec 15} (d : SReg) (h : n.toNat < 0x100 ∨ s.cur.sup = true)
    (wait : n.toNat = 0x110 ∧ s.cur.latch.sent = true) : exec (.mtsr n d) s = .next s := by
  have latch : (decide (n.toNat = 0x110) && s.cur.latch.sent) = true := by simpa using wait
  refine (State.finish_sysAllowed_bind _ h).trans ?_
  rw [latch]
  rfl

theorem exec_mtsr_allowed {s : State} {n : BitVec 15} (d : SReg) (h : n.toNat < 0x100 ∨ s.cur.sup = true)
    (free : ¬(n.toNat = 0x110 ∧ (s.cur.latch.sent = true ∨ s.requestsOut s.cur.part s.cur.pid = true))) :
    exec (.mtsr n d) s = .next ((s.next 4).sysWrite n.toNat (s.rd d)) := by
  have latch : (decide (n.toNat = 0x110) && s.cur.latch.sent) = false := by
    simpa using fun hn => (not_or.mp fun w => free ⟨hn, w⟩).1
  have requests : (decide (n.toNat = 0x110) && s.requestsOut s.cur.part s.cur.pid) = false := by
    simpa using fun hn => (not_or.mp fun w => free ⟨hn, w⟩).2
  refine (State.finish_sysAllowed_bind _ h).trans ?_
  rw [latch, requests]
  rfl

/-! ### The writes that are events (log 40) -/

theorem State.regWrite_allowed {s : State} {n : Nat} (v : Word) (h : n < 0x100 ∨ s.cur.sup = true) :
    s.regWrite n v = .next (s.sysWrite n v) :=
  State.finish_sysAllowed_bind _ h

theorem exec_ptrootWrite_free {s : State} (v : Word) (hs : s.cur.sup = true) (hl : s.cur.latch.sent = false)
    (hr : s.requestsOut s.cur.part s.cur.pid = false) : exec (.ptrootWrite v) s = .next (s.sysWrite 0x110 v) := by
  show execPtrootWrite v s = _
  simp only [execPtrootWrite, hl, hr, Bool.and_false]
  exact State.regWrite_allowed v (.inr hs)

theorem exec_registerWrite_sys {s : State} {n : BitVec 15} (v : Word) (hs : s.cur.sup = true)
    (hw : sysWritable n.toNat = true) (hn : n.toNat ≠ 0x110) :
    exec (.registerWrite (.sys n) v) s = .next (s.sysWrite n.toNat v) := by
  show execRegisterWrite (.sys n) v s = _
  simp only [execRegisterWrite, hw, hn]
  exact State.regWrite_allowed v (.inr hs)

/-! ### Masks of fields -/

theorem zextWord_setWidth {w : Nat} (v : Word) (hw : w ≤ 64) :
    zextWord (v.setWidth w) = v &&& BitVec.ofNat 64 (2 ^ w - 1) := by
  have fits : 2 ^ w - 1 < 2 ^ 64 := by
    have := Nat.pow_le_pow_right (n := 2) (by decide) hw
    omega
  apply BitVec.eq_of_toNat_eq
  rw [BitVec.toNat_and, BitVec.toNat_ofNat, Nat.mod_eq_of_lt fits, Nat.and_two_pow_sub_one_eq_mod, zextWord,
    BitVec.toNat_setWidth, BitVec.toNat_setWidth, Nat.mod_eq_of_lt ((Nat.mod_le _ _).trans_lt v.isLt)]

theorem fcsrStored_eq (v : Word) :
    fcsrStored v = BitVec.ofNat 64 (v.toNat % 64 + (if v.toNat / 256 % 8 ≤ 4 then v.toNat / 256 % 8 * 256 else 0)) := by
  rw [← ite_zero_mul, Nat.mul_comm]
  rfl

/-! ### What the partition holds after a write -/

theorem Part.sysStore_num (p : Part) (n : Nat) (v : Word) : (p.sysStore n v).num = p.num := by
  unfold Part.sysStore
  repeat' split
  all_goals rfl

theorem Part.bpVisible_of_invasive {p : Part} (hd : p.debug = .invasive) : p.bpVisible = true := by
  simp [Part.bpVisible, hd]

theorem State.sysRead_ibp0 (s : State) :
    s.sysRead 0x171 = if s.curPart.bpVisible then s.curPart.ibp[0] else 0 := rfl

theorem State.sysRead_dwp0 (s : State) :
    s.sysRead 0x175 = if s.curPart.bpVisible then s.curPart.dwp[0] else 0 := rfl

section

variable {s : State} (hp : s.part? s.cur.part ≠ none)
include hp

theorem State.curPart_updPart {f : Part → Part} (hf : ∀ p, (f p).num = p.num) :
    (s.updPart s.cur.part f).curPart = f s.curPart := by
  obtain ⟨p, h⟩ := Option.ne_none_iff_exists'.mp hp
  simp only [State.curPart, State.part, State.updPart_cur, State.part?_updPart s _ _ f hf, h, if_true, Option.map_some,
    Option.getD_some]

theorem State.curPart_sysStore (n : Nat) (v : Word) :
    (s.updPart s.cur.part (fun p => p.sysStore n v)).curPart = s.curPart.sysStore n v :=
  State.curPart_updPart hp fun p => p.sysStore_num n v

/-! ### What a register reads after a write of it -/

theorem State.sysRead_sysWrite_dlthr (v : Word) : (s.sysWrite 0x100 v).sysRead 0x100 = v &&& 0xFFFFFFFF :=
  (congrArg (fun p : Part => zextWord p.dlthr) (State.curPart_sysStore hp 0x100 v)).trans
    (zextWord_setWidth v (by decide))

theorem State.sysRead_sysWrite_preempt (v : Word) : (s.sysWrite 0x101 v).sysRead 0x101 = v &&& 0x7F :=
  (congrArg (fun p : Part => zextWord p.preempt) (State.curPart_sysStore hp 0x101 v)).trans
    (zextWord_setWidth v (by decide))

theorem State.sysRead_sysWrite_sttroot (v : Word) : (s.sysWrite 0x118 v).sysRead 0x118 = v &&& 0x80000000FFFFFFFF :=
  congrArg Part.sttroot (State.curPart_sysStore hp 0x118 v)

theorem State.sysRead_sysWrite_dqovf (v : Word) : (s.sysWrite 0x102 v).sysRead 0x102 = v &&& 0x000FFFFFFFFFFFFF :=
  congrArg Part.dqovf (State.curPart_updPart hp (f := fun p => { p with dqovf := v &&& 0x000FFFFFFFFFFFFF }) fun _ => rfl)

/-- SPAREA takes the low bits of a write, and its base while no slot is in use (R263). -/
theorem State.curPart_writeSparea (v : Word) :
    (s.writeSparea s.cur.part v).curPart = { s.curPart with
      sparea := (if s.slotsInUse s.cur.part then s.curPart.sparea &&& 0x000FFFFFFFFF8000 else v &&& 0x000FFFFFFFFF8000)
        ||| (v &&& 0x7FFF) } :=
  State.curPart_updPart hp fun _ => rfl

theorem State.sysRead_sysWrite_sparea (v : Word) :
    (s.sysWrite 0x119 v).sysRead 0x119
      = if s.slotsInUse s.cur.part then (s.curPart.sparea &&& 0x000FFFFFFFFF8000) ||| (v &&& 0x7FFF)
        else v &&& 0x000FFFFFFFFFFFFF := by
  refine (congrArg Part.sparea (State.curPart_writeSparea hp v)).trans ?_
  cases s.slotsInUse s.cur.part with
  | true => rfl
  | false => exact BitVec.and_or_distrib_left.symm

/-- IMGAREA takes v of a write, and its base while no slot is in use (R396). -/
theorem State.curPart_writeImgarea (v : Word) :
    (s.writeImgarea s.cur.part v).curPart = { s.curPart with
      imgarea := (if s.slotsInUse s.cur.part then s.curPart.imgarea &&& 0x000FFFFFFFFFF000 else v &&& 0x000FFFFFFFFFF000)
        ||| (v &&& 1) } :=
  State.curPart_updPart hp fun _ => rfl

theorem State.sysRead_sysWrite_imgarea (v : Word) :
    (s.sysWrite 0x11B v).sysRead 0x11B
      = if s.slotsInUse s.cur.part then (s.curPart.imgarea &&& 0x000FFFFFFFFFF000) ||| (v &&& 1)
        else v &&& 0x000FFFFFFFFFF001 := by
  refine (congrArg Part.imgarea (State.curPart_writeImgarea hp v)).trans ?_
  cases s.slotsInUse s.cur.part with
  | true => rfl
  | false => exact BitVec.and_or_distrib_left.symm

/-- CHAREA takes its base of a write too while there is no cell (R321). -/
theorem State.curPart_writeCharea (v : Word) (hc : s.cells = []) :
    (s.writeCharea s.cur.part v).curPart = { s.curPart with
      charea := (v &&& 0x000FFFFFFC000000) ||| (v &&& 0x20) ||| BitVec.ofNat 64 (min (v.toNat % 32) 20) } := by
  unfold State.writeCharea
  rw [hc]
  exact State.curPart_updPart hp fun _ => rfl

theorem State.sysRead_sysWrite_charea (v : Word) (hc : s.cells = []) :
    (s.sysWrite 0x11A v).sysRead 0x11A
      = (v &&& 0x000FFFFFFC000020) ||| BitVec.ofNat 64 (min (v.toNat % 32) 20) :=
  (congrArg Part.charea (State.curPart_writeCharea hp v hc)).trans
    (congrArg (· ||| _) BitVec.and_or_distrib_left.symm)

/-! ### The debug registers (R410, R475, log 72) -/

theorem State.sysRead_sysWrite_ibp0 (v : Word) (hd : s.curPart.debug = .invasive) :
    (s.sysWrite 0x171 v).sysRead 0x171 = v &&& 0xFFFFFFFFFFFFFFFC := by
  have stored : (s.sysWrite 0x171 v).curPart = { s.curPart with ibp := s.curPart.ibp.set 0 (ibpStored v) } :=
    (State.curPart_sysStore hp 0x171 v).trans (if_pos hd)
  rw [State.sysRead_ibp0, stored]
  exact (if_pos (Part.bpVisible_of_invasive hd)).trans (Vector.getElem_set_self _)

theorem State.sysRead_sysWrite_dwp0 (v : Word) (hd : s.curPart.debug = .invasive) :
    (s.sysWrite 0x175 v).sysRead 0x175 = v &&& 0x000FFFFFFFFFFFFB := by
  have stored : (s.sysWrite 0x175 v).curPart = { s.curPart with dwp := s.curPart.dwp.set 0 (dwpStored v) } :=
    (State.curPart_sysStore hp 0x175 v).trans (if_pos hd)
  rw [State.sysRead_dwp0, stored]
  exact (if_pos (Part.bpVisible_of_invasive hd)).trans (Vector.getElem_set_self _)

theorem State.sysRead_sysWrite_ibp0_ignored (v : Word) (hd : s.curPart.debug ≠ .invasive) :
    (s.sysWrite 0x171 v).sysRead 0x171 = s.sysRead 0x171 := by
  have kept : (s.sysWrite 0x171 v).curPart = s.curPart := (State.curPart_sysStore hp 0x171 v).trans (if_neg hd)
  rw [State.sysRead_ibp0, State.sysRead_ibp0, kept]

end

/-- A partition that owns no link writes nothing into LINKCFG (R451). -/
theorem State.sysWrite_linkcfg_ignored {s : State} (v : Word) (h : s.curPart.linkOwn = false) : s.sysWrite 0x160 v = s :=
  if_neg (Bool.eq_false_iff.mp h)

/-! ### The bucket words (R440, R441) -/

theorem Bucket.refillWord_capped (b : Bucket) : b.capped.refillWord = b.refillWord := by
  unfold Bucket.capped
  split <;> rfl

theorem Bucket.refillWord_setRefill (b : Bucket) (v : Word) : (b.setRefill v).refillWord = v := by
  have cap : v.toNat / 2 ^ 32 % 2 ^ 32 = v.toNat / 2 ^ 32 := Nat.mod_eq_of_lt (by omega)
  apply BitVec.eq_of_toNat_eq
  rw [Bucket.setRefill, Bucket.refillWord_capped]
  simp only [Bucket.refillWord, BitVec.toNat_ofNat, cap]
  omega

/-- A bucket that is charged takes level, down to cap, and mark of a write. -/
theorem Bucket.setLevel_of_charged {b : Bucket} (h : b.rate ≠ 0xFFFFFFFF) (v : Word) :
    b.setLevel v = { b with
      mark := BitVec.ofNat 24 (v.toNat / 2 ^ 40), level := min (v.toNat % 2 ^ 40) b.cap.toNat, carry := 0 } :=
  if_neg (by simpa [Bucket.unlimited] using h)

theorem Bucket.setLevel_level {b : Bucket} (h : b.rate ≠ 0xFFFFFFFF) (v : Word) :
    (b.setLevel v).level = min (v.toNat % 2 ^ 40) b.cap.toNat := by
  rw [Bucket.setLevel_of_charged h]

theorem Bucket.setLevel_mark {b : Bucket} (h : b.rate ≠ 0xFFFFFFFF) (v : Word) :
    (b.setLevel v).mark.toNat = v.toNat / 2 ^ 40 := by
  rw [Bucket.setLevel_of_charged h, BitVec.toNat_ofNat]
  omega

/-- Settles O42: the check of the mode and the waits of PTROOT decide what an MTSR does; what each register then keeps is the
lemma of its write. -/
theorem systemRegisters : Obligations.SystemRegisters := by
  unfold Obligations.SystemRegisters
  refine ⟨fun s d n => ⟨fun hn hs => ⟨exec_mfsr_privilege d hn hs, exec_mtsr_privilege d hn hs⟩,
      fun h => ⟨exec_mfsr_allowed d h, exec_mtsr_latch d h, exec_mtsr_allowed d h⟩⟩,
    fun s v b n => ⟨State.regWrite_allowed (n := 0x10) v (.inl (by decide)), fun hs => ?events⟩, fun s v hp => ?fields,
    fun b v => ⟨b.refillWord_setRefill v, fun h => ⟨Bucket.setLevel_level h v, Bucket.setLevel_mark h v⟩⟩⟩
  case events =>
    have write : ∀ m, s.regWrite m v = .next (s.sysWrite m v) := fun _ => State.regWrite_allowed v (.inr hs)
    exact ⟨exec_ptrootWrite_free v hs, write 0x130, write (0x120 + b.val), write 0x102, write 0x119, write 0x11A,
      write 0x11B, write 0x160, exec_registerWrite_sys v hs⟩
  case fields =>
    exact ⟨fcsrStored_eq v, rfl, State.sysRead_sysWrite_dlthr hp v, State.sysRead_sysWrite_preempt hp v,
      State.sysRead_sysWrite_dqovf hp v, State.sysRead_sysWrite_sttroot hp v,
      fun free => ⟨(State.sysRead_sysWrite_sparea hp v).trans (if_neg (Bool.eq_false_iff.mp free)),
        (State.sysRead_sysWrite_imgarea hp v).trans (if_neg (Bool.eq_false_iff.mp free))⟩,
      fun used => ⟨(State.sysRead_sysWrite_sparea hp v).trans (if_pos used),
        (State.sysRead_sysWrite_imgarea hp v).trans (if_pos used)⟩,
      State.sysRead_sysWrite_charea hp v,
      fun hd => ⟨State.sysRead_sysWrite_ibp0 hp v hd, State.sysRead_sysWrite_dwp0 hp v hd⟩,
      State.sysRead_sysWrite_ibp0_ignored hp v, State.sysWrite_linkcfg_ignored v⟩

end Sys2Proof.Machine
end

section
/-! What the device's own work leaves of its dies and partitions: a memory access, a fault of an area, a spill, a move or a
park changes the state of no die, and of a partition neither its number nor its supervisor, its code measurement, whether it
has started and whether a FAULTEND waits. -/

namespace Sys2Proof.Machine

/-- What stands of a partition through the device's own work. -/
def Part.standing (p : Part) : Nat × Option Pid × Bool × Option EReg × BitVec 512 :=
  (p.num, p.sup, p.spawned, p.placing, p.mCode)

theorem Part.standing_iff {p q : Part} : p.standing = q.standing ↔
    p.num = q.num ∧ p.sup = q.sup ∧ p.spawned = q.spawned ∧ p.placing = q.placing ∧ p.mCode = q.mCode := by
  simp [Part.standing]

/-- What stands of the dies and the partitions. -/
def State.standing (s : State) : Vector DieSt 2 × List (Nat × Option Pid × Bool × Option EReg × BitVec 512) :=
  (s.dies, s.parts.map Part.standing)

theorem State.die_of_standing {s t : State} (h : t.standing = s.standing) (d : Nat) : t.die d = s.die d := by
  have dies : t.dies = s.dies := congrArg Prod.fst h
  simp [State.die, dies]

/-- What stands of a partition is that of the first part of its number in the list. -/
theorem State.part?_standing (s : State) (n : Nat) :
    (s.part? n).map Part.standing = s.standing.2.find? (fun x => x.1 == n) :=
  (List.find?_map (f := Part.standing) (p := fun x : Nat × Option Pid × Bool × Option EReg × BitVec 512 => x.1 == n)
    (l := s.parts)).symm

theorem State.part_of_standing {s t : State} (h : t.standing = s.standing) (n : Nat) :
    (t.part n).standing = (s.part n).standing := by
  have found : (t.part? n).map Part.standing = (s.part? n).map Part.standing := by
    rw [State.part?_standing, State.part?_standing, h]
  simpa [State.part, ← Option.getD_map] using congrArg (Option.getD · Part.absent.standing) found

theorem State.part?_isSome_of_standing {s t : State} (h : t.standing = s.standing) (n : Nat) :
    (t.part? n).isSome = (s.part? n).isSome := by
  rw [← Option.isSome_map (f := Part.standing), State.part?_standing, h, ← State.part?_standing, Option.isSome_map]

theorem State.foldl_standing {α : Type} {f : State → α → State} (hf : ∀ s a, (f s a).standing = s.standing) (l : List α)
    (s : State) : (l.foldl f s).standing = s.standing :=
  foldl_keeps (fun t : State => t.standing = s.standing) f (fun t a h => (hf t a).trans h) l s rfl

theorem State.updPart_standing {f : Part → Part} (hf : ∀ p, (f p).standing = p.standing) (s : State) (n : Nat) :
    (s.updPart n f).standing = s.standing := by
  simp only [State.standing, State.updPart, List.map_map, Prod.mk.injEq, List.map_inj_left, true_and]
  intro p _
  simp only [Function.comp]
  split
  · exact hf p
  · rfl

/-! ### Contexts, cores and quads -/

@[simp] theorem State.updCore_standing (s : State) (c : Nat) (f : Core → Core) : (s.updCore c f).standing = s.standing := by
  simp [State.standing]

@[simp] theorem State.updQuad_standing (s : State) (q : Nat) (f : Quad → Quad) : (s.updQuad q f).standing = s.standing := by
  simp [State.standing]

@[simp] theorem State.updProc_standing (s : State) (pid : Pid) (f : Proc → Proc) :
    (s.updProc pid f).standing = s.standing := by
  simp [State.standing]

@[simp] theorem State.mapProcs_standing (s : State) (f : Proc → Proc) : (s.mapProcs f).standing = s.standing := rfl

@[simp] theorem State.hostEvent_standing (s : State) (k : Nat) (w : List Word) : (s.hostEvent k w).standing = s.standing := by
  simp [State.standing]

@[simp] theorem State.drew_standing (s : State) : s.drew.standing = s.standing := rfl

@[simp] theorem State.rejoin_standing (s : State) (pid : Pid) : (s.rejoin pid).standing = s.standing := by
  unfold State.rejoin
  repeat' split
  all_goals simp

@[simp] theorem State.enqueue_standing (s : State) (pid : Pid) : (s.enqueue pid).standing = s.standing := by
  unfold State.enqueue
  repeat' split
  all_goals simp

@[simp] theorem State.dequeue_standing (s : State) (pid : Pid) : (s.dequeue pid).standing = s.standing := by
  unfold State.dequeue
  split <;> simp

@[simp] theorem State.freeSlot_standing (s : State) (c slot : Nat) (pid : Pid) :
    (s.freeSlot c slot pid).standing = s.standing := State.updCore_standing s c _

@[simp] theorem State.latchAt_standing (s : State) (c : Nat) (l : Latched) : (s.latchAt c l).standing = s.standing :=
  State.updCore_standing s c _

@[simp] theorem State.updRec_standing (s : State) (pid : Pid) (f : Rec → Rec) : (s.updRec pid f).standing = s.standing := rfl

@[simp] theorem State.unqueue_standing (s : State) (c : Nat) (r : Rec) : (s.unqueue c r).standing = s.standing :=
  State.updCore_standing s c _

@[simp] theorem State.parkNow_standing (s : State) (pid : Pid) (hold : Bool) :
    (s.parkNow pid hold).standing = s.standing := by
  unfold State.parkNow
  repeat' split
  all_goals simp

@[simp] theorem State.parkProc_standing (s : State) (pid : Pid) (hold : Bool) :
    (s.parkProc pid hold).standing = s.standing := by
  unfold State.parkProc
  split <;> simp

/-! ### Seals, marks and the error log -/

@[simp] theorem State.rawPut_standing (s : State) (pa : Nat) (l : List Byte) : (s.rawPut pa l).standing = s.standing := by
  unfold State.rawPut
  split <;> rfl

@[simp] theorem State.rawZero_standing (s : State) (pa n : Nat) : (s.rawZero pa n).standing = s.standing := by
  unfold State.rawZero
  split <;> rfl

@[simp] theorem State.wholeMarks_standing (s : State) (pa n : Nat) : (s.wholeMarks pa n).standing = s.standing := rfl

@[simp] theorem State.noteKey_standing (s : State) (key : Option Nat) (pa n : Nat) :
    (s.noteKey key pa n).standing = s.standing := by
  unfold State.noteKey
  split
  · exact State.foldl_standing (fun s sec => by split <;> rfl) _ _
  · rfl

theorem State.sealSector_standing (key : Option Nat) (pa n : Nat) (s : State) (sec : Nat) :
    (State.sealSector key pa n s sec).standing = s.standing := by
  unfold State.sealSector
  split
  · rfl
  · dsimp only
    split
    · rfl
    · exact State.rawPut_standing s _ _

@[simp] theorem State.sealFor_standing (s : State) (key : Option Nat) (pa n : Nat) :
    (s.sealFor key pa n).standing = s.standing := by
  unfold State.sealFor
  split
  · exact State.foldl_standing (State.sealSector_standing key pa n) _ _
  · rfl

@[simp] theorem State.logEntry_standing (s : State) (part a b c : Nat) : (s.logEntry part a b c).standing = s.standing := by
  unfold State.logEntry
  split
  · rfl
  · dsimp only
    rw [State.updPart_standing]
    · rw [State.rawPut_standing, State.rawPut_standing, State.wholeMarks_standing, State.sealFor_standing]
    · exact fun _ => rfl

@[simp] theorem State.logMemory_standing (s : State) (source kind pa : Nat) :
    (s.logMemory source kind pa).standing = s.standing := by
  unfold State.logMemory
  split <;> simp

@[simp] theorem State.logAll_standing (s : State) (a b c : Nat) : (s.logAll a b c).standing = s.standing :=
  State.foldl_standing (fun s (p : Part) => State.logEntry_standing s p.num a b c) _ _

@[simp] theorem State.readSector_standing (s : State) (sec : Nat) : (s.readSector sec).standing = s.standing := by
  unfold State.readSector
  split
  · rfl
  · split
    · rfl
    · dsimp only
      split <;> exact State.logMemory_standing _ _ _ _

@[simp] theorem State.readRange_standing (s : State) (pa n : Nat) : (s.readRange pa n).standing = s.standing := by
  unfold State.readRange
  split
  · exact State.foldl_standing State.readSector_standing _ _
  · rfl

theorem State.storeSector_standing (pa n : Nat) (s : State) (sec : Nat) :
    (State.storeSector pa n s sec).standing = s.standing := by
  unfold State.storeSector
  split
  · rfl
  · exact State.readSector_standing s sec

@[simp] theorem State.storeMarks_standing (s : State) (pa n : Nat) : (s.storeMarks pa n).standing = s.standing := by
  unfold State.storeMarks
  split
  · exact State.foldl_standing (State.storeSector_standing pa n) _ _
  · rfl

/-! ### The L2 and the stores handed to a link -/

@[simp] theorem State.oweSector_standing (s : State) (p : Option Part) : (s.oweSector p).standing = s.standing := by
  unfold State.oweSector
  split
  · rfl
  · split
    · rfl
    · unfold State.updBucket
      exact State.updPart_standing (fun _ => by rfl) _ _

@[simp] theorem State.evictLine_standing (s : State) (l : L2Line) : (s.evictLine l).standing = s.standing :=
  State.foldl_standing (fun s _ => State.oweSector_standing s _) _ _

@[simp] theorem State.roomInSet_standing (s : State) (h : Hint) (line : Nat) :
    (s.roomInSet h line).standing = s.standing := by
  unfold State.roomInSet
  dsimp only
  repeat' split
  all_goals simp

@[simp] theorem State.holdSector_standing (s : State) (h : Hint) (x : L2Sector) :
    (s.holdSector h x).standing = s.standing := by
  unfold State.holdSector
  split
  · rfl
  · exact State.roomInSet_standing s h _

@[simp] theorem State.fillL2_standing (s : State) (v : Via) (pa n : Nat) : (s.fillL2 v pa n).standing = s.standing := by
  unfold State.fillL2
  split
  · refine State.foldl_standing (fun s sec => ?_) _ _
    split <;> simp
  · rfl

@[simp] theorem State.dirtyL2_standing (s : State) (v : Via) (pa n : Nat) : (s.dirtyL2 v pa n).standing = s.standing := by
  unfold State.dirtyL2
  split
  · refine State.foldl_standing (fun s sec => ?_) _ _
    dsimp only
    split <;> simp
  · rfl

@[simp] theorem State.dropL2_standing (s : State) (pa n : Nat) : (s.dropL2 pa n).standing = s.standing := rfl

theorem State.arrive_standing (s : State) (o : OutStore) : (s.arrive o).standing = s.standing := by
  unfold State.arrive
  repeat' split
  all_goals simp

@[simp] theorem State.flushFor_standing (s : State) (pa : Nat) : (s.flushFor pa).standing = s.standing := by
  unfold State.flushFor
  split
  · rfl
  · exact State.foldl_standing State.arrive_standing _ _

@[simp] theorem State.physPut_standing (s : State) (v : Via) (pa : Nat) (l : List Byte) :
    (s.physPut v pa l).standing = s.standing := by
  simp [State.physPut]

@[simp] theorem State.physZero_standing (s : State) (key : Option Nat) (pa n : Nat) :
    (s.physZero key pa n).standing = s.standing := by
  simp [State.physZero]

@[simp] theorem State.noteRead_standing (s : State) (v : Via) (pa n : Nat) : (s.noteRead v pa n).standing = s.standing := by
  simp [State.noteRead]

/-! ### Walks and the supervisor's areas -/

@[simp] theorem State.readNodes_standing (s : State) (p : Part) (va : Word) : (s.readNodes p va).standing = s.standing := by
  unfold State.readNodes
  split
  · exact State.foldl_standing (fun s a => State.noteRead_standing s _ a 8) _ _
  · rfl

@[simp] theorem State.prefetch_standing (s : State) (p : Part) (level : Nat) (leaf : Word) (x : Prefetch) :
    (s.prefetch p level leaf x).standing = s.standing := by
  unfold State.prefetch
  dsimp only
  split <;> simp

@[simp] theorem State.finishWalk_standing (s : State) (quad : Nat) (w : Walk) :
    (s.finishWalk quad w).standing = s.standing := by
  unfold State.finishWalk
  dsimp only
  split
  · simp
  · refine (State.foldl_standing (fun s x => State.prefetch_standing s _ _ _ x) _ _).trans ?_
    split <;> simp

@[simp] theorem State.freeWalker_standing (s : State) (quad : Nat) : (s.freeWalker quad).standing = s.standing :=
  State.foldl_standing (fun s w => State.finishWalk_standing s quad w) _ _

@[simp] theorem State.noteWalk_standing (s : State) (c : Nat) (p : Part) (va : Word) :
    (s.noteWalk c p va).standing = s.standing := by
  unfold State.noteWalk
  dsimp only
  repeat' split
  all_goals simp

@[simp] theorem State.noteArea_standing (s : State) (part : Nat) (t : TrapInfo) :
    (s.noteArea part t).standing = s.standing := by
  unfold State.noteArea
  repeat' split
  all_goals simp

@[simp] theorem State.fillSpill_standing (s : State) (r : Rec) : (s.fillSpill r).standing = s.standing := by
  unfold State.fillSpill
  split <;> simp

@[simp] theorem State.unqueueEnded_standing (s : State) (c : Nat) (r : Rec) :
    (s.unqueueEnded c r).standing = s.standing := by
  unfold State.unqueueEnded
  split
  · simp
  · exact State.updCore_standing s c _
  · rfl

@[simp] theorem State.parkAll_standing (s : State) (part : Nat) (keep : Pid) : (s.parkAll part keep).standing = s.standing := by
  unfold State.parkAll
  generalize List.range 90 = cores
  extract_lets s1
  have queued : s1.standing = s.standing :=
    State.foldl_standing (fun s c => State.foldl_standing (fun s r => State.unqueueEnded_standing s c r) _ s) cores s
  exact (State.foldl_standing (fun s (p : Proc) => State.parkProc_standing s p.pid true) _ _).trans queued

@[simp] theorem State.fatal_standing (s : State) (part : Nat) (r : Record) : (s.fatal part r).standing = s.standing := by
  have ended : ((s.parkAll part 0).updPart part (fun q => { q with ended := true })).standing = s.standing := by
    rw [State.updPart_standing]
    · exact State.parkAll_standing s part 0
    · exact fun _ => rfl
  unfold State.fatal
  rw [State.hostEvent_standing]
  split
  · exact (State.updProc_standing _ _ _).trans ended
  · exact ended

@[simp] theorem State.areaFault_standing (s : State) (part : Nat) (t : TrapInfo) :
    (s.areaFault part t).standing = s.standing := by
  unfold State.areaFault
  dsimp only
  repeat' split
  all_goals simp

theorem State.areaPieces_standing {s t : State} {p : Part} {va : Word} {n : Nat} {k : Access} {l : List (Word × Nat × Nat)}
    (h : s.areaPieces p va n k = .ok (t, l)) : t.standing = s.standing := by
  unfold State.areaPieces at h
  split at h
  · cases h
  · split at h
    · cases h
    · cases h
      generalize pieces va n = pieces
      exact State.foldl_standing (fun s (x : Word × Nat) => State.noteWalk_standing s 0 p x.1) pieces s

theorem State.areaPut_standing {s t : State} {p : Part} {va : Word} {l : List Byte} (h : s.areaPut p va l = .ok t) :
    t.standing = s.standing := by
  unfold State.areaPut at h
  cases hp : s.areaPieces p va l.length .write with
  | error e => rw [hp] at h; cases h
  | ok x =>
    rw [hp] at h
    cases h
    exact foldl_keeps (fun x : State × List Byte => x.1.standing = s.standing) _
      (fun _ _ m => (State.physPut_standing _ _ _ _).trans m) _ _ (State.areaPieces_standing hp)

theorem State.areaRead_standing {s t : State} {p : Part} {va : Word} {n : Nat} {l : List Byte} {b : Option (Word × Nat)}
    (h : s.areaRead p va n = .ok (t, l, b)) : t.standing = s.standing := by
  unfold State.areaRead at h
  cases hp : s.areaPieces p va n .read with
  | error e => rw [hp] at h; cases h
  | ok x =>
    rw [hp] at h
    cases h
    exact (State.foldl_standing (fun s x => State.noteRead_standing s _ _ _) _ _).trans (State.areaPieces_standing hp)

theorem State.ownPut_standing {s t : State} {p : Part} {pa : Nat} {l : List Byte} (h : s.ownPut p pa l = .ok t) :
    t.standing = s.standing := by
  unfold State.ownPut at h
  cases hp : s.physOff pa l.length with
  | error e => rw [hp] at h; cases h
  | ok x => rw [hp] at h; cases h; exact State.physPut_standing s _ _ _

theorem State.ownRead_standing {s t : State} {p : Part} {pa n : Nat} {l : List Byte} {b : Option (Word × Nat)}
    (h : s.ownRead p pa n = .ok (t, l, b)) : t.standing = s.standing := by
  unfold State.ownRead at h
  cases hp : s.physOff pa n with
  | error e => rw [hp] at h; cases h
  | ok x => rw [hp] at h; cases h; exact State.noteRead_standing s _ _ _

/-! ### Images -/

theorem State.imageWrite_standing {s t : State} {p : Proc} {off : Nat} {l : List Byte}
    (h : s.imageWrite p off l = .ok t) : t.standing = s.standing := by
  unfold State.imageWrite at h
  dsimp only at h
  split at h
  · split at h
    · cases h; rfl
    · exact State.ownPut_standing h
  · split at h
    · cases h; rfl
    · exact State.areaPut_standing h

@[simp] theorem State.imagePut_standing (s : State) (p : Proc) (off : Nat) (l : List Byte) :
    (s.imagePut p off l).standing = s.standing := by
  unfold State.imagePut
  split
  · exact State.imageWrite_standing ‹_›
  · exact State.areaFault_standing s _ _

@[simp] theorem State.syncImage_standing (s : State) (pid : Pid) (l : Proc → List (Nat × List Byte)) :
    (s.syncImage pid l).standing = s.standing := by
  unfold State.syncImage
  split
  · rfl
  · split
    · exact State.foldl_standing (fun s x => State.imagePut_standing s _ _ _) _ _
    · rfl

@[simp] theorem State.writeWhen_standing (s : State) (pid : Pid) (w : Writes) : (s.writeWhen pid w).standing = s.standing := by
  unfold State.writeWhen
  split
  · simp
  · simp [State.write]

/-! ### Scratchpad tables and pool pages -/

theorem ok_of_asArea {α : Type} {r : Except TrapInfo α} {a : α} (h : asArea r = .ok a) : r = .ok a := by
  cases r <;> cases h
  rfl

@[simp] theorem State.sweep_standing (s : State) (pid : Pid) : (s.sweep pid).standing = s.standing := by
  unfold State.sweep
  split <;> rfl

@[simp] theorem State.updDir_standing (s : State) (pid : Pid) (f : List (Nat × Nat) → List (Nat × Nat)) :
    (s.updDir pid f).standing = s.standing := by
  unfold State.updDir
  split <;> simp

theorem State.slotRead_standing {s t : State} {p : Proc} {off n : Nat} {l : List Byte}
    (h : s.slotRead p off n = .ok (t, l)) : t.standing = s.standing := by
  have read := ok_of_asArea h
  split at read
  · exact State.ownRead_standing (allGood_ok read)
  · exact State.areaRead_standing (allGood_ok read)

theorem State.slotWrite_standing {s t : State} {p : Proc} {off : Nat} {l : List Byte} (h : s.slotWrite p off l = .ok t) :
    t.standing = s.standing := by
  have written := ok_of_asArea h
  split at written
  · exact State.ownPut_standing written
  · exact State.areaPut_standing written

theorem State.sttGet_standing {s t : State} {pid : Pid} {v : Nat} {e : Word} (h : s.sttGet pid v = .ok (t, e)) :
    t.standing = s.standing := by
  unfold State.sttGet at h
  split at h
  · cases h; rfl
  · split at h
    · cases h; rfl
    · split at h
      · cases h
      · rename_i read
        rw [← State.slotRead_standing read]
        cases h
        repeat' split
        all_goals simp

theorem State.sttPut_standing {s t : State} {pid : Pid} {v : Nat} {e : Word} (h : s.sttPut pid v e = .ok t) :
    t.standing = s.standing := by
  unfold State.sttPut at h
  split at h
  · cases h; rfl
  · rename_i p _
    cases hw : s.slotWrite p (8 * v) (bytesOf 8 e.toNat) with
    | error x => rw [hw] at h; cases h
    | ok u =>
      rw [hw] at h
      cases h
      exact (State.updCore_standing u _ _).trans (State.slotWrite_standing hw)

@[simp] theorem State.poisonPage_standing (s : State) (id : Nat) : (s.poisonPage id).standing = s.standing := rfl

@[simp] theorem State.losePad_standing (s : State) (p : Proc) (v id : Nat) : (s.losePad p v id).standing = s.standing := by
  unfold State.losePad
  extract_lets s0
  have poisoned : s0.standing = s.standing := by
    simp only [s0]
    split <;> rfl
  clear_value s0
  rw [← poisoned]
  split
  · exact State.areaFault_standing s0 _ _
  · rfl
  · rename_i s1 e get
    rw [← State.sttGet_standing get]
    split
    · rename_i s2 put
      exact (State.sttPut_standing put).trans ((State.sweep_standing _ _).trans (State.updDir_standing _ _ _))
    · exact State.areaFault_standing s1 _ _
    · rfl

@[simp] theorem State.loseId_standing (s : State) (pid : Pid) (id : Nat) : (s.loseId pid id).standing = s.standing := by
  unfold State.loseId
  repeat' split
  all_goals simp

@[simp] theorem State.settlePage_standing (s : State) (id : Nat) : (s.settlePage id).standing = s.standing := by
  unfold State.settlePage
  split
  · split
    · rfl
    · exact State.logEntry_standing _ _ _ _ _
  · rfl

theorem State.readForMove_standing (s : State) (pid : Pid) (c : Nat) : (s.readForMove pid c).1.standing = s.standing :=
  State.foldl_standing (fun s (q : PoolPage) => State.settlePage_standing s q.id) _ _

@[simp] theorem State.movePages_standing (s : State) (pid : Pid) (c : Nat) : (s.movePages pid c).standing = s.standing := by
  unfold State.movePages
  split <;> rfl

@[simp] theorem State.carryPages_standing (s : State) (pid : Pid) (c : Nat) : (s.carryPages pid c).standing = s.standing := by
  unfold State.carryPages
  split
  · exact (State.movePages_standing _ _ _).trans
      ((State.foldl_standing (fun s id => State.loseId_standing s pid id) _ _).trans (State.readForMove_standing s pid c))
  · rfl

/-! ### Deques, moves and a die that goes down -/

theorem State.spillTo_standing {s t : State} {p : Part} {c : Nat} {r q : Rec} (h : s.spillTo p c r = .ok (some (t, q))) :
    t.standing = s.standing := by
  unfold State.spillTo at h
  split at h <;> cases h
  exact State.physPut_standing s _ _ _

theorem State.roomForPush_standing {s t : State} {c : Nat} (h : s.roomForPush c = .ok t) : t.standing = s.standing := by
  unfold State.roomForPush State.spillOldest at h
  split at h
  · cases h; rfl
  · dsimp only at h
    split at h
    · cases h; rfl
    · split at h
      · cases h
      · cases h
      · rename_i spilled
        cases h
        exact (State.updCore_standing _ _ _).trans (State.spillTo_standing spilled)

@[simp] theorem State.placeRec_standing (s : State) (goal : Nat) (r : Rec) : (s.placeRec goal r).standing = s.standing := by
  unfold State.placeRec
  dsimp only
  split
  · rename_i room
    exact (State.updCore_standing _ _ _).trans (State.roomForPush_standing room)
  · exact State.updCore_standing s _ _

@[simp] theorem State.moveRec_standing (s : State) (c : Nat) (r : Rec) : (s.moveRec c r).standing = s.standing := by
  unfold State.moveRec
  dsimp only
  split
  · simp
  · split
    · simp
    · split
      · rename_i spilled
        exact (State.updCore_standing _ _ _).trans (State.spillTo_standing spilled)
      · simp

@[simp] theorem State.rehome_standing (s : State) (pid : Pid) (c : Nat) : (s.rehome pid c).standing = s.standing := by
  unfold State.rehome State.changeHome
  dsimp only
  repeat' split
  all_goals simp

theorem State.moveDeque_standing (s : State) (c : Nat) : (s.moveDeque c).standing = s.standing := by
  refine (State.foldl_standing (fun s x => ?_) _ _).trans ?_
  · exact (State.carryPages_standing _ _ _).trans (State.moveRec_standing s _ _)
  · exact (State.updCore_standing _ _ _).trans (State.updCore_standing s _ _)

theorem State.moveParked_standing (s : State) (c : Nat) : (s.moveParked c).standing = s.standing :=
  State.foldl_standing (fun s pid => State.rehome_standing s pid _) _ _

theorem State.evacuate_standing (s : State) (d : Nat) : (s.evacuate d).standing = s.standing :=
  State.foldl_standing (fun s c => (State.moveParked_standing _ c).trans (State.moveDeque_standing s c)) (dieCores d) s

@[simp] theorem State.beginMove_standing (s : State) (pid : Pid) (c : Nat) : (s.beginMove pid c).standing = s.standing := by
  unfold State.beginMove State.startMove State.beginMoveNow
  repeat' split
  all_goals simp

/-- A die that starts to go down is going down, whatever leaves it. -/
theorem State.startDown_die (s : State) {d : Nat} (h : d < 2) : (s.startDown d).die d = .goingDown := by
  have moved : (s.startDown d).standing = (s.setDie d .goingDown).standing :=
    (State.foldl_standing (fun s (x : Pid × Nat) => State.beginMove_standing s x.1 (twin x.2)) _ _).trans
      (State.evacuate_standing _ d)
  rw [State.die_of_standing moved]
  interval_cases d <;> simp [State.die, State.setDie]

/-! ### Measurements and reports (19_trust.md R469, R470, R473) -/

@[simp] theorem State.writeReport_standing (s : State) (n : Nat) : (s.writeReport n).standing = s.standing := by
  unfold State.writeReport
  dsimp only
  split
  · rfl
  · rw [State.updPart_standing]
    · rw [State.rawPut_standing, State.rawPut_standing, State.wholeMarks_standing, State.sealFor_standing,
        State.drew_standing]
    · exact fun _ => by simp only [Part.standing]

theorem State.extendDbg_standing (s : State) (n code : Nat) (owner : BitVec 512) :
    (s.extendDbg n code owner).standing = s.standing := by
  unfold State.extendDbg
  rw [State.writeReport_standing, State.updPart_standing]
  exact fun _ => by simp only [Part.standing]

@[simp] theorem State.authorise_standing (s : State) (n : Nat) : (s.authorise n).standing = s.standing := by
  unfold State.authorise
  dsimp only
  split
  · rfl
  · split
    · split
      · rw [State.extendDbg_standing, State.updPart_standing]
        · exact State.noteRead_standing s _ _ _
        · exact fun _ => by simp only [Part.standing]
      · rw [State.extendDbg_standing, State.updPart_standing]
        · exact State.noteRead_standing s _ _ _
        · exact fun _ => by simp only [Part.standing]
    · rfl

/-! ### Cells and endpoints that the device makes (18_host.md R453, R459) -/

theorem State.deviceCell_standing {s t : State} {part : Nat} {kind : CellKind} {other : Holder} {number : Nat} {owner : Pid}
    {h : Word32} {id : Nat} (made : s.deviceCell part kind other number owner = some (t, h, id)) :
    t.standing = s.standing := by
  unfold State.deviceCell State.newCell State.newEntry at made
  simp only [if_true, Option.map_some, Option.some.injEq, Prod.mk.injEq] at made
  rw [← made.1]
  rfl

@[simp] theorem State.faultEnd_standing (s : State) (part : Nat) (pid : Pid) : (s.faultEnd part pid).1.standing = s.standing := by
  unfold State.faultEnd
  split
  · rename_i made
    rw [State.updPart_standing]
    · exact State.deviceCell_standing made
    · exact fun _ => rfl
  · rfl

theorem State.spawnTimer_standing (s : State) (part : Nat) (pid : Pid) (i : Fin 8) :
    (s.spawnTimer part pid i).1.standing = s.standing := by
  unfold State.spawnTimer
  split
  · rename_i made
    rw [State.updPart_standing]
    · exact State.deviceCell_standing made
    · exact fun _ => rfl
  · rfl

theorem State.spawnTimers_standing (s : State) (part : Nat) (pid : Pid) (l : List (Fin 8)) :
    (s.spawnTimers part pid l).1.standing = s.standing := by
  induction l generalizing s with
  | nil => rfl
  | cons i rest ih => exact (ih _).trans (State.spawnTimer_standing s part pid i)

theorem State.spawnEnd_standing (s : State) (c : Cmd) (part : Nat) (pid : Pid) (i : Nat) :
    (s.spawnEnd c part pid i).1.standing = s.standing := by
  unfold State.spawnEnd
  split
  · split
    · rfl
    · split
      · rename_i made
        have kept := State.deviceCell_standing made
        exact kept
      · rfl
  · dsimp only
    split
    · rename_i made
      have kept := State.deviceCell_standing made
      exact kept
    · rfl
  · rfl

theorem State.spawnEnds_standing (s : State) (c : Cmd) (part : Nat) (pid : Pid) (l : List Nat) :
    (s.spawnEnds c part pid l).1.standing = s.standing := by
  induction l generalizing s with
  | nil => rfl
  | cons i rest ih => exact (ih _).trans (State.spawnEnd_standing s c part pid i)

theorem State.placeHandle_standing (s : State) (pid : Pid) (r : EReg) (h : Word32) :
    (s.placeHandle pid r h).standing = s.standing := by
  unfold State.placeHandle
  split <;> simp

theorem State.placeFaultEnd_standing (s : State) (part : Nat) (r : EReg) :
    (s.placeFaultEnd part r).state.standing = s.standing := by
  unfold State.placeFaultEnd
  dsimp only
  split
  · rfl
  · split
    · rfl
    · exact (State.placeHandle_standing _ _ _ _).trans (State.faultEnd_standing s part _)

end Sys2Proof.Machine
end

section
/-! The command block of the host port (R449, R450): a doorbell runs the command that its opcode names, and the reply ends it. -/

namespace Sys2Proof.Machine

open Sys2Proof.Claims

/-! ### The block in place -/

@[simp] theorem State.setCmd_parts (s : State) (w : Vector Word 8) : (s.setCmd w).parts = s.parts := rfl
@[simp] theorem State.setCmd_physByte (s : State) (w : Vector Word 8) (pa : Nat) :
    (s.setCmd w).physByte pa = s.physByte pa := rfl

/-! ### The doorbell -/

theorem opcode_of_ready {s : State} {c : Cmd} {op : Nat} (h : Ready s c op) : Cmd.opcode c = op := by
  obtain ⟨-, -, -, opcode, -⟩ := h
  exact opcode

theorem word0Ok_of_ready {s : State} {c : Cmd} {op : Nat} (h : Ready s c op) : Cmd.word0Ok c = true := by
  obtain ⟨-, -, -, -, word0⟩ := h
  exact word0

theorem State.wakeUp_of_on {s : State} (h : s.power = .on) : s.wakeUp = s := by
  simp [State.wakeUp, h]

/-- A ready device reads the block and runs its command. -/
theorem State.command_of_ready {s : State} {c : Cmd} {op : Nat} (h : Ready s c op) :
    s.command c op = .next (State.takeReply ((s.setCmd (Cmd.words c)).runCommand c)) := by
  obtain ⟨on, ready, free, opcode, -⟩ := h
  have runs : (s.setCmd (Cmd.words c)).doorbell = State.takeReply ((s.setCmd (Cmd.words c)).runCommand c) := by
    unfold State.doorbell
    rw [State.wakeUp_of_on (s := s.setCmd (Cmd.words c)) on]
    simp only [State.setCmd, ready, free, Bool.not_true, Bool.false_eq_true, if_false]
    rfl
  simp [State.command, State.tryCommand, State.portOpen, State.occur, on, opcode, runs]

/-- The command of each opcode (R450). -/
def commandOf : Nat → Option (State → Cmd → Reply)
  | 0x01 => some State.cmdCreate
  | 0x02 => some State.cmdGrant
  | 0x03 => some State.cmdDestroy
  | 0x04 => some State.cmdCopy
  | 0x05 => some State.cmdSpawn
  | 0x06 => some State.cmdHsend
  | 0x07 => some State.cmdHrecv
  | 0x08 => some State.cmdHclose
  | 0x09 => some State.cmdExport
  | 0x0A => some State.cmdImport
  | 0x0B => some State.cmdRelease
  | 0x0C => some State.cmdDieDown
  | 0x0D => some State.cmdDieUp
  | 0x0E => some State.cmdEvent
  | 0x0F => some State.cmdFaultEnd
  | _ => none

theorem State.runCommand_of_commandOf {s : State} {c : Cmd} {f : State → Cmd → Reply}
    (hf : commandOf (Cmd.opcode c) = some f) : s.runCommand c = f s c := by
  unfold commandOf at hf
  unfold State.runCommand
  split at hf <;> cases hf <;> simp only [*]

/-- The event of a command takes the reply of its opcode's command to the block in place. -/
theorem exec_of_reply {s : State} {c : Cmd} {op : Nat} {i : Instr} {f : State → Cmd → Reply} {r : Reply}
    (h : Ready s c op) (hi : exec i s = s.command c op) (hf : commandOf op = some f)
    (hr : f (s.setCmd (Cmd.words c)) c = r) : exec i s = .next (State.takeReply r) := by
  rw [hi, State.command_of_ready h, State.runCommand_of_commandOf ((opcode_of_ready h).symm ▸ hf), hr]

/-! ### What a reply leaves -/

@[simp] theorem State.takeReply_parts (r : Reply) : (State.takeReply r).parts = r.state.parts := by
  unfold State.takeReply; split <;> rfl

@[simp] theorem State.takeReply_cells (r : Reply) : (State.takeReply r).cells = r.state.cells := by
  unfold State.takeReply; split <;> rfl

@[simp] theorem State.takeReply_dies (r : Reply) : (State.takeReply r).dies = r.state.dies := by
  unfold State.takeReply; split <;> rfl

@[simp] theorem State.takeReply_hostMem (r : Reply) : (State.takeReply r).hostMem = r.state.hostMem := by
  unfold State.takeReply; split <;> rfl

@[simp] theorem State.takeReply_slots (r : Reply) : (State.takeReply r).host.slots = r.state.host.slots := by
  unfold State.takeReply; split <;> rfl

@[simp] theorem State.takeReply_events (r : Reply) : (State.takeReply r).host.events = r.state.host.events := by
  unfold State.takeReply; split <;> rfl

@[simp] theorem State.takeReply_dropped (r : Reply) : (State.takeReply r).host.dropped = r.state.host.dropped := by
  unfold State.takeReply; split <;> rfl

@[simp] theorem State.takeReply_part (r : Reply) (n : Nat) : (State.takeReply r).part n = r.state.part n := by
  simp [State.part, State.part?]

@[simp] theorem State.takeReply_part? (r : Reply) (n : Nat) : (State.takeReply r).part? n = r.state.part? n := by
  simp [State.part?]

@[simp] theorem State.takeReply_die (r : Reply) (d : Nat) : (State.takeReply r).die d = r.state.die d := by
  simp [State.die]

@[simp] theorem State.takeReply_cell? (r : Reply) (id : Nat) : (State.takeReply r).cell? id = r.state.cell? id := by
  simp [State.cell?]

@[simp] theorem State.takeReply_proc? (r : Reply) (pid : Pid) : (State.takeReply r).proc? pid = r.state.proc? pid := by
  unfold State.takeReply; split <;> rfl

theorem State.takeReply_same (r : Reply) : SameMem r.state (State.takeReply r) := by
  unfold State.takeReply; split <;> exact ⟨rfl, rfl, rfl, rfl⟩

@[simp] theorem State.takeReply_physByte (r : Reply) (pa : Nat) : (State.takeReply r).physByte pa = r.state.physByte pa :=
  (State.takeReply_same r).physByte pa

theorem stored_takeReply {s : State} {r : Reply} {pa : Nat} {l : List Byte} (h : Stored s r.state pa l) :
    Stored s (State.takeReply r) pa l := by
  obtain ⟨within, outside⟩ := h
  exact ⟨fun k hk => (State.takeReply_physByte r _).trans (within k hk),
    fun a ha => (State.takeReply_physByte r a).trans (outside a ha)⟩

/-- A refused command ends with its code, one that has run with code 0 and its words from word 4 on. -/
theorem answers_refuse (s : State) (code : Nat) : Answers (State.takeReply (s.refuse code)) code [] :=
  ⟨rfl, rfl, fun _ _ h => absurd h (Nat.not_lt_zero _)⟩

theorem answers_reply (s : State) (out : List Word) : Answers (State.takeReply (s.reply out)) 0 out := by
  refine ⟨rfl, rfl, fun i hi h => ?_⟩
  simp [State.takeReply, State.reply, withResults, h]

/-! ### The checks before a command -/

theorem State.onPart_eq {s : State} {c : Cmd} {ok : Bool} {p : Part} (f : Part → Reply) (hw : Cmd.word0Ok c = true)
    (hok : ok = true) (hp : s.part? (Cmd.part c) = some p) : s.onPart c ok f = f p := by
  simp [State.onPart, hw, hok, hp]

theorem State.onDevice_eq {s : State} {c : Cmd} {ok : Bool} (r : Reply) (hw : Cmd.word0Ok c = true)
    (hn : Cmd.part c = 0) (hok : ok = true) : s.onDevice c ok r = r := by
  simp [State.onDevice, hw, hn, hok]

theorem State.needMaster_eq {s : State} (r : Reply) (h : s.host.busMaster = true) : s.needMaster r = r := by
  simp [State.needMaster, h]

theorem State.part?_num {s : State} {n : Nat} {p : Part} (h : s.part? n = some p) : p.num = n := by
  simpa using List.find?_some h

theorem State.part_of_part? {s : State} {n : Nat} {p : Part} (h : s.part? n = some p) : s.part n = p := by
  simp [State.part, h]

theorem State.part_updPart {s : State} {n : Nat} {p : Part} (h : s.part? n = some p) {f : Part → Part}
    (hf : ∀ p, (f p).num = p.num) : (s.updPart n f).part n = f p := by
  simp [State.part, State.part?_updPart s n n f hf, h]

end Sys2Proof.Machine
end

section
/-! CREATE, GRANT, DESTROY, COPY, EVENT, DIEDOWN and DIEUP (R450, R451, R455, R469). -/

namespace Sys2Proof.Machine

open Sys2Proof.Claims

/-! ### CREATE, GRANT and DESTROY -/

theorem State.drew_same (s : State) : SameMem s s.drew := ⟨rfl, rfl, rfl, rfl⟩

section

variable {s : State} {c : Cmd} {p : Part}

theorem State.cmdCreate_eq (hw : Cmd.word0Ok c = true) (hn : Cmd.part c = 0) (ok : Cmd.createOk c = true) {num asid : Nat}
    (hnum : s.chooseFree 4096 1 (s.parts.map Part.num) = some num)
    (hasid : s.drew.chooseFree 4096 1 (s.parts.map (fun p => p.asid.toNat)) = some asid) :
    ∃ u v : State, s.cmdCreate c = u.reply [BitVec.ofNat 64 num, BitVec.ofNat 64 asid]
      ∧ u.parts = s.parts ++ [v.newPart c num (BitVec.ofNat 12 asid)] ∧ SameMem s u := by
  have drawn : SameMem s s.drew.drew.drew := ((State.drew_same _).trans (State.drew_same _)).trans (State.drew_same _)
  rw [State.cmdCreate, State.onDevice_eq _ hw hn ok, hnum]
  dsimp only
  rw [hasid]
  exact ⟨_, _, rfl, rfl, drawn.trans ⟨rfl, rfl, rfl, rfl⟩⟩

theorem State.cmdGrant_eq (hw : Cmd.word0Ok c = true) (ha : c.w1.toNat % 65536 = 0) (hn : c.w2.toNat % 65536 = 0)
    (h0 : c.w2 ≠ 0) (hr : inOneRegion c.w1.toNat c.w2.toNat = true) (hp : s.part? (Cmd.part c) = some p) :
    s.cmdGrant c =
      if s.parts.any (fun q => q.num != p.num && q.granted.any (fun g => overlaps g.1 g.2 c.w1.toNat c.w2.toNat)) then
        s.refuse codeDenied
      else (s.updPart p.num (fun p => { p with granted := p.granted ++ [(c.w1.toNat, c.w2.toNat)] })).reply [] := by
  have some_bytes : c.w2.toNat ≠ 0 := fun e => h0 (BitVec.eq_of_toNat_eq e)
  exact State.onPart_eq _ hw (by simp [ha, hn, hr, some_bytes]) hp

theorem State.cmdDestroy_eq (hw : Cmd.word0Ok c = true) (hp : s.part? (Cmd.part c) = some p) :
    s.cmdDestroy c = (s.destroy p).reply [] := State.onPart_eq _ hw rfl hp

theorem State.cmdDestroy_none (hw : Cmd.word0Ok c = true) (hp : s.part? (Cmd.part c) = none) :
    s.cmdDestroy c = s.refuse codeNoPart := by
  simp [State.cmdDestroy, State.onPart, hw, hp]

/-- A partition that goes is found no more. -/
theorem State.part?_destroy (s : State) (p : Part) : (s.destroy p).part? p.num = none := by
  have left : ∃ l : List Part, (s.destroy p).parts = l.filter (fun q => q.num != p.num) := ⟨_, rfl⟩
  obtain ⟨l, hl⟩ := left
  simp [State.part?, hl]

/-- What is left of a peer channel is on no partition (R459); every other cell of the partition goes. -/
theorem State.part_ne_of_mem_destroy {s : State} {p : Part} (hp : p.num ≠ 0) {x : Cell} (hx : x ∈ (s.destroy p).cells) :
    x.part ≠ p.num := by
  have left : ∃ l : List Cell,
      (s.destroy p).cells = l.filterMap (fun c => if c.part = p.num then c.peerRest else some c) := ⟨_, rfl⟩
  obtain ⟨l, hl⟩ := left
  rw [hl, List.mem_filterMap] at hx
  obtain ⟨y, -, hy⟩ := hx
  split at hy
  · unfold Cell.peerRest at hy
    split at hy <;> cases hy
    exact hp.symm
  · cases hy
    assumption

end

/-! ### COPY (R450, R469) -/

section

variable {s : State} {c : Cmd} {p : Part}

theorem copyLength_eq {v : Word} (h : v.getLsbD 63 = false) : v.toNat % 2 ^ 63 = v.toNat := by
  have bound := v.isLt
  rw [BitVec.getLsbD, Nat.testBit_eq_decide_div_mod_eq, decide_eq_false_iff_not] at h
  omega

/-- A COPY into the device of a whole number of sectors within HBM. -/
theorem State.cmdCopy_eq (hw : Cmd.word0Ok c = true) (hp : s.part? (Cmd.part c) = some p) (hin : c.w3.getLsbD 63 = false)
    (hn : c.w3.toNat % 32 = 0) (h0 : c.w3 ≠ 0) (ht : c.w2.toNat + c.w3.toNat ≤ hbmTop) :
    s.cmdCopy c =
      if !p.grants c.w2.toNat c.w3.toNat || s.offlineAt c.w2.toNat || s.offlineAt (c.w2.toNat + c.w3.toNat - 1)
          || (p.conf && p.spawned) then s.refuse codeDenied
      else s.needMaster ((s.copyIn p c.w1 c.w2.toNat c.w3.toNat).reply []) := by
  have some_bytes : c.w3.toNat ≠ 0 := fun e => h0 (BitVec.eq_of_toNat_eq e)
  unfold State.cmdCopy
  extract_lets n a out
  have hn' : n = c.w3.toNat := copyLength_eq hin
  have hout : out = false := hin
  rw [State.onPart_eq _ hw (by simp [hn', hn, a, ht]) hp, if_neg (hn' ▸ some_bytes), hn', hout]
  simp only [Bool.false_or, Bool.false_eq_true, if_false, a]

theorem State.offlineAt_of_online (h : ∀ d, s.die d = .online) (pa : Nat) : s.offlineAt pa = false := by
  simp [State.offlineAt, State.dieAway, h]

/-- Plain data stays plain in a partition that is not confidential. -/
theorem State.sealPhys_plain (hc : p.conf = false) (hs : s.seals = []) (hg : s.garbled = []) (pa n : Nat) :
    s.sealPhys p pa n = s := by
  have key : p.supKey = none := by simp [Part.supKey, hc]
  refine foldl_fixed _ _ _ fun sec _ => ?_
  simp [State.sealSector, State.sealOf, State.garble?, key, hs, hg]

end

/-! ### What a store into plain HBM leaves (R295, R323) -/

/-- The cells and the endpoint entries. -/
def State.channels (s : State) : List Cell × List Entry := (s.cells, s.entries)

theorem State.oweSector_channels (s : State) (p : Option Part) : (s.oweSector p).channels = s.channels := by
  unfold State.oweSector
  split
  · rfl
  · split <;> rfl

theorem State.evictLine_channels (s : State) (l : L2Line) : (s.evictLine l).channels = s.channels :=
  foldl_keeps (fun t : State => t.channels = s.channels) _ (fun _ _ h => (State.oweSector_channels _ _).trans h) _ _ rfl

theorem State.roomInSet_channels (s : State) (h : Hint) (line : Nat) : (s.roomInSet h line).channels = s.channels := by
  unfold State.roomInSet
  dsimp only
  split
  · rfl
  · split
    · exact State.evictLine_channels s _
    · rfl

theorem State.holdSector_channels (s : State) (h : Hint) (x : L2Sector) : (s.holdSector h x).channels = s.channels := by
  unfold State.holdSector
  split
  · rfl
  · exact State.roomInSet_channels s h _

theorem State.dirtyL2_channels (s : State) (v : Via) (pa n : Nat) : (s.dirtyL2 v pa n).channels = s.channels := by
  unfold State.dirtyL2
  split
  · refine foldl_keeps (fun t : State => t.channels = s.channels) _ (fun t sec h => ?_) _ _ rfl
    dsimp only
    rw [State.holdSector_channels]
    split
    · exact h
    · exact (State.oweSector_channels t _).trans h
  · rfl

/-- Where no error is pending and no cell or entry stands, a store into HBM changes marks, its bytes, the L2 and the regions
that it touches. -/
theorem State.storeBytes_eq {s : State} (he : s.errs = []) (hc : s.cells = []) (hx : s.entries = []) (agent : Pid) {pa : Nat}
    (l : List Byte) (hp : pa < hbmTop) :
    ∃ poison v, s.storeBytes agent pa l
      = ((({ s with poison := poison } : State).rawPut pa l).dirtyL2 v pa l.length).touchRegions agent pa l.length := by
  obtain ⟨poison, marks⟩ := State.storeMarks_clean he pa l.length
  refine ⟨poison, s.viaOf agent none .normal, ?_⟩
  simp only [State.storeBytes, State.storeVia, physRegion_hbm hp, marks]
  generalize hu : (({ s with poison := poison } : State).rawPut pa l).dirtyL2 (s.viaOf agent none .normal) pa l.length = u
  have channels : u.channels = ([], []) := by
    rw [← hu, State.dirtyL2_channels]
    unfold State.rawPut
    rw [physRegion_hbm hp]
    exact congrArg₂ Prod.mk hc hx
  obtain ⟨cells, entries⟩ := Prod.mk.inj channels
  exact State.touchAreas_none (s := u.touchRegions agent pa l.length) cells entries pa l.length

theorem State.storeBytes_stored {s : State} (hs : Plain s) (agent : Pid) {pa : Nat} {l : List Byte} (hl : l ≠ [])
    (ht : pa + l.length ≤ hbmTop) : Stored s (s.storeBytes agent pa l) pa l := by
  obtain ⟨ok, errs, -, -, cells, entries⟩ := hs
  have hp : pa < hbmTop := by
    have := List.length_pos_iff.mpr hl
    omega
  obtain ⟨poison, v, store⟩ := State.storeBytes_eq errs cells entries agent l hp
  have byte : ∀ b, (s.storeBytes agent pa l).physByte b
      = if h : pa ≤ b ∧ b < pa + l.length then l[b - pa] else s.physByte b := fun b => by
    rw [store, (State.touchRegions_same _ _ _ _).physByte, (State.dirtyL2_same _ _ _ _).physByte,
      State.physByte_rawPut (s := { s with poison := poison }) ok hp ht]
    rfl
  refine ⟨fun k hk => ?_, fun b hb => ?_⟩
  · rw [byte, dif_pos ⟨by omega, by omega⟩]
    simp
  · rw [byte, dif_neg (by omega)]

theorem State.storeBytes_standing {s : State} (hs : Plain s) (agent : Pid) {pa : Nat} (l : List Byte)
    (hp : pa < hbmTop) : (s.storeBytes agent pa l).standing = s.standing := by
  obtain ⟨-, errs, -, -, cells, entries⟩ := hs
  obtain ⟨poison, v, store⟩ := State.storeBytes_eq errs cells entries agent l hp
  rw [store]
  exact (State.dirtyL2_standing _ _ _ _).trans (State.rawPut_standing _ _ _)

/-! ### COPY into a partition that has not started -/

section

variable {s : State} {c : Cmd} {p : Part} (host : Word) {pa n : Nat}

/-- The bytes stand, and the measurement takes them unless they land in the authorisation block (R469). -/
theorem State.copyIn_eq (hs : Plain s) (hc : p.conf = false) (hsp : p.spawned = false) :
    s.copyIn p host pa n =
      if p.inAuthBlock pa n then s.storeBytes 0 pa (s.hostGet host n)
      else (s.storeBytes 0 pa (s.hostGet host n)).updPart p.num (fun p =>
        { p with mCode := extend p.mCode (bytesOf 8 pa ++ bytesOf 8 n ++ s.hostGet host n) }) := by
  obtain ⟨-, -, seals, garbled, -, -⟩ := hs
  simp only [State.copyIn, State.sealPhys_plain hc seals garbled, hsp, Bool.false_eq_true, if_false]

theorem State.copyIn_stored (hs : Plain s) (hc : p.conf = false) (hsp : p.spawned = false) (h0 : n ≠ 0)
    (ht : pa + n ≤ hbmTop) : Stored s (s.copyIn p host pa n) pa (s.hostGet host n) := by
  have len : (s.hostGet host n).length = n := Memory.getBytes_length _ _ _
  have stored := State.storeBytes_stored hs 0 (pa := pa) (l := s.hostGet host n)
    (by rw [← List.length_pos_iff, len]; omega) (by omega)
  rw [State.copyIn_eq host hs hc hsp]
  split <;> exact stored

theorem State.copyIn_mCode (hs : Plain s) (hp : s.part? p.num = some p) (hc : p.conf = false) (hsp : p.spawned = false)
    (hpa : pa < hbmTop) (ha : p.inAuthBlock pa n = false) :
    ((s.copyIn p host pa n).part p.num).mCode
      = extend p.mCode (bytesOf 8 pa ++ bytesOf 8 n ++ s.hostGet host n) := by
  rw [State.copyIn_eq host hs hc hsp, if_neg (by simp [ha])]
  generalize s.hostGet host n = data
  have kept := State.storeBytes_standing hs 0 data hpa
  have before : ((s.storeBytes 0 pa data).part p.num).mCode = p.mCode := by
    obtain ⟨-, -, -, -, mCode⟩ := Part.standing_iff.mp (State.part_of_standing kept p.num)
    rw [mCode, State.part_of_part? hp]
  obtain ⟨q, hq⟩ := Option.isSome_iff_exists.mp
    ((State.part?_isSome_of_standing kept p.num).trans (Option.isSome_iff_exists.mpr ⟨p, hp⟩))
  rw [State.part_updPart hq, ← before, State.part_of_part? hq]
  exact fun _ => rfl

end

/-! ### EVENT, DIEDOWN and DIEUP (R444, R450, R455) -/

section

variable {s : State} {c : Cmd}

theorem State.cmdEvent_empty (hw : Cmd.word0Ok c = true) (hn : Cmd.part c = 0) (hm : s.host.busMaster = true)
    (he : s.host.events = []) : s.cmdEvent c = s.refuse codeEmpty := by
  rw [State.cmdEvent, State.onDevice_eq _ hw hn rfl, State.needMaster_eq _ hm, he]

theorem State.cmdEvent_eq (hw : Cmd.word0Ok c = true) (hn : Cmd.part c = 0) (hm : s.host.busMaster = true) {e : HEvent}
    {rest : List HEvent} (he : s.host.events = e :: rest) :
    ∃ l, s.cmdEvent c = (({ s with host := { s.host with events := rest, dropped := 0 } } : State).hostPut c.w1 l).reply
      [BitVec.ofNat 64 e.kind] := by
  rw [State.cmdEvent, State.onDevice_eq _ hw hn rfl, State.needMaster_eq _ hm, he]
  exact ⟨_, rfl⟩

/-- No die is on its way where both are known not to be. -/
theorem State.dieBusy_eq_false (h : ∀ d < 2, s.die d = .online ∨ s.die d = .offline) : s.dieBusy = false := by
  refine Vector.any_eq_false.mpr fun d hd => ?_
  have at_ : s.dies[d] = s.die d := by interval_cases d <;> rfl
  rw [at_]
  rcases h d hd with e | e <;> simp [e]

theorem State.die_setDie (s : State) {d : Nat} (hd : d < 2) (x : DieSt) : (s.setDie d x).die d = x := by
  interval_cases d <;> simp [State.die, State.setDie]

theorem State.cmdDieDown_eq (hw : Cmd.word0Ok c = true) (hn : Cmd.part c = 0) (hd : c.w1.toNat < 2)
    (busy : s.dieBusy = false) (on : s.die c.w1.toNat = .online) (other : s.die (1 - c.w1.toNat) = .online) :
    s.cmdDieDown c = (s.startDown c.w1.toNat).reply [] := by
  rw [State.cmdDieDown, State.onDevice_eq _ hw hn (by simpa using hd)]
  simp [busy, on, other]

theorem State.cmdDieUp_eq (hw : Cmd.word0Ok c = true) (hn : Cmd.part c = 0) (hd : c.w1.toNat < 2)
    (busy : s.dieBusy = false) (off : s.die c.w1.toNat = .offline) :
    s.cmdDieUp c = (s.setDie c.w1.toNat .comingUp).reply [] := by
  rw [State.cmdDieUp, State.onDevice_eq _ hw hn (by simpa using hd)]
  simp [busy, off]

end

/-- Settles O49: the doorbell runs the command that the opcode names, and the lemma of each command says what its reply
leaves; a COPY stores into plain HBM, and what leaves a die that goes down changes the state of no die. -/
theorem partitionCommands : Obligations.PartitionCommands := by
  unfold Obligations.PartitionCommands
  intro s c p n a
  refine ⟨fun num asid h hn ok hnum hasid => ?create, fun h ha hn h0 hr hp => ?grant, fun h hp => ?destroy,
    fun h hp => ?missing, fun h hp hin hn h0 ht => ?copy, fun h hn hm => ?event, fun hn hd other => ?dies⟩
  case create =>
    obtain ⟨u, v, create, parts, same⟩ :=
      State.cmdCreate_eq (s := s.setCmd (Cmd.words c)) (word0Ok_of_ready h) hn ok hnum hasid
    exact ⟨_, _, exec_of_reply h rfl rfl create, answers_reply _ _, (State.takeReply_parts _).trans parts, rfl, rfl, rfl, rfl,
      rfl, rfl, rfl, rfl, fun pa => (State.takeReply_physByte _ pa).trans (same.physByte pa)⟩
  case grant =>
    have grant := State.cmdGrant_eq (s := s.setCmd (Cmd.words c)) (word0Ok_of_ready h) ha hn h0 hr hp
    have num : p.num = n := State.part?_num hp
    refine ⟨fun apart => ?_, fun meets => ?_⟩
    · rw [if_neg ?_] at grant
      · refine ⟨_, exec_of_reply h rfl rfl grant, answers_reply _ _, ?_, fun _ => rfl⟩
        rw [State.takeReply_part, num]
        have grown := State.part_updPart (s := s.setCmd (Cmd.words c)) hp
          (f := fun p => { p with granted := p.granted ++ [(a, c.w2.toNat)] }) fun _ => rfl
        exact congrArg Part.granted grown
      · simpa [num, a] using apart
    · rw [if_pos ?_] at grant
      · exact ⟨_, exec_of_reply h rfl rfl grant, answers_refuse _ _, rfl⟩
      · simpa [num, a] using meets
  case destroy =>
    have num : p.num = n := State.part?_num hp
    refine ⟨_, exec_of_reply h rfl rfl (State.cmdDestroy_eq (word0Ok_of_ready h) hp), answers_reply _ _, ?_, fun hn x hx => ?_⟩
    · rw [State.takeReply_part?, ← num]
      exact State.part?_destroy _ p
    · rw [State.takeReply_cells] at hx
      rw [← num] at hn ⊢
      exact State.part_ne_of_mem_destroy hn hx
  case missing =>
    exact ⟨_, exec_of_reply h rfl rfl (State.cmdDestroy_none (word0Ok_of_ready h) hp), answers_refuse _ _, rfl⟩
  case copy =>
    have copy := State.cmdCopy_eq (s := s.setCmd (Cmd.words c)) (word0Ok_of_ready h) hp hin hn h0 ht
    have some_bytes : c.w3.toNat ≠ 0 := fun e => h0 (BitVec.eq_of_toNat_eq e)
    refine ⟨fun denied => ?_, fun granted online hsp hc hm hs => ?_⟩
    · rw [if_pos (by simp [denied])] at copy
      exact ⟨_, exec_of_reply h rfl rfl copy, answers_refuse _ _, fun _ => rfl⟩
    · have homed := State.offlineAt_of_online (s := s.setCmd (Cmd.words c)) online
      rw [if_neg (by simp [granted, homed, hc]), State.needMaster_eq (s := s.setCmd (Cmd.words c)) _ hm] at copy
      have num : p.num = n := State.part?_num hp
      refine ⟨_, exec_of_reply h rfl rfl copy, answers_reply _ _, stored_takeReply ?_, fun outside => ?_⟩
      · exact State.copyIn_stored (s := s.setCmd (Cmd.words c)) c.w1 hs hc hsp some_bytes ht
      · rw [State.takeReply_part, ← num]
        exact State.copyIn_mCode (s := s.setCmd (Cmd.words c)) c.w1 hs (num ▸ hp) hc hsp (by omega) outside
  case event =>
    refine ⟨fun none_queued => ?_, fun e rest queued => ?_⟩
    · exact ⟨_, exec_of_reply h rfl rfl (State.cmdEvent_empty (word0Ok_of_ready h) hn hm none_queued), answers_refuse _ _⟩
    · obtain ⟨l, event⟩ := State.cmdEvent_eq (s := s.setCmd (Cmd.words c)) (word0Ok_of_ready h) hn hm queued
      exact ⟨_, exec_of_reply h rfl rfl event, answers_reply _ _, rfl, rfl⟩
  case dies =>
    have still : s.die a = .online ∨ s.die a = .offline → (s.setCmd (Cmd.words c)).dieBusy = false := fun ha =>
      State.dieBusy_eq_false (s := s) fun d hd' => by
        obtain rfl | rfl : d = a ∨ d = 1 - a := by omega
        · exact ha
        · exact .inl other
    refine ⟨fun h on => ?_, fun h off => ?_⟩
    · refine ⟨_, exec_of_reply h rfl rfl (State.cmdDieDown_eq (word0Ok_of_ready h) hn hd (still (.inl on)) on other),
        answers_reply _ _, ?_⟩
      rw [State.takeReply_die]
      exact State.startDown_die _ hd
    · refine ⟨_, exec_of_reply h rfl rfl (State.cmdDieUp_eq (word0Ok_of_ready h) hn hd (still (.inr off)) off),
        answers_reply _ _, ?_⟩
      rw [State.takeReply_die]
      exact State.die_setDie _ hd _

end Sys2Proof.Machine
end

section
/-! SPAWN, HSEND, HRECV, HCLOSE, EXPORT, IMPORT, RELEASE and FAULTEND (R452 to R456, R405, R388, R450, R473). -/

namespace Sys2Proof.Machine

open Sys2Proof.Claims

/-! ### SPAWN (R452, R453) -/

/-- The words of a SPAWN that has run. -/
theorem takeReply_spawnReply (s : State) (pid : Pid) (slots : List Nat) :
    (State.takeReply (spawnReply s pid slots)).host.code = 0
    ∧ (State.takeReply (spawnReply s pid slots)).host.busy = false
    ∧ (State.takeReply (spawnReply s pid slots)).host.cmd[4] = pid.setWidth 64 := by
  obtain ⟨code, busy, words⟩ := answers_reply s [zextWord pid, BitVec.ofNat 64 (ofBytes (slots.map (BitVec.ofNat 8)))]
  exact ⟨code, busy, words 0 (by decide) (by simp)⟩

section

variable {s : State} {c : Cmd} {p : Part}

theorem State.cmdSpawn_supervisor (hw : Cmd.word0Ok c = true) (hp : s.part? (Cmd.part c) = some p)
    (hsp : p.spawned = false) (args : s.spawnArgs c true = true) (peers : Cmd.ofKind c 2 = [])
    (room : (Cmd.ofKind c 1).length ≤ s.freeSlots.length) {g : Nat × Nat} {rest : List (Nat × Nat)}
    (hg : p.granted = g :: rest) (hb : Config.supervisorBytes ≤ g.2) : s.cmdSpawn c = s.spawnSupervisor c p g.1 := by
  rw [State.cmdSpawn, State.onPart_eq _ hw (by simp [hp, hsp, args]) hp]
  simp [peers, hsp, hg, Nat.not_lt.mpr room, Nat.not_lt.mpr hb]

theorem State.cmdSpawn_root (hw : Cmd.word0Ok c = true) (hp : s.part? (Cmd.part c) = some p)
    (hsp : p.spawned = true) (args : s.spawnArgs c false = true) (peers : Cmd.ofKind c 2 = [])
    (room : (Cmd.ofKind c 1).length ≤ s.freeSlots.length) : s.cmdSpawn c = s.spawnRoot c p := by
  rw [State.cmdSpawn, State.onPart_eq _ hw (by simp [hp, hsp, args]) hp]
  simp [peers, hsp, Nat.not_lt.mpr room]

theorem State.newPid_standing (s : State) : s.newPid.1.standing = s.standing := by
  unfold State.newPid State.standing
  rfl

/-- What a change of a partition sets stands in it after the device's own work. -/
theorem State.started_of_standing {t : State} {n : Nat} {q : Part} {f : Part → Part} {pid : Pid}
    (h : t.standing = (s.updPart n f).standing) (hq : s.part? n = some q) (hf : ∀ p, (f p).num = p.num)
    (hs : (f q).spawned = true ∧ (f q).sup = some pid) : (t.part n).spawned = true ∧ (t.part n).sup = some pid := by
  obtain ⟨-, sup, spawned, -, -⟩ := Part.standing_iff.mp (State.part_of_standing h n)
  rw [spawned, sup, State.part_updPart hq hf]
  exact hs

/-- The first SPAWN makes its process the partition's supervisor; nothing that follows takes that back. -/
theorem State.spawnSupervisor_eq (hp : s.part? p.num = some p) (c : Cmd) (base : Nat) :
    ∃ (u : State) (pid : Pid) (slots : List Nat), s.spawnSupervisor c p base = spawnReply u pid slots
      ∧ (u.part p.num).spawned = true ∧ (u.part p.num).sup = some pid := by
  unfold State.spawnSupervisor
  split
  next s1 pid new =>
  split
  next s2 e slots ends =>
  split
  next s3 h fault =>
  split
  next s4 hs timers =>
  have k1 := State.newPid_standing s
  have k2 := State.spawnEnds_standing s1 c p.num pid (List.range 7)
  have k3 := State.faultEnd_standing s2 p.num pid
  have k4 := State.spawnTimers_standing s3 p.num pid (List.finRange 8)
  rw [new] at k1
  rw [ends] at k2
  rw [fault] at k3
  rw [timers] at k4
  have kept : s4.standing = s.standing := k4.trans (k3.trans (k2.trans k1))
  obtain ⟨q, hq⟩ := Option.isSome_iff_exists.mp
    ((State.part?_isSome_of_standing kept p.num).trans (Option.isSome_iff_exists.mpr ⟨p, hp⟩))
  have later : ∀ (u : State) (r : Rec), ((((u.physZero p.supKey base 0x8000).authorise p.num).writeReport p.num).placeRec
      (Cmd.origin c) r).standing = u.standing := fun u r => by
    rw [State.placeRec_standing, State.writeReport_standing, State.authorise_standing, State.physZero_standing]
  exact ⟨_, _, _, rfl, State.started_of_standing (later _ _) hq (fun _ => rfl) ⟨rfl, rfl⟩⟩

/-- A later SPAWN takes the next PID once its scratchpad slot is clear. The clearing gets a name of its own, or the kernel
evaluates it where the match on it is rewritten. -/
theorem State.spawnRoot_eq {v : State} {i : Nat} (slot : s.freeSpSlot p.num = some i) (clear : s.clearSlot p.num i = .ok v)
    (c : Cmd) : ∃ (u : State) (slots : List Nat), s.spawnRoot c p = spawnReply u v.newPid.2 slots := by
  obtain ⟨clearSlot, named⟩ : ∃ f, s.clearSlot p.num = f := exists_eq'
  rw [State.spawnRoot, slot, named]
  rw [named] at clear
  dsimp only
  rw [clear]
  exact ⟨_, _, rfl⟩

end

/-! ### Host slots (R454) -/

section

variable {s : State} {c : Cmd} {p : Part} {x : Cell}

theorem State.onSlot_eq (f : Nat → Cell → Reply) (hw : Cmd.word0Ok c = true) (hp : s.part? (Cmd.part c) = some p)
    (h : c.w1.toNat < 64) (hs : s.host.slots[c.w1.toNat] = some (Cmd.part c, x.id)) (hx : s.cell? x.id = some x) :
    s.onSlot c f = f c.w1.toNat x := by
  unfold State.onSlot
  extract_lets n
  rw [State.onPart_eq _ hw (by simpa [n] using h) hp, dif_pos h]
  simp [n, hs, hx, State.part?_num hp]

theorem State.cmdHsend_full (hw : Cmd.word0Ok c = true) (hp : s.part? (Cmd.part c) = some p) (h : c.w1.toNat < 64)
    (hs : s.host.slots[c.w1.toNat] = some (Cmd.part c, x.id)) (hx : s.cell? x.id = some x) (ho : x.end0.closed = false)
    (hh : x.end0.held.isSome = true) : s.cmdHsend c = s.refuse codeFull := by
  rw [State.cmdHsend, State.onSlot_eq _ hw hp h hs hx]
  simp [ho, hh]

theorem State.cmdHsend_eq (hw : Cmd.word0Ok c = true) (hp : s.part? (Cmd.part c) = some p) (h : c.w1.toNat < 64)
    (hs : s.host.slots[c.w1.toNat] = some (Cmd.part c, x.id)) (hx : s.cell? x.id = some x) (ho : x.end0.closed = false)
    (hh : x.end0.held = none) :
    s.cmdHsend c = ((s.updEnd x.id false (fun e => { e with held := some c.w2 })).settled x.id).reply [] := by
  rw [State.cmdHsend, State.onSlot_eq _ hw hp h hs hx]
  simp [ho, hh]

theorem State.cmdHrecv_held (hw : Cmd.word0Ok c = true) (hp : s.part? (Cmd.part c) = some p) (h : c.w1.toNat < 64)
    (hs : s.host.slots[c.w1.toNat] = some (Cmd.part c, x.id)) (hx : s.cell? x.id = some x) {v : Word}
    (hh : x.end1.held = some v) :
    s.cmdHrecv c = ((s.updEnd x.id true (fun e => { e with held := none })).freeCell x.id).reply [v] := by
  rw [State.cmdHrecv, State.onSlot_eq _ hw hp h hs hx, hh]

theorem State.cmdHrecv_closed (hw : Cmd.word0Ok c = true) (hp : s.part? (Cmd.part c) = some p) (h : c.w1.toNat < 64)
    (hs : s.host.slots[c.w1.toNat] = some (Cmd.part c, x.id)) (hx : s.cell? x.id = some x) (hh : x.end1.held = none)
    (hc : x.end0.closed = true) : s.cmdHrecv c = s.refuse codeClosed := by
  rw [State.cmdHrecv, State.onSlot_eq _ hw hp h hs hx, hh]
  simp [hc]

theorem State.cmdHclose_eq (hw : Cmd.word0Ok c = true) (hp : s.part? (Cmd.part c) = some p) (h : c.w1.toNat < 64)
    (hs : s.host.slots[c.w1.toNat] = some (Cmd.part c, x.id)) (hx : s.cell? x.id = some x) :
    s.cmdHclose c = ((s.closeEnd x.id true).setSlot c.w1.toNat none).reply [] := by
  rw [State.cmdHclose, State.onSlot_eq _ hw hp h hs hx]

theorem State.setSlot_same (s : State) {i : Nat} (h : i < 64) (y : Option (Nat × Nat)) :
    (s.setSlot i y).host.slots[i] = y := by
  simp [State.setSlot, h]

/-- Where nothing is posted, a cell decides nothing. -/
theorem State.settled_unposted {id : Nat} (hx : s.cell? id = some x) (h0 : x.end0.post = none) (h1 : x.end1.post = none) :
    s.settled id = s := by
  simp [State.settled, State.settle, hx, Cell.side, h0, h1]

theorem State.cell?_updEnd (hx : s.cell? x.id = some x) (b : Bool) (f : EndSt → EndSt) :
    (s.updEnd x.id b f).cell? x.id = some (x.setSide b (f (x.side b))) := by
  have keeps : ∀ y : Cell, (y.setSide b (f (y.side b))).id = y.id := fun y => by cases b <;> rfl
  have found := find?_map_at Cell.id (fun y => y.setSide b (f (y.side b))) keeps x.id x.id s.cells
  rw [if_pos rfl] at found
  exact found.trans (congrArg (Option.map _) hx)

/-- A value sent where nothing is posted is held at the process's end. -/
theorem State.held_after_send (hx : s.cell? x.id = some x) (h0 : x.end0.post = none) (h1 : x.end1.post = none) (v : Word) :
    (((s.updEnd x.id false (fun e => { e with held := some v })).settled x.id).cell? x.id).map (fun y => y.end0.held)
      = some (some v) := by
  have sent := State.cell?_updEnd hx false (fun e => { e with held := some v })
  rw [State.settled_unposted sent h0 h1, sent]
  rfl

end

/-! ### EXPORT and IMPORT (R456, R473) -/

section

variable {s : State} {c : Cmd} {p : Part} {q : Proc}

theorem State.cmdExport_denied (hw : Cmd.word0Ok c = true) (hp : s.part? (Cmd.part c) = some p) (hc : p.conf = true)
    (h : c.w1.toNat < 2 ^ 32) : s.cmdExport c = s.refuse codeDenied := by
  rw [State.cmdExport, State.onPart_eq _ hw (by simpa using h) hp]
  simp [hc]

/-- The process's stores and request end, its image is complete and holds its pages: the image is the file. -/
theorem State.cmdExport_eq (hw : Cmd.word0Ok c = true) (hp : s.part? (Cmd.part c) = some p) (hc : p.conf = false)
    (hm : s.host.busMaster = true) (h : c.w1.toNat < 2 ^ 32) (hq : s.proc? (c.w1.setWidth 32) = some q)
    (part : q.part = Cmd.part c) (held : q.isHeld = true) {v : State} {l : List Byte}
    (image : ((if q.imageOk then (s.drain q.pid).finishRequest q.pid
      else ((s.drain q.pid).finishRequest q.pid).completeImage q.pid).storeRefs q.pid).imageRead q 0 Config.imageSlotBytes
        = .ok (v, l)) :
    s.cmdExport c = (v.hostPut c.w2 (exportBytes l)).reply [] := by
  rw [State.cmdExport, State.onPart_eq _ hw (by simpa using h) hp]
  simp only [hc, hq, part, State.part?_num hp, held, State.needMaster_eq _ hm, image, Bool.false_eq_true, if_false,
    bne_self_eq_false, Bool.not_true, Bool.or_self]

theorem State.cmdImport_denied (hw : Cmd.word0Ok c = true) (hp : s.part? (Cmd.part c) = some p) (hc : p.conf = true) :
    s.cmdImport c = s.refuse codeDenied := by
  rw [State.cmdImport, State.onPart_eq _ hw rfl hp]
  simp [hc]

/-- The file's words at 0x130 are 0 and a slot is free: the process is imported. The import gets a name of its own, as the
clearing of a slot above. -/
theorem State.cmdImport_eq (hw : Cmd.word0Ok c = true) (hp : s.part? (Cmd.part c) = some p) (hc : p.conf = false)
    (hm : s.host.busMaster = true) {l : List Byte} (hl : s.hostGet c.w1 Config.imageSlotBytes = l)
    (zeros : ∀ y ∈ (l.drop 0x130).take 16, y = 0) {i : Nat} (slot : s.freeSpSlot (Cmd.part c) = some i) {v : State}
    {pid : Pid} (image : s.importProc p i l = .ok (v, pid)) : s.cmdImport c = v.reply [zextWord pid] := by
  have none_set : (((l.drop 0x130).take 16).any (· != 0)) = false := by simpa using zeros
  obtain ⟨importProc, named⟩ : ∃ f, s.importProc p = f := exists_eq'
  rw [State.cmdImport, State.onPart_eq _ hw rfl hp]
  rw [named] at image ⊢
  simp only [hc, hl, none_set, State.needMaster_eq _ hm, State.part?_num hp, slot, image, Bool.false_eq_true, if_false]

end

/-! ### RELEASE (15_traps.md R405) -/

section

variable {s : State} {c : Cmd} {p : Part} {q : Proc}

theorem State.proc?_pid {pid : Pid} (h : s.proc? pid = some q) : q.pid = pid := by
  unfold State.proc? at h
  split at h
  · cases h
  · split at h
    · cases h; assumption
    · simpa using List.find?_some h

theorem State.cmdRelease_eq (hw : Cmd.word0Ok c = true) (hp : s.part? (Cmd.part c) = some p) (h : c.w1.toNat < 2 ^ 32)
    (hq : s.proc? (c.w1.setWidth 32) = some q) (part : q.part = Cmd.part c) (sup : q.sup = true)
    (halt : q.haltOp = true) :
    s.cmdRelease c = ((s.updProc q.pid (fun q =>
      { q with halted := false, haltOp := false, stepping := false, skipBp := true })).enqueue q.pid).reply [] := by
  rw [State.cmdRelease, State.onPart_eq _ hw (by simpa using h) hp]
  simp [hq, part, State.part?_num hp, sup, halt]

theorem State.rejoin_proc? (s : State) (pid r : Pid) : (s.rejoin pid).proc? r = s.proc? r := by
  unfold State.rejoin
  split
  · rfl
  · split
    · exact State.updCore_proc? ..
    · rfl

/-- A process that joins a runnable list is what it was, but for the time it became runnable. -/
theorem State.proc?_enqueue {pid : Pid} (h : s.proc? pid = some q) :
    ∃ time, (s.enqueue pid).proc? pid = some { q with runAt := time } := by
  unfold State.enqueue
  rw [h]
  dsimp only
  split
  · refine ⟨s.cycle, ?_⟩
    rw [State.rejoin_proc?, State.proc?_updProc, if_pos rfl, h, Option.map_some]
    exact fun _ => rfl
  · exact ⟨q.runAt, h⟩

end

/-! ### FAULTEND (R450, R388) -/

section

variable {s : State} {c : Cmd} {p : Part} {q : Proc}

/-- Where the register is free, the end is made and placed. -/
theorem State.placeFaultEnd_eq {n : Nat} {r : EReg} (hq : s.supOf (s.part n) = some q) (he : q.e[r] = 0)
    (hposts : s.postsTo q r = false) : ∃ u : State, s.placeFaultEnd n r = u.reply [] := by
  unfold State.placeFaultEnd
  dsimp only
  rw [hq]
  simp only [he, hposts, bne_self_eq_false, Bool.or_self, Bool.false_eq_true, if_false]
  exact ⟨_, rfl⟩

theorem State.placeFaultEnd_ended (s : State) (n : Nat) (r : EReg) : (s.placeFaultEnd n r).ended = true := by
  unfold State.placeFaultEnd
  dsimp only
  split
  · rfl
  · split <;> rfl

theorem State.cmdFaultEnd_still (hw : Cmd.word0Ok c = true) (hp : s.part? (Cmd.part c) = some p) (h : c.w1.toNat < 16)
    (hq : s.supOf p = some q) (shut : s.faultOpen p = false) (still : s.standsStill q = true) :
    s.cmdFaultEnd c = s.placeFaultEnd p.num (Fin.ofNat 16 c.w1.toNat) := by
  rw [State.cmdFaultEnd, State.onPart_eq _ hw (by simpa using h) hp]
  simp only [hq, shut, still, Bool.false_eq_true, if_false, if_true]

theorem State.cmdFaultEnd_moving (hw : Cmd.word0Ok c = true) (hp : s.part? (Cmd.part c) = some p) (h : c.w1.toNat < 16)
    (hq : s.supOf p = some q) (shut : s.faultOpen p = false) (moving : s.standsStill q = false) :
    s.cmdFaultEnd c =
      { state := s.updPart p.num (fun p => { p with placing := some (Fin.ofNat 16 c.w1.toNat) }), code := codeOk
        out := [], ended := false } := by
  rw [State.cmdFaultEnd, State.onPart_eq _ hw (by simpa using h) hp]
  simp only [hq, shut, moving, Bool.false_eq_true, if_false]

/-- The placement that a busy FAULTEND waits for ends it, and none waits any more. -/
theorem exec_faultEndPlacement {n : Nat} {r : EReg} (hp : s.part? n = some p) (hr : p.placing = some r) :
    ∃ t, exec (.faultEndPlacement n) s = .next t ∧ t.host.busy = false ∧ (t.part n).placing = none := by
  have waits : (s.part n).placing = some r := by rw [State.part_of_part? hp, hr]
  generalize hu : s.updPart n (fun p => { p with placing := none }) = u
  refine ⟨State.takeReply (u.placeFaultEnd n r), ?_, ?_, ?_⟩
  · show s.occur (tryFaultEndPlacement n s) = _
    simp only [tryFaultEndPlacement, waits, hu, State.occur, Option.getD_some]
  · simp [State.takeReply, State.placeFaultEnd_ended]
  · have gone : (u.part n).placing = none := by
      rw [← hu, State.part_updPart hp]
      exact fun _ => rfl
    obtain ⟨-, -, -, placing, -⟩ :=
      Part.standing_iff.mp (State.part_of_standing (State.placeFaultEnd_standing u n r) n)
    rw [State.takeReply_part, placing, gone]

end

/-- Settles O50: the doorbell runs the command that the opcode names, and the lemma of each command says what its reply
leaves; a cell settles nothing where nothing is posted, and what follows a first SPAWN leaves the supervisor in place. -/
theorem processCommands : Obligations.ProcessCommands := by
  unfold Obligations.ProcessCommands
  intro s c p q x n k u slot hp
  have num : p.num = n := State.part?_num hp
  have known : u.part? p.num = some p := num ▸ hp
  refine ⟨fun g rest h hsp args peers room hg hb => ?supervisor, fun i v h hsp args peers room slotFree clear => ?root,
    fun h named => ?slots, fun hc hm => ⟨fun v l h hk hq part held => ?exporting, fun i v pid h => ?importing⟩,
    fun hc => ⟨fun h hk => ?exportDenied, fun h => ?importDenied⟩, fun h hk hq part sup halt => ?release,
    fun h hk hq shut => ?faultEnd, fun r hr => exec_faultEndPlacement hp hr⟩
  case supervisor =>
    obtain ⟨t, pid, slots, spawn, spawned, isSup⟩ := State.spawnSupervisor_eq known c g.1
    have cmd := (State.cmdSpawn_supervisor (s := u) (word0Ok_of_ready h) hp hsp args peers room hg hb).trans spawn
    obtain ⟨code, busy, word⟩ := takeReply_spawnReply t pid slots
    refine ⟨_, pid, exec_of_reply h rfl rfl cmd, code, busy, word, ?_⟩
    rw [State.takeReply_part, ← num]
    exact ⟨spawned, isSup⟩
  case root =>
    rw [← num] at slotFree clear
    obtain ⟨t, slots, spawn⟩ := State.spawnRoot_eq slotFree clear c
    have cmd := (State.cmdSpawn_root (s := u) (word0Ok_of_ready h) hp hsp args peers room).trans spawn
    obtain ⟨code, -, word⟩ := takeReply_spawnReply t v.newPid.2 slots
    exact ⟨_, exec_of_reply h rfl rfl cmd, code, word⟩
  case slots =>
    obtain ⟨hs, hx⟩ := named
    refine ⟨fun hr ho hh => ?full, fun hr ho hh => ?sent, fun v hr hh => ?taken, fun hr hh hc => ?closed, fun hr => ?close⟩
    case full =>
      exact ⟨_, exec_of_reply hr rfl rfl (State.cmdHsend_full (s := u) (word0Ok_of_ready hr) hp h hs hx ho hh),
        answers_refuse _ _, State.takeReply_cells _⟩
    case sent =>
      refine ⟨_, exec_of_reply hr rfl rfl (State.cmdHsend_eq (s := u) (word0Ok_of_ready hr) hp h hs hx ho hh),
        answers_reply _ _, fun h0 h1 => ?_⟩
      rw [State.takeReply_cell?]
      exact State.held_after_send (s := u) hx h0 h1 c.w2
    case taken =>
      exact ⟨_, exec_of_reply hr rfl rfl (State.cmdHrecv_held (s := u) (word0Ok_of_ready hr) hp h hs hx hh),
        answers_reply _ _⟩
    case closed =>
      exact ⟨_, exec_of_reply hr rfl rfl (State.cmdHrecv_closed (s := u) (word0Ok_of_ready hr) hp h hs hx hh hc),
        answers_refuse _ _⟩
    case close =>
      refine ⟨_, exec_of_reply hr rfl rfl (State.cmdHclose_eq (s := u) (word0Ok_of_ready hr) hp h hs hx),
        answers_reply _ _, ?_⟩
      rw [State.takeReply_slots]
      exact State.setSlot_same _ h none
  case exporting =>
    intro u0 u1 image
    exact ⟨_, exec_of_reply h rfl rfl (State.cmdExport_eq (s := u) (word0Ok_of_ready h) hp hc hm hk hq part held image),
      answers_reply _ _, State.takeReply_hostMem _⟩
  case importing =>
    intro l zeros slotFree image
    exact ⟨_, exec_of_reply h rfl rfl (State.cmdImport_eq (s := u) (word0Ok_of_ready h) hp hc hm rfl zeros slotFree image),
      answers_reply _ _⟩
  case exportDenied =>
    exact ⟨_, exec_of_reply h rfl rfl (State.cmdExport_denied (s := u) (word0Ok_of_ready h) hp hc hk), answers_refuse _ _⟩
  case importDenied =>
    exact ⟨_, exec_of_reply h rfl rfl (State.cmdImport_denied (s := u) (word0Ok_of_ready h) hp hc), answers_refuse _ _⟩
  case release =>
    refine ⟨_, exec_of_reply h rfl rfl (State.cmdRelease_eq (s := u) (word0Ok_of_ready h) hp hk hq part sup halt),
      answers_reply _ _, fun pa => ?_, ?_⟩
    · rw [State.takeReply_physByte]
      exact ((State.updProc_same u _ _).trans (State.enqueue_same _ _)).physByte pa
    · have pid : q.pid = c.w1.setWidth 32 := State.proc?_pid hq
      have released := State.proc?_updProc u q.pid q.pid (fun q =>
        { q with halted := false, haltOp := false, stepping := false, skipBp := true }) fun _ => rfl
      rw [if_pos rfl, pid, show u.proc? (c.w1.setWidth 32) = some q from hq, Option.map_some] at released
      obtain ⟨time, joined⟩ := State.proc?_enqueue released
      rw [ProcAt, State.takeReply_proc?, pid]
      exact ⟨_, joined, rfl, rfl, rfl, rfl⟩
  case faultEnd =>
    refine ⟨fun still free hposts => ?_, fun moving => ?_⟩
    · have cmd := State.cmdFaultEnd_still (s := u) (word0Ok_of_ready h) hp hk hq shut still
      obtain ⟨t, placed⟩ := State.placeFaultEnd_eq (s := u) (n := p.num)
        (by rw [State.part_of_part? known]; exact hq) free hposts
      exact ⟨_, exec_of_reply h rfl rfl (cmd.trans placed), answers_reply _ _⟩
    · refine ⟨_, exec_of_reply h rfl rfl (State.cmdFaultEnd_moving (s := u) (word0Ok_of_ready h) hp hk hq shut moving),
        rfl, ?_⟩
      rw [State.takeReply_part, ← num]
      exact congrArg Part.placing (State.part_updPart known (f := fun p => { p with placing := some (Fin.ofNat 16 k) })
        fun _ => rfl)

end Sys2Proof.Machine
end

section
/-! The round trip (R26 to R51): every instruction's fields fit their places and name it, so the words they make decode to it. -/

namespace Sys2Proof.Laws.Coded

open Sys2Proof Sys2Proof.Machine

theorem statement (i : Instr) : Statement i := by
  cases i with
  | add _ _ _ => exact add _ _ _
  | sub _ _ _ => exact sub _ _ _
  | mul _ _ _ => exact mul _ _ _
  | mulh _ _ _ => exact mulh _ _ _
  | mulhn _ _ _ => exact mulhn _ _ _
  | div _ _ _ => exact div _ _ _
  | divn _ _ _ => exact divn _ _ _
  | rem _ _ _ => exact rem _ _ _
  | remn _ _ _ => exact remn _ _ _
  | and _ _ _ => exact and _ _ _
  | or _ _ _ => exact or _ _ _
  | xor _ _ _ => exact xor _ _ _
  | andn _ _ _ => exact andn _ _ _
  | orn _ _ _ => exact orn _ _ _
  | xnor _ _ _ => exact xnor _ _ _
  | shl _ _ _ => exact shl _ _ _
  | shr _ _ _ => exact shr _ _ _
  | sra _ _ _ => exact sra _ _ _
  | rol _ _ _ => exact rol _ _ _
  | ror _ _ _ => exact ror _ _ _
  | min _ _ _ => exact min _ _ _
  | max _ _ _ => exact max _ _ _
  | minn _ _ _ => exact minn _ _ _
  | maxn _ _ _ => exact maxn _ _ _
  | slt _ _ _ => exact slt _ _ _
  | sltn _ _ _ => exact sltn _ _ _
  | seq _ _ _ => exact seq _ _ _
  | sne _ _ _ => exact sne _ _ _
  | clz _ _ => exact clz _ _
  | ctz _ _ => exact ctz _ _
  | popc _ _ => exact popc _ _
  | brev _ _ => exact brev _ _
  | sextb _ _ => exact sextb _ _
  | sexth _ _ => exact sexth _ _
  | sextw _ _ => exact sextw _ _
  | zextb _ _ => exact zextb _ _
  | zexth _ _ => exact zexth _ _
  | zextw _ _ => exact zextw _ _
  | addi _ _ _ => exact addi _ _ _
  | andi _ _ _ => exact andi _ _ _
  | ori _ _ _ => exact ori _ _ _
  | xori _ _ _ => exact xori _ _ _
  | slti _ _ _ => exact slti _ _ _
  | sltni _ _ _ => exact sltni _ _ _
  | muli _ _ _ => exact muli _ _ _
  | shli _ _ _ => exact shli _ _ _
  | shri _ _ _ => exact shri _ _ _
  | srai _ _ _ => exact srai _ _ _
  | rori _ _ _ => exact rori _ _ _
  | lih _ _ => exact lih _ _
  | pcadd _ _ => exact pcadd _ _
  | ld _ _ _ _ => exact ld _ _ _ _
  | st _ _ _ _ => exact st _ _ _ _
  | pld _ _ _ _ => exact pld _ _ _ _
  | pst _ _ _ _ => exact pst _ _ _ _
  | beq _ _ _ => exact beq _ _ _
  | bne _ _ _ => exact bne _ _ _
  | blt _ _ _ => exact blt _ _ _
  | bge _ _ _ => exact bge _ _ _
  | bltn _ _ _ => exact bltn _ _ _
  | bgen _ _ _ => exact bgen _ _ _
  | jal _ _ => exact jal _ _
  | jalr _ _ _ => exact jalr _ _ _
  | loop _ _ => exact loop _ _
  | fadd _ _ _ => exact fadd _ _ _
  | fsub _ _ _ => exact fsub _ _ _
  | fmul _ _ _ => exact fmul _ _ _
  | fdiv _ _ _ => exact fdiv _ _ _
  | fsqrt _ _ => exact fsqrt _ _
  | fmin _ _ _ => exact fmin _ _ _
  | fmax _ _ _ => exact fmax _ _ _
  | fabs _ _ => exact fabs _ _
  | fneg _ _ => exact fneg _ _
  | feq _ _ _ => exact feq _ _ _
  | flt _ _ _ => exact flt _ _ _
  | fle _ _ _ => exact fle _ _ _
  | fclass _ _ => exact fclass _ _
  | fcvtif _ _ => exact fcvtif _ _
  | fcvtnf _ _ => exact fcvtnf _ _
  | fcvtfi _ _ => exact fcvtfi _ _
  | fcvtfn _ _ => exact fcvtfn _ _
  | aadd _ _ _ _ _ => exact aadd _ _ _ _ _
  | aand _ _ _ _ _ => exact aand _ _ _ _ _
  | aor _ _ _ _ _ => exact aor _ _ _ _ _
  | axor _ _ _ _ _ => exact axor _ _ _ _ _
  | amin _ _ _ _ _ => exact amin _ _ _ _ _
  | amax _ _ _ _ _ => exact amax _ _ _ _ _
  | aminn _ _ _ _ _ => exact aminn _ _ _ _ _
  | amaxn _ _ _ _ _ => exact amaxn _ _ _ _ _
  | aswp _ _ _ _ _ => exact aswp _ _ _ _ _
  | acas _ _ _ _ _ => exact acas _ _ _ _ _
  | albGated _ _ _ => exact albGated _ _ _
  | alb _ => exact alb _
  | ale _ => exact ale _
  | fence _ _ _ => exact fence _ _ _
  | chnew _ _ => exact chnew _ _
  | chclose _ => exact chclose _
  | emov _ _ => exact emov _ _
  | einfo _ _ => exact einfo _ _
  | brnew _ _ => exact brnew _ _
  | brep _ _ => exact brep _ _
  | arrive _ => exact arrive _
  | await _ => exact await _
  | bsync _ => exact bsync _
  | sende _ _ => exact sende _ _
  | recve _ _ => exact recve _ _
  | send _ _ => exact send _ _
  | recv _ _ => exact recv _ _
  | xmaxf _ _ _ => exact xmaxf _ _ _
  | xminf _ _ _ => exact xminf _ _ _
  | xsumf _ _ _ => exact xsumf _ _ _
  | xsumi _ _ _ => exact xsumi _ _ _
  | xmaxi _ _ _ => exact xmaxi _ _ _
  | xswp _ _ _ => exact xswp _ _ _
  | exit _ => exact exit _
  | yield => exact yield
  | pid _ => exact pid _
  | lcore _ => exact lcore _
  | sprio _ => exact sprio _
  | gprio _ => exact gprio _
  | cycle _ => exact cycle _
  | part _ => exact part _
  | spawn _ _ _ _ _ => exact spawn _ _ _ _ _
  | gset _ _ _ => exact gset _ _ _
  | nop => exact nop
  | halt => exact halt
  | brk => exact brk
  | park _ => exact park _
  | resume _ => exact resume _
  | migr _ _ => exact migr _ _
  | kill _ => exact kill _
  | sttw _ _ => exact sttw _ _
  | stti _ => exact stti _
  | tlbi _ _ => exact tlbi _ _
  | tlbia => exact tlbia
  | mfsr _ _ => exact mfsr _ _
  | mtsr _ _ => exact mtsr _ _
  | trap _ => exact trap _
  | li _ _ => exact li _ _
  | lihL _ _ => exact lihL _ _
  | addl _ _ _ => exact addl _ _ _
  | bmap _ _ _ _ _ => exact bmap _ _ _ _ _
  | fshl _ _ _ _ => exact fshl _ _ _ _
  | fshr _ _ _ _ => exact fshr _ _ _ _
  | fma _ _ _ _ => exact fma _ _ _ _
  | fms _ _ _ _ => exact fms _ _ _ _
  | fnma _ _ _ _ => exact fnma _ _ _ _
  | csel _ _ _ _ => exact csel _ _ _ _
  | bfx _ _ _ _ => exact bfx _ _ _ _
  | bfi _ _ _ _ => exact bfi _ _ _ _
  | alt _ _ _ _ _ _ _ => exact alt _ _ _ _ _ _ _
  | sendt _ _ => exact sendt _ _
  | recvt _ _ => exact recvt _ _
  | txmax _ _ _ _ => exact txmax _ _ _ _
  | txsum _ _ _ _ => exact txsum _ _ _ _
  | txmrg _ _ _ => exact txmrg _ _ _
  | tld _ _ _ _ => exact tld _ _ _ _
  | tst _ _ _ _ => exact tst _ _ _ _
  | tldx _ _ _ _ _ => exact tldx _ _ _ _ _
  | tstx _ _ _ _ _ => exact tstx _ _ _ _ _
  | tpf _ _ _ => exact tpf _ _ _
  | tred _ _ _ _ _ => exact tred _ _ _ _ _
  | spld _ _ => exact spld _ _
  | spst _ _ => exact spst _ _
  | tmov _ _ => exact tmov _ _
  | tzero _ => exact tzero _
  | tfill _ _ _ => exact tfill _ _ _
  | tget _ _ _ _ _ => exact tget _ _ _ _ _
  | tins _ _ _ _ _ => exact tins _ _ _ _ _
  | tiota _ _ _ => exact tiota _ _ _
  | mma _ => exact mma _
  | mmz _ => exact mmz _
  | mmas _ => exact mmas _
  | mmzs _ => exact mmzs _
  | vadd _ => exact vadd _
  | vsub _ => exact vsub _
  | vmul _ => exact vmul _
  | vfma _ => exact vfma _
  | vfms _ => exact vfms _
  | vmin _ => exact vmin _
  | vmax _ => exact vmax _
  | vdiv _ => exact vdiv _
  | vadds _ => exact vadds _
  | vmuls _ => exact vmuls _
  | vfmas _ => exact vfmas _
  | vcmp _ _ _ _ _ => exact vcmp _ _ _ _ _
  | vsel _ _ _ _ _ => exact vsel _ _ _ _ _
  | vclmp _ => exact vclmp _
  | vabs _ => exact vabs _
  | vneg _ => exact vneg _
  | vexp2 _ => exact vexp2 _
  | vlog2 _ => exact vlog2 _
  | vrcp _ => exact vrcp _
  | vrsq _ => exact vrsq _
  | vsqrt _ => exact vsqrt _
  | vtanh _ => exact vtanh _
  | vsigm _ => exact vsigm _
  | verf _ => exact verf _
  | vcvt _ => exact vcvt _
  | vqnt _ _ => exact vqnt _ _
  | vdqn _ => exact vdqn _
  | vrmax _ => exact vrmax _
  | vrmin _ => exact vrmin _
  | vrsum _ => exact vrsum _
  | vramax _ => exact vramax _
  | vrssq _ => exact vrssq _
  | vcmax _ => exact vcmax _
  | vcsum _ => exact vcsum _
  | vrmrg _ _ _ => exact vrmrg _ _ _
  | vbrow _ => exact vbrow _
  | vbcol _ => exact vbcol _
  | vtrn _ _ _ => exact vtrn _ _ _
  | vrotr _ _ _ => exact vrotr _ _ _
  | vrotc _ _ _ _ => exact vrotc _ _ _ _
  | vpermr _ _ _ => exact vpermr _ _ _
  | vbrot _ _ _ => exact vbrot _ _ _
  | vand _ _ _ => exact vand _ _ _
  | vor _ _ _ => exact vor _ _ _
  | vxor _ _ _ => exact vxor _ _ _
  | vnot _ _ => exact vnot _ _
  | vbmap _ _ _ _ _ => exact vbmap _ _ _ _ _
  | vshl _ _ _ _ => exact vshl _ _ _ _
  | vshr _ _ _ _ => exact vshr _ _ _ _
  | vsra _ _ _ _ => exact vsra _ _ _ _
  | vfshl _ _ _ _ => exact vfshl _ _ _ _
  | vfshr _ _ _ _ => exact vfshr _ _ _ _
  | vpopc _ _ _ _ => exact vpopc _ _ _ _
  | tileDispatch _ _ => exact tileDispatch _ _
  | engineCompletion _ _ => exact engineCompletion _ _
  | storePerform _ _ => exact storePerform _ _
  | atomicAtHome _ _ => exact atomicAtHome _ _
  | atomicReply _ => exact atomicReply _
  | atomicStop _ => exact atomicStop _
  | walkComplete _ => exact walkComplete _
  | rendezvous _ => exact rendezvous _
  | claim _ => exact claim _
  | timerExpiry _ _ => exact timerExpiry _ _
  | timerArm _ => exact timerArm _
  | timerDisarm _ => exact timerDisarm _
  | detectionLaunch _ => exact detectionLaunch _
  | probe _ _ => exact probe _ _
  | probeAnswer _ _ => exact probeAnswer _ _
  | starvationPromotion _ => exact starvationPromotion _
  | slotFill _ _ => exact slotFill _ _
  | stealRequest _ => exact stealRequest _
  | stealAnswer _ => exact stealAnswer _
  | stealRetry _ => exact stealRetry _
  | preemption _ => exact preemption _
  | blockedPark _ _ => exact blockedPark _ _
  | imageComplete _ => exact imageComplete _
  | exitCompletion _ => exact exitCompletion _
  | moveComplete _ => exact moveComplete _
  | moveAbandon _ _ => exact moveAbandon _ _
  | affinityMove _ => exact affinityMove _
  | evaluation _ _ => exact evaluation _ _
  | pauseEnd _ => exact pauseEnd _
  | pointWithdrawal _ _ => exact pointWithdrawal _ _
  | refillStep => exact refillStep
  | bucketEmpty _ => exact bucketEmpty _
  | pageInComplete _ _ => exact pageInComplete _ _
  | eviction _ => exact eviction _
  | laneSleep _ => exact laneSleep _
  | laneWake _ => exact laneWake _
  | moduleFailure _ => exact moduleFailure _
  | offlineAnswer _ => exact offlineAnswer _
  | dieDownComplete _ => exact dieDownComplete _
  | dieUpComplete _ => exact dieUpComplete _
  | linkPortFailure _ => exact linkPortFailure _
  | powerOn => exact powerOn
  | bootwinTrigger => exact bootwinTrigger
  | bundleVerified => exact bundleVerified
  | idleEntry => exact idleEntry
  | idleExit => exact idleExit
  | suspend => exact suspend
  | d0Resume => exact d0Resume
  | cmdstatRead => exact cmdstatRead
  | create _ => exact create _
  | grant _ => exact grant _
  | destroy _ => exact destroy _
  | copy _ => exact copy _
  | spawnCommand _ => exact spawnCommand _
  | hsend _ => exact hsend _
  | hrecv _ => exact hrecv _
  | hclose _ => exact hclose _
  | exportCmd _ => exact exportCmd _
  | importCmd _ => exact importCmd _
  | release _ => exact release _
  | diedown _ => exact diedown _
  | dieup _ => exact dieup _
  | event _ => exact event _
  | faultend _ => exact faultend _
  | faultEndPlacement _ => exact faultEndPlacement _
  | setMasks _ _ _ _ => exact setMasks _ _ _ _
  | debugHalt _ _ => exact debugHalt _ _
  | debugRelease _ _ => exact debugRelease _ _
  | debugStep _ _ => exact debugStep _ _
  | ptrootWrite _ => exact ptrootWrite _
  | fcsrWrite _ => exact fcsrWrite _
  | thrreasonWrite _ => exact thrreasonWrite _
  | bucketLevelWrite _ _ => exact bucketLevelWrite _ _
  | dqovfWrite _ => exact dqovfWrite _
  | spareaWrite _ => exact spareaWrite _
  | chareaWrite _ => exact chareaWrite _
  | imgareaWrite _ => exact imgareaWrite _
  | linkcfgWrite _ => exact linkcfgWrite _
  | registerWrite _ _ => exact registerWrite _ _
  | illegalEncoding _ _ => exact illegalEncoding _ _
  | instructionFetchFault _ _ _ => exact instructionFetchFault _ _ _
  | linkUp _ => exact linkUp _
  | peerMemoryAccess _ => exact peerMemoryAccess _
  | peerChannelMessage _ => exact peerChannelMessage _
  | powerRemoved => exact powerRemoved
  | doorbellWhileBusy => exact doorbellWhileBusy
  | busMasteringChange _ => exact busMasteringChange _

end Sys2Proof.Laws.Coded

namespace Sys2Proof

open Sys2Proof.Laws

/-- The words that encode gives are those of the instruction's frame. -/
theorem exists_frame_of_encode {i : Instr} {w0 : Nat} {w1 : Option Nat} (h : encode i = some (w0, w1)) :
    ∃ f, encodeFrame i = some f ∧ w0 = f.word ∧ w1 = if f.long then some (encodeSecond i) else none := by
  unfold encode at h
  split at h
  · next f hf =>
    cases h
    exact ⟨f, hf, rfl, rfl⟩
  · cases h

/-- Settles O56: the fields of every constructor's words fit their places and name it (Coded.statement), so the frame and the
tail are read back from their words. -/
theorem roundTrip : Obligations.RoundTrip := by
  unfold Obligations.RoundTrip
  intro i w0 w1 hw he
  obtain ⟨f, hf, rfl, rfl⟩ := exists_frame_of_encode he
  obtain ⟨hop, hfn, hsecond, -⟩ := Coded.statement i f hf
  refine ⟨Frame.word_lt hop hfn, fun w h => ?_, ?_, decode_word (Coded.statement i) hw hf fun hl => by simp [hl]⟩
  · cases hl : f.long <;> simp only [hl, if_true, Bool.false_eq_true, if_false] at h
    · cases h
    · cases h
      exact hsecond
  · rw [isLong_word hop hfn]
    cases f.long <;> rfl

end Sys2Proof
end

section
/-! What the operations of the model keep: an operation that stores nothing leaves every byte memory the same (`_same`), one
that stores, reads or seals keeps the canonical form of the memories (`_kept`), for each operation that a step reaches, in the
order in which they use each other. -/

namespace Sys2Proof.Machine
open Sys2Proof

theorem SameMem.iff {s t : State} : SameMem s t ↔
    t.mem = s.mem ∧ t.hostMem = s.hostMem ∧ t.peerMem = s.peerMem ∧ t.boot.bootwin = s.boot.bootwin :=
  ⟨fun ⟨mem, host, peer, boot⟩ => ⟨mem, host, peer, boot⟩, fun ⟨mem, host, peer, boot⟩ => ⟨mem, host, peer, boot⟩⟩

theorem bind_eq_ok {ε α β : Type} {x : Except ε α} {f : α → Except ε β} {b : β} :
    x >>= f = .ok b ↔ ∃ a, x = .ok a ∧ f a = .ok b := by
  cases x with
  | error e => exact ⟨fun h => (nomatch h), fun ⟨_, h, _⟩ => (nomatch h)⟩
  | ok a => exact ⟨fun h => ⟨a, rfl, h⟩, fun ⟨a', h, k⟩ => by cases h; exact k⟩

theorem Except.map_eq_ok {ε α β : Type} {x : Except ε α} {f : α → β} {b : β} :
    x.map f = .ok b ↔ ∃ a, x = .ok a ∧ f a = b := by
  cases x with
  | error e => exact ⟨fun h => (nomatch h), fun ⟨_, h, _⟩ => (nomatch h)⟩
  | ok a => exact ⟨fun h => ⟨a, rfl, Except.ok.inj h⟩, fun ⟨a', h, k⟩ => by cases h; exact congrArg _ k⟩

theorem ite_kept {s t u : State} {c : Prop} [Decidable c] (ht : MemKept s t) (hu : MemKept s u) : MemKept s
    (if c then t else u) := by
  split
  · exact ht
  · exact hu

theorem MemKept.getD {s : State} {o : Option State} (h : ∀ t, o = some t → MemKept s t) : MemKept s (o.getD s) := by
  cases o with
  | none => exact MemKept.refl s
  | some t => exact h t rfl

theorem State.logMemory_kept (s : State) (source kind pa : Nat) : MemKept s (s.logMemory source kind pa) := by
  unfold State.logMemory
  grind [MemKept, → SameMem.memOk, !State.logEntry_kept]

theorem State.readSector_kept (s : State) (sec : Nat) : MemKept s (s.readSector sec) := by
  unfold State.readSector
  grind [MemKept, → SameMem.memOk, State.memOk, !State.logMemory_kept]

theorem State.storeSector_kept (pa n : Nat) (s : State) (sec : Nat) : MemKept s (State.storeSector pa n s sec) := by
  unfold State.storeSector
  grind [MemKept, → SameMem.memOk, State.memOk, !State.readSector_kept]

theorem State.logAll_kept (s : State) (source kind addr : Nat) : MemKept s (s.logAll source kind addr) :=
  fun m => State.logAll_memOk m

theorem State.spillTo_kept {s u : State} {p : Part} {c : Nat} {r q : Rec} (h : s.spillTo p c r = .ok (some (u, q))) :
    MemKept s u := by
  unfold State.spillTo at h
  grind [MemKept, !State.physPut_kept]

theorem State.spillOldest_kept {s t : State} {c : Nat} (h : s.spillOldest c = .ok t) : MemKept s t := by
  unfold State.spillOldest at h
  grind [MemKept, → SameMem.memOk, → State.spillTo_kept, !State.updCore_same]

theorem State.roomForPush_kept (s : State) (c : Nat) (t : State) (h : s.roomForPush c = .ok t) : MemKept s t := by
  unfold State.roomForPush at h
  grind [MemKept, → SameMem.memOk, → State.spillOldest_kept, bind, Except.bind, pure, Except.pure]

theorem State.withAhead_same (s : State) (f : Ahead) : SameMem s (s.withAhead f) :=
  ⟨rfl, rfl, rfl, rfl⟩

theorem State.freeWalker_kept (s : State) (quad : Nat) : MemKept s (s.freeWalker quad) :=
  MemKept.foldl _ (fun _ _ => State.finishWalk_kept _ _ _) _ _

theorem State.rowWalks_kept (s : State) (base : Word) (g : Geom) (n : Nat) (index : Option TReg) :
    MemKept s (s.rowWalks base g n index) := by
  unfold State.rowWalks
  split
  · exact MemKept.refl s
  · split
    · exact MemKept.refl s
    · dsimp only
      split
      · exact MemKept.foldl _ (fun s va => State.noteWalk_kept s _ _ va) _ _
      · exact MemKept.refl s

theorem State.rowCache_same (s : State) (k : Access) (rows : List (List (Word × Nat × Nat))) : SameMem s
    (s.rowCache k rows) := by
  refine SameMem.foldl _ (fun s x => ?_) _ _
  split
  · exact State.cacheXlate_same _ _ _ _ _
  · exact SameMem.refl _

theorem State.startEntry_kept (s : State) (e : Engine) : MemKept s (s.startEntry e) := by
  have cur (t : State) (p : Proc) : MemKept t { t with cur := p } := SameMem.kept ⟨rfl, rfl, rfl, rfl⟩
  have ahead (f : Ahead) (m : MemForm) :
    MemKept s ((s.withAhead f).rowWalks (f.rd m.base) (geomOf f.g[m.geo]) m.n m.index) :=
    (State.withAhead_same s f).kept.trans (State.rowWalks_kept _ _ _ _ _)
  unfold State.startEntry
  split
  · exact MemKept.refl s
  · refine MemKept.trans ?_ (cur _ _)
    cases form : memForm _ with
    | none => exact MemKept.refl s
    | some m => exact (ahead _ _).trans (State.rowCache_same _ _ _).kept

theorem tryTileDispatch_kept {core : Nat} {pid : Pid} {s t : State} (h : tryTileDispatch core pid s = some t) :
    MemKept s t := by
  unfold tryTileDispatch at h
  split at h
  · cases h
  · obtain ⟨e, -, he⟩ := List.exists_of_findSome?_eq_some h
    grind [MemKept, → SameMem.memOk, !State.switchTo_same, !State.startEntry_kept, !State.updCore_same]

theorem State.dropL1_same (s : State) (c pa n : Nat) : SameMem s (s.dropL1 c pa n) := by
  unfold State.dropL1
  grind [SameMem.iff, !State.updCore_same]

theorem State.readPieces_kept (s : State) (hint : Hint) (l : List (Word × Nat × Nat)) : MemKept s (s.readPieces hint l) :=
  MemKept.foldl _ (fun _ _ => ((State.noteRead_kept _ _ _ _).trans (State.dropL1_same _ _ _ _).kept).trans
    (State.noteReach_same _ _).kept) _ _

theorem State.readEntry_kept (s : State) (r : RobEntry) : MemKept s (s.readEntry r).1 := by
  unfold State.readEntry
  grind [MemKept, → SameMem.memOk, !State.readPieces_kept]

theorem tryEngineCompletion_kept {core : Nat} {pid : Pid} {s t : State} (h : tryEngineCompletion core pid s = some t) :
    MemKept s t := by
  simp only [tryEngineCompletion, Option.bind_eq_some_iff, Option.ite_none_right_eq_some, Option.map_eq_some_iff] at h
  obtain ⟨p, -, -, k, -, r, -, rfl⟩ := h
  grind [MemKept, → SameMem.memOk, State.memOk, !State.drew_same, !State.switchTo_same, !State.readEntry_kept]

theorem State.updateL1_same (s : State) (c pa : Nat) (bytes : List Byte) : SameMem s (s.updateL1 c pa bytes) := by
  unfold State.updateL1
  grind [SameMem.iff, !State.updCore_same]

theorem State.noteArea_kept (s : State) (part : Nat) (t : TrapInfo) : MemKept s (s.noteArea part t) := by
  unfold State.noteArea
  grind [MemKept, → SameMem.memOk, !State.readRange_kept, !State.noteWalk_kept]

theorem State.segmentOff_same (s : State) (c : Nat) (r : Rec) : SameMem s (s.segmentOff c r) := by
  unfold State.segmentOff
  grind [SameMem.iff, !State.updCore_same]

theorem State.logPool_kept (s : State) (part kind id : Nat) : MemKept s (s.logPool part kind id) := by
  unfold State.logPool
  grind [MemKept, → SameMem.memOk, !State.logEntry_kept]

theorem State.ownGet_kept {s t : State} {p : Part} {pa n : Nat} {l : List Byte} (h : s.ownGet p pa n = .ok (t, l)) :
    MemKept s t := State.ownRead_kept (allGood_ok h)

theorem State.srcPages_kept {s t : State} {o : Option Pid} {x : Src} {l : List Page} (h : s.srcPages o x = .ok (t, l)) :
    MemKept s t := by
  unfold State.srcPages at h
  split at h
  · cases h
    exact MemKept.refl _
  · split at h
    · exact State.sendRegs_kept h
    · cases h
      exact MemKept.refl _

theorem tryStorePerform_kept (pid : Pid) (n : Nat) (s : State) (t : State) (h : tryStorePerform pid n s = some t) :
    MemKept s t := by
  unfold tryStorePerform at h
  grind [MemKept, → SameMem.memOk, !State.performNth_kept]

theorem State.updLatch_same (s : State) (pid : Pid) (f : Latch → Latch) : SameMem s (s.updLatch pid f) :=
  State.updProc_same _ _ _

theorem State.performed_same (s : State) (pid : Pid) (result : Option Word) : SameMem s (s.performed pid result) :=
  State.updLatch_same _ _ _

theorem State.amoAtHome_kept (s : State) (pid : Pid) (key : Option Nat) (op : AmoOp) (narrow : Bool) (x cmp : Word)
    (pa : Nat) : MemKept s (s.amoAtHome pid key op narrow x cmp pa) := by
  unfold State.amoAtHome
  grind [MemKept, → SameMem.memOk, !State.noteRead_kept, !State.updLatch_same, !State.performed_same,
    !State.flushFor_kept, !State.storeBytes_kept, !State.sealFor_kept]

theorem State.regionAtHome_kept (s : State) (pid : Pid) (key : Option Nat) (pa : Nat) (stores : List (Nat × List Byte))
    (gate : Option (Nat × Word)) (hasLoad touched : Bool) :
    MemKept s (s.regionAtHome pid key pa stores gate hasLoad touched) := by
  have written (u : State) : MemKept u
      (stores.foldl (fun s x => (s.sealFor key x.1 x.2.length).storeBytes pid x.1 x.2) u) :=
    MemKept.foldl _ (fun _ _ => (State.sealFor_kept _ _ _ _).trans (State.storeBytes_kept _ _ _ _)) _ _
  unfold State.regionAtHome
  grind [MemKept, → SameMem.memOk, !State.noteRead_kept, !State.updLatch_same, !State.performed_same]

theorem State.tredRowAtHome_kept (s : State) (pid : Pid) (ty : Ty) (hint : Hint) (r : TredRow) :
    MemKept s (s.tredRowAtHome pid ty hint r) := by
  unfold State.tredRowAtHome
  have read := MemKept.foldl _ (fun s e => State.noteRead_kept s (s.viaOf pid e.2 hint) e.1.1 (ty.bits / 8))
    (r.elems.zip r.keys) s
  dsimp only
  refine read.trans ?_
  split
  · exact (State.updLatch_same _ _ _).kept
  · exact (MemKept.foldl _ (fun s e => ((State.sealFor_kept _ _ _ _).trans (State.storeVia_kept _ _ _ _ _)).trans
      (State.flushFor_kept _ _)) _ _).trans (State.updLatch_same _ _ _).kept

theorem tryAtomicAtHome_kept {pid : Pid} {row : Nat} {s t : State} (h : tryAtomicAtHome pid row s = some t) :
    MemKept s t := by
  unfold tryAtomicAtHome at h
  grind [MemKept, → SameMem.memOk, !State.drainOver_kept, !State.amoAtHome_kept, !State.regionAtHome_kept,
    !State.tredRowAtHome_kept, !State.updLatch_same]

theorem State.dropRequest_same (s : State) (l : Latch) : SameMem s (s.dropRequest l) := by
  unfold State.dropRequest
  split
  · split
    · exact State.dropL1_same _ _ _ _
    · exact SameMem.refl s
  · split
    · exact State.dropL1_same _ _ _ _
    · exact SameMem.refl s
  · exact SameMem.foldl _ (fun s r => SameMem.foldl _ (fun s e => State.dropL1_same _ _ _ _) _ _) _ _
  · exact SameMem.refl s

theorem tryAtomicReply_kept {pid : Pid} {s t : State} (h : tryAtomicReply pid s = some t) : MemKept s t := by
  unfold tryAtomicReply at h
  grind [MemKept, → SameMem.memOk, !State.dropRequest_same, !State.updLatch_same, !State.writeWhen_kept]

theorem tryAtomicStop_kept {pid : Pid} {s t : State} (h : tryAtomicStop pid s = some t) : MemKept s t := by
  unfold tryAtomicStop at h
  grind [MemKept, → SameMem.memOk, !State.dropRequest_same, !State.updLatch_same, !State.infoRecord_same,
    !State.trapParked_kept]

theorem tryWalkComplete_kept (quad : Nat) (s : State) (t : State) (h : tryWalkComplete quad s = some t) :
    MemKept s t := by
  unfold tryWalkComplete at h
  grind [MemKept, → SameMem.memOk, !State.finishWalk_kept, !State.drew_same]

theorem tryRendezvous_kept (cell : Nat) (s : State) (t : State) (h : tryRendezvous cell s = some t) : MemKept s t := by
  unfold tryRendezvous at h
  grind [MemKept, → SameMem.memOk, → State.settle_kept]

theorem State.claimCell_kept (s : State) (id : Nat) (t : State) (h : s.claimCell id = some t) : MemKept s t := by
  unfold State.claimCell at h
  grind [MemKept, → SameMem.memOk, !State.altReturn_kept, !State.setKey_same]

theorem tryClaim_kept (cell : Nat) (s : State) (t : State) (h : tryClaim cell s = some t) : MemKept s t := by
  unfold tryClaim at h
  grind [MemKept, → SameMem.memOk, → State.claimCell_kept]

theorem tryTimerExpiry_kept (part timer : Nat) (s : State) (t : State) (h : tryTimerExpiry part timer s = some t) :
    MemKept s t := by
  unfold tryTimerExpiry at h
  grind [MemKept, → SameMem.memOk, !State.expire_kept]

theorem tryDetectionLaunch_same {pid : Pid} {s t : State} (h : tryDetectionLaunch pid s = some t) : SameMem s t := by
  unfold tryDetectionLaunch at h
  grind [SameMem.iff, !State.updProc_same]

theorem State.endDetect_same (s : State) (init : Pid) : SameMem s (s.endDetect init) :=
  ⟨rfl, rfl, rfl, rfl⟩

theorem State.meet_same (s : State) (init pid : Pid) : SameMem s (s.meet init pid) := by
  unfold State.meet
  dsimp only
  split
  · exact State.endDetect_same _ _
  · exact SameMem.foldl _ (fun _ _ => State.endDetect_same _ _) _ _

theorem State.updDetect_same (s : State) (init : Pid) (f : Detect → Detect) : SameMem s (s.updDetect init f) :=
  ⟨rfl, rfl, rfl, rfl⟩

theorem tryProbe_same (init pid : Pid) (s : State) (t : State) (h : tryProbe init pid s = some t) : SameMem s t := by
  unfold tryProbe at h
  grind [SameMem.iff, !State.meet_same, !State.updDetect_same]

theorem State.report_same (s : State) (init : Pid) (members : List (Pid × Nat)) : SameMem s (s.report init members) := by
  unfold State.report
  split
  · exact SameMem.refl s
  · dsimp only
    split
    · exact SameMem.refl s
    · exact (State.updPart_same _ _ _).trans (State.infoRecord_same _ _ _)

theorem State.roundEnd_same (s : State) (d : Detect) : SameMem s (s.roundEnd d) := by
  unfold State.roundEnd
  grind [SameMem.iff, !State.updDetect_same, !State.endDetect_same, !State.report_same]

theorem tryProbeAnswer_same (init pid : Pid) (s : State) (t : State) (h : tryProbeAnswer init pid s = some t) :
    SameMem s t := by
  unfold tryProbeAnswer at h
  grind [SameMem.iff, !State.updDetect_same, !State.roundEnd_same, !State.endDetect_same]

theorem tryStarvationPromotion_same (core : Nat) (s : State) (t : State) (h : tryStarvationPromotion core s = some t) :
    SameMem s t := by
  unfold tryStarvationPromotion at h
  grind [SameMem.iff, !State.updCore_same]

theorem State.refill_kept (s : State) (r : Rec) : MemKept s (s.refill r).1 := by
  unfold State.refill
  grind [MemKept, → SameMem.memOk, !State.noteRead_kept, !State.noteWalk_kept]

theorem State.quietTransfer_same (s : State) (pid : Pid) (target : Nat) : SameMem s (s.quietTransfer pid target) :=
  ⟨rfl, rfl, rfl, rfl⟩

theorem State.readForMove_kept (s : State) (pid : Pid) (target : Nat) : MemKept s (s.readForMove pid target).1 :=
  (MemKept.foldl _ (fun _ _ => State.settlePage_kept _ _) _ _).trans (State.quietTransfer_same _ _ _).kept

theorem State.movePages_same (s : State) (pid : Pid) (target : Nat) : SameMem s (s.movePages pid target) := by
  unfold State.movePages
  grind [SameMem.iff]

theorem State.setPage_same (s : State) (id : Nat) (p : Page) : SameMem s (s.setPage id p) :=
  ⟨rfl, rfl, rfl, rfl⟩

theorem State.poisonPage_same (s : State) (id : Nat) : SameMem s (s.poisonPage id) :=
  ⟨rfl, rfl, rfl, rfl⟩

theorem State.slotRead_kept {s t : State} {p : Proc} {off n : Nat} {l : List Byte} (h : s.slotRead p off n = .ok (t, l)) :
    MemKept s t := by
  have read := ok_of_asArea h
  split at read
  · exact State.ownGet_kept read
  · exact State.areaGet_kept read

theorem State.sttGet_kept {s t : State} {pid : Pid} {v : Nat} {e : Word} (h : s.sttGet pid v = .ok (t, e)) :
    MemKept s t := by
  unfold State.sttGet at h
  grind [MemKept, → SameMem.memOk, → State.slotRead_kept, !State.updDir_same, !State.sweep_same, !State.updCore_same]

theorem State.slotWrite_kept {s t : State} {p : Proc} {off : Nat} {l : List Byte} (h : s.slotWrite p off l = .ok t) :
    MemKept s t := by
  have written := ok_of_asArea h
  split at written
  · exact State.ownPut_kept written
  · exact State.areaPut_kept written

theorem State.sttPut_kept {s t : State} {pid : Pid} {v : Nat} {e : Word} (h : s.sttPut pid v e = .ok t) :
    MemKept s t := by
  unfold State.sttPut at h
  split at h
  · cases h
    exact MemKept.refl s
  · next p _ =>
    cases written : s.slotWrite p (8 * v) (bytesOf 8 e.toNat) with
    | error x =>
      rw [written] at h
      cases h
    | ok u =>
      rw [written] at h
      cases h
      exact (State.slotWrite_kept written).trans (State.updCore_same _ _ _).kept

theorem State.dropCopy_same (s : State) (pid : Pid) (v : Nat) : SameMem s (s.dropCopy pid v) :=
  (State.updDir_same _ _ _).trans (State.sweep_same _ _)

theorem State.sttDrop_same (s : State) (pid : Pid) (v : Nat) : SameMem s (s.sttDrop pid v) :=
  ⟨rfl, rfl, rfl, rfl⟩

theorem State.losePad_kept (s : State) (p : Proc) (v id : Nat) : MemKept s (s.losePad p v id) := by
  unfold State.losePad
  grind [MemKept, → SameMem.memOk, !State.poisonPage_same, → State.sttGet_kept, !State.areaFault_kept,
    → State.sttPut_kept, !State.dropCopy_same, !State.sttDrop_same]

theorem State.loseId_kept (s : State) (pid : Pid) (id : Nat) : MemKept s (s.loseId pid id) := by
  unfold State.loseId
  grind [MemKept, → SameMem.memOk, !State.losePad_kept, !State.poisonPage_same]

theorem State.carryPages_kept (s : State) (pid : Pid) (target : Nat) : MemKept s (s.carryPages pid target) := by
  unfold State.carryPages
  split
  · exact ((State.readForMove_kept s pid target).trans (MemKept.foldl _ (fun _ _ => State.loseId_kept _ _ _) _ _)).trans
      (State.movePages_same _ _ _).kept
  · exact MemKept.refl s

theorem State.startRec_kept (s : State) (c slot : Nat) (r : Rec) : MemKept s (s.startRec c slot r) := by
  have joined (p : Proc) : MemKept s { s with procs := p :: s.procs } := SameMem.kept ⟨rfl, rfl, rfl, rfl⟩
  unfold State.startRec
  exact ((joined _).trans (State.carryPages_kept _ _ _)).trans
    ((State.updCore_same _ c _).trans (State.flushL1_same _ c)).kept

theorem State.dropRec_same (s : State) (c : Nat) (pid : Pid) : SameMem s (s.dropRec c pid) := by
  unfold State.dropRec
  grind [SameMem.iff, !State.updCore_same]

theorem State.rootEnded_same (s : State) (pid : Pid) (j : Join) (code : Word) (how : Nat) : SameMem s
    (s.rootEnded pid j code how) := by
  unfold State.rootEnded
  grind [SameMem.iff, !State.hostEvent_same]

theorem State.dropPages_same (s : State) (pid : Pid) : SameMem s (s.dropPages pid) :=
  ⟨rfl, rfl, rfl, rfl⟩

theorem State.discardRec_kept (s : State) (c : Nat) (r : Rec) : MemKept s (s.discardRec c r) :=
  ((State.dropRec_same _ _ _).kept.trans (State.closeAll_kept _ _)).trans
    ((State.dropPages_same _ _).trans (State.rootEnded_same _ _ _ _ _)).kept

theorem State.takeRec_kept (s : State) (victim c slot : Nat) (r : Rec) : MemKept s (s.takeRec victim c slot r) := by
  unfold State.takeRec
  grind [MemKept, → SameMem.memOk, !State.refill_kept, !State.startRec_kept, !State.dropRec_same,
    !State.segmentOff_same, !State.discardRec_kept]

theorem State.resend_kept (s : State) (pid : Pid) : MemKept s (s.resend pid) := by
  unfold State.resend
  grind [MemKept, → SameMem.memOk, !State.trapParked_kept, !State.updLatch_same]

theorem State.fillOwn_kept {s t : State} {c slot : Nat} (h : s.fillOwn c slot = some t) : MemKept s t := by
  unfold State.fillOwn at h
  split at h
  · cases h
    exact State.takeRec_kept _ _ _ _ _
  · obtain ⟨p, -, rfl⟩ := Option.map_eq_some_iff.mp h
    exact (State.unpark_kept _ _ _ _).trans (State.resend_kept _ _)

theorem State.askFrom_same (s : State) (c slot level fuel : Nat) : SameMem s (s.askFrom c slot level fuel) := by
  induction fuel generalizing level with
  | zero => exact State.updCore_same _ _ _
  | succ fuel ih =>
    unfold State.askFrom
    dsimp only
    split
    · exact ih _
    · exact (State.updCore_same _ _ _).trans (State.updCore_same _ _ _)

theorem trySlotFill_kept {core slot : Nat} {s t : State} (h : trySlotFill core slot s = some t) : MemKept s t := by
  unfold trySlotFill at h
  cases own : s.fillOwn core slot <;>
    grind [MemKept, → SameMem.memOk, → State.fillOwn_kept, !State.askFrom_same]

theorem State.giveRecord_kept (s : State) (v thief fuel : Nat) : MemKept s (s.giveRecord v thief fuel).1 := by
  induction fuel generalizing s with
  | zero => exact MemKept.refl s
  | succ fuel ih =>
    unfold State.giveRecord
    grind [MemKept, → SameMem.memOk, !State.refill_kept, !State.dropRec_same, !State.segmentOff_same,
      !State.discardRec_kept]

theorem tryStealRequest_kept {victim : Nat} {s t : State} (h : tryStealRequest victim s = some t) : MemKept s t := by
  unfold tryStealRequest at h
  grind [MemKept, → SameMem.memOk, !State.updCore_same, !State.giveRecord_kept]

theorem State.pushRec_same (s : State) (c : Nat) (r : Rec) : SameMem s (s.pushRec c r) := by
  unfold State.pushRec
  grind [SameMem.iff, !State.updCore_same]

theorem State.placeRec_kept (s : State) (goal : Nat) (r : Rec) : MemKept s (s.placeRec goal r) := by
  unfold State.placeRec
  grind [MemKept, → SameMem.memOk, → State.roomForPush_kept, !State.pushRec_same, !State.updCore_same]

theorem State.placeStolen_kept (s : State) (c slot : Nat) (r : Rec) : MemKept s (s.placeStolen c slot r) := by
  unfold State.placeStolen
  grind [MemKept, → SameMem.memOk, !State.placeRec_kept, !State.startRec_kept]

theorem State.askNext_same (s : State) (c : Nat) (st : Steal) : SameMem s (s.askNext c st) := by
  unfold State.askNext
  grind [SameMem.iff, !State.updCore_same, !State.askFrom_same]

theorem tryStealAnswer_kept (core : Nat) (s : State) (t : State) (h : tryStealAnswer core s = some t) : MemKept s t := by
  unfold tryStealAnswer at h
  grind [MemKept, → SameMem.memOk, !State.placeStolen_kept, !State.updCore_same, !State.askNext_same]

theorem tryStealRetry_same (core : Nat) (s : State) (t : State) (h : tryStealRetry core s = some t) : SameMem s t := by
  unfold tryStealRetry at h
  grind [SameMem.iff, !State.updCore_same]

theorem State.preemptFill_kept (s : State) (c slot fuel : Nat) : MemKept s (s.preemptFill c slot fuel) := by
  induction fuel generalizing s with
  | zero => exact MemKept.refl s
  | succ fuel ih =>
    unfold State.preemptFill
    grind [MemKept, → SameMem.memOk, !State.refill_kept, !State.dropRec_same, !State.startRec_kept,
      !State.segmentOff_same,
      !State.discardRec_kept]

theorem tryPreemption_kept (core : Nat) (s : State) (t : State) (h : tryPreemption core s = some t) : MemKept s t := by
  unfold tryPreemption at h
  grind [MemKept, → SameMem.memOk, !State.parkProc_same, !State.preemptFill_kept]

theorem tryBlockedPark_same (core slot : Nat) (s : State) (t : State) (h : tryBlockedPark core slot s = some t) :
    SameMem s t := by
  unfold tryBlockedPark at h
  grind [SameMem.iff, !State.parkProc_same]

theorem State.physZero_kept (s : State) (key : Option Nat) (pa n : Nat) : MemKept s (s.physZero key pa n) :=
  fun m => State.physZero_memOk m

theorem tryImageComplete_kept (pid : Pid) (s : State) (t : State) (h : tryImageComplete pid s = some t) :
    MemKept s t := by
  unfold tryImageComplete at h
  grind [MemKept, → SameMem.memOk, !State.enqueue_same, !State.completeImage_kept]

theorem State.endProc_kept (s : State) (pid : Pid) : MemKept s (s.endProc pid) := by
  unfold State.endProc
  grind [MemKept, → SameMem.memOk, !State.dequeue_same, !State.closeAll_kept, !State.updPart_same, !State.freeSlot_same,
    !State.dropPages_same, !State.dropProc_same]

theorem State.postCode_kept (s : State) (pid : Pid) (cell : Nat) (code : Word) : MemKept s
    (s.postCode pid cell code) := by
  unfold State.postCode
  grind [MemKept, → SameMem.memOk, !State.deviceReach_kept, !State.reachedCell_kept, !State.settled_kept,
    !State.updEnd_same]

theorem tryExitCompletion_kept (pid : Pid) (s : State) (t : State) (h : tryExitCompletion pid s = some t) :
    MemKept s t := by
  unfold tryExitCompletion at h
  grind [MemKept, → SameMem.memOk, !State.endProc_kept, !State.postCode_kept, !State.rootEnded_same]

theorem State.bringPages_kept (s : State) (pid : Pid) (c : Nat) (t : State) (h : s.bringPages pid c = some t) :
    MemKept s t := by
  unfold State.bringPages at h
  grind [MemKept, → SameMem.memOk, !State.carryPages_kept]

theorem State.endMove_kept (s : State) (pid : Pid) (c : Nat) (moved : Bool) : MemKept s (s.endMove pid c moved) := by
  unfold State.endMove
  grind [MemKept, → SameMem.memOk, !State.carryPages_kept, !State.updProc_same, !State.completeImage_kept,
    !State.resend_kept, !State.unpark_kept, !State.enqueue_same]

theorem State.migFail_same (s : State) (pid : Pid) (addr : Word) (target : Nat) : SameMem s
    (s.migFail pid addr target) := by
  unfold State.migFail
  grind [SameMem.iff, !State.infoRecord_same]

theorem State.copyMove_kept (s : State) (p : Proc) (source target : Nat) : MemKept s (s.copyMove p source target) := by
  unfold State.copyMove
  grind [MemKept, → SameMem.memOk, !State.readForMove_kept, !State.endMove_kept, !State.migFail_same]

theorem tryMoveComplete_kept {pid : Pid} {s t : State} (h : tryMoveComplete pid s = some t) : MemKept s t := by
  unfold tryMoveComplete at h
  grind [MemKept, Option.bind_eq_some_iff, → State.bringPages_kept, !State.copyMove_kept]

theorem State.beginMoveNow_same (s : State) (pid : Pid) (target : Nat) : SameMem s (s.beginMoveNow pid target) := by
  unfold State.beginMoveNow
  grind [SameMem.iff, !State.updProc_same, !State.freeSlot_same]

theorem State.startMove_same (s : State) (pid : Pid) (target : Nat) (heat : Bool) : SameMem s
    (s.startMove pid target heat) := by
  unfold State.startMove
  grind [SameMem.iff, !State.latchAt_same, !State.beginMoveNow_same]

theorem State.beginMove_same (s : State) (pid : Pid) (target : Nat) : SameMem s (s.beginMove pid target) := by
  unfold State.beginMove
  grind [SameMem.iff, !State.startMove_same]

theorem tryAffinityMove_same (pid : Pid) (s : State) (t : State) (h : tryAffinityMove pid s = some t) : SameMem s t := by
  unfold tryAffinityMove at h
  grind [SameMem.iff, !State.beginMove_same]

theorem State.setReason_same (s : State) (c bit : Nat) : SameMem s (s.setReason c bit) := by
  unfold State.setReason
  grind [SameMem.iff, !State.updQuad_same]

theorem State.startWaiting_same (s : State) (q : Nat) : SameMem s (s.startWaiting q) := by
  unfold State.startWaiting
  grind [SameMem.iff, !State.updCore_same, !State.setReason_same]

theorem State.replay_kept (s : State) (l : Latched) : MemKept s (s.replay l) := by
  cases l with
  | park pid hold => exact (State.parkProc_same _ _ _).kept
  | trap pid cause addr detail iw0 iw1 cycle => exact (State.trapNow_same _ _ _ _ _ _).kept
  | move pid target heat => exact (State.startMove_same _ _ _ _).kept
  | writes pid w => exact State.write_kept _ _ _
  | tiles pid d pages => exact State.mapPages_kept _ _ _ _

theorem tryPauseEnd_kept {core : Nat} {s t : State} (h : tryPauseEnd core s = some t) : MemKept s t := by
  unfold tryPauseEnd at h
  split at h
  · cases h
  · cases h
    exact (((State.updCore_same _ _ _).trans (State.updQuad_same _ _ _)).kept.trans
      (MemKept.foldl _ (fun _ _ => State.replay_kept _ _) _ _)).trans (State.startWaiting_same _ _).kept

theorem State.changePoint_same (s : State) (c p : Nat) : SameMem s (s.changePoint c p) := by
  unfold State.changePoint
  grind [SameMem.iff, !State.updCore_same, !State.setReason_same]

theorem State.lower_same (s : State) (c : Nat) (bits : List Nat) : SameMem s (s.lower c bits) := by
  unfold State.lower
  split
  · exact SameMem.refl s
  · exact (SameMem.foldl _ (fun _ _ => State.setReason_same _ _ _) _ _).trans (State.changePoint_same _ _ _)

theorem State.setPoint_same (s : State) (overCur : Nat → Bool) (above : Bool) (cap : Option Nat) (therm : List Nat)
    (c : Nat) :
    SameMem s (s.setPoint overCur above cap therm c) := by
  unfold State.setPoint
  grind [SameMem.iff, !State.lower_same, !State.changePoint_same]

theorem State.coolDown_same (s : State) (c : Nat) : SameMem s (s.coolDown c) := by
  unfold State.coolDown
  grind [SameMem.iff, !State.updCore_same, !State.startMove_same]

theorem State.chilled_same (s : State) (l : List Nat) : SameMem s (l.foldl State.coolDown s) :=
  SameMem.foldl _ (fun _ _ => State.coolDown_same _ _) _ _

theorem State.measured_same (s : State) (l : List Reading) :
    SameMem s (l.foldl (fun (s : State) r => s.updCore r.core (fun k => { k with temp := r.temp })) s) :=
  SameMem.foldl _ (fun _ _ => State.updCore_same _ _ _) _ _

theorem State.pointsSet_same (s : State) (overCur : Nat → Bool) (above : Bool) (cap : Option Nat) (therm l : List Nat) :
    SameMem s (l.foldl (fun s c => s.setPoint overCur above cap therm c) s) :=
  SameMem.foldl _ (fun _ _ => State.setPoint_same _ _ _ _ _ _) _ _

theorem tryEvaluation_same {readings : List Reading} {power : Nat} {s t : State}
    (h : tryEvaluation readings power s = some t) :
    SameMem s t := by
  have begun (n : Nat) : SameMem s { s with evalAt := n } := ⟨rfl, rfl, rfl, rfl⟩
  unfold tryEvaluation at h
  rw [Option.ite_none_right_eq_some] at h
  rw [← Option.some.inj h.2]
  exact (((begun _).trans (State.measured_same _ _)).trans (State.chilled_same _ _)).trans (State.pointsSet_same _ _ _ _ _ _)

theorem tryRefillStep_same (s : State) (t : State) (h : tryRefillStep s = some t) : SameMem s t := by
  unfold tryRefillStep at h
  grind [SameMem.iff]

theorem State.dropLatchedMove_same (s : State) (pid : Pid) : SameMem s (s.dropLatchedMove pid) :=
  ⟨rfl, rfl, rfl, rfl⟩

theorem State.parkPartition_same (s : State) (part : Nat) : SameMem s (s.parkPartition part) :=
  (State.updPart_same _ _ _).trans
    (SameMem.foldl _ (fun _ _ => (State.dropLatchedMove_same _ _).trans (State.parkProc_same _ _ _)) _ _)

theorem tryBucketEmpty_same (part : Nat) (s : State) (t : State) (h : tryBucketEmpty part s = some t) : SameMem s t := by
  unfold tryBucketEmpty at h
  grind [SameMem.iff, !State.parkPartition_same]

theorem State.slotTake_kept {s t : State} {p : Proc} {off n : Nat} {l : List Byte} {b : Option (Word × Nat)}
    (h : s.slotTake p off n = .ok (t, l, b)) : MemKept s t := by
  have read := ok_of_asArea h
  split at read
  · exact State.ownRead_kept read
  · exact State.areaRead_kept read

theorem State.slotTake_or_kept {s t : State} {p : Proc} {b : Bool} {off n : Nat} {l l' : List Byte} {o : Option
    (Word × Nat)}
    (h : (if b then s.slotTake p off n else .ok (s, l', none)) = .ok (t, l, o)) : MemKept s t := by
  split at h
  · exact State.slotTake_kept h
  · cases h
    exact MemKept.refl _

theorem State.pageIn_kept {s t : State} {pid : Pid} {v : Nat} (h : s.pageIn pid v = .ok t) : MemKept s t := by
  unfold State.pageIn at h
  split at h
  · cases h
    exact MemKept.refl _
  · cases got : s.sttGet pid v with
    | error x =>
      rw [got] at h
      cases h
    | ok r =>
      obtain ⟨s0, e⟩ := r
      have start := State.sttGet_kept got
      simp only [got] at h
      split at h
      · cases h
        exact start
      · split at h
        · cases h
        · split at h
          · cases h
          · split at h
            · cases h
            · next taken =>
              have side := (State.noteRead_kept _ _ _ _).trans (State.slotTake_or_kept taken)
              split at h
              · exact (((start.trans side).trans (State.freshPages_same _ _ _).kept).trans (State.updDir_same _ _ _).kept).trans
                  (State.sttPut_kept h)
              · cases h
                exact (start.trans side).trans (State.freshPages_same _ _ _).kept

theorem State.endPageIn_same (s : State) (pid : Pid) (v : Nat) : SameMem s (s.endPageIn pid v) := by
  unfold State.endPageIn
  grind [SameMem.iff, !State.updProc_same]

theorem tryPageInComplete_kept (pid : Pid) (page : Nat) (s : State) (t : State)
    (h : tryPageInComplete pid page s = some t) : MemKept s t := by
  unfold tryPageInComplete at h
  grind [MemKept, → SameMem.memOk, → State.pageIn_kept, !State.endPageIn_same, !State.areaFault_kept,
    !State.trapParked_kept]

theorem State.checkFetch_kept (s : State) (c pa : Nat) : MemKept s (s.checkFetch c pa) := by
  unfold State.checkFetch
  grind [MemKept, → SameMem.memOk, !State.logMemory_kept, !State.updCore_same]

theorem State.keepWord_same (s : State) (c pa : Nat) (w : Word32) : SameMem s (s.keepWord c pa w) := by
  unfold State.keepWord
  grind [SameMem.iff, !State.updCore_same]

theorem State.fetchWord_kept (s : State) (va : Word) : MemKept s (s.fetchWord va).1 := by
  unfold State.fetchWord
  grind [MemKept, → SameMem.memOk, !State.noteWalk_kept, !State.cacheXlate_same, !State.checkFetch_kept,
    !State.flushFor_kept,
    !State.readRange_kept, !State.noteKey_same, !State.fillL2_same, !State.keepWord_same]

theorem State.fetch_kept (s : State) : MemKept s (s.fetch).1 := by
  unfold State.fetch
  grind [MemKept, → SameMem.memOk, !State.fetchWord_kept]

theorem State.setWords_same (s : State) (w0 w1 : Word32) : SameMem s (s.setWords w0 w1) :=
  ⟨rfl, rfl, rfl, rfl⟩

theorem State.look_kept (s : State) : MemKept s (s.look).1 := by
  unfold State.look
  grind [MemKept, → SameMem.memOk, !State.fetch_kept, !State.setWords_same]

theorem State.lookAhead_kept (s : State) : MemKept s (s.lookAhead).1 := by
  unfold State.lookAhead
  grind [MemKept, → SameMem.memOk, State.memOk, !State.look_kept]

theorem State.evictTile_kept (s : State) (p : Proc) (id : Nat) : MemKept s (s.evictTile p id) := by
  refine ((State.settlePage_kept s id).trans (MemKept.foldl _ (fun s k => ?_) _ _)).trans
    ((State.updProc_same _ _ _).trans (State.sweep_same _ _)).kept
  split
  · next h => exact State.pageToImage_kept h
  · exact State.areaFault_kept _ _ _

theorem State.writeBack_kept {s t : State} {pid : Pid} {v : Nat} {e : Word} {c : Nat}
    (h : s.writeBack pid v e c = .ok t) :
    MemKept s t := by
  unfold State.writeBack at h
  split at h
  · cases h
    exact MemKept.refl _
  · split at h
    · cases h
      exact MemKept.refl _
    · split at h
      · cases h
      · dsimp only at h
        split at h
        · cases h
        · next written =>
          exact ((((State.settlePage_kept _ _).trans (State.sealFor_kept _ _ _ _)).trans (State.storeBytes_kept _ _ _ _)).trans
            (State.dropL1_same _ _ _ _).kept).trans ((State.slotWrite_kept written).trans (State.sttPut_kept h))

theorem State.evictBacked_kept (s : State) (c : Nat) (p : Proc) (v : Nat) : MemKept s (s.evictBacked c p v) := by
  have left {u : State} {e : Word} {t : State} (h : (u.dropCopy p.pid v).sttPut p.pid v e = .ok t) :
      MemKept u (t.sttDrop p.pid v) :=
    ((State.dropCopy_same _ _ _).kept.trans (State.sttPut_kept h)).trans (State.sttDrop_same _ _ _).kept
  unfold State.evictBacked
  dsimp only
  split
  · next out =>
    obtain ⟨⟨s1, e⟩, got, out⟩ := bind_eq_ok.mp out
    dsimp only at out
    split at out
    · obtain ⟨s2, back, out⟩ := bind_eq_ok.mp out
      obtain ⟨s3, put, out⟩ := bind_eq_ok.mp out
      cases out
      exact ((State.sttGet_kept got).trans (State.writeBack_kept back)).trans (left put)
    · obtain ⟨s2, back, out⟩ := bind_eq_ok.mp out
      cases back
      obtain ⟨s3, put, out⟩ := bind_eq_ok.mp out
      cases out
      exact (State.sttGet_kept got).trans (left put)
  · exact State.areaFault_kept _ _ _
  · exact (State.updProc_same _ _ _).kept

theorem State.evict_kept (s : State) (c : Nat) (x : Victim) : MemKept s (s.evict c x) := by
  unfold State.evict
  grind [MemKept, → SameMem.memOk, !State.evictTile_kept, !State.evictBacked_kept]

theorem State.pagerFault_kept (s : State) (x : Victim) : MemKept s (s.pagerFault x) := by
  unfold State.pagerFault
  grind [MemKept, → SameMem.memOk, !State.trapParked_kept, !State.updProc_same]

theorem tryEviction_kept (core : Nat) (s : State) (t : State) (h : tryEviction core s = some t) : MemKept s t := by
  unfold tryEviction at h
  grind [MemKept, → SameMem.memOk, !State.evict_kept, !State.pagerFault_kept]

theorem State.unpostAll_same (s : State) (p : Proc) : SameMem s (s.unpostAll p) := by
  unfold State.unpostAll
  split
  · exact (State.unpost_same _ _ _).trans (State.unbind_same _ _)
  · exact State.withdraw_same _ _
  · exact SameMem.refl s

theorem tryOfflineAnswer_kept (pid : Pid) (s : State) (t : State) (h : tryOfflineAnswer pid s = some t) :
    MemKept s t := by
  unfold tryOfflineAnswer at h
  grind [MemKept, → SameMem.memOk, !State.updLatch_same, !State.opTrap_kept, !State.unpostAll_same]

theorem State.fenceCaches_same (s : State) (d : Nat) : SameMem s (s.fenceCaches d) :=
  ⟨rfl, rfl, rfl, rfl⟩

theorem State.drainToward_kept (s : State) (d : Nat) : MemKept s (s.drainToward d) :=
  MemKept.foldl _ (fun _ _ => State.drain_kept _ _) _ _

theorem State.changeHome_kept (s : State) (pid : Pid) (goal : Nat) : MemKept s (s.changeHome pid goal) := by
  unfold State.changeHome
  grind [MemKept, → SameMem.memOk, !State.dequeue_same, !State.updProc_same, !State.carryPages_kept, !State.rejoin_same]

theorem State.rehome_kept (s : State) (pid : Pid) (target : Nat) : MemKept s (s.rehome pid target) := by
  unfold State.rehome
  grind [MemKept, → SameMem.memOk, !State.updProc_same, !State.changeHome_kept]

theorem State.moveParked_kept (s : State) (c : Nat) : MemKept s (s.moveParked c) :=
  MemKept.foldl _ (fun _ _ => State.rehome_kept _ _ _) _ _

theorem State.moveRec_kept (s : State) (t : Nat) (r : Rec) : MemKept s (s.moveRec t r) := by
  unfold State.moveRec
  grind [MemKept, → SameMem.memOk, !State.updCore_same, → State.spillTo_kept]

theorem State.moveDeque_kept (s : State) (c : Nat) : MemKept s (s.moveDeque c) :=
  ((State.updCore_same _ _ _).trans (State.updCore_same _ _ _)).kept.trans
    (MemKept.foldl _ (fun _ _ => (State.moveRec_kept _ _ _).trans (State.carryPages_kept _ _ _)) _ _)

theorem State.evacuate_kept (s : State) (d : Nat) : MemKept s (s.evacuate d) :=
  (MemKept.foldl _ (fun _ _ => (State.moveDeque_kept _ _).trans (State.moveParked_kept _ _)) _ _).trans
    (State.mapProcs_same _ _).kept

theorem State.setDie_same (s : State) (d : Nat) (x : DieSt) : SameMem s (s.setDie d x) :=
  ⟨rfl, rfl, rfl, rfl⟩

theorem tryDieDownComplete_kept {die : Nat} {s t : State} (h : tryDieDownComplete die s = some t) : MemKept s t := by
  unfold tryDieDownComplete at h
  grind [MemKept, → SameMem.memOk, State.memOk, !State.evacuate_kept, !State.drainToward_kept, !State.fenceCaches_same,
    !State.dropL2_same, !State.setDie_same, !State.hostEvent_same]

theorem tryDieUpComplete_kept {die : Nat} {s t : State} (h : tryDieUpComplete die s = some t) : MemKept s t := by
  unfold tryDieUpComplete at h
  grind [MemKept, → SameMem.memOk, State.memOk, Memory.wf_zero, !State.dropL2_same, !State.touchRegions_same,
    !State.setDie_same,
    !State.touchAreas_kept, !State.hostEvent_same]

theorem State.startFirmware_same (s : State) (fw cfg : List Byte) (host : Bool) : SameMem s
    (s.startFirmware fw cfg host) :=
  ⟨rfl, rfl, rfl, rfl⟩

theorem tryBundleVerified_kept {s t : State} (h : tryBundleVerified s = some t) : MemKept s t := by
  have emptied : MemKept s { s with boot := { s.boot with checking := false, bootwin := [] } } := fun m => by
    obtain ⟨hm, hh, hp, -⟩ := (State.memOk_iff s).mp m
    exact (State.memOk_iff _).mpr ⟨hm, hh, hp, rfl⟩
  unfold tryBundleVerified at h
  rw [Option.ite_none_right_eq_some] at h
  obtain ⟨-, h⟩ := h
  dsimp only at h
  split at h
  · cases h
    split
    · exact (State.startFirmware_same _ _ _ _).kept
    · exact emptied
  · cases h
    exact emptied

theorem State.allPoints_same (s : State) (f : Core → Nat) : SameMem s (s.allPoints f) := by
  refine SameMem.foldl _ (fun s c => ?_) _ _
  split
  · exact State.changePoint_same _ _ _
  · exact SameMem.refl _

theorem tryIdleEntry_same (s : State) (t : State) (h : tryIdleEntry s = some t) : SameMem s t := by
  unfold tryIdleEntry at h
  grind [SameMem.iff, !State.allPoints_same]

theorem State.wakeUp_same (s : State) : SameMem s (s.wakeUp) := by
  unfold State.wakeUp
  grind [SameMem.iff, !State.allPoints_same]

theorem tryIdleExit_same (s : State) (t : State) (h : tryIdleExit s = some t) : SameMem s t := by
  unfold tryIdleExit at h
  grind [SameMem.iff, !State.wakeUp_same]

theorem State.refuse_same (s : State) (code : Nat) : SameMem s (s.refuse code).state :=
  ⟨rfl, rfl, rfl, rfl⟩

theorem State.newCell_same {s t : State} {part : Nat} {dh : Bool} {kind : CellKind} {h0 h1 : Holder} {bar : Option Barrier}
    {id : Nat} (h : s.newCell part dh kind h0 h1 bar = some (t, id)) : SameMem s t := by
  unfold State.newCell at h
  grind [SameMem.iff, !State.drew_same]

theorem State.newEntry_same {s t : State} {part : Nat} {dh : Bool} {cell number : Nat} {owner : Pid} {w : Word32}
    (h : s.newEntry part dh cell number owner = some (t, w)) : SameMem s t := by
  unfold State.newEntry at h
  grind [SameMem.iff, !State.drew_same]

theorem State.deviceCell_same {s t : State} {part : Nat} {kind : CellKind} {other : Holder} {number : Nat} {owner : Pid}
    {w : Word32} {id : Nat} (h : s.deviceCell part kind other number owner = some (t, w, id)) : SameMem s t := by
  unfold State.deviceCell at h
  split at h
  · cases h
  · next s1 i cell =>
    obtain ⟨⟨u, x⟩, entry, made⟩ := Option.map_eq_some_iff.mp h
    cases made
    exact (State.newCell_same cell).trans (State.newEntry_same entry)

theorem State.faultEnd_same (s : State) (part : Nat) (pid : Pid) : SameMem s (s.faultEnd part pid).1 :=
  ⟨rfl, rfl, rfl, rfl⟩

theorem State.reply_same (s : State) (out : List Word) : SameMem s (s.reply out).state :=
  ⟨rfl, rfl, rfl, rfl⟩

theorem State.placeHandle_kept (s : State) (pid : Pid) (r : EReg) (h : Word32) : MemKept s (s.placeHandle pid r h) := by
  unfold State.placeHandle
  grind [MemKept, → SameMem.memOk, !State.writeWhen_kept, !State.updRec_same]

theorem State.placeFaultEnd_kept (s : State) (part : Nat) (r : EReg) : MemKept s (s.placeFaultEnd part r).state := by
  unfold State.placeFaultEnd
  grind [MemKept, → SameMem.memOk, !State.refuse_same, !State.faultEnd_same, !State.reply_same, !State.placeHandle_kept]

theorem tryFaultEndPlacement_kept {part : Nat} {s t : State} (h : tryFaultEndPlacement part s = some t) :
    MemKept s t := by
  unfold tryFaultEndPlacement at h
  grind [MemKept, → SameMem.memOk, !State.updPart_same, !State.takeReply_same, !State.placeFaultEnd_kept]

theorem Happening.occurs_kept (e : Happening) (s : State) (t : State) (h : e.occurs s = some t) : MemKept s t := by
  unfold Happening.occurs at h
  grind [MemKept, → SameMem.memOk, → tryTileDispatch_kept, → tryEngineCompletion_kept, → tryStorePerform_kept,
    → tryAtomicAtHome_kept, → tryAtomicReply_kept, → tryAtomicStop_kept, → tryWalkComplete_kept, → tryRendezvous_kept,
    → tryClaim_kept, → tryTimerExpiry_kept, → tryDetectionLaunch_same, → tryProbe_same, → tryProbeAnswer_same,
    → tryStarvationPromotion_same, → trySlotFill_kept, → tryStealRequest_kept, → tryStealAnswer_kept,
    → tryStealRetry_same, → tryPreemption_kept, → tryBlockedPark_same, → tryImageComplete_kept,
    → tryExitCompletion_kept, → tryMoveComplete_kept, → tryAffinityMove_same, → tryPauseEnd_kept, → tryEvaluation_same,
    → tryRefillStep_same, → tryBucketEmpty_same, → tryPageInComplete_kept, → tryEviction_kept, → tryOfflineAnswer_kept,
    → tryDieDownComplete_kept, → tryDieUpComplete_kept, → tryBundleVerified_kept, → tryIdleEntry_same,
    → tryIdleExit_same, → tryFaultEndPlacement_kept]

theorem State.charged_same (s : State) : SameMem s (s.charged) := by
  unfold State.charged
  grind [SameMem.iff]

theorem State.settleRegs_kept (s : State) (l : List Nat) : MemKept s (s.settleRegs l) :=
  MemKept.foldl _ (fun _ _ => State.settlePage_kept _ _) _ _

theorem State.readBy_kept (s : State) (r : RobEntry) : MemKept s (s.readBy r) := by
  unfold State.readBy
  grind [MemKept, → SameMem.memOk, !State.settleRegs_kept]

theorem State.next_same (s : State) (n : Nat) : SameMem s (s.next n) :=
  ⟨rfl, rfl, rfl, rfl⟩

theorem State.wr_same (s : State) (r : SReg) (v : Word) : SameMem s (s.wr r v) :=
  ⟨rfl, rfl, rfl, rfl⟩

theorem State.put_same (s : State) (d : SReg) (v : Word) (n : Nat) : SameMem s (s.put d v n) :=
  ⟨rfl, rfl, rfl, rfl⟩

theorem State.noteAccess_kept (s : State) (x : Word) (ok : Bool) : MemKept s (s.noteAccess x ok) := by
  unfold State.noteAccess
  grind [MemKept, → SameMem.memOk, !State.noteWalk_kept]

theorem State.scalarXlate_same {s t : State} {x : Word} {z pa : Nat} {k : Access} (h : s.scalarXlate x z k = .ok
    (t, pa)) :
    SameMem s t := by
  obtain ⟨-, -, h⟩ := bind_eq_ok.mp h
  obtain ⟨r, -, h⟩ := bind_eq_ok.mp h
  obtain ⟨-, -, h⟩ := bind_eq_ok.mp h
  cases h
  exact State.cacheXlate_same _ _ _ _ _

theorem State.noteLine_kept (s : State) (c pa : Nat) : MemKept s (s.noteLine c pa) := by
  unfold State.noteLine
  grind [MemKept, → SameMem.memOk, !State.logMemory_kept]

theorem State.loadBytes_kept (s : State) (key : Option Nat) (pa z : Nat) : MemKept s (s.loadBytes key pa z).1 := by
  unfold State.loadBytes
  grind [MemKept, → SameMem.memOk, !State.awaitStores_kept, !State.noteLine_memOk, !State.readRange_kept,
    !State.noteReach_same,
    !State.loadL1_kept]

theorem State.queueStore_same (s : State) (va : Word) (pa : Nat) (bytes : List Byte) (tile : Bool) (op : Nat)
    (span : List (Nat × Nat)) (hint : Hint) : SameMem s (s.queueStore va pa bytes tile op span hint) :=
  ⟨rfl, rfl, rfl, rfl⟩

theorem State.spAccess_kept {s t : State} {x e : Word} {z id : Nat} {store : Bool} (h : s.spAccess x z store = .ok
    (t, e, id)) :
    MemKept s t := by
  obtain ⟨-, -, h⟩ := bind_eq_ok.mp h
  obtain ⟨-, -, h⟩ := bind_eq_ok.mp h
  obtain ⟨⟨u, w⟩, found, h⟩ := bind_eq_ok.mp h
  obtain ⟨-, -, h⟩ := bind_eq_ok.mp h
  obtain ⟨-, -, h⟩ := bind_eq_ok.mp h
  obtain ⟨-, -, h⟩ := bind_eq_ok.mp h
  split at h
  · cases h
  · cases h
    exact State.sttGet_kept found

theorem State.touchPage_same (s : State) (id : Nat) : SameMem s (s.touchPage id) :=
  ⟨rfl, rfl, rfl, rfl⟩

theorem State.jump_same (s : State) (target : Word) : SameMem s (s.jump target) :=
  ⟨rfl, rfl, rfl, rfl⟩

theorem State.branch_same (s : State) (taken : Bool) (off : BitVec 15) : SameMem s (s.branch taken off) := by
  unfold State.branch
  grind [SameMem.iff, !State.jump_same, !State.next_same]

theorem State.joinF_same (s : State) (f : Flags) : SameMem s (s.joinF f) :=
  ⟨rfl, rfl, rfl, rfl⟩

theorem State.putFloat_same (s : State) (d : SReg) (n : Nat) (x : Exact) : SameMem s (s.putFloat d n x) :=
  ⟨rfl, rfl, rfl, rfl⟩

theorem State.putTest_same (s : State) (d : SReg) (r : Bool × Flags) : SameMem s (s.putTest d r) :=
  ⟨rfl, rfl, rfl, rfl⟩

theorem State.putInt_same (s : State) (d : SReg) (lo hi : Int) (x : Exact) : SameMem s (s.putInt d lo hi x) :=
  ⟨rfl, rfl, rfl, rfl⟩

theorem State.sendAtomic_same (s : State) (kind : BitVec 2) (va : Word) (req : AtomReq) : SameMem s
    (s.sendAtomic kind va req) :=
  ⟨rfl, rfl, rfl, rfl⟩

theorem State.fenceDrain_kept (s : State) (kind : FenceKind) (eng : Bool) (sc : Scope) : MemKept s
    (s.fenceDrain kind eng sc) := by
  unfold State.fenceDrain
  grind [MemKept, → SameMem.memOk, !State.drain_kept, !State.drainMarked_kept, !State.flushOut_kept]

theorem State.newChannel_same {s t : State} {part : Nat} {o0 o1 : Pid} {h0 h1 : Word32} {id : Nat}
    (h : s.newChannel part o0 o1 = .ok (t, h0, h1, id)) : SameMem s t := by
  unfold State.newChannel at h
  split at h
  · cases h
  · next cell =>
    split at h
    · cases h
    · next entry0 =>
      split at h
      · cases h
      · next entry1 =>
        have made := ((State.newCell_same cell).trans (State.newEntry_same entry0)).trans (State.newEntry_same entry1)
        grind

theorem State.wrE_same (s : State) (r : EReg) (v : Word32) : SameMem s (s.wrE r v) :=
  ⟨rfl, rfl, rfl, rfl⟩

theorem State.release_kept (s : State) : MemKept s (s.release) := by
  unfold State.release
  grind [MemKept, → SameMem.memOk, !State.drain_kept]

theorem State.moved_same (s : State) : SameMem s (s.moved) :=
  ⟨rfl, rfl, rfl, rfl⟩

theorem State.blockOn_same (s : State) (w : Wait) : SameMem s (s.blockOn w) :=
  ⟨rfl, rfl, rfl, rfl⟩

theorem State.arriveNow_kept (s : State) (e : Entry) (c : Cell) : MemKept s (s.arriveNow e c) := by
  unfold State.arriveNow
  grind [MemKept, → SameMem.memOk, !State.phaseCheck_kept, !State.arriveAt_same, !State.flushL1_same]

theorem State.releaseAt_kept (s : State) (c : Cell) : MemKept s (s.releaseAt c) := by
  unfold State.releaseAt
  grind [MemKept, → SameMem.memOk, !State.flushOut_kept]

theorem State.postNow_kept (s : State) (e : Entry) (c : Cell) (op : Posted) : MemKept s (s.postNow e c op) := by
  unfold State.postNow
  grind [MemKept, → SameMem.memOk, !State.reached_kept, !State.settled_kept, !State.post_same, !State.releaseAt_kept]

theorem State.beginExit_same (s : State) (code : Word) : SameMem s (s.beginExit code) := by
  unfold State.beginExit
  grind [SameMem.iff]

theorem State.setRotation_same (s : State) (c : Nat) (prio : BitVec 6) (slot : Nat) : SameMem s
    (s.setRotation c prio slot) := by
  unfold State.setRotation
  grind [SameMem.iff, !State.updCore_same]

theorem State.newPid_same (s : State) : SameMem s (s.newPid).1 :=
  ⟨rfl, rfl, rfl, rfl⟩

theorem State.clearSlot_kept {s t : State} {part slot : Nat} (h : s.clearSlot part slot = .ok t) : MemKept s t :=
  State.areaZero_kept (ok_of_asArea h)

theorem State.moveEndpoints_same (s : State) (mask : BitVec 8) (child : Pid) : SameMem s
    (s.moveEndpoints mask child) := by
  unfold State.moveEndpoints
  refine SameMem.foldl _ (fun u i => ?_) _ _
  exact ⟨rfl, rfl, rfl, rfl⟩

theorem State.onProcess_kept {s t : State} {v : Word} {self : Bool} {f : State → Pid → State} (hf : ∀ s p, MemKept s
    (f s p))
    (h : s.onProcess v self f = .ok t) : MemKept s t := by
  have moved : MemKept s (s.next 4) := (State.next_same _ _).kept
  obtain ⟨-, -, h⟩ := bind_eq_ok.mp h
  dsimp only at h
  split at h
  · cases h
    split
    · exact moved.trans (hf _ _)
    · exact moved
  · cases h
    exact moved

theorem State.parkAny_kept (s : State) (pid : Pid) : MemKept s (s.parkAny pid) := by
  unfold State.parkAny
  grind [MemKept, → SameMem.memOk, !State.refill_kept, !State.unqueue_same, !State.parkProc_same, !State.segmentOff_same,
    !State.discardRec_kept]

theorem State.migrate_kept (s : State) (pid : Pid) (target : Nat) : MemKept s (s.migrate pid target) := by
  unfold State.migrate
  grind [MemKept, → SameMem.memOk, !State.migFail_same, !State.refill_kept, !State.placeRec_kept, !State.dropRec_same,
    !State.segmentOff_same, !State.discardRec_kept, !State.beginMove_same, !State.rehome_kept, !State.updProc_same]

theorem State.finishTred_kept (s : State) (pid : Pid) : MemKept s (s.finishTred pid) := by
  unfold State.finishTred
  split
  · exact MemKept.refl s
  · split
    · split
      · exact (State.drainOver_kept _ _ _).trans (MemKept.foldl _ (fun _ _ => State.tredRowAtHome_kept _ _ _ _ _) _ _)
      · exact MemKept.refl s
    · exact MemKept.refl s

theorem State.performRetired_kept (s : State) (pid : Pid) : MemKept s (s.performRetired pid) := by
  unfold State.performRetired
  grind [MemKept, → SameMem.memOk, !State.finishTred_kept, !State.drain_kept, !State.dropRequest_same]

theorem State.killProc_kept (s : State) (pid : Pid) : MemKept s (s.killProc pid) := by
  unfold State.killProc
  grind [MemKept, → SameMem.memOk, !State.rootEnded_same, !State.endProc_kept, !State.performRetired_kept]

theorem State.killAny_kept (s : State) (pid : Pid) : MemKept s (s.killAny pid) := by
  unfold State.killAny
  grind [MemKept, → SameMem.memOk, !State.discardRec_kept, !State.killProc_kept]

theorem State.newCopy_same {s t : State} {p : Proc} {v : Nat} (h : s.newCopy p v = .ok t) : SameMem s t := by
  unfold State.newCopy at h
  grind [SameMem.iff, !State.dropCopy_same, !State.freshPages_same, !State.updDir_same]

theorem State.sttwCopy_same (s : State) (p : Proc) (v op : Nat) (t : State) (h : s.sttwCopy p v op = .ok t) :
    SameMem s t := by
  unfold State.sttwCopy at h
  grind [SameMem.iff, → State.newCopy_same, !State.dropCopy_same, bind, Except.bind, pure, Except.pure]

theorem State.sttChanged_same (s : State) (pid : Pid) (v : Nat) : SameMem s (s.sttChanged pid v) := by
  unfold State.sttChanged
  grind [SameMem.iff, !State.updProc_same, !State.sttDrop_same]

theorem State.endInvalidate_same (s : State) : SameMem s (s.endInvalidate) := by
  unfold State.endInvalidate
  grind [SameMem.iff, !State.next_same]

theorem State.dropEarly_same (s : State) (part : Nat) : SameMem s (s.dropEarly part) :=
  ⟨rfl, rfl, rfl, rfl⟩

theorem State.drainScope_kept (s : State) (part : Nat) (va : Option Word) : MemKept s (s.drainScope part va) :=
  MemKept.foldl _ (fun _ _ => State.drain_kept _ _) _ _

theorem State.dropLeaves_same (s : State) (asid : BitVec 12) (va : Option Word) : SameMem s (s.dropLeaves asid va) :=
  ⟨rfl, rfl, rfl, rfl⟩

theorem State.invalidate_kept (s : State) (va : Option Word) : MemKept s (s.invalidate va) := by
  unfold State.invalidate
  grind [MemKept, → SameMem.memOk, !State.drain_kept, !State.dropEarly_same, !State.drainScope_kept,
    !State.dropLeaves_same]

theorem State.writeDqovf_same (s : State) (part : Nat) (v : Word) : SameMem s (s.writeDqovf part v) :=
  ⟨rfl, rfl, rfl, rfl⟩

theorem State.writePtroot_kept (s : State) (v : Word) : MemKept s (s.writePtroot v) := by
  unfold State.writePtroot
  grind [MemKept, → SameMem.memOk, !State.updPart_same, !State.invalidate_kept]

theorem State.writeSparea_same (s : State) (part : Nat) (v : Word) : SameMem s (s.writeSparea part v) :=
  ⟨rfl, rfl, rfl, rfl⟩

theorem State.writeCharea_same (s : State) (part : Nat) (v : Word) : SameMem s (s.writeCharea part v) :=
  ⟨rfl, rfl, rfl, rfl⟩

theorem State.writeImgarea_same (s : State) (part : Nat) (v : Word) : SameMem s (s.writeImgarea part v) :=
  ⟨rfl, rfl, rfl, rfl⟩

theorem State.bucketCheck_same (s : State) (part i : Nat) : SameMem s (s.bucketCheck part i) := by
  unfold State.bucketCheck
  grind [SameMem.iff, !State.parkPartition_same]

theorem State.writeThrreason_same (s : State) (q : Nat) (v : Word) : SameMem s (s.writeThrreason q v) := by
  unfold State.writeThrreason
  grind [SameMem.iff, !State.updQuad_same]

theorem State.setTimer_same (s : State) (part : Nat) (t : Fin 8) (due : Option Word) : SameMem s
    (s.setTimer part t due) :=
  ⟨rfl, rfl, rfl, rfl⟩

theorem State.writeTimer_same (s : State) (part : Nat) (v : Word) : SameMem s (s.writeTimer part v) :=
  ⟨rfl, rfl, rfl, rfl⟩

theorem State.writeLinkcfg_same (s : State) (part : Nat) (v : Word) : SameMem s (s.writeLinkcfg part v) := by
  unfold State.writeLinkcfg
  grind [SameMem.iff]

theorem State.updCtl_same (s : State) (pid : Pid) (f : Proc → Proc) : SameMem s (s.updCtl pid f) := by
  unfold State.updCtl
  split
  · exact State.updProc_same _ _ _
  · exact State.updRec_same _ _ _

theorem State.debugMasks_same (s : State) (pid : Pid) (wmask : BitVec 2) (bmask : BitVec 4) : SameMem s
    (s.debugMasks pid wmask bmask) := by
  unfold State.debugMasks
  grind [SameMem.iff, !State.updCtl_same]

theorem State.debugStop_same (s : State) (pid : Pid) : SameMem s (s.debugStop pid) := by
  unfold State.debugStop
  grind [SameMem.iff, !State.updCtl_same, !State.dequeue_same]

theorem State.debugGo_same (s : State) (pid : Pid) : SameMem s (s.debugGo pid) := by
  unfold State.debugGo
  grind [SameMem.iff, !State.enqueue_same, !State.updCtl_same]

theorem State.debugOne_same (s : State) (pid : Pid) : SameMem s (s.debugOne pid) := by
  unfold State.debugOne
  grind [SameMem.iff, !State.enqueue_same, !State.updCtl_same]

theorem State.debugCtl_same (s : State) (pid : Pid) (v : Word) : SameMem s (s.debugCtl pid v) := by
  unfold State.debugCtl
  grind [SameMem.iff, !State.debugMasks_same, !State.debugStop_same, !State.debugGo_same, !State.debugOne_same]

theorem State.debugWrite_same (s : State) (part : Nat) (pid : Pid) (v : Word) : SameMem s (s.debugWrite part pid v) := by
  unfold State.debugWrite
  grind [SameMem.iff, !State.debugCtl_same]

theorem State.writeDbgctl_same (s : State) (v : Word) : SameMem s (s.writeDbgctl v) := by
  unfold State.writeDbgctl
  grind [SameMem.iff, !State.debugWrite_same]

theorem State.sysWrite_kept (s : State) (n : Nat) (v : Word) : MemKept s (s.sysWrite n v) := by
  have cur (p : Proc) : MemKept s { s with cur := p } := SameMem.kept ⟨rfl, rfl, rfl, rfl⟩
  have bucket (f : Bucket → Bucket) (i : Nat) : MemKept s ((s.updBucket s.cur.part i f).bucketCheck s.cur.part i) :=
    ((State.updBucket_same _ _ _ _).trans (State.bucketCheck_same _ _ _)).kept
  unfold State.sysWrite
  refine ite_kept (cur _) (ite_kept (cur _) (ite_kept (State.writeDqovf_same _ _ _).kept (ite_kept (State.writePtroot_kept _ _)
    (ite_kept (State.writeSparea_same _ _ _).kept (ite_kept (State.writeCharea_same _ _ _).kept
    (ite_kept (State.writeImgarea_same _ _ _).kept (ite_kept (bucket _ _) (ite_kept (bucket _ _)
    (ite_kept (State.writeThrreason_same _ _ _).kept (ite_kept (State.writeTimer_same _ _ _).kept (ite_kept (cur _)
    (ite_kept (State.writeLinkcfg_same _ _ _).kept (ite_kept (State.writeDbgctl_same _ _).kept ?_)))))))))))))
  exact (State.updPart_same _ _ _).kept

theorem State.postOffers_same (s : State) (arms : List (Nat × Bool × Entry × Cell)) : SameMem s (s.postOffers arms) :=
  SameMem.foldl _ (fun _ _ => State.updEnd_same _ _ _ _) _ _

theorem State.altReached_kept (s : State) (l : List (Nat × Bool × Entry × Cell)) : MemKept s (s.altReached l) :=
  MemKept.foldl _ (fun _ _ => State.reached_kept _ _ _) _ _

theorem State.altCommit_kept (s : State) (pid : Pid) (c : Cell) (b : Bool) (arm : Nat) : MemKept s
    (s.altCommit pid c b arm) := by
  unfold State.altCommit
  grind [MemKept, → SameMem.memOk, !State.altReturn_kept]

theorem State.loadNow_kept (s : State) (base : Word) (g : Geom) (indexed : Bool) (hint : Hint) (rows : List (List
    (Word × Nat × Nat))) : MemKept s (s.loadNow base g indexed hint rows).1 := by
  unfold State.loadNow
  grind [MemKept, → SameMem.memOk, !State.readPieces_kept, !State.awaitStores_kept, !State.rowCache_same]

theorem State.askWalks_kept (s : State) (hint : Hint) (l : List (Word × Nat)) : MemKept s (s.askWalks hint l) := by
  refine MemKept.foldl _ (fun s x => ?_) _ _
  grind [MemKept, → SameMem.memOk, !State.noteReach_same, !State.prefetch_kept, !State.updQuad_same]

theorem State.spChecks_kept {s t : State} {store : Bool} {l : List Nat} {es : List Word} (h : s.spChecks store l = .ok
    (t, es)) :
    MemKept s t := by
  induction l generalizing s t es with
  | nil =>
    cases h
    exact MemKept.refl _
  | cons v rest ih =>
    unfold State.spChecks at h
    cases got : s.sttGet s.cur.pid v with
    | error x =>
      rw [got] at h
      cases h
    | ok r =>
      obtain ⟨s1, e⟩ := r
      simp only [got] at h
      by_cases absent : sttState e = 0
      · rw [if_pos absent] at h
        cases h
      · rw [if_neg absent, ite_eq_iff] at h
        rcases h with ⟨-, h⟩ | ⟨-, h⟩
        · cases h
        · obtain ⟨r, more, made⟩ := Except.map_eq_ok.mp h
          cases made
          exact (State.sttGet_kept got).trans (ih more)

theorem State.spRefs_kept (s : State) (l : List (Nat × Nat × Word)) (done : List TRef) : MemKept s
    (s.spRefs l done).1 := by
  induction l generalizing s done with
  | nil => exact MemKept.refl s
  | cons x rest ih =>
    obtain ⟨i, v, e⟩ := x
    unfold State.spRefs
    grind [MemKept, → SameMem.memOk, !State.freshPages_same, !State.touchPage_same, !State.shareRefs_kept]

theorem State.poolRef_same (s : State) (k : Nat) : SameMem s (s.poolRef k).1 := by
  unfold State.poolRef
  grind [SameMem.iff, !State.freshPages_same]

theorem State.spstPage_kept {s t : State} {i v k : Nat} {e : Word} (h : s.spstPage i v k e = .ok t) : MemKept s t := by
  unfold State.spstPage at h
  grind [MemKept, → SameMem.memOk, State.memOk, !State.dropCopy_same, !State.poolRef_same, !State.settlePage_kept,
    !State.freshPages_same, !State.touchPage_same, → State.sttPut_kept]

theorem State.spstAll_kept {s t : State} {l : List (Nat × Nat × Nat × Word)} (h : s.spstAll l = .ok t) : MemKept s t := by
  induction l generalizing s with
  | nil =>
    cases h
    exact MemKept.refl _
  | cons x rest ih =>
    obtain ⟨i, v, k, e⟩ := x
    unfold State.spstAll at h
    grind [MemKept.trans, → State.spstPage_kept]

theorem State.shareGroup_kept (s : State) (d a : TGrp) : MemKept s (s.shareGroup d a) := by
  unfold State.shareGroup
  grind [MemKept, → SameMem.memOk, !State.shareRefs_kept, !State.mapGroup_same]

theorem State.joinT_same (s : State) (f : Flags) : SameMem s (s.joinT f) :=
  ⟨rfl, rfl, rfl, rfl⟩

theorem State.putTile_same (s : State) (d : TGrp) (r : List Page × Flags) : SameMem s (s.putTile d r) := by
  unfold State.putTile
  grind [SameMem.iff, !State.next_same, !State.joinT_same, !State.writeGroup_same]

theorem State.losePage_kept (s : State) (p : Proc) (addr : Word) : MemKept s (s.losePage p addr) := by
  unfold State.losePage
  grind [MemKept, → SameMem.memOk, !State.losePad_kept, !State.poisonPage_same, !State.drew_same]

theorem tryMoveAbandon_kept (pid : Pid) (addr : Word) (s : State) (t : State)
    (h : tryMoveAbandon pid addr s = some t) : MemKept s t := by
  unfold tryMoveAbandon at h
  grind [MemKept, → SameMem.memOk, !State.losePage_kept, !State.migFail_same, !State.endMove_kept]

theorem tryPointWithdrawal_kept {core point : Nat} {s t : State} (h : tryPointWithdrawal core point s = some t) :
    MemKept s t := by
  unfold tryPointWithdrawal at h
  grind [MemKept, → SameMem.memOk, !State.updCore_same, !State.setReason_same, !State.logAll_kept,
    !State.changePoint_same]

theorem tryLaneSleep_same (lane : Nat) (s : State) (t : State) (h : tryLaneSleep lane s = some t) : SameMem s t := by
  unfold tryLaneSleep at h
  grind [SameMem.iff]

theorem tryLaneWake_same (lane : Nat) (s : State) (t : State) (h : tryLaneWake lane s = some t) : SameMem s t := by
  unfold tryLaneWake at h
  grind [SameMem.iff]

theorem tryModuleFailure_kept (module : Nat) (s : State) (t : State) (h : tryModuleFailure module s = some t) :
    MemKept s t := by
  unfold tryModuleFailure at h
  grind [MemKept, → SameMem.memOk, State.memOk, !State.logAll_kept]

theorem State.altClosed_kept (s : State) (id : Nat) : MemKept s (s.altClosed id) := by
  unfold State.altClosed
  grind [MemKept, → SameMem.memOk, !State.altReturn_kept]

theorem State.heldTaken_kept (s : State) (c : Cell) : MemKept s (s.heldTaken c) := by
  unfold State.heldTaken
  grind [MemKept, → SameMem.memOk, !State.takeHeld_kept]

theorem State.closePeer_kept (s : State) (d : Fin 4) : MemKept s (s.closePeer d) := by
  have closed : MemKept s ((s.peerCells d).foldl
      (fun s c => (((s.heldTaken c).closeEnd c.id true).altClosed c.id).closeEnd c.id false) s) :=
    MemKept.foldl _ (fun _ _ => (((State.heldTaken_kept _ _).trans (State.closeEnd_kept _ _ _)).trans
      (State.altClosed_kept _ _)).trans (State.closeEnd_kept _ _ _)) _ _
  exact closed.trans (SameMem.kept ⟨rfl, rfl, rfl, rfl⟩)

theorem State.loseStores_kept (s : State) (d : Fin 4) : MemKept s (s.loseStores d) := by
  have dropped (l : List OutStore) : MemKept s { s with outbox := l } := SameMem.kept ⟨rfl, rfl, rfl, rfl⟩
  exact (dropped _).trans (MemKept.foldl _ (fun s _ => State.logAll_kept s 4 4 d.val) _ _)

theorem tryLinkPortFailure_kept (port : Nat) (s : State) (t : State) (h : tryLinkPortFailure port s = some t) :
    MemKept s t := by
  unfold tryLinkPortFailure at h
  grind [MemKept, → SameMem.memOk, State.memOk, !State.hostEvent_same, !State.closePeer_kept, !State.loseStores_kept]

theorem State.powerless_kept (s : State) : MemKept s s.powerless := fun m => by
  obtain ⟨-, hh, hp, -⟩ := (State.memOk_iff s).mp m
  exact (State.memOk_iff _).mpr ⟨rfl, hh, hp, rfl⟩

theorem State.trigger_same (s : State) : SameMem s (s.trigger) := by
  unfold State.trigger
  grind [SameMem.iff]

theorem tryBootwinTrigger_same (s : State) (t : State) (h : tryBootwinTrigger s = some t) : SameMem s t := by
  unfold tryBootwinTrigger at h
  grind [SameMem.iff, !State.trigger_same]

theorem State.writeOut_kept (s : State) (c : Nat) : MemKept s (s.writeOut c) :=
  MemKept.foldl _ (fun _ _ => State.evict_kept _ _ _) _ _

theorem trySuspend_kept {s t : State} (h : trySuspend s = some t) : MemKept s t := by
  have written (u : State) : MemKept u ((List.range 90).foldl State.writeOut u) :=
    MemKept.foldl _ State.writeOut_kept _ _
  have parked (u : State) (l : List Pid) : SameMem u (l.foldl (fun s p => s.parkNow p false) u) :=
    SameMem.foldl _ (fun _ _ => State.parkNow_same _ _ _) _ _
  unfold trySuspend at h
  grind [MemKept, → SameMem.memOk, State.memOk, !State.wakeUp_same]

theorem tryD0Resume_same (s : State) (t : State) (h : tryD0Resume s = some t) : SameMem s t := by
  unfold tryD0Resume at h
  grind [SameMem.iff]

theorem tryCmdstatRead_same (s : State) (t : State) (h : tryCmdstatRead s = some t) : SameMem s t := by
  unfold tryCmdstatRead at h
  grind [SameMem.iff]

theorem State.onDevice_kept {s : State} {c : Cmd} {argsOk : Bool} {r : Reply} (h : MemKept s r.state) :
    MemKept s (s.onDevice c argsOk r).state := by
  unfold State.onDevice
  split
  · exact (State.refuse_same _ _).kept
  · exact h

theorem State.cmdCreate_kept (s : State) (c : Cmd) : MemKept s (s.cmdCreate c).state := by
  unfold State.cmdCreate
  grind [MemKept, → SameMem.memOk, State.memOk, !State.onDevice_kept, !State.refuse_same, !State.drew_same,
    !State.reply_same]

theorem State.onPart_kept {s : State} {c : Cmd} {argsOk : Bool} {f : Part → Reply} (h : ∀ p, MemKept s (f p).state) :
    MemKept s (s.onPart c argsOk f).state := by
  unfold State.onPart
  split
  · exact (State.refuse_same _ _).kept
  · split
    · exact (State.refuse_same _ _).kept
    · exact h _

theorem State.cmdGrant_kept (s : State) (c : Cmd) : MemKept s (s.cmdGrant c).state := by
  unfold State.cmdGrant
  grind [MemKept, → SameMem.memOk, !State.onPart_kept, !State.refuse_same, !State.reply_same, !State.updPart_same]

theorem State.destroy_kept (s : State) (p : Part) : MemKept s (s.destroy p) := by
  unfold State.destroy
  refine ((MemKept.foldl _ (fun _ _ => State.performRetired_kept _ _) _ s).trans
    (SameMem.foldl _ (fun s pid => ?_) _ _).kept).trans (SameMem.kept ⟨rfl, rfl, rfl, rfl⟩)
  grind [SameMem.iff, !State.freeSlot_same, !State.dequeue_same, !State.dropPages_same, !State.dropProc_same]

theorem State.cmdDestroy_kept (s : State) (c : Cmd) : MemKept s (s.cmdDestroy c).state := by
  unfold State.cmdDestroy
  grind [MemKept, → SameMem.memOk, !State.onPart_kept, !State.reply_same, !State.destroy_kept]

theorem State.needMaster_kept {s : State} {r : Reply} (h : MemKept s r.state) : MemKept s (s.needMaster r).state := by
  unfold State.needMaster
  split
  · exact h
  · exact (State.refuse_same _ _).kept

theorem State.hostPut_kept (s : State) (a : Word) (l : List Byte) : MemKept s (s.hostPut a l) := fun m => by
  obtain ⟨hm, hh, hp, hb⟩ := (State.memOk_iff s).mp m
  exact (State.memOk_iff _).mpr ⟨hm, Memory.wf_setBytes hh, hp, hb⟩

theorem State.sealPhys_kept (s : State) (p : Part) (pa n : Nat) : MemKept s (s.sealPhys p pa n) :=
  MemKept.foldl _ (fun _ _ => fun m => State.sealSector_memOk m) _ _

theorem State.writeReport_kept (s : State) (part : Nat) : MemKept s (s.writeReport part) := by
  have put (t : State) (pa : Nat) (l : List Byte) : MemKept t (t.rawPut pa l) := fun m => State.rawPut_memOk m
  unfold State.writeReport
  dsimp only
  split
  · exact MemKept.refl s
  · exact ((((State.drew_same _).kept.trans (State.sealFor_kept _ _ _ _)).trans (State.wholeMarks_same _ _ _).kept).trans
      ((put _ _ _).trans (put _ _ _))).trans (State.updPart_same _ _ _).kept

theorem State.copyIn_kept (s : State) (p : Part) (host : Word) (a n : Nat) : MemKept s (s.copyIn p host a n) := by
  unfold State.copyIn
  grind [MemKept, → SameMem.memOk, !State.storeBytes_kept, !State.sealPhys_kept, !State.updPart_same,
    !State.writeReport_kept]

theorem State.cmdCopy_kept (s : State) (c : Cmd) : MemKept s (s.cmdCopy c).state := by
  unfold State.cmdCopy
  grind [MemKept, → SameMem.memOk, !State.onPart_kept, !State.reply_same, !State.refuse_same, !State.needMaster_kept,
    !State.noteRead_kept, !State.hostPut_kept, !State.copyIn_kept]

theorem State.spawnEnd_same (s : State) (c : Cmd) (part : Nat) (pid : Pid) (i : Nat) : SameMem s
    (s.spawnEnd c part pid i).1 := by
  unfold State.spawnEnd
  grind [SameMem.iff, → State.deviceCell_same, State.setSlot]

theorem State.spawnEnds_same (s : State) (c : Cmd) (part : Nat) (pid : Pid) (l : List Nat) :
    SameMem s (s.spawnEnds c part pid l).1 := by
  induction l generalizing s with
  | nil => exact SameMem.refl s
  | cons i rest ih => exact (State.spawnEnd_same s c part pid i).trans (ih _)

theorem spawnReply_same (s : State) (pid : Pid) (slots : List Nat) : SameMem s (spawnReply s pid slots).state :=
  ⟨rfl, rfl, rfl, rfl⟩

theorem State.spawnRoot_kept (s : State) (c : Cmd) (p : Part) : MemKept s (s.spawnRoot c p).state := by
  obtain ⟨clearSlot, named⟩ : ∃ f, s.clearSlot p.num = f := exists_eq'
  rw [State.spawnRoot, named]
  split
  · exact (State.refuse_same _ _).kept
  · split
    · exact (State.areaFault_kept _ _ _).trans (State.refuse_same _ _).kept
    · exact (State.refuse_same _ _).kept
    · next slot _ _ s0 cleared =>
      have ends := (State.newPid_same s0).trans (State.spawnEnds_same _ c p.num s0.newPid.2 (List.range 8))
      rw [← named] at cleared
      exact ((State.clearSlot_kept cleared).trans ends.kept).trans (State.placeRec_kept _ _ _)

theorem State.spawnTimer_same (s : State) (part : Nat) (pid : Pid) (i : Fin 8) : SameMem s (s.spawnTimer part pid i).1 :=
  ⟨rfl, rfl, rfl, rfl⟩

theorem State.spawnTimers_same (s : State) (part : Nat) (pid : Pid) (l : List (Fin 8)) : SameMem s
    (s.spawnTimers part pid l).1 := by
  induction l generalizing s with
  | nil => exact SameMem.refl s
  | cons i rest ih => exact (State.spawnTimer_same s part pid i).trans (ih _)

theorem State.extendDbg_kept (s : State) (part code : Nat) (owner : BitVec 512) : MemKept s
    (s.extendDbg part code owner) := by
  unfold State.extendDbg
  grind [MemKept, → SameMem.memOk, !State.writeReport_kept, !State.updPart_same]

theorem State.authorise_kept (s : State) (part : Nat) : MemKept s (s.authorise part) := by
  have read (v : Via) (pa n : Nat) (f : Part → Part) (k : Nat) (o : BitVec 512) :
      MemKept s (((s.noteRead v pa n).updPart part f).extendDbg part k o) :=
    ((State.noteRead_kept _ _ _ _).trans (State.updPart_same _ _ _).kept).trans (State.extendDbg_kept _ _ _ _)
  unfold State.authorise
  dsimp only
  split
  · exact MemKept.refl s
  · split
    · split
      · exact read _ _ _ _ _ _
      · exact read _ _ _ _ _ _
    · exact MemKept.refl s

theorem State.supervisorMade_kept (s : State) (n : Nat) (f : Part → Part) (key : Option Nat) (base k : Nat) (o : Nat)
    (r : Rec) :
    MemKept s (((((s.updPart n f).physZero key base k).authorise n).writeReport n).placeRec o r) :=
  ((((State.updPart_same _ _ _).kept.trans (State.physZero_kept _ _ _ _)).trans (State.authorise_kept _ _)).trans
    (State.writeReport_kept _ _)).trans (State.placeRec_kept _ _ _)

theorem State.spawnSupervisor_kept (s : State) (c : Cmd) (p : Part) (base : Nat) : MemKept s
    (s.spawnSupervisor c p base).state := by
  unfold State.spawnSupervisor
  split
  next s1 pid new =>
  split
  next s2 e slots ends =>
  split
  next s3 h fault =>
  split
  next s4 hs timers =>
  have k1 := State.newPid_same s
  have k2 := State.spawnEnds_same s1 c p.num pid (List.range 7)
  have k3 := State.faultEnd_same s2 p.num pid
  have k4 := State.spawnTimers_same s3 p.num pid (List.finRange 8)
  rw [new] at k1
  rw [ends] at k2
  rw [fault] at k3
  rw [timers] at k4
  exact (((k1.trans k2).trans k3).trans k4).kept.trans (State.supervisorMade_kept s4 p.num _ p.supKey base _ _ _)

theorem State.cmdSpawn_kept (s : State) (c : Cmd) : MemKept s (s.cmdSpawn c).state := by
  unfold State.cmdSpawn
  grind [MemKept, → SameMem.memOk, !State.onPart_kept, !State.refuse_same, !State.spawnRoot_kept,
    !State.spawnSupervisor_kept]

theorem State.onSlot_kept {s : State} {c : Cmd} {f : Nat → Cell → Reply} (h : ∀ n x, MemKept s (f n x).state) :
    MemKept s (s.onSlot c f).state := by
  have refused (k : Nat) : MemKept s (s.refuse k).state := (State.refuse_same _ _).kept
  refine State.onPart_kept fun p => ?_
  grind

theorem State.cmdHsend_kept (s : State) (c : Cmd) : MemKept s (s.cmdHsend c).state := by
  unfold State.cmdHsend
  grind [MemKept, → SameMem.memOk, !State.onSlot_kept, !State.refuse_same, !State.reply_same, !State.settled_kept,
    !State.updEnd_same]

theorem State.finishRequest_kept (s : State) (pid : Pid) : MemKept s (s.finishRequest pid) := by
  have home (l : List Nat) : MemKept s (l.foldl (fun s r => (tryAtomicAtHome pid r s).getD s) s) :=
    MemKept.foldl _ (fun s r => MemKept.getD fun t h => tryAtomicAtHome_kept h) _ _
  unfold State.finishRequest
  split
  · exact MemKept.refl s
  · refine (home _).trans (MemKept.getD fun t h => ?_)
    cases reply : tryAtomicReply pid ((_ : List Nat).foldl (fun s r => (tryAtomicAtHome pid r s).getD s) s) with
    | some u => exact MemKept.trans (tryAtomicReply_kept reply) (by rw [reply] at h; cases h; exact MemKept.refl _)
    | none => exact tryAtomicStop_kept (by rw [reply] at h; exact h)

theorem settleKey_kept (fuel : Nat) (pid : Pid) (s : State) : MemKept s (settleKey fuel pid s) := by
  induction fuel generalizing pid s with
  | zero => exact MemKept.refl s
  | succ fuel ih =>
    have others (l : List Pid) : MemKept s (l.foldl (fun s q => if q = pid then s else settleKey fuel q s) s) := by
      refine MemKept.foldl _ (fun s q => ?_) _ _
      split
      · exact MemKept.refl _
      · exact ih _ _
    unfold settleKey
    split
    · split
      · next claimed => exact (State.claimCell_kept _ _ _ claimed).trans (ih _ _)
      · exact (others _).trans (MemKept.getD fun t h => State.claimCell_kept _ _ _ h)
    · exact MemKept.refl s

theorem State.stand_kept (s : State) (pid : Pid) : MemKept s (s.stand pid) := by
  have met := (State.drain_kept s pid).trans (State.finishRequest_kept _ pid)
  unfold State.stand
  refine MemKept.trans ?_ (settleKey_kept _ _ _)
  split
  · exact met.trans (MemKept.getD fun t h => tryMoveComplete_kept h)
  · exact met

theorem State.hrecvPosted_kept (s : State) (x : Cell) : MemKept s (s.hrecvPosted x).state := by
  unfold State.hrecvPosted
  grind [MemKept, → SameMem.memOk, !State.stand_kept, !State.unpost_same, !State.unbind_same, !State.complete_kept,
    !State.reply_same, !State.refuse_same, !State.altReturn_kept]

theorem State.cmdHrecv_kept (s : State) (c : Cmd) : MemKept s (s.cmdHrecv c).state := by
  unfold State.cmdHrecv
  grind [MemKept, → SameMem.memOk, !State.onSlot_kept, !State.reply_same, !State.freeCell_same, !State.updEnd_same,
    !State.refuse_same, !State.hrecvPosted_kept]

theorem State.cmdHclose_kept (s : State) (c : Cmd) : MemKept s (s.cmdHclose c).state := by
  unfold State.cmdHclose
  grind [MemKept, → SameMem.memOk, State.memOk, !State.onSlot_kept, !State.reply_same, State.setSlot,
    !State.closeEnd_kept]

theorem State.storeRef_kept (s : State) (pid : Pid) (k : Nat) : MemKept s (s.storeRef pid k) := by
  unfold State.storeRef
  grind [MemKept, → SameMem.memOk, → State.pageToImage_kept, !State.areaFault_kept, !State.updProc_same]

theorem State.storeRefs_kept (s : State) (pid : Pid) : MemKept s (s.storeRefs pid) :=
  (MemKept.foldl _ (fun _ _ => State.storeRef_kept _ _ _) _ _).trans (State.sweep_same _ _).kept

theorem State.cmdExport_kept (s : State) (c : Cmd) : MemKept s (s.cmdExport c).state := by
  unfold State.cmdExport
  grind [MemKept, → SameMem.memOk, !State.onPart_kept, !State.refuse_same, !State.needMaster_kept,
    !State.finishRequest_kept, !State.drain_kept, !State.storeRefs_kept, !State.completeImage_kept,
    → State.imageRead_kept, !State.areaFault_kept, !State.reply_same, !State.hostPut_kept]

/-- The definition is unfolded as a function and the clearing gets a name of its own,
  or the kernel evaluates the clearing. -/
theorem State.importProc_kept {s t : State} {p : Part} {slot : Nat} {l : List Byte} {pid : Pid}
    (h : s.importProc p slot l = .ok (t, pid)) : MemKept s t := by
  have joined (u : State) (q : Proc) : MemKept u { u with procs := q :: u.procs } := SameMem.kept ⟨rfl, rfl, rfl, rfl⟩
  obtain ⟨importProc, unfolded⟩ : ∃ f, f = State.importProc := exists_eq
  obtain ⟨clearSlot, named⟩ : ∃ f, s.clearSlot p.num = f := exists_eq'
  rw [← unfolded] at h
  delta State.importProc at unfolded
  rw [unfolded] at h
  beta_reduce at h
  rw [named] at h
  split at h
  · cases h
  · cases h
  · next s0 cleared =>
    rw [← named] at cleared
    split at h
    next s1 pid new =>
    have k := State.newPid_same s0
    rw [new] at k
    rw [Except.map_eq_ok] at h
    obtain ⟨u, written, made⟩ := h
    rw [← (Prod.mk.inj made).1]
    exact (((State.clearSlot_kept cleared).trans k.kept).trans (joined _ _)).trans (State.imageWrite_kept written)

theorem State.cmdImport_kept (s : State) (c : Cmd) : MemKept s (s.cmdImport c).state := by
  unfold State.cmdImport
  refine State.onPart_kept fun p => ?_
  obtain ⟨importProc, named⟩ : ∃ f, s.importProc p = f := exists_eq'
  obtain ⟨l, read⟩ : ∃ l, s.hostGet c.w1 Config.imageSlotBytes = l := exists_eq'
  rw [named, read]
  split
  · exact (State.refuse_same _ _).kept
  · refine State.needMaster_kept ?_
    dsimp only
    split
    · exact (State.refuse_same _ _).kept
    · split
      · exact (State.refuse_same _ _).kept
      · split
        · exact (State.areaFault_kept _ _ _).trans (State.refuse_same _ _).kept
        · next imported =>
          rw [← named] at imported
          exact (State.importProc_kept imported).trans (State.reply_same _ _).kept

theorem State.cmdRelease_kept (s : State) (c : Cmd) : MemKept s (s.cmdRelease c).state := by
  unfold State.cmdRelease
  grind [MemKept, → SameMem.memOk, !State.onPart_kept, !State.refuse_same, !State.reply_same, !State.enqueue_same,
    !State.updProc_same]

theorem State.startDown_kept (s : State) (d : Nat) : MemKept s (s.startDown d) :=
  ((State.setDie_same s d .goingDown).kept.trans (State.evacuate_kept _ _)).trans
    (SameMem.foldl _ (fun _ _ => State.beginMove_same _ _ _) _ _).kept

theorem State.cmdDieDown_kept (s : State) (c : Cmd) : MemKept s (s.cmdDieDown c).state := by
  unfold State.cmdDieDown
  grind [MemKept, → SameMem.memOk, !State.onDevice_kept, !State.refuse_same, !State.reply_same, !State.hostEvent_same,
    !State.startDown_kept]

theorem State.cmdDieUp_kept (s : State) (c : Cmd) : MemKept s (s.cmdDieUp c).state := by
  unfold State.cmdDieUp
  grind [MemKept, → SameMem.memOk, !State.onDevice_kept, !State.refuse_same, !State.reply_same, !State.hostEvent_same,
    !State.setDie_same]

theorem State.cmdEvent_kept (s : State) (c : Cmd) : MemKept s (s.cmdEvent c).state := by
  unfold State.cmdEvent
  grind [MemKept, → SameMem.memOk, State.memOk, !State.onDevice_kept, !State.needMaster_kept, !State.refuse_same,
    !State.reply_same, !State.hostPut_kept]

theorem State.cmdFaultEnd_kept (s : State) (c : Cmd) : MemKept s (s.cmdFaultEnd c).state := by
  unfold State.cmdFaultEnd
  grind [MemKept, → SameMem.memOk, !State.onPart_kept, !State.refuse_same, !State.placeFaultEnd_kept, !State.updPart_same]

theorem State.runCommand_kept (s : State) (c : Cmd) : MemKept s (s.runCommand c).state := by
  unfold State.runCommand
  grind [MemKept, → SameMem.memOk, !State.cmdCreate_kept, !State.cmdGrant_kept, !State.cmdDestroy_kept,
    !State.cmdCopy_kept, !State.cmdSpawn_kept, !State.cmdHsend_kept, !State.cmdHrecv_kept, !State.cmdHclose_kept,
    !State.cmdExport_kept, !State.cmdImport_kept, !State.cmdRelease_kept, !State.cmdDieDown_kept, !State.cmdDieUp_kept,
    !State.cmdEvent_kept, !State.cmdFaultEnd_kept, !State.refuse_same]

theorem State.doorbell_kept (s : State) : MemKept s s.doorbell := by
  unfold State.doorbell
  grind [MemKept, → SameMem.memOk, State.memOk, !State.takeReply_same, !State.wakeUp_same, !State.runCommand_kept]

theorem State.setCmd_same (s : State) (w : Vector Word 8) : SameMem s (s.setCmd w) :=
  ⟨rfl, rfl, rfl, rfl⟩

theorem State.tryCommand_kept (s : State) (c : Cmd) (op : Nat) (t : State) (h : s.tryCommand c op = some t) :
    MemKept s t := by
  unfold State.tryCommand at h
  grind [MemKept, → SameMem.memOk, !State.doorbell_kept, !State.setCmd_same]

theorem State.writeDbgwin_same (s : State) (off : Nat) (v : Word) : SameMem s (s.writeDbgwin off v) := by
  unfold State.writeDbgwin
  grind [SameMem.iff, !State.debugWrite_same, !State.updPart_same]

theorem State.writeBootwin_kept (s : State) (off : Nat) (v : Word) : MemKept s (s.writeBootwin off v) := by
  unfold State.writeBootwin
  grind [MemKept, → SameMem.memOk, State.memOk, !State.trigger_same, Memory.wf_setBytes]

theorem State.writeBar_kept (s : State) (off : Nat) (v : Word) : MemKept s (s.writeBar off v) := by
  unfold State.writeBar
  grind [MemKept, → SameMem.memOk, !State.setCmd_same, !State.doorbell_kept, !State.writeDbgwin_same,
    !State.writeBootwin_kept]

theorem tryBarWrite_kept (off : Nat) (v : Word) (s : State) (t : State) (h : tryBarWrite off v s = some t) :
    MemKept s t := by
  unfold tryBarWrite at h
  grind [MemKept, → SameMem.memOk, !State.writeBar_kept]

theorem tryInstructionFetchFault_same {cause : Cause} {addr : Word} {w0 : Word32} {s t : State}
    (h : tryInstructionFetchFault cause addr w0 s = some t) : SameMem s t := by
  unfold tryInstructionFetchFault at h
  split at h
  all_goals grind [SameMem.iff, !State.takeTrap_same]

theorem tryLinkUp_same {dev : Fin 4} {s t : State} (h : tryLinkUp dev s = some t) : SameMem s t := by
  have up (l : LinkSt) : SameMem s { s with link := l } := ⟨rfl, rfl, rfl, rfl⟩
  unfold tryLinkUp at h
  rw [Option.ite_none_right_eq_some] at h
  rw [← Option.some.inj h.2]
  exact (up _).trans (State.hostEvent_same _ _ _)

theorem State.peerAmo_kept (s : State) (pa : Nat) (op : AmoOp) (narrow : Bool) (x cmp : Word) : MemKept s
    (s.peerAmo pa op narrow x cmp) := by
  unfold State.peerAmo
  grind [MemKept, → SameMem.memOk, !State.noteRead_kept, !State.storeBytes_kept, !State.sealFor_kept]

theorem tryPeerMemoryAccess_kept (x : PeerAccess) (s : State) (t : State) (h : tryPeerMemoryAccess x s = some t) :
    MemKept s t := by
  unfold tryPeerMemoryAccess at h
  grind [MemKept, → SameMem.memOk, !State.noteRead_kept, !State.storeBytes_kept, !State.sealFor_kept, !State.peerAmo_kept]

theorem State.setTag_same (s : State) (d : Fin 4) (t : BitVec 6) (x : Nat × Bool) : SameMem s (s.setTag d t x) :=
  ⟨rfl, rfl, rfl, rfl⟩

theorem tryPeerChannelMessage_kept {m : PeerMsg} {s t : State} (h : tryPeerChannelMessage m s = some t) :
    MemKept s t := by
  unfold tryPeerChannelMessage at h
  cases m with
  | pair d t => grind [MemKept, → SameMem.memOk, !State.setTag_same]
  | post d t op => grind [MemKept, → SameMem.memOk, !State.updEnd_same, !State.settled_kept]
  | close d t => grind [!State.closeEnd_kept]

theorem tryDoorbellWhileBusy_kept (s : State) (t : State) (h : tryDoorbellWhileBusy s = some t) : MemKept s t := by
  unfold tryDoorbellWhileBusy at h
  grind [MemKept, → SameMem.memOk, !State.doorbell_kept]

theorem State.enterRob_same (s : State) (i : Instr) : SameMem s (s.enterRob i) :=
  ⟨rfl, rfl, rfl, rfl⟩

theorem State.noteChoice_same (s : State) (c slot : Nat) (prio : BitVec 6) : SameMem s (s.noteChoice c slot prio) := by
  unfold State.noteChoice
  grind [SameMem.iff, !State.updCore_same]

theorem State.selectOn_same (s : State) (c slot : Nat) (p : Proc) : SameMem s (s.selectOn c slot p) :=
  ((State.noteChoice_same s c slot p.prio).trans (State.switchTo_same _ p.pid)).trans ⟨rfl, rfl, rfl, rfl⟩

theorem State.noteWaiting_same (s : State) (l : List Action) (a : Action) : SameMem s (s.noteWaiting l a) :=
  ⟨rfl, rfl, rfl, rfl⟩

theorem State.someArrive_kept (s : State) : MemKept s s.someArrive := by
  have arrived (l : List OutStore) : MemKept s (l.foldl State.arrive s) :=
    MemKept.foldl _ (fun _ _ => fun m => State.arrive_memOk m) _ _
  unfold State.someArrive
  grind [MemKept, State.memOk]

theorem State.pass_kept (s : State) : MemKept s s.pass := by
  have passed (c : Word) (d : Nat) (p : List Part) (m : Mesh) (n : Nat) (i : Word) :
      MemKept s { s with cycle := c, draws := d, parts := p, mesh := m, still := n, idleAt := i } :=
    SameMem.kept ⟨rfl, rfl, rfl, rfl⟩
  unfold State.pass
  exact ((passed _ _ _ _ _ _).trans (State.someArrive_kept _)).trans
    ((State.drew_same _).trans ((State.fail_same _ _).trans (State.drew_same _))).kept

theorem State.advance_kept (s : State) : MemKept s (s.advance) := by
  unfold State.advance
  grind [MemKept, → SameMem.memOk, !State.charged_same, !State.pass_kept]

end Sys2Proof.Machine
end

section
/-! Every instruction and event answers a next state and keeps the canonical form of the memories. -/

namespace Sys2Proof.Machine
open Sys2Proof

/-- An outcome that goes on, its memories canonical where they were. -/
def KeepsOn (s : State) (o : Host.Outcome State Fault Refusal) : Prop := ∃ t, o = .next t ∧ MemKept s t

theorem KeepsOn.next {s t : State} (h : MemKept s t) : KeepsOn s (.next t) := ⟨t, rfl, h⟩

theorem KeepsOn.finish {s u : State} {r : Except Halt State} (h : MemKept s u) (k : ∀ t, r = .ok t → MemKept u t) :
    KeepsOn s (u.finish r) := by
  cases r with
  | ok t => exact ⟨t, rfl, h.trans (k t rfl)⟩
  | error x => exact ⟨_, rfl, h.trans (State.halt_kept u x)⟩

theorem KeepsOn.occur {s : State} {o : Option State} (k : ∀ t, o = some t → MemKept s t) : KeepsOn s (s.occur o) := by
  cases o with
  | none => exact ⟨s, rfl, MemKept.refl s⟩
  | some t => exact ⟨t, rfl, k t rfl⟩

/-- What a check or an operation answers, where it answers a state, keeps the memories. -/
def KeptBy (s : State) (r : Except Halt State) : Prop := ∀ t, r = .ok t → MemKept s t

theorem KeptBy.bind {α : Type} {s : State} {x : Except Halt α} {f : α → Except Halt State}
    (h : ∀ a, x = .ok a → KeptBy s (f a)) : KeptBy s (x >>= f) := fun t ht => by
  obtain ⟨a, ha, rest⟩ := bind_eq_ok.mp ht
  exact h a ha t rest

/-- A check that gives nothing but its trap. -/
theorem KeptBy.check {α : Type} {s : State} {x : Except Halt α} {f : α → Except Halt State}
    (h : ∀ a, KeptBy s (f a)) : KeptBy s (x >>= f) := KeptBy.bind fun a _ => h a

theorem KeptBy.pure {s t : State} (h : MemKept s t) : KeptBy s (pure t) := fun _ ht => Except.ok.inj ht ▸ h

theorem KeptBy.error {s : State} (x : Halt) : KeptBy s (.error x) := fun _ ht => nomatch ht

theorem KeptBy.ite {s : State} {c : Prop} [Decidable c] {x y : Except Halt State} (hx : KeptBy s x) (hy : KeptBy s y) :
    KeptBy s (if c then x else y) := by
  split
  · exact hx
  · exact hy

theorem KeptBy.trans {s t : State} {r : Except Halt State} (h : MemKept s t) (k : KeptBy t r) : KeptBy s r :=
  fun u hu => h.trans (k u hu)

theorem KeepsOn.ofKept {s u : State} {r : Except Halt State} (h : MemKept s u) (k : KeptBy u r) : KeepsOn s
    (u.finish r) :=
  KeepsOn.finish h k

theorem State.setReg_kept (s : State) (d : SReg) (v : Word) (n : Nat) : MemKept s ((s.wr d v).next n) :=
  (State.put_same s d v n).kept

theorem State.postAt_keepsOn (s : State) (x : EReg) (kinds : List Nat) (op : Posted) : KeepsOn s
    (s.postAt x kinds op) := by
  refine KeepsOn.finish (State.release_kept s) ?_
  refine KeptBy.check fun (e, c) => KeptBy.check fun _ => KeptBy.pure ?_
  exact State.postNow_kept _ _ _ _

theorem execJalr_keepsOn (d a : SReg) (imm : BitVec 15) (s : State) : KeepsOn s (execJalr d a imm s) := by
  refine KeepsOn.finish (MemKept.refl s) ?_
  exact KeptBy.check fun _ => KeptBy.pure (SameMem.kept ((State.wr_same _ _ _).trans (State.jump_same _ _)))

theorem State.setCur_same (s : State) (p : Proc) : SameMem s { s with cur := p } := ⟨rfl, rfl, rfl, rfl⟩

/-! ### Channel forms -/

theorem execChnew_keepsOn (d a : EReg) (s : State) : KeepsOn s (execChnew d a s) := by
  refine KeepsOn.finish (MemKept.refl s) ?_
  refine KeptBy.check fun _ => KeptBy.check fun _ => KeptBy.bind fun (s1, h0, h1, id) made => KeptBy.pure ?_
  have placed := ((State.wrE_same s1 d h0).trans (State.wrE_same (s1.wrE d h0) a h1)).trans (State.next_same _ 4)
  exact ((State.newChannel_same made).trans placed).kept.trans (State.reachedNew_kept _ _ _ _)

theorem execChclose_keepsOn (a : EReg) (s : State) : KeepsOn s (execChclose a s) := by
  refine KeepsOn.finish (State.release_kept s) ?_
  refine KeptBy.check fun (e, c) => KeptBy.check fun _ => KeptBy.pure ?_
  have closed := (State.wrE_same s.release a 0).kept.trans (State.closeEntry_kept _ e)
  exact (closed.trans (State.next_same _ 4).kept).trans (State.reached_kept _ _ _)

theorem execEmov_keepsOn (d a : EReg) (s : State) : KeepsOn s (execEmov d a s) := by
  refine KeepsOn.finish (MemKept.refl s) ?_
  refine KeptBy.check fun _ => KeptBy.check fun _ => KeptBy.pure ?_
  have placed := (State.wrE_same s d (s.rdE a)).trans (State.wrE_same (s.wrE d (s.rdE a)) a 0)
  exact ((placed.trans (State.next_same _ 4)).trans (State.moved_same _)).kept

theorem execEinfo_keepsOn (d : SReg) (a : EReg) (s : State) : KeepsOn s (execEinfo d a s) := by
  unfold execEinfo
  split
  · exact KeepsOn.next (State.setReg_kept _ _ _ _)
  · split
    · exact KeepsOn.next (State.setReg_kept _ _ _ _)
    · refine KeepsOn.finish (MemKept.refl s) ?_
      exact KeptBy.check fun _ => KeptBy.pure ((State.setReg_kept _ _ _ _).trans (State.reached_kept _ _ _))

theorem execBrnew_keepsOn (d : EReg) (a : SReg) (s : State) : KeepsOn s (execBrnew d a s) := by
  refine KeepsOn.finish (MemKept.refl s) ?_
  refine KeptBy.check fun _ => KeptBy.check fun _ => ?_
  split
  · exact KeptBy.error _
  · next s1 id made =>
    split
    · next s2 h c entered _ =>
      refine KeptBy.check fun _ => KeptBy.check fun _ => KeptBy.pure ?_
      have placed := (State.wrE_same s2 d h).trans (State.next_same _ 4)
      exact (((State.newCell_same made).trans (State.newEntry_same entered)).trans placed).kept.trans
        (State.reachedNew_kept _ _ _ _)
    · exact KeptBy.error _

theorem execBrep_keepsOn (d a : EReg) (s : State) : KeepsOn s (execBrep d a s) := by
  refine KeepsOn.finish (MemKept.refl s) ?_
  refine KeptBy.check fun (e, c) => KeptBy.check fun _ => ?_
  split
  · exact KeptBy.error _
  · split
    · exact KeptBy.error _
    · split
      · exact KeptBy.error _
      · next s1 h entered =>
        refine KeptBy.check fun _ => KeptBy.check fun _ => KeptBy.pure ?_
        have placed (f : Barrier → Barrier) : SameMem s1 (((s1.updBar c.id f).wrE d h).next 4) :=
          ((State.updBar_same _ _ _).trans (State.wrE_same _ _ _)).trans (State.next_same _ _)
        exact (((State.newEntry_same entered).trans (placed _)).kept.trans (State.reached_kept _ _ _)).trans
          (State.reachedNew_kept _ _ _ _)

theorem execArrive_keepsOn (a : EReg) (s : State) : KeepsOn s (execArrive a s) := by
  refine KeepsOn.finish (State.release_kept s) ?_
  refine KeptBy.check fun (e, c) => KeptBy.check fun _ => KeptBy.pure (MemKept.trans ?_ (State.reached_kept _ _ _))
  exact ite_kept (State.blockOn_same _ _).kept ((State.arriveNow_kept _ _ _).trans (State.next_same _ _).kept)

theorem execAwait_keepsOn (a : EReg) (s : State) : KeepsOn s (execAwait a s) := by
  refine KeepsOn.finish (State.release_kept s) ?_
  refine KeptBy.check fun (e, c) => KeptBy.check fun _ => KeptBy.pure (MemKept.trans ?_ (State.reached_kept _ _ _))
  exact ite_kept (State.blockOn_same _ _).kept (State.next_same _ _).kept

theorem execBsync_keepsOn (a : EReg) (s : State) : KeepsOn s (execBsync a s) := by
  refine KeepsOn.finish (State.release_kept s) ?_
  refine KeptBy.check fun (e, c) => KeptBy.check fun _ => KeptBy.pure (MemKept.trans ?_ (State.reached_kept _ _ _))
  exact ite_kept (State.blockOn_same _ _).kept ((State.blockOn_same _ _).kept.trans (State.arriveNow_kept _ _ _))

theorem execSende_keepsOn (a b : EReg) (s : State) : KeepsOn s (execSende a b s) := by
  refine KeepsOn.finish (State.release_kept s) ?_
  exact KeptBy.check fun (_, _) => KeptBy.check fun _ => KeptBy.check fun _ => KeptBy.pure (State.postNow_kept _ _ _ _)

theorem execRecve_keepsOn (d a : EReg) (s : State) : KeepsOn s (execRecve d a s) := by
  refine KeepsOn.finish (State.release_kept s) ?_
  exact KeptBy.check fun (_, _) => KeptBy.check fun _ => KeptBy.check fun _ => KeptBy.pure (State.postNow_kept _ _ _ _)

theorem State.exchangeAt_keepsOn (s : State) (x : EReg) (a : TGrp) (op : Src → Posted) : KeepsOn s
    (s.exchangeAt x a op) := by
  refine KeepsOn.finish (State.release_kept s) ?_
  exact KeptBy.check fun (_, _) => KeptBy.check fun _ => KeptBy.check fun _ => KeptBy.pure (State.postNow_kept _ _ _ _)

theorem State.releaseEach_kept (s : State) (l : List (Nat × Bool × Entry × Cell)) :
    MemKept s (l.foldl (fun s x => s.releaseAt x.2.2.2) s) :=
  MemKept.foldl _ (fun _ _ => State.releaseAt_kept _ _) _ _

theorem execAlt_keepsOn (d a : SReg) (b : EReg) (arms dirs prio : BitVec 8) (poll : Bool) (s : State) :
    KeepsOn s (execAlt d a b arms dirs prio poll s) := by
  unfold execAlt
  extract_lets posted s1
  split
  · exact KeepsOn.next (State.setReg_kept _ _ _ _)
  · refine KeepsOn.finish (State.release_kept s) ?_
    refine KeptBy.check fun l => KeptBy.check fun _ => ?_
    have released := State.releaseEach_kept s.release l
    have offered (t : State) (w : Wait) : MemKept t ((t.postOffers l).blockOn w) :=
      ((State.postOffers_same _ _).trans (State.blockOn_same _ _)).kept
    dsimp only
    split
    · refine KeptBy.pure (MemKept.trans ?_ (State.altReached_kept _ _))
      exact ite_kept (released.trans (State.setReg_kept _ _ _ _)) (released.trans (offered _ _))
    · split
      · exact KeptBy.pure released
      · refine KeptBy.pure (MemKept.trans ?_ (State.altReached_kept _ _))
        exact (released.trans (offered _ _)).trans (State.altCommit_kept _ _ _ _ _)

/-! ### Memory forms -/

theorem State.finishLoad_keepsOn (s u : State) (x : Word) (d : SReg) (sz : Size) (r : State × Option Nat)
    (h : MemKept u r.1) :
    KeepsOn u (s.finishLoad x d sz r) := by
  match r with
  | (t, none) => exact KeepsOn.next (h.trans (State.takeTrap_same _ _).kept)
  | (t, some v) => exact KeepsOn.finish h (KeptBy.check fun _ => KeptBy.pure (State.put_same _ _ _ _).kept)

theorem execLd_keepsOn (d a : SReg) (sz : Size) (off : BitVec 12) (s : State) : KeepsOn s (execLd d a sz off s) := by
  unfold execLd
  extract_lets x z s0
  have noted : MemKept s s0 := State.noteAccess_kept _ _ _
  split
  · exact KeepsOn.next (noted.trans (State.halt_kept _ _))
  · next s1 pa at_ =>
    have found := noted.trans (State.scalarXlate_same at_).kept
    extract_lets key
    split
    · next r _ =>
      have counted := found.trans (State.setCur_same s1 { s1.cur with region := some (r.note x z true) }).kept
      refine State.finishLoad_keepsOn _ _ _ _ _ _ ?_
      split
      · exact counted
      · exact counted.trans (State.loadBytes_kept _ _ _ _)
    · exact State.finishLoad_keepsOn _ _ _ _ _ _ (found.trans (State.loadBytes_kept _ _ _ _))

theorem execSt_keepsOn (d a : SReg) (sz : Size) (off : BitVec 12) (s : State) : KeepsOn s (execSt d a sz off s) := by
  refine KeepsOn.finish (State.noteAccess_kept _ _ _) ?_
  refine KeptBy.bind fun (s1, pa) found => KeptBy.trans (State.scalarXlate_same found).kept (KeptBy.check fun _ => ?_)
  dsimp only
  split
  · exact KeptBy.pure ((State.setCur_same _ _).trans (State.next_same _ _)).kept
  · exact KeptBy.pure ((State.queueStore_same _ _ _ _ _ _ _ _).trans (State.next_same _ _)).kept

theorem State.onPad_keepsOn (s : State) (x : Word) (z : Nat) (store : Bool) (f : State → Word → Nat → Except Halt State)
    (hf : ∀ t e id, KeptBy t (f t e id)) : KeepsOn s (s.onPad x z store f) := by
  unfold State.onPad
  split
  · exact KeepsOn.next (State.halt_kept _ _)
  · next s1 e id found =>
    exact KeepsOn.finish ((State.spAccess_kept found).trans (State.settlePage_kept _ _)) (KeptBy.check fun _ => hf _ _ _)

theorem execPld_keepsOn (d a : SReg) (sz : Size) (off : BitVec 12) (s : State) : KeepsOn s (execPld d a sz off s) := by
  unfold execPld
  exact State.onPad_keepsOn _ _ _ _ _ fun _ _ _ => KeptBy.pure ((State.touchPage_same _ _).trans (State.put_same _ _ _ _)).kept

theorem State.freshPage_kept {s t : State} {p : Proc} {l : List Page} {r : List TRef} (h : s.freshPages p l = (t, r)) :
    MemKept s t := by
  have k := State.freshPages_same s p l
  rw [h] at k
  exact k.kept

theorem execPst_keepsOn (d a : SReg) (sz : Size) (off : BitVec 12) (s : State) : KeepsOn s (execPst d a sz off s) := by
  unfold execPst
  refine State.onPad_keepsOn _ _ _ _ _ fun s1 e id => ?_
  extract_lets pg _ done mark
  have ended (t : State) : KeptBy t (done t) := KeptBy.pure (State.next_same _ _).kept
  have marked (t : State) : KeptBy t (mark t) :=
    KeptBy.ite (KeptBy.bind fun _ same => Except.ok.inj same ▸ ended t)
      (KeptBy.bind fun u put => KeptBy.trans (State.sttPut_kept put) (ended u))
  have after (t : State) (h : MemKept s1 t) : KeptBy s1 (Pure.pure t >>= mark) :=
    KeptBy.bind fun u same => KeptBy.trans h (Except.ok.inj same ▸ marked t)
  refine KeptBy.ite (KeptBy.ite ?_ (KeptBy.bind fun _ h => nomatch h)) (after _ (State.setPage_same _ _ _).kept)
  split
  · next fresh => exact after _ ((State.freshPage_kept fresh).trans (State.setCur_same _ _).kept)
  · next fresh => exact after _ (State.freshPage_kept fresh)

theorem State.amo_keepsOn (s : State) (op : AmoOp) (d a b : SReg) (narrow : Bool) (sc : Scope) :
    KeepsOn s (s.amo op d a b narrow sc) := by
  refine KeepsOn.finish (State.noteAccess_kept _ _ _) ?_
  refine KeptBy.check fun _ => KeptBy.check fun r => KeptBy.check fun _ => KeptBy.check fun _ => KeptBy.check fun _ => ?_
  refine KeptBy.ite (KeptBy.pure (MemKept.refl _)) (KeptBy.pure ?_)
  exact ((((State.cacheXlate_same _ _ _ _ _).trans (State.sendAtomic_same _ _ _ _)).trans (State.noteReach_same _ _)).trans
    (State.next_same _ _)).kept

theorem State.openRegion_keepsOn (s : State) (a : SReg) (gate : Option (Nat × Word)) : KeepsOn s
    (s.openRegion a gate) := by
  unfold State.openRegion
  extract_lets l s0
  have noted : MemKept s s0 := State.noteAccess_kept _ _ _
  split
  · exact KeepsOn.next (noted.trans (State.halt_kept _ _))
  · next s1 pa at_ =>
    have found := noted.trans (State.scalarXlate_same at_).kept
    split
    · exact KeepsOn.next (found.trans (State.takeTrap_same _ _).kept)
    · extract_lets key s2
      have read : MemKept s s2 := ((((found.trans (State.awaitStores_kept _ _)).trans (State.noteRead_kept _ _ _ _)).trans
        (State.dropL1_same _ _ _ _).kept).trans (State.noteReach_same _ _).kept)
      split
      · exact KeepsOn.next (read.trans (State.takeTrap_same _ _).kept)
      · split
        · exact KeepsOn.next (read.trans (State.halt_kept _ _))
        · exact KeepsOn.next ((read.trans (State.setCur_same _ _).kept).trans (State.next_same _ _).kept)

theorem execAle_keepsOn (d : SReg) (s : State) : KeepsOn s (execAle d s) := by
  unfold execAle
  split
  · exact KeepsOn.next (State.takeTrap_same _ _).kept
  · refine KeepsOn.finish (State.noteAccess_kept _ _ _) ?_
    refine KeptBy.check fun _ => KeptBy.check fun x => KeptBy.check fun _ => KeptBy.check fun _ => ?_
    split
    · exact KeptBy.pure (MemKept.refl _)
    · exact KeptBy.pure ((((State.setCur_same _ _).trans (State.noteReach_same _ _)).trans (State.sendAtomic_same _ _ _ _)).trans
        (State.next_same _ _)).kept

theorem execFence_keepsOn (eng : Bool) (kind : FenceKind) (sc : Scope) (s : State) : KeepsOn s
    (execFence eng kind sc s) := by
  unfold execFence
  split
  · exact KeepsOn.next (MemKept.refl s)
  · exact KeepsOn.next (((State.fenceDrain_kept _ _ _ _).trans (State.flushL1_same _ _).kept).trans (State.next_same _ _).kept)

/-! ### Tile memory forms -/

theorem State.tileLoad_keepsOn (s : State) (d : TGrp) (a : SReg) (b : GReg) (index : Option TReg) (hint : Hint) :
    KeepsOn s (s.tileLoad d a b index hint) := by
  refine KeepsOn.finish (State.rowWalks_kept _ _ _ _ _) ?_
  refine KeptBy.check fun _ => ?_
  extract_lets load
  have loaded (old : List Page) : KeptBy (s.rowWalks (s.rd a) (s.geom b) (TGrp.n d) index) (load old) := by
    refine KeptBy.check fun _ => KeptBy.check fun rows => KeptBy.pure ?_
    exact ((State.loadNow_kept _ _ _ _ _ _).trans (State.writeGroup_same _ _ _).kept).trans (State.next_same _ _).kept
  exact KeptBy.ite (KeptBy.check loaded) (KeptBy.check loaded)

theorem State.queueEach_same (s : State) (l : List (Word × Nat × List Byte)) (op : Nat) (span : List (Nat × Nat))
    (hint : Hint) :
    SameMem s (l.foldl (fun t x => t.queueStore x.1 x.2.1 x.2.2 true op span hint) s) :=
  SameMem.foldl _ (fun _ _ => State.queueStore_same _ _ _ _ _ _ _ _) _ _

theorem State.tileStore_keepsOn (s : State) (src : TGrp) (a : SReg) (b : GReg) (index : Option TReg) (hint : Hint) :
    KeepsOn s (s.tileStore src a b index hint) := by
  refine KeepsOn.finish (State.rowWalks_kept _ _ _ _ _) ?_
  refine KeptBy.check fun _ => KeptBy.check fun _ => KeptBy.check fun _ => KeptBy.check fun rows => KeptBy.pure ?_
  exact (((State.rowCache_same _ _ _).trans (State.queueEach_same _ _ _ _ _)).trans (State.next_same _ _)).kept

theorem execTpf_keepsOn (a : SReg) (b : GReg) (h : Hint) (s : State) : KeepsOn s (execTpf a b h s) := by
  refine KeepsOn.finish (MemKept.refl s) ?_
  refine KeptBy.check fun _ => ?_
  dsimp only
  split
  · exact KeptBy.pure ((State.askWalks_kept _ _ _).trans (State.next_same _ _).kept)
  · exact KeptBy.pure (State.next_same _ _).kept

theorem State.reachEach_same (s : State) (l : List (Word × Nat × Nat)) : SameMem s (l.foldl
    (fun s x => s.noteReach x.2.1) s) :=
  SameMem.foldl _ (fun _ _ => State.noteReach_same _ _) _ _

theorem execTred_keepsOn (a : SReg) (b : GReg) (c : TGrp) (ti : Ty) (h : Hint) (s : State) : KeepsOn s
    (execTred a b c ti h s) := by
  refine KeepsOn.finish (State.rowWalks_kept _ _ _ _ _) ?_
  refine KeptBy.check fun _ => KeptBy.check fun _ => KeptBy.check fun rows => ?_
  split
  · exact KeptBy.pure (MemKept.refl _)
  · exact KeptBy.pure ((((State.rowCache_same _ _ _).trans (State.reachEach_same _ _)).trans (State.sendAtomic_same _ _ _ _)).trans
      (State.next_same _ _)).kept

theorem execSpld_keepsOn (d : TGrp) (a : SReg) (s : State) : KeepsOn s (execSpld d a s) := by
  refine KeepsOn.finish (MemKept.refl s) ?_
  refine KeptBy.check fun _ => KeptBy.bind fun (s1, es) checked => ?_
  dsimp only
  split
  · exact KeptBy.error _
  · exact KeptBy.pure ((((State.spChecks_kept checked).trans (State.spRefs_kept _ _ _)).trans
      (State.mapGroup_same _ _ _ _).kept).trans (State.next_same _ _).kept)

theorem execSpst_keepsOn (a : SReg) (c : TGrp) (s : State) : KeepsOn s (execSpst a c s) := by
  refine KeepsOn.finish (MemKept.refl s) ?_
  refine KeptBy.check fun _ => KeptBy.bind fun (s1, es) checked => KeptBy.bind fun s2 stored => KeptBy.pure ?_
  exact ((State.spChecks_kept checked).trans (State.spstAll_kept stored)).trans (State.next_same _ _).kept

/-! ### Tile forms -/

theorem execTget_keepsOn (d : SReg) (a : TGrp) (b c : SReg) (ti : Ty) (s : State) : KeepsOn s
    (execTget d a b c ti s) := by
  refine KeepsOn.finish (MemKept.refl s) ?_
  exact KeptBy.check fun _ => KeptBy.check fun _ => KeptBy.pure (State.put_same _ _ _ _).kept

theorem execTins_keepsOn (d a : TGrp) (b c : SReg) (ti : Ty) (s : State) : KeepsOn s (execTins d a b c ti s) := by
  refine KeepsOn.finish (MemKept.refl s) ?_
  refine KeptBy.check fun _ => KeptBy.check fun _ => KeptBy.pure ?_
  exact (((State.shareRefs_kept _ _ _).trans (State.freshPages_same _ _ _).kept).trans (State.mapGroup_same _ _ _ _).kept).trans
    (State.next_same _ _).kept

theorem State.writeTile_keepsOn (s : State) (d : TGrp) (l : List Page) : KeepsOn s (.next ((s.writeGroup d l).next 8)) :=
  KeepsOn.next ((State.writeGroup_same _ _ _).trans (State.next_same _ _)).kept

theorem State.matrix_keepsOn (s : State) (x : MmaOp) (scaled readAcc : Bool) : KeepsOn s (s.matrix x scaled readAcc) := by
  refine KeepsOn.finish (MemKept.refl s) ?_
  refine KeptBy.check fun _ => KeptBy.check fun _ => ?_
  extract_lets product
  have written (c : Option (List Page)) : KeptBy s (product c) := KeptBy.pure (State.putTile_same _ _ _).kept
  exact KeptBy.ite (KeptBy.check written) (KeptBy.check written)

theorem State.vec1_keepsOn (s : State) (d a : TGrp) (f : List Page → List Page × Flags) : KeepsOn s (s.vec1 d a f) :=
  KeepsOn.finish (MemKept.refl s) (KeptBy.check fun _ => KeptBy.pure (State.putTile_same _ _ _).kept)

theorem State.vec2_keepsOn (s : State) (d a b : TGrp) (f : List Page → List Page → List Page × Flags) :
    KeepsOn s (s.vec2 d a b f) :=
  KeepsOn.finish (MemKept.refl s)
    (KeptBy.check fun _ => KeptBy.check fun _ => KeptBy.pure (State.putTile_same _ _ _).kept)

theorem State.vec3_keepsOn (s : State) (d a b c : TGrp) (f : List Page → List Page → List Page → List Page × Flags) :
    KeepsOn s (s.vec3 d a b c f) :=
  KeepsOn.finish (MemKept.refl s)
    (KeptBy.check fun _ => KeptBy.check fun _ => KeptBy.check fun _ => KeptBy.pure (State.putTile_same _ _ _).kept)

theorem execVpermr_keepsOn (d a : TGrp) (c : TReg) (s : State) : KeepsOn s (execVpermr d a c s) :=
  KeepsOn.finish (MemKept.refl s)
    (KeptBy.check fun _ => KeptBy.check fun _ => KeptBy.check fun _ => KeptBy.pure (State.putTile_same _ _ _).kept)

theorem execVqnt_keepsOn (x : V2) (mode : QMode) (s : State) : KeepsOn s (execVqnt x mode s) := by
  cases mode with
  | block => exact State.vec1_keepsOn _ _ _ _
  | row => exact State.vec1_keepsOn _ _ _ _
  | givenRow c => exact State.vec2_keepsOn _ _ _ _ _
  | givenBlock c => exact State.vec2_keepsOn _ _ _ _ _

/-! ### Processes, system and host -/

theorem execExit_keepsOn (a : SReg) (s : State) : KeepsOn s (execExit a s) := by
  have ended := ((State.next_same s 4).trans (State.beginExit_same _ (s.rd a))).kept
  unfold execExit
  extract_lets code s1
  split
  · exact KeepsOn.next (ended.trans (((State.parkAll_same _ _ _).trans (State.updPart_same _ _ _)).trans
      (State.hostEvent_same _ _ _)).kept)
  · exact KeepsOn.next ended

theorem execYield_keepsOn (s : State) : KeepsOn s (execYield s) := by
  have moved := State.next_same s 4
  unfold execYield
  extract_lets s1
  split
  · split
    · exact KeepsOn.next (moved.trans (State.parkProc_same _ _ _)).kept
    · exact KeepsOn.next (moved.trans (State.setRotation_same _ _ _ _)).kept
  · exact KeepsOn.next moved.kept

theorem execSprio_keepsOn (a : SReg) (s : State) : KeepsOn s (execSprio a s) :=
  KeepsOn.next ((State.setCur_same _ _).trans (State.next_same _ _)).kept

theorem execGset_keepsOn (d : GReg) (a b : SReg) (s : State) : KeepsOn s (execGset d a b s) :=
  KeepsOn.next ((State.setCur_same _ _).trans (State.next_same _ _)).kept

theorem execSpawn_keepsOn (d : EReg) (a b : SReg) (dom : Domain) (mask : BitVec 8) (s : State) :
    KeepsOn s (execSpawn d a b dom mask s) := by
  refine KeepsOn.finish (State.release_kept s) ?_
  refine KeptBy.check fun _ => KeptBy.check fun _ => KeptBy.check fun _ => ?_
  extract_lets _ spawn
  have spawned (u : Unit) : KeptBy s.release (spawn u) := by
    refine KeptBy.check fun _ => KeptBy.bind fun s1 roomy => KeptBy.trans (State.roomForPush_kept _ _ _ roomy) ?_
    refine KeptBy.trans (State.newPid_same s1).kept (KeptBy.bind fun (s3, jp, je, cell) made => ?_)
    refine KeptBy.trans (State.newChannel_same made).kept ?_
    dsimp only
    split
    · exact KeptBy.error _
    · refine KeptBy.bind fun s4 cleared => KeptBy.trans (State.clearSlot_kept cleared) (KeptBy.pure ?_)
      exact ((((State.moveEndpoints_same _ _ _).trans (State.pushRec_same _ _ _)).trans (State.wrE_same _ _ _)).trans
        (State.next_same _ _)).kept.trans (State.reachedNew_kept _ _ _ _)
  exact KeptBy.ite (spawned ()) (KeptBy.check spawned)

theorem execHalt_keepsOn (s : State) : KeepsOn s (execHalt s) := by
  refine KeepsOn.finish (MemKept.refl s) (KeptBy.check fun _ => KeptBy.pure ?_)
  exact (((State.next_same _ _).trans (State.setCur_same _ _)).trans (State.hostEvent_same _ _ _)).kept

theorem execPark_keepsOn (a : SReg) (s : State) : KeepsOn s (execPark a s) :=
  KeepsOn.finish (MemKept.refl s) (KeptBy.check fun _ _ h => State.onProcess_kept State.parkAny_kept h)

theorem execResume_keepsOn (a : SReg) (s : State) : KeepsOn s (execResume a s) :=
  KeepsOn.finish (MemKept.refl s) (KeptBy.check fun _ _ h =>
    State.onProcess_kept (fun _ _ => (State.release_kept _).trans (State.resumeProc_same _ _).kept) h)

theorem execMigr_keepsOn (a b : SReg) (s : State) : KeepsOn s (execMigr a b s) :=
  KeepsOn.finish (MemKept.refl s) (KeptBy.check fun _ => KeptBy.check fun _ _ h =>
    State.onProcess_kept (fun _ _ => State.migrate_kept _ _ _) h)

theorem execKill_keepsOn (a : SReg) (s : State) : KeepsOn s (execKill a s) := by
  refine KeepsOn.finish (MemKept.refl s) (KeptBy.check fun _ => ?_)
  split
  · exact KeptBy.pure (MemKept.refl s)
  · exact fun _ h => State.onProcess_kept State.killAny_kept h

theorem execSttw_keepsOn (a b : SReg) (s : State) : KeepsOn s (execSttw a b s) := by
  refine KeepsOn.finish (MemKept.refl s) ?_
  refine KeptBy.check fun p => KeptBy.check fun _ => KeptBy.check fun _ => KeptBy.check fun _ => KeptBy.check fun _ =>
    KeptBy.bind fun (s1, e) got => KeptBy.check fun _ => KeptBy.bind fun s2 copied => KeptBy.bind fun s3 put => KeptBy.pure ?_
  exact (((State.sttGet_kept got).trans (State.sttwCopy_same _ _ _ _ _ copied).kept).trans (State.sttPut_kept put)).trans
    ((State.sttChanged_same _ _ _).trans (State.next_same _ _)).kept

theorem execStti_keepsOn (a : SReg) (s : State) : KeepsOn s (execStti a s) := by
  refine KeepsOn.finish (MemKept.refl s) ?_
  refine KeptBy.check fun p => KeptBy.check fun _ => KeptBy.bind fun (s1,
    e) got => KeptBy.trans (State.sttGet_kept got) ?_
  have left (t : State) (v : Nat) : MemKept t ((t.sttChanged p.pid v).next 4) :=
    ((State.sttChanged_same _ _ _).trans (State.next_same _ _)).kept
  dsimp only
  split
  · have dropped (t : State) : KeptBy t ((t.dropCopy p.pid (spPage (s.rd a))).sttPut p.pid (spPage (s.rd a)) (leftEntry e) >>=
        fun u => Pure.pure ((u.sttChanged p.pid (spPage (s.rd a))).next 4)) :=
      KeptBy.bind fun u put => KeptBy.pure
        (((State.dropCopy_same _ _ _).kept.trans (State.sttPut_kept put)).trans (left _ _))
    refine KeptBy.ite (KeptBy.bind fun s2 written => ?_) (KeptBy.bind fun s2 same => Except.ok.inj same ▸ dropped s1)
    exact KeptBy.trans ((State.release_kept s1).trans (State.writeBack_kept written)) (dropped s2)
  · exact KeptBy.pure (left _ _)

theorem State.invalidated_kept (s : State) (va : Option Word) : MemKept s (s.invalidate va).endInvalidate :=
  (State.invalidate_kept _ _).trans (State.endInvalidate_same _).kept

theorem execTlbi_keepsOn (a b : SReg) (s : State) : KeepsOn s (execTlbi a b s) := by
  refine KeepsOn.finish (MemKept.refl s) ?_
  refine KeptBy.check fun _ => KeptBy.check fun _ => KeptBy.check fun _ => ?_
  split
  · exact KeptBy.pure (MemKept.refl s)
  · exact KeptBy.pure (State.invalidated_kept _ _)

theorem execTlbia_keepsOn (s : State) : KeepsOn s (execTlbia s) := by
  refine KeepsOn.finish (MemKept.refl s) (KeptBy.check fun _ => ?_)
  split
  · exact KeptBy.pure (MemKept.refl s)
  · exact KeptBy.pure (State.invalidated_kept _ _)

theorem execMfsr_keepsOn (d : SReg) (n : BitVec 15) (s : State) : KeepsOn s (execMfsr d n s) :=
  KeepsOn.finish (MemKept.refl s) (KeptBy.check fun _ => KeptBy.pure (State.setReg_kept _ _ _ _))

theorem execMtsr_keepsOn (n : BitVec 15) (d : SReg) (s : State) : KeepsOn s (execMtsr n d s) := by
  refine KeepsOn.finish (MemKept.refl s) (KeptBy.check fun _ => ?_)
  split
  · exact KeptBy.pure (MemKept.refl s)
  · split
    · exact fun t h => Except.ok.inj h ▸ State.invalidate_kept _ _
    · exact KeptBy.pure ((State.next_same _ _).kept.trans (State.sysWrite_kept _ _ _))

theorem State.timerWrite_keepsOn (s : State) (v : Word) : KeepsOn s (s.timerWrite v) :=
  KeepsOn.finish (MemKept.refl s) (KeptBy.check fun _ => KeptBy.pure (State.writeTimer_same _ _ _).kept)

theorem execTimerArm_keepsOn (v : Word) (s : State) : KeepsOn s (execTimerArm v s) := by
  unfold execTimerArm
  split
  · exact State.timerWrite_keepsOn s v
  · exact KeepsOn.next (MemKept.refl s)

theorem execTimerDisarm_keepsOn (v : Word) (s : State) : KeepsOn s (execTimerDisarm v s) := by
  unfold execTimerDisarm
  split
  · exact KeepsOn.next (MemKept.refl s)
  · exact State.timerWrite_keepsOn s v

theorem State.regWrite_keepsOn (s : State) (n : Nat) (v : Word) : KeepsOn s (s.regWrite n v) :=
  KeepsOn.finish (MemKept.refl s) (KeptBy.check fun _ => KeptBy.pure (State.sysWrite_kept _ _ _))

theorem execPtrootWrite_keepsOn (v : Word) (s : State) : KeepsOn s (execPtrootWrite v s) := by
  unfold execPtrootWrite
  split
  · exact KeepsOn.next (MemKept.refl s)
  · split
    · exact KeepsOn.next (State.invalidate_kept _ _)
    · exact State.regWrite_keepsOn _ _ _

theorem State.debugEvent_keepsOn (s : State) (part : Nat) (pid : Pid) (v : Word) : KeepsOn s (s.debugEvent part pid v) :=
  KeepsOn.next (ite_kept (MemKept.refl s) (State.debugWrite_same _ _ _ _).kept)

theorem execBusMasteringChange_keepsOn (on : Bool) (s : State) : KeepsOn s (execBusMasteringChange on s) :=
  KeepsOn.next (SameMem.kept ⟨rfl, rfl, rfl, rfl⟩)

theorem execPowerOn_keepsOn (s : State) : KeepsOn s (execPowerOn s) := by
  unfold execPowerOn
  extract_lets s1
  split
  · exact KeepsOn.next ((State.powerless_kept s).trans (State.startFirmware_same _ _ _ _).kept)
  · exact KeepsOn.next (State.powerless_kept s)

theorem execIllegalEncoding_keepsOn (w0 w1 : Word32) (s : State) : KeepsOn s (execIllegalEncoding w0 w1 s) :=
  KeepsOn.next ((State.setCur_same _ _).trans (State.takeTrap_same _ _)).kept

theorem execRegisterWrite_keepsOn (r : RegTarget) (v : Word) (s : State) : KeepsOn s (execRegisterWrite r v s) := by
  cases r with
  | sys n =>
    unfold execRegisterWrite
    dsimp only
    split
    · exact KeepsOn.next (MemKept.refl s)
    · split
      · exact execPtrootWrite_keepsOn v s
      · exact State.regWrite_keepsOn _ _ _
  | bar off => exact KeepsOn.occur fun _ h => tryBarWrite_kept _ _ _ _ h

theorem exec_keepsOn (i : Instr) (s : State) : KeepsOn s (exec i s) := by
  cases i with
  | add | sub | mul | mulh | mulhn | div | divn | rem | remn | and | or | xor | andn | orn | xnor | shl | shr
  | sra | rol | ror | min | max | minn | maxn | slt | sltn | seq | sne | clz | ctz | popc | brev | sextb | sexth
  | sextw | zextb | zexth | zextw | addi | andi | ori | xori | slti | sltni | muli | shli | shri | srai | rori
  | lih | pcadd | fabs | fneg | fclass | li | lihL | addl | bmap | fshl | fshr | csel | bfx | bfi =>
    exact KeepsOn.next (State.put_same _ _ _ _).kept
  | ld => exact execLd_keepsOn _ _ _ _ _
  | st => exact execSt_keepsOn _ _ _ _ _
  | pld => exact execPld_keepsOn _ _ _ _ _
  | pst => exact execPst_keepsOn _ _ _ _ _
  | beq | bne | blt | bge | bltn | bgen => exact KeepsOn.next (State.branch_same _ _ _).kept
  | jal => exact KeepsOn.next ((State.wr_same _ _ _).trans (State.jump_same _ _)).kept
  | jalr => exact execJalr_keepsOn _ _ _ _
  | loop => exact KeepsOn.next ((State.wr_same _ _ _).trans (State.branch_same _ _ _)).kept
  | fadd | fsub | fmul | fdiv | fsqrt | fmin | fmax | fcvtif | fcvtnf | fma | fms | fnma =>
    exact KeepsOn.next (State.putFloat_same _ _ _ _).kept
  | feq | flt | fle => exact KeepsOn.next (State.putTest_same _ _ _).kept
  | fcvtfi | fcvtfn => exact KeepsOn.next (State.putInt_same _ _ _ _ _).kept
  | aadd | aand | aor | axor | amin | amax | aminn | amaxn | aswp | acas => exact State.amo_keepsOn _ _ _ _ _ _ _
  | albGated | alb => exact State.openRegion_keepsOn _ _ _
  | ale => exact execAle_keepsOn _ _
  | fence => exact execFence_keepsOn _ _ _ _
  | chnew => exact execChnew_keepsOn _ _ _
  | chclose => exact execChclose_keepsOn _ _
  | emov => exact execEmov_keepsOn _ _ _
  | einfo => exact execEinfo_keepsOn _ _ _
  | brnew => exact execBrnew_keepsOn _ _ _
  | brep => exact execBrep_keepsOn _ _ _
  | arrive => exact execArrive_keepsOn _ _
  | await => exact execAwait_keepsOn _ _
  | bsync => exact execBsync_keepsOn _ _
  | sende => exact execSende_keepsOn _ _ _
  | recve => exact execRecve_keepsOn _ _ _
  | send | recv | xmaxf | xminf | xsumf | xsumi | xmaxi | xswp | sendt | recvt => exact State.postAt_keepsOn _ _ _ _
  | exit => exact execExit_keepsOn _ _
  | yield => exact execYield_keepsOn _
  | pid | lcore | gprio | cycle | part => exact KeepsOn.next (State.setReg_kept _ _ _ _)
  | sprio => exact execSprio_keepsOn _ _
  | spawn => exact execSpawn_keepsOn _ _ _ _ _ _
  | gset => exact execGset_keepsOn _ _ _ _
  | nop => exact KeepsOn.next (State.next_same _ _).kept
  | halt => exact execHalt_keepsOn _
  | brk | trap => exact KeepsOn.next (State.takeTrap_same _ _).kept
  | park => exact execPark_keepsOn _ _
  | resume => exact execResume_keepsOn _ _
  | migr => exact execMigr_keepsOn _ _ _
  | kill => exact execKill_keepsOn _ _
  | sttw => exact execSttw_keepsOn _ _ _
  | stti => exact execStti_keepsOn _ _
  | tlbi => exact execTlbi_keepsOn _ _ _
  | tlbia => exact execTlbia_keepsOn _
  | mfsr => exact execMfsr_keepsOn _ _ _
  | mtsr => exact execMtsr_keepsOn _ _ _
  | alt => exact execAlt_keepsOn _ _ _ _ _ _ _ _
  | txmax | txsum | txmrg => exact State.exchangeAt_keepsOn _ _ _ _
  | tld | tldx => exact State.tileLoad_keepsOn _ _ _ _ _ _
  | tst | tstx => exact State.tileStore_keepsOn _ _ _ _ _ _
  | tpf => exact execTpf_keepsOn _ _ _ _
  | tred => exact execTred_keepsOn _ _ _ _ _ _
  | spld => exact execSpld_keepsOn _ _ _
  | spst => exact execSpst_keepsOn _ _ _
  | tmov => exact KeepsOn.next ((State.shareGroup_kept _ _ _).trans (State.next_same _ _).kept)
  | tzero | tfill | tiota => exact State.writeTile_keepsOn _ _ _
  | tget => exact execTget_keepsOn _ _ _ _ _ _
  | tins => exact execTins_keepsOn _ _ _ _ _ _
  | mma | mmz | mmas | mmzs => exact State.matrix_keepsOn _ _ _ _
  | vadd | vsub | vmul | vmin | vmax | vdiv | vfmas | vcmp | vrmrg | vand | vor | vxor | vfshl | vfshr =>
    exact State.vec2_keepsOn _ _ _ _ _
  | vfma | vfms | vsel | vclmp | vbmap => exact State.vec3_keepsOn _ _ _ _ _ _
  | vadds | vmuls | vabs | vneg | vexp2 | vlog2 | vrcp | vrsq | vsqrt | vtanh | vsigm | verf | vcvt | vdqn
  | vrmax | vrmin | vrsum | vramax | vrssq | vcmax | vcsum | vbrow | vbcol | vtrn | vrotr | vrotc | vbrot | vnot
  | vshl | vshr | vsra | vpopc => exact State.vec1_keepsOn _ _ _ _
  | vqnt => exact execVqnt_keepsOn _ _ _
  | vpermr => exact execVpermr_keepsOn _ _ _ _
  | tileDispatch => exact KeepsOn.occur fun _ h => tryTileDispatch_kept h
  | engineCompletion => exact KeepsOn.occur fun _ h => tryEngineCompletion_kept h
  | storePerform => exact KeepsOn.occur fun _ h => tryStorePerform_kept _ _ _ _ h
  | atomicAtHome => exact KeepsOn.occur fun _ h => tryAtomicAtHome_kept h
  | atomicReply => exact KeepsOn.occur fun _ h => tryAtomicReply_kept h
  | atomicStop => exact KeepsOn.occur fun _ h => tryAtomicStop_kept h
  | walkComplete => exact KeepsOn.occur fun _ h => tryWalkComplete_kept _ _ _ h
  | rendezvous => exact KeepsOn.occur fun _ h => tryRendezvous_kept _ _ _ h
  | claim => exact KeepsOn.occur fun _ h => tryClaim_kept _ _ _ h
  | timerExpiry => exact KeepsOn.occur fun _ h => tryTimerExpiry_kept _ _ _ _ h
  | timerArm => exact execTimerArm_keepsOn _ _
  | timerDisarm => exact execTimerDisarm_keepsOn _ _
  | detectionLaunch => exact KeepsOn.occur fun _ h => (tryDetectionLaunch_same h).kept
  | probe => exact KeepsOn.occur fun _ h => (tryProbe_same _ _ _ _ h).kept
  | probeAnswer => exact KeepsOn.occur fun _ h => (tryProbeAnswer_same _ _ _ _ h).kept
  | starvationPromotion => exact KeepsOn.occur fun _ h => (tryStarvationPromotion_same _ _ _ h).kept
  | slotFill => exact KeepsOn.occur fun _ h => trySlotFill_kept h
  | stealRequest => exact KeepsOn.occur fun _ h => tryStealRequest_kept h
  | stealAnswer => exact KeepsOn.occur fun _ h => tryStealAnswer_kept _ _ _ h
  | stealRetry => exact KeepsOn.occur fun _ h => (tryStealRetry_same _ _ _ h).kept
  | preemption => exact KeepsOn.occur fun _ h => tryPreemption_kept _ _ _ h
  | blockedPark => exact KeepsOn.occur fun _ h => (tryBlockedPark_same _ _ _ _ h).kept
  | imageComplete => exact KeepsOn.occur fun _ h => tryImageComplete_kept _ _ _ h
  | exitCompletion => exact KeepsOn.occur fun _ h => tryExitCompletion_kept _ _ _ h
  | moveComplete => exact KeepsOn.occur fun _ h => tryMoveComplete_kept h
  | moveAbandon => exact KeepsOn.occur fun _ h => tryMoveAbandon_kept _ _ _ _ h
  | affinityMove => exact KeepsOn.occur fun _ h => (tryAffinityMove_same _ _ _ h).kept
  | evaluation => exact KeepsOn.occur fun _ h => (tryEvaluation_same h).kept
  | pauseEnd => exact KeepsOn.occur fun _ h => tryPauseEnd_kept h
  | pointWithdrawal => exact KeepsOn.occur fun _ h => tryPointWithdrawal_kept h
  | refillStep => exact KeepsOn.occur fun _ h => (tryRefillStep_same _ _ h).kept
  | bucketEmpty => exact KeepsOn.occur fun _ h => (tryBucketEmpty_same _ _ _ h).kept
  | pageInComplete => exact KeepsOn.occur fun _ h => tryPageInComplete_kept _ _ _ _ h
  | eviction => exact KeepsOn.occur fun _ h => tryEviction_kept _ _ _ h
  | laneSleep => exact KeepsOn.occur fun _ h => (tryLaneSleep_same _ _ _ h).kept
  | laneWake => exact KeepsOn.occur fun _ h => (tryLaneWake_same _ _ _ h).kept
  | moduleFailure => exact KeepsOn.occur fun _ h => tryModuleFailure_kept _ _ _ h
  | offlineAnswer => exact KeepsOn.occur fun _ h => tryOfflineAnswer_kept _ _ _ h
  | dieDownComplete => exact KeepsOn.occur fun _ h => tryDieDownComplete_kept h
  | dieUpComplete => exact KeepsOn.occur fun _ h => tryDieUpComplete_kept h
  | linkPortFailure => exact KeepsOn.occur fun _ h => tryLinkPortFailure_kept _ _ _ h
  | powerOn => exact execPowerOn_keepsOn _
  | bootwinTrigger => exact KeepsOn.occur fun _ h => (tryBootwinTrigger_same _ _ h).kept
  | bundleVerified => exact KeepsOn.occur fun _ h => tryBundleVerified_kept h
  | idleEntry => exact KeepsOn.occur fun _ h => (tryIdleEntry_same _ _ h).kept
  | idleExit => exact KeepsOn.occur fun _ h => (tryIdleExit_same _ _ h).kept
  | suspend => exact KeepsOn.occur fun _ h => trySuspend_kept h
  | d0Resume => exact KeepsOn.occur fun _ h => (tryD0Resume_same _ _ h).kept
  | cmdstatRead => exact KeepsOn.occur fun _ h => (tryCmdstatRead_same _ _ h).kept
  | create | grant | destroy | copy | spawnCommand | hsend | hrecv | hclose | exportCmd | importCmd | release
  | diedown | dieup | event | faultend => exact KeepsOn.occur (State.tryCommand_kept _ _ _)
  | faultEndPlacement => exact KeepsOn.occur fun _ h => tryFaultEndPlacement_kept h
  | setMasks | debugHalt | debugRelease | debugStep => exact State.debugEvent_keepsOn _ _ _ _
  | ptrootWrite => exact execPtrootWrite_keepsOn _ _
  | fcsrWrite => exact State.regWrite_keepsOn s 0x10 _
  | thrreasonWrite | bucketLevelWrite | dqovfWrite | spareaWrite | chareaWrite | imgareaWrite | linkcfgWrite =>
    exact State.regWrite_keepsOn _ _ _
  | registerWrite => exact execRegisterWrite_keepsOn _ _ _
  | illegalEncoding => exact execIllegalEncoding_keepsOn _ _ _
  | instructionFetchFault => exact KeepsOn.occur fun _ h => (tryInstructionFetchFault_same h).kept
  | linkUp => exact KeepsOn.occur fun _ h => (tryLinkUp_same h).kept
  | peerMemoryAccess => exact KeepsOn.occur fun _ h => tryPeerMemoryAccess_kept _ _ _ h
  | peerChannelMessage => exact KeepsOn.occur fun _ h => tryPeerChannelMessage_kept h
  | powerRemoved => exact KeepsOn.next (State.powerless_kept _)
  | doorbellWhileBusy => exact KeepsOn.occur fun _ h => tryDoorbellWhileBusy_kept _ _ h
  | busMasteringChange => exact execBusMasteringChange_keepsOn _ _

end Sys2Proof.Machine
end

section
/-! A step goes on and keeps the canonical form of the memories. -/

namespace Sys2Proof.Machine
open Sys2Proof

theorem KeepsOn.onNext {s : State} {o : Host.Outcome State Fault Refusal} {f : State → State} (h : KeepsOn s o)
    (hf : ∀ t, MemKept t (f t)) : KeepsOn s (onNext o f) := by
  obtain ⟨t, rfl, kept⟩ := h
  exact KeepsOn.next (kept.trans (hf t))

theorem KeepsOn.trans {s t : State} {o : Host.Outcome State Fault Refusal} (h : MemKept s t) (k : KeepsOn t o) :
    KeepsOn s o := by
  obtain ⟨u, rfl, kept⟩ := k
  exact KeepsOn.next (h.trans kept)

/-- An event of the device is the instruction of its name, the readings of an evaluation given. -/
theorem Happening.run_keepsOn (e : Happening) (s : State) : KeepsOn s (e.run s) := by
  cases e with
  | tileDispatch c p => exact exec_keepsOn (.tileDispatch c p) s
  | engineCompletion c p => exact exec_keepsOn (.engineCompletion c p) s
  | storePerform p n => exact exec_keepsOn (.storePerform p n) s
  | atomicAtHome p r => exact exec_keepsOn (.atomicAtHome p r) s
  | atomicReply p => exact exec_keepsOn (.atomicReply p) s
  | atomicStop p => exact exec_keepsOn (.atomicStop p) s
  | walkComplete q => exact exec_keepsOn (.walkComplete q) s
  | rendezvous c => exact exec_keepsOn (.rendezvous c) s
  | claim c => exact exec_keepsOn (.claim c) s
  | timerExpiry p t => exact exec_keepsOn (.timerExpiry p t) s
  | detectionLaunch p => exact exec_keepsOn (.detectionLaunch p) s
  | probe i p => exact exec_keepsOn (.probe i p) s
  | probeAnswer i p => exact exec_keepsOn (.probeAnswer i p) s
  | starvationPromotion c => exact exec_keepsOn (.starvationPromotion c) s
  | slotFill c i => exact exec_keepsOn (.slotFill c i) s
  | stealRequest v => exact exec_keepsOn (.stealRequest v) s
  | stealAnswer c => exact exec_keepsOn (.stealAnswer c) s
  | stealRetry c => exact exec_keepsOn (.stealRetry c) s
  | preemption c => exact exec_keepsOn (.preemption c) s
  | blockedPark c i => exact exec_keepsOn (.blockedPark c i) s
  | imageComplete p => exact exec_keepsOn (.imageComplete p) s
  | exitCompletion p => exact exec_keepsOn (.exitCompletion p) s
  | moveComplete p => exact exec_keepsOn (.moveComplete p) s
  | affinityMove p => exact exec_keepsOn (.affinityMove p) s
  | pauseEnd c => exact exec_keepsOn (.pauseEnd c) s
  | evaluation => exact (exec_keepsOn (.evaluation s.sensed (Config.sensedPower s.draws)) s).onNext fun t => (State.drew_same t).kept
  | refillStep => exact exec_keepsOn .refillStep s
  | bucketEmpty p => exact exec_keepsOn (.bucketEmpty p) s
  | pageInComplete p v => exact exec_keepsOn (.pageInComplete p v) s
  | eviction c => exact exec_keepsOn (.eviction c) s
  | offlineAnswer p => exact exec_keepsOn (.offlineAnswer p) s
  | dieDownComplete d => exact exec_keepsOn (.dieDownComplete d) s
  | dieUpComplete d => exact exec_keepsOn (.dieUpComplete d) s
  | bundleVerified => exact exec_keepsOn .bundleVerified s
  | idleEntry => exact exec_keepsOn .idleEntry s
  | idleExit => exact exec_keepsOn .idleExit s
  | faultEndPlacement p => exact exec_keepsOn (.faultEndPlacement p) s

theorem State.retire_keepsOn {s u : State} {jump : Bool} {o : Host.Outcome State Fault Refusal} (h : KeepsOn u o) :
    KeepsOn u (s.retire jump o) :=
  h.onNext fun _ => (State.updProc_same _ _ _).kept

theorem State.act_keepsOn (s : State) (i : Issued) : KeepsOn s (s.act i) := by
  cases i with
  | fault c a w => exact State.retire_keepsOn (exec_keepsOn (.instructionFetchFault c a w) s)
  | break_ n => exact KeepsOn.next (State.takeTrap_same _ _).kept
  | illegal w0 w1 => exact State.retire_keepsOn (exec_keepsOn (.illegalEncoding w0 w1) s)
  | instr i =>
    unfold State.act
    dsimp only
    split
    · exact State.retire_keepsOn (KeepsOn.trans (State.setCur_same s _).kept (exec_keepsOn i _))
    · exact KeepsOn.next (State.enterRob_same _ _).kept

theorem State.runCur_keepsOn (s : State) : KeepsOn s s.runCur :=
  KeepsOn.trans (State.lookAhead_kept s) (State.act_keepsOn _ _)

theorem State.runHead_keepsOn (s : State) : KeepsOn s s.runHead := by
  unfold State.runHead
  split
  · exact KeepsOn.next (MemKept.refl s)
  · next r rest _ =>
    have ready := (State.setCur_same s { s.cur with
      early := r.early, copies := if r.tile then some r.copies else none, iw0 := r.iw0, iw1 := r.iw1, rob := rest,
      stall := .none }).kept.trans (State.readBy_kept _ r)
    exact (KeepsOn.trans ready (State.retire_keepsOn (exec_keepsOn r.instr _))).onNext fun _ => (State.updProc_same _ _ _).kept

theorem State.issueOn_keepsOn (s : State) (c : Nat) : KeepsOn s (s.issueOn c) := by
  unfold State.issueOn
  split
  · exact KeepsOn.next (MemKept.refl s)
  · exact KeepsOn.trans (State.selectOn_same _ _ _ _).kept (State.runCur_keepsOn _)

theorem State.perform_keepsOn (s : State) (a : Action) : KeepsOn s (s.perform a) := by
  have taken (l : List Instr) : MemKept s { s with agenda := l } := SameMem.kept ⟨rfl, rfl, rfl, rfl⟩
  cases a with
  | event e => exact Happening.run_keepsOn e s
  | retire pid => exact KeepsOn.trans (State.switchTo_same s pid).kept (State.runHead_keepsOn _)
  | outside =>
    unfold State.perform
    dsimp only
    split
    · exact KeepsOn.trans (taken _) (exec_keepsOn _ _)
    · exact KeepsOn.next (MemKept.refl s)
  | issue c => exact State.issueOn_keepsOn s c
  | pass => exact KeepsOn.next (MemKept.refl s)

theorem State.happen_keepsOn (s : State) : KeepsOn s s.happen :=
  (KeepsOn.trans ((State.drew_same s).trans (State.noteWaiting_same _ _ _)).kept (State.perform_keepsOn _ _)).onNext
    State.advance_kept

theorem step_keepsOn (s : State) : KeepsOn s (step s) := by
  unfold step
  split
  · exact KeepsOn.trans (State.charged_same s).kept (State.perform_keepsOn _ _)
  · exact KeepsOn.trans (State.charged_same s).kept (State.happen_keepsOn _)

/-- Settles O58: the memories of the device, host, peers and BOOTWIN stay canonical because every change of them is one of
their own operations, which keep it. -/
theorem stepKeepsMemory : Obligations.StepKeepsMemory := by
  intro s t ok stepped
  obtain ⟨u, next, kept⟩ := step_keepsOn s
  rw [next] at stepped
  cases stepped
  exact kept ok

/-- Settles O57: every arm of `exec` answers a next state, and a step runs arms and total functions of the state. -/
theorem stepGoesOn : Obligations.StepGoesOn := fun s =>
  have ⟨t, next, _⟩ := step_keepsOn s
  ⟨t, next⟩

end Sys2Proof.Machine
end

section
/-! The scalar instructions (06_scalar.md): S0, and what an instruction that writes one register leaves unchanged. -/

namespace Sys2Proof.Machine
open Sys2Proof Sys2Proof.Claims

/-- Settles O6, by the rules of register reads after writes. -/
theorem zeroRegister : Obligations.ZeroRegister := fun s d r v =>
  ⟨State.rd_zero s, State.wr_zero s v, State.rd_wr_same s d v, State.rd_wr_other s d r v⟩

theorem State.rd_jump (s : State) (r : SReg) (ip : Word) : (s.jump ip).rd r = s.rd r := rfl

theorem State.wr_jump_onlyScalar (s : State) (d : SReg) (v ip : Word) : OnlyScalar s ((s.wr d v).jump ip) := by
  unfold OnlyScalar State.wr Proc.wr
  split <;> rfl

theorem State.wr_jump_sameBut (s : State) (d : SReg) (v ip : Word) : SameBut d s ((s.wr d v).jump ip) :=
  fun r hr => (State.rd_jump _ _ _).trans (State.rd_wr_other s d r v hr)

/-- The read of a byte looks at the memories and the dies alone. -/
theorem sameBytes_of_onlyScalar {s t : State} (h : OnlyScalar s t) : SameBytes s t := fun pa => by
  rw [h]
  rfl

theorem sameBytes_of_onlyScalarFlags {s t : State} (h : OnlyScalarFlags s t) : SameBytes s t := fun pa => by
  rw [h]
  rfl

theorem State.exists_branch_eq_jump (s : State) (taken : Bool) (off : BitVec 15) : ∃ ip, s.branch taken off = s.jump ip := by
  cases taken
  · exact ⟨_, rfl⟩
  · exact ⟨_, rfl⟩

/-- Each instruction of `scalarDest` writes its register and sets IP. -/
theorem exec_scalarDest {i : Instr} {d : SReg} (h : scalarDest i = some d) (s : State) :
    ∃ v ip, exec i s = .next ((s.wr d v).jump ip) := by
  cases i with
  | add | sub | mul | mulh | mulhn | div | divn | rem | remn | and | or | xor | andn | orn | xnor | shl | shr | sra
  | rol | ror | min | max | minn | maxn | slt | sltn | seq | sne | clz | ctz | popc | brev | sextb | sexth | sextw
  | zextb | zexth | zextw | addi | andi | ori | xori | slti | sltni | muli | shli | shri | srai | rori | lih | pcadd
  | li | lihL | addl | bmap | fshl | fshr | csel | bfx | bfi | fabs | fneg | fclass | jal | pid | lcore | gprio
  | cycle | part =>
    cases h
    exact ⟨_, _, rfl⟩
  | loop a off =>
    cases h
    obtain ⟨ip, moved⟩ := State.exists_branch_eq_jump (s.wr d (s.rd d - 1)) (s.rd d - 1 != 0) off
    exact ⟨_, ip, congrArg _ moved⟩
  | _ => cases h

theorem scalarFramePart : Claims.ScalarFramePart := fun i d s t h ran => by
  obtain ⟨v, ip, written⟩ := exec_scalarDest h s
  cases written.symm.trans ran
  have only := State.wr_jump_onlyScalar s d v ip
  exact ⟨only, State.wr_jump_sameBut s d v ip, sameBytes_of_onlyScalar only⟩

/-- A branch moves IP alone. -/
theorem State.jump_frame (s : State) (ip : Word) :
    s.jump ip = { s with cur := { s.cur with ip := (s.jump ip).cur.ip } } ∧ (∀ r, (s.jump ip).rd r = s.rd r)
      ∧ SameBytes s (s.jump ip) :=
  ⟨rfl, fun _ => rfl, fun _ => rfl⟩

theorem exec_branch {s : State} {a b : SReg} {off : BitVec 15} {i : Instr}
    (h : i ∈ [Instr.beq a b off, .bne a b off, .blt a b off, .bge a b off, .bltn a b off, .bgen a b off]) :
    ∃ taken, exec i s = .next (s.branch taken off) := by
  simp only [List.mem_cons, List.not_mem_nil, or_false] at h
  obtain rfl | rfl | rfl | rfl | rfl | rfl := h
  · exact ⟨_, rfl⟩
  · exact ⟨_, rfl⟩
  · exact ⟨_, rfl⟩
  · exact ⟨_, rfl⟩
  · exact ⟨_, rfl⟩
  · exact ⟨_, rfl⟩

theorem jumpFramePart : Claims.JumpFramePart := fun s t d a b off => by
  refine ⟨fun i member ran => ?_, fun aligned ran => ?_⟩
  · obtain ⟨taken, branched⟩ := exec_branch (s := s) member
    obtain ⟨ip, moved⟩ := State.exists_branch_eq_jump s taken off
    rw [branched, moved] at ran
    cases ran
    exact State.jump_frame s ip
  · rw [(jalrRule s d a off).2.2 aligned] at ran
    cases ran
    have only := State.wr_jump_onlyScalar s d (s.cur.ip + 4) (s.rd a + off.signExtend 64)
    exact ⟨only, State.wr_jump_sameBut _ _ _ _, sameBytes_of_onlyScalar only⟩

/-! ### Flags that only join (04_numbers.md R97) -/

theorem State.wr_jump_joinF_onlyScalarFlags (s : State) (d : SReg) (v ip : Word) (f : Flags) :
    OnlyScalarFlags s (((s.wr d v).jump ip).joinF f) := by
  unfold OnlyScalarFlags State.wr Proc.wr
  split <;> rfl

/-- A set of flags is a number below 2^6. -/
theorem Flags.fcsr_getLsbD_of_le (f : Flags) {k : Nat} (h : 6 ≤ k) : f.fcsr.getLsbD k = false := by
  have small (b : Bool) : bit b ≤ 1 := by cases b <;> decide
  have bound : f.fcsr.toNat < 2 ^ 6 := by
    have h1 := small f.invalid
    have h2 := small f.divzero
    have h3 := small f.overflow
    have h4 := small f.underflow
    have h5 := small f.inexact
    have h6 := small f.saturated
    simp only [Flags.fcsr, BitVec.toNat_ofNat]
    omega
  exact Nat.testBit_lt_two_pow (bound.trans_le (Nat.pow_le_pow_right (by decide) h))

/-- Each instruction of `floatDest` writes its register, sets IP and joins its flags. -/
theorem exec_floatDest {i : Instr} {d : SReg} (h : floatDest i = some d) (s : State) :
    ∃ v ip f, exec i s = .next (((s.wr d v).jump ip).joinF f) := by
  cases i with
  | fadd | fsub | fmul | fdiv | fsqrt | fmin | fmax | feq | flt | fle | fcvtif | fcvtnf | fcvtfi | fcvtfn | fma | fms
  | fnma =>
    cases h
    exact ⟨_, _, _, rfl⟩
  | _ => cases h

theorem State.wr_fcsr (s : State) (d : SReg) (v : Word) : (s.wr d v).cur.fcsr = s.cur.fcsr := by
  unfold State.wr Proc.wr
  split <;> rfl

theorem floatFramePart : Claims.FloatFramePart := fun i d s t h ran => by
  obtain ⟨v, ip, f, written⟩ := exec_floatDest h s
  cases written.symm.trans ran
  have only := State.wr_jump_joinF_onlyScalarFlags s d v ip f
  have flags : (((s.wr d v).jump ip).joinF f).cur.fcsr = s.cur.fcsr ||| f.fcsr := congrArg (· ||| f.fcsr) (State.wr_fcsr s d v)
  refine ⟨only, fun r hr => State.rd_wr_other s d r v hr, sameBytes_of_onlyScalarFlags only, fun k set => ?_, fun k hk => ?_⟩
  · rw [flags, BitVec.getLsbD_or, set, Bool.true_or]
  · rw [flags, BitVec.getLsbD_or, Flags.fcsr_getLsbD_of_le f hk, Bool.or_false]

/-- Settles O8: every form is a write of one register, a change of IP and a join of flags, in this order. -/
theorem scalarFrame : Obligations.ScalarFrame := ⟨scalarFramePart, jumpFramePart, floatFramePart⟩

end Sys2Proof.Machine
end

section
/-! Scalar floating point (06_scalar.md R180 to R185): the arithmetic is the model's by definition; the tests are related to
the sign and magnitude of their F32 operands. -/

namespace Sys2Proof.Machine
open Sys2Proof Sys2Proof.Claims

theorem floatArithmeticResultsPart : Claims.FloatArithmeticResultsPart := fun _ _ _ _ _ =>
  ⟨rfl, rfl, rfl, rfl, rfl, rfl, rfl, rfl, rfl, rfl, rfl, rfl, rfl, rfl⟩

/-! ### The fields of an F32 word -/

theorem Word32.exponent_toNat (u : Word32) : (u &&& 0x7F800000).toNat = u.toNat / 2 ^ 23 % 256 * 2 ^ 23 := by
  refine Nat.eq_of_testBit_eq fun i => ?_
  rw [BitVec.toNat_and, Nat.testBit_and, Nat.testBit_mul_two_pow, show (256 : Nat) = 2 ^ 8 from rfl, Nat.testBit_mod_two_pow,
    Nat.testBit_div_two_pow, show (0x7F800000 : BitVec 32).toNat = (2 ^ 8 - 1) * 2 ^ 23 from rfl, Nat.testBit_mul_two_pow,
    Nat.testBit_two_pow_sub_one]
  by_cases h : 23 ≤ i
  · simp only [h, Nat.sub_add_cancel, decide_true, Bool.true_and, Bool.and_comm]
  · simp [h]

theorem Word32.mantissa_toNat (u : Word32) : (u &&& 0x007FFFFF).toNat = u.toNat % 2 ^ 23 := by
  rw [BitVec.toNat_and]
  exact Nat.and_two_pow_sub_one_eq_mod _ 23

theorem Word32.magnitude_toNat (u : Word32) : (u &&& 0x7FFFFFFF).toNat = u.toNat % 2 ^ 31 := by
  rw [BitVec.toNat_and]
  exact Nat.and_two_pow_sub_one_eq_mod _ 31

theorem Word32.sign_eq (u : Word32) : u.getLsbD 31 = decide (u.toNat / 2 ^ 31 % 2 = 1) :=
  Nat.testBit_eq_decide_div_mod_eq

theorem Word32.exponent_eq_iff (u : Word32) (n : Nat) (h : n < 256) :
    u &&& 0x7F800000 = BitVec.ofNat 32 (n * 2 ^ 23) ↔ u.toNat / 2 ^ 23 % 256 = n := by
  rw [← BitVec.toNat_inj, Word32.exponent_toNat, BitVec.toNat_ofNat]
  omega

theorem Word32.mantissa_eq_zero_iff (u : Word32) : u &&& 0x007FFFFF = 0 ↔ u.toNat % 2 ^ 23 = 0 := by
  rw [← BitVec.toNat_inj, Word32.mantissa_toNat]
  rfl

/-! ### The order of F32 values -/

/-- An F32 word names a NaN. -/
def f32Nan (v : Word32) : Bool := decide ((v &&& 0x7F800000) = 0x7F800000) && decide ((v &&& 0x007FFFFF) ≠ 0)

/-- The sign and magnitude of an F32 word as an integer. -/
def f32Key (v : Word32) : Int := if v.getLsbD 31 then -((v &&& 0x7FFFFFFF).toNat : Int) else (v &&& 0x7FFFFFFF).toNat

/-- The magnitude of an F32 word's value in units of 2^-149, an infinity as the value that would follow the largest. -/
def f32Scale (mag : Nat) : Nat := if mag / 2 ^ 23 = 0 then mag else (2 ^ 23 + mag % 2 ^ 23) * 2 ^ (mag / 2 ^ 23 - 1)

/-- A larger magnitude within one exponent has a larger significand; the next exponent's values are at least as large as
twice the smallest of this one. -/
theorem f32Scale_strictMono : StrictMono f32Scale := by
  refine strictMono_nat_of_lt_succ fun n => ?_
  unfold f32Scale
  by_cases last : n % 2 ^ 23 = 2 ^ 23 - 1
  · have next : (n + 1) / 2 ^ 23 = n / 2 ^ 23 + 1 := by omega
    have zero : (n + 1) % 2 ^ 23 = 0 := by omega
    rw [next, zero, if_neg (Nat.succ_ne_zero _), Nat.add_sub_cancel, Nat.add_zero]
    split
    · next low =>
      rw [low]
      omega
    · next high =>
      obtain ⟨k, hk⟩ := Nat.exists_eq_add_one_of_ne_zero high
      rw [last, hk, Nat.add_sub_cancel, pow_succ 2 k, ← Nat.mul_assoc, Nat.mul_right_comm]
      exact Nat.mul_lt_mul_of_pos_right (by decide) (Nat.two_pow_pos k)
  · have same : (n + 1) / 2 ^ 23 = n / 2 ^ 23 := by omega
    have up : (n + 1) % 2 ^ 23 = n % 2 ^ 23 + 1 := by omega
    rw [same, up]
    split
    · exact Nat.lt_succ_self n
    · exact Nat.mul_lt_mul_of_pos_right (Nat.add_lt_add_left (Nat.lt_succ_self _) _) (Nat.two_pow_pos _)

theorem signed_lt_signed_iff {f : Nat → Nat} (hf : StrictMono f) (zero : f 0 = 0) (n k : Bool) (x y : Nat) :
    signed n (f x) < signed k (f y) ↔ signed n x < signed k y := by
  have order : f x < f y ↔ x < y := hf.lt_iff_lt
  have order' : f y < f x ↔ y < x := hf.lt_iff_lt
  have hx : 0 < f x ↔ 0 < x := by rw [← zero, hf.lt_iff_lt, zero]
  have hy : 0 < f y ↔ 0 < y := by rw [← zero, hf.lt_iff_lt, zero]
  cases n <;> cases k <;> simp only [signed, Bool.false_eq_true, if_false, if_true] <;> omega

/-- Two dyadic numbers compare as integers in a common unit. -/
theorem Exact.lt_num {n k a b : Bool} {m l : Nat} {e f : Int} {u : Int} (he : u ≤ e) (hf : u ≤ f) :
    Exact.lt (.num n m e a) (.num k l f b)
      = decide (signed n m * 2 ^ (e - u).toNat < signed k l * 2 ^ (f - u).toNat) := by
  have positive (x : Nat) : (0 : Int) < 2 ^ x := Int.pow_pos (by decide)
  have scale {x y : Int} (c : Nat) : x < y ↔ x * 2 ^ c < y * 2 ^ c :=
    (Int.mul_lt_mul_right (positive c)).symm
  refine decide_eq_decide.mpr ?_
  unfold dyAdd
  split
  · next le =>
    have unit : (f - u).toNat = (f - e).toNat + (e - u).toNat := by omega
    rw [unit, Int.pow_add, ← Int.mul_assoc, ← scale]
    simp only [Int.natCast_pow, Int.neg_mul, Nat.cast_ofNat]
    omega
  · next gt =>
    have unit : (e - u).toNat = (e - f).toNat + (f - u).toNat := by omega
    rw [unit, Int.pow_add, ← Int.mul_assoc, ← scale]
    simp only [Int.natCast_pow, Nat.cast_ofNat]
    omega

theorem elemValue_f32 (raw : Nat) : elemValue .f32 raw =
    (if raw / 2 ^ 23 % 256 = 255 then
       (if raw % 2 ^ 23 = 0 then .inf (raw / 2 ^ 31 % 2 == 1) false else .nan false)
     else if raw / 2 ^ 23 % 256 = 0 then .num (raw / 2 ^ 31 % 2 == 1) (raw % 2 ^ 23) (-149) false
     else .num (raw / 2 ^ 31 % 2 == 1) (2 ^ 23 + raw % 2 ^ 23) ((raw / 2 ^ 23 % 256 : Nat) - 150) false) := by
  simp [elemValue, Ty.isFloat, Ty.format, Ty.bits, Ty.hasInf, Int.sub_sub]
  rfl

theorem f32Key_eq (v : Word32) : f32Key v = signed (v.toNat / 2 ^ 31 % 2 == 1) (v.toNat % 2 ^ 31) := by
  unfold f32Key signed
  rw [Word32.sign_eq, Word32.magnitude_toNat]
  simp only [beq_iff_eq, decide_eq_true_eq]

theorem f32Nan_iff (v : Word32) : f32Nan v = true ↔ v.toNat / 2 ^ 23 % 256 = 255 ∧ v.toNat % 2 ^ 23 ≠ 0 := by
  unfold f32Nan
  rw [Bool.and_eq_true, decide_eq_true_eq, decide_eq_true_eq]
  exact and_congr (Word32.exponent_eq_iff v 255 (by decide)) (not_congr (Word32.mantissa_eq_zero_iff v))

theorem elemValue_f32_isNan (v : Word32) : (elemValue .f32 v.toNat).isNan = f32Nan v := by
  rw [elemValue_f32, Bool.eq_iff_iff, f32Nan_iff]
  split
  · next top =>
    split
    · next zero => exact iff_of_false Bool.false_ne_true fun h => h.2 zero
    · next rest => exact iff_of_true rfl ⟨top, rest⟩
  · next low =>
    refine iff_of_false ?_ fun h => low h.1
    split <;> exact Bool.false_ne_true

/-- The magnitude of a word below an infinity is that of its value in units of 2^-149. -/
theorem elemValue_f32_finite (v : Word32) (h : v.toNat / 2 ^ 23 % 256 ≠ 255) :
    ∃ m e, elemValue .f32 v.toNat = .num (v.toNat / 2 ^ 31 % 2 == 1) m e false ∧ -149 ≤ e
      ∧ m * 2 ^ (e - -149).toNat = f32Scale (v.toNat % 2 ^ 31) := by
  have exponent : v.toNat % 2 ^ 31 / 2 ^ 23 = v.toNat / 2 ^ 23 % 256 := by omega
  have mantissa : v.toNat % 2 ^ 31 % 2 ^ 23 = v.toNat % 2 ^ 23 := by omega
  rw [elemValue_f32, if_neg h]
  unfold f32Scale
  rw [exponent, mantissa]
  split
  · next low => exact ⟨_, _, rfl, le_refl _, by simp; omega⟩
  · next high =>
    refine ⟨_, _, rfl, by omega, ?_⟩
    congr 2
    omega

theorem elemValue_f32_infinite (v : Word32) (h : v.toNat / 2 ^ 23 % 256 = 255) (nan : f32Nan v = false) :
    elemValue .f32 v.toNat = .inf (v.toNat / 2 ^ 31 % 2 == 1) false ∧ v.toNat % 2 ^ 31 = 255 * 2 ^ 23 := by
  have zero : v.toNat % 2 ^ 23 = 0 := by
    by_contra rest
    rw [(f32Nan_iff v).mpr ⟨h, rest⟩] at nan
    cases nan
  rw [elemValue_f32, if_pos h, if_pos zero]
  exact ⟨rfl, by omega⟩

theorem signed_mul (n : Bool) (m k : Nat) : signed n m * (k : Int) = signed n (m * k) := by
  cases n <;> simp [signed]

/-- F32 values that are no NaN compare as their signed magnitudes. -/
theorem elemValue_f32_lt {u w : Word32} (hu : f32Nan u = false) (hw : f32Nan w = false) :
    (elemValue .f32 u.toNat).lt (elemValue .f32 w.toNat) = decide (f32Key u < f32Key w) := by
  rw [f32Key_eq, f32Key_eq]
  by_cases tu : u.toNat / 2 ^ 23 % 256 = 255
  · obtain ⟨vu, mu⟩ := elemValue_f32_infinite u tu hu
    by_cases tw : w.toNat / 2 ^ 23 % 256 = 255
    · obtain ⟨vw, mw⟩ := elemValue_f32_infinite w tw hw
      rw [vu, vw, mu, mw]
      generalize (u.toNat / 2 ^ 31 % 2 == 1) = n
      generalize (w.toNat / 2 ^ 31 % 2 == 1) = k
      revert n k
      decide
    · obtain ⟨m, e, vw, -, -⟩ := elemValue_f32_finite w tw
      rw [vu, vw, mu]
      have less : w.toNat % 2 ^ 31 < 255 * 2 ^ 23 := by omega
      generalize (u.toNat / 2 ^ 31 % 2 == 1) = n
      generalize (w.toNat / 2 ^ 31 % 2 == 1) = k
      cases n <;> cases k <;> simp [Exact.lt, signed] <;> omega
  · obtain ⟨m, e, vu, le, mu⟩ := elemValue_f32_finite u tu
    by_cases tw : w.toNat / 2 ^ 23 % 256 = 255
    · obtain ⟨vw, mw⟩ := elemValue_f32_infinite w tw hw
      rw [vu, vw, mw]
      have less : u.toNat % 2 ^ 31 < 255 * 2 ^ 23 := by omega
      generalize (u.toNat / 2 ^ 31 % 2 == 1) = n
      generalize (w.toNat / 2 ^ 31 % 2 == 1) = k
      cases n <;> cases k <;> simp [Exact.lt, signed] <;> omega
    · obtain ⟨l, f, vw, lf, mw⟩ := elemValue_f32_finite w tw
      rw [vu, vw, Exact.lt_num le lf, decide_eq_decide, ← signed_lt_signed_iff f32Scale_strictMono rfl, ← mu, ← mw,
        ← signed_mul, ← signed_mul, Nat.cast_pow, Nat.cast_pow]
      rfl

/-! ### The tests -/

theorem setWidth_toNat_mod (x : Word) : x.toNat % 2 ^ 32 = (x.setWidth 32).toNat := (BitVec.toNat_setWidth 32 x).symm

theorem fabs_bits (x : Word) : x &&& 0x7FFFFFFF = ((x.setWidth 32) &&& 0x7FFFFFFF).setWidth 64 := by
  rw [BitVec.setWidth_and]
  refine BitVec.eq_of_toNat_eq ?_
  have mask : ∀ n : Nat, n &&& 0x7FFFFFFF = n % 2 ^ 31 := fun n => Nat.and_two_pow_sub_one_eq_mod n 31
  simp only [BitVec.toNat_and, BitVec.toNat_setWidth, BitVec.toNat_ofNat, BitVec.ofNat_eq_ofNat]
  norm_num [mask]

theorem setWidth_setWidth_eq_and (x : Word) : (x.setWidth 32).setWidth 64 = x &&& 0xFFFFFFFF := by
  refine BitVec.eq_of_toNat_eq ?_
  have mask : x.toNat &&& 0xFFFFFFFF = x.toNat % 2 ^ 32 := Nat.and_two_pow_sub_one_eq_mod _ 32
  rw [BitVec.toNat_and, BitVec.toNat_setWidth, BitVec.toNat_setWidth]
  exact (Nat.mod_eq_of_lt (by omega)).trans mask.symm

theorem fneg_bits (x : Word) : (x &&& 0xFFFFFFFF) ^^^ 0x80000000 = ((x.setWidth 32) ^^^ 0x80000000).setWidth 64 := by
  rw [BitVec.setWidth_xor, setWidth_setWidth_eq_and]
  rfl

/-- The class of an F32 word by its fields. -/
theorem classBit_eq (u : Word32) : classBit u.toNat =
    (if f32Nan u then 8
     else if u = 0xFF800000 then 0 else if u = 0x7F800000 then 7
     else if u = 0x80000000 then 3 else if u = 0 then 4
     else if u.getLsbD 31 then (if (u &&& 0x7F800000) = 0 then 2 else 1)
     else (if (u &&& 0x7F800000) = 0 then 5 else 6)) := by
  have zero : (u &&& 0x7F800000) = 0 ↔ u.toNat / 2 ^ 23 % 256 = 0 := Word32.exponent_eq_iff u 0 (by decide)
  have fields (s e m : Nat) (hs : s < 2) (he : e < 256) (hm : m < 2 ^ 23) :
      u = BitVec.ofNat 32 (s * 2 ^ 31 + e * 2 ^ 23 + m)
        ↔ u.toNat / 2 ^ 31 % 2 = s ∧ u.toNat / 2 ^ 23 % 256 = e ∧ u.toNat % 2 ^ 23 = m := by
    rw [← BitVec.toNat_inj, BitVec.toNat_ofNat]
    have bound := u.isLt
    omega
  have minusInf : u = 0xFF800000 ↔ _ := fields 1 255 0 (by decide) (by decide) (by decide)
  have inf : u = 0x7F800000 ↔ _ := fields 0 255 0 (by decide) (by decide) (by decide)
  have minusZero : u = 0x80000000 ↔ _ := fields 1 0 0 (by decide) (by decide) (by decide)
  have plusZero : u = 0 ↔ _ := fields 0 0 0 (by decide) (by decide) (by decide)
  unfold classBit
  simp only [f32Nan_iff, Word32.sign_eq, zero, decide_eq_true_eq, ne_eq, minusInf, inf, minusZero, plusZero]
  have sign : u.toNat / 2 ^ 31 % 2 = 0 ↔ ¬ u.toNat / 2 ^ 31 % 2 = 1 := by omega
  generalize u.toNat / 2 ^ 31 % 2 = n at *
  generalize u.toNat / 2 ^ 23 % 256 = e at *
  generalize u.toNat % 2 ^ 23 = m at *
  by_cases top : e = 255
  · by_cases hm : m = 0 <;> by_cases hn : n = 1 <;> simp [top, hm, hn, sign]
  · by_cases low : e = 0 <;> by_cases hm : m = 0 <;> by_cases hn : n = 1 <;> simp [top, low, hm, hn, sign]

theorem State.f32_eq (s : State) (r : SReg) : s.f32 r = elemValue .f32 ((s.rd r).setWidth 32).toNat :=
  congrArg (elemValue .f32) (setWidth_toNat_mod _)

/-- What a comparison of two F32 words gives: nothing holds with a NaN, else the order of the signed magnitudes decides. -/
theorem compareVals_f32 (u w : Word32) :
    compareVals .eq (elemValue .f32 u.toNat) (elemValue .f32 w.toNat)
        = (!(f32Nan u || f32Nan w) && decide (f32Key u = f32Key w), Flags.none)
    ∧ compareVals .lt (elemValue .f32 u.toNat) (elemValue .f32 w.toNat)
        = (!(f32Nan u || f32Nan w) && decide (f32Key u < f32Key w), { invalid := f32Nan u || f32Nan w })
    ∧ compareVals .le (elemValue .f32 u.toNat) (elemValue .f32 w.toNat)
        = (!(f32Nan u || f32Nan w) && decide (f32Key u ≤ f32Key w), { invalid := f32Nan u || f32Nan w }) := by
  simp only [compareVals, elemValue_f32_isNan, Prod.mk.injEq, and_true]
  cases hu : f32Nan u with
  | true => simp
  | false =>
    cases hw : f32Nan w with
    | true => simp
    | false =>
      rw [elemValue_f32_lt hu hw, elemValue_f32_lt hw hu]
      simp only [Bool.or_self, Bool.not_false, Bool.true_and, ← decide_not, ← Bool.decide_and, decide_eq_decide, true_and]
      exact ⟨by omega, by omega⟩

theorem exec_compare (s : State) (d a b : SReg) :
    exec (.feq d a b) s = .next (s.putTest d (compareVals .eq (s.f32 a) (s.f32 b)))
    ∧ exec (.flt d a b) s = .next (s.putTest d (compareVals .lt (s.f32 a) (s.f32 b)))
    ∧ exec (.fle d a b) s = .next (s.putTest d (compareVals .le (s.f32 a) (s.f32 b))) := ⟨rfl, rfl, rfl⟩

theorem Flags.fcsr_invalid (b : Bool) : ({ invalid := b } : Flags).fcsr = if b then 1 else 0 := by
  cases b <;> rfl

theorem floatTestResultsPart : Claims.FloatTestResultsPart := fun s d a b => by
  obtain ⟨feq, flt, fle⟩ := exec_compare s d a b
  rw [State.f32_eq, State.f32_eq] at feq flt fle
  obtain ⟨eq, lt, le⟩ := compareVals_f32 ((s.rd a).setWidth 32) ((s.rd b).setWidth 32)
  refine ⟨?_, ?_, ?_, ?_, ?_, ?_⟩
  · exact congrArg (put s d · 4) (fabs_bits _)
  · exact congrArg (put s d · 4) (fneg_bits _)
  · rw [feq, eq]
    rfl
  · rw [flt, lt, State.putTest, State.joinF, Flags.fcsr_invalid]
    rfl
  · rw [fle, le, State.putTest, State.joinF, Flags.fcsr_invalid]
    rfl
  · refine congrArg (fun n => put s d (BitVec.ofNat 64 (2 ^ n)) 4) ?_
    rw [setWidth_toNat_mod]
    exact classBit_eq _

/-- Settles O7: the arithmetic by definition, the tests by the order of F32 words as signed magnitudes. -/
theorem floatArithmeticResults : Obligations.FloatArithmeticResults := ⟨floatArithmeticResultsPart, floatTestResultsPart⟩

end Sys2Proof.Machine
end

section
/-! The values of the exchange collectives (12_channels.md R331): the exact sum and the F32 maximum and minimum do not depend on
the order of their operands. -/

namespace Sys2Proof.Machine
open Sys2Proof Sys2Proof.Claims

/-! ### The sum -/

theorem dyAdd_comm (m1 e1 m2 e2 : Int) : dyAdd m1 e1 m2 e2 = dyAdd m2 e2 m1 e1 := by
  unfold dyAdd
  rcases lt_trichotomy e1 e2 with less | rfl | greater
  · rw [if_pos less.le, if_neg less.not_ge, Int.add_comm]
  · simp [Int.add_comm]
  · rw [if_neg greater.not_ge, if_pos greater.le, Int.add_comm]

theorem signed_eq_zero_iff (n : Bool) (m : Nat) : signed n m = 0 ↔ m = 0 := by
  cases n <;> simp [signed]

theorem sumDyadic_pair_comm (x y : Exact) : sumDyadic [x, y] 0 0 = sumDyadic [y, x] 0 0 := by
  cases x with
  | num n m e a =>
    cases y with
    | num k l f b =>
      by_cases hm : m = 0 <;> by_cases hl : l = 0 <;>
        simp [sumDyadic, hm, hl, signed_eq_zero_iff, dyAdd_comm (signed n m) e]
    | _ => rfl
  | nan i => cases y <;> rfl
  | inf n d => cases y <;> rfl

theorem exactSum_pair_comm (x y : Exact) : exactSum [x, y] = exactSum [y, x] := by
  have any (f : Exact → Bool) : [x, y].any f = [y, x].any f := by simp [Bool.or_comm]
  have all (f : Exact → Bool) : [x, y].all f = [y, x].all f := by simp [Bool.and_comm]
  unfold exactSum
  rw [sumDyadic_pair_comm]
  simp only [any, all]

/-! ### Maximum and minimum -/

theorem elemValue_f32_neg? {v : Word32} (h : f32Nan v = false) :
    (elemValue .f32 v.toNat).neg? = (v.toNat / 2 ^ 31 % 2 == 1) := by
  by_cases top : v.toNat / 2 ^ 23 % 256 = 255
  · rw [(elemValue_f32_infinite v top h).1]
    rfl
  · obtain ⟨m, e, value, -, -⟩ := elemValue_f32_finite v top
    rw [value]
    rfl

theorem elemValue_f32_isZero (v : Word32) : (elemValue .f32 v.toNat).isZero = decide (v.toNat % 2 ^ 31 = 0) := by
  rw [elemValue_f32]
  split
  · next top =>
    have nonzero : v.toNat % 2 ^ 31 ≠ 0 := by omega
    split <;> simp only [Exact.isZero, nonzero, decide_false]
  · split
    · next low =>
      have same : v.toNat % 2 ^ 23 = v.toNat % 2 ^ 31 := by omega
      simp only [Exact.isZero, same, Bool.not_false, Bool.and_true]
      rfl
    · next high =>
      have nonzero : v.toNat % 2 ^ 31 ≠ 0 := by omega
      have positive : 2 ^ 23 + v.toNat % 2 ^ 23 ≠ 0 := by omega
      simp only [Exact.isZero, nonzero, decide_false, beq_eq_false_iff_ne.mpr positive, Bool.false_and]

/-- F32 values that are no NaN are ordered by `below` as their words are: by signed magnitude, -0 before +0. -/
theorem elemValue_f32_below {u w : Word32} (hu : f32Nan u = false) (hw : f32Nan w = false) :
    (elemValue .f32 u.toNat).below (elemValue .f32 w.toNat) = true
      ↔ f32Key u < f32Key w ∨ (f32Key u = f32Key w ∧ u.toNat / 2 ^ 31 % 2 = 1 ∧ w.toNat / 2 ^ 31 % 2 = 0) := by
  unfold Exact.below
  rw [elemValue_f32_lt hu hw, elemValue_f32_lt hw hu, elemValue_f32_isZero, elemValue_f32_isZero, elemValue_f32_neg? hu,
    elemValue_f32_neg? hw, f32Key_eq, f32Key_eq]
  simp only [signed, Bool.or_eq_true, Bool.and_eq_true, decide_eq_true_eq, Bool.not_eq_true', decide_eq_false_iff_not,
    beq_iff_eq, beq_eq_false_iff_ne]
  split <;> split <;> omega

/-- Two words that are no NaN, neither below the other, are one. -/
theorem eq_of_f32_not_below {u w : Word32} (hu : f32Nan u = false) (hw : f32Nan w = false)
    (h : ¬ (elemValue .f32 u.toNat).below (elemValue .f32 w.toNat) = true)
    (k : ¬ (elemValue .f32 w.toNat).below (elemValue .f32 u.toNat) = true) : u = w := by
  rw [elemValue_f32_below hu hw, f32Key_eq, f32Key_eq] at h
  rw [elemValue_f32_below hw hu, f32Key_eq, f32Key_eq] at k
  have bu := u.isLt
  have bw := w.isLt
  refine BitVec.eq_of_toNat_eq ?_
  simp only [signed, beq_iff_eq] at h k
  split at h <;> split at h <;> simp_all <;> omega

theorem f32_below_asymm {u w : Word32} (hu : f32Nan u = false) (hw : f32Nan w = false)
    (h : (elemValue .f32 u.toNat).below (elemValue .f32 w.toNat) = true) :
    (elemValue .f32 w.toNat).below (elemValue .f32 u.toNat) = false := by
  rw [elemValue_f32_below hu hw] at h
  rw [← Bool.not_eq_true, elemValue_f32_below hw hu]
  omega

theorem max_f32_comm (u w : Word32) :
    (elemValue .f32 u.toNat).max (elemValue .f32 w.toNat) = (elemValue .f32 w.toNat).max (elemValue .f32 u.toNat) := by
  unfold Exact.max
  rw [Bool.or_comm]
  split
  · rfl
  · next real =>
    rw [elemValue_f32_isNan, elemValue_f32_isNan, Bool.or_eq_true, not_or, Bool.not_eq_true, Bool.not_eq_true] at real
    split
    · next below => rw [f32_below_asymm real.2 real.1 below, if_neg Bool.false_ne_true]
    · next above =>
      split
      · rfl
      · next below => rw [eq_of_f32_not_below real.2 real.1 above below]

theorem min_f32_comm (u w : Word32) :
    (elemValue .f32 u.toNat).min (elemValue .f32 w.toNat) = (elemValue .f32 w.toNat).min (elemValue .f32 u.toNat) := by
  unfold Exact.min
  rw [Bool.or_comm]
  split
  · rfl
  · next real =>
    rw [elemValue_f32_isNan, elemValue_f32_isNan, Bool.or_eq_true, not_or, Bool.not_eq_true, Bool.not_eq_true] at real
    split
    · next below => rw [f32_below_asymm real.1 real.2 below, if_neg Bool.false_ne_true]
    · next above =>
      split
      · rfl
      · next below => rw [eq_of_f32_not_below real.2 real.1 below above]

theorem maxi_eq (x y : Word) : (if x.toInt < y.toInt then y else x) = if x.toInt ≤ y.toInt then y else x := by
  split
  · next less => rw [if_pos less.le]
  · next more =>
    split
    · next le => exact BitVec.eq_of_toInt_eq (by omega)
    · rfl

theorem maxi_comm (x y : Word) : (if x.toInt < y.toInt then y else x) = if y.toInt < x.toInt then x else y := by
  split
  · next less => rw [if_neg less.le.not_gt]
  · next more =>
    split
    · rfl
    · next less => exact BitVec.eq_of_toInt_eq (by omega)

theorem exchangeValue_comm {g : XFn} (h : g ≠ .swp) (x y : Word) : exchangeValue g x y = exchangeValue g y x := by
  unfold exchangeValue
  rw [setWidth_toNat_mod, setWidth_toNat_mod]
  cases g with
  | maxf => simp only [max_f32_comm]
  | minf => simp only [min_f32_comm]
  | sumf => simp only [exactSum_pair_comm]
  | sumi => simp only [BitVec.add_comm]
  | maxi => simp only [maxi_comm x y]
  | swp => exact absurd rfl h

/-- Settles O29, by definition but for the symmetry. -/
theorem exchangeValues : Obligations.ExchangeValues := fun x y =>
  ⟨rfl, rfl, congrArg (·, Flags.none) (maxi_eq x y), rfl, rfl, rfl, fun _ h => exchangeValue_comm h x y⟩

end Sys2Proof.Machine
end

section
/-! What the keeping of the L2 changes, and the key and the bytes of a sector after a store (11_memory.md, 19_trust.md R472). -/

namespace Sys2Proof.Machine
open Sys2Proof Sys2Proof.Claims

/-! ### The L2 -/

/-- The keeping of the L2 changes its lines and the charges of partitions, and drops what it garbled. -/
def L2Kept (s t : State) : Prop :=
  ∃ parts l2 garbled, t = { s with parts := parts, l2 := l2, garbled := garbled } ∧ garbled.Sublist s.garbled

theorem L2Kept.refl (s : State) : L2Kept s s := ⟨s.parts, s.l2, s.garbled, rfl, List.Sublist.refl _⟩

theorem L2Kept.trans {s t u : State} (h : L2Kept s t) (k : L2Kept t u) : L2Kept s u := by
  obtain ⟨p, l, g, rfl, hg⟩ := h
  obtain ⟨p', l', g', rfl, hg'⟩ := k
  exact ⟨p', l', g', rfl, hg'.trans hg⟩

theorem L2Kept.foldl {α : Type} (f : State → α → State) (hf : ∀ s a, L2Kept s (f s a)) (l : List α) (s : State) :
    L2Kept s (l.foldl f s) :=
  foldl_keeps (L2Kept s) f (fun _ _ h => h.trans (hf _ _)) l s (L2Kept.refl s)

theorem State.oweSector_l2Kept (s : State) (p : Option Part) : L2Kept s (s.oweSector p) := by
  unfold State.oweSector
  split
  · exact L2Kept.refl s
  · split
    · exact L2Kept.refl s
    · exact ⟨_, s.l2, s.garbled, rfl, List.Sublist.refl _⟩

theorem State.evictLine_l2Kept (s : State) (l : L2Line) : L2Kept s (s.evictLine l) := by
  have dropped : L2Kept s { s with
      l2 := s.l2.filter (fun x => x.line != l.line), garbled := s.garbled.filter (fun x => x.1 / 4 != l.line) } :=
    ⟨s.parts, _, _, rfl, List.filter_sublist⟩
  exact dropped.trans (L2Kept.foldl _ (fun _ _ => State.oweSector_l2Kept _ _) _ _)

theorem State.roomInSet_l2Kept (s : State) (h : Hint) (line : Nat) : L2Kept s (s.roomInSet h line) := by
  unfold State.roomInSet
  extract_lets set l
  split
  · exact L2Kept.refl s
  · split
    · exact State.evictLine_l2Kept s _
    · exact L2Kept.refl s

theorem State.holdSector_l2Kept (s : State) (h : Hint) (x : L2Sector) : L2Kept s (s.holdSector h x) := by
  unfold State.holdSector
  split
  · exact ⟨s.parts, _, s.garbled, rfl, List.Sublist.refl _⟩
  · have held (t : State) (l : List L2Line) : L2Kept t { t with l2 := l } := ⟨t.parts, l, t.garbled, rfl, List.Sublist.refl _⟩
    exact (State.roomInSet_l2Kept s _ _).trans (held _ _)

theorem State.fillL2_l2Kept (s : State) (v : Via) (pa n : Nat) : L2Kept s (s.fillL2 v pa n) := by
  unfold State.fillL2
  split
  · refine L2Kept.foldl _ (fun t sec => ?_) _ _
    split
    · exact L2Kept.refl t
    · exact (State.oweSector_l2Kept t _).trans (State.holdSector_l2Kept _ _ _)
  · exact L2Kept.refl s

theorem State.dirtyL2_l2Kept (s : State) (v : Via) (pa n : Nat) : L2Kept s (s.dirtyL2 v pa n) := by
  unfold State.dirtyL2
  split
  · refine L2Kept.foldl _ (fun t sec => ?_) _ _
    extract_lets whole t1
    have owed : L2Kept t t1 := by
      unfold t1
      split
      · exact L2Kept.refl t
      · exact State.oweSector_l2Kept t _
    exact owed.trans (State.holdSector_l2Kept _ _ _)
  · exact L2Kept.refl s

/-! ### Keys of sectors -/

theorem find?_insertSeal {l : List (Nat × Nat)} {sec : Nat} (h : ∀ x ∈ l, x.1 ≠ sec) (y k : Nat) :
    ((insertSeal sec y l).find? (fun x => x.1 == k)).map Prod.snd
      = if k = sec then some y else (l.find? (fun x => x.1 == k)).map Prod.snd := by
  induction l with
  | nil =>
    by_cases hk : k = sec
    · simp [insertSeal, hk]
    · simp [insertSeal, hk, Ne.symm hk]
  | cons p rest ih =>
    obtain ⟨a, v⟩ := p
    have other : a ≠ sec := h (a, v) (by simp)
    have later := ih fun x hx => h x (by simp [hx])
    simp only [insertSeal]
    split
    · by_cases hk : k = sec
      · simp [hk]
      · simp [List.find?_cons, hk, Ne.symm hk]
    · by_cases ha : a = k
      · have hk : ¬ k = sec := fun e => other (ha.trans e)
        simp [ha, hk]
      · simp [ha, later]

theorem find?_setSeal (l : List (Nat × Nat)) (sec : Nat) (x : Option Nat) (k : Nat) :
    ((setSeal sec x l).find? (fun y => y.1 == k)).map Prod.snd
      = if k = sec then x else (l.find? (fun y => y.1 == k)).map Prod.snd := by
  have absent : ∀ y ∈ l.filter (fun y => y.1 != sec), y.1 ≠ sec := fun y hy => by simpa using (List.mem_filter.mp hy).2
  have rest : ((l.filter (fun y => y.1 != sec)).find? (fun y => y.1 == k)).map Prod.snd
      = if k = sec then none else (l.find? (fun y => y.1 == k)).map Prod.snd := by
    split
    · next hk =>
      rw [List.find?_eq_none.mpr fun y hy => by simpa [hk] using absent y hy]
      rfl
    · next hk =>
      rw [List.find?_filter]
      congr 2
      funext y
      by_cases hy : y.1 = k <;> simp [hy, hk]
  unfold setSeal
  cases x with
  | none => exact rest
  | some v =>
    dsimp only
    rw [find?_insertSeal absent, rest]
    split <;> rfl

theorem find?_filter_garbled {α : Type} (l : List (Nat × α)) (sec k : Nat) :
    ((l.filter (fun x => x.1 != sec)).find? (fun x => x.1 == k)).map Prod.snd
      = if k = sec then none else (l.find? (fun x => x.1 == k)).map Prod.snd := by
  rw [List.find?_filter]
  split
  · next hk => simp [hk]
  · next hk =>
    congr 2
    funext y
    by_cases hy : y.1 = k <;> simp [hy, hk]

/-- A sector's bytes stand under the key, and the L2 holds no copy garbled by another. -/
def State.Fits (s : State) (key : Option Nat) (sec : Nat) : Prop := key = s.sealOf sec ∧ s.garble? sec = none

theorem State.rawPut_seals (s : State) (pa : Nat) (l : List Byte) :
    (s.rawPut pa l).seals = s.seals ∧ (s.rawPut pa l).garbled = s.garbled ∧ (s.rawPut pa l).errs = s.errs := by
  unfold State.rawPut
  split <;> exact ⟨rfl, rfl, rfl⟩

/-- A store under a key leaves its sector under that key, and every sector that was. -/
theorem State.sealSector_fits (key : Option Nat) (pa n : Nat) (s : State) (sec k : Nat) (h : k = sec ∨ s.Fits key k) :
    (State.sealSector key pa n s sec).Fits key k := by
  unfold State.sealSector
  split
  · next fits =>
    obtain rfl | fits' := h
    · exact ⟨fits.1, Option.isNone_iff_eq_none.mp fits.2⟩
    · exact fits'
  · extract_lets s1
    have same : s1.seals = s.seals ∧ s1.garbled = s.garbled := by
      unfold s1
      split
      · exact ⟨rfl, rfl⟩
      · obtain ⟨seals, garbled, -⟩ := State.rawPut_seals s (sec * 32) ((List.range 32).map (fun i => s.byteAs key (sec * 32 + i)))
        exact ⟨seals, garbled⟩
    unfold State.Fits State.sealOf State.garble?
    simp only [same.1, same.2, find?_setSeal, find?_filter_garbled]
    by_cases hk : k = sec
    · simp [hk]
    · rw [if_neg hk, if_neg hk]
      exact h.resolve_left hk

theorem State.sealSector_errs (key : Option Nat) (pa n : Nat) (s : State) (sec : Nat) :
    (State.sealSector key pa n s sec).errs = s.errs := by
  unfold State.sealSector
  split
  · rfl
  · dsimp only
    split
    · rfl
    · exact (State.rawPut_seals s _ _).2.2

theorem State.sealFor_errs (s : State) (key : Option Nat) (pa n : Nat) : (s.sealFor key pa n).errs = s.errs := by
  unfold State.sealFor
  split
  · exact foldl_keeps (fun t => t.errs = s.errs) _ (fun t sec h => (State.sealSector_errs key pa n t sec).trans h) _ _ rfl
  · rfl

theorem foldl_sealSector_fits (key : Option Nat) (pa n : Nat) (l : List Nat) (s : State) (k : Nat) (h : k ∈ l ∨ s.Fits key k) :
    (l.foldl (State.sealSector key pa n) s).Fits key k := by
  induction l generalizing s with
  | nil => exact h.resolve_left List.not_mem_nil
  | cons sec rest ih =>
    refine ih _ ?_
    obtain member | fits := h
    · obtain rfl | later := List.mem_cons.mp member
      · exact .inr (State.sealSector_fits key pa n s k k (.inl rfl))
      · exact .inl later
    · exact .inr (State.sealSector_fits key pa n s sec k (.inr fits))

theorem State.fits_of_allPlain {s : State} {key : Option Nat} (h : s.allPlain key = true) (k : Nat) : s.Fits key k := by
  simp only [State.allPlain, Bool.and_eq_true, Option.isNone_iff_eq_none, List.isEmpty_iff] at h
  obtain ⟨⟨rfl, seals⟩, garbled⟩ := h
  simp [State.Fits, State.sealOf, State.garble?, seals, garbled]

theorem State.sealFor_sealed (s : State) (key : Option Nat) {pa n : Nat} (hp : pa < hbmTop) {k : Nat} (h : k ∈ sectorsOf pa n) :
    (s.sealFor key pa n).Fits key k := by
  unfold State.sealFor
  rw [physRegion_hbm hp]
  by_cases plain : s.allPlain key = true
  · simpa [plain] using State.fits_of_allPlain plain k
  · simpa [plain] using foldl_sealSector_fits key pa n _ s k (.inl h)

theorem State.Fits.of_l2Kept {s t : State} {key : Option Nat} {k : Nat} (h : s.Fits key k) (kept : L2Kept s t) : t.Fits key k := by
  obtain ⟨parts, l2, g, rfl, sub⟩ := kept
  refine ⟨h.1, ?_⟩
  have none := h.2
  simp only [State.garble?, Option.map_eq_none_iff, List.find?_eq_none] at none ⊢
  exact fun x hx => none x (sub.subset hx)

theorem mem_sectorsOf {pa n i : Nat} (h : i < n) : (pa + i) / 32 ∈ sectorsOf pa n := by
  unfold sectorsOf
  rw [if_neg (by omega), List.mem_range']
  exact ⟨(pa + i) / 32 - pa / 32, by omega, by omega⟩

/-- Under the key of every sector of a range, the bytes read are the physical bytes. -/
theorem State.bytesAs_of_fits {s : State} {key : Option Nat} {pa n : Nat} (h : ∀ sec ∈ sectorsOf pa n, s.Fits key sec) :
    s.bytesAs key pa n = s.physBytes pa n := by
  unfold State.bytesAs
  split
  · rfl
  · refine List.ext_getElem (by simp [State.physBytes_length]) fun i hi _ => ?_
    rw [List.getElem_map, List.getElem_range, State.physBytes_getElem]
    have inside : i < n := by simpa using hi
    obtain ⟨key_eq, clear⟩ := h _ (mem_sectorsOf inside)
    unfold State.byteAs
    rw [clear]
    simp [key_eq]

/-- A store into clean HBM, whatever its sectors were under before: its bytes stand there. -/
theorem State.physByte_physPut_inside {s : State} {v : Via} {pa i : Nat} {l : List Byte} (h : s.memOk = true)
    (he : s.errs = []) (ht : pa + l.length ≤ hbmTop) (hi : i < l.length) :
    (s.physPut v pa l).physByte (pa + i) = l[i] := by
  have hp : pa < hbmTop := by omega
  unfold State.physPut
  rw [State.flushFor_hbm s hp, (State.dirtyL2_same _ _ _ _).physByte]
  obtain ⟨p, marked⟩ := State.storeMarks_clean ((State.sealFor_errs s v.key pa l.length).trans he) pa l.length
  rw [marked, State.physByte_rawPut (s := { s.sealFor v.key pa l.length with poison := p }) (State.sealFor_memOk h) hp ht,
    dif_pos ⟨by omega, by omega⟩]
  simp only [Nat.add_sub_cancel_left]

theorem State.Fits.of_eq {s t : State} {key : Option Nat} {k : Nat} (h : s.Fits key k) (seals : t.seals = s.seals)
    (garbled : t.garbled = s.garbled) : t.Fits key k := by
  unfold State.Fits State.sealOf State.garble?
  rw [seals, garbled]
  exact h

theorem State.physPut_fits {s : State} {v : Via} {pa : Nat} {l : List Byte} (he : s.errs = []) (hp : pa < hbmTop) {k : Nat}
    (hk : k ∈ sectorsOf pa l.length) : (s.physPut v pa l).Fits v.key k := by
  unfold State.physPut
  rw [State.flushFor_hbm s hp]
  refine State.Fits.of_l2Kept ?_ (State.dirtyL2_l2Kept _ _ _ _)
  obtain ⟨p, marked⟩ := State.storeMarks_clean ((State.sealFor_errs s v.key pa l.length).trans he) pa l.length
  rw [marked]
  obtain ⟨seals, garbled, -⟩ := State.rawPut_seals { s.sealFor v.key pa l.length with poison := p } pa l
  exact (State.sealFor_sealed s v.key hp hk).of_eq seals garbled

theorem State.bytesAs_physPut {s : State} {v : Via} {pa : Nat} {l : List Byte} (h : s.memOk = true) (he : s.errs = [])
    (ht : pa + l.length ≤ hbmTop) : (s.physPut v pa l).bytesAs v.key pa l.length = l := by
  by_cases empty : l.length = 0
  · rw [List.eq_nil_of_length_eq_zero empty, State.bytesAs]
    split <;> rfl
  · rw [State.bytesAs_of_fits fun sec hs => State.physPut_fits he (by omega) hs]
    refine List.ext_getElem (State.physBytes_length _ _ _) fun i _ hi => ?_
    rw [State.physBytes_getElem, State.physByte_physPut_inside h he ht hi]

end Sys2Proof.Machine
end

section
/-! The device as a whole: sealed sectors, the reset state, worked words, and what a step runs. -/

namespace Sys2Proof.Machine
open Sys2Proof Sys2Proof.Claims

/-! ### Sealed sectors (19_trust.md R472) -/

theorem State.Fits.sees {s : State} {key : Option Nat} {sec : Nat} (h : s.Fits key sec) : s.sees key sec = true := by
  simp [State.sees, h.2, ← h.1]

theorem sectorsOf_sector (sec : Nat) : sectorsOf (sec * 32) 32 = [sec] := by
  have first : sec * 32 / 32 = sec := by omega
  have last : (sec * 32 + 32 - 1) / 32 - sec + 1 = 1 := by omega
  rw [sectorsOf, if_neg (by decide), first, last]
  rfl

theorem State.not_allPlain {s : State} {key : Option Nat} {sec : Nat} (h : key ≠ s.sealOf sec) : s.allPlain key = false := by
  by_contra plain
  exact h (State.fits_of_allPlain (Bool.not_eq_false _ ▸ plain) sec).1

/-- A read under a key that is not the sector's, with no copy in the L2, leaves what that key makes of it there. -/
theorem State.noteKey_garbles {s : State} {other : Option Nat} {sec : Nat} (hp : sec * 32 + 32 ≤ hbmTop)
    (clear : s.garble? sec = none) (differs : other ≠ s.sealOf sec) (absent : s.held? sec = none) :
    s.noteKey other (sec * 32) 32 = { s with garbled := (sec, other) :: s.garbled } := by
  unfold State.noteKey
  rw [physRegion_hbm (by omega), State.not_allPlain differs, sectorsOf_sector]
  simp [State.sees, clear, absent, differs]

theorem State.byteAs_of_other {s : State} {other : Option Nat} {sec k : Nat} (hp : sec * 32 + 32 ≤ hbmTop)
    (clear : s.garble? sec = none) (differs : other ≠ s.sealOf sec) (absent : s.held? sec = none) (hk : k < 32) :
    s.byteAs other (sec * 32 + k) = (s.filled other sec).getD k 0 := by
  have sector : (sec * 32 + k) / 32 = sec := by omega
  have offset : (sec * 32 + k) % 32 = k := by omega
  unfold State.byteAs
  rw [physRegion_hbm (by omega), sector, offset, clear]
  simp [differs, absent]

/-- Settles O59: a store seals its sectors under its key, a read under another key garbles the copy alone. -/
theorem encryptionRule : Obligations.EncryptionRule := fun s key other w pa n sec l => by
  refine ⟨fun m e ht => State.bytesAs_physPut m e ht, fun fits => ⟨State.bytesAs_of_fits fits, ?_, State.sealFor_fits fits⟩,
    fun none => ?_, fun k some => ?_, fun hp clear differs absent => ?_⟩
  · exact State.noteKey_fits fun sec hs => State.Fits.sees (fits sec hs)
  · rw [State.stored, none]
  · rw [State.stored, some]
  · rw [State.noteKey_garbles hp clear differs absent]
    refine ⟨by simp [State.garble?], rfl, fun _ => rfl, fun e k hk => ?_, fun o e k hk => ?_⟩
    · rw [State.byteAs_of_other hp clear differs absent hk, e]
      rfl
    · rw [State.byteAs_of_other hp clear differs absent hk, e]
      rfl

/-! ### The reset state (19_trust.md R465) -/

theorem State.reset_physByte (pa : Nat) : State.reset.physByte pa = 0 := by
  unfold State.physByte
  split <;> rfl

theorem State.reset_core (c : Nat) : State.reset.core c = Core.reset := by
  unfold State.core
  split
  · exact Vector.getElem_replicate _
  · rfl

/-- Settles O52, by evaluation of the reset state. -/
theorem resetState : Obligations.ResetState := by
  refine ⟨rfl, rfl, rfl, rfl, rfl, rfl, rfl, rfl, State.reset_physByte, fun c i h => ?_, rfl, rfl, ?_, ?_⟩
  · rw [State.reset_core]
    exact Vector.getElem_replicate h
  · decide +kernel
  · decide +kernel

/-! ### Worked words (02_encoding.md) -/

/-- Settles O54: the decoder evaluated on each word; the all-ones word for every second word. -/
theorem decodeWords : Obligations.DecodeWords := by
  refine ⟨?_, ?_, ?_, ?_, ?_, ?_, ?_, ?_, ?_, ?_, ?_, ?_, decode_allOnes, ?_, ?_, ?_, ?_⟩ <;> decide +kernel

/-! ### What a step runs (05_processes.md R129, 07_tiles.md R203) -/

theorem State.happen_of_choose {s : State} {a : Action} (h : s.choose s.queueUp s.draws = a) :
    s.happen = onNext ((s.drew.noteWaiting s.queueUp a).perform a) State.advance := by
  rw [State.happen, h]

theorem State.runCur_of_look {s u : State} {i : Instr} (h : s.lookAhead = (u, .instr i)) :
    s.runCur = if u.runsAtOnce i then u.retire (jumps i) (exec i { u with cur := u.cur.countRegion i })
      else .next (u.enterRob i) := by
  rw [State.runCur, h]
  rfl

theorem State.runsAtOnce_eq_true {s : State} {i : Instr} (scalar : takesEntry i = false) (alone : s.cur.rob = [])
    (free : s.cur.latch.sent = true → s.waitsForLatch i = false) : s.runsAtOnce i = true := by
  unfold State.runsAtOnce
  cases sent : s.cur.latch.sent with
  | false => simp [scalar, alone]
  | true => simp [scalar, alone, free sent]

theorem State.runsAtOnce_eq_false {s : State} {i : Instr}
    (h : takesEntry i = true ∨ s.cur.rob ≠ [] ∨ (s.cur.latch.sent = true ∧ s.waitsForLatch i = true)) :
    s.runsAtOnce i = false := by
  unfold State.runsAtOnce
  obtain tile | behind | ⟨sent, waits⟩ := h
  · simp [tile]
  · simp [behind]
  · simp [sent, waits]

theorem onNext_onNext (o : Host.Outcome State Fault Refusal) (f g : State → State) :
    onNext (onNext o f) g = onNext o (fun t => g (f t)) := by
  cases o <;> rfl

theorem step_of_issue {s : State} {c slot : Nat} {p : Proc} (due : s.charged.dueAction = none)
    (choice : s.charged.choose s.charged.queueUp s.charged.draws = .issue c)
    (chosen : (s.charged.drew.noteWaiting s.charged.queueUp (.issue c)).chosen c = some (slot, p)) :
    step s = onNext (((s.charged.drew.noteWaiting s.charged.queueUp (.issue c)).selectOn c slot p).runCur) State.advance := by
  rw [step, due]
  dsimp only
  rw [State.happen_of_choose choice, State.perform, State.issueOn, chosen]

theorem step_of_retire {s : State} {pid : Pid} (due : s.charged.dueAction = some (.retire pid)) :
    step s = (s.charged.switchTo pid).runHead := by
  rw [step, due]
  rfl

theorem State.runHead_of_rob {s : State} {r : RobEntry} {rest : List RobEntry} (h : s.cur.rob = r :: rest) :
    s.runHead =
      let v := { s with cur := { s.cur with
        early := r.early, copies := if r.tile then some r.copies else none, iw0 := r.iw0, iw1 := r.iw1, rob := rest
        stall := .none } }.readBy r
      onNext (v.retire (jumps r.instr) (exec r.instr v)) (fun t => t.updProc s.cur.pid (fun p =>
        { p with rob := if p.stays r.ip (jumps r.instr) then r :: p.rob else p.robAfter r p.rob })) := by
  rw [State.runHead, h]

theorem State.judge_of_decode {s : State} {w0 : Word32} {w1 : Option Word32} {i : Instr}
    (decoded : decode w0.toNat (w1.getD 0).toNat = some i) (unbroken : s.ibpHit = none) (open_ : masked s.curPart.feat w0 i = false)
    (allowed : s.cur.regionAllows i = true ∨ supervisorForm i = true ∧ s.cur.sup = false) : s.judge w0 w1 = .instr i := by
  have allows : (!(s.cur.regionAllows i || supervisorForm i && !s.cur.sup)) = false := by
    obtain inside | ⟨form, user⟩ := allowed
    · simp [inside]
    · simp [form, user]
  unfold State.judge
  rw [unbroken]
  dsimp only
  rw [decoded]
  dsimp only
  rw [open_, allows]
  rfl

theorem State.noteWalk_cached {s : State} {c : Nat} {p : Part} {va : Word} (h : (s.cachedLeaf c p va).isSome = true) :
    s.noteWalk c p va = s := by
  simp [State.noteWalk, h]

theorem State.cacheXlate_cached {s : State} {c : Nat} {p : Part} {va : Word} (h : (s.cachedLeaf c p va).isSome = true)
    (x : Xlated) : s.cacheXlate c p va x = s := by
  simp [State.cacheXlate, h]

theorem State.checkFetch_uncached {s : State} {c pa : Nat} (h : s.cachedWord c pa = none) : s.checkFetch c pa = s := by
  simp [State.checkFetch, h]

theorem State.flushFor_empty {s : State} (h : s.outbox = []) (pa : Nat) : s.flushFor pa = s := by
  simp [State.flushFor, h]

theorem L2Kept.bytesAs_plain {s t : State} (kept : L2Kept s t) (seals : s.seals = []) (garbled : s.garbled = []) (pa n : Nat) :
    t.bytesAs none pa n = t.physBytes pa n := by
  obtain ⟨parts, l2, g, rfl, sub⟩ := kept
  rw [garbled, List.sublist_nil] at sub
  exact if_pos (State.allPlain_none (s := { s with parts := parts, l2 := l2, garbled := g }) seals sub)

theorem SameMem.physBytes {s t : State} (h : SameMem s t) (pa n : Nat) : t.physBytes pa n = s.physBytes pa n := by
  refine List.ext_getElem (by simp only [State.physBytes_length]) fun i _ _ => ?_
  rw [State.physBytes_getElem, State.physBytes_getElem, h.physByte]

/-- A word that nothing caches is the bytes at its physical address, where nothing is marked or sealed. -/
theorem State.fetchWord_plain {s : State} {va : Word} {x : Xlated}
    (leaf : (s.cachedLeaf s.curCore s.curPart va).isSome = true)
    (at_ : s.xlate s.curCore s.curPart s.cur.sup va 4 .fetch = .ok x) (on : s.memOff s.curPart x.pa = false)
    (uncached : s.cachedWord s.curCore x.pa = none) (errs : s.errs = []) (seals : s.seals = []) (garbled : s.garbled = [])
    (out : s.outbox = []) (plain : x.leaf.getLsbD 59 = false) (clean : s.rangeBad x.pa 4 = false) :
    (s.fetchWord va).2 = .ok (BitVec.ofNat 32 (ofBytes (s.physBytes x.pa 4))) := by
  unfold State.fetchWord
  extract_lets c s0
  have same : s0 = s := State.noteWalk_cached leaf
  rw [same, at_]
  dsimp only
  rw [on, State.cacheXlate_cached leaf, State.checkFetch_uncached uncached, uncached, if_neg Bool.false_ne_true]
  dsimp only
  rw [State.flushFor_empty out, State.readRange_clean errs, clean, if_neg Bool.false_ne_true]
  have key : s.curPart.leafKey x.leaf = none := by
    rw [Part.leafKey, plain]
    rfl
  rw [key, State.noteKey_none seals garbled, (State.fillL2_l2Kept s _ x.pa 4).bytesAs_plain seals garbled,
    (State.fillL2_same s _ x.pa 4).physBytes]

/-- Settles O53, by the definition of a step and the lemmas on what is looked at and fetched. -/
theorem stepRunsDecoded : Obligations.StepRunsDecoded := by
  refine ⟨fun s c slot p => ?_, fun s pid r rest => ?_, fun s v w0 w1 i fetched decoded unbroken unmasked allowed => ?_,
    fun s va x => State.fetchWord_plain⟩
  · intro l v due choice chosen u i looked
    rw [step_of_issue due choice chosen, State.runCur_of_look looked]
    refine ⟨fun scalar alone free => ?_, fun behind => ?_⟩
    · rw [if_pos (State.runsAtOnce_eq_true scalar alone free), State.retire, onNext_onNext]
    · rw [State.runsAtOnce_eq_false behind, if_neg Bool.false_ne_true]
      rfl
  · intro u v due head
    rw [step_of_retire due, State.runHead_of_rob head]
    dsimp only
    rw [State.retire, onNext_onNext]
  · rw [State.look_of_fetch_words fetched, State.judge_of_decode (s := v.setWords w0 (w1.getD 0)) decoded unbroken unmasked allowed]

end Sys2Proof.Machine
end

section
/-! What the accesses of memory leave of the state: all but the memory's own bytes, marks and seals, the caches and the charges. -/

namespace Sys2Proof.Machine
open Sys2Proof Sys2Proof.Claims

/-! ### The state without its memory and caches -/

/-- A partition without its log's count and its buckets. -/
def Part.bare (p : Part) : Part := { p with logSeq := 0, buckets := Part.absent.buckets }

/-- A core without what its caches hold. -/
def Core.bare (k : Core) : Core := { k with l1d := [], icache := [], ibad := [], tcache := [], stlb := [] }

/-- A quad without its walks and their cache. -/
def Quad.bare (q : Quad) : Quad := { q with tcache := [], walks := [] }

/-- The state without the bytes, marks and seals of memory, without the caches, and without what an access charges and logs. -/
def State.bare (s : State) : State :=
  { s with
    mem := [], hostMem := [], peerMem := [], poison := [], errs := [], seals := [], l2 := [], garbled := [], outbox := []
    cores := s.cores.map Core.bare, quads := s.quads.map Quad.bare, parts := s.parts.map Part.bare }

section
variable {s t : State} (h : t.bare = s.bare)
include h

theorem State.cur_of_bare : t.cur = s.cur := by simpa [State.bare] using congrArg State.cur h

theorem State.procs_of_bare : t.procs = s.procs := by simpa [State.bare] using congrArg State.procs h

theorem State.cells_of_bare : t.cells = s.cells := by simpa [State.bare] using congrArg State.cells h

theorem State.entries_of_bare : t.entries = s.entries := by simpa [State.bare] using congrArg State.entries h

theorem State.pages_of_bare : t.pages = s.pages := by simpa [State.bare] using congrArg State.pages h

theorem State.cycle_of_bare : t.cycle = s.cycle := by simpa [State.bare] using congrArg State.cycle h

theorem State.host_of_bare : t.host = s.host := by simpa [State.bare] using congrArg State.host h

theorem State.dies_of_bare : t.dies = s.dies := by simpa [State.bare] using congrArg State.dies h

theorem State.rd_of_bare (r : SReg) : t.rd r = s.rd r := by simp [State.rd, State.cur_of_bare h]

theorem State.curCore_of_bare : t.curCore = s.curCore := by simp [State.curCore, State.cur_of_bare h]

end

theorem State.foldl_bare {α : Type} {f : State → α → State} (hf : ∀ s a, (f s a).bare = s.bare) (l : List α)
    (s : State) : (l.foldl f s).bare = s.bare :=
  foldl_keeps (fun t : State => t.bare = s.bare) f (fun t a h => (hf t a).trans h) l s rfl

theorem State.updPart_bare {f : Part → Part} (hf : ∀ p, (f p).bare = p.bare) (s : State) (n : Nat) :
    (s.updPart n f).bare = s.bare := by
  have parts : (s.updPart n f).parts.map Part.bare = s.parts.map Part.bare := by
    simp only [State.updPart, List.map_map, List.map_inj_left]
    intro p _
    simp only [Function.comp]
    split
    · exact hf p
    · rfl
  simp only [State.bare, parts]
  rfl

theorem Vector.map_set_same {α : Type} {n i : Nat} {g : α → α} (v : Vector α n) (h : i < n) {y : α} (same : g y = g v[i]) :
    (v.set i y).map g = v.map g := by
  ext j hj
  by_cases hij : i = j
  · subst hij
    simpa using same
  · simp [hij]

theorem State.updCore_bare {f : Core → Core} (hf : ∀ k, (f k).bare = k.bare) (s : State) (c : Nat) :
    (s.updCore c f).bare = s.bare := by
  unfold State.updCore
  split
  next hc => simp only [State.bare, Vector.map_set_same s.cores hc (hf _)]
  next => rfl

theorem State.updQuad_bare {f : Quad → Quad} (hf : ∀ k, (f k).bare = k.bare) (s : State) (q : Nat) :
    (s.updQuad q f).bare = s.bare := by
  unfold State.updQuad
  split
  next hq => simp only [State.bare, Vector.map_set_same s.quads hq (hf _)]
  next => rfl

/-! ### Seals, marks and the error log -/

@[simp] theorem State.rawPut_bare (s : State) (pa : Nat) (l : List Byte) : (s.rawPut pa l).bare = s.bare := by
  unfold State.rawPut
  split <;> rfl

@[simp] theorem State.rawZero_bare (s : State) (pa n : Nat) : (s.rawZero pa n).bare = s.bare := by
  unfold State.rawZero
  split <;> rfl

@[simp] theorem State.wholeMarks_bare (s : State) (pa n : Nat) : (s.wholeMarks pa n).bare = s.bare := rfl

@[simp] theorem State.noteKey_bare (s : State) (key : Option Nat) (pa n : Nat) :
    (s.noteKey key pa n).bare = s.bare := by
  unfold State.noteKey
  split
  · exact State.foldl_bare (fun s sec => by split <;> rfl) _ _
  · rfl

theorem State.sealSector_bare (key : Option Nat) (pa n : Nat) (s : State) (sec : Nat) :
    (State.sealSector key pa n s sec).bare = s.bare := by
  unfold State.sealSector
  split
  · rfl
  · dsimp only
    split
    · rfl
    · exact State.rawPut_bare s _ _

@[simp] theorem State.sealFor_bare (s : State) (key : Option Nat) (pa n : Nat) :
    (s.sealFor key pa n).bare = s.bare := by
  unfold State.sealFor
  split
  · exact State.foldl_bare (State.sealSector_bare key pa n) _ _
  · rfl

@[simp] theorem State.logEntry_bare (s : State) (part a b c : Nat) : (s.logEntry part a b c).bare = s.bare := by
  unfold State.logEntry
  split
  · rfl
  · dsimp only
    rw [State.updPart_bare]
    · rw [State.rawPut_bare, State.rawPut_bare, State.wholeMarks_bare, State.sealFor_bare]
    · exact fun _ => rfl

@[simp] theorem State.logMemory_bare (s : State) (source kind pa : Nat) :
    (s.logMemory source kind pa).bare = s.bare := by
  unfold State.logMemory
  split <;> simp

@[simp] theorem State.logAll_bare (s : State) (a b c : Nat) : (s.logAll a b c).bare = s.bare :=
  State.foldl_bare (fun s (p : Part) => State.logEntry_bare s p.num a b c) _ _

@[simp] theorem State.readSector_bare (s : State) (sec : Nat) : (s.readSector sec).bare = s.bare := by
  unfold State.readSector
  split
  · rfl
  · split
    · rfl
    · dsimp only
      split <;> exact State.logMemory_bare _ _ _ _

@[simp] theorem State.readRange_bare (s : State) (pa n : Nat) : (s.readRange pa n).bare = s.bare := by
  unfold State.readRange
  split
  · exact State.foldl_bare State.readSector_bare _ _
  · rfl

theorem State.storeSector_bare (pa n : Nat) (s : State) (sec : Nat) :
    (State.storeSector pa n s sec).bare = s.bare := by
  unfold State.storeSector
  split
  · rfl
  · exact State.readSector_bare s sec

@[simp] theorem State.storeMarks_bare (s : State) (pa n : Nat) : (s.storeMarks pa n).bare = s.bare := by
  unfold State.storeMarks
  split
  · exact State.foldl_bare (State.storeSector_bare pa n) _ _
  · rfl

/-! ### The L2 and the stores handed to a link -/

@[simp] theorem State.oweSector_bare (s : State) (p : Option Part) : (s.oweSector p).bare = s.bare := by
  unfold State.oweSector
  split
  · rfl
  · split
    · rfl
    · unfold State.updBucket
      exact State.updPart_bare (fun _ => by rfl) _ _

@[simp] theorem State.evictLine_bare (s : State) (l : L2Line) : (s.evictLine l).bare = s.bare :=
  State.foldl_bare (fun s _ => State.oweSector_bare s _) _ _

@[simp] theorem State.roomInSet_bare (s : State) (h : Hint) (line : Nat) :
    (s.roomInSet h line).bare = s.bare := by
  unfold State.roomInSet
  dsimp only
  repeat' split
  all_goals simp

@[simp] theorem State.holdSector_bare (s : State) (h : Hint) (x : L2Sector) :
    (s.holdSector h x).bare = s.bare := by
  unfold State.holdSector
  split
  · rfl
  · exact State.roomInSet_bare s h _

@[simp] theorem State.fillL2_bare (s : State) (v : Via) (pa n : Nat) : (s.fillL2 v pa n).bare = s.bare := by
  unfold State.fillL2
  split
  · refine State.foldl_bare (fun s sec => ?_) _ _
    split <;> simp
  · rfl

@[simp] theorem State.dirtyL2_bare (s : State) (v : Via) (pa n : Nat) : (s.dirtyL2 v pa n).bare = s.bare := by
  unfold State.dirtyL2
  split
  · refine State.foldl_bare (fun s sec => ?_) _ _
    dsimp only
    split <;> simp
  · rfl

@[simp] theorem State.dropL2_bare (s : State) (pa n : Nat) : (s.dropL2 pa n).bare = s.bare := rfl

theorem State.arrive_bare (s : State) (o : OutStore) : (s.arrive o).bare = s.bare := by
  unfold State.arrive
  repeat' split
  all_goals simp

@[simp] theorem State.flushFor_bare (s : State) (pa : Nat) : (s.flushFor pa).bare = s.bare := by
  unfold State.flushFor
  split
  · rfl
  · exact State.foldl_bare State.arrive_bare _ _

@[simp] theorem State.physPut_bare (s : State) (v : Via) (pa : Nat) (l : List Byte) :
    (s.physPut v pa l).bare = s.bare := by
  simp [State.physPut]

@[simp] theorem State.physZero_bare (s : State) (key : Option Nat) (pa n : Nat) :
    (s.physZero key pa n).bare = s.bare := by
  simp [State.physZero]

@[simp] theorem State.noteRead_bare (s : State) (v : Via) (pa n : Nat) : (s.noteRead v pa n).bare = s.bare := by
  simp [State.noteRead]

/-! ### Walks and the supervisor's areas -/

@[simp] theorem State.readNodes_bare (s : State) (p : Part) (va : Word) : (s.readNodes p va).bare = s.bare := by
  unfold State.readNodes
  split
  · exact State.foldl_bare (fun s a => State.noteRead_bare s _ a 8) _ _
  · rfl

@[simp] theorem State.prefetch_bare (s : State) (p : Part) (level : Nat) (leaf : Word) (x : Prefetch) :
    (s.prefetch p level leaf x).bare = s.bare := by
  unfold State.prefetch
  dsimp only
  split <;> simp

@[simp] theorem State.finishWalk_bare (s : State) (quad : Nat) (w : Walk) :
    (s.finishWalk quad w).bare = s.bare := by
  unfold State.finishWalk
  dsimp only
  split
  · rw [State.updQuad_bare (fun _ => by rfl), State.readNodes_bare]
  · rw [State.foldl_bare (fun s x => State.prefetch_bare s _ _ _ x)]
    split
    · rw [State.updQuad_bare (fun _ => by rfl), State.readNodes_bare]
    · rw [State.updQuad_bare (fun _ => by rfl), State.updQuad_bare (fun _ => by rfl), State.readNodes_bare]

@[simp] theorem State.freeWalker_bare (s : State) (quad : Nat) : (s.freeWalker quad).bare = s.bare :=
  State.foldl_bare (fun s w => State.finishWalk_bare s quad w) _ _

@[simp] theorem State.noteWalk_bare (s : State) (c : Nat) (p : Part) (va : Word) :
    (s.noteWalk c p va).bare = s.bare := by
  unfold State.noteWalk
  dsimp only
  repeat' split
  all_goals simp
@[simp] theorem State.noteAccess_bare (s : State) (x : Word) (ok : Bool) : (s.noteAccess x ok).bare = s.bare := by
  unfold State.noteAccess
  split <;> simp

@[simp] theorem State.cacheXlate_bare (s : State) (c : Nat) (p : Part) (va : Word) (x : Xlated) :
    (s.cacheXlate c p va x).bare = s.bare := by
  unfold State.cacheXlate
  split
  · rfl
  · dsimp only
    rw [State.updQuad_bare (fun _ => by rfl), State.updCore_bare (fun _ => by rfl)]

end Sys2Proof.Machine
end

section
/-! Translation and the checks of a scalar access (11_memory.md R293, 14_translation.md): what traps, and what an access that
passes leaves. -/

namespace Sys2Proof.Machine
open Sys2Proof Sys2Proof.Claims

theorem SameMem.bytes {s t : State} (h : SameMem s t) : SameBytes s t := fun pa => h.physByte pa

@[simp] theorem Except.ok_bind {ε α β : Type} (a : α) (f : α → Except ε β) : (Except.ok a >>= f) = f a := rfl

@[simp] theorem Except.error_bind {ε α β : Type} (e : ε) (f : α → Except ε β) : (Except.error e >>= f) = .error e := rfl

@[simp] theorem Except.map_ok' {ε α β : Type} (a : α) (f : α → β) : f <$> (Except.ok a : Except ε α) = .ok (f a) := rfl

@[simp] theorem Except.map_error' {ε α β : Type} (e : ε) (f : α → β) : f <$> (Except.error e : Except ε α) = .error e := rfl

@[simp] theorem trapIf_false (c : Cause) (a : Word) : trapIf false c a = .ok () := rfl

@[simp] theorem trapIf_true (c : Cause) (a : Word) : trapIf true c a = .error (.trap (.at c a)) := rfl

@[simp] theorem asTrap_ok {α : Type} (a : α) : asTrap (.ok a) = .ok a := rfl

@[simp] theorem asTrap_error {α : Type} (t : TrapInfo) : asTrap (.error t : Except TrapInfo α) = .error (.trap t) := rfl

theorem aligned_eq_true {x : Word} {z : Nat} : aligned x z = true ↔ x.toNat % z = 0 := by simp [aligned]

theorem aligned_eq_false {x : Word} {z : Nat} : aligned x z = false ↔ x.toNat % z ≠ 0 := by simp [aligned]

theorem asTrap_eq_ok {α : Type} {r : Except TrapInfo α} {a : α} : asTrap r = .ok a ↔ r = .ok a := by
  cases r <;> simp [asTrap]

/-! ### Translation -/

theorem State.noteAccess_misaligned (s : State) {x : Word} {z : Nat} (h : x.toNat % z ≠ 0) :
    s.noteAccess x (aligned x z) = s := by simp [State.noteAccess, aligned_eq_false.2 h]

theorem State.noteAccess_aligned (s : State) {x : Word} {z : Nat} (h : x.toNat % z = 0) :
    s.noteAccess x (aligned x z) = atAccess s x := by rw [aligned_eq_true.2 h, atAccess]

/-- A quotient by the size of a space says whether an address lies outside it. -/
theorem div_ne_zero_iff_le {m n : Nat} (hm : 0 < m) : n / m ≠ 0 ↔ m ≤ n := by
  rw [Ne, Nat.div_eq_zero_iff]
  omega

/-- An address outside the space makes no walk. -/
theorem State.noteWalk_outside (s : State) (c : Nat) (p : Part) {x : Word} (h : 2 ^ 52 ≤ x.toNat) : s.noteWalk c p x = s := by
  have outside : (x.toNat / 2 ^ 52 != 0) = true := bne_iff_ne.2 ((div_ne_zero_iff_le (by norm_num)).2 h)
  rw [State.noteWalk, outside, Bool.or_true, if_pos rfl]

theorem State.noteAccess_outside (s : State) {x : Word} (ok : Bool) (h : 2 ^ 52 ≤ x.toNat) : s.noteAccess x ok = s := by
  unfold State.noteAccess
  split
  · exact s.noteWalk_outside _ _ h
  · rfl

theorem State.xlate_outside (s : State) (c : Nat) (p : Part) (sup : Bool) {x : Word} (n : Nat) (k : Access)
    (h : 2 ^ 52 ≤ x.toNat) : s.xlate c p sup x n k = .error (.at .gprot x) :=
  if_pos ((div_ne_zero_iff_le (by norm_num)).2 h)

theorem State.scalarXlate_misaligned (s : State) {x : Word} {z : Nat} (k : Access) (h : x.toNat % z ≠ 0) :
    s.scalarXlate x z k = .error (.trap (.at .misalign x)) := by
  simp [State.scalarXlate, aligned_eq_false.2 h]

theorem State.scalarXlate_outside (s : State) {x : Word} {z : Nat} (k : Access) (h : x.toNat % z = 0) (far : 2 ^ 52 ≤ x.toNat) :
    s.scalarXlate x z k = .error (.trap (.at .gprot x)) := by
  simp [State.scalarXlate, aligned_eq_true.2 h, State.xlate_outside s _ _ _ _ _ far]

/-- A scalar access translates where it is aligned, its leaf allows it and its home is reachable; its leaf is then cached. -/
theorem State.scalarXlate_eq_ok {s u : State} {x : Word} {z : Nat} {k : Access} {pa : Nat} :
    s.scalarXlate x z k = .ok (u, pa) ↔
      x.toNat % z = 0 ∧ ∃ r, s.xlate s.curCore s.curPart s.cur.sup x z k = .ok r ∧ s.memOff s.curPart r.pa = false
        ∧ u = s.cacheXlate s.curCore s.curPart x r ∧ pa = r.pa := by
  rw [← aligned_eq_true]
  unfold State.scalarXlate
  cases aligned x z
  case false => simp
  case true =>
    cases s.xlate s.curCore s.curPart s.cur.sup x z k with
    | error t => simp
    | ok r => cases hm : s.memOff s.curPart r.pa <;> simp [hm, eq_comm (a := u), eq_comm (a := pa)]

theorem passes_bare {s u : State} {x : Word} {z : Nat} {k : Access} {pa : Nat} (h : Passes s x z k u pa) : u.bare = s.bare := by
  obtain ⟨-, translated⟩ := h
  obtain ⟨-, r, -, -, rfl, -⟩ := State.scalarXlate_eq_ok.1 translated
  exact (State.cacheXlate_bare _ _ _ _ _).trans (State.noteAccess_bare _ _ _)

/-- R293: LD and ST run on the state after translation. -/
theorem passes_scalarXlate {s u : State} {x : Word} {z : Nat} {k : Access} {pa : Nat} (h : Passes s x z k u pa) :
    (s.noteAccess x (aligned x z)).scalarXlate x z k = .ok (u, pa) := by
  obtain ⟨aligned, translated⟩ := h
  rw [State.noteAccess_aligned s aligned, translated]

/-! ### The key of a translated page -/

theorem State.cacheXlate_curPart (s : State) (c : Nat) (p : Part) (va : Word) (x : Xlated) :
    (s.cacheXlate c p va x).curPart = s.curPart := by
  unfold State.cacheXlate
  split
  · rfl
  · simp [State.curPart, State.part, State.part?]

theorem State.find?_cached {l : List TEntry} {n : Nat} {e : TEntry} {asid : BitVec 12} {va : Word} (hn : 0 < n)
    (h : e.covers asid va = true) : ((e :: l).take n).find? (fun e => e.covers asid va) = some e := by
  obtain ⟨m, rfl⟩ := Nat.exists_eq_succ_of_ne_zero (Nat.ne_of_gt hn)
  simp [h]

/-- The leaf that an access translated by is the one its page has afterwards. -/
theorem State.keyAt_of_xlate {s : State} {c : Nat} {p : Part} {sup : Bool} {va : Word} {n : Nat} {k : Access} {r : Xlated}
    (h : s.xlate c p sup va n k = .ok r) : s.keyAt c p va = p.leafKey r.leaf := by
  unfold State.xlate at h
  unfold State.keyAt
  split at h
  · cases h
  · cases hc : s.cachedLeaf c p va with
    | some e =>
      simp only [hc] at h ⊢
      cases hl : p.checkLeaf sup va n k (leafAddr e.level e.leaf va) e.leaf <;> simp [hl] at h
      rw [← h]
    | none =>
      simp only [hc] at h ⊢
      cases hw : s.walk p va with
      | error t => simp [hw] at h
      | ok w =>
        obtain ⟨level, leaf⟩ := w
        simp only [hw] at h ⊢
        split at h
        · cases h
        · cases hl : p.checkLeaf sup va n k (leafAddr level leaf va) leaf <;> simp [hl] at h
          rw [← h]

end Sys2Proof.Machine
end

section
/-! What LD, ST, PLD and PST trap on, and the requests of the AMO forms and of regions (11_memory.md R293, R307 to R311). -/

namespace Sys2Proof.Machine
open Sys2Proof Sys2Proof.Claims

/-! ### The checks of a scalar access -/

theorem sizeBytes_pos (sz : Size) : 0 < Size.bytes sz := by cases sz <;> decide

theorem exec_ld_of_trap {s : State} {d a : SReg} {sz : Size} {off : BitVec 12} {t : TrapInfo}
    (unmoved : s.noteAccess (s.effAddr a off) (aligned (s.effAddr a off) (Size.bytes sz)) = s)
    (h : s.scalarXlate (s.effAddr a off) (Size.bytes sz) .read = .error (.trap t)) :
    exec (.ld d a sz off) s = .next (s.takeTrap t) := by
  change execLd d a sz off s = _
  simp only [execLd, unmoved, h, State.halt]

theorem exec_st_of_trap {s : State} {d a : SReg} {sz : Size} {off : BitVec 12} {t : TrapInfo}
    (unmoved : s.noteAccess (s.effAddr a off) (aligned (s.effAddr a off) (Size.bytes sz)) = s)
    (h : s.scalarXlate (s.effAddr a off) (Size.bytes sz) .write = .error (.trap t)) :
    exec (.st d a sz off) s = .next (s.takeTrap t) := by
  change execSt d a sz off s = _
  simp only [execSt, unmoved, h, Except.error_bind, State.finish_error, State.halt]

theorem exec_pld_of_trap {s : State} {d a : SReg} {sz : Size} {off : BitVec 12} {t : TrapInfo}
    (h : s.spAccess (s.effAddr a off) (Size.bytes sz) false = .error (.trap t)) :
    exec (.pld d a sz off) s = .next (s.takeTrap t) := by
  change execPld d a sz off s = _
  simp only [execPld, State.onPad, h, State.halt]

theorem exec_pst_of_trap {s : State} {d a : SReg} {sz : Size} {off : BitVec 12} {t : TrapInfo}
    (h : s.spAccess (s.effAddr a off) (Size.bytes sz) true = .error (.trap t)) :
    exec (.pst d a sz off) s = .next (s.takeTrap t) := by
  change execPst d a sz off s = _
  simp only [execPst, State.onPad, h, State.halt]

theorem State.spAccess_misaligned (s : State) {x : Word} {z : Nat} (store : Bool) (h : x.toNat % z ≠ 0) :
    s.spAccess x z store = .error (.trap (.at .misalign x)) := by
  simp [State.spAccess, aligned_eq_false.2 h]

theorem State.spAccess_outside (s : State) {x : Word} {z : Nat} (store : Bool) (h : x.toNat % z = 0) (far : 2 ^ 24 ≤ x.toNat) :
    s.spAccess x z store = .error (.trap (.at .spfault x)) := by
  have outside : (x.toNat / 2 ^ 24 != 0) = true := bne_iff_ne.2 ((div_ne_zero_iff_le (by norm_num)).2 far)
  simp only [State.spAccess, aligned_eq_true.2 h, outside, Bool.not_true, trapIf_false, trapIf_true, Except.ok_bind,
    Except.error_bind]

/-- Settles O10: each check is the first that the access meets. -/
theorem scalarAccessTraps : Obligations.ScalarAccessTraps := by
  intro s d a sz off x
  refine ⟨fun h => ?_, fun h far => ?_, fun h far => ?_⟩
  · have unmoved := s.noteAccess_misaligned h
    exact ⟨exec_ld_of_trap unmoved (s.scalarXlate_misaligned _ h), exec_st_of_trap unmoved (s.scalarXlate_misaligned _ h),
      exec_pld_of_trap (s.spAccess_misaligned _ h), exec_pst_of_trap (s.spAccess_misaligned _ h)⟩
  · have unmoved := s.noteAccess_outside (aligned x (Size.bytes sz)) far
    exact ⟨exec_ld_of_trap unmoved (s.scalarXlate_outside _ h far), exec_st_of_trap unmoved (s.scalarXlate_outside _ h far)⟩
  · exact ⟨exec_pld_of_trap (s.spAccess_outside _ h far), exec_pst_of_trap (s.spAccess_outside _ h far)⟩

/-! ### The key of a page that translated -/

/-- The entry of the caches that a translation makes. -/
def Xlated.entry (x : Xlated) (p : Part) (va : Word) : TEntry :=
  { asid := p.asid, level := x.level, vpn := va.toNat / 2 ^ pageBits x.level, leaf := x.leaf }

theorem Xlated.find?_entry {l : List TEntry} {n : Nat} (x : Xlated) (p : Part) (va : Word) (hn : 0 < n) :
    ((x.entry p va :: l).take n).find? (fun e => e.covers p.asid va) = some (x.entry p va) :=
  State.find?_cached hn (by simp [TEntry.covers, Xlated.entry])

theorem State.cacheXlate_uncached {s : State} {c : Nat} {p : Part} {va : Word} (h : s.cachedLeaf c p va = none) (x : Xlated) :
    s.cacheXlate c p va x = (s.updCore c (fun k => { k with tcache := (x.entry p va :: k.tcache).take 128 })).updQuad (s.quadOf c)
      (fun q => { q with tcache := (x.entry p va :: q.tcache).take 2048 }) := by
  simp only [State.cacheXlate, h]
  rfl

theorem State.updQuad_core (s : State) (q : Nat) (f : Quad → Quad) (c : Nat) : (s.updQuad q f).core c = s.core c := by
  simp [State.core]

/-- A core that the device does not have is in quad 0. -/
theorem State.quadOf_absent (s : State) {c : Nat} (h : ¬ c < 90) : s.quadOf c = 0 := by
  simp [State.quadOf, State.core, h, Core.reset]

theorem State.cachedLeaf_cacheXlate {s : State} {c : Nat} {p : Part} {va : Word} (h : s.cachedLeaf c p va = none) (x : Xlated) :
    (s.cacheXlate c p va x).cachedLeaf c p va = some (x.entry p va) := by
  rw [State.cacheXlate_uncached h, State.cachedLeaf, State.updQuad_core]
  by_cases core : c < 90
  · rw [State.core_updCore _ _ _ core, Xlated.find?_entry x p va (by decide)]
  · have absent (t : State) : (t.core c).tcache = [] := by simp [State.core, core, Core.reset]
    rw [absent, State.quadOf_absent s core, State.quadOf_absent _ core, State.quad_updQuad _ _ _ (by decide)]
    exact Xlated.find?_entry x p va (by decide)

theorem State.cacheXlate_keyAt {s : State} {c : Nat} {p : Part} {sup : Bool} {va : Word} {n : Nat} {k : Access} {r : Xlated}
    (h : s.xlate c p sup va n k = .ok r) : (s.cacheXlate c p va r).keyAt c p va = p.leafKey r.leaf := by
  cases hc : s.cachedLeaf c p va with
  | some e =>
    rw [State.cacheXlate_cached (by rw [hc]; rfl)]
    exact State.keyAt_of_xlate h
  | none =>
    rw [State.keyAt, State.cachedLeaf_cacheXlate hc]
    rfl

/-! ### The requests of AMO and ALE, and the region that ALB opens -/

/-- A note of an access for the affinity count changes nothing else. -/
theorem Proc.noteReach_eq (p : Proc) (cycle : Word) (core pa : Nat) : ∃ acc, p.noteReach cycle core pa = { p with acc := acc } := by
  unfold Proc.noteReach
  split
  · exact ⟨_, rfl⟩
  · exact ⟨p.acc, rfl⟩

section
variable (s : State) (pa : Nat)

@[simp] theorem State.noteReach_ip : (s.noteReach pa).cur.ip = s.cur.ip := by
  obtain ⟨acc, h⟩ := s.cur.noteReach_eq s.cycle s.curCore pa
  simp [State.noteReach, h]

@[simp] theorem State.noteReach_latch : (s.noteReach pa).cur.latch = s.cur.latch := by
  obtain ⟨acc, h⟩ := s.cur.noteReach_eq s.cycle s.curCore pa
  simp [State.noteReach, h]

@[simp] theorem State.noteReach_region : (s.noteReach pa).cur.region = s.cur.region := by
  obtain ⟨acc, h⟩ := s.cur.noteReach_eq s.cycle s.curCore pa
  simp [State.noteReach, h]

@[simp] theorem State.noteReach_s : (s.noteReach pa).cur.s = s.cur.s := by
  obtain ⟨acc, h⟩ := s.cur.noteReach_eq s.cycle s.curCore pa
  simp [State.noteReach, h]

@[simp] theorem State.noteReach_curCore : (s.noteReach pa).curCore = s.curCore := by
  obtain ⟨acc, h⟩ := s.cur.noteReach_eq s.cycle s.curCore pa
  change (s.cur.noteReach s.cycle s.curCore pa).core = _
  rw [h]
  rfl

@[simp] theorem State.noteReach_curPart : (s.noteReach pa).curPart = s.curPart := by
  obtain ⟨acc, h⟩ := s.cur.noteReach_eq s.cycle s.curCore pa
  change s.part (s.cur.noteReach s.cycle s.curCore pa).part = _
  rw [h]
  rfl

@[simp] theorem State.noteReach_rd (r : SReg) : (s.noteReach pa).rd r = s.rd r := by simp [State.rd, Proc.rd]

end

theorem State.watchAt_ok {s : State} {x : Word} {n : Nat} {load store : Bool}
    (h : s.watchHit x.toNat (x.toNat + n - 1) load store = none) : s.watchAt x n load store = .ok () := by
  simp [State.watchAt, State.watch, h]

theorem exec_amo {p : AmoOp × (SReg → SReg → SReg → Bool → Scope → Instr)}
    (h : p ∈ [(AmoOp.add, Instr.aadd), (.and, .aand), (.or, .aor), (.xor, .axor), (.min, .amin), (.max, .amax),
      (.minn, .aminn), (.maxn, .amaxn), (.swp, .aswp), (.cas, .acas)]) (d a b : SReg) (narrow : Bool) (sc : Scope) (s : State) :
    exec (p.2 d a b narrow sc) s = s.amo p.1 d a b narrow sc := by
  simp only [List.mem_cons, List.not_mem_nil, or_false] at h
  obtain rfl | rfl | rfl | rfl | rfl | rfl | rfl | rfl | rfl | rfl := h <;> rfl

/-- A sent request leaves the registers. -/
@[simp] theorem State.sendAtomic_rd (s : State) (kind : BitVec 2) (va : Word) (req : AtomReq) (r : SReg) :
    (s.sendAtomic kind va req).rd r = s.rd r := rfl

/-- The state after an AMO whose page translated by r. -/
def State.amoSent (u : State) (op : AmoOp) (d b : SReg) (narrow : Bool) (sc : Scope) (x : Word) (r : Xlated) : State :=
  let s1 := u.cacheXlate u.curCore u.curPart x r
  ((s1.sendAtomic 1 x (.amo op narrow sc d (s1.rd b) (s1.rd d) r.pa)).noteReach r.pa).next 4

theorem State.amo_eq {s u : State} {op : AmoOp} {d a b : SReg} {narrow : Bool} {sc : Scope} {r : Xlated} {z : Nat}
    (size : (if narrow then 4 else 8) = z) (noted : s.noteAccess (s.rd a) true = u)
    (fits : aligned (s.rd a) z = true) (translated : u.xlate u.curCore u.curPart u.cur.sup (s.rd a) z .modify = .ok r)
    (scope : (sc != .sys && physRegion r.pa != .hbm) = false) (on : u.memOff u.curPart r.pa = false)
    (unwatched : u.watchAt (s.rd a) z true true = .ok ()) (empty : u.cur.latch.sent = false) :
    s.amo op d a b narrow sc = .next (u.amoSent op d b narrow sc (s.rd a) r) := by
  simp [State.amo, size, noted, fits, translated, scope, on, unwatched, empty, State.amoSent, pure, Except.pure]

/-- Settles O12: the state after the checks sends the request, and the reply is to come. -/
theorem amoRequest : Obligations.AmoRequest := by
  intro p hp s d a b narrow sc r x z u fits translated scope on unwatched empty
  have bare : u.bare = s.bare := State.noteAccess_bare s x true
  have cached : (u.cacheXlate u.curCore u.curPart x r).bare = s.bare := (State.cacheXlate_bare _ _ _ _ _).trans bare
  have latch : u.cur.latch.sent = false := by rw [State.cur_of_bare bare, empty]
  have region : (sc != .sys && physRegion r.pa != .hbm) = false := by
    obtain h | h := scope <;> simp [h]
  have cur := State.cur_of_bare cached
  have core : (u.cacheXlate u.curCore u.curPart x r).curCore = u.curCore :=
    (State.curCore_of_bare cached).trans (State.curCore_of_bare bare).symm
  refine ⟨u.amoSent p.1 d b narrow sc x r, ?_, ?_, ?_, ?_, ?_⟩
  · rw [exec_amo hp]
    exact State.amo_eq rfl rfl (aligned_eq_true.2 fits) translated region on
      (State.watchAt_ok unwatched) latch
  · simp [State.amoSent, State.sendAtomic, cur]
  · simp only [State.amoSent, State.next, State.noteReach_latch, State.sendAtomic]
    rw [core, State.cacheXlate_curPart, State.cacheXlate_keyAt translated, cur, State.rd_of_bare cached,
      State.rd_of_bare cached, State.curCore_of_bare bare]
  · intro q
    simp [State.amoSent, State.rd_of_bare cached]
  · exact ((((State.cacheXlate_same u _ _ _ _).trans (State.sendAtomic_same _ _ _ _)).trans (State.noteReach_same _ _)).trans
      (State.next_same _ 4)).bytes

end Sys2Proof.Machine
end

section
/-! Reads of memory that holds no marked error, under the key it is written with: what they leave, and the watchpoints and
lasting errors that they meet. -/

namespace Sys2Proof.Machine
open Sys2Proof Sys2Proof.Claims

section
variable {s t : State} (h : t.bare = s.bare)
include h

theorem State.part_of_bare (n : Nat) : (t.part n).bare = (s.part n).bare := by
  have parts : t.parts.map Part.bare = s.parts.map Part.bare := congrArg State.parts h
  have found (u : State) : (u.part? n).map Part.bare = (u.parts.map Part.bare).find? (fun p => p.num == n) :=
    (List.find?_map (f := Part.bare) (p := fun p : Part => p.num == n) (l := u.parts)).symm
  have same : (t.part? n).map Part.bare = (s.part? n).map Part.bare := by rw [found, found, parts]
  simpa [State.part, ← Option.getD_map] using congrArg (Option.getD · Part.absent.bare) same

theorem State.watchHit_of_bare (lo hi : Nat) (load store : Bool) : t.watchHit lo hi load store = s.watchHit lo hi load store := by
  have dwp : t.curPart.dwp = s.curPart.dwp := by
    unfold State.curPart
    rw [State.cur_of_bare h]
    change (t.part s.cur.part).bare.dwp = (s.part s.cur.part).bare.dwp
    rw [State.part_of_bare h]
  simp [State.watchHit, dwp, State.cur_of_bare h]

end

theorem State.awaitStores_idle {s : State} (h : s.cur.stores = []) (l : List (Nat × Nat)) : s.awaitStores l = s := by
  by_cases hp : s.cur.pid = 0
  · simp [State.awaitStores, State.drainOver, State.proc?, hp]
  · exact State.awaitStores_none (by rw [State.proc?, if_neg hp, if_pos rfl]) h l

/-! ### A walk and the context that executes -/

theorem State.walkFrom_setCur (s : State) (q : Proc) (p : Part) (va : Word) :
    ∀ fuel node level, State.walkFrom { s with cur := q } p va node level fuel = s.walkFrom p va node level fuel
  | 0, _, _ => rfl
  | fuel + 1, node, level => by
    unfold State.walkFrom
    simp only [State.walkFrom_setCur s q p va fuel]
    rfl

theorem State.keyAt_setCur (s : State) (q : Proc) (c : Nat) (p : Part) (va : Word) :
    State.keyAt { s with cur := q } c p va = s.keyAt c p va := by
  unfold State.keyAt State.walk
  simp only [State.walkFrom_setCur]
  rfl

@[simp] theorem State.noteReach_keyAt (s : State) (pa c : Nat) (p : Part) (va : Word) :
    (s.noteReach pa).keyAt c p va = s.keyAt c p va := State.keyAt_setCur s _ c p va

/-! ### Reads -/

theorem L2Kept.same {s t : State} (h : L2Kept s t) : SameMem s t := by
  obtain ⟨parts, l2, g, rfl, -⟩ := h
  exact ⟨rfl, rfl, rfl, rfl⟩

/-- Where no error is marked, the poisoned sectors are the bad ones. -/
theorem State.rangeBad_of_poison {s t : State} (hs : s.errs = []) (ht : t.errs = []) (poison : t.poison = s.poison) (pa n : Nat) :
    t.rangeBad pa n = s.rangeBad pa n := by
  have bad (sec : Nat) : t.sectorBad sec = s.sectorBad sec := by simp [State.sectorBad, hs, ht, poison]
  simp only [State.rangeBad, funext bad]

theorem L2Kept.errs {s t : State} (h : L2Kept s t) : t.errs = s.errs := by
  obtain ⟨parts, l2, g, rfl, -⟩ := h
  rfl

theorem L2Kept.poison {s t : State} (h : L2Kept s t) : t.poison = s.poison := by
  obtain ⟨parts, l2, g, rfl, -⟩ := h
  rfl

theorem L2Kept.seals {s t : State} (h : L2Kept s t) : t.seals = s.seals := by
  obtain ⟨parts, l2, g, rfl, -⟩ := h
  rfl

theorem L2Kept.garbled {s t : State} (h : L2Kept s t) : t.garbled.Sublist s.garbled := by
  obtain ⟨parts, l2, g, rfl, sub⟩ := h
  exact sub

/-- A read of HBM without a marked error, under its own key, is a matter of the L2 alone. -/
theorem State.noteRead_l2Kept {s : State} {v : Via} {pa n : Nat} (hp : pa < hbmTop) (errs : s.errs = [])
    (h : Readable s v.key pa n) : L2Kept s (s.noteRead v pa n) := by
  unfold State.noteRead
  rw [State.flushFor_hbm s hp, State.readRange_clean errs, State.noteKey_fits fun sec hs => State.Fits.sees (h sec hs)]
  exact State.fillL2_l2Kept s v pa n

end Sys2Proof.Machine
end

section
/-! The regions that ALB opens and ALE sends (11_memory.md R309 to R311). -/

namespace Sys2Proof.Machine
open Sys2Proof Sys2Proof.Claims

theorem State.rd_of_s {s t : State} (h : t.cur.s = s.cur.s) (r : SReg) : t.rd r = s.rd r := by simp [State.rd, Proc.rd, h]

/-- The region that an ALB opens in a state, on a line at pa. -/
def Region.opened (s : State) (l : Word) (pa : Nat) (copy : List Byte) (gate : Option (Nat × Word)) : Region :=
  { ip := s.cur.ip, line := l, pa := pa, copy := copy, stores := [], gate := gate, hasLoad := false,
    touched := false, outside := false, count := 0, access := 0, savedS := s.cur.s, savedF := s.cur.fcsr }

/-- The state in which an ALB has read its line. -/
def State.lineRead (u : State) (key : Option Nat) (pa : Nat) : State :=
  ((u.noteRead (Via.of key u.cur.part) pa 128).dropL1 u.curCore pa 128).noteReach pa

section
variable {u : State} {key : Option Nat} {pa : Nat} (hp : pa < hbmTop) (errs : u.errs = []) (read : Readable u key pa 128)
include hp errs read

theorem State.lineRead_l2Kept : L2Kept u (u.noteRead (Via.of key u.cur.part) pa 128) :=
  State.noteRead_l2Kept (v := Via.of key u.cur.part) hp errs read

theorem State.lineRead_same : SameMem u (u.lineRead key pa) :=
  (State.lineRead_l2Kept hp errs read).same.trans ((State.updCore_same _ _ _).trans (State.noteReach_same _ _))

theorem State.lineRead_rangeBad : (u.lineRead key pa).rangeBad pa 128 = u.rangeBad pa 128 := by
  have kept := State.lineRead_l2Kept hp errs read
  refine State.rangeBad_of_poison errs ?_ ?_ pa 128
  · simpa [State.lineRead, State.noteReach, State.dropL1, errs] using kept.errs
  · simpa [State.lineRead, State.noteReach, State.dropL1] using kept.poison

theorem State.lineRead_bytesAs : (u.lineRead key pa).bytesAs key pa 128 = u.physBytes pa 128 := by
  rw [State.bytesAs_of_fits, (State.lineRead_same hp errs read).physBytes]
  intro sec hs
  refine (State.Fits.of_l2Kept (read sec hs) (State.lineRead_l2Kept hp errs read)).of_eq ?_ ?_ <;>
    simp [State.lineRead, State.noteReach, State.dropL1]

end

theorem State.lineRead_cur (u : State) (key : Option Nat) (pa : Nat) :
    ∃ acc, (u.lineRead key pa).cur = { u.cur with acc := acc } := by
  have read : ((u.noteRead (Via.of key u.cur.part) pa 128).dropL1 u.curCore pa 128).cur = u.cur := by
    rw [State.dropL1, State.updCore_cur, State.cur_of_bare (State.noteRead_bare u _ pa 128)]
  simp only [State.lineRead, State.noteReach, read]
  exact u.cur.noteReach_eq _ _ _

theorem State.lineRead_watchAt {u : State} {l : Word} {key : Option Nat} {pa : Nat}
    (h : u.watchHit l.toNat (l.toNat + 127) true false = none) : (u.lineRead key pa).watchAt l 128 true false = .ok () := by
  have dropped : ((u.noteRead (Via.of key u.cur.part) pa 128).dropL1 u.curCore pa 128).bare = u.bare :=
    (State.updCore_bare (fun _ => by rfl) _ _).trans (State.noteRead_bare u _ pa 128)
  refine State.watchAt_ok ?_
  rw [← h, ← State.watchHit_of_bare dropped]
  obtain ⟨acc, reached⟩ := Proc.noteReach_eq ((u.noteRead (Via.of key u.cur.part) pa 128).dropL1 u.curCore pa 128).cur
    ((u.noteRead (Via.of key u.cur.part) pa 128).dropL1 u.curCore pa 128).cycle
    ((u.noteRead (Via.of key u.cur.part) pa 128).dropL1 u.curCore pa 128).curCore pa
  simp only [State.lineRead, State.noteReach, reached]
  rfl

theorem State.openRegion_eq {s u : State} {a : SReg} {gate : Option (Nat × Word)} {pa : Nat}
    (pass : Passes s (s.rd a) 128 .read u pa) (hbm : physRegion pa = .hbm) (idle : u.cur.stores = []) (errs : u.errs = [])
    (good : u.rangeBad pa 128 = false) (unwatched : u.watchHit (s.rd a).toNat ((s.rd a).toNat + 127) true false = none)
    (read : Readable u (u.keyAt u.curCore u.curPart (s.rd a)) pa 128) :
    s.openRegion a gate =
      let v := u.lineRead (u.keyAt u.curCore u.curPart (s.rd a)) pa
      .next ({ v with cur := { v.cur with region := some (Region.opened v (s.rd a) pa (u.physBytes pa 128) gate) } }.next 4) := by
  have near := (physRegion_hbm_iff pa).1 hbm
  have bad : (u.lineRead (u.keyAt u.curCore u.curPart (s.rd a)) pa).rangeBad pa 128 = false := by
    rw [State.lineRead_rangeBad near errs read, good]
  have copied := State.lineRead_bytesAs near errs read
  have watched := State.lineRead_watchAt (key := u.keyAt u.curCore u.curPart (s.rd a)) (pa := pa) unwatched
  unfold State.lineRead at bad copied watched
  simp [State.openRegion, passes_scalarXlate pass, hbm, State.awaitStores_idle idle, bad, watched, copied, State.lineRead, Region.opened]

/-- The state after an ALE whose line translated by r. -/
def State.regionSent (u : State) (g : Region) (d : SReg) (r : Xlated) : State :=
  (State.sendAtomic ({ u with cur := { u.cur with region := none } }.noteReach r.pa) 2 g.line (g.request r.pa d)).next 4

theorem exec_ale_eq {s u : State} {d : SReg} {g : Region} {r : Xlated} (opened : s.cur.region = some g)
    (few : g.access ≤ 8) (inside : g.outside = false) (noted : s.noteAccess g.line true = u)
    (translated : u.xlate u.curCore u.curPart u.cur.sup g.line 128 .modify = .ok r) (hbm : physRegion r.pa = .hbm)
    (unwatched : u.watchAt g.line 128 true true = .ok ()) (empty : u.cur.latch.sent = false) :
    exec (.ale d) s = .next (u.regionSent g d r) := by
  have allowed : (decide (8 < g.access) || g.outside) = false := by simp [inside, few]
  change execAle d s = _
  simp [execAle, opened, allowed, noted, translated, hbm, unwatched, empty, State.regionSent, pure, Except.pure]

/-- Settles O15: by the three cases of the statement. -/
theorem regionForms : Obligations.RegionForms := by
  intro s u d a unit pa l
  refine ⟨?_, ?_, ?_⟩
  · intro pass hbm idle errs good unwatched read i hi
    have opened : exec i.1 s = s.openRegion a i.2 := by
      simp only [List.mem_cons, List.not_mem_nil, or_false] at hi
      obtain rfl | rfl := hi <;> rfl
    obtain ⟨acc, cur⟩ := u.lineRead_cur (u.keyAt u.curCore u.curPart (s.rd a)) pa
    have cur_eq := State.cur_of_bare (passes_bare pass)
    refine ⟨_, opened.trans (State.openRegion_eq pass hbm idle errs good unwatched read), ?_, ?_, ?_, ?_⟩
    · simp [cur, cur_eq]
    · simp [Region.opened, State.next, cur, cur_eq, l]
    · exact State.rd_of_s (by simp [State.next, cur, cur_eq])
    · exact ((State.lineRead_same ((physRegion_hbm_iff pa).1 hbm) errs read).trans
        ((State.setCur_same _ _).trans (State.next_same _ 4))).bytes
  · intro g r opened few inside empty translated hbm unwatched
    have bare : (atAccess s g.line).bare = s.bare := State.noteAccess_bare s g.line true
    have cur := State.cur_of_bare bare
    have core := State.curCore_of_bare bare
    have watched := State.watchAt_ok (n := 128) unwatched
    have translated' : (atAccess s g.line).xlate (atAccess s g.line).curCore (atAccess s g.line).curPart
        (atAccess s g.line).cur.sup g.line 128 .modify = .ok r := by rwa [core, cur]
    refine ⟨_, exec_ale_eq (u := atAccess s g.line) opened few inside rfl translated' hbm watched (by rw [cur, empty]), ?_, ?_, ?_, ?_, ?_⟩
    · simp [State.regionSent, State.sendAtomic]
    · simp [State.regionSent, State.sendAtomic, ← cur]
    · have key := (State.keyAt_setCur (atAccess s g.line) { (atAccess s g.line).cur with region := none } (atAccess s g.line).curCore
        (atAccess s g.line).curPart g.line).trans (State.keyAt_of_xlate translated')
      simp only [State.regionSent, State.sendAtomic, State.next, State.noteReach_keyAt, State.noteReach_curCore,
        State.noteReach_curPart, State.noteReach_latch]
      rw [← cur, ← core]
      exact congrArg (fun k => (atAccess s g.line).cur.latch.arm 2 g.line (g.request r.pa d) k (atAccess s g.line).curCore) key
    · refine State.rd_of_s ?_
      simp [State.regionSent, State.sendAtomic, State.next, ← cur]
    · exact ((State.setCur_same _ _).trans ((State.noteReach_same _ _).trans
        ((State.sendAtomic_same _ _ _ _).trans (State.next_same _ 4)))).bytes
  · intro none
    change execAle d s = _
    simp [execAle, none]

end Sys2Proof.Machine
end

section
/-! Stores into the device's own memory, where no error is marked and no channel cell or entry lies (11_memory.md R295): their
bytes stand, the seals and every other byte stay, and the storing process stays as it is. -/

namespace Sys2Proof.Machine
open Sys2Proof Sys2Proof.Claims

theorem State.proc?_of_bare {s t : State} (h : t.bare = s.bare) (pid : Pid) : t.proc? pid = s.proc? pid := by
  simp [State.proc?, State.cur_of_bare h, State.procs_of_bare h]

theorem State.proc?_mapProcs (s : State) (f : Proc → Proc) (hf : ∀ p, (f p).pid = p.pid) (pid : Pid) :
    (s.mapProcs f).proc? pid = (s.proc? pid).map f := by
  unfold State.proc? State.mapProcs
  split
  · rfl
  · simp only [hf]
    split
    · rfl
    · rw [List.find?_map]
      congr 2
      exact funext fun p => by simp [hf]

/-! ### Memory in which a store is a matter of its bytes -/

/-- No error is marked and no channel cell or entry is there that a store could break. -/
structure Sound (s : State) : Prop where
  memOk : s.memOk = true
  errs : s.errs = []
  cells : s.cells = []
  entries : s.entries = []

/-- What stores of a process change: bytes, marks, charges, the L2, and what regions and requests of others know. -/
structure Stored (pid : Pid) (s t : State) : Prop where
  clean : Sound t
  seals : t.seals = s.seals
  garbled : t.garbled.Sublist s.garbled
  proc : t.proc? pid = s.proc? pid

theorem Stored.refl {pid : Pid} {s : State} (h : Sound s) : Stored pid s s := ⟨h, rfl, List.Sublist.refl _, rfl⟩

theorem Stored.trans {pid : Pid} {s t u : State} (h : Stored pid s t) (k : Stored pid t u) : Stored pid s u :=
  ⟨k.clean, k.seals.trans h.seals, k.garbled.trans h.garbled, k.proc.trans h.proc⟩

theorem Stored.fits {pid : Pid} {s t : State} (h : Stored pid s t) {key : Option Nat} {k : Nat} (fits : s.Fits key k) : t.Fits key k := by
  refine State.Fits.of_l2Kept (s := { s with seals := s.seals }) fits ⟨s.parts, s.l2, t.garbled, rfl, h.garbled⟩ |>.of_eq h.seals rfl

theorem Stored.readable {pid : Pid} {s t : State} (h : Stored pid s t) {key : Option Nat} {pa n : Nat} (fits : Readable s key pa n) :
    Readable t key pa n := fun sec hs => h.fits (fits sec hs)

theorem Stored.updCore {pid : Pid} {s t : State} (h : Stored pid s t) (c : Nat) (f : Core → Core) : Stored pid s (t.updCore c f) := by
  obtain ⟨⟨memOk, errs, cells, entries⟩, seals, garbled, proc⟩ := h
  exact ⟨⟨(State.updCore_same _ _ _).memOk.trans memOk, by simpa, by simpa, by simpa⟩, by simpa, by simpa, by simpa⟩

theorem Sound.of_l2Kept {s t : State} (h : Sound s) (kept : L2Kept s t) : Sound t := by
  have memOk := kept.same.memOk.trans h.memOk
  obtain ⟨parts, l2, g, rfl, -⟩ := kept
  exact ⟨memOk, h.errs, h.cells, h.entries⟩

theorem Stored.of_l2Kept {pid : Pid} {s t : State} (h : Sound s) (kept : L2Kept s t) : Stored pid s t := by
  have clean := h.of_l2Kept kept
  obtain ⟨parts, l2, g, rfl, sub⟩ := kept
  exact ⟨clean, rfl, sub, rfl⟩

theorem State.touchRegions_proc? (s : State) (pid : Pid) (pa n : Nat) : (s.touchRegions pid pa n).proc? pid = s.proc? pid := by
  unfold State.touchRegions
  rw [State.proc?_mapProcs _ _ (fun p => by split <;> rfl)]
  cases found : s.proc? pid with
  | none => rfl
  | some p => simp [State.proc?_pid found]

/-- The bytes of a store to HBM, and what the L2 then holds. -/
def State.putHbm (s : State) (poison : List Nat) (v : Via) (pa : Nat) (l : List Byte) : State :=
  (State.rawPut { s with poison := poison } pa l).dirtyL2 v pa l.length

theorem State.putHbm_bare (s : State) (poison : List Nat) (v : Via) (pa : Nat) (l : List Byte) :
    (s.putHbm poison v pa l).bare = s.bare :=
  (State.dirtyL2_bare _ _ _ _).trans (State.rawPut_bare _ _ _)

section
variable {s : State} (h : Sound s) {pa : Nat} {l : List Byte} (hp : pa < hbmTop)
include h hp

theorem State.storeVia_hbm (pid : Pid) (hint : Hint) :
    ∃ poison v, s.storeVia pid hint pa l = (s.putHbm poison v pa l).touchRegions pid pa l.length := by
  obtain ⟨poison, marked⟩ := State.storeMarks_clean h.errs pa l.length
  have bare := s.putHbm_bare poison (s.viaOf pid none hint) pa l
  simp only [State.storeVia, physRegion_hbm hp, marked]
  exact ⟨poison, s.viaOf pid none hint, State.touchAreas_none
    (s := (s.putHbm poison (s.viaOf pid none hint) pa l).touchRegions pid pa l.length)
    ((State.cells_of_bare bare).trans h.cells) ((State.entries_of_bare bare).trans h.entries) pa l.length⟩

theorem State.storeVia_stored (pid : Pid) (hint : Hint) : Stored pid s (s.storeVia pid hint pa l) := by
  obtain ⟨poison, v, stored⟩ := State.storeVia_hbm (l := l) h hp pid hint
  obtain ⟨seals, garbled, errs⟩ := State.rawPut_seals { s with poison := poison } pa l
  have bare := s.putHbm_bare poison v pa l
  have kept := State.dirtyL2_l2Kept (State.rawPut { s with poison := poison } pa l) v pa l.length
  have put : Sound (s.putHbm poison v pa l) :=
    ⟨kept.same.memOk.trans (State.rawPut_memOk h.memOk), kept.errs.trans (errs.trans h.errs),
      (State.cells_of_bare bare).trans h.cells, (State.entries_of_bare bare).trans h.entries⟩
  rw [stored]
  refine ⟨⟨put.memOk, put.errs, put.cells, put.entries⟩, ?_, ?_, ?_⟩
  · exact kept.seals.trans seals
  · exact (kept.garbled.trans (by rw [garbled]) : List.Sublist _ _)
  · rw [State.touchRegions_proc?, State.proc?_of_bare bare]

theorem State.physByte_storeVia (pid : Pid) (hint : Hint) (ht : pa + l.length ≤ hbmTop) (b : Nat) :
    (s.storeVia pid hint pa l).physByte b = if h : pa ≤ b ∧ b < pa + l.length then l[b - pa] else s.physByte b := by
  obtain ⟨poison, v, stored⟩ := State.storeVia_hbm (l := l) h hp pid hint
  rw [stored]
  change (s.putHbm poison v pa l).physByte b = _
  rw [State.putHbm, (State.dirtyL2_same _ _ _ _).physByte, State.physByte_rawPut (s := { s with poison := poison }) h.memOk hp ht]
  rfl

end

/-! ### A waiting store performs -/

theorem Sound.updProc {s : State} (h : Sound s) (pid : Pid) (f : Proc → Proc) : Sound (s.updProc pid f) :=
  ⟨(State.updProc_same s pid f).memOk.trans h.memOk, by simpa using h.errs, by simpa using h.cells, by simpa using h.entries⟩

/-- The process whose store number n has performed. -/
def Proc.storeDone (p : Proc) (n : Nat) (st : PStore) (cycle : Word) : Proc :=
  { p with stores := p.stores.eraseIdx n }.noteReach cycle st.core st.pa

theorem Proc.storeDone_pid (p : Proc) (n : Nat) (st : PStore) (cycle : Word) : (p.storeDone n st cycle).pid = p.pid := by
  unfold Proc.storeDone Proc.noteReach
  split <;> rfl

section
variable {s : State} {p : Proc} {n : Nat} {st : PStore} (found : s.proc? p.pid = some p) (waiting : p.stores[n]? = some st)
include found waiting

theorem State.performNth_eq :
    s.performNth p.pid n = ((((s.updProc p.pid (fun p => p.storeDone n st s.cycle)).sealFor st.key st.pa st.bytes.length).storeVia
      p.pid st.hint st.pa st.bytes).updateL1 st.core st.pa st.bytes) := by
  simp only [State.performNth, found, waiting]
  rfl

variable (fits : Readable s st.key st.pa st.bytes.length)
include fits

theorem State.performNth_fits :
    s.performNth p.pid n = ((s.updProc p.pid (fun p => p.storeDone n st s.cycle)).storeVia
      p.pid st.hint st.pa st.bytes).updateL1 st.core st.pa st.bytes := by
  rw [State.performNth_eq found waiting, State.sealFor_fits]
  exact fun sec hs => State.Fits.of_eq (fits sec hs) (by simp) (by simp)

variable (h : Sound s) (hp : st.pa < hbmTop)
include h hp

/-- What a waiting store leaves of the state, beside its bytes. -/
theorem State.performNth_stored :
    Stored p.pid (s.updProc p.pid (fun p => p.storeDone n st s.cycle)) (s.performNth p.pid n) := by
  rw [State.performNth_fits found waiting fits]
  exact (State.storeVia_stored (l := st.bytes) (h.updProc p.pid (fun p => p.storeDone n st s.cycle)) hp p.pid st.hint).updCore _ _

theorem State.performNth_proc? : (s.performNth p.pid n).proc? p.pid = some (p.storeDone n st s.cycle) := by
  rw [(State.performNth_stored found waiting fits h hp).proc, State.proc?_updProc _ _ _ _ (fun p => p.storeDone_pid n st s.cycle),
    if_pos rfl, found]
  rfl

theorem State.performNth_physByte (ht : st.pa + st.bytes.length ≤ hbmTop) (b : Nat) : (s.performNth p.pid n).physByte b =
    if h : st.pa ≤ b ∧ b < st.pa + st.bytes.length then st.bytes[b - st.pa] else s.physByte b := by
  rw [State.performNth_fits found waiting fits, State.updateL1, (State.updCore_same _ _ _).physByte,
    State.physByte_storeVia (h.updProc _ _) hp _ _ ht, (State.updProc_same _ _ _).physByte]

end

/-! ### ST (R293, R295) -/

theorem exec_st_eq {s u : State} {d a : SReg} {sz : Size} {off : BitVec 12} {pa : Nat}
    (pass : Passes s (s.effAddr a off) (Size.bytes sz) .write u pa) (outside : u.cur.region = none)
    (unwatched : u.watchAt (s.effAddr a off) (Size.bytes sz) false true = .ok ()) :
    exec (.st d a sz off) s = .next ((u.queueStore (s.effAddr a off) pa (bytesOf (Size.bytes sz) (u.rd d).toNat) false u.cur.nextOp
      [(pa, Size.bytes sz)] .normal).next 4) := by
  change execSt d a sz off s = _
  simp [execSt, passes_scalarXlate pass, unwatched, outside, pure, Except.pure]

/-- Settles O11: the store waits with what it translated to, and later puts its bytes there. -/
theorem storeResult : Obligations.StoreResult := by
  refine ⟨?_, ?_⟩
  · intro s u d a sz off pa x z outside pass unwatched
    have bare := passes_bare pass
    have cur := State.cur_of_bare bare
    refine ⟨_, exec_st_eq pass (by rw [cur, outside]) (State.watchAt_ok unwatched), ?_, ?_, ?_, ?_, ?_⟩
    · simp [State.queueStore, cur]
    · simp only [State.queueStore, State.next]
      rw [State.rd_of_bare bare, State.curCore_of_bare bare]
      rfl
    · exact State.rd_of_s (by simp [State.queueStore, State.next, cur])
    · simp [State.queueStore, State.next, cur]
    · exact ((State.setCur_same u _).trans (State.next_same _ 4)).bytes
  · intro s p n st found waiting may
    have performed : tryStorePerform p.pid n s = some (s.performNth p.pid n) := by simp [tryStorePerform, found, may]
    refine ⟨s.performNth p.pid n, ?_, ?_⟩
    · change s.occur (tryStorePerform p.pid n s) = _
      rw [performed]
      rfl
    · intro memOk errs cells entries fits hp ht
      have byte := State.performNth_physByte found waiting fits ⟨memOk, errs, cells, entries⟩ hp ht
      refine ⟨fun k hk => ?_, fun b hb => ?_⟩
      · rw [byte, dif_pos ⟨by omega, by omega⟩]
        simp only [Nat.add_sub_cancel_left]
      · rw [byte, dif_neg (by omega)]

end Sys2Proof.Machine
end

section
/-! An AMO at its home slice (11_memory.md R307, R308, R314). -/

namespace Sys2Proof.Machine
open Sys2Proof Sys2Proof.Claims

/-! ### The value that each op writes (R307) -/

theorem toInt_ofNat_of_lt {m n : Nat} (hm : 0 < m) (h : n < 2 ^ m) :
    (BitVec.ofNat m n).toInt = if n < 2 ^ m / 2 then (n : Int) else (n : Int) - (2 ^ m : Nat) := by
  have even : 2 * (2 ^ m / 2) = 2 ^ m := Nat.mul_div_cancel' (dvd_pow_self 2 (Nat.ne_of_gt hm))
  rw [BitVec.toInt_eq_toNat_cond, BitVec.toNat_ofNat, Nat.mod_eq_of_lt h]
  split <;> split <;> omega

theorem min_eq_ite_lt (m n : Nat) : min m n = if n < m then n else m := by
  split <;> omega

theorem max_eq_ite_lt (m n : Nat) : max m n = if m < n then n else m := by
  split <;> omega

theorem amoValues : Claims.AmoValuesPart := by
  intro z old v cmp size hold hv sg
  have pos : 0 < 8 * z := by omega
  have signed (n : Nat) (h : n < 2 ^ (8 * z)) :
      (if n < 2 ^ (8 * z) / 2 then (n : Int) else (n : Int) - (2 ^ (8 * z) : Nat)) = sg n := (toInt_ofNat_of_lt pos h).symm
  refine ⟨rfl, rfl, rfl, rfl, ?_, ?_, min_eq_ite_lt old v, max_eq_ite_lt old v, rfl, rfl⟩
  · simp only [amoNew, signed v hv, signed old hold]
  · simp only [amoNew, signed v hv, signed old hold]

/-! ### At the home -/

theorem neededFor_nil (f : PStore → Bool) : neededFor f [] = [] := rfl

theorem State.drainOver_idle {s : State} {p : Proc} {pid : Pid} (found : s.proc? pid = some p) (idle : p.stores = [])
    (l : List (Nat × Nat)) : s.drainOver pid l = s := by
  simp [State.drainOver, found, idle, neededFor_nil]

theorem State.offlineAt_of_bare {s t : State} (h : t.bare = s.bare) (pa : Nat) : t.offlineAt pa = s.offlineAt pa := by
  simp [State.offlineAt, State.dieAway, State.die, State.dies_of_bare h]

theorem L2Kept.offlineAt {s t : State} (h : L2Kept s t) (pa : Nat) : t.offlineAt pa = s.offlineAt pa := by
  obtain ⟨parts, l2, g, rfl, -⟩ := h
  rfl

theorem L2Kept.rangeBad {s t : State} (h : L2Kept s t) (errs : s.errs = []) (pa n : Nat) : t.rangeBad pa n = s.rangeBad pa n :=
  State.rangeBad_of_poison errs (h.errs.trans errs) h.poison pa n

theorem L2Kept.homeStop {s t : State} (h : L2Kept s t) (errs : s.errs = []) (pa n : Nat) (must : Bool) :
    t.homeStop pa n must = s.homeStop pa n must := by
  simp [State.homeStop, h.offlineAt, h.rangeBad errs]

/-- The bytes that a store has put stand where it put them. -/
theorem State.physBytes_of_put {s t : State} {pa : Nat} {l : List Byte}
    (h : ∀ b, t.physByte b = if h : pa ≤ b ∧ b < pa + l.length then l[b - pa] else s.physByte b) :
    t.physBytes pa l.length = l := by
  refine List.ext_getElem (State.physBytes_length _ _ _) fun i hi hl => ?_
  rw [State.physBytes_getElem, h, dif_pos ⟨by omega, by omega⟩]
  simp only [Nat.add_sub_cancel_left]

theorem State.updLatch_proc? (s : State) (pid : Pid) (f : Latch → Latch) :
    (s.updLatch pid f).proc? pid = (s.proc? pid).map (fun p => { p with latch := f p.latch }) := by
  rw [State.updLatch, State.proc?_updProc _ _ _ _ (fun _ => by rfl), if_pos rfl]

/-- A read at the home, and what it meets there. -/
theorem State.noteRead_stored {s : State} (h : Sound s) {v : Via} {pa n : Nat} (hp : pa < hbmTop) (fits : Readable s v.key pa n)
    (pid : Pid) : Stored pid s (s.noteRead v pa n) :=
  Stored.of_l2Kept h (State.noteRead_l2Kept hp h.errs fits)

theorem State.updLatch_answer {s : State} {p : Proc} {pid : Pid} (found : s.proc? pid = some p) {α : Type} (f : Latch → Latch)
    (g : Latch → α) : ((s.updLatch pid f).proc? pid).map (fun q => g q.latch) = some (g (f p.latch)) := by
  rw [State.updLatch_proc?, found]
  rfl

section
variable {s : State} {pid : Pid} {key : Option Nat} {op : AmoOp} {narrow : Bool} {x cmp : Word} {pa z : Nat}
  (size : (if narrow then 4 else 8) = z)
include size

theorem State.amoAtHome_stop {stop : BitVec 2}
    (stopped : (s.noteRead (s.viaOf pid key .normal) pa z).homeStop pa z true = stop) (met : stop ≠ 0) :
    s.amoAtHome pid key op narrow x cmp pa
      = (s.noteRead (s.viaOf pid key .normal) pa z).updLatch pid (fun l => { l with stop := stop }) := by
  have stops : (stop != 0) = true := bne_iff_ne.2 met
  simp only [State.amoAtHome, size, stopped, stops, if_true]

/-- The state in which an AMO that no home stops has written its value. -/
def State.amoStored (s : State) (pid : Pid) (key : Option Nat) (op : AmoOp) (x cmp : Word) (pa z : Nat) : State :=
  (s.noteRead (s.viaOf pid key .normal) pa z).storeVia pid .normal pa (bytesOf z (amoNew op z (ofBytes (s.physBytes pa z))
    (x.toNat % 2 ^ (8 * z)) (cmp.toNat % 2 ^ (8 * z))))

theorem State.amoAtHome_go (h : Sound s) (hp : pa < hbmTop) (fits : Readable s key pa z)
    (free : (s.noteRead (s.viaOf pid key .normal) pa z).homeStop pa z true = 0) :
    s.amoAtHome pid key op narrow x cmp pa = (s.amoStored pid key op x cmp pa z).performed pid
      (some (if narrow then (BitVec.ofNat 32 (ofBytes (s.physBytes pa z))).signExtend 64
        else BitVec.ofNat 64 (ofBytes (s.physBytes pa z)))) := by
  have kept : L2Kept s (s.noteRead (s.viaOf pid key .normal) pa z) := State.noteRead_l2Kept (v := s.viaOf pid key .normal) hp h.errs fits
  have still : Readable (s.noteRead (s.viaOf pid key .normal) pa z) key pa z := fun sec hs => State.Fits.of_l2Kept (fits sec hs) kept
  have old : (s.noteRead (s.viaOf pid key .normal) pa z).bytesAs key pa z = s.physBytes pa z := by
    rw [State.bytesAs_of_fits still, kept.same.physBytes]
  simp only [State.amoAtHome, size, free, old, State.sealFor_fits still, State.flushFor_hbm _ hp]
  rfl

end

theorem exec_atomicAtHome {s t : State} {pid : Pid} {row : Nat} (h : tryAtomicAtHome pid row s = some t) :
    exec (.atomicAtHome pid row) s = .next t := by
  change s.occur (tryAtomicAtHome pid row s) = _
  rw [h]
  rfl

theorem atomicAtHome_sent {s : State} {p : Proc} {row : Nat} (found : s.proc? p.pid = some p) (sent : p.latch.sent = true)
    (going : p.latch.stop = 0) (open_ : p.latch.done = false) (idle : p.stores = []) :
    tryAtomicAtHome p.pid row s =
      match p.latch.req with
      | .none => none
      | .amo op narrow _ _ x cmp pa => some (s.amoAtHome p.pid p.latch.key op narrow x cmp pa)
      | .region _ pa stores gate ld touched _ => some (s.regionAtHome p.pid p.latch.key pa stores gate ld touched)
      | .tred ty rows _ hint =>
        match rows.find? (fun r => r.row == row) with
        | none => none
        | some r =>
          if p.latch.rows.getLsbD row then some s
          else if !p.latch.rowFirst r then none
          else some ((s.tredRowAtHome p.pid ty hint r).updLatch p.pid (fun l => { l with done := l.rowsLeft.isEmpty })) := by
  simp only [tryAtomicAtHome, found, sent, going, open_, State.drainOver_idle found idle]
  rfl

theorem amoAtHomePart : Claims.AmoAtHomePart := by
  intro s p row op narrow sc d v cmp pa z found sent going open_ idle memOk req errs cells entries ht fits old
  have pos : 0 < z := by
    simp only [z]
    split <;> decide
  have clean : Sound s := ⟨memOk, errs, cells, entries⟩
  have hp : pa < hbmTop := by omega
  have kept : L2Kept s (s.noteRead (s.viaOf p.pid p.latch.key .normal) pa z) :=
    State.noteRead_l2Kept (v := s.viaOf p.pid p.latch.key .normal) hp errs fits
  have stop := kept.homeStop errs pa z true
  have runs (t : State) (h : s.amoAtHome p.pid p.latch.key op narrow v cmp pa = t) : exec (.atomicAtHome p.pid row) s = .next t :=
    exec_atomicAtHome (by rw [atomicAtHome_sent found sent going open_ idle, req, ← h])
  have read := State.noteRead_stored clean (v := s.viaOf p.pid p.latch.key .normal) hp fits p.pid
  have latch := read.proc.trans found
  have stopped (n : BitVec 2) (h : s.homeStop pa z true = n) (met : n ≠ 0) :=
    runs _ (State.amoAtHome_stop rfl (stop.trans h) met)
  have same (n : BitVec 2) : SameBytes s ((s.noteRead (s.viaOf p.pid p.latch.key .normal) pa z).updLatch p.pid
      (fun l => { l with stop := n })) := (kept.same.trans (State.updLatch_same _ _ _)).bytes
  cases off : s.offlineAt pa with
  | true =>
    refine ⟨_, stopped 2 (by simp [State.homeStop, off]) (by decide), by simp, fun _ => ⟨same 2, ?_⟩, by simp⟩
    exact State.updLatch_answer latch _ Latch.stop
  | false =>
    cases bad : s.rangeBad pa z with
    | true =>
      refine ⟨_, stopped 1 (by simp [State.homeStop, off, bad]) (by decide), by simp, by simp, fun _ _ => ⟨same 1, ?_⟩⟩
      rw [State.updLatch_answer latch _ (fun l => (l.stop, l.done)), open_]
    | false =>
      have go := State.amoAtHome_go rfl clean hp fits (stop.trans (by simp [State.homeStop, off, bad])) (op := op) (narrow := narrow)
        (x := v) (cmp := cmp)
      have byte := State.physByte_storeVia read.clean (l := bytesOf z (amoNew op z old (v.toNat % 2 ^ (8 * z)) (cmp.toNat % 2 ^ (8 * z))))
        hp p.pid .normal (by simpa using ht)
      refine ⟨_, runs _ go, fun _ _ => ⟨?_, ?_, ?_⟩, by simp, by simp⟩
      · rw [State.performed, (State.updLatch_same _ _ _).physBytes]
        have put := State.physBytes_of_put byte
        rw [bytesOf_length] at put
        exact put
      · intro b hb
        rw [State.performed, (State.updLatch_same _ _ _).physByte, State.amoStored, byte, dif_neg (by rw [bytesOf_length]; omega),
          kept.same.physByte]
      · have stored := (State.storeVia_stored read.clean (l := bytesOf z (amoNew op z old (v.toNat % 2 ^ (8 * z))
          (cmp.toNat % 2 ^ (8 * z)))) hp p.pid .normal).proc.trans latch
        exact State.updLatch_answer stored _ (fun l => (l.done, l.result))

end Sys2Proof.Machine
end

section
/-! A region and a row of a TRED at their home slices (11_memory.md R304, R311, R314). -/

namespace Sys2Proof.Machine
open Sys2Proof Sys2Proof.Claims

/-! ### One store of a request -/

theorem mem_sectorsOf_of_inside {pa m a n sec : Nat} (h : sec ∈ sectorsOf a n) (low : pa ≤ a) (high : a + n ≤ pa + m) :
    sec ∈ sectorsOf pa m := by
  unfold sectorsOf at *
  split at h
  · cases h
  · rw [if_neg (by omega)]
    rw [List.mem_range'] at *
    obtain ⟨i, hi, rfl⟩ := h
    exact ⟨a / 32 + 1 * i - pa / 32, by omega, by omega⟩

theorem readable_inside {s : State} {key : Option Nat} {pa m a n : Nat} (h : Readable s key pa m) (low : pa ≤ a)
    (high : a + n ≤ pa + m) : Readable s key a n := fun sec hs => h sec (mem_sectorsOf_of_inside hs low high)

/-- One store of a request to its home. -/
def State.homePut (s : State) (pid : Pid) (hint : Hint) (key : Option Nat) (pa : Nat) (l : List Byte) : State :=
  (s.sealFor key pa l.length).storeVia pid hint pa l

/-- A store of nothing at the end of HBM. -/
theorem State.storeVia_top {s : State} (h : Sound s) (pid : Pid) (hint : Hint) :
    s.storeVia pid hint hbmTop [] = s.touchRegions pid hbmTop 0 := by
  have none : physRegion hbmTop = .none := by decide
  simp only [State.storeVia, none, State.storeMarks, State.rawPut, State.dirtyL2, List.length_nil, reduceCtorEq, if_false]
  exact State.touchAreas_none (s := s.touchRegions pid hbmTop 0) h.cells h.entries hbmTop 0

section
variable {s : State} (h : Sound s) {key : Option Nat} {pa : Nat} {l : List Byte} (fits : Readable s key pa l.length)
  (ht : pa + l.length ≤ hbmTop) (pid : Pid) (hint : Hint)
include h fits ht

theorem State.homePut_stored : Stored pid s (s.homePut pid hint key pa l) := by
  rw [State.homePut, State.sealFor_fits fits]
  rcases Nat.lt_or_ge pa hbmTop with hp | hp
  · exact State.storeVia_stored h hp pid hint
  · obtain rfl : pa = hbmTop := by omega
    obtain rfl : l = [] := List.eq_nil_of_length_eq_zero (by omega)
    rw [State.storeVia_top h]
    exact ⟨⟨h.memOk, h.errs, h.cells, h.entries⟩, rfl, List.Sublist.refl _, State.touchRegions_proc? s pid _ _⟩

theorem State.homePut_physByte (b : Nat) : (s.homePut pid hint key pa l).physByte b =
    if h : pa ≤ b ∧ b < pa + l.length then l[b - pa] else s.physByte b := by
  rw [State.homePut, State.sealFor_fits fits]
  rcases Nat.lt_or_ge pa hbmTop with hp | hp
  · exact State.physByte_storeVia h hp pid hint ht b
  · obtain rfl : pa = hbmTop := by omega
    obtain rfl : l = [] := List.eq_nil_of_length_eq_zero (by omega)
    rw [State.storeVia_top h, dif_neg (by simp only [List.length_nil]; omega)]
    rfl

end

/-! ### The stores of a region -/

/-- The stores of a region, in order. -/
def State.putAll (s : State) (pid : Pid) (key : Option Nat) (stores : List (Nat × List Byte)) : State :=
  stores.foldl (fun s x => s.homePut pid .normal key x.1 x.2) s

theorem State.putAll_spec {pid : Pid} {key : Option Nat} {pa n : Nat} (ht : pa + n ≤ hbmTop) :
    ∀ (stores : List (Nat × List Byte)) (s : State), Sound s → Readable s key pa n →
      (∀ x ∈ stores, pa ≤ x.1 ∧ x.1 + x.2.length ≤ pa + n) →
      Stored pid s (s.putAll pid key stores) ∧ ∀ b, (s.putAll pid key stores).physByte b
        = stores.foldl (fun v x => if x.1 ≤ b ∧ b < x.1 + x.2.length then x.2.getD (b - x.1) 0 else v) (s.physByte b)
  | [], s, clean, _, _ => ⟨Stored.refl clean, fun _ => rfl⟩
  | x :: rest, s, clean, fits, inside => by
    obtain ⟨⟨low, high⟩, inside⟩ := List.forall_mem_cons.1 inside
    have here := readable_inside fits low high
    have first := State.homePut_stored clean here (by omega) pid .normal
    obtain ⟨stored, byte⟩ := State.putAll_spec ht rest (s.homePut pid .normal key x.1 x.2) first.clean (first.readable fits) inside
    refine ⟨first.trans stored, fun b => ?_⟩
    change (State.putAll _ pid key rest).physByte b = _
    rw [byte, State.homePut_physByte clean here (by omega), List.foldl_cons]
    congr 1
    split
    next hb => rw [List.getD_eq_getElem _ _ (by omega)]
    next => rfl

/-! ### A region at its home -/

/-- The state in which a region's home has read its line, where it must. -/
def State.regionRead (s : State) (pid : Pid) (key : Option Nat) (pa : Nat) (must : Bool) : State :=
  if must then s.noteRead (s.viaOf pid key .normal) pa 128 else s

/-- Whether a region performs, by its gate and by what others touched. -/
def regionHolds (s : State) (key : Option Nat) (pa : Nat) (gate : Option (Nat × Word)) (loads touched : Bool) : Bool :=
  (match gate with
    | some (o, g) => BitVec.ofNat 64 (ofBytes (s.bytesAs key (pa + o) 8)) == g
    | none => true) && !(loads && touched)

section
variable {s : State} {pid : Pid} {key : Option Nat} {pa : Nat} {stores : List (Nat × List Byte)} {gate : Option (Nat × Word)}
  {loads touched : Bool}

theorem State.regionAtHome_stop {stop : BitVec 2}
    (stopped : (s.regionRead pid key pa (gate.isSome || loads)).homeStop pa 128 (gate.isSome || loads) = stop) (met : stop ≠ 0) :
    s.regionAtHome pid key pa stores gate loads touched
      = (s.regionRead pid key pa (gate.isSome || loads)).updLatch pid (fun l => { l with stop := stop }) := by
  have stops : (stop != 0) = true := bne_iff_ne.2 met
  unfold State.regionRead at stopped ⊢
  simp only [State.regionAtHome, stopped, stops, if_true]

theorem State.regionAtHome_go
    (free : (s.regionRead pid key pa (gate.isSome || loads)).homeStop pa 128 (gate.isSome || loads) = 0) :
    s.regionAtHome pid key pa stores gate loads touched =
      let s1 := s.regionRead pid key pa (gate.isSome || loads)
      let ok := regionHolds s1 key pa gate loads touched
      (if ok then s1.putAll pid key stores else s1).performed pid (some (flagWord ok)) := by
  unfold State.regionRead at free ⊢
  simp only [State.regionAtHome, free]
  rfl

theorem State.regionRead_l2Kept (errs : s.errs = []) (ht : pa + 128 ≤ hbmTop) (fits : Readable s key pa 128) (must : Bool) :
    L2Kept s (s.regionRead pid key pa must) := by
  unfold State.regionRead
  split
  · exact State.noteRead_l2Kept (v := s.viaOf pid key .normal) (by omega) errs fits
  · exact L2Kept.refl s

end

/-- The gate's doubleword under the key of its line is the one memory holds. -/
theorem regionHolds_iff {s : State} {key : Option Nat} {pa : Nat} {gate : Option (Nat × Word)} {loads touched : Bool}
    (fits : Readable s key pa 128) (inside : ∀ o g, gate = some (o, g) → o + 8 ≤ 128) :
    regionHolds s key pa gate loads touched = true ↔
      (∀ o g, gate = some (o, g) → BitVec.ofNat 64 (ofBytes (s.physBytes (pa + o) 8)) = g) ∧ ¬(loads = true ∧ touched = true) := by
  have untouched : (!(loads && touched)) = true ↔ ¬(loads = true ∧ touched = true) := by
    cases loads <;> cases touched <;> decide
  unfold regionHolds
  rw [Bool.and_eq_true, untouched]
  refine and_congr_left fun _ => ?_
  cases gate with
  | none => simp
  | some x =>
    obtain ⟨o, g⟩ := x
    have window : o + 8 ≤ 128 := inside o g rfl
    have gate := State.bytesAs_of_fits (readable_inside (a := pa + o) (n := 8) fits (by omega) (by omega))
    simp [gate]

theorem regionAtHomePart : Claims.RegionAtHomePart := by
  intro s p row line pa stores gate loads touched d found sent going open_ idle req memOk errs cells entries ht fits inside
    holds must answer
  have clean : Sound s := ⟨memOk, errs, cells, entries⟩
  have kept : L2Kept s (s.regionRead p.pid p.latch.key pa must) := State.regionRead_l2Kept errs ht fits must
  have read : Stored p.pid s (s.regionRead p.pid p.latch.key pa must) := Stored.of_l2Kept clean kept
  have latch := read.proc.trans found
  have stop := kept.homeStop errs pa 128 must
  have runs (t : State) (h : s.regionAtHome p.pid p.latch.key pa stores gate loads touched = t) :
      exec (.atomicAtHome p.pid row) s = .next t :=
    exec_atomicAtHome (by rw [atomicAtHome_sent found sent going open_ idle, req, ← h])
  have stopped (n : BitVec 2) (h : s.homeStop pa 128 must = n) (met : n ≠ 0) :
      ∃ t, exec (.atomicAtHome p.pid row) s = .next t ∧ answer t = some (false, p.latch.result, n) ∧ SameBytes s t := by
    refine ⟨_, runs _ (State.regionAtHome_stop (stop.trans h) met), ?_, (kept.same.trans (State.updLatch_same _ _ _)).bytes⟩
    exact (State.updLatch_answer latch _ (fun l => (l.done, l.result, l.stop))).trans (by rw [open_])
  refine ⟨fun gated off readable => ?_, fun off => stopped 2 (by simp [State.homeStop, off]) (by decide),
    fun off need bad => stopped 1 (by simp [State.homeStop, off, need, bad]) (by decide)⟩
  have free : s.homeStop pa 128 must = 0 := by
    obtain h | h := readable <;> simp [State.homeStop, off, h]
  have goes := State.regionAtHome_go (stores := stores) (touched := touched) (stop.trans free)
  have ok_iff : regionHolds (s.regionRead p.pid p.latch.key pa must) p.latch.key pa gate loads touched = true ↔
      holds ∧ ¬(loads = true ∧ touched = true) := by
    rw [regionHolds_iff (read.readable fits) gated]
    simp only [kept.same.physBytes]
    rfl
  refine ⟨fun held apart => ?_, fun fails => ?_⟩
  · have ok := ok_iff.2 ⟨held, apart⟩
    obtain ⟨stored, byte⟩ := State.putAll_spec (pid := p.pid) ht stores _ read.clean (read.readable fits) inside
    simp only [must] at ok
    simp only [ok, if_true] at goes
    refine ⟨_, runs _ goes, ?_, fun b => ?_⟩
    · exact (State.updLatch_answer (stored.proc.trans latch) _ (fun l => (l.done, l.result, l.stop))).trans (by rw [going]; rfl)
    · rw [State.performed, (State.updLatch_same _ _ _).physByte, byte, kept.same.physByte]
  · have ok : regionHolds (s.regionRead p.pid p.latch.key pa must) p.latch.key pa gate loads touched = false :=
      Bool.eq_false_iff.2 fun h => fails (ok_iff.1 h)
    simp only [must] at ok
    simp only [ok, Bool.false_eq_true, if_false] at goes
    refine ⟨_, runs _ goes, ?_, (kept.same.trans (State.updLatch_same _ _ _)).bytes⟩
    exact (State.updLatch_answer latch _ (fun l => (l.done, l.result, l.stop))).trans (by rw [going]; rfl)

/-! ### A row of a TRED at its home -/

/-- The state in which the home of a row has read the row's elements. -/
def State.rowRead (s : State) (pid : Pid) (hint : Hint) (z : Nat) (l : List ((Nat × Nat) × Option Nat)) : State :=
  l.foldl (fun s e => s.noteRead (s.viaOf pid e.2 hint) e.1.1 z) s

theorem State.rowRead_l2Kept {pid : Pid} {hint : Hint} {z : Nat} (hz : 0 < z) : ∀ (l : List ((Nat × Nat) × Option Nat)) (s : State),
    s.errs = [] → (∀ e ∈ l, e.1.1 + z ≤ hbmTop ∧ Readable s e.2 e.1.1 z) → L2Kept s (s.rowRead pid hint z l)
  | [], s, _, _ => L2Kept.refl s
  | e :: rest, s, errs, fits => by
    obtain ⟨⟨ht, here⟩, fits⟩ := List.forall_mem_cons.1 fits
    have first := State.noteRead_l2Kept (v := s.viaOf pid e.2 hint) (pa := e.1.1) (n := z) (by omega) errs here
    exact first.trans (State.rowRead_l2Kept hz rest _ (first.errs.trans errs)
      fun x hx => ⟨(fits x hx).1, fun sec hs => State.Fits.of_l2Kept ((fits x hx).2 sec hs) first⟩)

theorem State.physBytes_of_physByte {s t : State} {pa n : Nat} (h : ∀ b, pa ≤ b → b < pa + n → t.physByte b = s.physByte b) :
    t.physBytes pa n = s.physBytes pa n := by
  refine List.ext_getElem (by simp [State.physBytes_length]) fun i hi _ => ?_
  rw [State.physBytes_length] at hi
  rw [State.physBytes_getElem, State.physBytes_getElem, h _ (by omega) (by omega)]

/-- The bytes that a TRED leaves where an element of memory stood. -/
def tredBytes (s : State) (ty : Ty) (pa c : Nat) : List Byte :=
  bytesOf (ty.bits / 8) (tredSum ty (ofBytes (s.physBytes pa (ty.bits / 8))) c)

@[simp] theorem tredBytes_length (s : State) (ty : Ty) (pa c : Nat) : (tredBytes s ty pa c).length = ty.bits / 8 := bytesOf_length _ _

/-- One element of a row is added to the one in memory. -/
def State.addElem (s : State) (pid : Pid) (ty : Ty) (hint : Hint) (e : (Nat × Nat) × Option Nat) : State :=
  ((s.sealFor e.2 e.1.1 (ty.bits / 8)).storeVia pid hint e.1.1
    (bytesOf (ty.bits / 8) (tredSum ty (ofBytes (s.bytesAs e.2 e.1.1 (ty.bits / 8))) e.1.2))).flushFor e.1.1

theorem State.addElem_eq {s : State} {pid : Pid} {ty : Ty} {hint : Hint} {e : (Nat × Nat) × Option Nat} (hp : e.1.1 < hbmTop)
    (fits : Readable s e.2 e.1.1 (ty.bits / 8)) :
    s.addElem pid ty hint e = s.homePut pid hint e.2 e.1.1 (tredBytes s ty e.1.1 e.1.2) := by
  rw [State.addElem, State.flushFor_hbm _ hp, State.bytesAs_of_fits fits, State.homePut, tredBytes_length, tredBytes]

theorem State.addElems_spec {pid : Pid} {ty : Ty} {hint : Hint} (hz : 0 < ty.bits / 8) :
    ∀ (l : List ((Nat × Nat) × Option Nat)) (s : State), Sound s →
      (∀ e ∈ l, e.1.1 + ty.bits / 8 ≤ hbmTop ∧ Readable s e.2 e.1.1 (ty.bits / 8)) →
      l.Pairwise (fun x y => x.1.1 + ty.bits / 8 ≤ y.1.1 ∨ y.1.1 + ty.bits / 8 ≤ x.1.1) →
      let t := l.foldl (fun s e => s.addElem pid ty hint e) s
      Stored pid s t ∧ (∀ e ∈ l, t.physBytes e.1.1 (ty.bits / 8) = tredBytes s ty e.1.1 e.1.2)
        ∧ ∀ b, (∀ e ∈ l, b < e.1.1 ∨ e.1.1 + ty.bits / 8 ≤ b) → t.physByte b = s.physByte b
  | [], s, clean, _, _ => ⟨Stored.refl clean, by simp, fun _ _ => rfl⟩
  | e :: rest, s, clean, fits, apart => by
    obtain ⟨⟨ht, here⟩, fits⟩ := List.forall_mem_cons.1 fits
    obtain ⟨away, apart⟩ := List.pairwise_cons.1 apart
    have put := State.addElem_eq (pid := pid) (hint := hint) (by omega) here
    have here' : Readable s e.2 e.1.1 (tredBytes s ty e.1.1 e.1.2).length := by simpa using here
    have top : e.1.1 + (tredBytes s ty e.1.1 e.1.2).length ≤ hbmTop := by simpa using ht
    have first := State.homePut_stored clean here' top pid hint
    have byte := State.homePut_physByte clean here' top pid hint
    rw [← put] at first byte
    have outside (b : Nat) (hb : b < e.1.1 ∨ e.1.1 + ty.bits / 8 ≤ b) : (s.addElem pid ty hint e).physByte b = s.physByte b := by
      rw [byte, dif_neg (by rw [tredBytes_length]; omega)]
    obtain ⟨stored, values, others⟩ := State.addElems_spec hz rest _ first.clean
      (fun x hx => ⟨(fits x hx).1, first.readable (fits x hx).2⟩) apart
    refine ⟨first.trans stored, fun x hx => ?_, fun b hb => ?_⟩
    · rw [List.foldl_cons]
      obtain rfl | hx := List.mem_cons.1 hx
      · have put := State.physBytes_of_put byte
        rw [tredBytes_length] at put
        rw [← put]
        exact State.physBytes_of_physByte fun b low high => others b fun y hy => by
          have := away y hy
          omega
      · rw [values x hx, tredBytes, tredBytes, State.physBytes_of_physByte fun b low high => outside b (by
          have := away x hx
          omega)]
    · obtain ⟨hb, hrest⟩ := List.forall_mem_cons.1 hb
      rw [List.foldl_cons, others b hrest, outside b hb]

section
variable {s : State} {pid : Pid} {ty : Ty} {hint : Hint} {r : TredRow}

theorem State.tredRowAtHome_stop {stop : BitVec 2}
    (met : (r.elems.map (fun e => (s.rowRead pid hint (ty.bits / 8) (r.elems.zip r.keys)).homeStop e.1 (ty.bits / 8) true)).find?
      (fun x => x != 0) = some stop) :
    s.tredRowAtHome pid ty hint r
      = (s.rowRead pid hint (ty.bits / 8) (r.elems.zip r.keys)).updLatch pid (fun l => { l with stop := stop }) := by
  unfold State.rowRead at met ⊢
  simp only [State.tredRowAtHome, met]

theorem State.tredRowAtHome_go
    (free : ∀ e ∈ r.elems, (s.rowRead pid hint (ty.bits / 8) (r.elems.zip r.keys)).homeStop e.1 (ty.bits / 8) true = 0) :
    s.tredRowAtHome pid ty hint r
      = ((r.elems.zip r.keys).foldl (fun s e => s.addElem pid ty hint e)
          (s.rowRead pid hint (ty.bits / 8) (r.elems.zip r.keys))).updLatch pid
            (fun l => { l with rows := l.rows ||| BitVec.ofNat 64 (2 ^ r.row) }) := by
  have none : (r.elems.map (fun e => (s.rowRead pid hint (ty.bits / 8) (r.elems.zip r.keys)).homeStop e.1 (ty.bits / 8) true)).find?
      (fun x => x != 0) = none := by
    rw [List.find?_eq_none]
    intro x hx
    obtain ⟨e, he, rfl⟩ := List.mem_map.1 hx
    simp [free e he]
  unfold State.rowRead at none ⊢
  simp only [State.tredRowAtHome, none]
  rfl

end

theorem exists_key_of_mem {r : TredRow} (h : r.keys.length = r.elems.length) {e : Nat × Nat} (he : e ∈ r.elems) :
    ∃ k, (e, k) ∈ r.elems.zip r.keys := by
  obtain ⟨i, hi, rfl⟩ := List.mem_iff_getElem.1 he
  exact ⟨r.keys[i], List.mem_iff_getElem.2 ⟨i, by simp [hi, h], by simp⟩⟩

theorem tredRowAtHomePart : Claims.TredRowAtHomePart := by
  intro s p ti rows span hint r z sum found sent going open_ idle req named due narrow first memOk errs cells entries keys
    whole pos fits apart
  have clean : Sound s := ⟨memOk, errs, cells, entries⟩
  have hz : 0 < ti.bits / 8 := by omega
  let l := r.elems.zip r.keys
  have kept : L2Kept s (s.rowRead p.pid hint z l) := State.rowRead_l2Kept hz l s errs fits
  have read : Stored p.pid s (s.rowRead p.pid hint z l) := Stored.of_l2Kept clean kept
  have latch := read.proc.trans found
  have stop (pa : Nat) := kept.homeStop errs pa z true
  have runs (t : State) (h : s.tredRowAtHome p.pid ti hint r = t) :
      exec (.atomicAtHome p.pid r.row) s = .next (t.updLatch p.pid (fun l => { l with done := l.rowsLeft.isEmpty })) :=
    exec_atomicAtHome (by rw [atomicAtHome_sent found sent going open_ idle, req]; simp [named, due, first, h])
  have answers (u : State) (f g : Latch → Latch) (h : u.proc? p.pid = some p) :
      (((u.updLatch p.pid f).updLatch p.pid g).proc? p.pid).map (fun q => (q.latch.rows, q.latch.stop))
        = some ((g (f p.latch)).rows, (g (f p.latch)).stop) := by
    rw [State.updLatch_proc?, State.updLatch_proc?, h]
    rfl
  by_cases free : ∀ e ∈ r.elems, s.offlineAt e.1 = false ∧ s.rangeBad e.1 z = false
  · have goes : ∀ e ∈ r.elems, (s.rowRead p.pid hint z l).homeStop e.1 z true = 0 := fun e he => by
      obtain ⟨off, bad⟩ := free e he
      rw [stop, State.homeStop, off, bad]
      rfl
    obtain ⟨stored, values, others⟩ := State.addElems_spec (pid := p.pid) (hint := hint) hz l _ read.clean
      (fun e he => ⟨(fits e he).1, read.readable (fits e he).2⟩) (by
        rw [← List.pairwise_map (f := Prod.fst) (R := fun x y : Nat × Nat => x.1 + z ≤ y.1 ∨ y.1 + z ≤ x.1),
          List.map_fst_zip (by omega)]
        exact apart)
    refine ⟨_, runs _ (State.tredRowAtHome_go goes), fun _ => ⟨fun e he => ?_, fun b hb => ?_, ?_⟩, fun e rest first bad => ?_⟩
    · obtain ⟨k, hk⟩ := exists_key_of_mem keys he
      rw [(State.updLatch_same _ _ _).physBytes, (State.updLatch_same _ _ _).physBytes]
      refine (values _ hk).trans ?_
      rw [tredBytes, kept.same.physBytes]
      rfl
    · rw [(State.updLatch_same _ _ _).physByte, (State.updLatch_same _ _ _).physByte]
      refine (others b fun e he => hb e.1 (List.of_mem_zip he).1).trans ?_
      rw [kept.same.physByte]
    · refine (answers _ _ _ (stored.proc.trans latch)).trans ?_
      rw [going]
    · obtain ⟨off, good⟩ := free e (by rw [first]; exact List.mem_cons_self)
      simp [off, good] at bad
  · obtain ⟨n, met⟩ : ∃ n, (r.elems.map (fun e => (s.rowRead p.pid hint z l).homeStop e.1 z true)).find? (fun x => x != 0) = some n := by
      rw [← Option.isSome_iff_exists, List.find?_isSome]
      push Not at free
      obtain ⟨e, he, bad⟩ := free
      refine ⟨_, List.mem_map_of_mem he, ?_⟩
      rw [stop, State.homeStop]
      cases off : s.offlineAt e.1 with
      | true => rfl
      | false => simp [bad off]
    refine ⟨_, runs _ (State.tredRowAtHome_stop met), fun all => absurd all free, fun e rest first bad => ⟨?_, ?_⟩⟩
    · exact ((kept.same.trans (State.updLatch_same _ _ _)).trans (State.updLatch_same _ _ _)).bytes
    · refine (answers _ _ _ latch).trans ?_
      have which : s.homeStop e.1 z true = if s.offlineAt e.1 then 2 else 1 := by
        rw [State.homeStop]
        cases off : s.offlineAt e.1 with
        | true => rfl
        | false =>
          rw [off] at bad
          simp [bad.resolve_left (by decide)]
      have heads : (r.elems.map (fun e => (s.rowRead p.pid hint z l).homeStop e.1 z true)).find? (fun x => x != 0)
          = some (s.homeStop e.1 z true) := by
        rw [first, List.map_cons, stop, List.find?_cons_of_pos]
        rw [which]
        split <;> rfl
      obtain rfl : s.homeStop e.1 z true = n := Option.some.inj (heads.symm.trans met)
      rw [which]

/-- Settles O13: the values of the ops, and what an AMO, a region and a row of a TRED do at their homes. -/
theorem amoAtHome : Obligations.AmoAtHome := ⟨amoAtHomePart, amoValues, regionAtHomePart, tredRowAtHomePart⟩

end Sys2Proof.Machine
end

section
/-! Taking a trap (15_traps.md R387, R392 to R394): a user process parks with its record, a supervisor's partition ends. -/

namespace Sys2Proof.Machine
open Sys2Proof Sys2Proof.Claims

/-! ### Parking a resident process -/

theorem State.enqueue_held {s : State} {pid : Pid} {p : Proc} (found : s.proc? pid = some p) (h : p.queueable = false) :
    s.enqueue pid = s := by simp [State.enqueue, found, h]

theorem Proc.queueable_held {p : Proc} (h : p.held = true) : p.queueable = false := by simp [Proc.queueable, h]

@[simp] theorem State.freeSlot_proc? (s : State) (c slot : Nat) (pid q : Pid) : (s.freeSlot c slot pid).proc? q = s.proc? q := by
  simp [State.freeSlot]

@[simp] theorem State.dequeue_proc? (s : State) (pid q : Pid) : (s.dequeue pid).proc? q = s.proc? q := by
  unfold State.dequeue
  split <;> simp

/-- The process that a park with hold leaves, from a slot of core c. -/
def Proc.parkedAt (p : Proc) (c home : Nat) : Proc :=
  { p.squash with place := .parked, home := home, ran := c, imageOk := false, held := true }

section
variable {s : State} {pid : Pid} {p : Proc} {c k : Nat} (found : s.proc? pid = some p) (resident : p.place = .resident c k)
include found resident

theorem State.parkNow_resident :
    s.parkNow pid true = (s.updProc pid (fun p => { p.squash with
      place := .parked, home := s.homeAt c, ran := c, imageOk := false, held := p.held || true })).freeSlot c k pid := by
  have pid_eq (q : Proc) : q.squash.pid = q.pid := by
    unfold Proc.squash Proc.rollback
    split <;> rfl
  simp only [State.parkNow, found, resident]
  refine State.enqueue_held (p := p.parkedAt c (s.homeAt c)) ?_ (Proc.queueable_held rfl)
  rw [State.freeSlot_proc?, State.proc?_updProc _ _ _ _ (fun q => by exact pid_eq q), if_pos rfl, found]
  simp [Proc.parkedAt]

theorem State.parkNow_proc? : (s.parkNow pid true).proc? pid = some (p.parkedAt c (s.homeAt c)) := by
  have pid_eq (q : Proc) : q.squash.pid = q.pid := by
    unfold Proc.squash Proc.rollback
    split <;> rfl
  rw [State.parkNow_resident found resident, State.freeSlot_proc?, State.proc?_updProc _ _ _ _ (fun q => by exact pid_eq q),
    if_pos rfl, found]
  simp [Proc.parkedAt]

theorem State.parkNow_slot (hc : c < 90) (hk : k < 4) : ((s.parkNow pid true).core c).slots[k] = none := by
  rw [State.parkNow_resident found resident, State.freeSlot, State.core_updCore _ _ _ hc]
  simp [hk]

end

/-! ### A trap of a user process -/

theorem State.mem_placeRecord (s : State) (x : Sum Pid Nat) (cycle : Word) (pid : Pid) (new : Option Record) :
    ∀ (l : List (Sum Pid Nat)) (is : List Record), x ∈ (s.placeRecord x cycle pid new l is).1
  | [], _ => by simp [State.placeRecord]
  | .inl q :: r, is => by
    unfold State.placeRecord
    split
    · exact List.mem_cons_self
    · exact List.mem_cons_of_mem _ (State.mem_placeRecord s x cycle pid new r is)
  | .inr n :: r, i :: is => by
    unfold State.placeRecord
    split
    · exact List.mem_cons_self
    · exact List.mem_cons_of_mem _ (State.mem_placeRecord s x cycle pid new r is)
  | .inr n :: r, [] => List.mem_cons_of_mem _ (State.mem_placeRecord s x cycle pid new r [])

/-- The process that a trap at core c leaves. -/
def Proc.trapped (p : Proc) (c home : Nat) (r : Record) : Proc :=
  { p.parkedAt c home with faulted := true, held := true, stepping := false, record := some r }

theorem State.dequeue_core_slots (s : State) (pid : Pid) (c : Nat) : ((s.dequeue pid).core c).slots = (s.core c).slots := by
  unfold State.dequeue
  split
  · rfl
  next p _ =>
    by_cases hc : c = p.home
    · subst hc
      by_cases inside : p.home < 90
      · rw [State.core_updCore _ _ _ inside]
      · simp [State.core, inside]
    · rw [State.core_updCore_other _ _ _ _ hc]

section
variable {s : State} {pid : Pid} {p : Proc} {c k : Nat} (found : s.proc? pid = some p) (resident : p.place = .resident c k)
  (user : p.sup = false) (well : p.faulted = false) (t : TrapInfo) (w0 w1 : Word32) (cycle : Word)
include found resident user well

theorem State.trapNow_user : s.trapNow pid t w0 w1 cycle =
    (((s.parkNow pid true).dequeue pid).updProc pid (fun p' => { p' with
        faulted := true, held := true, stepping := false, record := some { s.recordOf p t w0 w1 with cycle := cycle } })).updPart
      p.part (fun q => { q with order := (s.placeRecord (.inl pid) cycle pid none q.order q.infos).1 }) := by
  have meets : p.trapVoid = false := by simp [Proc.trapVoid, Proc.isExiting, resident, well]
  simp [State.trapNow, found, meets, user]

theorem State.trapNow_proc? : (s.trapNow pid t w0 w1 cycle).proc? pid
    = some (p.trapped c (s.homeAt c) { s.recordOf p t w0 w1 with cycle := cycle }) := by
  rw [State.trapNow_user found resident user well, State.updPart_proc?, State.proc?_updProc _ _ _ _ (fun q => by rfl), if_pos rfl,
    State.dequeue_proc?, State.parkNow_proc? found resident]
  rfl

theorem State.trapNow_slot (hc : c < 90) (hk : k < 4) : ((s.trapNow pid t w0 w1 cycle).core c).slots[k] = none := by
  rw [State.trapNow_user found resident user well, State.updPart_core, State.updProc_core]
  simp only [State.dequeue_core_slots]
  exact State.parkNow_slot found resident hc hk

theorem State.trapNow_order (known : s.part? p.part ≠ none) : .inl pid ∈ ((s.trapNow pid t w0 w1 cycle).part p.part).order := by
  have kept : (((s.parkNow pid true).dequeue pid).updProc pid (fun p' => { p' with
      faulted := true, held := true, stepping := false, record := some { s.recordOf p t w0 w1 with cycle := cycle } })).standing
      = s.standing := by simp
  obtain ⟨q, hq⟩ := Option.isSome_iff_exists.1 ((State.part?_isSome_of_standing kept p.part).trans (Option.isSome_iff_ne_none.2 known))
  rw [State.trapNow_user found resident user well, State.part_updPart hq (fun _ => by rfl)]
  exact State.mem_placeRecord s _ _ _ _ _ _

end

/-! ### A trap of a supervisor: the partition ends -/

@[simp] theorem State.rejoin_host (s : State) (pid : Pid) : (s.rejoin pid).host = s.host := by
  unfold State.rejoin
  repeat' split
  all_goals simp

@[simp] theorem State.enqueue_host (s : State) (pid : Pid) : (s.enqueue pid).host = s.host := by
  unfold State.enqueue
  repeat' split
  all_goals simp

@[simp] theorem State.dequeue_host (s : State) (pid : Pid) : (s.dequeue pid).host = s.host := by
  unfold State.dequeue
  split <;> simp

@[simp] theorem State.parkNow_host (s : State) (pid : Pid) (hold : Bool) : (s.parkNow pid hold).host = s.host := by
  unfold State.parkNow
  repeat' split
  all_goals simp [State.freeSlot]

@[simp] theorem State.parkProc_host (s : State) (pid : Pid) (hold : Bool) : (s.parkProc pid hold).host = s.host := by
  unfold State.parkProc
  split <;> simp [State.latchAt]

@[simp] theorem State.fillSpill_host (s : State) (r : Rec) : (s.fillSpill r).host = s.host := by
  unfold State.fillSpill
  split
  · exact State.host_of_bare (State.fillL2_bare s _ _ _)
  · rfl

@[simp] theorem State.unqueueEnded_host (s : State) (c : Nat) (r : Rec) : (s.unqueueEnded c r).host = s.host := by
  unfold State.unqueueEnded
  split <;> simp [State.unqueue, State.segmentOff, State.updRec]

theorem State.foldl_host {α : Type} {f : State → α → State} (hf : ∀ s a, (f s a).host = s.host) (l : List α) (s : State) :
    (l.foldl f s).host = s.host :=
  foldl_keeps (fun t : State => t.host = s.host) f (fun t a h => (hf t a).trans h) l s rfl

@[simp] theorem State.parkAll_host (s : State) (part : Nat) (keep : Pid) : (s.parkAll part keep).host = s.host := by
  unfold State.parkAll
  dsimp only
  exact (State.foldl_host (fun s (p : Proc) => State.parkProc_host s p.pid true) _ _).trans
    (State.foldl_host (fun s c => State.foldl_host (fun s r => State.unqueueEnded_host s c r) _ s) _ s)

theorem State.hostEvent_events (s : State) (k : Nat) (w : List Word) (h : s.host.events.length < 64) :
    (s.hostEvent k w).host.events = s.host.events ++ [{ kind := k, words := w }] := by
  simp [State.hostEvent, Nat.not_le.2 h]

/-- The state in which a partition has ended and its supervisor, if it has one, is faulted. -/
def State.ended (s : State) (part : Nat) : State :=
  let s1 := (s.parkAll part 0).updPart part (fun q => { q with ended := true })
  match (s.part part).sup with
  | some sup => s1.updProc sup (fun p => { p with faulted := true })
  | none => s1

theorem State.fatal_eq (s : State) (part : Nat) (r : Record) : s.fatal part r = (s.ended part).hostEvent 1 (r.words.take 63) := rfl

theorem State.ended_host (s : State) (part : Nat) : (s.ended part).host = s.host := by
  unfold State.ended
  split <;> simp

theorem State.ended_part {s : State} {part : Nat} (known : s.part? part ≠ none) : ((s.ended part).part part).ended = true := by
  obtain ⟨q, hq⟩ := Option.isSome_iff_exists.1 ((State.part?_isSome_of_standing (s.parkAll_standing part 0) part).trans
    (Option.isSome_iff_ne_none.2 known))
  have ended := State.part_updPart hq (f := fun q => { q with ended := true }) (fun _ => by rfl)
  unfold State.ended
  split
  · rw [State.part, State.part?, State.updProc_parts]
    exact congrArg Part.ended ended
  · exact congrArg Part.ended ended

/-- Settles O39: the two traps by their equations, the two forms that carry words by their definitions. -/
theorem trapEntry : Obligations.TrapEntry := by
  intro s x w0 w1 addr
  refine ⟨?_, ?_, rfl, ?_⟩
  · intro c k named user well resident hc
    have found : s.proc? s.cur.pid = some s.cur := by rw [State.proc?, if_neg named, if_pos rfl]
    refine ⟨s.takeTrap x, rfl, (State.takeTrap_same s x).bytes, fun hk => ?_, fun known => ?_, ?_⟩
    · exact State.trapNow_slot found resident user well x _ _ _ hc hk
    · exact State.trapNow_order found resident user well x _ _ _ known
    · refine ⟨_, State.trapNow_proc? found resident user well x _ _ _, rfl, rfl, rfl, rfl, rfl, rfl, rfl, ?_⟩
      simp [Proc.trapped, State.recordOf, Proc.core, resident]
  · intro named sup well going
    have found : s.proc? s.cur.pid = some s.cur := by rw [State.proc?, if_neg named, if_pos rfl]
    have meets : s.cur.trapVoid = false := by simp [Proc.trapVoid, going, well]
    have ends : s.takeTrap x = s.fatal s.cur.part { s.recordOf s.cur x s.cur.iw0 s.cur.iw1 with cycle := s.cycle } := by
      simp [State.takeTrap, State.trapNow, found, meets, sup]
    refine ⟨s.takeTrap x, rfl, (State.takeTrap_same s x).bytes, fun known => ?_, fun room => ?_⟩
    · rw [ends, State.fatal_eq, State.part, State.part?, State.hostEvent_parts]
      exact State.ended_part known
    · rw [ends, State.fatal_eq, State.hostEvent_events _ _ _ (by rwa [State.ended_host]), State.ended_host]
      exact ⟨_, rfl⟩
  · intro c hc
    simp only [List.mem_cons, List.not_mem_nil, or_false] at hc
    obtain rfl | rfl | rfl | rfl := hc <;> rfl

end Sys2Proof.Machine
end

section
/-! The answers of an atomic: its reply, its stop, and what waits for it (11_memory.md R308, R313, R315). -/

namespace Sys2Proof.Machine
open Sys2Proof Sys2Proof.Claims

/-! ### What the dropped lines leave -/

theorem State.dropL1_bare (s : State) (c pa n : Nat) : (s.dropL1 c pa n).bare = s.bare :=
  State.updCore_bare (fun _ => by rfl) s c

theorem State.dropRequest_bare (s : State) (l : Latch) : (s.dropRequest l).bare = s.bare := by
  unfold State.dropRequest
  split
  · split
    · exact State.dropL1_bare _ _ _ _
    · rfl
  · split
    · exact State.dropL1_bare _ _ _ _
    · rfl
  · exact State.foldl_bare (fun s r => State.foldl_bare (fun s e => State.dropL1_bare s _ _ _) _ _) _ _
  · rfl

theorem State.core_of_bare {s t : State} (h : t.bare = s.bare) (c : Nat) : (t.core c).bare = (s.core c).bare := by
  have cores : t.cores.map Core.bare = s.cores.map Core.bare := by
    change t.bare.cores = s.bare.cores
    rw [h]
  unfold State.core
  split
  next hc =>
    have same := congrArg (fun v : Vector Core 90 => v[c]) cores
    simpa using same
  next => rfl

theorem State.pausedCore_of_bare {s t : State} (h : t.bare = s.bare) (pid : Pid) : t.pausedCore pid = s.pausedCore pid := by
  have pause (c : Nat) : (t.core c).pause = (s.core c).pause := by
    change (t.core c).bare.pause = (s.core c).bare.pause
    rw [State.core_of_bare h]
  simp [State.pausedCore, State.proc?_of_bare h, pause]

theorem State.pausedCore_updLatch (s : State) (pid : Pid) (f : Latch → Latch) : (s.updLatch pid f).pausedCore pid = s.pausedCore pid := by
  rw [State.pausedCore, State.updLatch_proc?, State.pausedCore]
  cases s.proc? pid with
  | none => rfl
  | some p => simp [State.updLatch]

/-- An image that is not complete is not written. -/
theorem State.syncImage_out {s : State} {pid : Pid} {p : Proc} (found : s.proc? pid = some p) (out : p.inImage = false)
    (l : Proc → List (Nat × List Byte)) : s.syncImage pid l = s := by
  simp [State.syncImage, found, out]

/-! ### The reply -/

/-- What a process is before the reply's register is written. -/
def Proc.cleared (p : Proc) : Proc := { p with latch := p.latch.clear }

theorem State.cleared_proc? {s : State} {p : Proc} (found : s.proc? p.pid = some p) :
    ((s.dropRequest p.latch).updLatch p.pid Latch.clear).proc? p.pid = some p.cleared := by
  rw [State.updLatch_proc?, State.proc?_of_bare (State.dropRequest_bare s p.latch), found]
  rfl

theorem State.cleared_paused (s : State) (p : Proc) (f : Latch → Latch) :
    ((s.dropRequest p.latch).updLatch p.pid f).pausedCore p.pid = s.pausedCore p.pid := by
  rw [State.pausedCore_updLatch, State.pausedCore_of_bare (State.dropRequest_bare s p.latch)]

theorem State.cleared_same (s : State) (p : Proc) (f : Latch → Latch) : SameMem s ((s.dropRequest p.latch).updLatch p.pid f) :=
  (State.dropRequest_same s p.latch).trans (State.updLatch_same _ _ _)

/-- The write of one register to a process that is not parked. -/
theorem State.writeWhen_one {s : State} {pid : Pid} {p : Proc} (found : s.proc? pid = some p) (running : s.pausedCore pid = none)
    (out : p.place ≠ .parked) (d : SReg) (v : Word) :
    let w := { Writes.step 0 with s := [(d, v)] }
    s.writeWhen pid w = s.updProc pid (fun p => p.take w) ∧ (s.updProc pid (fun p => p.take w)).proc? pid = some (p.take w) := by
  intro w
  have taken : (s.updProc pid (fun p => p.take w)).proc? pid = some (p.take w) := by
    rw [State.proc?_updProc _ _ _ _ (fun p => p.take_pid w), if_pos rfl, found]
    rfl
  refine ⟨?_, taken⟩
  simp only [State.writeWhen, running, State.write]
  exact State.syncImage_resident taken (by rwa [p.take_place w]) _

theorem Proc.take_one (p : Proc) (d : SReg) (v : Word) :
    let q := p.take { Writes.step 0 with s := [(d, v)] }
    q.latch = p.latch ∧ q.ip = p.ip ∧ (d ≠ 0 → q.rd d = v) ∧ ∀ r, r ≠ d → q.rd r = p.rd r := by
  by_cases hd : d = 0
  · simp [Proc.take, Writes.step, Proc.wr, hd, Proc.rd]
  · refine ⟨by simp [Proc.take, Writes.step, Proc.wr, hd], by simp [Proc.take, Writes.step, Proc.wr, hd], ?_, ?_⟩
    · intro _
      simp [Proc.take, Writes.step, Proc.wr, hd, Proc.rd]
    · intro r hr
      have apart : d.val ≠ r.val := fun h => hr (Fin.ext h.symm)
      simp [Proc.take, Writes.step, Proc.wr, hd, Proc.rd, apart]

theorem atomicReply_answers {s : State} {p : Proc} (found : s.proc? p.pid = some p) (sent : p.latch.sent = true)
    (answered : p.latch.done = true) (running : s.pausedCore p.pid = none) (out : p.place ≠ .parked) :
    ∃ t, exec (.atomicReply p.pid) s = .next t ∧ SameBytes s t
      ∧ ∃ q, t.proc? p.pid = some q ∧ q.latch.sent = false ∧ q.latch.kind = 0 ∧ q.ip = p.ip
        ∧ (∀ d v, p.latch.req.dest = some d → p.latch.result = some v → d ≠ 0 → q.rd d = v)
        ∧ (∀ r, p.latch.req.dest ≠ some r → q.rd r = p.rd r) := by
  let u := (s.dropRequest p.latch).updLatch p.pid Latch.clear
  have cleared : u.proc? p.pid = some p.cleared := State.cleared_proc? found
  have same : SameMem s u := State.cleared_same s p Latch.clear
  have replies (t : State) (h : tryAtomicReply p.pid s = some t) : exec (.atomicReply p.pid) s = .next t := by
    change s.occur (tryAtomicReply p.pid s) = _
    rw [h]
    rfl
  have tries : tryAtomicReply p.pid s = match p.latch.req.dest, p.latch.result with
      | some d, some v => some (u.writeWhen p.pid { Writes.step 0 with s := [(d, v)] })
      | _, _ => some u := by
    simp only [tryAtomicReply, found, sent, answered]
    rfl
  cases hd : p.latch.req.dest with
  | none =>
    rw [hd] at tries
    exact ⟨u, replies u tries, same.bytes, p.cleared, cleared, rfl, rfl, rfl, by simp, fun _ _ => rfl⟩
  | some d =>
    cases hv : p.latch.result with
    | none =>
      rw [hd, hv] at tries
      exact ⟨u, replies u tries, same.bytes, p.cleared, cleared, rfl, rfl, rfl, by simp, fun _ _ => rfl⟩
    | some v =>
      rw [hd, hv] at tries
      obtain ⟨written, taken⟩ := State.writeWhen_one cleared ((State.cleared_paused s p Latch.clear).trans running) out d v
      obtain ⟨latch, ip, value, others⟩ := p.cleared.take_one d v
      refine ⟨_, replies _ tries, ?_, _, by rw [written, taken], by rw [latch]; rfl, by rw [latch]; rfl, ip, ?_, ?_⟩
      · rw [written]
        exact (same.trans (State.updProc_same _ _ _)).bytes
      · intro d' v' hd' hv' named
        obtain rfl := Option.some.inj hd'
        obtain rfl := Option.some.inj hv'
        exact value named
      · intro r hr
        exact others r fun h => hr (by rw [h])

/-! ### The stop -/

theorem Proc.squash_latch (p : Proc) : p.squash.latch = p.latch := by
  unfold Proc.squash Proc.rollback
  split <;> rfl

theorem exec_atomicStop {s t : State} {pid : Pid} (h : tryAtomicStop pid s = some t) : exec (.atomicStop pid) s = .next t := by
  change s.occur (tryAtomicStop pid s) = _
  rw [h]
  rfl

theorem atomicStop_traps {s : State} {p : Proc} {c k : Nat} (found : s.proc? p.pid = some p) (sent : p.latch.sent = true)
    (stopped : p.latch.stop ≠ 0) (untold : p.latch.told = false) (well : p.faulted = false) (user : p.sup = false)
    (resident : p.place = .resident c k) (running : s.pausedCore p.pid = none) :
    ∃ t, exec (.atomicStop p.pid) s = .next t ∧ SameBytes s t
      ∧ ∃ q, t.proc? p.pid = some q ∧ q.place = .parked ∧ q.faulted = true ∧ q.held = true ∧ q.latch.sent = true
        ∧ q.record.map (fun r => (r.cause, r.addr, r.detail, r.iw0, r.iw1))
            = some (.atomic, p.latch.addr.setWidth 64, p.latch.stop.setWidth 40, 0, 0) := by
  let u := (s.dropRequest p.latch).updLatch p.pid (fun l => { l with told := true })
  let x : TrapInfo := { cause := .atomic, addr := p.latch.addr.setWidth 64, detail := p.latch.stop.setWidth 40 }
  have told : u.proc? p.pid = some { p with latch := { p.latch with told := true } } := by
    rw [State.updLatch_proc?, State.proc?_of_bare (State.dropRequest_bare s p.latch), found]
    rfl
  have proc := State.trapNow_proc? told resident user well x 0 0 u.cycle
  have traps : u.trapParked p.pid x 0 0 = u.trapNow p.pid x 0 0 u.cycle := by
    have now : u.trapProc p.pid x 0 0 = u.trapNow p.pid x 0 0 u.cycle := by
      simp only [State.trapProc, (State.cleared_paused s p (fun l => { l with told := true })).trans running, u]
    rw [State.trapParked, now]
    exact State.syncImage_out proc rfl _
  have stops : ¬p.latch.stop = 0#2 := stopped
  have tries : tryAtomicStop p.pid s = some (u.trapParked p.pid x 0 0) := by
    simp [tryAtomicStop, found, sent, stops, untold, well, resident, u, x]
  refine ⟨_, exec_atomicStop tries, ?_, ?_⟩
  · rw [traps]
    exact ((State.cleared_same s p _).trans (State.trapNow_same _ _ _ _ _ _)).bytes
  · rw [traps]
    refine ⟨_, proc, rfl, rfl, rfl, ?_, rfl⟩
    exact (congrArg Latch.sent (Proc.squash_latch _)).trans sent

theorem atomicStop_abandons {s : State} {p : Proc} {c k : Nat} (found : s.proc? p.pid = some p) (sent : p.latch.sent = true)
    (stopped : p.latch.stop ≠ 0) (untold : p.latch.told = false) (exiting : p.place = .exiting c k) :
    ∃ t, exec (.atomicStop p.pid) s = .next t ∧ SameBytes s t ∧ (t.proc? p.pid).map (fun q => q.latch.sent) = some false := by
  have stops : ¬p.latch.stop = 0#2 := stopped
  have tries : ∃ r, tryAtomicStop p.pid s = some (((s.dropRequest p.latch).infoRecord p.part r).updLatch p.pid Latch.clear) := by
    simp only [tryAtomicStop, found, sent, untold, exiting, Proc.isExiting]
    exact ⟨_, if_neg (by simpa using stops)⟩
  obtain ⟨r, tries⟩ := tries
  refine ⟨_, exec_atomicStop tries, ?_, ?_⟩
  · exact ((State.dropRequest_same s _).trans ((State.infoRecord_same _ _ _).trans (State.updLatch_same _ _ _))).bytes
  · rw [State.updLatch_proc?, State.infoRecord, State.updPart_proc?, State.proc?_of_bare (State.dropRequest_bare s p.latch), found]
    rfl

/-! ### What waits for a request -/

/-- ADD waits for a request exactly where it names its register. -/
theorem waitsForLatch_add {s : State} {d a b r : SReg} (dest : s.cur.latch.req.dest = some r) (named : r ≠ 0)
    (fresh : s.cur.latch.resent = false) : s.waitsForLatch (.add d a b) = true ↔ r = d ∨ r = a ∨ r = b := by
  have eq : s.waitsForLatch (.add d a b) = (s.cur.latch.resent ||
      (s.cur.latch.req.dest.map (fun x => x != 0 && [d, a, b].contains x)).getD false) := by
    cases h : s.cur.latch.req.dest <;> simp only [State.waitsForLatch, h] <;> rfl
  rw [eq, fresh, dest]
  simp [named]

/-- Settles O14: the reply, the two stops, and the waits. -/
theorem atomicAnswers : Obligations.AtomicAnswers := by
  refine ⟨fun s p found sent => ⟨fun answered running out => atomicReply_answers found sent answered running out,
    fun c k stopped untold well user resident running =>
      atomicStop_traps found sent stopped untold well user resident running,
    fun stopped untold ⟨c, k, exiting⟩ => atomicStop_abandons found sent stopped untold exiting, ?_⟩, ?_, ?_⟩
  · intro r rest rob waits
    simp [State.mayRetire, rob, State.latchHolds, sent, waits]
  · intro s i sent scalar waits
    have later : s.runsAtOnce i = false := by simp [State.runsAtOnce, sent, waits]
    refine ⟨s.enterRob i, by simp [State.act, later], fun r => rfl, rfl, rfl, (State.setCur_same s _).bytes⟩
  · exact fun s d a b r dest named fresh => waitsForLatch_add dest named fresh

end Sys2Proof.Machine
end

section
/-! The scratchpad table's forms: STTW and STTI (10_scratchpad.md R279 to R282). -/

namespace Sys2Proof.Machine
open Sys2Proof Sys2Proof.Claims

/-! ### The fields of an entry -/

/-- A backing address names a page: only bits 12 to 51 are set. -/
def IsBacking (b : Word) : Prop := b &&& 0x000FFFFFFFFFF000 = b

theorem isBacking_and (v : Word) : IsBacking (v &&& 0x000FFFFFFFFFF000) := by
  rw [IsBacking, BitVec.and_assoc, BitVec.and_self]

theorem isBacking_zero : IsBacking 0 := BitVec.zero_and

theorem isBacking_sttBacking (e : Word) : IsBacking (sttBacking e) := isBacking_and e

theorem IsBacking.getLsbD {b : Word} (h : IsBacking b) {i : Nat} (hi : i < 12) : b.getLsbD i = false := by
  have clear : (0x000FFFFFFFFFF000 : Word).getLsbD i = false := (by decide : ∀ i < 12, (0x000FFFFFFFFFF000 : Word).getLsbD i = false) i hi
  rw [← show b &&& 0x000FFFFFFFFFF000 = b from h, BitVec.getLsbD_and, clear, Bool.and_false]

/-- The fields below the backing of an entry. -/
def sttFields (sv dirty r w : Bool) (st : Nat) : Nat := bit sv * 2 ^ 11 + bit dirty * 2 ^ 10 + bit r * 2 ^ 9 + bit w * 2 ^ 8 + st % 8

theorem sttEntry_eq (b : Word) (sv dirty r w : Bool) (st : Nat) :
    sttEntry b sv dirty r w st = b ||| BitVec.ofNat 64 (sttFields sv dirty r w st) := rfl

theorem sttFields_lt (sv dirty r w : Bool) (st : Nat) : sttFields sv dirty r w st < 2 ^ 12 := by
  have := Nat.mod_lt st (by decide : 0 < 8)
  have := bit_lt sv
  have := bit_lt dirty
  have := bit_lt r
  have := bit_lt w
  simp only [sttFields]
  omega

theorem sttFields_testBit (sv dirty r w : Bool) (st : Nat) :
    (sttFields sv dirty r w st).testBit 11 = sv ∧ (sttFields sv dirty r w st).testBit 10 = dirty
    ∧ (sttFields sv dirty r w st).testBit 9 = r ∧ (sttFields sv dirty r w st).testBit 8 = w := by
  have all : ∀ (sv dirty r w : Bool) (k : Fin 8), let n := bit sv * 2 ^ 11 + bit dirty * 2 ^ 10 + bit r * 2 ^ 9 + bit w * 2 ^ 8 + k.val
      n.testBit 11 = sv ∧ n.testBit 10 = dirty ∧ n.testBit 9 = r ∧ n.testBit 8 = w := by decide
  exact all sv dirty r w ⟨st % 8, Nat.mod_lt _ (by decide)⟩

section
variable {b : Word} (h : IsBacking b) (sv dirty r w : Bool) (st : Nat)
include h

theorem sttEntry_getLsbD {i : Nat} (hi : i < 12) :
    (sttEntry b sv dirty r w st).getLsbD i = (sttFields sv dirty r w st).testBit i := by
  rw [sttEntry, BitVec.getLsbD_or, h.getLsbD hi, Bool.false_or, BitVec.getLsbD_ofNat]
  simp [show i < 64 by omega, sttFields]

theorem sttSaved_sttEntry : sttSaved (sttEntry b sv dirty r w st) = sv :=
  (sttEntry_getLsbD h sv dirty r w st (by decide)).trans (sttFields_testBit sv dirty r w st).1

theorem sttDirty_sttEntry : sttDirty (sttEntry b sv dirty r w st) = dirty :=
  (sttEntry_getLsbD h sv dirty r w st (by decide)).trans (sttFields_testBit sv dirty r w st).2.1

theorem sttR_sttEntry : sttR (sttEntry b sv dirty r w st) = r :=
  (sttEntry_getLsbD h sv dirty r w st (by decide)).trans (sttFields_testBit sv dirty r w st).2.2.1

theorem sttW_sttEntry : sttW (sttEntry b sv dirty r w st) = w :=
  (sttEntry_getLsbD h sv dirty r w st (by decide)).trans (sttFields_testBit sv dirty r w st).2.2.2

theorem sttState_sttEntry : sttState (sttEntry b sv dirty r w st) = st % 8 := by
  have low : b.toNat % 2 ^ 3 = 0 := by
    refine Nat.eq_of_testBit_eq fun i => ?_
    rw [Nat.testBit_mod_two_pow, Nat.zero_testBit]
    rcases Nat.lt_or_ge i 3 with hi | hi
    · rw [← BitVec.getLsbD, h.getLsbD (by omega), Bool.and_false]
    · simp [Nat.not_lt.2 hi]
  have fields := sttFields_lt sv dirty r w st
  have rest : sttFields sv dirty r w st % 2 ^ 3 = st % 8 := by
    unfold sttFields
    omega
  rw [sttState, sttEntry_eq, BitVec.toNat_or, BitVec.toNat_ofNat, Nat.mod_eq_of_lt (Nat.lt_trans fields (by decide))]
  exact (Nat.or_mod_two_pow (n := 3)).trans (by rw [low, rest, Nat.zero_or])

theorem sttBacking_sttEntry : sttBacking (sttEntry b sv dirty r w st) = b := by
  have fields := sttFields_lt sv dirty r w st
  have none : BitVec.ofNat 64 (sttFields sv dirty r w st) &&& (0x000FFFFFFFFFF000 : Word) = 0 := by
    refine BitVec.eq_of_getLsbD_eq fun i hi => ?_
    rw [BitVec.getLsbD_and, BitVec.getLsbD_ofNat]
    rcases Nat.lt_or_ge i 12 with low | high
    · rw [(by decide : ∀ i < 12, (0x000FFFFFFFFFF000 : Word).getLsbD i = false) i low]
      simp
    · rw [Nat.testBit_lt_two_pow (Nat.lt_of_lt_of_le fields (Nat.pow_le_pow_right (by decide) high))]
      simp
  rw [sttBacking, sttEntry_eq, BitVec.and_or_distrib_right, none]
  exact BitVec.or_zero.trans h

end

/-! ### The entry that a request makes -/

theorem sttState_lt (e : Word) : sttState e % 8 = sttState e := Nat.mod_mod _ _

/-- The entry that an STTW request makes has the fields of the table (R280). -/
theorem sttwEntry_fields (e v : Word) (valid : v.toNat % 8 ≠ 7) :
    let op := v.toNat % 8
    let n := sttwEntry e v
    sttR n = v.getLsbD 7 ∧ sttW n = v.getLsbD 6
    ∧ sttState n = (if op < 4 then op else if op = 4 then sttState e else if op = 6 then 3
        else if sttState e = 1 ∨ sttState e = 3 ∨ sttState e = 5 then 5 else 4)
    ∧ sttBacking n = (if op = 1 ∨ op = 3 ∨ op = 6 then sttBacking v else if op = 4 ∨ op = 5 then sttBacking e else 0)
    ∧ sttDirty n = (decide (op = 3 ∨ op = 6) || sttDirty e)
    ∧ sttSaved n = (!decide (op = 1 ∨ op = 3 ∨ op = 6) && sttSaved e) := by
  have fields {b : Word} (h : IsBacking b) (sv dirty r w : Bool) (st : Nat) :=
    And.intro (sttR_sttEntry h sv dirty r w st) (And.intro (sttW_sttEntry h sv dirty r w st)
      (And.intro (sttState_sttEntry h sv dirty r w st) (And.intro (sttBacking_sttEntry h sv dirty r w st)
        (And.intro (sttDirty_sttEntry h sv dirty r w st) (sttSaved_sttEntry h sv dirty r w st)))))
  have few : v.toNat % 8 < 7 := by omega
  dsimp only
  unfold sttwEntry
  rw [show v &&& (0x000FFFFFFFFFF000 : Word) = sttBacking v from rfl]
  generalize v.toNat % 8 = op at few
  interval_cases op
  · simpa using fields isBacking_zero (sttSaved e) (sttDirty e) (v.getLsbD 7) (v.getLsbD 6) 0
  · simpa using fields (isBacking_sttBacking v) false (sttDirty e) (v.getLsbD 7) (v.getLsbD 6) 1
  · simpa using fields isBacking_zero (sttSaved e) (sttDirty e) (v.getLsbD 7) (v.getLsbD 6) 2
  · simpa using fields (isBacking_sttBacking v) false true (v.getLsbD 7) (v.getLsbD 6) 3
  · simpa [sttState_lt] using fields (isBacking_sttBacking e) (sttSaved e) (sttDirty e) (v.getLsbD 7) (v.getLsbD 6) (sttState e)
  · have st : (if sttState e = 1 ∨ sttState e = 3 ∨ sttState e = 5 then 5 else 4) % 8
        = if sttState e = 1 ∨ sttState e = 3 ∨ sttState e = 5 then 5 else 4 := by split <;> rfl
    simpa [st] using fields (isBacking_sttBacking e) (sttSaved e) (sttDirty e) (v.getLsbD 7) (v.getLsbD 6)
      (if sttState e = 1 ∨ sttState e = 3 ∨ sttState e = 5 then 5 else 4)
  · simpa using fields (isBacking_sttBacking v) false true (v.getLsbD 7) (v.getLsbD 6) 3

/-! ### The forms -/

theorem pageAddress_ok {x : Word} (page : x.toNat % 4096 = 0) (near : x.toNat < 2 ^ 24) : pageAddress x = .ok () := by
  have inside : (x.toNat / 2 ^ 24 != 0) = false := by rw [Nat.div_eq_of_lt near]; rfl
  rw [pageAddress, aligned_eq_true.2 page, inside]
  rfl

theorem pageAddress_misaligned {x : Word} (page : x.toNat % 4096 ≠ 0) : pageAddress x = .error (.trap (.at .misalign x)) := by
  rw [pageAddress, aligned_eq_false.2 page]
  rfl

theorem spPage_eq {x : Word} (near : x.toNat < 2 ^ 24) : spPage x = x.toNat / 4096 := by
  unfold spPage
  omega

/-- Settles O40: the checks in their order, then the entry. -/
theorem tableForms : Obligations.TableForms := by
  refine ⟨?_, fun e v => sttwEntry_fields e v⟩
  intro s s1 s2 s3 a b p e
  dsimp only
  generalize hx : s.rd a = x
  generalize hv : s.rd b = v
  intro found
  have sttw : exec (.sttw a b) s = execSttw a b s := rfl
  have stti : exec (.stti a) s = execStti a s := rfl
  refine ⟨fun bad => ?_, fun valid low high page near => ⟨fun release user => ?_, fun release space got kind copied put => ?_⟩,
    fun page near got => ⟨fun kind => ?_, fun kind written put => ?_⟩, fun page => ?_⟩
  · have reserved : (v.toNat % 8 == 7 || v.toNat / 8 % 8 != 0 || v.toNat / 256 % 16 != 0) = true := by simpa [or_assoc] using bad
    rw [sttw]
    simp only [execSttw, hx, hv, found, Except.ok_bind, reserved]
    rfl
  · have reserved : (v.toNat % 8 == 7 || v.toNat / 8 % 8 != 0 || v.toNat / 256 % 16 != 0) = false := by simp [valid, low, high]
    have denied : (v.toNat % 8 == 5 && !s.cur.sup) = true := by simp [release, user]
    rw [sttw]
    simp only [execSttw, hx, hv, found, Except.ok_bind, reserved, denied]
    rfl
  · have reserved : (v.toNat % 8 == 7 || v.toNat / 8 % 8 != 0 || v.toNat / 256 % 16 != 0) = false := by simp [valid, low, high]
    have allowed : (v.toNat % 8 == 5 && !s.cur.sup) = false := by
      by_cases five : v.toNat % 8 = 5
      · simp [release five]
      · simp [five]
    have fits : ((v.toNat % 8 == 1 || v.toNat % 8 == 3 || v.toNat % 8 == 6) && v.toNat / 2 ^ 52 != 0) = false := by
      by_cases backed : v.toNat % 8 = 1 ∨ v.toNat % 8 = 3 ∨ v.toNat % 8 = 6
      · rw [Nat.div_eq_of_lt (space backed)]
        exact Bool.and_false _
      · obtain ⟨h1, h3, h6⟩ : v.toNat % 8 ≠ 1 ∧ v.toNat % 8 ≠ 3 ∧ v.toNat % 8 ≠ 6 := by omega
        simp [h1, h3, h6]
    have resident : (v.toNat % 8 == 6 && sttState e != 2 && sttState e != 3) = false := by
      by_cases six : v.toNat % 8 = 6
      · rcases kind six with h | h <;> simp [h]
      · simp [six]
    rw [sttw]
    simp only [execSttw, hx, hv, found, Except.ok_bind, reserved, allowed, pageAddress_ok page near, spPage_eq near, fits,
      trapIf_false, got, resident, copied, put]
    rfl
  · rw [stti]
    simp only [execStti, hx, found, Except.ok_bind, pageAddress_ok page near, spPage_eq near, got, kind, if_false]
    rfl
  · rw [stti]
    simp only [execStti, hx, found, Except.ok_bind, pageAddress_ok page near, spPage_eq near, got, kind, if_true]
    cases dirty : sttDirty e <;> simp only [dirty, Bool.false_eq_true, if_false, if_true] at written ⊢
    · obtain rfl := Except.ok.inj written
      simp only [pure_bind, put, Except.ok_bind]
      rfl
    · simp only [written, Except.ok_bind, put]
      rfl
  · rw [stti]
    simp [execStti, hx, found, pageAddress_misaligned page, State.halt]

end Sys2Proof.Machine
end

section
/-! Timers (12_channels.md R342, 15_traps.md R407). -/

namespace Sys2Proof.Machine
open Sys2Proof Sys2Proof.Claims

theorem State.timerWrite_supervisor {s : State} (h : s.cur.sup = true) (v : Word) :
    s.timerWrite v = .next (s.writeTimer s.cur.part v) := by
  simp only [State.timerWrite, State.sysAllowed, h, Bool.not_true, Bool.and_false]
  rfl

theorem State.timerWrite_user {s : State} (h : s.cur.sup = false) (v : Word) :
    s.timerWrite v = .next (s.takeTrap (.at .privilege 0)) := by
  simp only [State.timerWrite, State.sysAllowed, h]
  rfl

/-- The low 56 bits of a word, as the writes of TMRCMP take them. -/
theorem ofNat_mod_two_pow_56 (v : Word) : BitVec.ofNat 64 (v.toNat % 2 ^ 56) = v &&& 0x00FFFFFFFFFFFFFF := by
  apply BitVec.eq_of_toNat_eq
  rw [BitVec.toNat_and, BitVec.toNat_ofNat, show (0x00FFFFFFFFFFFFFF : Word).toNat = 2 ^ 56 - 1 from rfl, Nat.and_two_pow_sub_one_eq_mod]
  omega

/-- The cell of an expired timer holds its CYCLE value. -/
def CellEnd.expired (e : EndSt) (w : Word) : EndSt :=
  if e.closed then e else { e with held := some (if e.held.isSome then w ||| 0x8000000000000000 else w) }

/-- The state whose partition has the timer disarmed. -/
def State.disarmed (s : State) (part i : Nat) : State :=
  s.updPart part (fun p => { p with
    timers := if h : i < 8 then p.timers.set i { (s.part part).timer i with due := none } else p.timers })

theorem State.expire_eq {s : State} {part i : Nat} {w : Word} (due : ((s.part part).timer i).due = some w) :
    s.expire part i
      = ((s.disarmed part i).updEnd ((s.part part).timer i).cell false (fun e => CellEnd.expired e w)).settled
          ((s.part part).timer i).cell := by
  simp only [State.expire, due, State.disarmed, CellEnd.expired, Option.getD_some]

section
variable {s : State} {part i : Nat} {w : Word} {c : Cell} (due : ((s.part part).timer i).due = some w)
  (cell : s.cell? ((s.part part).timer i).cell = some c) (empty : c.end0.post = none) (partner : c.end1.post = none)
include cell

theorem cell_named : c.id = ((s.part part).timer i).cell := by
  simpa using List.find?_some cell

theorem State.disarmed_cell? : (s.disarmed part i).cell? c.id = some c := by
  rw [cell_named cell]
  exact cell

include due empty partner

theorem State.expire_unposted : s.expire part i = (s.disarmed part i).updEnd c.id false (fun e => CellEnd.expired e w) := by
  rw [State.expire_eq due, ← cell_named cell]
  have posted : (CellEnd.expired c.end0 w).post = c.end0.post := by
    unfold CellEnd.expired
    split <;> rfl
  exact State.settled_unposted (State.cell?_updEnd (State.disarmed_cell? cell) false _) (posted.trans empty) partner

end

/-- Settles O33: a write's instant, and what an expiry leaves in its cell. -/
theorem timerResults : Obligations.TimerResults := by
  intro s v part i
  refine ⟨fun sup arms => ?_, fun sup arms => ?_, fun user arms => ?_, ?_⟩
  · change (if v.getLsbD 63 then s.timerWrite v else .next s) = _
    rw [arms, if_pos rfl, State.timerWrite_supervisor sup, State.writeTimer, arms, if_pos rfl, ofNat_mod_two_pow_56]
    rfl
  · change (if v.getLsbD 63 then .next s else s.timerWrite v) = _
    rw [arms, State.timerWrite_supervisor sup, State.writeTimer, arms]
    rfl
  · change (if v.getLsbD 63 then s.timerWrite v else .next s) = _
    rw [arms, if_pos rfl, State.timerWrite_user user]
  · intro w c hi due late power cell going empty partner
    have reached : s.timerDue part i = true := by simp [State.timerDue, power, due, late]
    have expires : exec (.timerExpiry part i) s = .next (s.expire part i) := by
      change s.occur (tryTimerExpiry part i s) = _
      simp only [tryTimerExpiry, reached]
      rfl
    refine ⟨_, expires, ?_, ?_, fun known => ?_⟩
    · rw [State.expire_unposted due cell empty partner]
      exact ((State.updPart_same s part _).trans (State.updEnd_same _ _ _ _)).bytes
    · rw [State.expire_unposted due cell empty partner, State.cell?_updEnd (State.disarmed_cell? cell)]
      change some (CellEnd.expired c.end0 w).held = _
      simp [CellEnd.expired, going]
    · obtain ⟨q, hq⟩ := Option.ne_none_iff_exists'.1 known
      rw [State.expire_unposted due cell empty partner]
      change (((s.disarmed part i).part part).timer i).due = none
      rw [State.disarmed, State.part_updPart hq (fun _ => by rfl)]
      simp [Part.timer, hi]

end Sys2Proof.Machine
end

section
/-! The system forms by mode and operand (15_traps.md R403 to R406), and the PROC forms and GSET (05_processes.md R155 to R159). -/

namespace Sys2Proof.Machine
open Sys2Proof Sys2Proof.Claims

/-! ### Forms of the supervisor -/

theorem State.needSup_user {s : State} (h : s.cur.sup = false) : s.needSup = .error (.trap (.at .privilege 0)) := by
  simp [State.needSup, h]

theorem State.needSup_supervisor {s : State} (h : s.cur.sup = true) : s.needSup = .ok () := by simp [State.needSup, h]

theorem pidOf_setWidth (p : Pid) : pidOf (p.setWidth 64) = some p := by
  have small : (p.setWidth 64).toNat / 2 ^ 32 = 0 := by
    rw [BitVec.toNat_setWidth, Nat.mod_eq_of_lt (by have := p.isLt; omega)]
    exact Nat.div_eq_of_lt p.isLt
  rw [pidOf, if_pos small]
  simp

theorem pidOf_large {v : Word} (h : 2 ^ 32 ≤ v.toNat) : pidOf v = none :=
  if_neg ((div_ne_zero_iff_le (by norm_num)).2 h)

theorem setWidth_pid_inj {p q : Pid} (h : p.setWidth 64 = q.setWidth 64) : p = q :=
  Option.some.inj ((pidOf_setWidth p).symm.trans ((congrArg pidOf h).trans (pidOf_setWidth q)))

theorem State.onProcess_own {s : State} (f : State → Pid → State) :
    s.onProcess (s.cur.pid.setWidth 64) false f = .error (.trap (.at .illegal 0)) := by
  simp [State.onProcess, pidOf_setWidth]

/-- What a form of the supervisor does to the process that its operand names. -/
theorem State.onProcess_named {s : State} {p : Pid} {self : Bool} (f : State → Pid → State) (other : self = true ∨ p ≠ s.cur.pid)
    (mine : (s.next 4).inPart s.cur.part p = true) : s.onProcess (p.setWidth 64) self f = .ok (f (s.next 4) p) := by
  have allowed : (!self && (some p == some s.cur.pid)) = false := by
    rcases other with h | h <;> simp [h]
  have mine' : (s.next 4).inPart (s.next 4).cur.part p = true := mine
  simp only [State.onProcess, pidOf_setWidth, allowed, mine']
  rfl

/-- A form of the supervisor whose operand names no process of its partition. -/
theorem State.onProcess_none {s : State} {v : Word} {self : Bool} (f : State → Pid → State) (other : v ≠ s.cur.pid.setWidth 64)
    (none : 2 ^ 32 ≤ v.toNat ∨ ∃ p : Pid, v = p.setWidth 64 ∧ (s.next 4).inPart s.cur.part p = false) :
    s.onProcess v self f = .ok (s.next 4) := by
  rcases none with large | ⟨p, rfl, foreign⟩
  · simp only [State.onProcess, pidOf_large large]
    cases self <;> rfl
  · have apart : (some p == some s.cur.pid) = false := by
      rw [beq_eq_false_iff_ne]
      exact fun h => other (by rw [Option.some.inj h])
    have foreign' : (s.next 4).inPart (s.next 4).cur.part p = false := foreign
    simp only [State.onProcess, pidOf_setWidth, apart, Bool.and_false, foreign']
    rfl

theorem State.exitsNow_own {s : State} (h : s.cur.isExiting = false) : s.exitsNow (s.cur.pid.setWidth 64) = false := by
  rw [State.exitsNow, pidOf_setWidth, Option.bind_some, State.proc?]
  split
  next p found =>
    split at found
    · cases found
    · rw [if_pos rfl] at found
      obtain rfl := Option.some.inj found
      rw [h, Bool.and_false]
  next => rfl

theorem State.exitsNow_none {s : State} {v : Word} (other : v ≠ s.cur.pid.setWidth 64)
    (none : 2 ^ 32 ≤ v.toNat ∨ ∃ p : Pid, v = p.setWidth 64 ∧ (s.next 4).inPart s.cur.part p = false) : s.exitsNow v = false := by
  rcases none with large | ⟨p, rfl, foreign⟩
  · simp [State.exitsNow, pidOf_large large]
  · have apart : s.cur.pid ≠ p := fun h => other (by rw [h])
    have same : (s.next 4).proc? p = s.proc? p := by
      unfold State.proc?
      split
      · rfl
      · rw [if_neg (show ¬(s.next 4).cur.pid = p from apart)]
        rfl
    rw [State.inPart, same] at foreign
    rw [State.exitsNow, pidOf_setWidth, Option.bind_some]
    cases found : s.proc? p with
    | none => rfl
    | some q =>
      rw [found] at foreign
      simp only at foreign ⊢
      rw [foreign, Bool.false_and]

section
variable {s : State} (a b : SReg)

theorem exec_park_eq (sup : s.cur.sup = true) : exec (.park a) s = s.finish (s.onProcess (s.rd a) false State.parkAny) := by
  change execPark a s = _
  simp only [execPark, State.needSup_supervisor sup, Except.ok_bind]

theorem exec_resume_eq (sup : s.cur.sup = true) :
    exec (.resume a) s = s.finish (s.onProcess (s.rd a) false (fun s p => s.release.resumeProc p)) := by
  change execResume a s = _
  simp only [execResume, State.needSup_supervisor sup, Except.ok_bind]

theorem exec_kill_eq (sup : s.cur.sup = true) (stays : s.exitsNow (s.rd a) = false) :
    exec (.kill a) s = s.finish (s.onProcess (s.rd a) false State.killAny) := by
  change execKill a s = _
  simp [execKill, State.needSup_supervisor sup, stays]

theorem exec_kill_waits (sup : s.cur.sup = true) (exits : s.exitsNow (s.rd a) = true) : exec (.kill a) s = .next s := by
  change execKill a s = _
  simp [execKill, State.needSup_supervisor sup, exits, pure, Except.pure]

theorem exec_migr_eq (sup : s.cur.sup = true) (core : (s.rd b).toNat < 90) :
    exec (.migr a b) s = s.finish (s.onProcess (s.rd a) true (fun s p => s.migrate p (s.rd b).toNat)) := by
  have allowed : decide (90 ≤ (s.rd b).toNat) = false := by simpa using core
  change execMigr a b s = _
  simp only [execMigr, State.needSup_supervisor sup, allowed, trapIf_false, Except.ok_bind]

end

/-- Settles O37: by mode, then by what the operand names. -/
theorem systemResults : Obligations.SystemResults := by
  intro s a b code p own named
  refine ⟨rfl, rfl, rfl, fun user i hi => ?_, fun sup => ⟨?_, fun mine => ⟨fun i hi => ?_, fun going => ?_⟩,
    fun ⟨is, inside⟩ other => ⟨?_, fun stays => ?_, fun exits => exec_kill_waits a sup exits, ?_⟩,
    fun other none => ⟨fun i hi => ?_, fun core => ?_⟩, fun far => ?_, fun core ⟨is, inside⟩ => ?_⟩⟩
  · simp only [List.mem_cons, List.not_mem_nil, or_false] at hi
    obtain rfl | rfl | rfl | rfl | rfl | rfl | rfl := hi
    · change execHalt s = _
      simp [execHalt, State.needSup_user user, State.halt]
    · change execPark a s = _
      simp [execPark, State.needSup_user user, State.halt]
    · change execResume a s = _
      simp [execResume, State.needSup_user user, State.halt]
    · change execMigr a b s = _
      simp [execMigr, State.needSup_user user, State.halt]
    · change execKill a s = _
      simp [execKill, State.needSup_user user, State.halt]
    · change execTlbi a b s = _
      simp [execTlbi, State.needSup_user user, State.halt]
    · change execTlbia s = _
      simp [execTlbia, State.needSup_user user, State.halt]
  · let u := s.next 4
    refine ⟨State.hostEvent { u with cur := { u.cur with halted := true, haltOp := true } } 2 [zextWord u.cur.pid], ?_, ?_,
      fun room => State.hostEvent_events _ _ _ room⟩
    · change execHalt s = _
      simp only [execHalt, State.needSup_supervisor sup, Except.ok_bind]
      rfl
    · rw [State.hostEvent_cur]
      rfl
  · simp only [List.mem_cons, List.not_mem_nil, or_false] at hi
    obtain rfl | rfl := hi
    · rw [exec_park_eq a sup, show s.rd a = _ from mine, State.onProcess_own]
      rfl
    · rw [exec_resume_eq a sup, show s.rd a = _ from mine, State.onProcess_own]
      rfl
  · have stays : s.exitsNow (s.rd a) = false := by rw [show s.rd a = _ from mine, State.exitsNow_own going]
    rw [exec_kill_eq a sup stays, show s.rd a = _ from mine, State.onProcess_own]
    rfl
  · have apart : p ≠ s.cur.pid := fun h => other (is.trans (by rw [h]))
    rw [exec_park_eq a sup, is, State.onProcess_named _ (.inr apart) inside]
    rfl
  · have apart : p ≠ s.cur.pid := fun h => other (is.trans (by rw [h]))
    rw [exec_kill_eq a sup stays, is, State.onProcess_named _ (.inr apart) inside]
    rfl
  · have apart : p ≠ s.cur.pid := fun h => other (is.trans (by rw [h]))
    rw [exec_resume_eq a sup, is, State.onProcess_named _ (.inr apart) inside]
    rfl
  · have none' : 2 ^ 32 ≤ (s.rd a).toNat ∨ ∃ p : Pid, s.rd a = p.setWidth 64 ∧ (s.next 4).inPart s.cur.part p = false :=
      none.imp_right fun h => ⟨p, h⟩
    simp only [List.mem_cons, List.not_mem_nil, or_false] at hi
    obtain rfl | rfl | rfl := hi
    · rw [exec_park_eq a sup, State.onProcess_none _ other none', State.finish_ok]
    · rw [exec_resume_eq a sup, State.onProcess_none _ other none', State.finish_ok]
    · rw [exec_kill_eq a sup (State.exitsNow_none other none'), State.onProcess_none _ other none', State.finish_ok]
  · rw [exec_migr_eq a b sup core, State.onProcess_none _ other (none.imp_right fun h => ⟨p, h⟩), State.finish_ok]
  · have high : decide (90 ≤ (s.rd b).toNat) = true := by simpa using far
    change execMigr a b s = _
    simp only [execMigr, State.needSup_supervisor sup, Except.ok_bind, high]
    rfl
  · rw [exec_migr_eq a b sup core, is, State.onProcess_named _ (.inl rfl) inside]
    rfl

/-! ### GSET -/

theorem geomOf_geometryOf (a b : Word) : geomOf (geometryOf a b) =
    { stride := (a.setWidth 32).toInt, rows := b.toNat % 128, bytes := b.toNat / 256 % 1024, zf := b.getLsbD 18 } := by
  have value : (geometryOf a b).toNat = a.toNat % 2 ^ 32 + b.toNat % 2 ^ 7 * 2 ^ 32 + b.toNat / 2 ^ 8 % 2 ^ 10 * 2 ^ 40
      + b.toNat / 2 ^ 18 % 2 * 2 ^ 50 := by
    rw [geometryOf, BitVec.toNat_ofNat]
    omega
  have stride : (geometryOf a b).setWidth 32 = a.setWidth 32 := by
    apply BitVec.eq_of_toNat_eq
    rw [BitVec.toNat_setWidth, BitVec.toNat_setWidth, value]
    omega
  have rows : (geometryOf a b).toNat / 2 ^ 32 % 128 = b.toNat % 128 := by
    rw [value]
    omega
  have bytes : (geometryOf a b).toNat / 2 ^ 40 % 1024 = b.toNat / 256 % 1024 := by
    rw [value]
    omega
  have zf : (geometryOf a b).getLsbD 50 = b.getLsbD 18 := by
    have bit : (geometryOf a b).toNat / 2 ^ 50 % 2 = b.toNat / 2 ^ 18 % 2 := by
      rw [value]
      omega
    rw [BitVec.getLsbD, BitVec.getLsbD, Nat.testBit_eq_decide_div_mod_eq, Nat.testBit_eq_decide_div_mod_eq, bit]
  rw [geomOf, stride, rows, bytes, zf]

/-! ### YIELD and EXIT -/

section
variable {s : State} {c k : Nat} (resident : s.cur.place = .resident c k)
include resident

theorem exec_yield_stays (alone : ∀ p ∈ s.workPrios c, p < s.cur.prio) :
    exec .yield s = .next ((s.next 4).setRotation c s.cur.prio k) := by
  have none : (s.workPrios c).any (fun p => decide (s.cur.prio ≤ p)) = false := by
    rw [List.any_eq_false]
    intro p hp
    have := alone p hp
    simpa using this
  change execYield s = _
  simp only [execYield, resident, none]
  rfl

theorem exec_yield_parks (work : ∃ p ∈ s.workPrios c, s.cur.prio ≤ p) :
    exec .yield s = .next ((s.next 4).parkProc s.cur.pid false) := by
  have some : (s.workPrios c).any (fun p => decide (s.cur.prio ≤ p)) = true := by
    obtain ⟨p, hp, le⟩ := work
    exact List.any_eq_true.2 ⟨p, hp, by simpa using le⟩
  change execYield s = _
  simp only [execYield, resident, some]
  rfl

theorem exec_exit_user (a : SReg) (user : s.cur.sup = false) : exec (.exit a) s
    = .next { s with cur := { s.cur with ip := s.cur.ip + 4, exitCode := some (s.rd a), place := .exiting c k } } := by
  change execExit a s = _
  simp [execExit, user, State.beginExit, resident, State.next]

end

theorem State.parkNow_unheld {s : State} {pid : Pid} {p : Proc} {c k : Nat} (found : s.proc? pid = some p)
    (resident : p.place = .resident c k) : ∃ time, (s.parkNow pid false).proc? pid
      = some { p.squash with place := .parked, home := s.homeAt c, ran := c, imageOk := false, held := p.held, runAt := time } := by
  have pid_eq (q : Proc) : q.squash.pid = q.pid := by
    unfold Proc.squash Proc.rollback
    split <;> rfl
  simp only [State.parkNow, found, resident]
  refine State.proc?_enqueue (q := { p.squash with place := .parked, home := s.homeAt c, ran := c, imageOk := false, held := p.held }) ?_
  rw [State.freeSlot_proc?, State.proc?_updProc _ _ _ _ (fun q => by exact pid_eq q), if_pos rfl, found]
  simp

theorem Proc.squash_ip {p : Proc} (h : p.region = none) : p.squash.ip = p.ip := by simp [Proc.squash, Proc.rollback, h]

/-- Settles O35: each form by its definition. -/
theorem processResults : Obligations.ProcessResults := by
  intro s d a b g
  refine ⟨rfl, rfl, rfl, rfl, rfl, rfl, ?_, fun c k resident => ⟨fun alone => ?_, fun work named core running closed => ?_,
    exec_exit_user resident a⟩, fun sup => ?_⟩
  · refine ⟨_, rfl, rfl, fun r hr => ?_, ?_⟩
    · have apart : g.val ≠ r.val := fun h => hr (Fin.ext h.symm)
      simp [State.next, apart]
    · simp [State.geom, State.next, geomOf_geometryOf]
  · refine ⟨_, exec_yield_stays resident alone, by simp [State.setRotation, State.next], ?_⟩
    exact ((State.next_same s 4).trans (State.updCore_same _ _ _)).bytes
  · have there : (s.next 4).cur.place = .resident c k := resident
    have found : (s.next 4).proc? s.cur.pid = some (s.next 4).cur := by
      rw [State.proc?, if_neg named]
      exact if_pos rfl
    have runs : (s.next 4).pausedCore s.cur.pid = none := by
      simp only [State.pausedCore, found, Option.bind_some, there]
      rw [show ((s.next 4).core c).pause = none from running]
      rfl
    have parks : (s.next 4).parkProc s.cur.pid false = (s.next 4).parkNow s.cur.pid false := by simp only [State.parkProc, runs]
    obtain ⟨time, parked⟩ := State.parkNow_unheld found there
    refine ⟨_, exec_yield_parks resident work, ?_, ?_⟩
    · exact ((State.next_same s 4).trans (State.parkProc_same _ _ _)).bytes
    · rw [parks]
      exact ⟨_, parked, rfl, rfl, Proc.squash_ip (p := (s.next 4).cur) closed, rfl⟩
  · let u := ((s.next 4).beginExit (s.rd a)).parkAll s.cur.part s.cur.pid
    have host : u.host = s.host := by
      simp only [u, State.parkAll_host, State.beginExit]
      split <;> rfl
    have parts : ((s.next 4).beginExit (s.rd a)).standing = s.standing := by
      unfold State.beginExit
      split <;> rfl
    have ends : exec (.exit a) s = .next ((u.updPart s.cur.part (fun q => { q with ended := true })).hostEvent 5
        [zextWord s.cur.pid, s.rd a]) := by
      change execExit a s = _
      simp only [execExit, sup]
      rfl
    refine ⟨_, ends, fun known => ?_, fun room => ?_⟩
    · obtain ⟨q, hq⟩ := Option.isSome_iff_exists.1 ((State.part?_isSome_of_standing
        ((State.parkAll_standing _ s.cur.part s.cur.pid).trans parts) s.cur.part).trans (Option.isSome_iff_ne_none.2 known))
      rw [State.part, State.part?, State.hostEvent_parts]
      exact congrArg Part.ended (State.part_updPart hq (f := fun q => { q with ended := true }) (fun _ => by rfl))
    · rw [State.hostEvent_events _ _ _ (by rw [State.updPart_host, host]; exact room), State.updPart_host, host]
      rfl

end Sys2Proof.Machine
end

section
/-! The deadlock service (12_channels.md R343 to R346): a launch, a probe and its answer. -/

namespace Sys2Proof.Machine
open Sys2Proof Sys2Proof.Claims

/-! ### What a probed process answers -/

section
variable {s : State} {p : Proc} (found : s.proc? p.pid = some p)
include found

theorem State.answerOf_gen : (s.answerOf p.pid).2 = p.waitGen := by
  simp only [State.answerOf, found]
  repeat' split
  all_goals rfl

theorem State.answerOf_idle (idle : p.wait = .none) : (s.answerOf p.pid).1 ≠ .blocked := by
  simp only [State.answerOf, found, idle, if_true]
  repeat' split
  all_goals simp

variable (runs : p.stopped = false) (well : p.faulted = false)
include runs well

theorem State.answerOf_running (idle : p.wait = .none) (free : p.held = false) : (s.answerOf p.pid).1 = .proceeds := by
  simp [State.answerOf, found, runs, well, idle, free]

theorem State.answerOf_decided (waits : p.wait ≠ .none) (decided : s.waitDecided p = true) : (s.answerOf p.pid).1 = .proceeds := by
  simp [State.answerOf, found, runs, well, waits, decided]

theorem State.answerOf_blocked (waits : p.wait ≠ .none) (undecided : s.waitDecided p = false) (inside : s.waitOutside p = false) :
    (s.answerOf p.pid).1 = .blocked := by
  simp [State.answerOf, found, runs, well, waits, undecided, inside]

end

/-! ### A probe -/

/-- Whether a detection has a process already. -/
def Detect.knows (d : Detect) (pid x : Pid) : Bool :=
  d.members.any (fun m => m.1 == x) || d.answers.any (fun y => y.1 == x) || d.todo.contains x || x == pid

/-- A detection after a probe of a process with wait edges. -/
def Detect.answered (d : Detect) (pid : Pid) (a : Answer × Nat) (edges : List Pid) : Detect :=
  { d with
    todo := d.todo.filter (· != pid) ++ (edges.filter (fun x => !d.knows pid x)).eraseDups
    answers := d.answers ++ [(pid, a.1, a.2)] }

/-- The edges that a probe of a process follows. -/
def State.probeEdges (s : State) (p : Proc) : List Pid := if (s.answerOf p.pid).1 = .blocked then s.waitEdges p else []

theorem State.detection_one {s : State} {d : Detect} (h : s.detects = [d]) : s.detection d.init = some d := by
  simp [State.detection, h]

/-- One detection meets no other. -/
theorem State.meet_one {s : State} {d : Detect} (h : s.detects = [d]) (pid : Pid) : s.meet d.init pid = s := by
  simp [State.meet, h]

theorem exec_probe_eq {s : State} {p : Proc} {d : Detect} (found : s.proc? p.pid = some p) (one : s.detects = [d])
    (due : p.pid ∈ d.todo) :
    exec (.probe d.init p.pid) s = .next { s with detects := [d.answered p.pid (s.answerOf p.pid) (s.probeEdges p)] } := by
  have probes : tryProbe d.init p.pid s = some { s with detects := [d.answered p.pid (s.answerOf p.pid) (s.probeEdges p)] } := by
    simp only [tryProbe, State.detection_one one, State.meet_one one, found, State.updDetect, one]
    simp [due, Detect.answered, Detect.knows, State.probeEdges]
  change s.occur (tryProbe d.init p.pid s) = _
  rw [probes]
  rfl

theorem Detect.answered_todo_self (d : Detect) (pid : Pid) (a : Answer × Nat) (edges : List Pid) :
    pid ∉ (d.answered pid a edges).todo := by
  simp [Detect.answered, Detect.knows]

/-- An edge is probed, or it is known. -/
theorem Detect.mem_answered {d : Detect} {pid x : Pid} (a : Answer × Nat) {edges : List Pid} (hx : x ∈ edges) (other : x ≠ pid) :
    x ∈ (d.answered pid a edges).todo ∨ (∃ m ∈ d.members, m.1 = x) ∨ ∃ y ∈ d.answers, y.1 = x := by
  by_cases member : ∃ m ∈ d.members, m.1 = x
  · exact .inr (.inl member)
  · by_cases told : ∃ y ∈ d.answers, y.1 = x
    · exact .inr (.inr told)
    · left
      by_cases due : x ∈ d.todo
      · exact List.mem_append_left _ (List.mem_filter.2 ⟨due, by simpa using other⟩)
      · refine List.mem_append_right _ (List.mem_eraseDups.2 (List.mem_filter.2 ⟨hx, ?_⟩))
        have no_member : d.members.any (fun m => m.1 == x) = false := by
          rw [List.any_eq_false]
          exact fun m hm h => member ⟨m, hm, eq_of_beq h⟩
        have no_answer : d.answers.any (fun y => y.1 == x) = false := by
          rw [List.any_eq_false]
          exact fun y hy h => told ⟨y, hy, eq_of_beq h⟩
        simp [Detect.knows, no_member, no_answer, due, other]

/-- Settles O34: a launch, a probe and an answer at a detection alone. -/
theorem deadlockEvents : Obligations.DeadlockEvents := by
  intro s p d
  refine ⟨fun found due => ?_, fun found one due => ?_, fun ans gen one told free => ?_⟩
  · have launches : tryDetectionLaunch p.pid s = some { s.updProc p.pid (fun p => { p with probeAt := s.cycle }) with
        detects := s.detects ++ [{ init := p.pid, round := 1, todo := [p.pid], answers := [], members := [], first := [] }] } := by
      simp only [tryDetectionLaunch, found, due, if_true]
    refine ⟨{ s.updProc p.pid (fun p => { p with probeAt := s.cycle }) with detects := s.detects ++
      [{ init := p.pid, round := 1, todo := [p.pid], answers := [], members := [], first := [] }] }, ?_,
      (State.updProc_same s p.pid _).bytes, rfl, _, ?_, rfl⟩
    · change s.occur (tryDetectionLaunch p.pid s) = _
      rw [launches]
      rfl
    · have moved := State.proc?_updProc s p.pid p.pid (fun p => { p with probeAt := s.cycle }) (fun _ => by rfl)
      rw [if_pos rfl, found] at moved
      exact moved
  · refine ⟨_, _, exec_probe_eq found one due, rfl, fun _ => rfl, ?_, Detect.answered_todo_self _ _ _ _,
      fun idle runs well free => State.answerOf_running found runs well idle free,
      fun waits runs well decided => State.answerOf_decided found runs well waits decided, fun idle x hx => ?_,
      fun waits runs well undecided inside => ?_⟩
    · rw [Detect.answered, State.answerOf_gen found]
    · have none : s.probeEdges p = [] := if_neg (State.answerOf_idle found idle)
      rw [none] at hx
      have : x ∈ d.todo.filter (· != p.pid) := by simpa [Detect.answered] using hx
      exact (List.mem_filter.1 this).1
    · have blocked := State.answerOf_blocked found runs well waits undecided inside
      refine ⟨blocked, fun x hx other => ?_⟩
      rw [State.probeEdges, if_pos blocked]
      exact Detect.mem_answered _ hx other
  · have answers : tryProbeAnswer d.init p.pid s = some (s.endDetect d.init) := by
      simp only [tryProbeAnswer, State.detection_one one, told, if_neg free]
    have ended : s.endDetect d.init = { s with detects := [] } := by simp [State.endDetect, one]
    change s.occur (tryProbeAnswer d.init p.pid s) = _
    rw [answers, ended]
    rfl

end Sys2Proof.Machine
end

section
/-! TLBI and TLBIA (14_translation.md R385). -/

namespace Sys2Proof.Machine
open Sys2Proof Sys2Proof.Claims

theorem State.mem_allProcs_of_cur {s : State} (h : s.cur.pid ≠ 0) : s.cur ∈ s.allProcs := by
  rw [State.allProcs, if_neg h]
  exact List.mem_cons_self

/-- Where no store waits, nothing is to be drained for the context that executes. -/
theorem State.drain_cur_idle {s : State} (h : ∀ p ∈ s.allProcs, p.stores = []) : s.drain s.cur.pid = s := by
  by_cases named : s.cur.pid = 0
  · simp [State.drain, State.proc?, named]
  · exact State.drain_none (by rw [State.proc?, if_neg named, if_pos rfl]) (h _ (State.mem_allProcs_of_cur named))

theorem State.drainScope_idle {s : State} (h : ∀ p ∈ s.allProcs, p.stores = []) (part : Nat) (va : Option Word) :
    s.drainScope part va = s := by
  have none : s.allProcs.filter (fun p => p.part == part && p.stores.any (fun st => st.inScope va)) = [] := by
    rw [List.filter_eq_nil_iff]
    intro p hp
    simp [h p hp]
  simp [State.drainScope, none]

/-! ### The leaves that are dropped -/

theorem State.dropLeaves_core (s : State) (asid : BitVec 12) (va : Option Word) {c : Nat} (on : s.coreOnline c = true) :
    ((s.dropLeaves asid va).core c).tcache = (s.core c).tcache.filter (fun e => !e.inScope asid va) := by
  have hc : c < 90 := by
    simp only [State.coreOnline, Bool.and_eq_true, decide_eq_true_eq] at on
    exact on.1
  simp [State.dropLeaves, State.core, hc, on]

theorem State.dropLeaves_quad (s : State) (asid : BitVec 12) (va : Option Word) {q : Nat} (hq : q < 24)
    (on : s.dieAway (q / 12) = false) :
    ((s.dropLeaves asid va).quad q).tcache = (s.quad q).tcache.filter (fun e => !e.inScope asid va) := by
  simp [State.dropLeaves, State.quad, hq, on]

/-- No cache of a core or quad that is there holds an entry of the scope. -/
theorem State.not_inScope_of_dropLeaves (s : State) (asid : BitVec 12) (va : Option Word) :
    (∀ c, s.coreOnline c = true → ∀ e ∈ ((s.dropLeaves asid va).core c).tcache, e.inScope asid va = false)
    ∧ (∀ q, q < 24 → s.dieAway (q / 12) = false → ∀ e ∈ ((s.dropLeaves asid va).quad q).tcache, e.inScope asid va = false) := by
  refine ⟨fun c on e he => ?_, fun q hq on e he => ?_⟩
  · rw [State.dropLeaves_core s asid va on] at he
    simpa using (List.mem_filter.1 he).2
  · rw [State.dropLeaves_quad s asid va hq on] at he
    simpa using (List.mem_filter.1 he).2

/-! ### The forms -/

theorem State.invalidate_idle {s : State} (h : ∀ p ∈ s.allProcs, p.stores = []) (va : Option Word) :
    s.invalidate va = (s.dropLeaves s.curPart.asid va).dropEarly s.cur.part := by
  simp only [State.invalidate, State.drain_cur_idle h]
  rw [State.drainScope_idle (s := s.dropLeaves s.curPart.asid va) h]

theorem State.dropEarly_allProcs (s : State) (part : Nat) : (s.dropEarly part).allProcs
    = s.allProcs.map (fun p => if p.part = part then { p with rob := p.rob.map RobEntry.restart } else p) := by
  have cur : (s.dropEarly part).cur.pid = s.cur.pid := by
    simp only [State.dropEarly, State.mapProcs]
    split <;> rfl
  unfold State.allProcs
  rw [cur]
  split
  · rfl
  · rfl

theorem State.dropEarly_requestsOut (s : State) (part but' : Nat) (but : Pid) :
    (s.dropEarly part).requestsOut but' but = s.requestsOut but' but := by
  rw [State.requestsOut, State.dropEarly_allProcs, List.any_map, State.requestsOut]
  congr 1
  funext p
  simp only [Function.comp]
  split <;> rfl

theorem State.dropEarly_cur (s : State) (part : Nat) : ∃ rob, (s.dropEarly part).cur = { s.cur with rob := rob } := by
  simp only [State.dropEarly, State.mapProcs]
  split
  · exact ⟨_, rfl⟩
  · exact ⟨s.cur.rob, rfl⟩

theorem State.invalidate_retires {s : State} (h : ∀ p ∈ s.allProcs, p.stores = []) (va : Option Word) {P : TEntry → Prop}
    (scope : ∀ e, P e → e.inScope s.curPart.asid va = true) :
    let t := (s.invalidate va).endInvalidate
    t.cur = { s.cur with rob := t.cur.rob, ip := if s.requestsOut s.cur.part s.cur.pid then s.cur.ip else s.cur.ip + 4 }
      ∧ SameBytes s t
      ∧ (∀ c, s.coreOnline c = true → ∀ e ∈ (t.core c).tcache, ¬P e)
      ∧ (∀ q, q < 24 → s.dieAway (q / 12) = false → ∀ e ∈ (t.quad q).tcache, ¬P e) := by
  obtain ⟨cores, quads⟩ := s.not_inScope_of_dropLeaves s.curPart.asid va
  obtain ⟨rob, cur⟩ := (s.dropLeaves s.curPart.asid va).dropEarly_cur s.cur.part
  have out : ((s.dropLeaves s.curPart.asid va).dropEarly s.cur.part).requestsOut s.cur.part s.cur.pid
      = s.requestsOut s.cur.part s.cur.pid := State.dropEarly_requestsOut _ _ _ _
  have part : ((s.dropLeaves s.curPart.asid va).dropEarly s.cur.part).cur.part = s.cur.part := by rw [cur]; rfl
  have pid : ((s.dropLeaves s.curPart.asid va).dropEarly s.cur.part).cur.pid = s.cur.pid := by rw [cur]; rfl
  have same : SameMem s ((s.dropLeaves s.curPart.asid va).dropEarly s.cur.part) := ⟨rfl, rfl, rfl, rfl⟩
  have clears (e : TEntry) (none : e.inScope s.curPart.asid va = false) : ¬P e := fun h => by
    rw [scope e h] at none
    cases none
  rw [State.invalidate_idle h, State.endInvalidate, part, pid, out]
  cases s.requestsOut s.cur.part s.cur.pid with
  | true =>
    exact ⟨by rw [if_pos rfl, cur]; rfl, same.bytes, fun c on e he => clears e (cores c on e he),
      fun q hq on e he => clears e (quads q hq on e he)⟩
  | false =>
    exact ⟨by simp only [Bool.false_eq_true, if_false, State.next, cur]; rfl, (same.trans (State.next_same _ 4)).bytes,
      fun c on e he => clears e (cores c on e he), fun q hq on e he => clears e (quads q hq on e he)⟩

section
variable {s : State} (sup : s.cur.sup = true)
include sup

theorem exec_tlbia_waits (armed : s.cur.latch.sent = true) : exec .tlbia s = .next s := by
  change execTlbia s = _
  simp [execTlbia, State.needSup_supervisor sup, armed, pure, Except.pure]

theorem exec_tlbia_eq (free : s.cur.latch.sent = false) : exec .tlbia s = .next (s.invalidate none).endInvalidate := by
  change execTlbia s = _
  simp [execTlbia, State.needSup_supervisor sup, free, pure, Except.pure]

variable {a b : SReg}

theorem exec_tlbi_foreign (foreign : (s.rd b).toNat ≠ s.curPart.asid.toNat) :
    exec (.tlbi a b) s = .next (s.takeTrap (.at .illegal 0)) := by
  have wrong : ((s.rd b).toNat != s.curPart.asid.toNat) = true := bne_iff_ne.2 foreign
  change execTlbi a b s = _
  simp only [execTlbi, State.needSup_supervisor sup, Except.ok_bind, wrong]
  rfl

variable (mine : (s.rd b).toNat = s.curPart.asid.toNat)
include mine

theorem exec_tlbi_outside (far : 2 ^ 52 ≤ (s.rd a).toNat) : exec (.tlbi a b) s = .next (s.takeTrap (.at .illegal 0)) := by
  have outside : ((s.rd a).toNat / 2 ^ 52 != 0) = true := bne_iff_ne.2 ((div_ne_zero_iff_le (by norm_num)).2 far)
  have right : ((s.rd b).toNat != s.curPart.asid.toNat) = false := by simp [mine]
  change execTlbi a b s = _
  simp only [execTlbi, State.needSup_supervisor sup, Except.ok_bind, right, outside, trapIf_false]
  rfl

theorem exec_tlbi_near (near : (s.rd a).toNat < 2 ^ 52) : exec (.tlbi a b) s =
    .next (if s.cur.latch.sent then s else (s.invalidate (some (s.rd a))).endInvalidate) := by
  have inside : ((s.rd a).toNat / 2 ^ 52 != 0) = false := by rw [Nat.div_eq_of_lt near]; rfl
  have right : ((s.rd b).toNat != s.curPart.asid.toNat) = false := by simp [mine]
  change execTlbi a b s = _
  simp only [execTlbi, State.needSup_supervisor sup, Except.ok_bind, right, inside, trapIf_false]
  split <;> rfl

end

/-- Settles O41: the two forms by the latch and the operand, the caches by what an invalidation drops. -/
theorem invalidationRule : Obligations.InvalidationRule := by
  intro s a b sup idle asid gone done
  refine ⟨exec_tlbia_waits sup, fun free => ⟨_, exec_tlbia_eq sup free, State.invalidate_retires idle none fun e h => ?_⟩,
    exec_tlbi_foreign sup, fun mine => ⟨exec_tlbi_outside sup mine, fun near armed => ?_, fun near free => ?_⟩⟩
  · simpa [TEntry.inScope] using h
  · rw [exec_tlbi_near sup mine near, armed]
    rfl
  · refine ⟨_, (exec_tlbi_near sup mine near).trans (by rw [free]; rfl), State.invalidate_retires idle (some (s.rd a)) fun e h => h⟩

end Sys2Proof.Machine
end

section
/-! The stores that a process waits for perform where no channel area lies (11_memory.md R295): what is left of the process and of
its waiting stores. FENCE (13_ordering.md R367 to R371). -/

namespace Sys2Proof.Machine
open Sys2Proof Sys2Proof.Claims

/-! ### One store -/

/-- No channel cell or entry is there that a store could break. -/
structure Quiet (s : State) : Prop where
  cells : s.cells = []
  entries : s.entries = []

theorem Quiet.of_bare {s t : State} (h : Quiet s) (bare : t.bare = s.bare) : Quiet t :=
  ⟨(State.cells_of_bare bare).trans h.cells, (State.entries_of_bare bare).trans h.entries⟩

/-- What stores of a process leave, whatever memory they reach. -/
structure Performs (pid : Pid) (s t : State) : Prop where
  quiet : Quiet t
  cycle : t.cycle = s.cycle
  cur : t.cur.pid = s.cur.pid
  proc : t.proc? pid = s.proc? pid

theorem Performs.of_bare {pid : Pid} {s t : State} (h : Quiet s) (bare : t.bare = s.bare) : Performs pid s t :=
  ⟨h.of_bare bare, State.cycle_of_bare bare, by rw [State.cur_of_bare bare], State.proc?_of_bare bare pid⟩

theorem Performs.trans {pid : Pid} {s t u : State} (h : Performs pid s t) (k : Performs pid t u) : Performs pid s u :=
  ⟨k.quiet, k.cycle.trans h.cycle, k.cur.trans h.cur, k.proc.trans h.proc⟩

theorem State.touchRegions_cur_pid (s : State) (pid : Pid) (pa n : Nat) : (s.touchRegions pid pa n).cur.pid = s.cur.pid := by
  simp only [State.touchRegions, State.mapProcs]
  split <;> rfl

theorem State.storeVia_performs {s : State} (h : Quiet s) (pid : Pid) (hint : Hint) (pa : Nat) (l : List Byte) :
    Performs pid s (s.storeVia pid hint pa l) := by
  have sent : Performs pid s { s with outbox := s.outbox ++ [{ pid := pid, pa := pa, bytes := l }] } := ⟨⟨h.cells, h.entries⟩, rfl, rfl, rfl⟩
  have put : Performs pid s (((((s.storeMarks pa l.length).rawPut pa l).dirtyL2 (s.viaOf pid none hint) pa l.length).touchRegions pid pa
      l.length).touchAreas pa l.length) := by
    have bare : (((s.storeMarks pa l.length).rawPut pa l).dirtyL2 (s.viaOf pid none hint) pa l.length).bare = s.bare := by
      rw [State.dirtyL2_bare, State.rawPut_bare, State.storeMarks_bare]
    have quiet := h.of_bare bare
    have placed := Performs.of_bare (pid := pid) h bare
    rw [State.touchAreas_none (s := State.touchRegions _ pid pa l.length) quiet.cells quiet.entries]
    exact placed.trans ⟨⟨quiet.cells, quiet.entries⟩, rfl, State.touchRegions_cur_pid _ _ _ _, State.touchRegions_proc? _ _ _ _⟩
  unfold State.storeVia
  cases physRegion pa with
  | hbm => exact put
  | none => exact put
  | host => exact sent
  | peer d =>
    dsimp only
    split
    · exact sent
    · exact Performs.of_bare h (State.logAll_bare s 4 4 d)

/-- A process of which some waiting stores have performed. -/
def LessStores (p q : Proc) (l : List PStore) : Prop := ∃ acc, q = { p with stores := l, acc := acc }

theorem LessStores.trans {p q r : Proc} {l m : List PStore} (h : LessStores p q l) (k : LessStores q r m) : LessStores p r m := by
  obtain ⟨a, rfl⟩ := h
  obtain ⟨b, rfl⟩ := k
  exact ⟨b, rfl⟩

theorem LessStores.stores {p q : Proc} {l : List PStore} (h : LessStores p q l) : q.stores = l := by
  obtain ⟨a, rfl⟩ := h
  rfl

theorem LessStores.ip {p q : Proc} {l : List PStore} (h : LessStores p q l) : q.ip = p.ip := by
  obtain ⟨a, rfl⟩ := h
  rfl

theorem LessStores.scalars {p q : Proc} {l : List PStore} (h : LessStores p q l) : q.s = p.s := by
  obtain ⟨a, rfl⟩ := h
  rfl

theorem Proc.storeDone_less (p : Proc) (n : Nat) (st : PStore) (cycle : Word) :
    LessStores p (p.storeDone n st cycle) (p.stores.eraseIdx n) := by
  obtain ⟨acc, h⟩ := Proc.noteReach_eq { p with stores := p.stores.eraseIdx n } cycle st.core st.pa
  exact ⟨acc, h⟩

/-- What a list of stores leaves: the process that has them, and what lies beside it. -/
structure Leaves (pid : Pid) (p : Proc) (l : List PStore) (s t : State) : Prop where
  quiet : Quiet t
  cur : t.cur.pid = s.cur.pid
  proc : ∃ q, t.proc? pid = some q ∧ LessStores p q l

theorem Leaves.refl {s : State} {pid : Pid} {p : Proc} (h : Quiet s) (found : s.proc? pid = some p) : Leaves pid p p.stores s s :=
  ⟨h, rfl, p, found, p.acc, rfl⟩

theorem State.performNth_leaves {s : State} {p : Proc} {pid : Pid} {n : Nat} {st : PStore} (h : Quiet s) (found : s.proc? pid = some p)
    (waiting : p.stores[n]? = some st) : Leaves pid p (p.stores.eraseIdx n) s (s.performNth pid n) := by
  obtain rfl : p.pid = pid := State.proc?_pid found
  rw [State.performNth_eq found waiting]
  have less : Quiet (s.updProc p.pid (fun p => p.storeDone n st s.cycle)) := ⟨by simpa using h.cells, by simpa using h.entries⟩
  have sealed : Performs p.pid _ ((s.updProc p.pid (fun p => p.storeDone n st s.cycle)).sealFor st.key st.pa st.bytes.length) :=
    Performs.of_bare less (State.sealFor_bare _ _ _ _)
  have stored := sealed.trans (State.storeVia_performs sealed.quiet p.pid st.hint st.pa st.bytes)
  refine ⟨⟨by simpa [State.updateL1] using stored.quiet.cells, by simpa [State.updateL1] using stored.quiet.entries⟩, ?_, ?_⟩
  · rw [State.updateL1, State.updCore_cur, stored.cur]
    unfold State.updProc
    split
    · exact s.cur.storeDone_pid n st s.cycle
    · rfl
  · refine ⟨_, ?_, p.storeDone_less n st s.cycle⟩
    rw [State.updateL1, State.updCore_proc?, stored.proc,
      State.proc?_updProc _ _ _ _ (fun q => q.storeDone_pid n st s.cycle), if_pos rfl, found]
    rfl

/-! ### Many stores -/

theorem Leaves.trans {pid : Pid} {p q : Proc} {l m : List PStore} {s t u : State} (h : Leaves pid p l s t)
    (found : t.proc? pid = some q) (k : Leaves pid q m t u) : Leaves pid p m s u := by
  obtain ⟨q', found', less⟩ := h.proc
  obtain rfl : q' = q := Option.some.inj (found'.symm.trans found)
  obtain ⟨r, hr, more⟩ := k.proc
  exact ⟨k.quiet, k.cur.trans h.cur, r, hr, less.trans more⟩

theorem State.drainFrom_leaves {pid : Pid} : ∀ (fuel : Nat) (s : State) (p : Proc), Quiet s → s.proc? pid = some p →
    p.stores.length = fuel → Leaves pid p [] s (s.drainFrom pid fuel)
  | 0, s, p, h, found, empty => by
    have none := List.eq_nil_of_length_eq_zero empty
    have same := Leaves.refl h found
    rwa [none] at same
  | fuel + 1, s, p, h, found, more => by
    obtain ⟨st, rest, stores⟩ := List.exists_cons_of_length_eq_add_one more
    have first := State.performNth_leaves (n := 0) (st := st) h found (by rw [stores]; rfl)
    obtain ⟨q, found', less⟩ := first.proc
    have left : q.stores = rest := by
      obtain ⟨acc, rfl⟩ := less
      simp [stores]
    exact first.trans found' (State.drainFrom_leaves fuel _ q first.quiet found' (by rw [left]; simpa [stores] using more))

theorem State.drain_leaves {s : State} {pid : Pid} {p : Proc} (h : Quiet s) (found : s.proc? pid = some p) :
    Leaves pid p [] s (s.drain pid) := by
  unfold State.drain
  rw [found]
  dsimp only
  split
  next empty =>
    have same := Leaves.refl h found
    rwa [List.isEmpty_iff.1 empty] at same
  next => exact State.drainFrom_leaves _ s p h found rfl

/-- The stores of a list that are not marked. -/
def unmarked : List PStore → List Bool → List PStore
  | st :: rest, false :: marks => st :: unmarked rest marks
  | _ :: rest, true :: marks => unmarked rest marks
  | l, [] => l
  | [], _ => []

theorem State.drainMarked_leaves {pid : Pid} : ∀ (marks : List Bool) (n : Nat) (rest kept : List PStore) (s : State) (p : Proc),
    Quiet s → s.proc? pid = some p → p.stores = kept ++ rest → kept.length = n → rest.length = marks.length →
    Leaves pid p (kept ++ unmarked rest marks) s (s.drainMarked pid n marks)
  | [], n, rest, kept, s, p, h, found, stores, _, len => by
    have none := List.eq_nil_of_length_eq_zero len
    have same := Leaves.refl h found
    rw [stores, none] at same
    rw [none]
    exact same
  | mark :: marks, n, [], kept, s, p, _, _, _, _, len => by cases len
  | true :: marks, n, st :: rest, kept, s, p, h, found, stores, at_, len => by
    have first := State.performNth_leaves (n := n) (st := st) h found (by simp [stores, ← at_])
    obtain ⟨q, found', less⟩ := first.proc
    have left : q.stores = kept ++ rest := by
      obtain ⟨acc, rfl⟩ := less
      simp [stores, ← at_, List.eraseIdx_append_of_length_le]
    exact first.trans found' (State.drainMarked_leaves marks n rest kept _ q first.quiet found' left at_ (Nat.succ.inj len))
  | false :: marks, n, st :: rest, kept, s, p, h, found, stores, at_, len => by
    have later := State.drainMarked_leaves marks (n + 1) rest (kept ++ [st]) s p h found (by simp [stores]) (by simp [at_])
      (Nat.succ.inj len)
    rw [List.append_assoc] at later
    exact later

theorem neededFor_length (f : PStore → Bool) : ∀ l : List PStore, (neededFor f l).length = l.length
  | [] => rfl
  | _ :: rest => congrArg (· + 1) (neededFor_length f rest)

/-- A store that is not marked as needed does not pass the test. -/
theorem not_of_mem_unmarked (f : PStore → Bool) : ∀ l : List PStore, ∀ st ∈ unmarked l (neededFor f l), f st = false
  | [], st, h => by cases h
  | x :: rest, st, h => by
    have ih := not_of_mem_unmarked f rest
    unfold neededFor at h
    dsimp only at h
    cases needed : f x || ((neededFor f rest).zip rest).any (fun y => y.1 && x.before y.2) with
    | true =>
      rw [needed] at h
      exact ih st h
    | false =>
      rw [needed] at h
      obtain rfl | h := List.mem_cons.1 h
      · exact (Bool.or_eq_false_iff.1 needed).1
      · exact ih st h

/-- The waiting stores that pass a test perform, and those before them; the others of the process still wait. -/
theorem State.drainNeeded_leaves {s : State} {pid : Pid} {p : Proc} (h : Quiet s) (found : s.proc? pid = some p) (f : PStore → Bool) :
    Leaves pid p (unmarked p.stores (neededFor f p.stores)) s (s.drainMarked pid 0 (neededFor f p.stores)) :=
  State.drainMarked_leaves _ 0 p.stores [] s p h found rfl rfl (neededFor_length f _).symm

/-- The process that executes, after stores of its own. -/
theorem Leaves.cur_eq {s t : State} {p : Proc} {l : List PStore} (h : Leaves s.cur.pid p l s t) (named : s.cur.pid ≠ 0) :
    LessStores p t.cur l := by
  obtain ⟨q, found, less⟩ := h.proc
  rw [State.proc?, if_neg named, if_pos h.cur] at found
  rwa [Option.some.inj found]

/-! ### FENCE -/

theorem State.flushOut_bare (s : State) (f : OutStore → Bool) : (s.flushOut f).bare = s.bare :=
  State.foldl_bare State.arrive_bare _ s

theorem State.flushOut_nothing {s : State} (h : s.outbox = []) (f : OutStore → Bool) : SameMem s (s.flushOut f) := by
  simp only [State.flushOut, h, List.take_nil, List.foldl_nil]
  exact ⟨rfl, rfl, rfl, rfl⟩

/-- No store that passes the test is left on its way. -/
theorem State.flushOut_outbox (s : State) (f : OutStore → Bool) : ∀ o ∈ (s.flushOut f).outbox, f o = false := by
  intro o ho
  let kept := s.outbox.reverse.takeWhile (fun o => !f o)
  have split : s.outbox.reverse = kept ++ s.outbox.reverse.dropWhile (fun o => !f o) := (List.takeWhile_append_dropWhile).symm
  have tail : s.outbox.drop (s.outbox.length - kept.length) = kept.reverse := by
    have whole : s.outbox = (s.outbox.reverse.dropWhile (fun o => !f o)).reverse ++ kept.reverse := by
      rw [← List.reverse_append, ← split, List.reverse_reverse]
    have length : s.outbox.length - kept.length = (s.outbox.reverse.dropWhile (fun o => !f o)).reverse.length := by
      have := congrArg List.length whole
      rw [List.length_append, List.length_reverse (as := kept)] at this
      omega
    calc s.outbox.drop (s.outbox.length - kept.length)
        = ((s.outbox.reverse.dropWhile (fun o => !f o)).reverse ++ kept.reverse).drop (s.outbox.length - kept.length) :=
          congrArg (List.drop _) whole
      _ = kept.reverse := List.drop_left' length.symm
  have inside : o ∈ kept := by
    have dropped : o ∈ s.outbox.drop (s.outbox.length - kept.length) := ho
    rw [tail] at dropped
    exact List.mem_reverse.1 dropped
  simpa using List.mem_takeWhile_imp inside

theorem Latch.holdsFence_iff (l : Latch) (kind : FenceKind) (eng : Bool) : l.holdsFence kind eng = true ↔
    l.sent = true ∧ ((kind = .loads ∧ l.kind ≠ 3 ∧ l.done = false) ∨ (kind ≠ .loads ∧ (eng = true ∨ l.kind ≠ 3))) := by
  by_cases loads : kind = .loads <;> simp [Latch.holdsFence, loads]

theorem exec_fence_waits {s : State} {kind : FenceKind} {eng : Bool} (sc : Scope) (waits : s.cur.latch.holdsFence kind eng = true) :
    exec (.fence eng kind sc) s = .next s := by
  change execFence eng kind sc s = _
  rw [execFence, if_pos waits]

theorem exec_fence_goes {s : State} {kind : FenceKind} {eng : Bool} (sc : Scope) (goes : s.cur.latch.holdsFence kind eng = false) :
    exec (.fence eng kind sc) s =
      .next (((s.fenceDrain kind eng sc).flushL1 (s.fenceDrain kind eng sc).curCore).next 4) := by
  change execFence eng kind sc s = _
  rw [execFence, if_neg (by simp [goes])]

theorem State.fenceDrain_loads (s : State) (eng : Bool) (sc : Scope) : s.fenceDrain .loads eng sc = s := rfl

/-- What a fence that waits for stores performs before it sends what is on its way. -/
def State.fenceStores (s : State) (eng : Bool) : State :=
  if eng then s.drain s.cur.pid else s.drainMarked s.cur.pid 0 (neededFor (fun st => !st.tile) s.cur.stores)

theorem State.fenceDrain_eq (s : State) {kind : FenceKind} (stores : kind ≠ .loads) (eng : Bool) (sc : Scope) :
    s.fenceDrain kind eng sc =
      if sc = .sys then (s.fenceStores eng).flushOut (fun o => o.pid == s.cur.pid) else s.fenceStores eng := by
  rw [State.fenceDrain, if_neg stores]
  rfl

theorem State.fenceStores_idle {s : State} (idle : s.cur.stores = []) (eng : Bool) : s.fenceStores eng = s := by
  cases eng with
  | true =>
    change s.drain s.cur.pid = s
    unfold State.drain
    by_cases named : s.cur.pid = 0
    · rw [State.proc?, if_pos named]
    · rw [State.proc?, if_neg named, if_pos rfl]
      simp [idle]
  | false => simp only [State.fenceStores, idle]; rfl

theorem State.fenceDrain_idle {s : State} (idle : s.cur.stores = []) (kind : FenceKind) (eng : Bool) (sc : Scope) :
    (s.fenceDrain kind eng sc).cur = s.cur ∧ (sc ≠ .sys ∨ s.outbox = [] → SameMem s (s.fenceDrain kind eng sc)) := by
  by_cases loads : kind = .loads
  · subst loads
    exact ⟨rfl, fun _ => ⟨rfl, rfl, rfl, rfl⟩⟩
  · rw [State.fenceDrain_eq s loads, State.fenceStores_idle idle]
    split
    next sys =>
      refine ⟨State.cur_of_bare (State.flushOut_bare _ _), fun h => State.flushOut_nothing (h.resolve_left fun other => other sys) _⟩
    next => exact ⟨rfl, fun _ => ⟨rfl, rfl, rfl, rfl⟩⟩

/-- The stores that a fence leaves waiting are a tile instruction's, where the fence does not name the engines. -/
theorem State.fenceStores_cur {s : State} (h : Quiet s) (named : s.cur.pid ≠ 0) (eng : Bool) :
    ∃ l, LessStores s.cur (s.fenceStores eng).cur l ∧ ∀ st ∈ l, st.tile = true ∧ eng = false := by
  have found : s.proc? s.cur.pid = some s.cur := by rw [State.proc?, if_neg named, if_pos rfl]
  cases eng with
  | true => exact ⟨[], (State.drain_leaves h found).cur_eq named, fun _ none => absurd none List.not_mem_nil⟩
  | false =>
    refine ⟨_, (State.drainNeeded_leaves h found (fun st => !st.tile)).cur_eq named, fun st left => ⟨?_, rfl⟩⟩
    simpa using not_of_mem_unmarked _ _ st left

theorem State.fenceDrain_cur {s : State} (h : Quiet s) (named : s.cur.pid ≠ 0) {kind : FenceKind} (stores : kind ≠ .loads)
    (eng : Bool) (sc : Scope) : ∃ l, LessStores s.cur (s.fenceDrain kind eng sc).cur l ∧ (∀ st ∈ l, st.tile = true ∧ eng = false)
      ∧ (sc = .sys → ∀ o ∈ (s.fenceDrain kind eng sc).outbox, o.pid ≠ s.cur.pid) := by
  obtain ⟨l, less, left⟩ := State.fenceStores_cur h named eng
  rw [State.fenceDrain_eq s stores]
  split
  next =>
    refine ⟨l, by rwa [State.cur_of_bare (State.flushOut_bare _ _)], left, fun _ o out => ?_⟩
    simpa using State.flushOut_outbox _ _ o out
  next other => exact ⟨l, less, left, fun sys => absurd sys other⟩

theorem State.fenced_cur (u : State) (c : Nat) : ((u.flushL1 c).next 4).cur = { u.cur with ip := u.cur.ip + 4 } :=
  congrArg (fun p : Proc => { p with ip := p.ip + 4 }) (State.flushL1_cur u c)

theorem State.fenced_same (u : State) (c : Nat) : SameMem u ((u.flushL1 c).next 4) :=
  (u.flushL1_same c).trans ⟨rfl, rfl, rfl, rfl⟩

/-- Settles O16: by whether the latch holds the fence, then by which stores its kind names. -/
theorem fenceRule : Obligations.FenceRule := by
  intro s eng kind sc l u waits
  refine ⟨fun h => exec_fence_waits sc ((Latch.holdsFence_iff _ _ _).2 h), fun h => ?_⟩
  have goes : s.cur.latch.holdsFence kind eng = false := Bool.eq_false_iff.2 fun holds => h ((Latch.holdsFence_iff _ _ _).1 holds)
  refine ⟨_, exec_fence_goes sc goes, u.fenced_cur _, State.flushL1_mem _ _, fun core => ?_, ?_, fun idle => ?_, fun stores named cells entries => ?_⟩
  · exact congrArg Core.l1d (State.core_updCore u u.curCore _ core)
  · rintro rfl
    exact ⟨s.fenced_cur _, SameMem.bytes (u.fenced_same _)⟩
  · obtain ⟨cur, same⟩ := State.fenceDrain_idle idle kind eng sc
    refine ⟨(u.fenced_cur _).trans (congrArg (fun p : Proc => { p with ip := p.ip + 4 }) cur), fun sent => SameMem.bytes ?_⟩
    exact (same sent).trans (u.fenced_same _)
  · obtain ⟨m, less, left, gone⟩ := State.fenceDrain_cur ⟨cells, entries⟩ named stores eng sc
    have cur := u.fenced_cur u.curCore
    refine ⟨(congrArg Proc.ip cur).trans (congrArg (· + 4) less.ip), State.rd_of_s ((congrArg Proc.s cur).trans less.scalars), fun st waiting => left st ?_,
      fun sys o out => gone sys o ?_⟩
    · rw [← less.stores]
      exact (congrArg Proc.stores cur) ▸ waiting
    · simpa using out

end Sys2Proof.Machine
end

section
/-! SPLD and SPST (10_scratchpad.md R261, R278). -/

namespace Sys2Proof.Machine
open Sys2Proof Sys2Proof.Claims

/-! ### The address of a group -/

theorem TGrp.n_pos_le (g : TGrp) : 0 < TGrp.n g ∧ TGrp.n g ≤ 8 := by
  refine ⟨Nat.two_pow_pos _, Nat.pow_le_pow_right (by decide) (Nat.le_of_lt_succ g.w.isLt)⟩

theorem spGroupAddr_misaligned {x : Word} (h : x.toNat % 4096 ≠ 0) (n : Nat) :
    spGroupAddr x n = .error (.trap (.at .misalign x)) := by
  have off : aligned x 4096 = false := aligned_eq_false.2 h
  rw [spGroupAddr, off]
  rfl

/-- The last byte of a group lies past 16 MiB exactly where its end does. -/
theorem spGroupAddr_aligned {x : Word} (h : x.toNat % 4096 = 0) {n : Nat} (pos : 0 < n) (few : n ≤ 8) :
    spGroupAddr x n = if 2 ^ 24 < x.toNat + 4096 * n then .error (.trap (.at .spfault x)) else .ok () := by
  have on : aligned x 4096 = true := aligned_eq_true.2 h
  have test : ((x + BitVec.ofNat 64 (4096 * n - 1)).toNat / 2 ^ 24 != 0 || x.toNat / 2 ^ 24 != 0)
      = decide (2 ^ 24 < x.toNat + 4096 * n) := by
    rw [Bool.eq_iff_iff, Bool.or_eq_true, bne_iff_ne, bne_iff_ne, decide_eq_true_iff, div_ne_zero_iff_le (by norm_num),
      div_ne_zero_iff_le (by norm_num), BitVec.toNat_add, BitVec.toNat_ofNat]
    omega
  rw [spGroupAddr, on, test]
  split
  next past => rw [decide_eq_true past]; rfl
  next inside => rw [decide_eq_false inside]; rfl

variable {s : State} {a : SReg} {g : TGrp}

theorem exec_spld_error {h : Halt} (off : spGroupAddr (s.rd a) (TGrp.n g) = .error h) :
    exec (.spld g a) s = .next (s.halt h) := by
  change execSpld g a s = _
  simp only [execSpld, off]
  rfl

theorem exec_spst_error {h : Halt} (off : spGroupAddr (s.rd a) (TGrp.n g) = .error h) :
    exec (.spst a g) s = .next (s.halt h) := by
  change execSpst a g s = _
  simp only [execSpst, off]
  rfl

/-- Settles O20: the address first, then what the checks of the entries answer. -/
theorem scratchTiles : Obligations.ScratchTiles := by
  intro s u g a es x vs
  obtain ⟨pos, few⟩ := TGrp.n_pos_le g
  have inside (h : x.toNat % 4096 = 0) (fits : x.toNat + 4096 * TGrp.n g ≤ 2 ^ 24) : spGroupAddr x (TGrp.n g) = .ok () := by
    rw [spGroupAddr_aligned h pos few, if_neg (Nat.not_lt.2 fits)]
  refine ⟨fun h => ?_, fun h past => ?_, fun h fits checks present => ?_, fun v h fits checks stored => ?_⟩
  · exact ⟨exec_spld_error (spGroupAddr_misaligned h _), exec_spst_error (spGroupAddr_misaligned h _)⟩
  · have off : spGroupAddr x (TGrp.n g) = .error (.trap (.at .spfault x)) := by
      rw [spGroupAddr_aligned h pos few, if_pos past]
    exact ⟨exec_spld_error off, exec_spst_error off⟩
  · have none : (vs.zip es).find? (fun p => sttState p.2 == 1) = none :=
      List.find?_eq_none.2 fun p hp => by simpa using present p.2 (List.of_mem_zip hp).2
    refine ⟨_, ?_, rfl⟩
    change execSpld g a s = _
    simp only [execSpld]
    rw [inside h fits, Except.ok_bind, checks]
    simp only [Except.ok_bind]
    rw [none]
    rfl
  · change execSpst a g s = _
    simp only [execSpst]
    rw [inside h fits]
    simp only [Except.ok_bind]
    rw [checks]
    simp only [Except.ok_bind]
    rw [stored]
    rfl

end Sys2Proof.Machine
end

section
/-! Rows of tile pages read and written by bit fields (07_tiles.md, Pages and sidecars), and PLD and PST (10_scratchpad.md
R277). -/

namespace Sys2Proof.Machine
open Sys2Proof Sys2Proof.Claims

/-! ### A field of a number -/

/-- A number with its w bits from bit k on replaced. -/
theorem testBit_replaced (old v k w i : Nat) :
    (old % 2 ^ k + 2 ^ k * (v % 2 ^ w) + old / (2 ^ k * 2 ^ w) * (2 ^ k * 2 ^ w)).testBit i
      = if k ≤ i ∧ i < k + w then v.testBit (i - k) else old.testBit i := by
  have shape : old % 2 ^ k + 2 ^ k * (v % 2 ^ w) + old / (2 ^ k * 2 ^ w) * (2 ^ k * 2 ^ w)
      = 2 ^ k * (2 ^ w * (old / 2 ^ (k + w)) + v % 2 ^ w) + old % 2 ^ k := by
    rw [pow_add]
    ring
  rw [shape, Nat.testBit_two_pow_mul_add _ (Nat.mod_lt _ (Nat.two_pow_pos k)),
    Nat.testBit_two_pow_mul_add _ (Nat.mod_lt _ (Nat.two_pow_pos w))]
  simp only [Nat.testBit_mod_two_pow, Nat.testBit_div_two_pow]
  split
  next below => rw [if_neg (by omega)]; simp [below]
  next above =>
    split
    next inside => rw [if_pos (by omega)]; simp [inside]
    next past => rw [if_neg (by omega)]; congr 1; omega

/-- Two numbers have the same field where their bits agree on it. -/
theorem field_eq {x y k l w : Nat} (h : ∀ i < w, x.testBit (k + i) = y.testBit (l + i)) :
    x / 2 ^ k % 2 ^ w = y / 2 ^ l % 2 ^ w := by
  refine Nat.eq_of_testBit_eq fun i => ?_
  simp only [Nat.testBit_mod_two_pow, Nat.testBit_div_two_pow]
  by_cases inside : i < w
  · rw [Nat.add_comm i, Nat.add_comm i, h i inside]
  · simp [inside]

/-! ### A scalar store into a page -/

theorem testBit_pageRow_pageStore {p : Page} {off n v : Nat} (h : off / 64 < 64) {r i : Nat} (inside : i < 512) :
    (pageRow (pageStore p off n v) r).testBit i
      = if r = off / 64 ∧ 8 * (off % 64) ≤ i ∧ i < 8 * (off % 64) + 8 * n then v.testBit (i - 8 * (off % 64))
        else (pageRow p r).testBit i := by
  unfold pageRow
  split
  next row =>
    simp only [pageStore, dif_pos h, Vector.getElem_set]
    split
    next same =>
      rw [BitVec.testBit_toNat, BitVec.getLsbD_ofNat, testBit_replaced]
      simp [inside, same, pageRow, row]
    next other => simp [Ne.symm other]
  next outside =>
    rw [if_neg (by omega)]

theorem pageTag_pageStore (p : Page) (off n v r : Nat) (h : r < 64) :
    pageTag (pageStore p off n v) r = { pageTag p r with zero := 0, nonfin := 0xF } := by
  simp [pageTag, pageStore, h]

theorem scaleAt_pageStore (p : Page) (off n v r k : Nat) (h : k < 4) :
    scaleAt [pageStore p off n v] 4 r k = scaleAt [p] 4 r k := by
  have first : k / 4 = 0 := Nat.div_eq_of_lt h
  simp only [scaleAt, first, List.getElem?_cons_zero]
  by_cases row : r < 64
  · rw [pageTag_pageStore p off n v r row]
  · simp only [pageTag, dif_neg row]

theorem scratchPageRulePart : ScratchPageRulePart := by
  intro p off n v size aligned below q
  have fits : 8 * (off % 64) + 8 * n ≤ 512 := by
    obtain rfl | rfl | rfl | rfl := size <;> omega
  have row : off / 64 < 64 := by omega
  refine ⟨?_, fun o ho apart => ?_, rfl, rfl, rfl, fun r k hk => scaleAt_pageStore p off n v r k hk⟩
  · have read := field_eq (x := pageRow q (off / 64)) (y := v) (k := 8 * (off % 64)) (l := 0) (w := 8 * n) fun i hi => by
      rw [testBit_pageRow_pageStore row (by omega), if_pos (by omega)]
      congr 1
      omega
    simpa [pageRead] using read
  · refine field_eq fun i hi => ?_
    rw [testBit_pageRow_pageStore row (by omega), if_neg (by omega)]

/-! ### PLD and PST -/

theorem State.settlePage_clean {s : State} {id : Nat} (h : (s.pages.find? (fun q => q.id == id)).bind PoolPage.err = none) :
    s.settlePage id = s := by
  unfold State.settlePage
  split
  next q found =>
    rw [found] at h
    rw [show q.err = none from h]
  next => rfl

/-- A scalar access to the scratchpad finds its page. -/
theorem State.onPad_eq {s u : State} {x : Word} {z : Nat} {e : Word} {id : Nat} {store : Bool} (aligned_ : x.toNat % z = 0)
    (inside : x.toNat < 2 ^ 24) (entry : s.sttGet s.cur.pid (x.toNat / 4096) = .ok (u, e)) (present : sttState e = 2 ∨ sttState e = 3)
    (found : u.cur.resident? (x.toNat / 4096) = some id) (clean : (u.pageOf id).poison = false)
    (good : (u.pages.find? (fun q => q.id == id)).bind PoolPage.err = none) (allowed : (if store then sttW e else sttR e) = true)
    (f : State → Word → Nat → Except Halt State) : s.onPad x z store f = u.finish (f u e id) := by
  have page : spPage x = x.toNat / 4096 := Nat.mod_eq_of_lt (by omega)
  have on : aligned x z = true := aligned_eq_true.2 aligned_
  have near : (x.toNat / 2 ^ 24 != 0) = false := by rw [Nat.div_eq_of_lt inside]; rfl
  have there : (sttState e == 0) = false ∧ (sttState e == 4 || sttState e == 5) = false := by
    obtain h | h := present <;> simp [h]
  have access : s.spAccess x z store = .ok (u, e, id) := by
    rw [State.spAccess, on, near, page, entry]
    simp only [Except.ok_bind, there.1, there.2, allowed, found]
    rfl
  rw [State.onPad, access]
  simp only [State.settlePage_clean good, clean]
  rfl

theorem scratchResultsPart : ScratchResultsPart := by
  intro s u d a sz off e id x z aligned_ inside entry present found clean good
  refine ⟨fun allowed => ⟨_, ?_, rfl⟩, fun allowed dirty alone => ⟨_, ?_, rfl⟩⟩
  · change execPld d a sz off s = _
    simp only [execPld]
    exact State.onPad_eq (x := x) (store := false) aligned_ inside entry present found clean good allowed _
  · change execPst d a sz off s = _
    simp only [execPst]
    refine (State.onPad_eq (x := x) (store := true) aligned_ inside entry present found clean good allowed _).trans ?_
    simp only [if_neg (Nat.not_lt.2 alone), dirty]
    rfl

/-- Settles O17: the two forms by their checks, and a page after a scalar store by its bytes and its sidecar. -/
theorem scratchResults : Obligations.ScratchResults := ⟨scratchResultsPart, scratchPageRulePart⟩

end Sys2Proof.Machine
end

section
/-! A tile write: fresh pages for its registers, and nothing else (07_tiles.md R195, R196), and the forms that end in one:
the vector forms and the MMA family (08_matrix.md, 09_vector.md). -/

namespace Sys2Proof.Machine
open Sys2Proof Sys2Proof.Claims

/-! ### What registers name -/

theorem getElem_setRefs : ∀ (refs : List TRef) (t : Vector TRef 32) (base k : Nat) (hk : k < 32),
    (setRefs t base refs)[k] = if h : base ≤ k ∧ k < base + refs.length then refs[k - base] else t[k]
  | [], t, base, k, hk => by rw [setRefs, dif_neg (by simp)]
  | r :: rest, t, base, k, hk => by
    have set : (if h : base < 32 then t.set base r else t)[k] = if base = k then r else t[k] := by
      split
      next inside => exact Vector.getElem_set inside hk
      next outside => rw [if_neg (by omega)]
    rw [setRefs, getElem_setRefs rest _ (base + 1) k hk, set]
    simp only [List.length_cons]
    by_cases first : base = k
    · subst first
      simp
    · by_cases later : base + 1 ≤ k ∧ k < base + 1 + rest.length
      · have behind : k - base = (k - (base + 1)) + 1 := by omega
        rw [dif_pos later, dif_pos (by omega)]
        simp only [behind, List.getElem_cons_succ]
      · rw [dif_neg later, dif_neg (by omega), if_neg first]

/-- A group of n registers lies among the 32. -/
theorem TGrp.ok_inside {g : TGrp} (h : TGrp.ok g = true) : g.base.val + TGrp.n g ≤ 32 := by
  have base := g.base.isLt
  have size : TGrp.n g = 1 ∨ TGrp.n g = 2 ∨ TGrp.n g = 4 ∨ TGrp.n g = 8 := by
    have w := g.w.isLt
    unfold TGrp.n
    interval_cases g.w.val <;> simp
  have aligned_ : g.base.val % TGrp.n g = 0 := by simpa [TGrp.ok] using h
  obtain e | e | e | e := size <;> rw [e] at aligned_ ⊢ <;> omega

/-- What a register of a group names once the group's references are set. -/
theorem Proc.tref_setRefs (p : Proc) {g : TGrp} (ok : TGrp.ok g = true) {refs : List TRef} (len : refs.length = TGrp.n g) (k : Nat) :
    Proc.tref { p with t := setRefs p.t g.base.val refs } k
      = if h : g.base.val ≤ k ∧ k < g.base.val + refs.length then refs[k - g.base.val] else p.tref k := by
  have inside := TGrp.ok_inside ok
  by_cases hk : k < 32
  · simp only [Proc.tref, dif_pos hk]
    exact getElem_setRefs refs p.t g.base.val k hk
  · rw [dif_neg (by omega)]
    simp only [Proc.tref, dif_neg hk]

/-- A page that a register names is referenced. -/
theorem Proc.mem_refIds_of_tref {p : Proc} {k id : Nat} (h : p.tref k = .pool id) : id ∈ p.refIds := by
  unfold Proc.tref at h
  split at h
  next hk =>
    refine List.mem_append_left _ (List.mem_append_left _ (List.mem_filterMap.2 ⟨.pool id, ?_, rfl⟩))
    rw [← h]
    exact Array.mem_toList_iff.2 (Vector.getElem_mem hk).1
  next => cases h

/-! ### The mapping of a group -/

variable {s : State} {g : TGrp}

/-- The executing process, its group mapped to references. -/
def State.mappedCur (s : State) (g : TGrp) (refs : List TRef) : Proc := { s.cur with t := setRefs s.cur.t g.base.val refs }

theorem State.mapGroup_eq (named : s.cur.pid ≠ 0) (refs : List TRef) :
    s.mapGroup s.cur.pid g refs = { s with
      cur := s.mappedCur g refs
      pages := s.pages.filter (fun q => q.owner != s.cur.pid || (s.mappedCur g refs).refIds.contains q.id) } := by
  have map : s.updProc s.cur.pid (fun p => { p with t := setRefs p.t g.base.val refs }) = { s with cur := s.mappedCur g refs } := by
    rw [State.updProc, if_pos rfl]
    rfl
  have found : State.space? { s with cur := s.mappedCur g refs } s.cur.pid = some (s.mappedCur g refs) := by
    have current : State.proc? { s with cur := s.mappedCur g refs } s.cur.pid = some (s.mappedCur g refs) := by
      rw [State.proc?, if_neg named]
      exact if_pos rfl
    rw [State.space?, current]
  rw [State.mapGroup, map, State.sweep, found]

/-- Page number k of those that a tile write takes from the pool. -/
def State.newPage (s : State) (k : Nat) (p : Page) : PoolPage :=
  { id := s.nextId + k, core := s.curCore, owner := s.cur.pid, page := p, stamp := s.cycle.toNat, hurt := false, err := none }

/-- The pages that a tile write takes from the pool. -/
def State.newPages (s : State) (ps : List Page) : List PoolPage :=
  ((List.range ps.length).zip ps).map fun x => s.newPage x.1 x.2

theorem State.length_newPages (s : State) (ps : List Page) : (s.newPages ps).length = ps.length := by simp [State.newPages]

theorem State.getElem_newPages (s : State) (ps : List Page) {k : Nat} (h : k < ps.length) :
    (s.newPages ps)[k]'(by rwa [s.length_newPages]) = s.newPage k ps[k] := by
  simp [State.newPages]

/-- The references to the pages that a tile write takes. -/
def State.newRefs (s : State) (ps : List Page) : List TRef := (s.newPages ps).map fun q => .pool q.id

theorem State.length_newRefs (s : State) (ps : List Page) : (s.newRefs ps).length = ps.length := by
  simp [State.newRefs, State.length_newPages]

theorem State.freshPages_cur_eq (s : State) (ps : List Page) :
    s.freshPages s.cur ps = ({ s with pages := s.pages ++ s.newPages ps, nextId := s.nextId + ps.length }, s.newRefs ps) := rfl

theorem State.writeGroup_eq (named : s.cur.pid ≠ 0) (ps : List Page) :
    s.writeGroup g ps = { s with
      cur := s.mappedCur g (s.newRefs ps)
      pages := (s.pages ++ s.newPages ps).filter
        (fun q => q.owner != s.cur.pid || (s.mappedCur g (s.newRefs ps)).refIds.contains q.id)
      nextId := s.nextId + ps.length } :=
  State.mapGroup_eq (s := { s with pages := s.pages ++ s.newPages ps, nextId := s.nextId + ps.length }) named _

theorem State.writeGroup_tref (ok : TGrp.ok g = true) {ps : List Page} (len : ps.length = TGrp.n g) (named : s.cur.pid ≠ 0) (k : Nat) :
    (s.writeGroup g ps).cur.tref k
      = if g.base.val ≤ k ∧ k < g.base.val + TGrp.n g then .pool (s.nextId + (k - g.base.val)) else s.cur.tref k := by
  rw [State.writeGroup_eq named]
  refine (Proc.tref_setRefs s.cur ok ((s.length_newRefs ps).trans len) k).trans ?_
  simp only [State.length_newRefs, len]
  split
  next inside =>
    simp only [State.newRefs, List.getElem_map]
    rw [State.getElem_newPages s ps (by omega)]
    rfl
  next => rfl

theorem State.writeGroup_onlyTiles (named : s.cur.pid ≠ 0) (g : TGrp) (ps : List Page) : OnlyTiles s (s.writeGroup g ps) := by
  rw [State.writeGroup_eq named]
  exact ⟨rfl, rfl, rfl⟩

/-- Settles O21: by the state that a tile write is. -/
theorem tileWriteRule : Obligations.TileWriteRule := by
  intro s g ps ok len named t
  have at_ (k : Nat) := State.writeGroup_tref (s := s) ok len named k
  have new {k : Nat} (h : k < ps.length) : t.cur.tref (g.base.val + k) = .pool (s.nextId + k) := by
    rw [at_, if_pos (by omega), Nat.add_sub_cancel_left]
  have pages : t.pages = (s.pages ++ s.newPages ps).filter (fun q => q.owner != s.cur.pid || t.cur.refIds.contains q.id) := by
    simp only [t, State.writeGroup_eq named]
  refine ⟨State.writeGroup_onlyTiles named g ps, (State.writeGroup_same s g ps).bytes, fun k h => ⟨new h, ?_⟩, fun k outside => ?_,
    fun q hq kept => ?_, fun q hq own => ?_⟩
  · have inNew : k < (s.newPages ps).length := by rwa [s.length_newPages]
    refine ⟨(s.newPages ps)[k], ?_, ?_⟩
    · rw [pages, List.mem_filter]
      refine ⟨List.mem_append_right _ (List.getElem_mem inNew), ?_⟩
      rw [s.getElem_newPages ps h]
      simpa [State.newPage] using Proc.mem_refIds_of_tref (new h)
    · rw [s.getElem_newPages ps h]
      exact ⟨rfl, rfl, rfl, rfl⟩
  · rw [at_, if_neg (by omega)]
  · rw [pages, List.mem_filter]
    exact ⟨List.mem_append_left _ hq, by simpa using kept⟩
  · rw [pages, List.mem_filter] at hq
    simpa [own] using hq.2

/-! ### Clean and poisoned sources -/

theorem State.readGroup_clean {s : State} {g : TGrp} (h : Clean s g) : s.readGroup g = .ok (s.group g) := by
  have none : (s.group g).any Page.poison = false := by simpa [Clean] using h
  simp [State.readGroup, none]

theorem State.readGroup_poisoned {s : State} {g : TGrp} (h : ¬Clean s g) : s.readGroup g = .error (.trap (.at .poison 0)) := by
  have some : (s.group g).any Page.poison = true := by simpa [Clean] using h
  simp [State.readGroup, some]

theorem State.vec1_clean {s : State} {d a : TGrp} (h : Clean s a) (f : List Page → List Page × Flags) :
    s.vec1 d a f = tileDone s d (f (s.group a)) := by
  simp only [State.vec1, State.readGroup_clean h]
  rfl

theorem State.vec1_poisoned {s : State} {d a : TGrp} (h : ¬Clean s a) (f : List Page → List Page × Flags) :
    s.vec1 d a f = .next (s.takeTrap (.at .poison 0)) := by
  simp only [State.vec1, State.readGroup_poisoned h]
  rfl

theorem State.vec2_clean {s : State} {d a b : TGrp} (h : Clean s a) (k : Clean s b) (f : List Page → List Page → List Page × Flags) :
    s.vec2 d a b f = tileDone s d (f (s.group a) (s.group b)) := by
  simp only [State.vec2, State.readGroup_clean h, State.readGroup_clean k]
  rfl

theorem State.vec2_poisoned {s : State} {d a b : TGrp} (h : ¬(Clean s a ∧ Clean s b)) (f : List Page → List Page → List Page × Flags) :
    s.vec2 d a b f = .next (s.takeTrap (.at .poison 0)) := by
  by_cases first : Clean s a
  · simp only [State.vec2, State.readGroup_clean first, State.readGroup_poisoned fun second => h ⟨first, second⟩]
    rfl
  · simp only [State.vec2, State.readGroup_poisoned first]
    rfl

theorem State.vec3_clean {s : State} {d a b c : TGrp} (ha : Clean s a) (hb : Clean s b) (hc : Clean s c)
    (f : List Page → List Page → List Page → List Page × Flags) :
    s.vec3 d a b c f = tileDone s d (f (s.group a) (s.group b) (s.group c)) := by
  simp only [State.vec3, State.readGroup_clean ha, State.readGroup_clean hb, State.readGroup_clean hc]
  rfl

theorem State.vec3_poisoned {s : State} {d a b c : TGrp} (h : ¬(Clean s a ∧ Clean s b ∧ Clean s c))
    (f : List Page → List Page → List Page → List Page × Flags) : s.vec3 d a b c f = .next (s.takeTrap (.at .poison 0)) := by
  by_cases first : Clean s a
  · by_cases second : Clean s b
    · simp only [State.vec3, State.readGroup_clean first, State.readGroup_clean second,
        State.readGroup_poisoned fun third => h ⟨first, second, third⟩]
      rfl
    · simp only [State.vec3, State.readGroup_clean first, State.readGroup_poisoned second]
      rfl
  · simp only [State.vec3, State.readGroup_poisoned first]
    rfl

/-! ### The vector forms -/

theorem exec_oneSource {s : State} {i : Instr} {d a : TGrp} {f : List Page → List Page × Flags} (h : oneSource s i = some (d, a, f)) :
    exec i s = s.vec1 d a f := by
  unfold oneSource at h
  split at h <;> cases h <;> rfl

theorem exec_twoSources {s : State} {i : Instr} {d a b : TGrp} {f : List Page → List Page → List Page × Flags}
    (h : twoSources s i = some (d, a, b, f)) : exec i s = s.vec2 d a b f := by
  unfold twoSources at h
  split at h <;> cases h <;> rfl

theorem exec_threeSources (s : State) {i : Instr} {d a b c : TGrp} {f : List Page → List Page → List Page → List Page × Flags}
    (h : threeSources i = some (d, a, b, c, f)) : exec i s = s.vec3 d a b c f := by
  unfold threeSources at h
  split at h <;> cases h <;> rfl

/-- The indices of a VPERMR are good where each is one of a row. -/
theorem permOk_eq_true {l : List Int} : permOk l = true ↔ ∀ k ∈ l, 0 ≤ k ∧ k ≤ 63 := by simp [permOk]

theorem exec_vpermr {s : State} {d a : TGrp} {r : TReg} (ha : Clean s a) (hr : Clean s (single r)) :
    exec (.vpermr d a r) s =
      if permOk (permIndices (s.group (single r))) then tileDone s d (vecPermuteRows (s.group (single r)) (s.group a), Flags.none)
      else .next (s.takeTrap (.at .illegal 0)) := by
  change execVpermr d a r s = _
  simp only [execVpermr, State.readGroup_clean ha, State.readGroup_clean hr, Except.ok_bind]
  cases permOk (permIndices (s.group (single r))) <;> rfl

theorem exec_vpermr_poisoned {s : State} {d a : TGrp} {r : TReg} (h : ¬(Clean s a ∧ Clean s (single r))) :
    exec (.vpermr d a r) s = .next (s.takeTrap (.at .poison 0)) := by
  change execVpermr d a r s = _
  by_cases first : Clean s a
  · simp only [execVpermr, State.readGroup_clean first, State.readGroup_poisoned fun second => h ⟨first, second⟩]
    rfl
  · simp only [execVpermr, State.readGroup_poisoned first]
    rfl

theorem vectorResultsPart : VectorResultsPart := by
  intro i s d a b c
  refine ⟨fun f h ha => ?_, fun f h ha hb => ?_, fun f h ha hb hc => ?_, fun r ha hr => ⟨fun good => ?_, fun bad => ?_⟩⟩
  · rw [exec_oneSource h, State.vec1_clean ha]
  · rw [exec_twoSources h, State.vec2_clean ha hb]
  · rw [exec_threeSources s h, State.vec3_clean ha hb hc]
  · rw [exec_vpermr ha hr, if_pos (permOk_eq_true.2 good)]
    rfl
  · rw [exec_vpermr ha hr, if_neg]
    obtain ⟨k, hk, outside⟩ := bad
    exact fun good => by
      obtain ⟨low, high⟩ := permOk_eq_true.1 good k hk
      omega

theorem poisonTrapsPart : PoisonTrapsPart := by
  intro i s d a b c
  refine ⟨fun f h bad => ?_, fun f h bad => ?_, fun f h bad => ?_, fun r bad => exec_vpermr_poisoned bad⟩
  · rw [exec_oneSource h, State.vec1_poisoned bad]
  · rw [exec_twoSources h, State.vec2_poisoned bad]
  · rw [exec_threeSources s h, State.vec3_poisoned bad]

/-! ### The MMA family -/

/-- A form that reads no accumulator. -/
theorem State.matrix_fresh {s : State} {x : MmaOp} (ha : Clean s x.a) (hb : Clean s x.b) (scaled : Bool) :
    s.matrix x scaled false = tileDone s { base := x.d, w := 2 } (mmaPages x scaled none (s.group x.a) (s.group x.b)) := by
  simp only [State.matrix, State.readGroup_clean ha, State.readGroup_clean hb]
  rfl

/-- A form that adds to the quad at D. -/
theorem State.matrix_adds {s : State} {x : MmaOp} (ha : Clean s x.a) (hb : Clean s x.b) (hq : Clean s { base := x.d, w := 2 })
    (scaled : Bool) : s.matrix x scaled true = tileDone s { base := x.d, w := 2 }
      (mmaPages x scaled (some (s.group { base := x.d, w := 2 })) (s.group x.a) (s.group x.b)) := by
  have quad : s.readGroup (quadAt x.d) = .ok (s.group (quadAt x.d)) := State.readGroup_clean hq
  simp only [State.matrix, State.readGroup_clean ha, State.readGroup_clean hb, quad]
  rfl

theorem State.matrix_poisoned_source {s : State} {x : MmaOp} (h : ¬(Clean s x.a ∧ Clean s x.b)) (scaled acc : Bool) :
    s.matrix x scaled acc = .next (s.takeTrap (.at .poison 0)) := by
  by_cases first : Clean s x.a
  · simp only [State.matrix, State.readGroup_clean first, State.readGroup_poisoned fun second => h ⟨first, second⟩]
    rfl
  · simp only [State.matrix, State.readGroup_poisoned first]
    rfl

theorem State.matrix_poisoned_quad {s : State} {x : MmaOp} (h : ¬Clean s { base := x.d, w := 2 }) (scaled : Bool) :
    s.matrix x scaled true = .next (s.takeTrap (.at .poison 0)) := by
  by_cases sources : Clean s x.a ∧ Clean s x.b
  · have quad : s.readGroup (quadAt x.d) = .error (.trap (.at .poison 0)) := State.readGroup_poisoned h
    simp only [State.matrix, State.readGroup_clean sources.1, State.readGroup_clean sources.2, quad]
    rfl
  · exact State.matrix_poisoned_source sources scaled true

theorem State.sweep_cur (s : State) (pid : Pid) : (s.sweep pid).cur = s.cur := by
  unfold State.sweep
  split <;> rfl

theorem State.writeGroup_cur (s : State) (g : TGrp) (ps : List Page) : (s.writeGroup g ps).cur = s.mappedCur g (s.newRefs ps) := by
  rw [State.writeGroup, State.mapGroup, State.sweep_cur]
  exact congrArg State.cur (if_pos rfl)

theorem next_of_tileDone {s : State} {o : Host.Outcome State Fault Refusal} {d : TGrp} {r : List Page × Flags}
    (h : o = tileDone s d r) : ∃ t, o = .next t ∧ t.cur.ip = s.cur.ip + 8 := by
  refine ⟨_, h, ?_⟩
  have ip : (s.writeGroup d r.1).cur.ip = s.cur.ip := by rw [State.writeGroup_cur]; rfl
  exact congrArg (· + 8) ip

theorem matrixCompletesPart : MatrixCompletesPart := by
  intro s x ha hb
  refine ⟨fun i hi => ?_, fun hq i hi => ?_⟩
  · obtain rfl | rfl : i = .mmz x ∨ i = .mmzs x := by simpa using hi
    · exact next_of_tileDone (State.matrix_fresh ha hb false)
    · exact next_of_tileDone (State.matrix_fresh ha hb true)
  · obtain rfl | rfl : i = .mma x ∨ i = .mmas x := by simpa using hi
    · exact next_of_tileDone (State.matrix_adds ha hb hq false)
    · exact next_of_tileDone (State.matrix_adds ha hb hq true)

/-- Settles O24: a clean form by what it computes, a poisoned one by the first group that does not read, the matrix forms by both. -/
theorem vectorResults : Obligations.VectorResults := ⟨vectorResultsPart, poisonTrapsPart, matrixCompletesPart⟩

end Sys2Proof.Machine
end

section
/-! PARK, MIGR, RESUME and KILL of a process that is no record, and the completion of the SYS forms (15_traps.md R404, R132,
R141). -/

namespace Sys2Proof.Machine
open Sys2Proof Sys2Proof.Claims

/-! ### The run queue -/

theorem State.mem_insertRun (s : State) (pid : Pid) (prio : BitVec 6) (at_ : Word) : ∀ l : List Pid, pid ∈ s.insertRun pid prio at_ l
  | [] => List.mem_cons_self
  | q :: rest => by
    unfold State.insertRun
    split
    · split
      · exact List.mem_cons_self
      · exact List.mem_cons_of_mem _ (State.mem_insertRun s pid prio at_ rest)
    · exact List.mem_cons_of_mem _ (State.mem_insertRun s pid prio at_ rest)

theorem State.rejoin_part (s : State) (pid : Pid) (n : Nat) : (s.rejoin pid).part n = s.part n := by
  unfold State.rejoin State.part State.part?
  repeat' split
  all_goals simp

theorem State.rejoin_cur (s : State) (pid : Pid) : (s.rejoin pid).cur = s.cur := by
  unfold State.rejoin
  repeat' split
  all_goals simp

theorem State.updProc_cur_other {s : State} {pid : Pid} (other : s.cur.pid ≠ pid) (f : Proc → Proc) :
    (s.updProc pid f).cur = s.cur := by rw [State.updProc, if_neg other]

theorem State.enqueue_part (s : State) (pid : Pid) (n : Nat) : (s.enqueue pid).part n = s.part n := by
  unfold State.enqueue
  repeat' split
  · rfl
  · rw [State.rejoin_part, State.updProc_part]
  · rfl

theorem State.enqueue_cur_other {s : State} {pid : Pid} (other : s.cur.pid ≠ pid) : (s.enqueue pid).cur = s.cur := by
  unfold State.enqueue
  repeat' split
  · rfl
  · rw [State.rejoin_cur, State.updProc_cur_other other]
  · rfl

/-- A process after it has joined the run queue: as before, but for the instant from which it waits there. -/
theorem State.enqueue_proc? {s : State} {pid : Pid} {p : Proc} (found : s.proc? pid = some p) :
    ∃ at_, (s.enqueue pid).proc? pid = some { p with runAt := at_ } := by
  unfold State.enqueue
  rw [found]
  dsimp only
  split
  · refine ⟨s.cycle, ?_⟩
    rw [State.rejoin_proc?, State.proc?_updProc _ _ _ _ (fun q => by rfl), if_pos rfl, found]
    rfl
  · exact ⟨p.runAt, found⟩

theorem State.enqueue_runq {s : State} {pid : Pid} {p : Proc} (found : s.proc? pid = some p) (fit : p.queueable = true)
    (home : p.home < 90) : pid ∈ ((s.enqueue pid).core p.home).runq := by
  unfold State.enqueue
  rw [found]
  dsimp only
  by_cases there : (s.core p.home).runq.contains pid = true
  · rw [if_neg (by simp only [there, Bool.not_true, Bool.and_false, Bool.false_eq_true, not_false_eq_true])]
    exact List.contains_iff_mem.1 there
  · have apart : (s.core p.home).runq.contains pid = false := Bool.eq_false_iff.2 there
    have now : (s.updProc pid (fun p => { p with runAt := s.cycle })).proc? pid = some { p with runAt := s.cycle } := by
      rw [State.proc?_updProc _ _ _ _ (fun q => by rfl), if_pos rfl, found]
      rfl
    have fit' : Proc.queueable { p with runAt := s.cycle } = true := fit
    rw [if_pos (by rw [fit, apart]; rfl), State.rejoin, now]
    dsimp only
    rw [if_pos (by rw [fit', State.updProc_core, apart]; rfl), State.core_updCore _ _ _ home]
    exact State.mem_insertRun _ _ _ _ _

/-! ### PARK -/

variable {s : State} {p : Proc}

theorem State.parkAny_eq (lone : s.queued? p.pid = none) (runs : s.pausedCore p.pid = none) :
    s.parkAny p.pid = s.parkNow p.pid true := by
  simp only [State.parkAny, lone, State.parkProc, runs]

theorem State.parkNow_cur_other {c k : Nat} (found : s.proc? p.pid = some p) (resident : p.place = .resident c k)
    (other : s.cur.pid ≠ p.pid) : (s.parkNow p.pid true).cur = s.cur := by
  rw [State.parkNow_resident found resident]
  exact (State.updCore_cur _ _ _).trans (State.updProc_cur_other other _)

theorem Proc.squash_rob (p : Proc) : p.squash.rob = [] := rfl

theorem Proc.squash_ip_rollback (p : Proc) : p.squash.ip = p.rollback.ip := rfl

/-! ### MIGR -/

/-- A process on its way from core c to core n. -/
def Proc.movingTo (p : Proc) (c n : Nat) : Proc := { p.squash with place := .moving c n, imageOk := false, pageIns := [] }

theorem Proc.squash_pid (p : Proc) : p.squash.pid = p.pid := by
  unfold Proc.squash Proc.rollback
  split <;> rfl

section
variable {c k n : Nat} (found : s.proc? p.pid = some p) (resident : p.place = .resident c k)
include found resident

theorem State.beginMoveNow_resident :
    s.beginMoveNow p.pid n = (s.updProc p.pid (fun p => p.movingTo c n)).freeSlot c k p.pid := by
  simp only [State.beginMoveNow, found, resident]
  rfl

theorem State.beginMoveNow_proc? : (s.beginMoveNow p.pid n).proc? p.pid = some (p.movingTo c n) := by
  rw [State.beginMoveNow_resident found resident, State.freeSlot_proc?, State.proc?_updProc _ _ _ _ (fun q => by exact q.squash_pid),
    if_pos rfl, found]
  rfl

theorem State.beginMoveNow_slot (hc : c < 90) (hk : k < 4) : ((s.beginMoveNow p.pid n).core c).slots[k] = none := by
  rw [State.beginMoveNow_resident found resident, State.freeSlot, State.core_updCore _ _ _ hc]
  simp [hk]

theorem State.beginMoveNow_cur_other (other : s.cur.pid ≠ p.pid) : (s.beginMoveNow p.pid n).cur = s.cur := by
  rw [State.beginMoveNow_resident found resident]
  exact (State.updCore_cur _ _ _).trans (State.updProc_cur_other other _)

theorem State.migrate_resident (lone : s.queued? p.pid = none) (runs : s.pausedCore p.pid = none) (on : s.coreOnline n = true)
    (settled : s.affinityTarget p = none) : s.migrate p.pid n = s.beginMoveNow p.pid n := by
  simp [State.migrate, on, lone, found, resident, settled, State.beginMove, State.startMove, runs]

end

/-! ### RESUME -/

/-- A process that is held no more. -/
def Proc.resumed (p : Proc) : Proc :=
  { p with held := false, faulted := false, halted := false, haltOp := false, stepping := false, record := none, pagerStop := none }

/-- The state in which a process is held no more and is out of its partition's order of delivery. -/
def State.freed (s : State) (p : Proc) : State :=
  (s.updProc p.pid Proc.resumed).updPart p.part (fun q => { q with order := q.order.filter (· != .inl p.pid) })

section
variable (found : s.proc? p.pid = some p) (parked : p.place = .parked) (stopped : p.held = true ∨ p.faulted = true ∨ p.halted = true)
include found

theorem State.resumeProc_eq (parked : p.place = .parked) (stopped : p.held = true ∨ p.faulted = true ∨ p.halted = true) :
    s.resumeProc p.pid = if p.imageOk then (s.freed p).enqueue p.pid else s.freed p := by
  have taken : (p.held || p.faulted || (p.halted && p.place == .parked)) = true := by
    obtain h | h | h := stopped <;> simp [h, parked]
  simp only [State.resumeProc, found, taken, if_true]
  rfl

theorem State.freed_proc? : (s.freed p).proc? p.pid = some p.resumed := by
  rw [State.freed, State.updPart_proc?, State.proc?_updProc _ _ _ _ (fun q => by rfl), if_pos rfl, found]
  rfl

end

theorem State.not_mem_order_updPart (s : State) (n : Nat) (pid : Pid) :
    .inl pid ∉ ((s.updPart n (fun q => { q with order := q.order.filter (· != .inl pid) })).part n).order := by
  unfold State.part
  rw [State.part?_updPart _ _ _ _ (fun q => by rfl), if_pos rfl]
  cases s.part? n with
  | none => exact List.not_mem_nil
  | some q =>
    have self : (Sum.inl pid == (Sum.inl pid : Sum Pid Nat)) = true := beq_self_eq_true pid
    simp [bne, self]

theorem State.freed_order (s : State) (p : Proc) : .inl p.pid ∉ ((s.freed p).part p.part).order := State.not_mem_order_updPart _ _ _

theorem State.freed_cur_other {s : State} {p : Proc} (other : s.cur.pid ≠ p.pid) : (s.freed p).cur = s.cur :=
  State.updProc_cur_other other _

theorem Proc.resumed_queueable {p : Proc} (parked : p.place = .parked) (idle : p.wait = .none) : p.resumed.queueable = true := by
  simp [Proc.queueable, Proc.resumed, Proc.stopped, parked, idle]

/-- What RESUME of a parked process that something stops leaves of it. -/
theorem State.resumeProc_proc? {s : State} {p : Proc} (found : s.proc? p.pid = some p) (parked : p.place = .parked)
    (stopped : p.held = true ∨ p.faulted = true ∨ p.halted = true) :
    ∃ at_, (s.resumeProc p.pid).proc? p.pid = some { p.resumed with runAt := at_ } := by
  rw [State.resumeProc_eq found parked stopped]
  split
  · exact State.enqueue_proc? (State.freed_proc? found)
  · exact ⟨_, State.freed_proc? found⟩

theorem State.resumeProc_order {s : State} {p : Proc} (found : s.proc? p.pid = some p) (parked : p.place = .parked)
    (stopped : p.held = true ∨ p.faulted = true ∨ p.halted = true) :
    .inl p.pid ∉ ((s.resumeProc p.pid).part p.part).order := by
  rw [State.resumeProc_eq found parked stopped]
  split
  · rw [State.enqueue_part]
    exact State.freed_order s p
  · exact State.freed_order s p

theorem State.resumeProc_cur_other {s : State} {p : Proc} (found : s.proc? p.pid = some p) (parked : p.place = .parked)
    (stopped : p.held = true ∨ p.faulted = true ∨ p.halted = true) (other : s.cur.pid ≠ p.pid) :
    (s.resumeProc p.pid).cur = s.cur := by
  have cur := State.freed_cur_other other
  rw [State.resumeProc_eq found parked stopped]
  split
  · exact (State.enqueue_cur_other (by rwa [cur])).trans cur
  · exact cur

/-! ### KILL -/

/-- A process that waits for nothing at its home has performed what it retired. -/
theorem State.performRetired_idle {s : State} {p : Proc} (found : s.proc? p.pid = some p) (stores : p.stores = [])
    (latch : p.latch.sent = false) : s.performRetired p.pid = s.dropRequest p.latch := by
  have fresh : s.finishTred p.pid = s := by
    unfold State.finishTred
    rw [found]
    dsimp only
    split
    · rw [if_neg (by rw [latch]; simp)]
    · rfl
  rw [State.performRetired, State.drain_none found stores, fresh, found]

theorem State.closeAll_none {s : State} (h : s.entries = []) (pid : Pid) : s.closeAll pid = s := by
  rw [State.closeAll, h]
  rfl

theorem State.dropProc_proc? {s : State} {pid : Pid} (other : s.cur.pid ≠ pid) : (s.dropProc pid).proc? pid = none := by
  have gone : (s.procs.filter (fun p => p.pid != pid)).find? (fun p => p.pid == pid) = none := by
    rw [List.find?_eq_none]
    intro p hp
    simpa using (List.mem_filter.1 hp).2
  rw [State.dropProc, if_neg other, State.proc?]
  split
  · rfl
  · exact gone

theorem State.hostEvent_proc? (s : State) (k : Nat) (w : List Word) (pid : Pid) : (s.hostEvent k w).proc? pid = s.proc? pid := by
  simp [State.proc?]

/-- The end of a process changes no context that executes, no memory and nothing that the host sees. -/
theorem State.endProc_quiet {s : State} {p : Proc} (found : s.proc? p.pid = some p) (none : s.entries = []) (other : s.cur.pid ≠ p.pid) :
    SameMem s (s.endProc p.pid) ∧ (s.endProc p.pid).proc? p.pid = .none ∧ (s.endProc p.pid).cur = s.cur
      ∧ (s.endProc p.pid).host = s.host := by
  have entries : (s.dequeue p.pid).entries = [] := by
    unfold State.dequeue
    split <;> simpa using none
  have cur : (s.dequeue p.pid).cur = s.cur := by
    unfold State.dequeue
    split <;> simp
  have drop {t : State} (same : SameMem s t) (tcur : t.cur = s.cur) (host : t.host = s.host) :
      SameMem s ((t.dropPages p.pid).dropProc p.pid) ∧ ((t.dropPages p.pid).dropProc p.pid).proc? p.pid = .none
        ∧ ((t.dropPages p.pid).dropProc p.pid).cur = s.cur ∧ ((t.dropPages p.pid).dropProc p.pid).host = s.host := by
    have away : (t.dropPages p.pid).cur.pid ≠ p.pid := by
      change t.cur.pid ≠ p.pid
      rwa [tcur]
    refine ⟨(same.trans (State.dropPages_same _ _)).trans (State.dropProc_same _ _), State.dropProc_proc? away, ?_, ?_⟩
    · rw [State.dropProc, if_neg away]
      exact tcur
    · rw [State.dropProc_host]
      exact host
  have base := ((State.dequeue_same s p.pid).trans (State.updPart_same _ p.part _) :
    SameMem s ((s.dequeue p.pid).updPart p.part (fun q => { q with order := q.order.filter (· != .inl p.pid) })))
  have freed {c slot : Nat} {t : State} (same : SameMem s t) (tcur : t.cur = s.cur) (host : t.host = s.host) :=
    drop (same.trans (State.freeSlot_same t c slot p.pid)) ((State.updCore_cur _ _ _).trans tcur)
      ((State.updCore_host _ _ _).trans host)
  have host : (s.dequeue p.pid).host = s.host := State.dequeue_host s p.pid
  simp only [State.endProc, found, State.closeAll_none entries]
  cases p.place with
  | resident c slot => exact freed base cur host
  | exiting c slot => exact freed base cur host
  | _ => exact drop base cur host

/-- What KILL of a process that is no record leaves, where it waits for nothing at its home and no endpoint is open. -/
theorem State.killAny_quiet {s : State} {p : Proc} (found : s.proc? p.pid = some p) (lone : s.queued? p.pid = none)
    (stores : p.stores = []) (latch : p.latch.sent = false) (none : s.entries = []) (other : s.cur.pid ≠ p.pid)
    (stays : ∀ c k, p.place ≠ .exiting c k) :
    SameMem s (s.killAny p.pid) ∧ (s.killAny p.pid).proc? p.pid = .none ∧ (s.killAny p.pid).cur = s.cur
      ∧ (p.join = .root → s.host.events.length < 64 →
          (s.killAny p.pid).host.events = s.host.events ++ [{ kind := 6, words := [p.pid.setWidth 64, 0, 1] }]) := by
  have bare := State.dropRequest_bare s p.latch
  have killed : s.killAny p.pid = ((s.dropRequest p.latch).endProc p.pid).rootEnded p.pid p.join 0 1 := by
    rw [State.killAny, lone]
    dsimp only
    rw [State.killProc, found]
    dsimp only
    rw [State.performRetired_idle found stores latch]
    split
    next c k at_ => exact absurd at_ (stays c k)
    next => rfl
  obtain ⟨same, gone, cur, host⟩ := State.endProc_quiet (s := s.dropRequest p.latch)
    ((State.proc?_of_bare bare p.pid).trans found) ((State.entries_of_bare bare).trans none) (by rwa [State.cur_of_bare bare])
  rw [killed]
  refine ⟨((State.dropRequest_same s p.latch).trans same).trans (State.rootEnded_same _ _ _ _ _), ?_, ?_, fun root room => ?_⟩
  · rw [← gone]
    unfold State.rootEnded
    split
    · exact State.hostEvent_proc? _ _ _ _
    · rfl
  · rw [← State.cur_of_bare bare, ← cur]
    unfold State.rootEnded
    split
    · exact State.hostEvent_cur _ _ _
    · rfl
  · have host' := host.trans (State.host_of_bare bare)
    rw [root, State.rootEnded, State.hostEvent_events _ _ _ (by rwa [host']), host']
    rfl

/-! ### The rule -/

theorem controlRulePart : ControlRulePart := by
  intro s p found lone runs
  refine ⟨fun c k resident hc => ⟨⟨_, rfl, ?_, fun hk => ?_, ?_⟩, fun n on settled => ⟨_, rfl, ?_, fun hk => ?_, ?_⟩⟩,
    fun parked stopped idle home => ⟨_, rfl, (State.resumeProc_same _ _).bytes, fun image => ?_, ?_, ?_⟩,
    fun none other stores latch stays => ?_⟩
  · rw [State.parkAny_eq lone runs]
    exact (State.parkNow_same _ _ _).bytes
  · rw [State.parkAny_eq lone runs]
    exact State.parkNow_slot found resident hc hk
  · rw [State.parkAny_eq lone runs]
    exact ⟨_, State.parkNow_proc? found resident, rfl, rfl, rfl, rfl, rfl⟩
  · rw [State.migrate_resident found resident lone runs on settled]
    exact (State.beginMoveNow_same _ _ _).bytes
  · rw [State.migrate_resident found resident lone runs on settled]
    exact State.beginMoveNow_slot found resident hc hk
  · rw [State.migrate_resident found resident lone runs on settled]
    exact ⟨_, State.beginMoveNow_proc? found resident, rfl, rfl⟩
  · rw [State.resumeProc_eq found parked stopped, if_pos image]
    exact State.enqueue_runq (p := p.resumed) (State.freed_proc? found) (Proc.resumed_queueable parked idle) home
  · exact State.resumeProc_order found parked stopped
  · obtain ⟨at_, now⟩ := State.resumeProc_proc? found parked stopped
    exact ⟨_, now, rfl, rfl, rfl, rfl, rfl⟩
  · obtain ⟨same, gone, _, event⟩ := State.killAny_quiet found lone stores latch none other stays
    exact ⟨_, rfl, same.bytes, gone, event⟩

/-! ### The forms complete -/

/-- A process that does not execute is found as before once IP moves on. -/
theorem State.next_proc?_other {s : State} {pid : Pid} (other : s.cur.pid ≠ pid) (n : Nat) : (s.next n).proc? pid = s.proc? pid := by
  unfold State.proc?
  split
  · rfl
  · exact if_neg other

theorem State.next_pausedCore_other {s : State} {pid : Pid} (other : s.cur.pid ≠ pid) (n : Nat) :
    (s.next n).pausedCore pid = s.pausedCore pid := by
  rw [State.pausedCore, State.next_proc?_other other]
  rfl

section
variable {s : State} {q : Proc} (found : s.proc? q.pid = some q) (mine : q.part = s.cur.part) (other : q.pid ≠ s.cur.pid)
  {a : SReg} (names : s.rd a = q.pid.setWidth 64)

include found mine other in
theorem State.inPart_other : (s.next 4).inPart s.cur.part q.pid = true := by
  rw [State.inPart, State.next_proc?_other other.symm, found]
  simp [mine]

include other names in
theorem State.names_other : s.rd a ≠ s.cur.pid.setWidth 64 := fun own => other (setWidth_pid_inj (names.symm.trans own))

end

theorem State.dropEarly_cur_idle {s : State} (rob : s.cur.rob = []) (part : Nat) : (s.dropEarly part).cur = s.cur := by
  have same : { s.cur with rob := s.cur.rob.map RobEntry.restart } = { s.cur with rob := s.cur.rob } := by rw [rob]; rfl
  change (if s.cur.part = part then { s.cur with rob := s.cur.rob.map RobEntry.restart } else s.cur) = s.cur
  split
  · exact same
  · rfl

theorem State.invalidate_went {s : State} (idle : ∀ p ∈ s.allProcs, p.stores = []) (rob : s.cur.rob = [])
    (none : s.requestsOut s.cur.part s.cur.pid = false) (va : Option Word) :
    (s.invalidate va).endInvalidate.cur = { s.cur with ip := s.cur.ip + 4 } ∧ SameBytes s (s.invalidate va).endInvalidate := by
  have cur : ((s.dropLeaves s.curPart.asid va).dropEarly s.cur.part).cur = s.cur :=
    State.dropEarly_cur_idle (s := s.dropLeaves s.curPart.asid va) rob s.cur.part
  obtain ⟨retires, same, _⟩ := State.invalidate_retires idle va (P := fun e => e.inScope s.curPart.asid va = true) fun e h => h
  refine ⟨?_, same⟩
  rw [State.invalidate_idle idle, State.endInvalidate, cur, State.dropEarly_requestsOut]
  rw [if_neg (by rw [Bool.not_eq_true]; exact none)]
  exact congrArg (fun p : Proc => { p with ip := p.ip + 4 }) cur

/-- A user process that takes a trap parks with its record. -/
theorem State.takeTrap_user {s : State} {c k : Nat} (named : s.cur.pid ≠ 0) (user : s.cur.sup = false) (well : s.cur.faulted = false)
    (resident : s.cur.place = .resident c k) (x : TrapInfo) :
    ProcAt (s.takeTrap x) s.cur.pid (fun p => p.place = .parked ∧ p.faulted = true ∧ p.held = true ∧ p.ip = s.cur.rollback.ip
      ∧ p.record.map (fun y => (y.cause, y.addr, y.detail)) = some (x.cause, x.addr, x.detail)) := by
  have found : s.proc? s.cur.pid = some s.cur := by rw [State.proc?, if_neg named, if_pos rfl]
  exact ⟨_, State.trapNow_proc? found resident user well x _ _ _, rfl, rfl, rfl, rfl, rfl⟩

theorem fence_completes {s : State} (free : s.cur.latch.sent = false) (idle : s.cur.stores = []) (eng : Bool) (kind : FenceKind)
    (sc : Scope) : ∃ t, exec (.fence eng kind sc) s = .next t ∧ t.cur = { s.cur with ip := s.cur.ip + 4 }
      ∧ (s.curCore < 90 → (t.core s.curCore).l1d = []) := by
  have same := (State.fenceDrain_idle idle kind eng sc).1
  have core : (s.fenceDrain kind eng sc).curCore = s.curCore := congrArg Proc.core same
  refine ⟨_, exec_fence_goes sc (by simp [Latch.holdsFence, free]), ?_, fun hc => ?_⟩
  · rw [State.fenced_cur, same]
  · rw [core]
    exact congrArg Core.l1d (State.core_updCore _ _ _ hc)

theorem tlbi_completes {s : State} (sup : s.cur.sup = true) (free : s.cur.latch.sent = false) (idle : ∀ p ∈ s.allProcs, p.stores = [])
    (out : s.requestsOut s.cur.part s.cur.pid = false) (rob : s.cur.rob = []) (a b : SReg) {i : Instr} (hi : i ∈ [Instr.tlbia, .tlbi a b])
    (scope : i = .tlbi a b → (s.rd b).toNat = s.curPart.asid.toNat ∧ (s.rd a).toNat < 2 ^ 52) :
    ∃ t, exec i s = .next t ∧ t.cur = { s.cur with ip := s.cur.ip + 4 } ∧ SameBytes s t := by
  obtain rfl | rfl : i = .tlbia ∨ i = .tlbi a b := by simpa using hi
  · exact ⟨_, exec_tlbia_eq sup free, State.invalidate_went idle rob out none⟩
  · obtain ⟨mine, near⟩ := scope rfl
    exact ⟨_, (exec_tlbi_near sup mine near).trans (by rw [free]; rfl), State.invalidate_went idle rob out (some (s.rd a))⟩

section
variable {s : State} {q : Proc} {a b : SReg} (sup : s.cur.sup = true) (found : s.proc? q.pid = some q) (other : q.pid ≠ s.cur.pid)
  (mine : q.part = s.cur.part) (lone : s.queued? q.pid = none) (names : s.rd a = q.pid.setWidth 64)
include sup found other mine lone names

theorem park_completes {c k : Nat} (runs : s.pausedCore q.pid = none) (resident : q.place = .resident c k) :
    ∃ t, exec (.park a) s = .next t ∧ t.cur = { s.cur with ip := s.cur.ip + 4 }
      ∧ ProcAt t q.pid (fun p => p.place = .parked ∧ p.held = true) := by
  have found' := (State.next_proc?_other other.symm 4).trans found
  have runs' := (State.next_pausedCore_other other.symm 4).trans runs
  refine ⟨(s.next 4).parkAny q.pid, ?_, ?_, ?_⟩
  · rw [exec_park_eq a sup, names, State.onProcess_named _ (.inr other) (State.inPart_other found mine other)]
    rfl
  · rw [State.parkAny_eq (s := s.next 4) lone runs', State.parkNow_cur_other (s := s.next 4) found' resident other.symm]
    rfl
  · rw [State.parkAny_eq (s := s.next 4) lone runs']
    exact ⟨_, State.parkNow_proc? found' resident, rfl, rfl⟩

theorem migr_completes {c k n : Nat} (runs : s.pausedCore q.pid = none) (resident : q.place = .resident c k) (hn : (s.rd b).toNat = n)
    (on : s.coreOnline n = true) (settled : s.affinityTarget q = none) :
    ∃ t, exec (.migr a b) s = .next t ∧ t.cur = { s.cur with ip := s.cur.ip + 4 } ∧ SameBytes s t
      ∧ ProcAt t q.pid (fun p => p.place = .moving c n) := by
  have found' := (State.next_proc?_other other.symm 4).trans found
  have runs' := (State.next_pausedCore_other other.symm 4).trans runs
  have core : n < 90 := by
    simp only [State.coreOnline, Bool.and_eq_true, decide_eq_true_eq] at on
    exact on.1
  have moves := State.migrate_resident (s := s.next 4) (n := n) found' resident lone runs' on settled
  refine ⟨(s.next 4).migrate q.pid n, ?_, ?_, ?_, ?_⟩
  · rw [exec_migr_eq a b sup (by omega), names, State.onProcess_named _ (.inl rfl) (State.inPart_other found mine other), State.next_rd, hn]
    rfl
  · rw [moves, State.beginMoveNow_cur_other (s := s.next 4) found' resident other.symm]
    rfl
  · rw [moves]
    exact ((State.next_same s 4).trans (State.beginMoveNow_same _ _ _)).bytes
  · rw [moves]
    exact ⟨_, State.beginMoveNow_proc? found' resident, rfl⟩

omit lone in
theorem resume_completes (parked : q.place = .parked) (held : q.held = true) (idle : s.cur.stores = []) :
    ∃ t, exec (.resume a) s = .next t ∧ t.cur = { s.cur with ip := s.cur.ip + 4 }
      ∧ ProcAt t q.pid (fun p => p.held = false ∧ p.faulted = false ∧ p.halted = false ∧ p.record = none) := by
  have found' := (State.next_proc?_other other.symm 4).trans found
  have released : (s.next 4).release = s.next 4 := State.fenceStores_idle (s := s.next 4) idle true
  refine ⟨(s.next 4).resumeProc q.pid, ?_, ?_, ?_⟩
  · rw [exec_resume_eq a sup, names, State.onProcess_named _ (.inr other) (State.inPart_other found mine other), released]
    rfl
  · rw [State.resumeProc_cur_other (s := s.next 4) found' parked (.inl held) other.symm]
    rfl
  · obtain ⟨at_, now⟩ := State.resumeProc_proc? found' parked (.inl held)
    exact ⟨_, now, rfl, rfl, rfl, rfl⟩

theorem kill_completes (stays : ∀ c k, q.place ≠ .exiting c k) (none : s.entries = []) (stores : q.stores = [])
    (latch : q.latch.sent = false) :
    ∃ t, exec (.kill a) s = .next t ∧ t.cur = { s.cur with ip := s.cur.ip + 4 } ∧ t.proc? q.pid = .none := by
  have found' := (State.next_proc?_other other.symm 4).trans found
  have runs : s.exitsNow (s.rd a) = false := by
    have going : q.isExiting = false := by
      unfold Proc.isExiting
      split
      next c k at_ => exact absurd at_ (stays c k)
      next => rfl
    simp [State.exitsNow, names, pidOf_setWidth, found, going]
  obtain ⟨_, gone, cur, _⟩ := State.killAny_quiet (s := s.next 4) found' lone stores latch none other.symm stays
  refine ⟨(s.next 4).killAny q.pid, ?_, ?_, gone⟩
  · rw [exec_kill_eq a sup runs, names, State.onProcess_named _ (.inr other) (State.inPart_other found mine other)]
    rfl
  · rw [cur]
    rfl

end

theorem controlCompletesPart : ControlCompletesPart := by
  intro s a b code q went
  refine ⟨fun eng kind sc free idle => fence_completes free idle eng kind sc, ⟨s.next 4, rfl, rfl, (State.next_same s 4).bytes⟩,
    fun c k named user well resident i hi => ?_, fun sup => ⟨?_, fun free idle out _ rob i hi scope => ?_,
    fun found other mine lone runs names => ⟨fun c k resident => ⟨?_, fun n hn on settled => ?_⟩, fun parked held idle => ?_,
      fun stays none stores latch => ?_⟩⟩⟩
  · obtain rfl | rfl : i = (Instr.brk, Cause.brk, s.cur.ip, (0 : BitVec 40)) ∨ i = (.trap code, .trapi, 0, code.setWidth 40) := by
      simpa using hi
    · exact ⟨_, rfl, State.takeTrap_user named user well resident _⟩
    · exact ⟨_, rfl, State.takeTrap_user named user well resident _⟩
  · obtain ⟨_, _, _, _, supervisor⟩ := systemResults s a b code q.pid
    obtain ⟨⟨t, halts, cur, _⟩, _⟩ := supervisor sup
    exact ⟨t, halts, cur⟩
  · exact tlbi_completes sup free idle out rob a b hi scope
  · exact park_completes sup found other mine lone names runs resident
  · exact migr_completes sup found other mine lone names runs resident hn on settled
  · exact resume_completes sup found other mine names parked held idle
  · exact kill_completes sup found other mine lone names stays none stores latch

/-- Settles O38: what each control makes of a process, and the forms that complete by their effect on it. -/
theorem controlRule : Obligations.ControlRule := ⟨controlRulePart, controlCompletesPart⟩

end Sys2Proof.Machine
end

section
/-! What the device reads of its own areas where no error is marked and nothing is on its way: the caches change, and nothing
else. -/

namespace Sys2Proof.Machine
open Sys2Proof Sys2Proof.Claims

/-- The caches, the keys under which they hold sectors and the charges of partitions change, and nothing else. -/
def CacheKept (s t : State) : Prop :=
  ∃ parts l2 garbled quads, t = { s with parts := parts, l2 := l2, garbled := garbled, quads := quads }

theorem CacheKept.refl (s : State) : CacheKept s s := ⟨s.parts, s.l2, s.garbled, s.quads, rfl⟩

theorem CacheKept.trans {s t u : State} (h : CacheKept s t) (k : CacheKept t u) : CacheKept s u := by
  obtain ⟨p, l, g, q, rfl⟩ := h
  obtain ⟨p', l', g', q', rfl⟩ := k
  exact ⟨p', l', g', q', rfl⟩

theorem L2Kept.cacheKept {s t : State} (h : L2Kept s t) : CacheKept s t := by
  obtain ⟨p, l, g, rfl, -⟩ := h
  exact ⟨p, l, g, s.quads, rfl⟩

theorem CacheKept.same {s t : State} (h : CacheKept s t) : SameMem s t := by
  obtain ⟨p, l, g, q, rfl⟩ := h
  exact ⟨rfl, rfl, rfl, rfl⟩

theorem CacheKept.calm {s t : State} (h : CacheKept s t) (c : Calm s) : Calm t := by
  obtain ⟨p, l, g, q, rfl⟩ := h
  exact c

/-- Steps that each keep all but the caches of a calm state do so together. -/
theorem CacheKept.foldl {α : Type} (f : State → α → State) (hf : ∀ s a, Calm s → CacheKept s (f s a)) (l : List α) {s : State}
    (c : Calm s) : CacheKept s (l.foldl f s) :=
  foldl_keeps (CacheKept s) f (fun _ _ h => h.trans (hf _ _ (h.calm c))) l s (CacheKept.refl s)

theorem State.noteKey_cacheKept (s : State) (key : Option Nat) (pa n : Nat) : CacheKept s (s.noteKey key pa n) := by
  unfold State.noteKey
  split
  · refine foldl_keeps (CacheKept s) _ (fun t sec h => h.trans ?_) _ s (CacheKept.refl s)
    split
    · exact CacheKept.refl t
    · exact ⟨t.parts, t.l2, _, t.quads, rfl⟩
  · exact CacheKept.refl s

theorem State.flushFor_calm {s : State} (c : Calm s) (pa : Nat) : s.flushFor pa = s := by simp [State.flushFor, c.2]

theorem State.noteRead_calm {s : State} (c : Calm s) (v : Via) (pa n : Nat) : CacheKept s (s.noteRead v pa n) := by
  rw [State.noteRead, State.flushFor_calm c, State.readRange_clean c.1]
  exact (s.noteKey_cacheKept _ _ _).trans (State.fillL2_l2Kept _ _ _ _).cacheKept

theorem State.readNodes_calm {s : State} (c : Calm s) (p : Part) (va : Word) : CacheKept s (s.readNodes p va) := by
  unfold State.readNodes
  split
  · exact CacheKept.foldl _ (fun t a h => State.noteRead_calm h _ _ _) _ c
  · exact CacheKept.refl s

theorem State.updQuad_cacheKept (s : State) (q : Nat) (f : Quad → Quad) : CacheKept s (s.updQuad q f) := by
  unfold State.updQuad
  split
  · exact ⟨s.parts, s.l2, s.garbled, _, rfl⟩
  · exact CacheKept.refl s

theorem State.prefetch_calm {s : State} (c : Calm s) (p : Part) (level : Nat) (leaf : Word) (x : Prefetch) :
    CacheKept s (s.prefetch p level leaf x) := by
  unfold State.prefetch
  extract_lets pa
  split
  · exact State.noteRead_calm c _ _ _
  · exact CacheKept.refl s

theorem State.finishWalk_calm {s : State} (c : Calm s) (quad : Nat) (w : Walk) : CacheKept s (s.finishWalk quad w) := by
  unfold State.finishWalk
  extract_lets p va s1 s2
  have read : CacheKept s s1 := State.readNodes_calm c p va
  have gone : CacheKept s s2 := read.trans (State.updQuad_cacheKept _ _ _)
  split
  · exact gone
  next level leaf _ =>
    extract_lets e s3
    have cached : CacheKept s s3 := by
      unfold s3
      split
      · exact gone
      · exact gone.trans (State.updQuad_cacheKept _ _ _)
    exact cached.trans (CacheKept.foldl _ (fun t x h => State.prefetch_calm h _ _ _ _) _ (cached.calm c))

theorem State.freeWalker_calm {s : State} (c : Calm s) (quad : Nat) : CacheKept s (s.freeWalker quad) :=
  CacheKept.foldl _ (fun _ w h => State.finishWalk_calm h quad w) _ c

theorem State.noteWalk_calm {s : State} (c : Calm s) (core : Nat) (p : Part) (va : Word) : CacheKept s (s.noteWalk core p va) := by
  unfold State.noteWalk
  split
  · exact CacheKept.refl s
  · extract_lets q s1
    have free : CacheKept s s1 := State.freeWalker_calm c q
    split
    · exact free.trans (State.finishWalk_calm (free.calm c) _ _)
    · split
      · exact free
      · exact free.trans (State.readNodes_calm (free.calm c) _ _)

theorem State.holdOwn_l2Kept (s : State) (pa n : Nat) : L2Kept s (s.holdOwn pa n) := by
  unfold State.holdOwn
  split
  · exact L2Kept.foldl _ (fun t sec => State.holdSector_l2Kept t _ _) _ _
  · exact L2Kept.refl s

theorem State.touchOwn_calm {s : State} (c : Calm s) (p : Part) (va : Word) (n : Nat) : CacheKept s (s.touchOwn p va n) := by
  unfold State.touchOwn
  split
  · have walked := State.noteWalk_calm c 0 p va
    exact (walked.trans (State.noteRead_calm (walked.calm c) _ _ _)).trans (State.holdOwn_l2Kept _ _ _).cacheKept
  · exact CacheKept.refl s

theorem State.reachedCell_calm {s : State} (c : Calm s) (x : Cell) : CacheKept s (s.reachedCell x) := by
  unfold State.reachedCell
  split
  · exact CacheKept.refl s
  · exact State.touchOwn_calm c _ _ _

theorem State.reachedEntry_calm {s : State} (c : Calm s) (e : Entry) : CacheKept s (s.reachedEntry e) := by
  unfold State.reachedEntry
  split
  · exact CacheKept.refl s
  · exact State.touchOwn_calm c _ _ _

theorem State.reached_calm {s : State} (c : Calm s) (e : Entry) (x : Cell) : CacheKept s (s.reached e x) :=
  (State.reachedCell_calm c x).trans (State.reachedEntry_calm ((State.reachedCell_calm c x).calm c) e)

theorem State.reachedNew_calm {s : State} (c : Calm s) (part id : Nat) (hs : List Word32) : CacheKept s (s.reachedNew part id hs) := by
  unfold State.reachedNew
  extract_lets s1
  have cell : CacheKept s s1 := by
    unfold s1
    split
    · exact State.reachedCell_calm c _
    · exact CacheKept.refl s
  exact cell.trans (CacheKept.foldl _ (fun _ e h => State.reachedEntry_calm h e) _ (cell.calm c))

/-! ### The state beside memory and caches -/

@[simp] theorem State.holdOwn_bare (s : State) (pa n : Nat) : (s.holdOwn pa n).bare = s.bare := by
  unfold State.holdOwn
  split
  · exact State.foldl_bare (fun t sec => State.holdSector_bare t _ _) _ _
  · rfl

@[simp] theorem State.touchOwn_bare (s : State) (p : Part) (va : Word) (n : Nat) : (s.touchOwn p va n).bare = s.bare := by
  unfold State.touchOwn
  split
  · rw [State.holdOwn_bare, State.noteRead_bare, State.noteWalk_bare]
  · rfl

@[simp] theorem State.reachedCell_bare (s : State) (x : Cell) : (s.reachedCell x).bare = s.bare := by
  unfold State.reachedCell
  split <;> simp

@[simp] theorem State.reachedEntry_bare (s : State) (e : Entry) : (s.reachedEntry e).bare = s.bare := by
  unfold State.reachedEntry
  split <;> simp

@[simp] theorem State.reached_bare (s : State) (e : Entry) (x : Cell) : (s.reached e x).bare = s.bare := by simp [State.reached]

@[simp] theorem State.reachedNew_bare (s : State) (part id : Nat) (hs : List Word32) : (s.reachedNew part id hs).bare = s.bare := by
  unfold State.reachedNew
  extract_lets s1
  rw [State.foldl_bare (fun t e => State.reachedEntry_bare t e)]
  unfold s1
  split <;> simp

end Sys2Proof.Machine
end

section
/-! SPAWN and the spill that makes room for its push (05_processes.md R118 to R120, R151, R265). -/

namespace Sys2Proof.Machine
open Sys2Proof Sys2Proof.Claims

/-! ### The endpoints that move -/

/-- One endpoint leaves the parent for its child. -/
def State.handOver (child : Pid) (s : State) (i : Fin 8) : State :=
  let h := s.rdE (upperE i)
  let s1 := { s with entries := s.entries.map (fun (e : Entry) =>
    if e.live && e.part == s.cur.part && e.handle == h && e.owner == s.cur.pid then { e with owner := child } else e) }
  (s1.wrE (upperE i) 0).moved

theorem State.moveEndpoints_eq (s : State) (mask : BitVec 8) (child : Pid) :
    s.moveEndpoints mask child = (movedRegs mask).foldl (State.handOver child) s := rfl

/-- What endpoints that move leave of the parent: the registers named are empty, and its wait generation counts them. -/
structure HandsOver (l : List (Fin 8)) (s t : State) : Prop where
  rdE : ∀ r, t.rdE r = if r ∈ l.map upperE then 0 else s.rdE r
  gen : t.cur.waitGen = s.cur.waitGen + l.length
  ip : t.cur.ip = s.cur.ip
  cores : t.cores = s.cores
  same : SameMem s t
  calm : Calm s → Calm t

theorem State.rdE_wrE (s : State) (d r : EReg) (v : Word32) : (s.wrE d v).rdE r = if r = d then v else s.rdE r := by
  change (s.cur.e.set d v)[r] = _
  by_cases same : r = d
  · subst same
    simp
  · rw [if_neg same]
    exact Vector.getElem_set_ne _ _ (fun e => same (Fin.ext e.symm))

theorem State.rdE_handOver (child : Pid) (s : State) (i : Fin 8) (r : EReg) :
    (s.handOver child i).rdE r = if r = upperE i then 0 else s.rdE r :=
  State.rdE_wrE _ _ _ _

theorem State.handOver_handsOver (child : Pid) : ∀ (l : List (Fin 8)) (s : State), HandsOver l s (l.foldl (State.handOver child) s)
  | [], s => ⟨fun r => rfl, rfl, rfl, rfl, ⟨rfl, rfl, rfl, rfl⟩, fun h => h⟩
  | i :: rest, s => by
    obtain ⟨rdE, gen, ip, cores, same, calm⟩ := State.handOver_handsOver child rest (s.handOver child i)
    refine ⟨fun r => ?_, ?_, ip, cores, ?_, fun h => calm h⟩
    · rw [List.foldl_cons, rdE, State.rdE_handOver]
      simp only [List.map_cons, List.mem_cons]
      by_cases later : r ∈ rest.map upperE
      · simp [later]
      · simp [later]
    · rw [List.foldl_cons, gen]
      change s.cur.waitGen + 1 + rest.length = _
      rw [List.length_cons]
      omega
    · exact SameMem.trans (t := s.handOver child i) ⟨rfl, rfl, rfl, rfl⟩ same

theorem State.moveEndpoints_handsOver (s : State) (mask : BitVec 8) (child : Pid) :
    HandsOver (movedRegs mask) s (s.moveEndpoints mask child) := State.handOver_handsOver child _ s

theorem mem_movedRegs {mask : BitVec 8} {i : Fin 8} : i ∈ movedRegs mask ↔ mask.getLsbD i.val = true := by
  simp [movedRegs]

theorem movedRegs_ne_nil {mask : BitVec 8} (h : mask ≠ 0) : movedRegs mask ≠ [] := by
  intro none
  refine h (BitVec.eq_of_getLsbD_eq fun i hi => ?_)
  have off : ⟨i, hi⟩ ∉ movedRegs mask := by rw [none]; exact List.not_mem_nil
  rw [mem_movedRegs] at off
  simpa using off

/-! ### The form -/

/-- The record that SPAWN makes of its operands. -/
def State.spawnRec (s : State) (entry : Word) (b : SReg) (dom : Domain) (mask : BitVec 8) (child : Pid) (cell slot : Nat) : Rec :=
  { entry := entry, arg := s.rd b, pid := child, prio := s.cur.prio, domain := Domain.min dom s.curPart.domLimit,
    origin := s.curCore, part := s.cur.part, join := .chan cell, seq := 0, moved := s.movedWords mask, sup := false,
    spSlot := some slot, spDir := [], spill := none, spillVa := 0, seg := 0, sealed := [], bmask := 0, wmask := 0,
    halted := false, stepping := false, extra := Vector.replicate 8 0, skipBp := false }

/-- SPAWN after its checks, from the state u that they leave. -/
def State.spawnFrom (u : State) (entry : Word) (d : EReg) (b : SReg) (dom : Domain) (mask : BitVec 8) : Except Halt State := do
  let s1 ← u.roomForPush u.curCore
  let (s2, child) := s1.newPid
  let (s3, jp, je, cell) ← s2.newChannel s2.cur.part s2.cur.pid child
  match s3.freeSpSlot s3.cur.part with
  | none => .error (.trap noSlot)
  | some slot =>
    let s4 ← s3.clearSlot s3.cur.part slot
    let r := s4.spawnRec entry b dom mask child cell slot
    let hs := (movedRegs mask).map (fun i => u.rdE (upperE i))
    return ((((s4.moveEndpoints mask child).pushRec s4.curCore r).wrE d jp).next 4).reachedNew s4.cur.part cell (jp :: je :: hs)

section
variable {s : State} {d : EReg} {a b : SReg} {dom : Domain} {mask : BitVec 8}

theorem exec_spawn_misaligned (h : (s.rd a).toNat % 4 ≠ 0) :
    exec (.spawn d a b dom mask) s = .next (s.release.takeTrap (.at .misalign (s.rd a))) := by
  have off : aligned (s.rd a) 4 = false := aligned_eq_false.2 h
  change execSpawn d a b dom mask s = _
  simp only [execSpawn, off]
  rfl

theorem exec_spawn_outside (h : (s.rd a).toNat % 4 = 0) (far : 2 ^ 52 ≤ (s.rd a).toNat) :
    exec (.spawn d a b dom mask) s = .next (s.release.takeTrap (.at .gprot (s.rd a))) := by
  have on : aligned (s.rd a) 4 = true := aligned_eq_true.2 h
  have outside : ((s.rd a).toNat / 2 ^ 52 != 0) = true := bne_iff_ne.2 ((div_ne_zero_iff_le (by norm_num)).2 far)
  change execSpawn d a b dom mask s = _
  simp only [execSpawn, on, outside]
  rfl

variable (h : (s.rd a).toNat % 4 = 0) (near : (s.rd a).toNat < 2 ^ 52) (ok : s.release.movedOk (movedRegs mask) = .ok ())
  (room : (∃ i ∈ movedRegs mask, upperE i = d) ∨ s.release.emptyE d = .ok ())
  (reach : s.release.movedReach (movedRegs mask) = .ok ())
include h near ok room reach

theorem exec_spawn_goes : exec (.spawn d a b dom mask) s = s.release.finish (s.release.spawnFrom (s.rd a) d b dom mask) := by
  have on : aligned (s.rd a) 4 = true := aligned_eq_true.2 h
  have inside : ((s.rd a).toNat / 2 ^ 52 != 0) = false := by rw [Nat.div_eq_of_lt near]; rfl
  change execSpawn d a b dom mask s = _
  simp only [execSpawn, on, inside, ok, reach]
  by_cases moved : (movedRegs mask).any (fun i => upperE i == d) = true
  · simp only [moved]
    rfl
  · have free := room.resolve_left fun ⟨i, hi, e⟩ => moved (List.any_eq_true.2 ⟨i, hi, beq_iff_eq.2 e⟩)
    simp only [moved, free]
    rfl

end

/-- What a SPAWN leaves that goes through. -/
structure Spawned (s : State) (entry : Word) (d : EReg) (b : SReg) (dom : Domain) (mask : BitVec 8) (child : Pid) (jp : Word32)
    (cell slot : Nat) (t : State) : Prop where
  ip : t.cur.ip = s.cur.ip + 4
  join : t.rdE d = jp
  left : ∀ i ∈ movedRegs mask, upperE i ≠ d → t.rdE (upperE i) = 0
  same : Calm s → SameBytes s t
  gen : mask ≠ 0 → t.cur.waitGen ≠ s.cur.waitGen
  pushed : (t.core s.curCore).deque.getLast? = some { s.spawnRec entry b dom mask child cell slot with
    seq := (s.core s.curCore).seqNext, origin := s.curCore, spill := none }

theorem State.spawned (s : State) (entry : Word) (d : EReg) (b : SReg) (dom : Domain) (mask : BitVec 8) (child : Pid) (jp : Word32)
    (cell slot : Nat) (hs : List Word32) (hc : s.curCore < 90) : Spawned s entry d b dom mask child jp cell slot
      (((((s.moveEndpoints mask child).pushRec s.curCore (s.spawnRec entry b dom mask child cell slot)).wrE d jp).next 4).reachedNew
        s.cur.part cell hs) := by
  obtain ⟨rdE, gen, ip, cores, same, calm⟩ := s.moveEndpoints_handsOver mask child
  generalize hv : s.moveEndpoints mask child = v at *
  generalize hr : s.spawnRec entry b dom mask child cell slot = r
  have pushed : (v.pushRec s.curCore r).cur = v.cur := State.updCore_cur _ _ _
  have bare := State.reachedNew_bare (((v.pushRec s.curCore r).wrE d jp).next 4) s.cur.part cell hs
  have cur := State.cur_of_bare bare
  refine ⟨?_, ?_, fun i hi other => ?_, fun c => ?_, fun h => ?_, ?_⟩
  · rw [cur]
    change (v.pushRec s.curCore r).cur.ip + 4 = _
    rw [pushed, ip]
  · rw [State.rdE, cur]
    exact (State.rdE_wrE _ _ _ _).trans (if_pos rfl)
  · rw [State.rdE, cur]
    refine ((State.rdE_wrE _ _ _ _).trans (if_neg other)).trans ?_
    rw [State.rdE, pushed]
    exact (rdE _).trans (if_pos (List.mem_map_of_mem hi))
  · have before : Calm (((v.pushRec s.curCore r).wrE d jp).next 4) := by
      simpa [Calm, State.pushRec, State.wrE] using calm c
    have push : SameMem s (((v.pushRec s.curCore r).wrE d jp).next 4) :=
      ((same.trans (State.pushRec_same _ _ _)).trans (State.wrE_same _ _ _)).trans (State.next_same _ _)
    exact (push.trans (State.reachedNew_calm before _ _ _).same).bytes
  · rw [cur]
    change (v.pushRec s.curCore r).cur.waitGen ≠ _
    rw [pushed, gen]
    have := List.length_pos_iff.2 (movedRegs_ne_nil h)
    omega
  · have core := State.core_of_bare bare s.curCore
    have deque := congrArg Core.deque core
    have made : ((((v.pushRec s.curCore r).wrE d jp).next 4).core s.curCore) = (v.pushRec s.curCore r).core s.curCore := rfl
    have v_core : v.core s.curCore = s.core s.curCore := by simp only [State.core, cores]
    refine (congrArg List.getLast? deque).trans ?_
    rw [made, State.pushRec, State.core_updCore _ _ _ hc, v_core]
    subst hr
    exact List.getLast?_concat

theorem spawnFormPart : SpawnFormPart := by
  intro s v s2 s3 s4 d a b dom mask child jp je cell u x
  refine ⟨exec_spawn_misaligned, exec_spawn_outside, fun h near ok room reach => ?_⟩
  have goes := exec_spawn_goes (dom := dom) (b := b) h near ok room reach
  refine ⟨fun t full => ?_, fun full => ?_, fun free pid channel => ⟨fun none => ?_, fun slot found cleared hc => ?_⟩⟩
  · rw [goes, State.spawnFrom, full]
    rfl
  · rw [goes, State.spawnFrom, full]
    rfl
  · rw [goes, State.spawnFrom, free]
    simp only [Except.ok_bind]
    rw [pid, channel]
    simp only [Except.ok_bind]
    rw [none]
    rfl
  · obtain ⟨ip, join, left, same, gen, pushed⟩ := s4.spawned x d b dom mask child jp cell slot
      (jp :: je :: (movedRegs mask).map (fun i => u.rdE (upperE i))) hc
    refine ⟨_, ?_, ip, join, left, same, gen, _, pushed, rfl, rfl, rfl, rfl, rfl, rfl, rfl, rfl, rfl, rfl, fun i => ?_⟩
    · rw [goes, State.spawnFrom, free]
      simp only [Except.ok_bind]
      rw [pid, channel]
      simp only [Except.ok_bind]
      rw [found]
      simp only [cleared, Except.ok_bind]
      rfl
    · simp [State.spawnRec, State.movedWords]

/-! ### Room for a push -/

/-- A store into HBM: its bytes stand there, whatever errors its sectors were marked with. -/
theorem State.physBytes_physPut {s : State} {v : Via} {pa : Nat} {l : List Byte} (h : s.memOk = true) (ht : pa + l.length ≤ hbmTop)
    (some : 0 < l.length) : (s.physPut v pa l).physBytes pa l.length = l := by
  have hp : pa < hbmTop := by omega
  refine List.ext_getElem (by simp [State.physBytes_length]) fun i _ hi => ?_
  rw [State.physBytes_getElem]
  unfold State.physPut
  rw [State.flushFor_hbm s hp, (State.dirtyL2_same _ _ _ _).physByte,
    State.physByte_rawPut (State.storeMarks_memOk (State.sealFor_memOk h)) hp ht, dif_pos ⟨by omega, by omega⟩]
  simp only [Nat.add_sub_cancel_left]

theorem State.recBytes_length (s : State) (r : Rec) : (s.recBytes r).length = 64 := by
  have moved : (r.moved.toList.flatMap (fun w => bytesOf 4 w.toNat)).length = 32 := by
    simp [List.length_flatMap]
  simp only [State.recBytes, List.length_append, bytesOf_length, moved]

/-- The places of a segment before place number i hold a record each. -/
def State.Filled (s : State) (p : Part) (c : Nat) (used : List Nat) (i : Nat) : Prop :=
  ∃ pa, s.areaXlate p (p.overflowAddr c i) 64 .write = .ok pa ∧ ∃ a ∈ used, a < pa + 64 ∧ pa < a + 64

theorem any_overlap {used : List Nat} {pa : Nat} :
    used.any (fun a => decide (a < pa + 64) && decide (pa < a + 64)) = true ↔ ∃ a ∈ used, a < pa + 64 ∧ pa < a + 64 := by simp

theorem State.spillPlace_step {s : State} {p : Part} {c i n : Nat} {used : List Nat} (full : s.Filled p c used i) :
    s.spillPlace p c used i (n + 1) = s.spillPlace p c used (i + 1) n := by
  obtain ⟨pa, at_, taken⟩ := full
  rw [State.spillPlace, at_]
  exact if_pos (any_overlap.2 taken)

/-- The search for a place goes on behind those that are taken. -/
theorem State.spillPlace_skip {s : State} {p : Part} {c : Nat} {used : List Nat} : ∀ (i n k : Nat),
    (∀ j, k ≤ j → j < k + i → s.Filled p c used j) → s.spillPlace p c used k (i + n) = s.spillPlace p c used (k + i) n
  | 0, n, k, _ => by rw [Nat.zero_add, Nat.add_zero]
  | i + 1, n, k, full => by
    rw [Nat.add_right_comm, State.spillPlace_step (full k (Nat.le_refl k) (by omega)),
      State.spillPlace_skip i n (k + 1) fun j low high => full j (by omega) (by omega)]
    congr 1
    omega

theorem State.spillPlace_full {s : State} {p : Part} {c : Nat} {used : List Nat} {n : Nat} (full : ∀ j < n, s.Filled p c used j) :
    s.spillPlace p c used 0 n = .ok none := by
  have skip := State.spillPlace_skip n 0 0 fun j _ high => full j (by omega)
  rw [Nat.add_zero] at skip
  rw [skip]
  rfl

/-- The first place that is not taken decides. -/
theorem State.spillPlace_at {s : State} {p : Part} {c : Nat} {used : List Nat} {n i : Nat} (hi : i < n)
    (full : ∀ j < i, s.Filled p c used j) : s.spillPlace p c used 0 n = s.spillPlace p c used i (n - i) := by
  have skip := State.spillPlace_skip i (n - i) 0 fun j _ high => full j (by omega)
  rwa [Nat.zero_add, Nat.add_sub_cancel' hi.le] at skip

theorem State.spillPlace_error {s : State} {p : Part} {c i n : Nat} {used : List Nat} {x : TrapInfo} (hi : i < n)
    (full : ∀ j < i, s.Filled p c used j) (fault : s.areaXlate p (p.overflowAddr c i) 64 .write = .error x) :
    s.spillPlace p c used 0 n = .error x := by
  obtain ⟨m, hm⟩ : ∃ m, n - i = m + 1 := ⟨n - i - 1, by omega⟩
  rw [State.spillPlace_at hi full, hm, State.spillPlace, fault]

theorem State.spillPlace_free {s : State} {p : Part} {c i n pa : Nat} {used : List Nat} (hi : i < n)
    (full : ∀ j < i, s.Filled p c used j) (at_ : s.areaXlate p (p.overflowAddr c i) 64 .write = .ok pa)
    (free : ¬∃ a ∈ used, a < pa + 64 ∧ pa < a + 64) : s.spillPlace p c used 0 n = .ok (some (i, pa)) := by
  obtain ⟨m, hm⟩ : ∃ m, n - i = m + 1 := ⟨n - i - 1, by omega⟩
  rw [State.spillPlace_at hi full, hm, State.spillPlace, at_]
  exact if_neg fun hit => free (any_overlap.1 hit)

/-- The record as its spill leaves it. -/
def State.spilledRec (s : State) (p : Part) (c i pa : Nat) (r : Rec) : Rec :=
  { r with spill := some pa, spillVa := p.overflowAddr c i, seg := p.overflowAddr c 0, sealed := s.recBytes r }

section
variable {s : State} {c : Nat} {r : Rec} (long : 64 ≤ (s.core c).deque.length) (oldest : (s.core c).oldest (s.core c).deque = some r)
include long oldest

omit oldest in
theorem State.roomForPush_spills : s.roomForPush c = s.spillOldest c := by
  rw [State.roomForPush, if_neg (Nat.not_lt.2 long)]

theorem State.roomForPush_error {t : TrapInfo}
    (found : s.spillPlace (s.part r.part) c (s.spillPlaces (s.part r.part).num) 0 (s.part r.part).segmentPlaces = .error t) :
    s.roomForPush c = .error (.trap (.at .gfault t.addr)) := by
  rw [State.roomForPush_spills long, State.spillOldest]
  simp only [oldest, State.spillTo, found]

theorem State.roomForPush_none
    (found : s.spillPlace (s.part r.part) c (s.spillPlaces (s.part r.part).num) 0 (s.part r.part).segmentPlaces = .ok none) :
    s.roomForPush c = .error (.stall .spill) := by
  rw [State.roomForPush_spills long, State.spillOldest]
  simp only [oldest, State.spillTo, found]

theorem State.roomForPush_place {i pa : Nat}
    (found : s.spillPlace (s.part r.part) c (s.spillPlaces (s.part r.part).num) 0 (s.part r.part).segmentPlaces = .ok (some (i, pa))) :
    s.roomForPush c = .ok ((s.physPut (Via.of (s.keyAt 0 (s.part r.part) ((s.part r.part).overflowAddr c i)) (s.part r.part).num)
      pa (s.recBytes r)).updCore c (fun k => { k with
        deque := k.deque.filter (fun x => x.pid != r.pid), spilled := k.spilled ++ [s.spilledRec (s.part r.part) c i pa r] })) := by
  rw [State.roomForPush_spills long, State.spillOldest]
  simp only [oldest, State.spillTo, found]
  rfl

end

theorem spillPart : SpillPart := by
  intro s c r hc k p place taken
  refine ⟨fun short => if_pos short, fun long oldest => ⟨fun full => ?_, fun i hi full => ⟨fun t fault => ?_, fun pa at_ free => ?_⟩⟩⟩
  · exact State.roomForPush_none long oldest (State.spillPlace_full full)
  · exact State.roomForPush_error long oldest (State.spillPlace_error hi full fault)
  · have found := State.spillPlace_free hi full at_ free
    generalize hv : Via.of (s.keyAt 0 p (p.overflowAddr c i)) p.num = v
    have core := State.core_of_bare (State.physPut_bare s v pa (s.recBytes r)) c
    refine ⟨_, _, (State.roomForPush_place long oldest found).trans (by rw [hv]), ?_, ?_, rfl, fun ok below => ?_⟩
    · rw [State.core_updCore _ _ _ hc]
      exact congrArg (List.filter (fun x => x.pid != r.pid)) (congrArg Core.deque core)
    · rw [State.core_updCore _ _ _ hc]
      have spilled := congrArg Core.spilled core
      exact congrArg (· ++ [_]) spilled
    · rw [← s.recBytes_length r] at below ⊢
      rw [(State.updCore_same _ _ _).physBytes]
      exact State.physBytes_physPut ok below (by rw [s.recBytes_length]; decide)

/-- Settles O36: the form by its checks and its push, the room for a push by what spills. -/
theorem spawnResult : Obligations.SpawnResult := ⟨spawnFormPart, spillPart⟩

end Sys2Proof.Machine
end

section
/-! Power-on, boot bundles and the power states (19_trust.md R465 to R467, R474). -/

namespace Sys2Proof.Machine
open Sys2Proof Sys2Proof.Claims

/-! ### Operating points of many cores -/

theorem State.setReason_cores (s : State) (c n : Nat) : (s.setReason c n).cores = s.cores := by
  simp [State.setReason]

/-- What a change of a core's point leaves of the others, and of what no core is. -/
theorem State.changePoint_dies (s : State) (c p : Nat) : (s.changePoint c p).dies = s.dies := by
  unfold State.changePoint
  repeat' split
  all_goals simp [State.setReason]

theorem State.changePoint_power (s : State) (c p : Nat) : (s.changePoint c p).power = s.power := by
  unfold State.changePoint
  repeat' split
  all_goals simp [State.setReason]

theorem State.changePoint_other (s : State) {c d : Nat} (h : d ≠ c) (p : Nat) : (s.changePoint c p).core d = s.core d := by
  have cores (t : State) : (t.setReason c 2).core d = t.core d := by rw [State.core, State.setReason_cores]; rfl
  unfold State.changePoint
  repeat' split
  · rfl
  · exact State.core_updCore_other _ _ _ _ h
  · exact (cores _).trans (State.core_updCore_other _ _ _ _ h)
  · exact State.core_updCore_other _ _ _ _ h

/-- A core aims at the point that it is given. -/
theorem State.changePoint_aim (s : State) {c : Nat} (h : c < 90) (p : Nat) : ((s.changePoint c p).core c).aim = p := by
  have cores (t : State) : (t.setReason c 2).core c = t.core c := by rw [State.core, State.setReason_cores]; rfl
  unfold State.changePoint
  split
  next there => exact there
  split
  · rw [State.core_updCore _ _ _ h]
    rfl
  split
  · rw [cores, State.core_updCore _ _ _ h]
    rfl
  · rw [State.core_updCore _ _ _ h]
    rfl

theorem State.coreOnline_of_dies {s t : State} (h : t.dies = s.dies) (c : Nat) : t.coreOnline c = s.coreOnline c := by
  simp [State.coreOnline, State.dieAway, State.die, h]

/-- A step of a change of every core's point. -/
theorem State.pointStep_dies (f : Core → Nat) (s : State) (c : Nat) :
    (if s.coreOnline c then s.changePoint c (f (s.core c)) else s).dies = s.dies := by
  split
  · exact State.changePoint_dies _ _ _
  · rfl

theorem State.pointFold_aim (p : Nat) : ∀ (l : List Nat) (s : State), (∀ c ∈ l, c < 90) → ∀ c, s.coreOnline c = true →
    (c ∈ l ∨ (s.core c).aim = p) →
    ((l.foldl (fun s c => if s.coreOnline c then s.changePoint c p else s) s).core c).aim = p
  | [], s, _, c, _, h => h.resolve_left List.not_mem_nil
  | d :: rest, s, below, c, on, h => by
    have on' := (State.coreOnline_of_dies (State.pointStep_dies (fun _ => p) s d) c).trans on
    refine State.pointFold_aim p rest _ (fun c hc => below c (List.mem_cons_of_mem _ hc)) c on' ?_
    by_cases same : c = d
    · subst same
      exact .inr (by dsimp only; rw [if_pos on]; exact State.changePoint_aim s (below c List.mem_cons_self) p)
    · refine h.imp (fun mem => (List.mem_cons.1 mem).resolve_left same) fun aim => ?_
      dsimp only
      split
      · rwa [State.changePoint_other s same]
      · exact aim

theorem State.allPoints_aim (s : State) (p : Nat) {c : Nat} (on : s.coreOnline c = true) :
    ((s.allPoints (fun _ => p)).core c).aim = p := by
  have below : c < 90 := by
    simp only [State.coreOnline, Bool.and_eq_true, decide_eq_true_eq] at on
    exact on.1
  exact State.pointFold_aim p _ s (fun c hc => List.mem_range.1 hc) c on (.inl (List.mem_range.2 below))

theorem State.allPoints_power (s : State) (f : Core → Nat) : (s.allPoints f).power = s.power :=
  foldl_keeps (fun t : State => t.power = s.power) _ (fun t c h => by
    split
    · exact (State.changePoint_power _ _ _).trans h
    · exact h) _ s rfl

/-! ### Power -/

/-- What power-on leaves, whether the firmware runs or not. -/
theorem powerOn_clears (s : State) : ∃ t, exec .powerOn s = .next t ∧ t.parts = [] ∧ t.procs = [] ∧ t.mem = [] ∧ t.cycle = 0
    ∧ t.boot.hostFw = false ∧ t.boot.ready = bundlePasses s.boot.flashFw s.boot.flashCfg := by
  cases passes : bundlePasses s.boot.flashFw s.boot.flashCfg with
  | true => exact ⟨_, if_pos passes, rfl, rfl, rfl, rfl, rfl, rfl⟩
  | false => exact ⟨_, if_neg (by rw [Bool.not_eq_true]; exact passes), rfl, rfl, rfl, rfl, rfl, rfl⟩

theorem bundleVerified_discards {s : State} (checking : s.boot.checking = true)
    (bad : ∀ fw cfg, bundleOf s.boot.bootwin = some (fw, cfg) → bundlePasses fw cfg = false) :
    exec .bundleVerified s = .next { s with boot := { s.boot with checking := false, bootwin := [] } } := by
  change s.occur (tryBundleVerified s) = _
  rw [tryBundleVerified, if_pos checking]
  cases found : bundleOf s.boot.bootwin with
  | none => rfl
  | some x =>
    simp only [bad x.1 x.2 found]
    rfl

theorem bundleVerified_starts {s : State} {fw cfg : List Byte} (checking : s.boot.checking = true)
    (found : bundleOf s.boot.bootwin = some (fw, cfg)) (good : bundlePasses fw cfg = true) :
    exec .bundleVerified s = .next (s.startFirmware fw cfg true) := by
  change s.occur (tryBundleVerified s) = _
  rw [tryBundleVerified, if_pos checking, found]
  simp only [good]
  rfl

/-- The state in IDLE, with every core online told to go to point 0. -/
def State.idled (s : State) : State := State.allPoints { s with power := .idle } (fun _ => 0)

theorem exec_idleEntry {s : State} (on : s.powered = true) (idle : s.noWork = true) (late : 2 ^ 20 ≤ (s.cycle - s.idleAt).toNat) :
    exec .idleEntry s = .next s.idled := by
  change s.occur (tryIdleEntry s) = _
  rw [tryIdleEntry, if_pos (by rw [on, idle, decide_eq_true late]; rfl), State.occur, Option.getD_some, State.idled]

theorem State.idled_power (s : State) : s.idled.power = .idle := State.allPoints_power { s with power := .idle } _

theorem State.idled_aim (s : State) {c : Nat} (on : s.coreOnline c = true) : (s.idled.core c).aim = 0 :=
  State.allPoints_aim { s with power := .idle } 0 on

/-- Settles O48: one event after the other. -/
theorem bootEvents : Obligations.BootEvents := by
  intro s
  refine ⟨powerOn_clears s, fun ready idle => ?_, fun fw cfg checking found good => ?_, bundleVerified_discards,
    fun on idle late => ⟨s.idled, exec_idleEntry on idle late, s.idled_power, fun c up => s.idled_aim up⟩, fun idle work => ⟨s.wakeUp, ?_, ?_, ?_⟩,
    fun ready on => ⟨{ (List.range 90).foldl State.writeOut
      (((s.allProcs.filter Proc.isResident).map Proc.pid).foldl (fun s p => s.parkNow p false) s.wakeUp) with power := .suspended },
      ?_, rfl⟩, fun off => ⟨{ s with power := s.runState, idleAt := s.cycle, evalAt := s.cycle.toNat / 2 ^ 16 }, ?_,
      SameMem.bytes ⟨rfl, rfl, rfl, rfl⟩, rfl, rfl, rfl⟩, ⟨s.powerless, rfl, rfl, rfl, rfl, rfl, rfl, rfl, rfl⟩⟩
  · change s.occur (tryBootwinTrigger s) = _
    simp [tryBootwinTrigger, State.trigger, State.occur, ready, idle]
  · exact ⟨_, bundleVerified_starts checking found good, rfl, rfl, rfl, rfl⟩
  · change s.occur (tryIdleExit s) = _
    simp [tryIdleExit, State.occur, idle, work]
  · rw [State.wakeUp, if_pos idle, State.allPoints_power]
    rfl
  · exact (State.wakeUp_same s).bytes
  · have up : (s.boot.ready && s.power != .suspended && s.power != .off) = true := by
      obtain h | h | h := on <;> rw [ready, h] <;> rfl
    change s.occur (trySuspend s) = _
    rw [trySuspend, if_pos up]
    rfl
  · change s.occur (tryD0Resume s) = _
    rw [tryD0Resume, if_pos off]
    rfl

end Sys2Proof.Machine
end

section
/-! Clock pauses, operating points, evaluations and token buckets (17_power.md). -/

namespace Sys2Proof.Machine
open Sys2Proof Sys2Proof.Claims

/-! ### A field of a core that an update leaves -/

theorem State.core_field_updCore {α : Type} {g : Core → α} {f : Core → Core} (h : ∀ k, g (f k) = g k) (s : State) (c d : Nat) :
    g ((s.updCore c f).core d) = g (s.core d) := by
  by_cases same : d = c
  · subst same
    by_cases inside : d < 90
    · rw [State.core_updCore _ _ _ inside, h]
    · simp [State.core, inside]
  · rw [State.core_updCore_other _ _ _ _ same]

theorem State.setReason_core (s : State) (c n d : Nat) : (s.setReason c n).core d = s.core d := State.updQuad_core _ _ _ _

theorem State.setReasons_core (bits : List Nat) (s : State) (c d : Nat) :
    (bits.foldl (fun s b => s.setReason c b) s).core d = s.core d :=
  foldl_keeps (fun t : State => t.core d = s.core d) _ (fun t b h => (State.setReason_core t c b d).trans h) bits s rfl

/-- A field of a core that neither a pause nor a wish changes stays at a change of points. -/
theorem State.core_field_changePoint {α : Type} {g : Core → α} (h : ∀ k w p, g { k with wanted := w, pause := p } = g k) (s : State)
    (c p d : Nat) : g ((s.changePoint c p).core d) = g (s.core d) := by
  have wish : ∀ k : Core, g { k with wanted := some p } = g k := fun k => h k _ k.pause
  unfold State.changePoint
  split
  · rfl
  split
  · exact State.core_field_updCore wish s c d
  split
  · rw [State.setReason_core]
    exact State.core_field_updCore wish s c d
  · exact State.core_field_updCore (fun k => h k _ _) s c d

/-! ### The end of a pause -/

/-- The core that waits first starts its pause; a core without a wish stays as it is. -/
theorem State.startWaiting_core (s : State) (q : Nat) {c : Nat} (none : (s.core c).wanted = none) :
    (s.startWaiting q).core c = s.core c := by
  unfold State.startWaiting
  split
  next => rfl
  next d rest waits =>
    have wish : (s.core d).wanted.isSome = true := by
      have mem : d ∈ (s.quadCores q).filter (fun c => (s.core c).wanted.isSome) := by rw [waits]; exact List.mem_cons_self
      exact (List.mem_filter.1 mem).2
    have other : c ≠ d := by
      rintro rfl
      rw [none] at wish
      cases wish
    dsimp only
    split
    · exact State.core_updCore_other _ _ _ _ other
    · rw [State.setReason_core]
      exact State.core_updCore_other _ _ _ _ other

theorem State.startWaiting_cur (s : State) (q : Nat) : (s.startWaiting q).cur = s.cur := by
  unfold State.startWaiting
  split
  · rfl
  · dsimp only
    split <;> simp [State.setReason]

theorem pauseEnd_sets {s : State} {c : Nat} {x : Pause} (hc : c < 90) (paused : (s.core c).pause = some x) (latched : x.latched = [])
    (wish : (s.core c).wanted = none) :
    ∃ t, exec (.pauseEnd c) s = .next t ∧ (t.core c).point = x.point ∧ (t.core c).pause = none ∧ t.cur = s.cur := by
  let u := (s.updCore c (fun k => { k with point := x.point, pause := none })).updQuad (s.quadOf c) (fun k =>
    { k with lowpt := if x.point < k.lowpt.toNat then BitVec.ofNat 4 x.point else k.lowpt })
  have core : u.core c = { s.core c with point := x.point, pause := none } := by
    rw [State.updQuad_core, State.core_updCore _ _ _ hc]
  have same := State.startWaiting_core u (s.quadOf c) (c := c) (by rw [core]; exact wish)
  refine ⟨u.startWaiting (s.quadOf c), ?_, by rw [same, core], by rw [same, core], ?_⟩
  · change s.occur (tryPauseEnd c s) = _
    rw [tryPauseEnd, paused]
    simp only [latched]
    rfl
  · rw [State.startWaiting_cur]
    exact (State.updQuad_cur _ _ _).trans (State.updCore_cur _ _ _)

/-! ### A point withdrawn -/

theorem State.reason_setReason (s : State) {c : Nat} (inside : s.quadOf c < 24) (n : Nat) :
    ((s.setReason c n).quad (s.quadOf c)).reason = (s.quad (s.quadOf c)).reason ||| BitVec.ofNat 5 (2 ^ n) :=
  congrArg Quad.reason (State.quad_updQuad _ _ _ inside)

/-- A reason that a quad shows is there after a change of points. -/
theorem State.reason_changePoint (s : State) (c p q : Nat) {i : Nat} (h : (s.quad q).reason.getLsbD i = true) :
    ((s.changePoint c p).quad q).reason.getLsbD i = true := by
  have quads (f : Core → Core) : (s.updCore c f).quad q = s.quad q := by simp [State.quad]
  unfold State.changePoint
  split
  · exact h
  split
  · rw [quads]
    exact h
  split
  · rw [State.setReason]
    by_cases same : q = State.quadOf (s.updCore c fun k => { k with wanted := some p }) c
    · rw [← same]
      by_cases inside : q < 24
      · rw [State.quad_updQuad _ _ _ inside, quads, BitVec.getLsbD_or, h, Bool.true_or]
      · rw [State.updQuad, dif_neg inside, quads]
        exact h
    · rw [State.quad_updQuad_other _ _ _ _ same, quads]
      exact h
  · rw [quads]
    exact h

theorem State.quad_of_bare {s t : State} (h : t.bare = s.bare) (q : Nat) : (t.quad q).bare = (s.quad q).bare := by
  have quads : t.quads.map Quad.bare = s.quads.map Quad.bare := by
    change t.bare.quads = s.bare.quads
    rw [h]
  unfold State.quad
  split
  next inside =>
    have := congrArg (fun v : Vector Quad 24 => v[q]) quads
    simpa using this
  next => rfl

/-- The highest point of a core is not one that is gone, or is point 0. -/
theorem Core.topPoint_not_gone (k : Core) : k.topPoint ∉ k.gone ∨ k.topPoint = 0 := by
  unfold Core.topPoint
  cases h : k.points.getLast? with
  | none => exact .inr rfl
  | some p =>
    have mem := List.mem_of_getLast? h
    simp only [Core.points, List.mem_filter] at mem
    exact .inl (by simpa using mem.2)

/-- The state in which a core has lost an operating point. -/
def State.pointGone (s : State) (c n : Nat) : State := s.updCore c (fun k => { k with gone := n :: k.gone })

theorem withdrawal_eq {s : State} {c n : Nat} (hc : c < 90) (hn : n < 16) (there : (s.core c).gone.contains n = false) :
    exec (.pointWithdrawal c n) s = .next
      (if s.boot.ready then
        (((s.pointGone c n).setReason c 4).logAll 0 5 c).changePoint c ((s.pointGone c n).core c).topPoint
      else (s.pointGone c n).updCore c (fun k => { k with point := ((s.pointGone c n).core c).topPoint })) := by
  have goes : (decide (90 ≤ c) || decide (16 ≤ n) || (s.core c).gone.contains n) = false := by
    rw [there, decide_eq_false (Nat.not_le.2 hc), decide_eq_false (Nat.not_le.2 hn)]
    rfl
  change s.occur (tryPointWithdrawal c n s) = _
  rw [tryPointWithdrawal, if_neg (by rw [goes]; exact Bool.false_ne_true)]
  change s.occur (if s.boot.ready then some _ else some _) = _
  split <;> rfl

theorem withdrawal_done {s : State} {c n : Nat} (hc : c < 90) (hn : n < 16) (there : (s.core c).gone.contains n = false)
    (quad : s.quadOf c < 24) : ∃ t, exec (.pointWithdrawal c n) s = .next t ∧ (t.core c).gone = n :: (s.core c).gone
      ∧ (s.boot.ready = true → (t.quad (s.quadOf c)).reason.getLsbD 4 = true)
      ∧ (s.boot.ready = false → (t.core c).point ≠ n ∨ (t.core c).point = 0) := by
  have core : (s.pointGone c n).core c = { s.core c with gone := n :: (s.core c).gone } := State.core_updCore _ _ _ hc
  have same : (s.pointGone c n).quadOf c = s.quadOf c := by
    unfold State.quadOf
    rw [core]
  refine ⟨_, withdrawal_eq hc hn there, ?_, fun ready => ?_, fun off => ?_⟩
  · split
    · rw [State.core_field_changePoint (g := Core.gone) (fun _ _ _ => rfl)]
      have bare := congrArg Core.gone (State.core_of_bare (State.logAll_bare ((s.pointGone c n).setReason c 4) 0 5 c) c)
      refine Eq.trans bare ?_
      change (((s.pointGone c n).setReason c 4).core c).gone = _
      rw [State.setReason_core, core]
    · rw [State.core_updCore _ _ _ hc, core]
  · rw [if_pos ready]
    refine State.reason_changePoint _ _ _ _ ?_
    have bare := congrArg Quad.reason (State.quad_of_bare (State.logAll_bare ((s.pointGone c n).setReason c 4) 0 5 c) (s.quadOf c))
    have shown := State.reason_setReason (s.pointGone c n) (c := c) (by rwa [same]) 4
    rw [same] at shown
    refine (congrArg (fun x => x.getLsbD 4) (Eq.trans bare shown)).trans ?_
    rw [BitVec.getLsbD_or, Bool.or_eq_true]
    exact .inr (by decide)
  · rw [if_neg (by rw [off]; exact Bool.false_ne_true), State.core_updCore _ _ _ hc]
    have gone : n ∈ ((s.pointGone c n).core c).gone := by rw [core]; exact List.mem_cons_self
    exact ((s.pointGone c n).core c).topPoint_not_gone.imp (fun apart => (ne_of_mem_of_not_mem gone apart).symm) id

/-! ### An evaluation -/

/-- The instant of the next evaluation and every core's temperature stay. -/
structure Sensed (s t : State) : Prop where
  evalAt : t.evalAt = s.evalAt
  temp : ∀ d, (t.core d).temp = (s.core d).temp

theorem Sensed.refl (s : State) : Sensed s s := ⟨rfl, fun _ => rfl⟩

theorem Sensed.trans {s t u : State} (h : Sensed s t) (k : Sensed t u) : Sensed s u :=
  ⟨k.evalAt.trans h.evalAt, fun d => (k.temp d).trans (h.temp d)⟩

theorem Sensed.foldl {α : Type} {f : State → α → State} (hf : ∀ s a, Sensed s (f s a)) (l : List α) (s : State) :
    Sensed s (l.foldl f s) := foldl_keeps (Sensed s) f (fun _ _ h => h.trans (hf _ _)) l s (Sensed.refl s)

theorem State.updCore_sensed {f : Core → Core} (h : ∀ k, (f k).temp = k.temp) (s : State) (c : Nat) : Sensed s (s.updCore c f) :=
  ⟨State.updCore_evalAt _ _ _, fun d => State.core_field_updCore (g := Core.temp) h s c d⟩

theorem State.updProc_sensed (s : State) (pid : Pid) (f : Proc → Proc) : Sensed s (s.updProc pid f) :=
  ⟨State.updProc_evalAt _ _ _, fun d => by rw [State.updProc_core]⟩

theorem State.setReason_sensed (s : State) (c n : Nat) : Sensed s (s.setReason c n) :=
  ⟨State.updQuad_evalAt _ _ _, fun d => by rw [State.setReason_core]⟩

theorem State.changePoint_sensed (s : State) (c p : Nat) : Sensed s (s.changePoint c p) := by
  unfold State.changePoint
  repeat' split
  · exact Sensed.refl s
  · exact State.updCore_sensed (fun _ => by rfl) s c
  · exact (State.updCore_sensed (fun _ => by rfl) s c).trans (State.setReason_sensed _ _ _)
  · exact State.updCore_sensed (fun _ => by rfl) s c

theorem State.startMove_sensed (s : State) (pid : Pid) (target : Nat) (heat : Bool) : Sensed s (s.startMove pid target heat) := by
  unfold State.startMove
  split
  · exact State.updCore_sensed (fun _ => by rfl) s _
  · unfold State.beginMoveNow
    repeat' split
    · exact Sensed.refl s
    · exact (State.updProc_sensed s _ _).trans (State.updCore_sensed (fun _ => by rfl) _ _)
    · exact Sensed.refl s

theorem State.coolDown_sensed (s : State) (c : Nat) : Sensed s (s.coolDown c) := by
  unfold State.coolDown
  repeat' split
  · exact (State.startMove_sensed s _ _ true).trans (State.updCore_sensed (fun _ => by rfl) _ _)
  · exact Sensed.refl s
  · exact Sensed.refl s

theorem State.setPoint_sensed (s : State) (overCur : Nat → Bool) (above : Bool) (cap : Option Nat) (therm : List Nat) (c : Nat) :
    Sensed s (s.setPoint overCur above cap therm c) := by
  unfold State.setPoint
  extract_lets bits
  repeat' split
  · exact Sensed.refl s
  · unfold State.lower
    split
    · exact Sensed.refl s
    · exact (Sensed.foldl (fun s b => State.setReason_sensed s c b) _ s).trans (State.changePoint_sensed _ _ _)
  · exact Sensed.refl s
  · exact State.changePoint_sensed s _ _
  · exact Sensed.refl s

theorem evaluation_reads {s : State} {r : Reading} (power : Nat) (on : s.powered = true) (due : s.evalAt < s.cycle.toNat / 2 ^ 16)
    (hr : r.core < 90) : ∃ t, exec (.evaluation [r] power) s = .next t ∧ t.evalAt = s.evalAt + 1 ∧ (t.core r.core).temp = r.temp := by
  have goes : (s.powered && decide (s.evalAt < s.cycle.toNat / 2 ^ 16)) = true := by rw [on, decide_eq_true due]; rfl
  let read := State.updCore { s with evalAt := s.evalAt + 1 } r.core (fun k => { k with temp := r.temp })
  have temp : (read.core r.core).temp = r.temp := congrArg Core.temp (State.core_updCore _ _ _ hr)
  have evalAt : read.evalAt = s.evalAt + 1 := State.updCore_evalAt _ _ _
  obtain ⟨t, runs, sensed⟩ : ∃ t, tryEvaluation [r] power s = some t ∧ Sensed read t := by
    rw [tryEvaluation, if_pos goes]
    exact ⟨_, rfl, (Sensed.foldl State.coolDown_sensed _ _).trans (Sensed.foldl (fun s c => State.setPoint_sensed s _ _ _ _ c) _ _)⟩
  refine ⟨t, ?_, sensed.evalAt.trans evalAt, (sensed.temp r.core).trans temp⟩
  change s.occur (tryEvaluation [r] power s) = _
  rw [runs]
  rfl

/-! ### Token buckets -/

theorem State.parkProc_parts (s : State) (pid : Pid) (hold : Bool) : (s.parkProc pid hold).parts = s.parts := by
  have enqueue (t : State) : (t.enqueue pid).parts = t.parts := by
    unfold State.enqueue State.rejoin
    repeat' split
    all_goals simp
  have dequeue (t : State) : (t.dequeue pid).parts = t.parts := by
    unfold State.dequeue
    split <;> simp
  unfold State.parkProc State.parkNow
  repeat' split
  all_goals simp [State.latchAt, State.freeSlot, enqueue, dequeue]

theorem State.parkPartition_parts (s : State) (n : Nat) :
    (s.parkPartition n).parts = (s.updPart n (fun p => { p with parked := true })).parts :=
  foldl_keeps (fun t : State => t.parts = (s.updPart n (fun p => { p with parked := true })).parts) _
    (fun t pid h => (State.parkProc_parts (t.dropLatchedMove pid) pid false).trans h) _ _ rfl

/-- An empty bucket is one of a partition that is there. -/
theorem State.part?_of_empty {s : State} {n : Nat} (h : (s.part n).empty = true) : ∃ p, s.part? n = some p := by
  cases found : s.part? n with
  | some p => exact ⟨p, rfl⟩
  | none =>
    rw [State.part, found] at h
    simp [Part.empty, Part.absent, Bucket.unlimited, Bucket.fresh] at h

theorem bucketEmpty_parks {s : State} {n : Nat} (h : (s.part n).empty = true) :
    ∃ t, exec (.bucketEmpty n) s = .next t ∧ (t.part n).parked = true ∧ SameBytes s t := by
  obtain ⟨p, found⟩ := State.part?_of_empty h
  refine ⟨s.parkPartition n, ?_, ?_, (State.parkPartition_same s n).bytes⟩
  · change s.occur (tryBucketEmpty n s) = _
    rw [tryBucketEmpty, if_pos h]
    rfl
  · have parked := State.part_updPart found (f := fun p => { p with parked := true }) (fun _ => by rfl)
    rw [State.part, State.part?, State.parkPartition_parts]
    exact congrArg Part.parked parked

/-- What a refill step makes of a partition. -/
def Part.refilled (p : Part) : Part :=
  let q := { p with buckets := p.buckets.map Bucket.refill }
  { q with parked := p.parked && !q.aboveMarks }

theorem Part.refilled_parked (p : Part) : p.refilled.parked = true ↔
    p.parked = true ∧ ∃ b ∈ p.refilled.buckets, b.level ≤ b.mark.toNat := by
  have marks : p.refilled.parked = (p.parked && !(p.refilled.buckets.all (fun b => decide (b.mark.toNat < b.level)))) := rfl
  rw [marks, Bool.and_eq_true, Bool.not_eq_true', Bool.eq_false_iff, ne_eq, Vector.all_eq_true]
  refine and_congr_right fun _ => ?_
  simp only [decide_eq_true_eq, not_forall, Nat.not_lt]
  constructor
  · rintro ⟨i, hi, low⟩
    exact ⟨_, Vector.getElem_mem hi, low⟩
  · rintro ⟨b, hb, low⟩
    obtain ⟨i, hi, rfl⟩ := Vector.getElem_of_mem hb
    exact ⟨i, hi, low⟩

theorem refillStep_fills {s : State} (due : s.refillAt < s.cycle.toNat / 2 ^ 10) :
    exec .refillStep s = .next { s with refillAt := s.refillAt + 1, parts := s.parts.map Part.refilled } := by
  change s.occur (tryRefillStep s) = _
  rw [tryRefillStep, if_pos due]
  rfl

/-- Tokens in units of 2^-20: a refill moves the whole ones of the sum into the level. -/
theorem Bucket.refill_eq {b : Bucket} (limited : b.rate ≠ 0xFFFFFFFF) :
    b.refill = if b.cap.toNat ≤ b.level + (b.carry + b.rate.toNat * 2 ^ 10) / 2 ^ 20 then { b with level := b.cap.toNat, carry := 0 }
      else { b with
        level := b.level + (b.carry + b.rate.toNat * 2 ^ 10) / 2 ^ 20, carry := (b.carry + b.rate.toNat * 2 ^ 10) % 2 ^ 20 } := by
  have off : b.unlimited = false := beq_eq_false_iff_ne.2 limited
  rw [Bucket.refill, off]
  rfl

theorem bucket_refill {b : Bucket} (limited : b.rate ≠ 0xFFFFFFFF) :
    let total := b.level * 2 ^ 20 + b.carry + b.rate.toNat * 2 ^ 10
    b.refill.level = min (total / 2 ^ 20) b.cap.toNat
    ∧ (total / 2 ^ 20 < b.cap.toNat → b.refill.carry = total % 2 ^ 20) ∧ (b.cap.toNat ≤ total / 2 ^ 20 → b.refill.carry = 0) := by
  intro total
  have whole : total / 2 ^ 20 = b.level + (b.carry + b.rate.toNat * 2 ^ 10) / 2 ^ 20 := by omega
  have part : total % 2 ^ 20 = (b.carry + b.rate.toNat * 2 ^ 10) % 2 ^ 20 := by omega
  rw [Bucket.refill_eq limited, whole, part]
  split
  next full => exact ⟨(Nat.min_eq_right full).symm, fun short => absurd full (Nat.not_le.2 short), fun _ => rfl⟩
  next short => exact ⟨(Nat.min_eq_left (Nat.le_of_not_le short)).symm, fun _ => rfl, fun full => absurd full short⟩

/-- Settles O46: one event after the other, and the arithmetic of a bucket. -/
theorem powerEvents : Obligations.PowerEvents := by
  refine ⟨fun s c n x hc => ⟨pauseEnd_sets hc, withdrawal_done hc, fun r power on due hr => evaluation_reads power on due hr,
    bucketEmpty_parks, fun due => ⟨_, refillStep_fills due, rfl, List.length_map _, SameMem.bytes ⟨rfl, rfl, rfl, rfl⟩,
      fun i h h' => ?_⟩⟩, fun b limited => bucket_refill limited⟩
  simp only [List.getElem_map]
  exact ⟨rfl, Part.refilled_parked _⟩

end Sys2Proof.Machine
end

section
/-! The start of a stolen record one of whose scratchpad pages has no good copy. -/

namespace Sys2Proof.Machine
open Sys2Proof Sys2Proof.Claims

/-- A page of process 5 in the pool of core 1, of which a transfer makes no good copy. -/
def hurtPage : PoolPage := { id := 1, core := 1, owner := 5, page := zeroPage, stamp := 0, hurt := true, err := none }

/-- A record of process 5 whose scratchpad page 0 is resident in that page. -/
def padRecord : Rec :=
  { entry := 0, arg := 0, pid := 5, prio := 0, domain := .die, origin := 0, part := 0, join := .root, seq := 0,
    moved := .replicate 8 0, sup := true, spSlot := none, spDir := [(0, 1)], spill := none, spillVa := 0, seg := 0, sealed := [],
    bmask := 0, wmask := 0, halted := false, stepping := false, extra := .replicate 8 0, skipBp := false }

/-- The search of slot 0 that the record answers. -/
def padSteal : Steal := { slot := 0, level := 0, left := 0, victim := none, answer := some (some padRecord) }

/-- The device, running, with that page and with that answer on its way to core 0. -/
def padState : State :=
  { State.reset with
    power := .on, boot := { State.reset.boot with ready := true }, pages := [hurtPage],
    cores := State.reset.cores.set 0 { State.reset.cores[0] with steal := some padSteal } }

/-- The page is lost on its way to core 0 (R142), so that the process starts with an empty directory. -/
theorem padState_started : ((tryStealAnswer 0 padState).map (fun t => (t.proc? 5).map Proc.spDir)) = some (some []) := by
  decide +kernel

/-- Refutes O44: a record whose scratchpad page has no good copy does not start with the directory it was pushed with. -/
theorem not_stealEvents : ¬ Obligations.StealEvents := by
  unfold Obligations.StealEvents
  intro h
  obtain ⟨_, _, _, _, _, answer, _⟩ := h padState 0 0 0 padRecord padSteal (by decide)
  obtain ⟨t, run, _, _, p, found, _, _, _, _, _, _, _, _, _, _, _, _, _, _, _, dir, _⟩ :=
    answer (by rfl) rfl rfl (by decide +kernel) (by decide +kernel) (by decide +kernel) (by decide) (by decide)
  have outcome : padState.occur (tryStealAnswer 0 padState) = .next t := run
  have started := padState_started
  cases made : tryStealAnswer 0 padState with
  | none => rw [made] at started; cases started
  | some u =>
    rw [made] at started outcome
    obtain rfl : u = t := by simpa [State.occur] using outcome
    have held : u.proc? 5 = some p := found
    have empty : p.spDir = [] := by
      rw [Option.map_some, held, Option.map_some] at started
      exact Option.some.inj (Option.some.inj started)
    exact absurd (dir.symm.trans empty) (by decide)

end Sys2Proof.Machine
end

section
/-! Pre-emption, parks, images, exits, moves, page-ins and evictions: each event in the state that enables it. -/

namespace Sys2Proof.Machine
open Sys2Proof Sys2Proof.Claims

/-! ### What is picked is there -/

/-- A fold that takes an element or keeps the one it has picks an element of the list. -/
theorem mem_of_foldl_picks {α : Type} {f : Option α → α → Option α} (picks : ∀ b x, f b x = some x ∨ f b x = b) (l : List α) :
    ∀ (b : Option α) (x : α), l.foldl f b = some x → b = some x ∨ x ∈ l := by
  induction l with
  | nil => exact fun b x h => .inl h
  | cons a l ih =>
    intro b x h
    obtain h | h := ih _ _ h
    · obtain taken | kept := picks b a
      · rw [taken] at h
        cases h
        exact .inr (.head _)
      · exact .inl (kept.symm.trans h)
    · exact .inr (.tail _ h)

theorem State.proc?_of_inSlot {s : State} {c k : Nat} {p : Proc} (h : s.inSlot c k = some p) : s.proc? p.pid = some p := by
  unfold State.inSlot at h
  split at h
  · obtain ⟨pid, _, found⟩ := Option.bind_eq_some_iff.1 h
    rwa [State.proc?_pid found]
  · cases h

theorem State.inSlot_of_victimSlot {s : State} {c : Nat} {x : Nat × Proc} (h : s.victimSlot c = some x) : s.inSlot c x.1 = some x.2 := by
  obtain h | h := mem_of_foldl_picks (fun b y => by
    cases b with
    | none => exact .inl rfl
    | some z =>
      dsimp only
      split
      · exact .inl rfl
      · split
        · exact .inl rfl
        · exact .inr rfl) _ _ _ h
  · cases h
  · obtain ⟨i, _, hi⟩ := List.mem_filterMap.1 h
    split at hi
    next p found =>
      cases hi
      exact found
    next => cases hi

/-- A context that a pre-emption parks stands in an open core, resident. -/
theorem State.preemptee_spec {s : State} {c k : Nat} {p : Proc} (h : s.preemptee c = some (k, p)) :
    s.proc? p.pid = some p ∧ p.isResident = true ∧ s.coreOpen c = true := by
  unfold State.preemptee at h
  split at h
  next open_ =>
    split at h
    next x picked =>
      split at h
      next pre =>
        cases h
        simp only [Bool.and_eq_true] at open_ pre
        exact ⟨State.proc?_of_inSlot (State.inSlot_of_victimSlot picked), pre.1, open_.1.1⟩
      next => cases h
    next => cases h
  next => cases h

theorem State.blockedDue_spec {s : State} {c k : Nat} {p : Proc} (h : s.blockedDue c k = some p) :
    s.proc? p.pid = some p ∧ p.isResident = true := by
  unfold State.blockedDue at h
  split at h
  next => cases h
  next q found =>
    obtain ⟨due, same⟩ := Option.ite_none_right_eq_some.1 h
    cases same
    simp only [Bool.and_eq_true] at due
    exact ⟨State.proc?_of_inSlot found, due.1.1.1.1.2⟩

/-! ### Parks -/

theorem Proc.place_of_isResident {p : Proc} (h : p.isResident = true) : ∃ c k, p.place = .resident c k := by
  unfold Proc.isResident at h
  split at h
  next c k place => exact ⟨c, k, place⟩
  next => cases h

theorem Proc.squash_wait (p : Proc) : p.squash.wait = p.wait := by
  unfold Proc.squash Proc.rollback
  split <;> rfl

theorem State.parkProc_unheld {s : State} {p : Proc} (found : s.proc? p.pid = some p) (resident : p.isResident = true)
    (runs : s.pausedCore p.pid = none) :
    ProcAt (s.parkProc p.pid false) p.pid (fun q => q.place = .parked ∧ q.ip = p.rollback.ip ∧ q.wait = p.wait) := by
  obtain ⟨c, k, place⟩ := Proc.place_of_isResident resident
  obtain ⟨time, after⟩ := State.parkNow_unheld found place
  rw [State.parkProc, runs]
  exact ⟨_, after, rfl, rfl, p.squash_wait⟩

/-! ### A record takes a slot -/

theorem State.startRec_slot (s : State) {c k : Nat} (r : Rec) (hc : c < 90) (hk : k < 4) :
    ((s.startRec c k r).core c).slots[k] = some r.pid := by
  rw [State.startRec, State.flushL1, State.core_updCore _ _ _ hc, State.core_updCore _ _ _ hc]
  simp [hk]

theorem State.lt_of_coreOpen {s : State} {c : Nat} (h : s.coreOpen c = true) : c < 90 := by
  simp only [State.coreOpen, Bool.and_eq_true, decide_eq_true_eq] at h
  exact h.1.2

theorem State.refill_present (s : State) {r : Rec} (h : r.spill = none) : s.refill r = (s, .ok) := by
  simp only [State.refill, State.sealCheck, h]

theorem State.preemptFill_present {s : State} {c k n : Nat} {r : Rec} (picked : s.preemptor c = some r) (h : r.spill = none) :
    s.preemptFill c k (n + 1) = (s.dropRec c r.pid).startRec c k r := by
  simp only [State.preemptFill, picked, State.refill_present s h]

/-! ### Images and exits -/

theorem State.completeImage_eq {s u w : State} {p : Proc} (found : s.proc? p.pid = some p) (head : s.imageWrite p 0 (s.imageHead p) = .ok u)
    (zero : u.imageZero p 0x600 0xA00 = .ok w) :
    s.completeImage p.pid = (w.updProc p.pid (fun q => { q with imageOk := true })).drew := by
  simp only [State.completeImage, found, State.imagePut, head, zero]

theorem exec_exitCompletion {s : State} {p : Proc} (found : s.proc? p.pid = some p) (due : p.exitDue = true) :
    exec (.exitCompletion p.pid) s = .next (match p.join with
      | .chan cell => (s.postCode p.pid cell (p.exitCode.getD 0)).endProc p.pid
      | .root => (s.rootEnded p.pid .root (p.exitCode.getD 0) 0).endProc p.pid
      | .supervisor => s.endProc p.pid) := by
  change s.occur (tryExitCompletion p.pid s) = _
  simp only [tryExitCompletion, found, if_pos due]
  cases p.join <;> rfl

/-- The exit of a process joined at the root is host event 6. -/
theorem rootExit_reported {s : State} {p : Proc} (found : s.proc? p.pid = some p) (none : s.entries = []) (other : s.cur.pid ≠ p.pid)
    (room : s.host.events.length < 64) (code : Word) :
    let t := (s.rootEnded p.pid .root code 0).endProc p.pid
    t.proc? p.pid = .none ∧ SameBytes s t ∧ t.host.events = s.host.events ++ [{ kind := 6, words := [p.pid.setWidth 64, code, 0] }] := by
  obtain ⟨same, gone, _, host⟩ := State.endProc_quiet (s := s.hostEvent 6 [p.pid.setWidth 64, code, 0])
    ((State.hostEvent_proc? _ _ _ _).trans found) ((State.hostEvent_entries _ _ _).trans none) (by rwa [State.hostEvent_cur])
  refine ⟨gone, ((State.hostEvent_same s _ _).trans same).bytes, ?_⟩
  exact (congrArg HostPort.events host).trans (State.hostEvent_events s _ _ room)

/-! ### Moves -/

theorem State.readForMove_good {s : State} (good : ∀ q ∈ s.pages, q.err = none ∧ q.hurt = false) (pid : Pid) (c : Nat) :
    s.readForMove pid c = (s.quietTransfer pid c, []) := by
  have settled (l : List PoolPage) : l.foldl (fun t q => t.settlePage q.id) s = s := by
    induction l with
    | nil => rfl
    | cons q l ih =>
      rw [List.foldl_cons, State.settlePage_clean, ih]
      cases found : s.pages.find? (fun x => x.id == q.id) with
      | none => rfl
      | some x => exact (good x (List.mem_of_find?_eq_some found)).1
  have bad : ((s.pagesOff pid c).filter (fun q => q.err == some true || q.hurt)) = [] := by
    rw [List.filter_eq_nil_iff]
    intro q hq
    obtain ⟨err, hurt⟩ := good q (List.mem_filter.1 hq).1
    simp [err, hurt]
  rw [State.readForMove, settled, bad]
  rfl

theorem State.quietTransfer_good {s : State} (good : ∀ q ∈ s.pages, q.err = none ∧ q.hurt = false) (pid : Pid) (c : Nat) :
    s.quietTransfer pid c = s := by
  have pages : s.pages.map (fun q => if q.owner = pid ∧ q.core ≠ c then { q with hurt := false } else q) = s.pages := by
    conv_rhs => rw [← List.map_id s.pages]
    refine List.map_congr_left fun q hq => ?_
    obtain ⟨_, hurt⟩ := good q hq
    split
    · rw [← hurt]
      rfl
    · rfl
  rw [State.quietTransfer, pages]

/-- Good pages that fit arrive as they are. -/
theorem State.carryPages_good {s : State} (good : ∀ q ∈ s.pages, q.err = none ∧ q.hurt = false) {pid : Pid} {c : Nat}
    (fit : s.pagesFit pid c = true) : s.carryPages pid c = { s with
      pages := s.pages.map (fun q => if q.owner = pid ∧ q.core ≠ c then { q with core := c } else q) } := by
  rw [State.carryPages, if_pos fit, State.readForMove_good good, State.quietTransfer_good good]
  exact if_pos fit

theorem State.carryPages_arrive {s : State} (good : ∀ q ∈ s.pages, q.err = none ∧ q.hurt = false) {pid : Pid} {c : Nat}
    (fit : s.pagesFit pid c = true) :
    SameBytes s (s.carryPages pid c) ∧ ∀ x ∈ (s.carryPages pid c).pages, x.owner = pid → x.core = c := by
  rw [State.carryPages_good good fit]
  refine ⟨fun _ => rfl, fun x hx owner => ?_⟩
  obtain ⟨q, _, rfl⟩ := List.mem_map.1 hx
  by_cases off : q.owner = pid ∧ q.core ≠ c
  · rw [if_pos off]
  · rw [if_neg off] at owner ⊢
    exact not_not.1 fun apart => off ⟨owner, apart⟩

section
variable {s : State} {p : Proc} {a b : Nat} (found : s.proc? p.pid = some p) (moving : p.place = .moving a b)
include found moving

theorem exec_moveComplete_moving (drained : p.drained = true) (fit : s.pagesFit p.pid b = true) :
    exec (.moveComplete p.pid) s = .next (s.copyMove p a b) := by
  change s.occur (tryMoveComplete p.pid s) = _
  simp only [tryMoveComplete, found, moving, drained, fit]
  rfl

theorem exec_moveAbandon_away (away : s.die (dieOfCore a) = .goingDown) (addr : Word) :
    exec (.moveAbandon p.pid addr) s = .next (s.losePage p addr) := by
  change s.occur (tryMoveAbandon p.pid addr s) = _
  simp only [tryMoveAbandon, found, moving, if_pos away]
  rfl

theorem exec_moveAbandon_back (drained : p.drained = true) (stays : s.die (dieOfCore a) ≠ .goingDown) (addr : Word) :
    exec (.moveAbandon p.pid addr) s = .next ((s.endMove p.pid a false).migFail p.pid addr b) := by
  change s.occur (tryMoveAbandon p.pid addr s) = _
  simp only [tryMoveAbandon, found, moving, if_neg stays, if_pos drained]
  rfl

end

theorem exec_moveComplete_parked {s : State} {p : Proc} (found : s.proc? p.pid = some p) (parked : p.place = .parked)
    (off : s.pagesOff p.pid p.home ≠ []) (fit : s.pagesFit p.pid p.home = true) :
    exec (.moveComplete p.pid) s = .next (s.carryPages p.pid p.home) := by
  have core : p.core = p.home := by rw [Proc.core, parked]
  change s.occur (tryMoveComplete p.pid s) = _
  simp only [tryMoveComplete, found, parked, core, State.bringPages, fit]
  rw [if_neg (by simpa using off)]
  rfl

/-- Settles O45: each event by its definition, in the state that enables it. -/
theorem parkEvents : Obligations.ParkEvents := by
  intro s p c k a b v addr
  refine ⟨fun r picked runs => ?_, fun due runs => ?_, fun found => ?_, fun x wanted oldest => ?_⟩
  · obtain ⟨found, resident, open_⟩ := State.preemptee_spec picked
    obtain ⟨q, after, place, ip, _⟩ := State.parkProc_unheld found resident runs
    refine ⟨⟨q, after, place, ip⟩, fun next here =>
      ⟨((s.parkProc p.pid false).dropRec c r.pid).startRec c k r, ?_, State.startRec_slot _ r (State.lt_of_coreOpen open_)⟩⟩
    change s.occur (tryPreemption c s) = _
    simp only [tryPreemption, picked, State.preemptFill_present next here]
    rfl
  · obtain ⟨found, resident⟩ := State.blockedDue_spec due
    obtain ⟨q, after, place, _, wait⟩ := State.parkProc_unheld found resident runs
    refine ⟨s.parkProc p.pid false, ?_, (State.parkProc_same s _ _).bytes, q, after, place, wait⟩
    change s.occur (tryBlockedPark c k s) = _
    rw [tryBlockedPark, due]
    rfl
  · refine ⟨fun u w due head zero => ?_, fun due root none other room => ?_, fun cell due chan => ?_, fun due sup => ?_,
      fun parked off fit => ⟨_, exec_moveComplete_parked found parked off fit, rfl, fun good => State.carryPages_arrive good fit⟩,
      fun moving drained => ⟨fun fit good => ?_, fun id rest fit bad => ?_, fun stays =>
        exec_moveAbandon_back found moving drained stays addr⟩,
      fun moving away => exec_moveAbandon_away found moving away addr, fun n aim => ?_, fun u wanted paged => ?_⟩
    · change s.occur (tryImageComplete p.pid s) = _
      simp only [tryImageComplete, found, if_pos due, State.completeImage_eq found head zero]
      rfl
    · obtain ⟨gone, bytes, events⟩ := rootExit_reported found none other room (p.exitCode.getD 0)
      refine ⟨_, ?_, gone, bytes, events⟩
      rw [exec_exitCompletion found due, root]
    · rw [exec_exitCompletion found due, chan]
    · rw [exec_exitCompletion found due, sup]
    · rw [exec_moveComplete_moving found moving drained fit]
      simp only [State.copyMove, good]
    · rw [exec_moveComplete_moving found moving drained fit]
      simp only [State.copyMove, bad]
      exact ⟨fun away => by rw [if_pos away], fun stays => by rw [if_neg stays]⟩
    · change s.occur (tryAffinityMove p.pid s) = _
      simp only [tryAffinityMove, found, aim]
      rfl
    · change s.occur (tryPageInComplete p.pid v s) = _
      simp only [tryPageInComplete, found, List.contains_iff_mem.2 wanted, if_true, paged]
      rfl
  · change s.occur (tryEviction c s) = _
    simp only [tryEviction, if_pos wanted, oldest]
    rfl

end Sys2Proof.Machine
end

section
/-! What the closing of endpoints and the completion of channel operations leave: the links, the numbers and the watchpoints of the
partitions, and which process executes, of which partition, with which watchpoints on. -/

namespace Sys2Proof.Machine
open Sys2Proof Sys2Proof.Claims

/-! ### What is left -/

def Part.shape (p : Part) : Nat × Vector Word 2 := (p.num, p.dwp)

def Proc.shape (p : Proc) : Pid × Nat × BitVec 2 := (p.pid, p.part, p.wmask)

/-- Whether a core searches. -/
def Core.searches (k : Core) : Bool := k.steal.isSome

def State.shape (s : State) : LinkSt × List (Nat × Vector Word 2) × (Pid × Nat × BitVec 2) × Vector Bool 90 :=
  (s.link, s.parts.map Part.shape, s.cur.shape, s.cores.map Core.searches)

theorem State.shape_of_bare {s t : State} (h : t.bare = s.bare) : t.shape = s.shape := by
  have link : t.link = s.link := by simpa [State.bare] using congrArg State.link h
  have parts : t.parts.map Part.bare = s.parts.map Part.bare := congrArg State.parts h
  have shapes : t.parts.map Part.shape = s.parts.map Part.shape := by
    have both := congrArg (List.map Part.shape) parts
    rwa [List.map_map, List.map_map] at both
  have cores : t.cores.map Core.bare = s.cores.map Core.bare := congrArg State.cores h
  have search : t.cores.map Core.searches = s.cores.map Core.searches := by
    have both := congrArg (Vector.map Core.searches) cores
    rwa [Vector.map_map, Vector.map_map] at both
  simp only [State.shape, link, shapes, search, State.cur_of_bare h]

theorem State.foldl_shape {α : Type} {f : State → α → State} (hf : ∀ s a, (f s a).shape = s.shape) (l : List α)
    (s : State) : (l.foldl f s).shape = s.shape :=
  foldl_keeps (fun t : State => t.shape = s.shape) f (fun t a h => (hf t a).trans h) l s rfl

theorem State.updPart_shape {f : Part → Part} (hf : ∀ p, (f p).shape = p.shape) (s : State) (n : Nat) :
    (s.updPart n f).shape = s.shape := by
  have parts : (s.updPart n f).parts.map Part.shape = s.parts.map Part.shape := by
    simp only [State.updPart, List.map_map, List.map_inj_left]
    intro p _
    simp only [Function.comp]
    split
    · exact hf p
    · rfl
  simp only [State.shape, parts]
  rfl

theorem State.updProc_shape {f : Proc → Proc} (hf : ∀ p, (f p).shape = p.shape) (s : State) (pid : Pid) :
    (s.updProc pid f).shape = s.shape := by
  unfold State.updProc
  split
  · simp only [State.shape, hf]
  · rfl

theorem Vector.map_set_kept {α β : Type} {n i : Nat} {g : α → β} (v : Vector α n) (h : i < n) {y : α} (same : g y = g v[i]) :
    (v.set i y).map g = v.map g := by
  ext j hj
  by_cases hij : i = j
  · subst hij
    simpa using same
  · simp [hij]

theorem State.updCore_shape {f : Core → Core} (hf : ∀ k, (f k).searches = k.searches) (s : State) (c : Nat) :
    (s.updCore c f).shape = s.shape := by
  unfold State.updCore
  split
  next hc =>
    have kept : (s.cores.set c (f s.cores[c])).map Core.searches = s.cores.map Core.searches :=
      Vector.map_set_kept s.cores hc (hf s.cores[c])
    simp only [State.shape, kept]
  next => rfl

theorem State.mapCores_shape {f : Core → Core} (hf : ∀ k, (f k).searches = k.searches) (s : State) :
    { s with cores := s.cores.map f }.shape = s.shape := by
  simp only [State.shape, Vector.map_map, show Core.searches ∘ f = Core.searches from funext hf]

@[simp] theorem State.hostEvent_shape (s : State) (k : Nat) (w : List Word) : (s.hostEvent k w).shape = s.shape := by
  simp [State.shape]

/-! ### Parks and traps -/

@[simp] theorem State.rejoin_shape (s : State) (pid : Pid) : (s.rejoin pid).shape = s.shape := by
  unfold State.rejoin
  repeat' split
  · rfl
  · exact State.updCore_shape (fun _ => by rfl) s _
  · rfl

@[simp] theorem State.enqueue_shape (s : State) (pid : Pid) : (s.enqueue pid).shape = s.shape := by
  unfold State.enqueue
  repeat' split
  · rfl
  · rw [State.rejoin_shape]
    exact State.updProc_shape (fun _ => by rfl) s pid
  · rfl

@[simp] theorem State.dequeue_shape (s : State) (pid : Pid) : (s.dequeue pid).shape = s.shape := by
  unfold State.dequeue
  split
  · rfl
  · exact State.updCore_shape (fun _ => by rfl) s _

@[simp] theorem State.freeSlot_shape (s : State) (c slot : Nat) (pid : Pid) : (s.freeSlot c slot pid).shape = s.shape :=
  State.updCore_shape (fun _ => by rfl) s c

@[simp] theorem State.latchAt_shape (s : State) (c : Nat) (l : Latched) : (s.latchAt c l).shape = s.shape :=
  State.updCore_shape (fun _ => by rfl) s c

theorem Proc.rollback_shape (p : Proc) : p.rollback.shape = p.shape := by
  unfold Proc.rollback
  split <;> rfl

@[simp] theorem State.parkNow_shape (s : State) (pid : Pid) (hold : Bool) : (s.parkNow pid hold).shape = s.shape := by
  unfold State.parkNow
  repeat' split
  · rfl
  · rw [State.enqueue_shape, State.freeSlot_shape]
    exact State.updProc_shape (fun p => by exact p.rollback_shape) s pid
  · rw [State.updProc_shape (fun _ => by rfl), State.dequeue_shape]
  · rfl
  · exact State.updProc_shape (fun _ => by rfl) s pid
  · rfl
  · rfl

@[simp] theorem State.parkProc_shape (s : State) (pid : Pid) (hold : Bool) : (s.parkProc pid hold).shape = s.shape := by
  unfold State.parkProc
  split <;> simp

theorem Core.without_searches (k : Core) (pid : Pid) : (k.without pid).searches = k.searches := Option.isSome_map

theorem Core.mapRecs_searches (k : Core) (f : Rec → Rec) : (k.mapRecs f).searches = k.searches := Option.isSome_map

theorem State.updRec_shape (s : State) (pid : Pid) (f : Rec → Rec) : (s.updRec pid f).shape = s.shape :=
  State.mapCores_shape (fun k => k.mapRecs_searches _) s

@[simp] theorem State.unqueueEnded_shape (s : State) (c : Nat) (r : Rec) : (s.unqueueEnded c r).shape = s.shape := by
  unfold State.unqueueEnded
  split
  · refine (State.updCore_shape (fun k => by exact k.without_searches _) _ c).trans ?_
    unfold State.fillSpill
    split
    · exact State.shape_of_bare (State.fillL2_bare s _ _ _)
    · rfl
  · exact State.updCore_shape (fun _ => by rfl) s c
  · exact State.updRec_shape s _ _

@[simp] theorem State.parkAll_shape (s : State) (part : Nat) (keep : Pid) : (s.parkAll part keep).shape = s.shape := by
  unfold State.parkAll
  dsimp only
  exact (State.foldl_shape (fun s (p : Proc) => State.parkProc_shape s p.pid true) _ _).trans
    (State.foldl_shape (fun s c => State.foldl_shape (fun s r => State.unqueueEnded_shape s c r) _ s) _ s)

@[simp] theorem State.fatal_shape (s : State) (part : Nat) (r : Record) : (s.fatal part r).shape = s.shape := by
  have ended : ((s.parkAll part 0).updPart part (fun q => { q with ended := true })).shape = s.shape :=
    (State.updPart_shape (fun _ => by rfl) _ _).trans (State.parkAll_shape s part 0)
  unfold State.fatal
  rw [State.hostEvent_shape]
  split
  · exact (State.updProc_shape (fun _ => by rfl) _ _).trans ended
  · exact ended

@[simp] theorem State.noteArea_shape (s : State) (part : Nat) (t : TrapInfo) : (s.noteArea part t).shape = s.shape := by
  unfold State.noteArea
  repeat' split
  · exact State.shape_of_bare (State.readRange_bare s _ _)
  · exact State.shape_of_bare (State.noteWalk_bare s _ _ _)
  · rfl

@[simp] theorem State.areaFault_shape (s : State) (part : Nat) (t : TrapInfo) : (s.areaFault part t).shape = s.shape := by
  unfold State.areaFault
  repeat' split
  all_goals simp

@[simp] theorem State.trapNow_shape (s : State) (pid : Pid) (t : TrapInfo) (w0 w1 : Word32) (cycle : Word) :
    (s.trapNow pid t w0 w1 cycle).shape = s.shape := by
  unfold State.trapNow
  repeat' split
  · rfl
  · rfl
  · simp
  · rw [State.updPart_shape (fun _ => by rfl), State.updProc_shape (fun _ => by rfl), State.dequeue_shape, State.parkNow_shape]

@[simp] theorem State.trapProc_shape (s : State) (pid : Pid) (t : TrapInfo) (w0 w1 : Word32) :
    (s.trapProc pid t w0 w1).shape = s.shape := by
  unfold State.trapProc
  split <;> simp

/-! ### Areas and images -/

theorem State.areaPieces_shape {s t : State} {p : Part} {va : Word} {n : Nat} {k : Access} {l : List (Word × Nat × Nat)}
    (h : s.areaPieces p va n k = .ok (t, l)) : t.shape = s.shape := by
  unfold State.areaPieces at h
  split at h
  · cases h
  · split at h
    · cases h
    · cases h
      exact State.foldl_shape (fun s (x : Word × Nat) => State.shape_of_bare (State.noteWalk_bare s 0 p x.1)) _ s

theorem State.areaPut_shape {s t : State} {p : Part} {va : Word} {l : List Byte} (h : s.areaPut p va l = .ok t) :
    t.shape = s.shape := by
  unfold State.areaPut at h
  cases hp : s.areaPieces p va l.length .write with
  | error e => rw [hp] at h; cases h
  | ok x =>
    rw [hp] at h
    cases h
    exact foldl_keeps (fun x : State × List Byte => x.1.shape = s.shape) _
      (fun _ _ m => (State.shape_of_bare (State.physPut_bare _ _ _ _)).trans m) _ _ (State.areaPieces_shape hp)

theorem State.areaRead_shape {s t : State} {p : Part} {va : Word} {n : Nat} {l : List Byte} {b : Option (Word × Nat)}
    (h : s.areaRead p va n = .ok (t, l, b)) : t.shape = s.shape := by
  unfold State.areaRead at h
  cases hp : s.areaPieces p va n .read with
  | error e => rw [hp] at h; cases h
  | ok x =>
    rw [hp] at h
    cases h
    exact (State.foldl_shape (fun s x => State.shape_of_bare (State.noteRead_bare s _ _ _)) _ _).trans (State.areaPieces_shape hp)

theorem State.ownPut_shape {s t : State} {p : Part} {pa : Nat} {l : List Byte} (h : s.ownPut p pa l = .ok t) :
    t.shape = s.shape := by
  unfold State.ownPut at h
  cases hp : s.physOff pa l.length with
  | error e => rw [hp] at h; cases h
  | ok x => rw [hp] at h; cases h; exact State.shape_of_bare (State.physPut_bare s _ _ _)

theorem State.ownRead_shape {s t : State} {p : Part} {pa n : Nat} {l : List Byte} {b : Option (Word × Nat)}
    (h : s.ownRead p pa n = .ok (t, l, b)) : t.shape = s.shape := by
  unfold State.ownRead at h
  cases hp : s.physOff pa n with
  | error e => rw [hp] at h; cases h
  | ok x => rw [hp] at h; cases h; exact State.shape_of_bare (State.noteRead_bare s _ _ _)

theorem State.imageWrite_shape {s t : State} {p : Proc} {off : Nat} {l : List Byte} (h : s.imageWrite p off l = .ok t) :
    t.shape = s.shape := by
  unfold State.imageWrite at h
  dsimp only at h
  split at h
  · split at h
    · cases h; rfl
    · exact State.ownPut_shape h
  · split at h
    · cases h; rfl
    · exact State.areaPut_shape h

theorem State.allGood_shape {s t : State} {x : Except TrapInfo (State × List Byte × Option (Word × Nat))} {l : List Byte}
    (hx : ∀ u m b, x = .ok (u, m, b) → u.shape = s.shape) (h : allGood x = .ok (t, l)) : t.shape = s.shape := by
  unfold allGood at h
  split at h
  · cases h
  · cases h
    exact hx _ _ _ rfl
  · cases h

theorem State.imageRead_shape {s t : State} {p : Proc} {off n : Nat} {l : List Byte} (h : s.imageRead p off n = .ok (t, l)) :
    t.shape = s.shape := by
  unfold State.imageRead at h
  dsimp only at h
  split at h
  · split at h
    · cases h; rfl
    · exact State.allGood_shape (fun _ _ _ => State.ownRead_shape) h
  · split at h
    · cases h; rfl
    · exact State.allGood_shape (fun _ _ _ => State.areaRead_shape) h

@[simp] theorem State.imagePut_shape (s : State) (p : Proc) (off : Nat) (l : List Byte) : (s.imagePut p off l).shape = s.shape := by
  unfold State.imagePut
  split
  · exact State.imageWrite_shape ‹_›
  · exact State.areaFault_shape s _ _

@[simp] theorem State.syncImage_shape (s : State) (pid : Pid) (l : Proc → List (Nat × List Byte)) :
    (s.syncImage pid l).shape = s.shape := by
  unfold State.syncImage
  split
  · rfl
  · split
    · exact State.foldl_shape (fun s x => State.imagePut_shape s _ _ _) _ _
    · rfl

theorem State.pageToImage_shape {s t : State} {p : Proc} {k : Nat} {pg : Page} (h : s.pageToImage p k pg = .ok t) :
    t.shape = s.shape := by
  unfold State.pageToImage at h
  split at h
  · cases h
  next s1 h1 =>
    split at h
    · cases h
    next s2 h2 => exact (State.imageWrite_shape h).trans ((State.imageWrite_shape h2).trans (State.imageWrite_shape h1))

theorem State.pageFromImage_shape {s t : State} {p : Proc} {k : Nat} {pg : Page} (h : s.pageFromImage p k = .ok (t, pg)) :
    t.shape = s.shape := by
  unfold State.pageFromImage at h
  split at h
  · cases h
  next s1 _ h1 =>
    split at h
    · cases h
    next s2 _ h2 =>
      cases h
      exact (State.imageRead_shape h2).trans (State.imageRead_shape h1)

@[simp] theorem State.trapParked_shape (s : State) (pid : Pid) (t : TrapInfo) (w0 w1 : Word32) :
    (s.trapParked pid t w0 w1).shape = s.shape := by
  rw [State.trapParked, State.syncImage_shape, State.trapProc_shape]

/-! ### Completions -/

theorem Proc.wr_shape (p : Proc) (d : SReg) (v : Word) : (p.wr d v).shape = p.shape := by
  unfold Proc.wr
  split <;> rfl

theorem Proc.popRob_shape (p : Proc) (ip : Word) : (p.popRob ip).shape = p.shape := by
  unfold Proc.popRob
  repeat' split
  all_goals rfl

theorem Proc.take_shape (p : Proc) (w : Writes) : (p.take w).shape = p.shape := by
  have start : (if w.n = 0 then p else p.popRob p.ip).shape = p.shape := by
    split
    · rfl
    · exact p.popRob_shape _
  exact foldl_keeps (fun q : Proc => q.shape = p.shape) _ (fun q x h => (q.wr_shape x.1 x.2).trans h) w.s _ start

@[simp] theorem State.writeWhen_shape (s : State) (pid : Pid) (w : Writes) : (s.writeWhen pid w).shape = s.shape := by
  unfold State.writeWhen
  split
  · simp
  · rw [State.write, State.syncImage_shape]
    exact State.updProc_shape (fun p => p.take_shape w) s pid

@[simp] theorem State.complete_shape (s : State) (pid : Pid) (w : Writes) : (s.complete pid w).shape = s.shape := by
  rw [State.complete, State.enqueue_shape, State.writeWhen_shape]
  exact State.updProc_shape (fun _ => by rfl) s pid

@[simp] theorem State.acquire_shape (s : State) (pid : Pid) : (s.acquire pid).shape = s.shape := by
  unfold State.acquire
  repeat' split
  · rfl
  · exact State.updCore_shape (fun _ => by rfl) s _
  · rfl

@[simp] theorem State.opTrap_shape (s : State) (pid : Pid) (t : TrapInfo) : (s.opTrap pid t).shape = s.shape := by
  unfold State.opTrap
  split
  · rfl
  · rw [State.trapParked_shape]
    exact State.updProc_shape (fun _ => by rfl) s pid

/-! ### Cells and entries -/

@[simp] theorem State.updCell_shape (s : State) (id : Nat) (f : Cell → Cell) : (s.updCell id f).shape = s.shape := rfl

@[simp] theorem State.updEnd_shape (s : State) (id : Nat) (b : Bool) (f : EndSt → EndSt) : (s.updEnd id b f).shape = s.shape := rfl

@[simp] theorem State.updBar_shape (s : State) (id : Nat) (f : Barrier → Barrier) : (s.updBar id f).shape = s.shape := rfl

@[simp] theorem State.updEntry_shape (s : State) (part i : Nat) (f : Entry → Entry) : (s.updEntry part i f).shape = s.shape := rfl

@[simp] theorem State.unpost_shape (s : State) (id : Nat) (b : Bool) : (s.unpost id b).shape = s.shape := rfl

@[simp] theorem State.unbind_shape (s : State) (id : Nat) : (s.unbind id).shape = s.shape := rfl

@[simp] theorem State.dropEntry_shape (s : State) (c : Cell) (b : Bool) : (s.dropEntry c b).shape = s.shape := rfl

@[simp] theorem State.arriveAt_shape (s : State) (c : Cell) (i : Nat) : (s.arriveAt c i).shape = s.shape := rfl

@[simp] theorem State.freeCell_shape (s : State) (id : Nat) : (s.freeCell id).shape = s.shape := by
  unfold State.freeCell
  split
  · rfl
  · split <;> rfl

@[simp] theorem State.setKey_shape (s : State) (pid : Pid) (k : Key) : (s.setKey pid k).shape = s.shape :=
  State.updProc_shape (fun p => by split <;> rfl) s pid

@[simp] theorem State.freeKey_shape (s : State) (c : Cell) (b : Bool) : (s.freeKey c b).shape = s.shape := by
  unfold State.freeKey
  split
  · rfl
  · split <;> simp

/-! ### Pages that an operation sends and receives -/

@[simp] theorem State.logPool_shape (s : State) (part kind id : Nat) : (s.logPool part kind id).shape = s.shape :=
  State.shape_of_bare (State.logEntry_bare s _ _ _ _)

@[simp] theorem State.settlePage_shape (s : State) (id : Nat) : (s.settlePage id).shape = s.shape := by
  unfold State.settlePage
  split
  · split
    · rfl
    · exact State.logPool_shape _ _ _ _
  · rfl

theorem State.sendPage_shape {s t : State} {p : Proc} {k : Nat} {pg : Page} (h : s.sendPage p k = .ok (t, pg)) : t.shape = s.shape := by
  unfold State.sendPage at h
  split at h
  · cases h
    exact State.settlePage_shape s _
  · exact State.pageFromImage_shape h
  · cases h
    rfl

theorem State.sendRegs_shape {p : Proc} {l : List Nat} : ∀ {s t : State} {pages : List Page},
    s.sendRegs p l = .ok (t, pages) → t.shape = s.shape := by
  induction l with
  | nil =>
    intro s t pages h
    cases h
    rfl
  | cons k rest ih =>
    intro s t pages h
    rw [State.sendRegs] at h
    split at h
    · cases h
    next s1 pg sent =>
      cases more : s1.sendRegs p rest with
      | error e => rw [more] at h; cases h
      | ok r =>
        rw [more] at h
        cases h
        exact (ih more).trans (State.sendPage_shape sent)

theorem State.loaded_shape {s t : State} {o : Option Pid} {x y : Posted} (h : s.loaded o x = .ok (t, y)) : t.shape = s.shape := by
  have source {u : State} {l : List Page} (read : s.srcPages o x.src = .ok (u, l)) : u.shape = s.shape := by
    unfold State.srcPages at read
    split at read
    · cases read
      rfl
    · split at read
      · exact State.sendRegs_shape read
      · cases read
        rfl
  unfold State.loaded at h
  cases read : s.srcPages o x.src with
  | error e => rw [read] at h; cases h
  | ok r =>
    rw [read] at h
    cases h
    exact source read

@[simp] theorem State.sweep_shape (s : State) (pid : Pid) : (s.sweep pid).shape = s.shape := by
  unfold State.sweep
  split <;> rfl

theorem State.freshPages_shape (s : State) (p : Proc) (l : List Page) : (s.freshPages p l).1.shape = s.shape := rfl

@[simp] theorem State.mapGroup_shape (s : State) (pid : Pid) (d : TGrp) (l : List TRef) : (s.mapGroup pid d l).shape = s.shape := by
  rw [State.mapGroup, State.sweep_shape]
  exact State.updProc_shape (fun _ => by rfl) s pid

@[simp] theorem State.mapPages_shape (s : State) (pid : Pid) (d : TGrp) (l : List Page) : (s.mapPages pid d l).shape = s.shape := by
  unfold State.mapPages
  split
  · rfl
  · simp [State.freshPages_shape]

theorem State.deliver_shape {s t : State} {pid : Pid} {d : TGrp} {l : List Page} (h : s.deliver pid d l = some t) : t.shape = s.shape := by
  unfold State.deliver at h
  split at h
  · cases h
    rfl
  next p found =>
    split at h
    · cases h
      split <;> simp
    · split at h
      · cases h
        rw [State.syncImage_shape, State.mapGroup_shape]
        refine State.foldl_shape (fun u x => ?_) _ _
        split
        · exact State.pageToImage_shape ‹_›
        · simp
      · cases h

/-! ### What a pair gives -/

@[simp] theorem State.giveScalar_shape (s : State) (pid : Pid) (v : Word) (d : SReg) : (s.giveScalar pid v d).shape = s.shape := by
  simp [State.giveScalar]

@[simp] theorem State.sent_shape (s : State) (o : Option Pid) (n : Nat) : (s.sent o n).shape = s.shape := by
  unfold State.sent
  split <;> simp

@[simp] theorem State.giveXcol_shape (s : State) (o : Option Pid) (f : XFn) (a b : Word) (d : SReg) :
    (s.giveXcol o f a b d).shape = s.shape := by
  unfold State.giveXcol
  split
  · rfl
  · simp

theorem State.giveTx_shape {s t : State} {o : Option Pid} {g : TGrp} {l : List Page} {r : List Page × Flags}
    (h : s.giveTx o g l r = some t) : t.shape = s.shape := by
  unfold State.giveTx at h
  split at h
  · cases h
    rfl
  · obtain ⟨u, given, rfl⟩ := Option.map_eq_some_iff.1 h
    simpa using State.deliver_shape given

@[simp] theorem State.mismatchTrap_shape (s : State) (c : Cell) (o : Option Pid) : (s.mismatchTrap c o).shape = s.shape := by
  unfold State.mismatchTrap
  split <;> simp

@[simp] theorem State.clearPair_shape (s : State) (c : Cell) : (s.clearPair c).shape = s.shape := rfl

@[simp] theorem State.reachedEntry_shape (s : State) (e : Entry) : (s.reachedEntry e).shape = s.shape :=
  State.shape_of_bare (State.reachedEntry_bare s e)

theorem State.deviceReach_shape {f : State → State} (hf : ∀ s, (f s).shape = s.shape) (s : State) (part : Nat) (r : Except Halt Unit) :
    (s.deviceReach part r f).shape = s.shape := by
  unfold State.deviceReach
  split
  · exact hf s
  · simp
  · rfl

@[simp] theorem State.reachMoved_shape (s : State) (part : Nat) (pid : Pid) (h : Word32) : (s.reachMoved part pid h).shape = s.shape := by
  unfold State.reachMoved
  split
  · rfl
  · split
    · rfl
    · exact State.deviceReach_shape (fun t => State.reachedEntry_shape t _) s part _

@[simp] theorem State.giveHandle_shape (s : State) (src dst : Pid) (b d : EReg) : (s.giveHandle src dst b d).shape = s.shape := by
  unfold State.giveHandle
  split
  next p q _ _ =>
    have moved : (s.reachMoved p.part src p.e[b]).shape = s.shape := State.reachMoved_shape s _ _ _
    dsimp only
    split
    · rw [State.acquire_shape, State.complete_shape, State.complete_shape]
      exact moved
    · rw [State.complete_shape, State.complete_shape]
      exact moved
  next => rfl

theorem State.passScalar_shape {s t : State} {c : Cell} {v : Word} {d : SReg} {from_ to_ : Option Pid} {b : Bool}
    (h : s.passScalar c v d from_ to_ b = some t) : t.shape = s.shape := by
  unfold State.passScalar at h
  split at h
  · split at h
    · cases h
    · cases h
      simp
  · cases h
    split <;> simp

theorem State.passHandle_shape {s t : State} {c : Cell} {b d : EReg} {from_ to_ : Option Pid} {side : Bool}
    (h : s.passHandle c b d from_ to_ side = some t) : t.shape = s.shape := by
  unfold State.passHandle at h
  split at h
  · cases h
  · split at h
    · cases h
      simp
    · cases h
      simp

theorem State.passTiles_shape {s t : State} {c : Cell} {l : List Page} {d : TGrp} {from_ to_ : Option Pid} {side : Bool}
    (h : s.passTiles c l d from_ to_ side = some t) : t.shape = s.shape := by
  unfold State.passTiles at h
  split at h
  · cases h
  · split at h
    · cases h
      simp
    · split at h
      · cases h
      next given =>
        cases h
        simpa using State.deliver_shape given

theorem State.passOne_shape {s t : State} {c : Cell} {p : Pairing} {from_ to_ : Option Pid} {side : Bool}
    (h : s.passOne c p from_ to_ side = some t) : t.shape = s.shape := by
  unfold State.passOne at h
  split at h
  · exact State.passScalar_shape h
  · exact State.passHandle_shape h
  · exact State.passTiles_shape h
  · cases h

theorem State.pairLoaded_shape {s t : State} {c : Cell} {x y : Posted} (h : s.pairLoaded c x y = some t) : t.shape = s.shape := by
  unfold State.pairLoaded at h
  dsimp only at h
  split at h
  · exact State.passOne_shape h
  · split at h
    · exact State.passOne_shape h
    · split at h
      · split at h
        · cases h
        · split at h
          · cases h
            simp
          · cases h
      · split at h
        · cases h
        · obtain ⟨u, first, second⟩ := Option.bind_eq_some_iff.1 h
          exact (State.giveTx_shape second).trans ((State.giveTx_shape first).trans (State.clearPair_shape s c))
      · cases h
        simp

theorem State.pairUp_shape {s t : State} {c : Cell} {x y : Posted} (h : s.pairUp c x y = some t) : t.shape = s.shape := by
  unfold State.pairUp at h
  split at h
  · cases h
    simp
  next s1 x1 h1 =>
    split at h
    · cases h
      simp
    next s2 y1 h2 => exact (State.pairLoaded_shape h).trans ((State.loaded_shape h2).trans (State.loaded_shape h1))

/-! ### What an end decides -/

@[simp] theorem State.popRecord_shape (s : State) (part : Nat) : (s.popRecord part).shape = s.shape := by
  unfold State.popRecord
  split
  · rfl
  · exact State.updPart_shape (fun _ => by rfl) s part
  · exact (State.updPart_shape (fun _ => by rfl) _ part).trans (State.updProc_shape (fun _ => by rfl) s _)

@[simp] theorem State.failEnd_shape (s : State) (c : Cell) (b : Bool) (k : Cause) : (s.failEnd c b k).shape = s.shape := by
  unfold State.failEnd
  dsimp only
  split <;> simp

@[simp] theorem State.takeHeld_shape (s : State) (c : Cell) (b : Bool) (v : Word) (d : SReg) : (s.takeHeld c b v d).shape = s.shape := by
  unfold State.takeHeld
  dsimp only
  split <;> simp

theorem State.holdSend_shape {s t : State} {c : Cell} {b : Bool} {x : Posted} (h : s.holdSend c b x = some t) : t.shape = s.shape := by
  unfold State.holdSend at h
  dsimp only at h
  split at h
  · obtain ⟨-, given⟩ := Option.ite_none_right_eq_some.1 h
    cases given
    simp
  · cases h

theorem State.settleFault_shape {s t : State} {c : Cell} {b : Bool} {x : Posted} (h : s.settleFault c b x = some t) :
    t.shape = s.shape := by
  unfold State.settleFault at h
  split at h
  · split at h
    · split at h
      · split at h
        · cases h
        · obtain ⟨u, given, rfl⟩ := Option.map_eq_some_iff.1 h
          simpa using State.deliver_shape given
      · cases h
    · cases h
      simp
  · cases h
    simp

theorem State.settleBound_shape {s t : State} {c : Cell} {b : Bool} {x : Posted} (h : s.settleBound c b x = some t) :
    t.shape = s.shape := by
  unfold State.settleBound at h
  dsimp only at h
  split at h
  · cases h
    simp
  · split at h
    · split at h
      · cases h
        split <;> simp
      · cases h
        simp
    · exact State.holdSend_shape h

theorem State.settleEnd_shape {s t : State} {c : Cell} {b : Bool} {x : Posted} (h : s.settleEnd c b x = some t) : t.shape = s.shape := by
  unfold State.settleEnd at h
  dsimp only at h
  split at h
  · exact State.settleFault_shape h
  · split at h
    · split at h
      · exact State.settleBound_shape h
      · obtain ⟨-, given⟩ := Option.ite_none_left_eq_some.1 h
        cases given
        simp
    · split at h
      · cases h
        simp
      · exact State.settleBound_shape h
    · exact State.settleBound_shape h

theorem State.settle_shape {s t : State} {id : Nat} (h : s.settle id = some t) : t.shape = s.shape := by
  unfold State.settle at h
  split at h
  · cases h
  next c _ =>
    have posted {b : Bool} {o : Option Posted} {u : State} (g : o.bind (s.settleEnd c b) = some u) : u.shape = s.shape := by
      obtain ⟨x, _, decided⟩ := Option.bind_eq_some_iff.1 g
      exact State.settleEnd_shape decided
    dsimp only at h
    split at h
    next u first =>
      cases h
      exact posted first
    · split at h
      next u second =>
        cases h
        exact posted second
      · split at h
        · exact State.pairUp_shape (Option.ite_none_left_eq_some.1 h).2
        · cases h

@[simp] theorem State.settled_shape (s : State) (id : Nat) : (s.settled id).shape = s.shape := by
  unfold State.settled
  cases decided : s.settle id with
  | none => rfl
  | some t => exact State.settle_shape decided

/-! ### Ends and barriers that close -/

@[simp] theorem State.closeEnd_shape (s : State) (id : Nat) (b : Bool) : (s.closeEnd id b).shape = s.shape := by
  unfold State.closeEnd
  split
  · rfl
  · simp

@[simp] theorem State.withdraw_shape (s : State) (pid : Pid) : (s.withdraw pid).shape = s.shape := by
  unfold State.withdraw
  exact State.foldl_shape (fun t x => by simp) _ s

@[simp] theorem State.altReturn_shape (s : State) (pid : Pid) (c : Cell) (b : Bool) (arm : Nat) :
    (s.altReturn pid c b arm).shape = s.shape := by
  unfold State.altReturn
  split
  · rfl
  · split
    · dsimp only
      split <;> simp
    · rfl

theorem State.phaseCheck_shape (cell : Nat) : ∀ (fuel : Nat) (s : State), (s.phaseCheck cell fuel).shape = s.shape
  | 0, _ => rfl
  | fuel + 1, s => by
    unfold State.phaseCheck
    split
    · rfl
    next c _ =>
      split
      · rfl
      · split
        · dsimp only
          rw [State.phaseCheck_shape cell fuel]
          refine (State.foldl_shape (fun t w => ?_) _ _).trans rfl
          split
          · simp
          · simp
          · split
            · rfl
            · exact State.updProc_shape (fun _ => by rfl) _ _
          · rfl
        · rfl

@[simp] theorem State.closeBarrier_shape (s : State) (e : Entry) : (s.closeBarrier e).shape = s.shape := by
  unfold State.closeBarrier
  extract_lets s1 s2
  split
  · rfl
  · split
    · rfl
    · split
      · rfl
      · exact State.phaseCheck_shape _ _ s2

@[simp] theorem State.closeEntry_shape (s : State) (e : Entry) : (s.closeEntry e).shape = s.shape := by
  unfold State.closeEntry
  repeat' split
  all_goals simp

@[simp] theorem State.breakCell_shape (s : State) (id : Nat) : (s.breakCell id).shape = s.shape := by
  unfold State.breakCell
  split
  · rfl
  next c _ =>
    split
    · dsimp only
      refine (State.foldl_shape (fun t e => State.closeEntry_shape t e) _ _).trans ?_
      exact State.foldl_shape (fun t w => State.opTrap_shape t _ _) _ s
    · dsimp only
      simp only [State.freeCell_shape, State.dropEntry_shape]
      refine (State.foldl_shape (fun t b => ?_) _ _).trans (State.updCell_shape s id _)
      repeat' split
      all_goals simp

@[simp] theorem State.breakEntry_shape (s : State) (e : Entry) : (s.breakEntry e).shape = s.shape := by
  unfold State.breakEntry
  split
  · rfl
  · split
    · dsimp only
      rw [State.closeEntry_shape]
      repeat' split
      all_goals simp
    · dsimp only
      split <;> simp

@[simp] theorem State.touchAreas_shape (s : State) (pa n : Nat) : (s.touchAreas pa n).shape = s.shape := by
  unfold State.touchAreas
  exact (State.foldl_shape (fun t e => State.breakEntry_shape t e) _ _).trans
    (State.foldl_shape (fun t (c : Cell) => State.breakCell_shape t c.id) _ s)

/-! ### Scratchpad pages on their way -/

@[simp] theorem State.updDir_shape (s : State) (pid : Pid) (f : List (Nat × Nat) → List (Nat × Nat)) :
    (s.updDir pid f).shape = s.shape := by
  unfold State.updDir
  split
  · exact State.updProc_shape (fun _ => by rfl) s pid
  · exact State.updRec_shape s pid _

theorem State.asArea_eq {α : Type} {x : Except TrapInfo α} {a : α} (h : asArea x = .ok a) : x = .ok a := by
  unfold asArea at h
  split at h
  · cases h
    rfl
  · cases h

theorem State.sttGet_shape {s t : State} {pid : Pid} {v : Nat} {e : Word} (h : s.sttGet pid v = .ok (t, e)) : t.shape = s.shape := by
  unfold State.sttGet at h
  split at h
  · cases h
    rfl
  next p _ =>
    split at h
    · cases h
      rfl
    · split at h
      · cases h
      next s0 l read =>
        have start : s0.shape = s.shape := by
          unfold State.slotRead at read
          have area := State.asArea_eq read
          split at area
          · exact State.allGood_shape (fun _ _ _ => State.ownRead_shape) area
          · exact State.allGood_shape (fun _ _ _ => State.areaRead_shape) area
        dsimp only at h
        cases h
        split
        · rw [State.updCore_shape (fun _ => by rfl)]
          repeat' split
          all_goals simpa using start
        · repeat' split
          all_goals simpa using start

theorem State.sttPut_shape {s t : State} {pid : Pid} {v : Nat} {e : Word} (h : s.sttPut pid v e = .ok t) : t.shape = s.shape := by
  unfold State.sttPut at h
  split at h
  · cases h
    rfl
  next p _ =>
    cases put : s.slotWrite p (8 * v) (bytesOf 8 e.toNat) with
    | error x => rw [put] at h; cases h
    | ok u =>
      rw [put] at h
      cases h
      rw [State.updCore_shape (fun _ => by rfl)]
      unfold State.slotWrite at put
      have area := State.asArea_eq put
      split at area
      · exact State.ownPut_shape area
      · exact State.areaPut_shape area

@[simp] theorem State.losePad_shape (s : State) (p : Proc) (v id : Nat) : (s.losePad p v id).shape = s.shape := by
  unfold State.losePad
  extract_lets s0
  have start : s0.shape = s.shape := by
    unfold s0
    split <;> rfl
  split
  · simpa using start
  · exact start
  next s1 e got =>
    have read := (State.sttGet_shape got).trans start
    split
    next s2 put =>
      refine (State.mapCores_shape (fun _ => by rfl) s2).trans ((State.sttPut_shape put).trans ?_)
      rw [State.dropCopy, State.sweep_shape, State.updDir_shape]
      exact read
    · simpa using read
    · exact read

@[simp] theorem State.loseId_shape (s : State) (pid : Pid) (id : Nat) : (s.loseId pid id).shape = s.shape := by
  unfold State.loseId
  split
  · rfl
  · split
    · simp
    · rfl

@[simp] theorem State.carryPages_shape (s : State) (pid : Pid) (c : Nat) : (s.carryPages pid c).shape = s.shape := by
  unfold State.carryPages
  split
  · have moved (t : State) : (t.movePages pid c).shape = t.shape := by
      unfold State.movePages
      split <;> rfl
    dsimp only
    rw [moved]
    refine (State.foldl_shape (fun t id => State.loseId_shape t pid id) _ _).trans ?_
    exact State.foldl_shape (fun t (q : PoolPage) => State.settlePage_shape t q.id) _ s
  · rfl

end Sys2Proof.Machine
end

section
/-! Engines, walks and promotions, and the events that bring work to a core. -/

namespace Sys2Proof.Machine
open Sys2Proof Sys2Proof.Claims

/-! ### The nodes of a walk -/

/-- The caches of memory change and the charges of partitions, and nothing else. -/
def LinesKept (s t : State) : Prop := ∃ parts l2 garbled, t = { s with parts := parts, l2 := l2, garbled := garbled }

theorem LinesKept.refl (s : State) : LinesKept s s := ⟨s.parts, s.l2, s.garbled, rfl⟩

theorem LinesKept.trans {s t u : State} (h : LinesKept s t) (k : LinesKept t u) : LinesKept s u := by
  obtain ⟨p, l, g, rfl⟩ := h
  obtain ⟨p', l', g', rfl⟩ := k
  exact ⟨p', l', g', rfl⟩

theorem L2Kept.linesKept {s t : State} (h : L2Kept s t) : LinesKept s t := by
  obtain ⟨p, l, g, rfl, -⟩ := h
  exact ⟨p, l, g, rfl⟩

theorem LinesKept.bytes {s t : State} (h : LinesKept s t) : SameBytes s t := by
  obtain ⟨p, l, g, rfl⟩ := h
  exact fun _ => rfl

theorem LinesKept.quad {s t : State} (h : LinesKept s t) (q : Nat) : t.quad q = s.quad q := by
  obtain ⟨p, l, g, rfl⟩ := h
  rfl

theorem LinesKept.errs {s t : State} (h : LinesKept s t) (clean : s.errs = []) : t.errs = [] := by
  obtain ⟨p, l, g, rfl⟩ := h
  exact clean

theorem State.noteKey_linesKept (s : State) (key : Option Nat) (pa n : Nat) : LinesKept s (s.noteKey key pa n) := by
  unfold State.noteKey
  split
  · refine foldl_keeps (LinesKept s) _ (fun t sec h => h.trans ?_) _ s (LinesKept.refl s)
    split
    · exact LinesKept.refl t
    · exact ⟨t.parts, t.l2, _, rfl⟩
  · exact LinesKept.refl s

theorem State.noteRead_linesKept {s : State} {v : Via} {pa n : Nat} (hp : pa < hbmTop) (errs : s.errs = []) : LinesKept s (s.noteRead v pa n) := by
  rw [State.noteRead, State.flushFor_hbm s hp, State.readRange_clean errs]
  exact (s.noteKey_linesKept _ _ _).trans (State.fillL2_l2Kept _ _ _ _).linesKept

theorem State.prefetch_linesKept {s : State} (errs : s.errs = []) (p : Part) (level : Nat) (leaf : Word) (x : Prefetch) :
    LinesKept s (s.prefetch p level leaf x) := by
  unfold State.prefetch
  extract_lets pa
  split
  next here =>
    simp only [Bool.and_eq_true] at here
    exact State.noteRead_linesKept ((physRegion_hbm_iff pa).1 (eq_of_beq here.1.2)) errs
  next => exact LinesKept.refl s

theorem State.prefetches_linesKept {s : State} (errs : s.errs = []) (p : Part) (level : Nat) (leaf : Word) (l : List Prefetch) :
    LinesKept s (l.foldl (fun s x => s.prefetch p level leaf x) s) :=
  foldl_keeps (LinesKept s) _ (fun _ x kept => kept.trans (State.prefetch_linesKept (kept.errs errs) p level leaf x)) l s
    (LinesKept.refl s)

theorem lt_hbmTop_of_node {node i : Nat} (whole : node % 32768 = 0) (inside : node < hbmTop) (hi : i < 4096) : node + 8 * i < hbmTop := by
  simp only [hbmTop] at *
  omega

theorem State.walkReads_hbm {s : State} {p : Part} {va : Word} (fuel : Nat) :
    ∀ (node level : Nat), node % 32768 = 0 → ∀ a ∈ s.walkReads p node va level fuel, a < hbmTop := by
  induction fuel with
  | zero => exact fun node level _ a ha => absurd ha List.not_mem_nil
  | succ fuel ih =>
    intro node level whole a ha
    rw [State.walkReads] at ha
    split at ha
    next => exact absurd ha List.not_mem_nil
    next passes =>
      have inside : node < hbmTop := by
        rw [← physRegion_hbm_iff]
        by_contra away
        refine passes ?_
        unfold State.nodeCheck
        split
        · rfl
        · rfl
      have here : node + 8 * nodeIndex va.toNat level < hbmTop := lt_hbmTop_of_node whole inside (Nat.mod_lt _ (by decide))
      split at ha
      · obtain rfl | deeper := List.mem_cons.1 ha
        · exact here
        · exact ih _ _ (by simp only [tableNode]; omega) a deeper
      · obtain rfl := List.mem_singleton.1 ha
        exact here

section
variable {s : State} (errs : s.errs = []) (seals : s.seals = []) (garbled : s.garbled = [])
include errs seals garbled

theorem State.noteRead_plain {pa n : Nat} (hp : pa < hbmTop) (payer : Nat) : L2Kept s (s.noteRead (Via.of none payer) pa n) := by
  rw [State.noteRead, State.flushFor_hbm s hp, State.readRange_clean errs]
  exact (State.noteKey_none seals garbled _ _).symm ▸ State.fillL2_l2Kept _ _ _ _

theorem State.readNodes_plain (p : Part) (va : Word) : L2Kept s (s.readNodes p va) := by
  unfold State.readNodes
  split
  · refine List.foldlRecOn (motive := fun t => L2Kept s t) _ _ (L2Kept.refl s) fun t kept a ha => kept.trans ?_
    have inside := State.walkReads_hbm 3 p.rootNode 0 (by simp only [Part.rootNode]; omega) a ha
    obtain ⟨parts, l2, g, rfl, sub⟩ := kept
    refine State.noteRead_plain (by exact errs) (by exact seals) ?_ inside _
    exact List.eq_nil_of_sublist_nil (garbled ▸ sub)
  · exact L2Kept.refl s

/-- A walk reads the same where the L2 alone has changed. -/
theorem L2Kept.walkFrom {t : State} (kept : L2Kept s t) (p : Part) (va : Word) (fuel : Nat) :
    ∀ (node level : Nat), t.walkFrom p va node level fuel = s.walkFrom p va node level fuel := by
  have bytes (pa n : Nat) : t.bytesAs none pa n = s.bytesAs none pa n := by
    rw [kept.bytesAs_plain seals garbled, (L2Kept.refl s).bytesAs_plain seals garbled, kept.same.physBytes]
  have checks (node : Nat) : t.nodeCheck p va node = s.nodeCheck p va node := by
    obtain ⟨parts, l2, g, rfl, -⟩ := kept
    rfl
  have bad (pa n : Nat) : t.rangeBad pa n = s.rangeBad pa n := kept.rangeBad errs pa n
  induction fuel with
  | zero => exact fun _ _ => rfl
  | succ fuel ih =>
    intro node level
    simp only [State.walkFrom, bytes, checks, bad, ih]

theorem L2Kept.walkLeaf {t : State} (kept : L2Kept s t) (p : Part) (va : Word) : t.walkLeaf p va = s.walkLeaf p va := by
  have walk : t.walk p va = s.walk p va := by simp only [State.walk, kept.walkFrom errs seals garbled]
  unfold State.walkLeaf
  rw [walk]
  obtain ⟨parts, l2, g, rfl, -⟩ := kept
  rfl

/-- The walkers of a quad without a walk. -/
def State.walkOver (s : State) (q : Nat) (w : Walk) : State :=
  (s.readNodes (s.part w.part) (BitVec.ofNat 64 (w.page * 65536))).updQuad q (fun x => { x with walks := x.walks.filter (fun y => y != w) })

/-- The cached leaf of a walk. -/
def State.walkEntry (s : State) (w : Walk) (level : Nat) (leaf : Word) : TEntry :=
  let va : Word := BitVec.ofNat 64 (w.page * 65536)
  { asid := (s.part w.part).asid, level := level, vpn := va.toNat / 2 ^ pageBits level, leaf := leaf }

/-- The check of the leaf of a walk for its access. -/
def State.walkCheck (s : State) (w : Walk) (level : Nat) (leaf : Word) : Option TrapInfo :=
  (s.part w.part).checkLeaf w.sup w.va w.n .read (leafAddr level leaf w.va) leaf

def State.walkKeeps (s : State) (q : Nat) (w : Walk) (level : Nat) (leaf : Word) : State :=
  match s.walkCheck w level leaf with
  | some _ => s.walkOver q w
  | none => (s.walkOver q w).updQuad q (fun x => { x with
      tcache := (s.walkEntry w level leaf :: x.tcache.filter (fun y => y != s.walkEntry w level leaf)).take 2048 })

theorem State.quad_walkOver {q : Nat} (hq : q < 24) (w : Walk) :
    (s.walkOver q w).quad q = { s.quad q with walks := (s.quad q).walks.filter (fun y => y != w) } := by
  rw [State.walkOver, State.quad_updQuad _ _ _ hq, (State.readNodes_plain errs seals garbled _ _).linesKept.quad]

theorem State.walkOver_same (q : Nat) (w : Walk) : SameMem s (s.walkOver q w) :=
  (State.readNodes_plain errs seals garbled _ _).same.trans (State.updQuad_same _ _ _)

theorem State.walkKeeps_spec {q : Nat} (hq : q < 24) (w : Walk) (level : Nat) (leaf : Word) :
    let u := s.walkKeeps q w level leaf
    SameMem s u ∧ u.errs = [] ∧ (u.quad q).walks = (s.quad q).walks.filter (fun x => x != w)
      ∧ (s.walkCheck w level leaf = none → s.walkEntry w level leaf ∈ (u.quad q).tcache)
      ∧ (s.walkCheck w level leaf ≠ none → (u.quad q).tcache = (s.quad q).tcache) := by
  have left_ := State.walkOver_same errs seals garbled q w
  have quad := State.quad_walkOver errs seals garbled hq w
  have clean : (s.walkOver q w).errs = [] :=
    (State.updQuad_errs _ _ _).trans ((State.readNodes_plain errs seals garbled _ _).linesKept.errs errs)
  unfold State.walkKeeps
  split
  next t fails => exact ⟨left_, clean, by rw [quad], fun passes => (by rw [fails] at passes; cases passes), fun _ => by rw [quad]⟩
  next passes =>
    refine ⟨left_.trans (State.updQuad_same _ _ _), (State.updQuad_errs _ _ _).trans clean, ?_, fun _ => ?_, fun fails =>
      absurd passes fails⟩
    · rw [State.quad_updQuad _ _ _ hq, quad]
    · rw [State.quad_updQuad _ _ _ hq]
      exact List.mem_cons_self

theorem State.finishWalk_fault {q : Nat} {w : Walk} (leaf : s.walkLeaf (s.part w.part) (BitVec.ofNat 64 (w.page * 65536)) = none) :
    s.finishWalk q w = s.walkOver q w := by
  simp only [State.finishWalk, (State.readNodes_plain errs seals garbled _ _).walkLeaf errs seals garbled, leaf]
  rfl

theorem State.finishWalk_leaf {q : Nat} {w : Walk} {level : Nat} {leaf : Word}
    (found : s.walkLeaf (s.part w.part) (BitVec.ofNat 64 (w.page * 65536)) = some (level, leaf)) :
    s.finishWalk q w = w.rows.foldl (fun t x => t.prefetch (s.part w.part) level leaf x) (s.walkKeeps q w level leaf) := by
  simp only [State.finishWalk, (State.readNodes_plain errs seals garbled _ _).walkLeaf errs seals garbled, found]
  rfl

/-- What a walk that ends leaves: its quad without it, with its leaf where that passes every check. -/
theorem State.finishWalk_spec {q : Nat} (hq : q < 24) (w : Walk) :
    let va : Word := BitVec.ofNat 64 (w.page * 65536)
    let t := s.finishWalk q w
    SameBytes s t ∧ (t.quad q).walks = (s.quad q).walks.filter (fun x => x != w)
      ∧ (∀ level leaf, s.walkLeaf (s.part w.part) va = some (level, leaf) → s.walkCheck w level leaf = none →
          ∃ x ∈ (t.quad q).tcache, x.leaf = leaf ∧ x.level = level ∧ x.asid = (s.part w.part).asid)
      ∧ ((∀ level leaf, s.walkLeaf (s.part w.part) va = some (level, leaf) → s.walkCheck w level leaf ≠ none) →
          (t.quad q).tcache = (s.quad q).tcache) := by
  dsimp only
  cases found : s.walkLeaf (s.part w.part) (BitVec.ofNat 64 (w.page * 65536)) with
  | none =>
    rw [State.finishWalk_fault errs seals garbled found, State.quad_walkOver errs seals garbled hq]
    exact ⟨(State.walkOver_same errs seals garbled q w).bytes, rfl, fun _ _ h => (by cases h), fun _ => rfl⟩
  | some x =>
    obtain ⟨level, leaf⟩ := x
    obtain ⟨same, clean, walks, passes, fails⟩ := State.walkKeeps_spec errs seals garbled hq w level leaf
    have rows := State.prefetches_linesKept clean (s.part w.part) level leaf w.rows
    rw [State.finishWalk_leaf errs seals garbled found, rows.quad]
    refine ⟨fun pa => (rows.bytes pa).trans (same.bytes pa), walks, fun l f h check => ?_, fun bad => fails (bad _ _ rfl)⟩
    cases h
    exact ⟨_, passes check, rfl, rfl, rfl⟩

end

end Sys2Proof.Machine
end

section
/-! Engines that take and complete entries, and the events that bring work to a core. -/

namespace Sys2Proof.Machine
open Sys2Proof Sys2Proof.Claims

/-! ### The context that an event works on -/

theorem State.cur_switchTo {s : State} {pid : Pid} {p : Proc} (found : s.proc? pid = some p) : (s.switchTo pid).cur = p := by
  unfold State.proc? at found
  split at found
  · cases found
  · unfold State.switchTo
    split at found
    next here =>
      cases found
      rw [if_pos here]
    next away =>
      rw [if_neg away, found]

/-- The context that executed stays there when another one takes its place. -/
theorem State.proc?_switchTo_cur {s : State} (named : s.cur.pid ≠ 0) (q : Pid) : (s.switchTo q).proc? s.cur.pid = some s.cur := by
  unfold State.switchTo
  split
  · rw [State.proc?, if_neg named, if_pos rfl]
  next away =>
    split
    · rw [State.proc?, if_neg named, if_pos rfl]
    next p found =>
      have pid : p.pid = q := by simpa using List.find?_some found
      rw [State.proc?, if_neg named, if_neg (by rw [pid]; exact fun h => away h.symm)]
      simp

theorem State.pid_ne_zero {s : State} {pid : Pid} {p : Proc} (found : s.proc? pid = some p) : pid ≠ 0 := by
  intro none
  rw [State.proc?, if_pos none] at found
  cases found

/-! ### What an engine serves -/

theorem mem_of_rotate {last : BitVec 6 → Nat} {l : List (Nat × Proc)} {x : Nat × Proc} (h : rotate last l = some x) : x ∈ l := by
  obtain ⟨i, _, found⟩ := List.exists_of_findSome?_eq_some h
  exact List.mem_of_find?_eq_some found

/-- A context that an engine serves has an unstarted entry for it. -/
theorem State.served_spec {s : State} {c : Nat} {e : Engine} {x : Nat × Proc} (h : s.served c e = some x) :
    s.proc? x.2.pid = some x.2 ∧ ∃ older r, nextFor e [] x.2.rob = some (older, r) := by
  unfold State.served at h
  split at h
  · cases h
  · obtain ⟨i, _, picked⟩ := List.mem_filterMap.1 (mem_of_rotate h)
    split at picked
    next p found =>
      split at picked
      next older r next_ =>
        obtain ⟨-, same⟩ := Option.ite_none_right_eq_some.1 picked
        cases same
        exact ⟨State.proc?_of_inSlot found, older, r, next_⟩
      next => cases picked
    next => cases picked

theorem nextFor_one {e : Engine} {x r : RobEntry} {older : List RobEntry} (h : nextFor e [] [x] = some (older, r)) :
    older = [] ∧ r = x ∧ x.eng = some e ∧ x.started = false := by
  simp only [nextFor] at h
  split at h
  next waits =>
    cases h
    exact ⟨rfl, rfl, waits.1, by simpa using waits.2⟩
  next => cases h

theorem findSome?_eq_of_unique {α β : Type} {f : α → Option β} {l : List α} {a : α} {b : β} (mem : a ∈ l) (found : f a = some b)
    (only : ∀ x ∈ l, f x ≠ none → x = a) : l.findSome? f = some b := by
  induction l with
  | nil => cases mem
  | cons x l ih =>
    cases here : f x with
    | some y =>
      obtain rfl := only x List.mem_cons_self (by rw [here]; exact Option.some_ne_none y)
      rw [List.findSome?_cons, found]
    | none =>
      rw [List.findSome?_cons, here]
      refine ih ((List.mem_cons.1 mem).resolve_left fun same => ?_) fun z hz => only z (List.mem_cons_of_mem x hz)
      rw [← same, found] at here
      cases here

theorem mem_engines (e : Engine) : e ∈ engines := by cases e <;> decide

/-! ### The start of an entry -/

theorem State.rowWalks_bare (s : State) (base : Word) (g : Geom) (n : Nat) (index : Option TReg) : (s.rowWalks base g n index).bare = s.bare := by
  unfold State.rowWalks
  split
  · rfl
  · split
    · rfl
    · dsimp only
      split
      · exact State.foldl_bare (fun t va => State.noteWalk_bare t _ _ _) _ s
      · rfl

theorem State.rowWalks_calm {s : State} (c : Calm s) (base : Word) (g : Geom) (n : Nat) (index : Option TReg) :
    CacheKept s (s.rowWalks base g n index) := by
  unfold State.rowWalks
  split
  · exact CacheKept.refl s
  · split
    · exact CacheKept.refl s
    · dsimp only
      split
      · exact CacheKept.foldl _ (fun t va h => State.noteWalk_calm h _ _ _) _ c
      · exact CacheKept.refl s

theorem State.rowCache_bare (s : State) (k : Access) (rows : List (List (Word × Nat × Nat))) : (s.rowCache k rows).bare = s.bare := by
  unfold State.rowCache
  refine State.foldl_bare (fun t x => ?_) _ s
  split
  · exact State.cacheXlate_bare t _ _ _ _
  · rfl

/-- The rows that a memory form translates when it starts. -/
def State.startRows (s : State) (f : Ahead) (i : Instr) : Option Early :=
  (memForm i).map (fun m => (((s.withAhead f).rowWalks (f.rd m.base) (geomOf f.g[m.geo]) m.n m.index).withAhead f).translated m)

/-- The walks that the rows of a memory form need when it starts. -/
def State.startWalks (s : State) (f : Ahead) (m : MemForm) : State :=
  (s.withAhead f).rowWalks (f.rd m.base) (geomOf f.g[m.geo]) m.n m.index

theorem State.startWalks_procs (s : State) (f : Ahead) (m : MemForm) : (s.startWalks f m).procs = s.procs := by
  have walked := State.procs_of_bare (State.rowWalks_bare (s.withAhead f) (f.rd m.base) (geomOf f.g[m.geo]) m.n m.index)
  exact walked

/-- The instructions of a context behind the start of one. -/
def State.startedRob (s : State) (older : List RobEntry) (r : RobEntry) (f : Ahead) : List RobEntry :=
  older ++ { r with started := true, early := s.startRows f r.instr } :: s.cur.rob.drop (older.length + 1)

section
variable {s : State} {e : Engine} {older : List RobEntry} {r : RobEntry} (h : nextFor e [] s.cur.rob = some (older, r))
include h

theorem State.startEntry_plain (form : memForm r.instr = none) : s.startEntry e
    = { s with cur := { s.cur with rob := s.startedRob older r (((older.getLast?).map RobEntry.ahead).getD s.cur.base) } } := by
  have rows (f : Ahead) : s.startRows f r.instr = none := by
    rw [State.startRows, form]
    rfl
  rw [State.startedRob, rows]
  simp only [State.startEntry, h, form, Option.map_none]

theorem State.startEntry_mem {m : MemForm} (form : memForm r.instr = some m) :
    let f := ((older.getLast?).map RobEntry.ahead).getD s.cur.base
    s.startEntry e = { (s.startWalks f m).rowCache m.kind (((s.startWalks f m).withAhead f).translated m).rows with
      cur := { s.cur with rob := s.startedRob older r f } } := by
  extract_lets f
  have rows : s.startRows f r.instr = some (((s.startWalks f m).withAhead f).translated m) := by
    rw [State.startRows, form]
    rfl
  rw [State.startedRob, rows]
  simp only [State.startEntry, h, form, Option.map_some]
  rfl

theorem State.startEntry_spec :
    let f := ((older.getLast?).map RobEntry.ahead).getD s.cur.base
    (s.startEntry e).cur = { s.cur with rob := s.startedRob older r f } ∧ (s.startEntry e).procs = s.procs
      ∧ (Calm s → SameMem s (s.startEntry e)) := by
  extract_lets f
  cases form : memForm r.instr with
  | none =>
    rw [State.startEntry_plain h form]
    exact ⟨rfl, rfl, fun _ => ⟨rfl, rfl, rfl, rfl⟩⟩
  | some m =>
    rw [State.startEntry_mem h form]
    refine ⟨rfl, ?_, fun calm => ?_⟩
    · exact (State.procs_of_bare (State.rowCache_bare _ _ _)).trans (State.startWalks_procs s f m)
    · have walked := (State.rowWalks_calm (s := s.withAhead f) calm (f.rd m.base) (geomOf f.g[m.geo]) m.n m.index).same
      obtain ⟨a, b, c, d⟩ := walked.trans (State.rowCache_same _ m.kind _)
      exact ⟨a, b, c, d⟩

end

theorem exec_tileDispatch {s : State} {p : Proc} {c slot : Nat} {e : Engine} (runs : s.coreRuns c = true)
    (serves : s.served c e = some (slot, p)) (only : ∀ e' x, s.served c e' = some x → x.2.pid = p.pid → e' = e) :
    exec (.tileDispatch c p.pid) s = .next ((((s.switchTo p.pid).startEntry e).switchTo s.cur.pid).updCore c
      (fun k => { k with engLast := k.engLast.set e.index (Fin.ofNat 4 slot) })) := by
  have takes : tryTileDispatch c p.pid s = some ((((s.switchTo p.pid).startEntry e).switchTo s.cur.pid).updCore c
      (fun k => { k with engLast := k.engLast.set e.index (Fin.ofNat 4 slot) })) := by
    rw [tryTileDispatch, runs, if_neg (by decide)]
    refine findSome?_eq_of_unique (mem_engines e) ?_ fun e' _ some_ => ?_
    · simp only [serves, if_true]
    · split at some_
      next slot' q serves' =>
        refine only e' (slot', q) serves' ?_
        by_contra other
        exact some_ (if_neg other)
      next => exact absurd rfl some_
  change s.occur (tryTileDispatch c p.pid s) = _
  rw [takes]
  rfl

/-! ### The end of an entry on an engine -/

theorem State.dropL1_cur (s : State) (c pa n : Nat) : (s.dropL1 c pa n).cur = s.cur := State.updCore_cur _ _ _

theorem State.dropL1_procs (s : State) (c pa n : Nat) : (s.dropL1 c pa n).procs = s.procs := State.updCore_procs _ _ _

/-- A read of pieces changes of the processes only what the context has reached. -/
theorem State.readPieces_cur (hint : Hint) (l : List (Word × Nat × Nat)) (s : State) :
    (s.readPieces hint l).procs = s.procs ∧ ∃ acc, (s.readPieces hint l).cur = { s.cur with acc := acc } := by
  refine foldl_keeps (fun t : State => t.procs = s.procs ∧ ∃ acc, t.cur = { s.cur with acc := acc }) _ (fun t x h => ?_) l s
    ⟨rfl, s.cur.acc, rfl⟩
  obtain ⟨procs, acc, cur⟩ := h
  have step (u : State) (same : u.cur = t.cur) (others : u.procs = t.procs) :
      (u.noteReach x.2.1).procs = s.procs ∧ ∃ acc, (u.noteReach x.2.1).cur = { s.cur with acc := acc } := by
    obtain ⟨acc', reach⟩ := u.cur.noteReach_eq u.cycle u.curCore x.2.1
    refine ⟨others.trans procs, acc', ?_⟩
    rw [State.noteReach, reach, same, cur]
  have read := State.noteRead_bare t { key := t.keyAt t.curCore t.curPart x.1, payer := some t.cur.part, hint := hint } x.2.1 x.2.2
  exact step _ ((State.dropL1_cur _ _ _ _).trans (State.cur_of_bare read)) ((State.dropL1_procs _ _ _ _).trans (State.procs_of_bare read))

/-- What an engine that ends its work leaves of an entry. -/
theorem State.readEntry_spec (s : State) (r : RobEntry) :
    (s.readEntry r).2 = { r with done := true, early := (s.readEntry r).2.early } ∧ (s.readEntry r).1.procs = s.procs
      ∧ (∃ acc, (s.readEntry r).1.cur = { s.cur with acc := acc })
      ∧ (memForm r.instr = none → (s.readEntry r).2.early = r.early ∧ (s.readEntry r).1 = s) := by
  unfold State.readEntry
  split
  next m e form early =>
    split
    · exact ⟨rfl, rfl, ⟨s.cur.acc, rfl⟩, fun none => ⟨rfl, rfl⟩⟩
    · split
      · exact ⟨rfl, rfl, ⟨s.cur.acc, rfl⟩, fun none => by rw [form] at none; cases none⟩
      · obtain ⟨procs, acc⟩ := State.readPieces_cur (hintOfForm r.instr) e.rows.flatten s
        exact ⟨rfl, procs, acc, fun none => by rw [form] at none; cases none⟩
  next => exact ⟨rfl, rfl, ⟨s.cur.acc, rfl⟩, fun none => ⟨rfl, rfl⟩⟩

/-! ### Dispatch and completion -/

/-- A dispatch starts the entry that the engine serves next. -/
theorem tileDispatch_starts {s : State} {p : Proc} {c slot : Nat} {older : List RobEntry} {r : RobEntry} {e : Engine}
    (found : s.proc? p.pid = some p) (runs : s.coreRuns c = true) (serves : s.served c e = some (slot, p))
    (next_ : nextFor e [] p.rob = some (older, r)) (only : ∀ e' x, s.served c e' = some x → x.2.pid = p.pid → e' = e) :
    let v := s.switchTo p.pid
    let f := ((older.getLast?).map RobEntry.ahead).getD p.base
    ∃ t, exec (.tileDispatch c p.pid) s = .next t ∧ (Calm s → SameBytes s t)
      ∧ ProcAt t p.pid (fun x => x = { p with
          rob := older ++ { r with started := true, early := v.startRows f r.instr } :: p.rob.drop (older.length + 1) }) := by
  extract_lets v f
  have here : v.cur = p := State.cur_switchTo found
  obtain ⟨cur, _, same⟩ := State.startEntry_spec (s := v) (e := e) (older := older) (r := r) (by rw [here]; exact next_)
  rw [State.startedRob, here] at cur
  refine ⟨_, exec_tileDispatch runs serves only, fun calm => ?_, _, ?_, rfl⟩
  · have moved := State.switchTo_same s p.pid
    have calm' : Calm v := ⟨(State.switchTo_errs s p.pid).trans calm.1, (State.switchTo_outbox s p.pid).trans calm.2⟩
    exact (((moved.trans (same calm')).trans (State.switchTo_same _ _)).trans (State.updCore_same _ _ _)).bytes
  · have named : (v.startEntry e).cur.pid ≠ 0 := by
      rw [cur]
      exact State.pid_ne_zero found
    have stays := State.proc?_switchTo_cur named s.cur.pid
    rw [cur] at stays
    rw [State.updCore_proc?]
    exact stays

/-- The place that a completion picks holds a started entry that is not done. -/
theorem completion_place {l : List RobEntry} (some_ : ∃ x ∈ l, x.started = true ∧ x.done = false) (draw : Nat) :
    let places := (List.range l.length).filter (fun k => (l[k]?).any (fun r => r.started && !r.done))
    ∃ k x, places[draw % places.length]? = some k ∧ l[k]? = some x ∧ x.started = true ∧ x.done = false := by
  extract_lets places
  obtain ⟨x, hx, started, waits⟩ := some_
  obtain ⟨i, hi, at_⟩ := List.getElem_of_mem hx
  have mem : i ∈ places := List.mem_filter.2 ⟨List.mem_range.2 hi, by simp [hi, at_, started, waits]⟩
  have inside : draw % places.length < places.length := Nat.mod_lt _ (List.length_pos_of_mem mem)
  have picked := List.mem_filter.1 (List.getElem_mem inside)
  obtain ⟨y, hy, fits⟩ := (Option.any_eq_true _ _).1 picked.2
  simp only [Bool.and_eq_true, Bool.not_eq_true'] at fits
  exact ⟨_, y, List.getElem?_eq_getElem inside, hy, fits.1, fits.2⟩

theorem exec_engineCompletion {s : State} {p : Proc} {c : Nat} (found : s.proc? p.pid = some p) (there : p.core = c)
    (resident : p.isResident = true) (runs : s.coreRuns c = true) (some_ : ∃ x ∈ p.rob, x.started = true ∧ x.done = false) :
    ∃ t k x y, exec (.engineCompletion c p.pid) s = .next t ∧ p.rob[k]? = some x ∧ x.started = true ∧ x.done = false
      ∧ y = { x with done := true, early := y.early }
      ∧ ProcAt t p.pid (fun z => z = { p with rob := p.rob.set k y, acc := z.acc })
      ∧ (memForm x.instr = none → y.early = x.early ∧ SameBytes s t) := by
  obtain ⟨k, x, place, at_, started, waits⟩ := completion_place some_ (Config.freeIndex s.draws)
  let v := s.drew.switchTo p.pid
  have here : v.cur = p := State.cur_switchTo (s := s.drew) found
  obtain ⟨done, _, ⟨acc, cur⟩, plain⟩ := State.readEntry_spec v x
  let y := (v.readEntry x).2
  let u : State := { (v.readEntry x).1 with cur := { (v.readEntry x).1.cur with rob := (v.readEntry x).1.cur.rob.set k y } }
  refine ⟨u.switchTo s.cur.pid, k, x, y, ?_, at_, started, waits, done, ⟨{ p with rob := p.rob.set k y, acc := acc }, ?_, rfl⟩,
    fun none => ⟨(plain none).1, ?_⟩⟩
  · change s.occur (tryEngineCompletion c p.pid s) = _
    simp only [tryEngineCompletion, found, Option.bind_some, there, resident, runs]
    rw [if_pos (by decide), place, Option.bind_some, at_]
    rfl
  · have new : u.cur = { p with rob := p.rob.set k y, acc := acc } := by
      simp only [u, cur, here]
    have named : u.cur.pid ≠ 0 := by
      rw [new]
      exact State.pid_ne_zero found
    have stays := State.proc?_switchTo_cur named s.cur.pid
    rwa [new] at stays
  · have start : SameMem s v := (State.drew_same s).trans (State.switchTo_same s.drew p.pid)
    have entry : SameMem v u := by
      rw [show u = { v with cur := { v.cur with rob := v.cur.rob.set k y } } by simp only [u, (plain none).2]]
      exact ⟨rfl, rfl, rfl, rfl⟩
    exact ((start.trans entry).trans (State.switchTo_same u _)).bytes

/-! ### Walks and promotions -/

theorem exec_walkComplete {s : State} {q : Nat} (waits : (s.quad q).walks ≠ []) :
    ∃ w ∈ (s.quad q).walks.take 4, exec (.walkComplete q) s = .next (s.drew.finishWalk q w) := by
  have some_ : 0 < ((s.quad q).walks.take 4).length := by
    rw [List.length_take]
    exact Nat.lt_min.2 ⟨by decide, List.length_pos_iff.2 waits⟩
  have inside : Config.freeIndex s.draws % ((s.quad q).walks.take 4).length < ((s.quad q).walks.take 4).length := Nat.mod_lt _ some_
  refine ⟨_, List.getElem_mem inside, ?_⟩
  change s.occur (tryWalkComplete q s) = _
  simp only [tryWalkComplete]
  rw [List.getElem?_eq_getElem inside]
  rfl

theorem State.drew_walkFrom (s : State) (p : Part) (va : Word) (fuel : Nat) :
    ∀ (node level : Nat), s.drew.walkFrom p va node level fuel = s.walkFrom p va node level fuel := by
  have bytes (pa n : Nat) : s.drew.bytesAs none pa n = s.bytesAs none pa n := by
    unfold State.bytesAs
    rw [(State.drew_same s).physBytes]
    rfl
  have checks (node : Nat) : s.drew.nodeCheck p va node = s.nodeCheck p va node := rfl
  have bad (pa n : Nat) : s.drew.rangeBad pa n = s.rangeBad pa n := rfl
  induction fuel with
  | zero => exact fun _ _ => rfl
  | succ fuel ih =>
    intro node level
    simp only [State.walkFrom, bytes, checks, bad, ih]

theorem State.drew_walkLeaf (s : State) (p : Part) (va : Word) : s.drew.walkLeaf p va = s.walkLeaf p va := by
  have walk : s.drew.walk p va = s.walk p va := by simp only [State.walk, State.drew_walkFrom]
  unfold State.walkLeaf
  rw [walk]
  rfl

/-- What a walk of a quad that ends leaves. -/
theorem walkComplete_ends {s : State} {q : Nat} (waits : (s.quad q).walks ≠ []) (hq : q < 24) (errs : s.errs = []) (seals : s.seals = [])
    (garbled : s.garbled = []) :
    ∃ t, ∃ w ∈ (s.quad q).walks.take 4, exec (.walkComplete q) s = .next t ∧ SameBytes s t
      ∧ (t.quad q).walks = (s.quad q).walks.filter (fun x => x != w)
      ∧ (∀ level leaf, s.walkLeaf (s.part w.part) (BitVec.ofNat 64 (w.page * 65536)) = some (level, leaf) →
          s.walkCheck w level leaf = none →
          ∃ x ∈ (t.quad q).tcache, x.leaf = leaf ∧ x.level = level ∧ x.asid = (s.part w.part).asid)
      ∧ ((∀ level leaf, s.walkLeaf (s.part w.part) (BitVec.ofNat 64 (w.page * 65536)) = some (level, leaf) →
            s.walkCheck w level leaf ≠ none) →
          (t.quad q).tcache = (s.quad q).tcache) := by
  obtain ⟨w, hw, run⟩ := exec_walkComplete waits
  obtain ⟨bytes, walks, passes, fails⟩ := State.finishWalk_spec (s := s.drew) errs seals garbled hq w
  simp only [State.drew_walkLeaf] at passes fails
  exact ⟨_, w, hw, run, bytes, walks, passes, fails⟩

theorem exec_starvationPromotion {s : State} {c : Nat} (waits : s.starved c ≠ []) :
    exec (.starvationPromotion c) s = .next (s.updCore c (fun k => { k with
      promoted := Vector.ofFn (fun i : Fin 4 => k.promoted[i] || decide (4096 ≤ k.unchosen[i])) })) := by
  change s.occur (tryStarvationPromotion c s) = _
  rw [tryStarvationPromotion, if_neg (by simpa using waits)]
  rfl

theorem promoted_iff {s : State} {c i : Nat} (hc : c < 90) (hi : i < 4) :
    ((s.updCore c (fun k => { k with
      promoted := Vector.ofFn (fun i : Fin 4 => k.promoted[i] || decide (4096 ≤ k.unchosen[i])) })).core c).promoted[i] = true
      ↔ (s.core c).promoted[i] = true ∨ 4096 ≤ (s.core c).unchosen[i] := by
  rw [State.core_updCore _ _ _ hc]
  simp

/-! ### Slots and steals -/

theorem exec_slotFill {s : State} {c k : Nat} {r : Rec} (may : s.mayFill c k = true) (picked : s.ownerPick c = some r)
    (here : r.spill = none) : exec (.slotFill c k) s = .next ((s.dropRec c r.pid).startRec c k r) := by
  change s.occur (trySlotFill c k s) = _
  simp only [trySlotFill, if_pos may, State.fillOwn, picked, State.takeRec, State.refill_present s here]
  rfl

/-- The state in which a deque controller serves the request of core c. -/
def State.asked (s : State) (v c : Nat) : State := s.updCore v (fun k => { k with reqs := k.reqs.erase c })

section
variable (s : State) (v c : Nat)

theorem State.asked_core (d : Nat) : (s.asked v c).core d = { s.core d with reqs := ((s.asked v c).core d).reqs } := by
  by_cases same : d = v
  · subst same
    by_cases inside : d < 90
    · rw [State.asked, State.core_updCore _ _ _ inside]
    · simp [State.core, inside]
  · rw [State.asked, State.core_updCore_other _ _ _ _ same]

theorem State.asked_part (n : Nat) : (s.asked v c).part n = s.part n := by
  rw [State.part, State.part?, State.asked, State.updCore_parts]
  rfl

theorem State.asked_eligible (d : Nat) : (s.asked v c).eligible d = s.eligible d := by
  have phys (d : Nat) : ((s.asked v c).core d).phys = (s.core d).phys := by rw [State.asked_core]
  have quad (d : Nat) : (s.asked v c).quadOf d = s.quadOf d := by simp only [State.quadOf, phys]
  funext r
  simp only [State.eligible, State.asked_part, State.within, quad]

theorem State.asked_coreOpen (d : Nat) : (s.asked v c).coreOpen d = s.coreOpen d := by
  simp [State.asked, State.coreOpen, State.powered, State.die]

theorem State.asked_thiefPick (d e : Nat) : (s.asked v c).thiefPick d e = s.thiefPick d e := by
  simp only [State.thiefPick, State.asked_eligible]
  rw [State.asked_core]
  rfl

theorem State.asked_ownerTakes (d : Nat) (r : Rec) : (s.asked v c).ownerTakes d r = s.ownerTakes d r := by
  have pick : (s.asked v c).ownerPick d = s.ownerPick d := by
    simp only [State.ownerPick, State.asked_eligible]
    rw [State.asked_core]
    rfl
  have idle : (s.asked v c).idleSlots d = s.idleSlots d := by
    simp only [State.idleSlots]
    rw [State.asked_core]
  simp only [State.ownerTakes, pick, idle, State.asked_coreOpen]

end

theorem State.giveRecord_present {s : State} {v c n : Nat} {r : Rec} (picked : s.thiefPick v c = some r) (left_ : s.ownerTakes v r = false)
    (here : r.spill = none) : s.giveRecord v c (n + 1) = (s.dropRec v r.pid, some r) := by
  simp only [State.giveRecord, picked, left_, State.refill_present s here]
  rw [← here]
  rfl

/-- The answer that a victim puts on the way to a thief. -/
def Core.answered (r : Rec) (k : Core) : Core := { k with steal := k.steal.map (fun st => { st with answer := some (some r) }) }

theorem exec_stealRequest {s : State} {c v : Nat} {r : Rec} {st : Steal} (hc : c < 90) (first_ : s.firstThief v = some c)
    (open_ : s.coreOpen v = true) (search : (s.core c).steal = some st) (picked : s.thiefPick v c = some r)
    (left_ : s.ownerTakes v r = false) (here : r.spill = none) :
    ∃ t, exec (.stealRequest v) s = .next t ∧ (t.core c).steal = some { st with answer := some (some r) } := by
  let u := ((s.asked v c).dropRec v r.pid).updCore c (Core.answered r)
  refine ⟨u.updCore v (fun k => { k with rotPtr := ((u.core c).phys + 1) % 96 }), ?_, ?_⟩
  · change s.occur (tryStealRequest v s) = _
    have gives := State.giveRecord_present (n := ((s.asked v c).core v).records.length)
      ((s.asked_thiefPick v c v c).trans picked) ((s.asked_ownerTakes v c v r).trans left_) here
    have opens := (s.asked_coreOpen v c v).trans open_
    rw [State.asked] at gives opens
    simp only [tryStealRequest, first_, opens, if_true, gives]
    rfl
  · have found : ((s.core c).steal.map (fun st => ({ st with answer := some (some r) } : Steal))) = some { st with answer := some (some r) } := by
      rw [search]
      rfl
    rw [← found]
    rw [State.core_field_updCore (g := Core.steal) (fun _ => by rfl), State.core_updCore _ _ _ hc]
    refine (State.core_field_updCore (g := fun k => k.steal.map (fun st => ({ st with answer := some (some r) } : Steal)))
      (fun k => ?_) _ v c).trans ?_
    · exact Option.map_map _ _ _
    · rw [State.asked_core]

theorem State.searches_of_shape {s t : State} (h : t.shape = s.shape) (c : Nat) : (t.core c).searches = (s.core c).searches := by
  have cores : t.cores.map Core.searches = s.cores.map Core.searches := congrArg (fun x => x.2.2.2) h
  unfold State.core
  split
  next hc => simpa using congrArg (fun w => w[c]) cores
  next => rfl

theorem State.startRec_searches (s : State) (c k d : Nat) (r : Rec) : ((s.startRec c k r).core d).searches = (s.core d).searches := by
  rw [State.startRec, State.flushL1, State.core_field_updCore (g := Core.searches) (fun _ => by rfl),
    State.core_field_updCore (g := Core.searches) (fun _ => by rfl), State.searches_of_shape (State.carryPages_shape _ _ _)]
  rfl

theorem exec_stealAnswer {s : State} {c : Nat} {r : Rec} {st : Steal} (search : (s.core c).steal = some st)
    (answer : st.answer = some (some r)) (goes : (s.part r.part).parked = false) (open_ : s.coreOpen c = true)
    (idle : (s.idleSlots c).contains st.slot = true) :
    exec (.stealAnswer c) s = .next ((s.updCore c (fun k => { k with steal := none })).startRec c st.slot r) := by
  have hc := State.lt_of_coreOpen open_
  have part : ((s.updCore c (fun k => { k with steal := none })).part r.part).parked = false := by
    rw [State.part, State.part?, State.updCore_parts]
    exact goes
  have opens : (s.updCore c (fun k => { k with steal := none })).coreOpen c = true := by
    rw [← open_]
    simp [State.coreOpen, State.powered, State.die]
  have free : (s.updCore c (fun k => { k with steal := none })).idleSlots c = s.idleSlots c := by
    simp only [State.idleSlots, State.core_updCore _ _ _ hc]
  change s.occur (tryStealAnswer c s) = _
  simp only [tryStealAnswer, search, answer, State.placeStolen, part, opens, free, idle]
  rfl

/-- Each of the events that bring work to a core takes place under conditions on the state alone. -/
theorem schedulingCompletesPart : Claims.SchedulingCompletesPart := by
  intro s c v k r st w p x e
  refine ⟨fun may picked here => ?_, fun hc first_ open_ search picked left_ here =>
      exec_stealRequest hc first_ open_ search picked left_ here,
    fun search answer goes open_ idle => ?_, fun hc due at_ => ?_, fun found one waits eng runs serves => ?_,
    fun found one started waits there resident runs => ?_, fun z hq one errs seals garbled => ?_, fun i hi hc not_ many => ?_⟩
  · have hc : c < 90 := by
      simp only [State.mayFill, Bool.and_eq_true] at may
      exact State.lt_of_coreOpen may.1.1
    exact ⟨_, exec_slotFill may picked here, State.startRec_slot _ r hc⟩
  · have hc := State.lt_of_coreOpen open_
    refine ⟨_, exec_stealAnswer search answer goes open_ idle, ?_, State.startRec_slot _ r hc⟩
    have quiet : ((s.updCore c (fun k => { k with steal := none })).core c).searches = false := by
      rw [State.core_updCore _ _ _ hc]
      rfl
    rw [← Option.isNone_iff_eq_none, ← Option.not_isSome, Bool.not_eq_true']
    exact (State.startRec_searches _ c st.slot c r).trans quiet
  · refine ⟨s.updCore c (fun k => { k with retryAt := none }), ?_, ?_⟩
    · change s.occur (tryStealRetry c s) = _
      have is_due : s.retryDue c = true := by
        rw [State.retryDue, due]
        exact decide_eq_true at_
      rw [tryStealRetry, if_pos is_due]
      rfl
    · rw [State.core_updCore _ _ _ hc]
  · have next_ : nextFor e [] p.rob = some ([], x) := by
      rw [one, nextFor, if_pos ⟨eng, by rw [waits]; rfl⟩]
    obtain ⟨t, run, _, q, after, rfl⟩ := tileDispatch_starts found runs serves next_ fun e' y serves' same => by
      obtain ⟨found', older, r', next'⟩ := State.served_spec serves'
      obtain rfl : y.2 = p := Option.some.inj ((found'.symm.trans (by rw [same])).trans found)
      rw [one] at next'
      obtain ⟨_, _, eng', _⟩ := nextFor_one next'
      exact Option.some.inj (eng'.symm.trans eng)
    have rest : p.rob.drop 1 = [] := by rw [one]; rfl
    exact ⟨t, run, _, after, _, congrArg (List.cons _) rest, rfl, rfl, rfl⟩
  · obtain ⟨t, i, y, y', run, at_, _, _, done, ⟨q, after, new⟩, _⟩ :=
      exec_engineCompletion found there resident runs ⟨x, by rw [one]; exact List.mem_singleton_self x, started, waits⟩
    rw [one] at at_ new
    obtain ⟨rfl, rfl⟩ : i = 0 ∧ x = y := by
      cases i with
      | zero => exact ⟨rfl, Option.some.inj at_⟩
      | succ i => cases at_
    refine ⟨t, run, q, after, y', ?_, ?_, ?_, ?_⟩
    · rw [new]
      rfl
    all_goals rw [done]
  · obtain ⟨w, hw, run⟩ := exec_walkComplete (s := s) (q := c) (by rw [one]; exact List.cons_ne_nil _ _)
    obtain rfl : w = z := by simpa [one] using hw
    obtain ⟨bytes, walks, _⟩ := State.finishWalk_spec (s := s.drew) errs seals garbled hq w
    refine ⟨_, run, ?_, bytes⟩
    rw [walks]
    change (s.quad c).walks.filter _ = []
    simp [one]
  · have waits : s.starved c ≠ [] := by
      refine List.ne_nil_of_mem (a := i) (List.mem_filter.2 ⟨List.mem_range.2 hi, ?_⟩)
      rw [dif_pos hi]
      simp only [Bool.and_eq_true, decide_eq_true_eq, Bool.not_eq_true']
      exact ⟨many, not_⟩
    exact ⟨_, exec_starvationPromotion waits, (promoted_iff hc hi).2 (.inr many)⟩

/-- Settles O43: an engine, a walk or a promotion does what its definition says, and each completes. -/
theorem coreEvents : Obligations.CoreEvents := by
  refine ⟨fun s p c slot q older r e => ⟨fun found runs serves next_ only => ?_, fun found there resident runs some_ =>
      exec_engineCompletion found there resident runs some_,
    fun waits hq errs seals garbled => ?_, fun waits hc => ?_⟩, schedulingCompletesPart⟩
  · obtain ⟨t, run, bytes, after⟩ := tileDispatch_starts found runs serves next_ only
    exact ⟨t, _, run, bytes, rfl, after⟩
  · exact walkComplete_ends waits hq errs seals garbled
  · exact ⟨_, exec_starvationPromotion waits, State.updCore_cur _ _ _, (State.updCore_same _ _ _).bytes, fun i hi => promoted_iff hc hi⟩

end Sys2Proof.Machine
end

section
/-! The meshes, the dies and the links (16_mesh.md, 18_host.md). -/

namespace Sys2Proof.Machine
open Sys2Proof Sys2Proof.Claims

/-! ### Lanes and modules -/

theorem mem_insertNat (a x : Nat) (l : List Nat) : x ∈ insertNat a l ↔ x = a ∨ x ∈ l := by
  induction l with
  | nil => simp [insertNat]
  | cons b r ih =>
    rw [insertNat]
    split
    · simp
    · split
      next same => simp [same]
      next => simp [ih, or_left_comm]

theorem exec_laneSleep {s : State} {n : Nat} (lane : n < 688) (awake : n ∉ s.mesh.asleep) (idle : s.laneIdle n = true) :
    exec (.laneSleep n) s = .next { s with mesh := { s.mesh with asleep := insertNat n s.mesh.asleep } } := by
  change s.occur (tryLaneSleep n s) = _
  rw [tryLaneSleep, if_pos ⟨lane, awake, idle⟩]
  rfl

/-- The meshes when a flit is assigned to a lane. -/
def State.meshAwake (s : State) (n : Nat) : Mesh :=
  { s.mesh with
    asleep := s.mesh.asleep.filter (· != n)
    busyAt := s.mesh.busyAt.filter (fun x => x.1 != n) ++ (if s.cycle = 0 then [] else [(n, s.cycle)]) }

theorem exec_laneWake {s : State} {n : Nat} (lane : n < 688) : exec (.laneWake n) s = .next { s with mesh := s.meshAwake n } := by
  change s.occur (tryLaneWake n s) = _
  rw [tryLaneWake, if_pos (by exact lane)]
  rfl

/-- The count of a lane starts again when it is used. -/
theorem meshAwake_busy (s : State) (n : Nat) : State.laneIdle { s with mesh := s.meshAwake n } n = false := by
  have gone : (s.mesh.busyAt.filter (fun x => x.1 != n)).find? (fun x => x.1 == n) = none := by
    rw [List.find?_eq_none]
    intro x hx
    simpa using (List.mem_filter.1 hx).2
  simp only [State.laneIdle, State.meshAwake, List.find?_append, gone]
  split
  next start => simp [start]
  next => simp

theorem exec_moduleFailure {s : State} {n : Nat} (module : n < 16) (works : n ∉ s.mesh.failed)
    (other : (if n % 2 = 0 then n + 1 else n - 1) ∉ s.mesh.failed) :
    exec (.moduleFailure n) s = .next { s with mesh := { s.mesh with failed := insertNat n s.mesh.failed } } := by
  change s.occur (tryModuleFailure n s) = _
  rw [tryModuleFailure, if_pos ⟨module, works⟩]
  dsimp only
  rw [if_neg (by simpa using other)]
  rfl

/-! ### A die that goes down -/

/-- What the evacuation of a die leaves: the host port and the power state, pages that are good, and no store that waits. -/
def Quieted (s t : State) : Prop :=
  t.host = s.host ∧ t.power = s.power ∧ (∀ q ∈ t.pages, q.err = none ∧ q.hurt = false) ∧ ∀ q ∈ t.allProcs, q.stores = []

section
variable {s t : State}

theorem Quieted.of_bare {u : State} (h : Quieted s t) (bare : u.bare = t.bare) : Quieted s u := by
  obtain ⟨host, power, pages, stores⟩ := h
  refine ⟨(State.host_of_bare bare).trans host, ?_, ?_, ?_⟩
  · have same : u.power = t.power := by simpa [State.bare] using congrArg State.power bare
    exact same.trans power
  · rwa [State.pages_of_bare bare]
  · rwa [State.allProcs, State.cur_of_bare bare, State.procs_of_bare bare]

theorem Quieted.updCore (h : Quieted s t) (c : Nat) (f : Core → Core) : Quieted s (t.updCore c f) := by
  obtain ⟨host, power, pages, stores⟩ := h
  refine ⟨by simpa using host, by simpa using power, by simpa using pages, ?_⟩
  rwa [State.allProcs, State.updCore_cur, State.updCore_procs]

theorem mem_allProcs_of_map {u : State} {f : Proc → Proc} (cur : u.cur = f t.cur ∨ u.cur = t.cur) (pid : ∀ p, (f p).pid = p.pid)
    (procs : ∀ q ∈ u.procs, ∃ p ∈ t.procs, q = f p ∨ q = p) : ∀ q ∈ u.allProcs, ∃ p ∈ t.allProcs, q = f p ∨ q = p := by
  intro q hq
  have same : u.cur.pid = t.cur.pid := by
    obtain h | h := cur
    · rw [h, pid]
    · rw [h]
  unfold State.allProcs at hq ⊢
  rw [same] at hq
  by_cases none : t.cur.pid = 0
  · rw [if_pos none] at hq ⊢
    exact procs q hq
  · rw [if_neg none] at hq ⊢
    obtain rfl | hq := List.mem_cons.1 hq
    · exact ⟨t.cur, List.mem_cons_self, cur⟩
    · obtain ⟨p, hp, h⟩ := procs q hq
      exact ⟨p, List.mem_cons_of_mem _ hp, h⟩

theorem Quieted.of_map (h : Quieted s t) {u : State} {f : Proc → Proc} (host : u.host = t.host) (power : u.power = t.power)
    (pages : u.pages = t.pages) (stores : ∀ p, (f p).stores = p.stores)
    (procs : ∀ q ∈ u.allProcs, ∃ p ∈ t.allProcs, q = f p ∨ q = p) : Quieted s u := by
  obtain ⟨hosts, powers, good, idle⟩ := h
  refine ⟨host.trans hosts, power.trans powers, by rwa [pages], fun q hq => ?_⟩
  obtain ⟨p, hp, rfl | rfl⟩ := procs q hq
  · exact (stores p).trans (idle p hp)
  · exact idle _ hp

theorem Quieted.mapProcs (h : Quieted s t) {f : Proc → Proc} (pid : ∀ p, (f p).pid = p.pid) (stores : ∀ p, (f p).stores = p.stores) :
    Quieted s (t.mapProcs f) :=
  h.of_map rfl rfl rfl stores (mem_allProcs_of_map (.inl rfl) pid fun q hq => by
    obtain ⟨p, hp, rfl⟩ := List.mem_map.1 hq
    exact ⟨p, hp, .inl rfl⟩)

theorem Quieted.updProc (h : Quieted s t) {f : Proc → Proc} (pid : ∀ p, (f p).pid = p.pid) (stores : ∀ p, (f p).stores = p.stores)
    (x : Pid) : Quieted s (t.updProc x f) := by
  refine h.of_map (by simp) (by simp) (by simp) stores (mem_allProcs_of_map ?_ pid fun q hq => ?_)
  · unfold State.updProc
    split
    · exact .inl rfl
    · exact .inr rfl
  · unfold State.updProc at hq
    split at hq
    · exact ⟨q, hq, .inr rfl⟩
    · obtain ⟨p, hp, rfl⟩ := List.mem_map.1 hq
      refine ⟨p, hp, ?_⟩
      split
      · exact .inl rfl
      · exact .inr rfl

theorem Quieted.carryPages (h : Quieted s t) (pid : Pid) (c : Nat) : Quieted s (t.carryPages pid c) := by
  by_cases fit : t.pagesFit pid c = true
  · obtain ⟨host, power, good, idle⟩ := h
    rw [State.carryPages_good good fit]
    refine ⟨host, power, fun q hq => ?_, idle⟩
    obtain ⟨x, hx, rfl⟩ := List.mem_map.1 hq
    split <;> exact good x hx
  · rw [State.carryPages, if_neg fit]
    exact h

theorem Quieted.moveRec (h : Quieted s t) (c : Nat) (r : Rec) : Quieted s (t.moveRec c r) := by
  unfold State.moveRec
  dsimp only
  split
  · exact h.updCore _ _
  · split
    · exact h.updCore _ _
    · split
      next u q spilled =>
        refine Quieted.updCore (h.of_bare ?_) _ _
        unfold State.spillTo at spilled
        split at spilled
        · cases spilled
        · cases spilled
        · cases spilled
          exact State.physPut_bare _ _ _ _
      next => exact h.updCore _ _

theorem Quieted.rejoin (h : Quieted s t) (pid : Pid) : Quieted s (t.rejoin pid) := by
  unfold State.rejoin
  split
  · exact h
  · split
    · exact h.updCore _ _
    · exact h

theorem Quieted.dequeue (h : Quieted s t) (pid : Pid) : Quieted s (t.dequeue pid) := by
  unfold State.dequeue
  split
  · exact h
  · exact h.updCore _ _

theorem Quieted.rehome (h : Quieted s t) (pid : Pid) (c : Nat) : Quieted s (t.rehome pid c) := by
  unfold State.rehome
  refine Quieted.updProc ?_ (fun _ => by rfl) (fun _ => by rfl) pid
  unfold State.changeHome
  dsimp only
  split
  · exact h
  next p _ =>
    have moved := ((h.dequeue pid).updProc (f := fun p => { p with home := t.homeAt c, pageIns := [] }) (fun _ => by rfl)
      (fun _ => by rfl) pid).carryPages pid (t.homeAt c)
    split
    · exact moved.rejoin pid
    · exact moved

theorem Quieted.moveDeque (h : Quieted s t) (c : Nat) : Quieted s (t.moveDeque c) := by
  unfold State.moveDeque
  exact foldl_keeps (Quieted s) _ (fun u x k => (k.moveRec _ _).carryPages _ _) _ _ ((h.updCore _ _).updCore _ _)

theorem Quieted.moveParked (h : Quieted s t) (c : Nat) : Quieted s (t.moveParked c) := by
  unfold State.moveParked
  exact foldl_keeps (Quieted s) _ (fun u x k => k.rehome _ _) _ _ h

theorem Quieted.evacuate (h : Quieted s t) (d : Nat) : Quieted s (t.evacuate d) := by
  unfold State.evacuate
  exact Quieted.mapProcs (foldl_keeps (Quieted s) _ (fun u c k => (k.moveDeque c).moveParked c) _ _ h) (fun _ => by rfl) fun _ => by rfl

theorem Quieted.drainToward (h : Quieted s t) (d : Nat) : t.drainToward d = t := by
  obtain ⟨_, _, _, idle⟩ := h
  have none : t.allProcs.filter (fun p => p.stores.any (fun st => physRegion st.pa == .hbm && dieOf st.pa == d)) = [] := by
    rw [List.filter_eq_nil_iff]
    intro p hp
    rw [idle p hp]
    exact Bool.false_ne_true
  rw [State.drainToward, none]
  rfl

end

theorem State.fenceCaches_l1d (s : State) (d : Nat) {c : Nat} (hc : c < 90) : ((s.fenceCaches d).core c).l1d = [] := by
  simp only [State.core, hc, dif_pos, State.fenceCaches, Vector.getElem_mapIdx]
  split <;> rfl

theorem State.die_setDie_other (s : State) {d : Nat} (hd : d < 2) (x : DieSt) : (s.setDie d x).die (1 - d) = s.die (1 - d) := by
  obtain rfl | rfl : d = 0 ∨ d = 1 := by omega
  all_goals simp [State.setDie, State.die]

theorem State.dieState_powered {s : State} (on : s.powered = true) (x : Power) : s.dieState x = x := by
  simp only [State.powered, Bool.and_eq_true, Bool.or_eq_true, beq_iff_eq] at on
  unfold State.dieState
  obtain ⟨_, h | h⟩ := on <;> rw [h]

/-- The state of a die that has gone down, before the host is told. -/
def State.dieGone (s : State) (d : Nat) : State :=
  let s1 := (((s.evacuate d).drainToward d).fenceCaches d).dropL2 (d * dieTop) dieTop
  { s1.setDie d .offline with
    parts := s1.parts.map (fun (p : Part) => { p with keyDies := if d = 0 then p.keyDies.set 0 false else p.keyDies.set 1 false })
    power := s1.dieState .oneDie }

theorem exec_dieDownComplete {s : State} {d : Nat} (hd : d < 2) (going : s.die d = .goingDown) (empty_ : s.dieEmpty d = true) :
    exec (.dieDownComplete d) s = .next ((s.dieGone d).hostEvent 3 [BitVec.ofNat 64 d, 0]) := by
  change s.occur (tryDieDownComplete d s) = _
  rw [tryDieDownComplete, if_pos (by simp [hd, going, empty_])]
  rfl

/-- A die that is empty goes down. -/
theorem dieGone_spec {s : State} {d : Nat} (hd : d < 2) (stores : ∀ q ∈ s.allProcs, q.stores = [])
    (good : ∀ q ∈ s.pages, q.err = none ∧ q.hurt = false) :
    (s.dieGone d).die d = .offline ∧ (s.dieGone d).die (1 - d) = s.die (1 - d) ∧ (s.powered = true → (s.dieGone d).power = .oneDie)
      ∧ (∀ c, c < 90 → ((s.dieGone d).core c).l1d = []) ∧ (s.dieGone d).host = s.host := by
  have quiet : Quieted s (s.evacuate d) := Quieted.evacuate ⟨rfl, rfl, good, stores⟩ d
  have idle := quiet.drainToward d
  obtain ⟨host, power, _, _⟩ := quiet
  let u := ((s.evacuate d).fenceCaches d).dropL2 (d * dieTop) dieTop
  have eq : s.dieGone d = { u.setDie d .offline with
      parts := u.parts.map (fun (p : Part) => { p with keyDies := if d = 0 then p.keyDies.set 0 false else p.keyDies.set 1 false })
      power := u.dieState .oneDie } := by
    rw [State.dieGone, idle]
  rw [eq]
  refine ⟨State.die_setDie u hd .offline, (State.die_setDie_other u hd .offline).trans (State.die_of_standing (State.evacuate_standing s d) (1 - d)), fun on => ?_, fun c hc =>
    State.fenceCaches_l1d (s.evacuate d) d hc, host⟩
  have same : u.dieState .oneDie = s.dieState .oneDie := by
    unfold State.dieState
    rw [show u.power = s.power from power]
  exact same.trans (State.dieState_powered on .oneDie)

/-! ### A die that comes up -/

/-- Whether a sector lies on a die. -/
def onDie (d sec : Nat) : Bool := decide (d * dieTop ≤ sec * 32) && decide (sec * 32 < d * dieTop + dieTop)

/-- The state with the memory of a die zeroed. -/
def State.dieZeroed (s : State) (d : Nat) : State :=
  { s with
    mem := s.mem.zero (d * dieTop) dieTop
    poison := s.poison.filter (fun x => !onDie d x)
    errs := s.errs.filter (fun e => !onDie d e.sector)
    seals := s.seals.filter (fun x => !onDie d x.1) }.dropL2 (d * dieTop) dieTop

/-- The state of a die that has come up, before the host is told. -/
def State.dieBack (s : State) (d : Nat) : State :=
  let u := ((s.dieZeroed d).touchRegions 0 (d * dieTop) dieTop).setDie d .online
  { u with
    parts := u.parts.map (fun (p : Part) => { p with keyDies := if d = 0 then p.keyDies.set 0 true else p.keyDies.set 1 true })
    power := u.dieState .on }

theorem exec_dieUpComplete {s : State} {d : Nat} (hd : d < 2) (coming : s.die d = .comingUp) (cells : s.cells = []) (entries : s.entries = []) :
    exec (.dieUpComplete d) s = .next ((s.dieBack d).hostEvent 3 [BitVec.ofNat 64 d, 1]) := by
  have quiet : (((s.dieZeroed d).touchRegions 0 (d * dieTop) dieTop).setDie d .online).touchAreas (d * dieTop) dieTop
      = ((s.dieZeroed d).touchRegions 0 (d * dieTop) dieTop).setDie d .online :=
    State.touchAreas_none (s := ((s.dieZeroed d).touchRegions 0 (d * dieTop) dieTop).setDie d .online) cells entries _ _
  change s.occur (tryDieUpComplete d s) = _
  rw [tryDieUpComplete, if_pos (by simp [hd, coming])]
  simp only [State.dieZeroed, onDie] at quiet
  simp only [quiet]
  rfl

theorem dieOf_eq_iff {a d : Nat} (ha : a < hbmTop) (hd : d < 2) : dieOf a = d ↔ d * dieTop ≤ a ∧ a < d * dieTop + dieTop := by
  unfold dieOf
  split <;> simp only [hbmTop, dieTop] at * <;> omega

/-- The bytes of the die are zero, and the other die's are untouched. -/
theorem dieBack_physByte {s : State} {d a : Nat} (hd : d < 2) (memory : s.memOk = true) (ha : a < hbmTop) :
    (s.dieBack d).physByte a = if dieOf a = d then 0 else s.physByte a := by
  simp only [State.memOk, Bool.and_eq_true] at memory
  have hbm := physRegion_hbm ha
  have byte : (s.dieBack d).physByte a = (s.mem.zero (d * dieTop) dieTop).get a := by
    simp only [State.physByte, hbm]
    rfl
  have old : s.physByte a = s.mem.get a := by simp only [State.physByte, hbm]
  rw [byte, old, Memory.get_zero memory.1.1.1]
  simp only [dieOf_eq_iff ha hd]

theorem mem_dieBack_poison {s : State} {d x : Nat} (hd : d < 2) (h : x ∈ (s.dieBack d).poison) : dieOf (x * 32) ≠ d ∨ hbmTop ≤ x * 32 := by
  have away : onDie d x = false := by simpa using (List.mem_filter.1 h).2
  by_contra both
  simp only [ne_eq, not_or, not_not, Nat.not_le] at both
  obtain ⟨die, inside⟩ := both
  obtain ⟨low, high⟩ := (dieOf_eq_iff inside hd).1 die
  simp [onDie, low, high] at away

/-! ### Links -/

@[simp] theorem State.altClosed_shape (s : State) (id : Nat) : (s.altClosed id).shape = s.shape := by
  unfold State.altClosed
  split
  · rfl
  · split
    · simp
    · rfl

@[simp] theorem State.heldTaken_shape (s : State) (c : Cell) : (s.heldTaken c).shape = s.shape := by
  unfold State.heldTaken
  split
  · simp
  · rfl

theorem State.link_of_shape {s t : State} (h : t.shape = s.shape) : t.link = s.link := congrArg Prod.fst h

/-- The close of a device's ends leaves the ports. -/
theorem State.closePeer_ports (s : State) (d : Fin 4) : (s.closePeer d).link.ports = s.link.ports := by
  have shape : ((s.peerCells d).foldl (fun s c => (((s.heldTaken c).closeEnd c.id true).altClosed c.id).closeEnd c.id false) s).shape
      = s.shape := State.foldl_shape (fun t c => by simp) _ s
  have link := congrArg LinkSt.ports (State.link_of_shape shape)
  exact link

theorem State.loseStores_link (s : State) (d : Fin 4) : (s.loseStores d).link = s.link := by
  unfold State.loseStores
  refine (State.link_of_shape (State.foldl_shape (fun t _ => State.shape_of_bare (State.logAll_bare t _ _ _)) _ _)).trans ?_
  rfl

/-- A port that fails is down. -/
theorem linkPortFailure_fails {s : State} {n : Nat} (h : n < 8) (up : s.link.ports[n] = true) :
    ∃ t, exec (.linkPortFailure n) s = .next t ∧ t.link.ports[n] = false := by
  have down : (s.link.ports.set n false)[n] = false := by simp
  have runs (t : State) (tries : tryLinkPortFailure n s = some t) (fails : t.link.ports[n] = false) :
      ∃ t, exec (.linkPortFailure n) s = .next t ∧ t.link.ports[n] = false := by
    refine ⟨t, ?_, fails⟩
    change s.occur (tryLinkPortFailure n s) = _
    rw [tries]
    rfl
  cases dev : s.portDev n with
  | none =>
    refine runs { s with link := { s.link with ports := s.link.ports.set n false } } ?_ down
    simp only [tryLinkPortFailure, dif_pos h, if_pos up, dev]
  | some d =>
    by_cases alone : ((({ s with link := { s.link with ports := s.link.ports.set n false } } : State).alivePorts d).isEmpty
        && s.link.up.getLsbD d.val) = true
    · let u : State := { s with link := { s.link with
        ports := s.link.ports.set n false, up := s.link.up &&& ~~~BitVec.ofNat 4 (2 ^ d.val) } }
      refine runs (((u.loseStores d).closePeer d).hostEvent 4 [BitVec.ofNat 64 d.val, 0]) ?_ ?_
      · simp only [tryLinkPortFailure, dif_pos h, if_pos up, dev]
        rw [if_pos alone]
      · simp only [State.hostEvent_link, State.closePeer_ports, State.loseStores_link]
        exact down
    · refine runs { s with link := { s.link with ports := s.link.ports.set n false } } ?_ down
      simp only [tryLinkPortFailure, dif_pos h, if_pos up, dev]
      rw [if_neg alone]

theorem upWith_getLsbD (up : BitVec 4) (d : Fin 4) : (up ||| BitVec.ofNat 4 (2 ^ d.val)).getLsbD d.val = true := by
  revert up
  revert d
  decide

/-- The state with the link to a device up, before the host is told. -/
def State.linked (s : State) (d : Fin 4) : State :=
  let ports := if (s.alivePorts d).isEmpty then
      Vector.ofFn (fun i : Fin 8 => s.link.ports[i] || s.portDev i.val == some d) else s.link.ports
  { s with link := { s.link with ports := ports, up := s.link.up ||| BitVec.ofNat 4 (2 ^ d.val) } }

theorem exec_linkUp {s : State} {d : Fin 4} (other : d ≠ s.link.self) (down : s.link.up.getLsbD d.val = false)
    (port : ∃ i, i < 8 ∧ s.portDev i = some d) : exec (.linkUp d) s = .next ((s.linked d).hostEvent 4 [BitVec.ofNat 64 d.val, 1]) := by
  obtain ⟨i, hi, dev⟩ := port
  have leads : (List.range 8).any (fun i => s.portDev i == some d) = true :=
    List.any_eq_true.2 ⟨i, List.mem_range.2 hi, by rw [dev, beq_self_eq_true]⟩
  change s.occur (tryLinkUp d s) = _
  rw [tryLinkUp, if_pos (by rw [leads, down]; simpa using other)]
  rfl

/-- Settles O47: each event by its definition. -/
theorem meshEvents : Obligations.MeshEvents := by
  intro s n p dev
  refine ⟨fun lane awake idle => ⟨_, exec_laneSleep lane awake idle, rfl, fun x => mem_insertNat n x _⟩,
    fun lane => ⟨_, exec_laneWake lane, rfl, meshAwake_busy s n, fun x => ?_⟩,
    fun module works other => ⟨_, exec_moduleFailure module works other, rfl, fun x => mem_insertNat n x _⟩,
    fun found offline => ?_, fun hd going empty_ stores good room => ?_, fun hd coming memory cells entries room => ?_,
    fun h up => linkPortFailure_fails h up, fun other down port => ?_⟩
  · simp [State.meshAwake, and_comm]
  · refine ⟨s.updLatch p.pid (fun l => { l with stop := 2 }), ?_, (State.updLatch_same _ _ _).bytes,
      { p with latch := { p.latch with stop := 2 } }, ?_, rfl⟩
    · change s.occur (tryOfflineAnswer p.pid s) = _
      simp only [tryOfflineAnswer, found, if_pos offline]
      rfl
    · rw [State.updLatch, State.proc?_updProc _ _ _ _ (fun _ => by rfl), if_pos rfl, found]
      rfl
  · obtain ⟨gone, other, power, l1d, host⟩ := dieGone_spec hd stores good
    refine ⟨_, exec_dieDownComplete hd going empty_, ?_, ?_, fun on => ?_, fun c hc => ?_, ?_⟩
    · simpa [State.die] using gone
    · simpa [State.die] using other
    · rw [State.hostEvent_power, power on]
    · simpa [State.core] using l1d c hc
    · rw [State.hostEvent_events _ _ _ (by rwa [host]), host]
  · refine ⟨_, exec_dieUpComplete hd coming cells entries, ?_, fun on => ?_, fun a ha => ?_, fun x hx => ?_, ?_⟩
    · have up : (s.dieBack n).die n = .online := State.die_setDie ((s.dieZeroed n).touchRegions 0 (n * dieTop) dieTop) hd .online
      simpa [State.die] using up
    · rw [State.hostEvent_power]
      exact State.dieState_powered (s := ((s.dieZeroed n).touchRegions 0 (n * dieTop) dieTop).setDie n .online) on .on
    · rw [(State.hostEvent_same _ _ _).physByte, dieBack_physByte hd memory ha]
    · rw [State.hostEvent_poison] at hx
      exact mem_dieBack_poison hd hx
    · exact State.hostEvent_events (s.dieBack n) _ _ room
  · refine ⟨_, exec_linkUp other down port, ?_, ?_, fun room => State.hostEvent_events (s.linked dev) _ _ room⟩
    · rw [State.hostEvent_link]
      exact upWith_getLsbD _ _
    · exact State.hostEvent_cells _ _ _

end Sys2Proof.Machine
end

section
/-! A peer's read of no byte at the end of HBM while a store to the host is on its way. -/

namespace Sys2Proof.Machine
open Sys2Proof Sys2Proof.Claims

/-- A store of process 1 of the byte 1 on its way to the host. -/
def sentStore : OutStore := { pid := 1, pa := hostBase, bytes := [1] }

/-- The device with that store on its way. -/
def sentState : State := { State.reset with power := .on, outbox := [sentStore] }

/-- A cell that nobody holds. -/
def sentCell : Cell :=
  { id := 0, part := 0, chid := 0, dh := false, kind := .chan, end0 := EndSt.fresh .proc, end1 := EndSt.fresh .proc, bar := none }

/-- A read that begins past HBM waits for what is on its way, which arrives. -/
theorem sentState_arrives : (tryPeerMemoryAccess (.read hbmTop 0) sentState).map (fun t => t.physByte hostBase) = some 1 := by
  decide +kernel

/-- Refutes O51: a peer's read of no byte, at the first address past HBM, lets a store arrive whose byte then reads another value. -/
theorem not_portEvents : ¬ Obligations.PortEvents := by
  unfold Obligations.PortEvents
  intro h
  obtain ⟨_, _, _, memory, _⟩ := h sentState 0 false Proc.absent 0 0 hbmTop [] 0 0 sentCell
  obtain ⟨_, ⟨t, run, same⟩, _⟩ := memory (by decide) (by decide) ⟨by decide, rfl, rfl, rfl, rfl, rfl⟩
  have outcome : sentState.occur (tryPeerMemoryAccess (.read hbmTop 0) sentState) = .next t := run
  have arrives := sentState_arrives
  cases made : tryPeerMemoryAccess (.read hbmTop 0) sentState with
  | none => rw [made] at arrives; cases arrives
  | some u =>
    rw [made] at arrives outcome
    obtain rfl : u = t := by simpa [State.occur] using outcome
    have byte : u.physByte hostBase = 1 := Option.some.inj arrives
    exact absurd ((same hostBase).symm.trans byte) (by decide +kernel)

end Sys2Proof.Machine
end

section
/-! What an instruction that waited leaves of its process when it completes; arrivals at a barrier (R339, R340). -/

namespace Sys2Proof.Machine

open Sys2Proof Sys2Proof.Claims

/-! ### Completion of a context that runs -/

theorem Proc.popRob_rest (p : Proc) (ip : Word) : ∃ rob, p.popRob ip = { p with rob := rob } := by
  unfold Proc.popRob
  split
  · split
    · exact ⟨_, rfl⟩
    · exact ⟨p.rob, rfl⟩
  · exact ⟨p.rob, rfl⟩

theorem Proc.foldl_wr_rest (l : List (SReg × Word)) : ∀ p : Proc,
    ∃ rob regs, l.foldl (fun (p : Proc) x => { p.wr x.1 x.2 with rob := settleRob x.1 x.2 p.rob }) p = { p with rob := rob, s := regs } := by
  induction l with
  | nil => exact fun p => ⟨p.rob, p.s, rfl⟩
  | cons x l ih =>
    intro p
    obtain ⟨rob, regs, h⟩ := ih { p.wr x.1 x.2 with rob := settleRob x.1 x.2 p.rob }
    refine ⟨rob, regs, ?_⟩
    rw [List.foldl_cons, h, Proc.wr]
    split <;> rfl

theorem Proc.take_rest (p : Proc) (w : Writes) : ∃ rob regs, p.take w = { p with
    rob := rob, s := regs, ip := p.ip + BitVec.ofNat 64 w.n, e := w.e.foldl (fun e x => e.set x.1 x.2) p.e
    fcsr := p.fcsr ||| w.fcsr, tcsr := p.tcsr ||| w.tcsr, altLast := w.alt.getD p.altLast } := by
  obtain ⟨rob, h⟩ := p.popRob_rest p.ip
  obtain ⟨rob', regs, k⟩ := Proc.foldl_wr_rest w.s (if w.n = 0 then p else p.popRob p.ip)
  refine ⟨rob', regs, ?_⟩
  simp only [Proc.take]
  rw [k]
  split
  · rfl
  · rw [h]

/-- A process that no longer waits. -/
def Proc.woken (p : Proc) : Proc := { p with wait := .none, waitGen := p.waitGen + 1, stepping := false }

/-- A process after the instruction it waited in has completed: it waits for nothing and has taken what that writes. -/
def Proc.completed (p : Proc) (w : Writes) : Proc := p.woken.take w

section

variable (p : Proc) (w : Writes)

@[simp] theorem Proc.completed_pid : (p.completed w).pid = p.pid := Proc.take_pid _ w
@[simp] theorem Proc.completed_place : (p.completed w).place = p.place := Proc.take_place _ w

theorem Proc.completed_kept : (p.completed w).wait = .none ∧ (p.completed w).part = p.part ∧ (p.completed w).t = p.t := by
  obtain ⟨rob, regs, h⟩ := p.woken.take_rest w
  rw [Proc.completed, h]
  exact ⟨rfl, rfl, rfl⟩

theorem Proc.completed_ip : (p.completed w).ip = p.ip + BitVec.ofNat 64 w.n := by
  obtain ⟨rob, regs, h⟩ := p.woken.take_rest w
  rw [Proc.completed, h]
  rfl

theorem Proc.completed_altLast : (p.completed w).altLast = w.alt.getD p.altLast := by
  obtain ⟨rob, regs, h⟩ := p.woken.take_rest w
  rw [Proc.completed, h]
  rfl

theorem Proc.completed_e : (p.completed w).e = w.e.foldl (fun e x => e.set x.1 x.2) p.e := by
  obtain ⟨rob, regs, h⟩ := p.woken.take_rest w
  rw [Proc.completed, h]
  rfl

@[simp] theorem Proc.completed_wait : (p.completed w).wait = .none := (p.completed_kept w).1
@[simp] theorem Proc.completed_part : (p.completed w).part = p.part := (p.completed_kept w).2.1
@[simp] theorem Proc.completed_t : (p.completed w).t = p.t := (p.completed_kept w).2.2

end

/-- The registers a completion leaves are those of the process, with the writes made. -/
theorem Proc.completed_s (p : Proc) (w : Writes) :
    (p.completed w).s = (w.s.foldl (fun (q : Proc) x => q.wr x.1 x.2) p).s := by
  have writes : ∀ (l : List (SReg × Word)) (q r : Proc), q.s = r.s →
      (l.foldl (fun (p : Proc) x => { p.wr x.1 x.2 with rob := settleRob x.1 x.2 p.rob }) q).s = (l.foldl (fun (p : Proc) x => p.wr x.1 x.2) r).s := by
    intro l
    induction l with
    | nil => exact fun q r h => h
    | cons x l ih =>
      intro q r h
      refine ih _ _ ?_
      simp only [Proc.wr]
      split
      · exact h
      · simp only [h]
  obtain ⟨rob, h⟩ := p.woken.popRob_rest p.woken.ip
  simp only [Proc.completed, Proc.take]
  refine writes w.s _ p ?_
  split
  · rfl
  · rw [h]
    rfl

theorem Proc.rd_of_s {p q : Proc} (h : p.s = q.s) (r : SReg) : p.rd r = q.rd r := by simp only [Proc.rd, h]

theorem Proc.completed_rd_none (p : Proc) {w : Writes} (none : w.s = []) (r : SReg) : (p.completed w).rd r = p.rd r :=
  Proc.rd_of_s (by rw [p.completed_s, none]; rfl) r

theorem Proc.completed_rd_one (p : Proc) {w : Writes} {d : SReg} {v : Word} (one : w.s = [(d, v)]) :
    (d ≠ 0 → (p.completed w).rd d = v) ∧ ∀ r, r ≠ d → (p.completed w).rd r = p.rd r := by
  have regs : (p.completed w).s = (p.wr d v).s := by rw [p.completed_s, one]; rfl
  refine ⟨fun hd => (Proc.rd_of_s regs d).trans ?_, fun r hr => (Proc.rd_of_s regs r).trans ?_⟩
  · simp [Proc.wr, Proc.rd, hd]
  · by_cases hd : d = 0
    · simp [Proc.wr, hd]
    · have apart : d.val ≠ r.val := fun h => hr (Fin.ext h.symm)
      simp [Proc.wr, hd, Proc.rd, apart]

/-- A pause is that of the core whose slot the process holds. -/
theorem State.pausedCore_congr {s t : State} {pid : Pid} {p q : Proc} (found : s.proc? pid = some p) (kept : t.proc? pid = some q)
    (place : q.place = p.place) (cores : t.cores = s.cores) : t.pausedCore pid = s.pausedCore pid := by
  simp only [State.pausedCore, found, kept, Option.bind_some, place, State.core, cores]
  rfl

theorem State.updProc_updProc (s : State) (pid : Pid) (f g : Proc → Proc) (hf : ∀ p, (f p).pid = p.pid) :
    (s.updProc pid f).updProc pid g = s.updProc pid (fun p => g (f p)) := by
  by_cases named : s.cur.pid = pid
  · simp only [State.updProc, named, if_true, hf]
  · simp only [State.updProc, named, if_false, List.map_map]
    refine congrArg (fun l => { s with procs := l }) (List.map_congr_left fun q _ => ?_)
    by_cases this : q.pid = pid
    · simp only [Function.comp, this, if_true, hf]
    · simp only [Function.comp, this, if_false]

section

variable {s : State} {pid : Pid} {p : Proc} (found : s.proc? pid = some p)

include found

theorem State.proc?_completed (w : Writes) : (s.updProc pid (fun p => p.completed w)).proc? pid = some (p.completed w) := by
  rw [State.proc?_updProc _ _ _ _ (fun p => p.completed_pid w), if_pos rfl, found]
  rfl

/-- A context on a core in no pause completes by its writes alone: it has no image to bring up to date and no queue to join. -/
theorem State.complete_running (out : p.place ≠ .parked) (runs : s.pausedCore pid = none) (w : Writes) :
    s.complete pid w = s.updProc pid (fun p => p.completed w) := by
  have woken : (s.updProc pid Proc.woken).proc? pid = some p.woken := by
    rw [State.proc?_updProc _ _ _ Proc.woken (fun _ => rfl), if_pos rfl, found]
    rfl
  have clock : (s.updProc pid Proc.woken).pausedCore pid = none :=
    (State.pausedCore_congr found woken rfl (State.updProc_cores _ _ _)).trans runs
  have twice : (s.updProc pid Proc.woken).updProc pid (fun p => p.take w) = s.updProc pid (fun p => p.completed w) :=
    s.updProc_updProc pid _ _ fun _ => rfl
  have done := State.proc?_completed found w
  have still : (p.completed w).place ≠ .parked := by rwa [p.completed_place]
  have writes : s.complete pid w = (((s.updProc pid Proc.woken).writeWhen pid w).enqueue pid) := rfl
  rw [writes, State.writeWhen, clock]
  simp only [State.write]
  rw [twice]
  rw [State.syncImage_resident done still]
  exact State.enqueue_held done (by simp [Proc.queueable, out])

end

theorem Proc.out_of_resident {p : Proc} (h : p.isResident = true) : p.place ≠ .parked := by
  intro parked
  simp [Proc.isResident, parked] at h

theorem State.proc?_cur {s : State} (named : s.cur.pid ≠ 0) : s.proc? s.cur.pid = some s.cur := by
  rw [State.proc?, if_neg named, if_pos rfl]

theorem State.updProc_cur (s : State) (f : Proc → Proc) : s.updProc s.cur.pid f = { s with cur := f s.cur } := by
  rw [State.updProc, if_pos rfl]

/-! ### Arrivals -/

theorem State.cell?_id {s : State} {id : Nat} {c : Cell} (h : s.cell? id = some c) : c.id = id :=
  beq_iff_eq.mp (List.find?_some (p := fun x : Cell => x.id == id) h)

theorem State.cell?_updCell {s : State} {id : Nat} {c : Cell} (h : s.cell? id = some c) {f : Cell → Cell} (hf : ∀ c, (f c).id = c.id) :
    (s.updCell id f).cell? id = some (f c) := by
  have same : (fun x : Cell => x.id == id) ∘ (fun c : Cell => if c.id = id then f c else c) = fun x => x.id == id := by
    funext x
    simp only [Function.comp]
    split
    · rw [hf]
    · rfl
  simp only [State.cell?, State.updCell, List.find?_map, same]
  rw [State.cell?] at h
  rw [h, Option.map_some, if_pos (State.cell?_id h)]

/-- What `checkE` finds: the entry that the register names, live and owned by the context, and its cell. -/
theorem State.checkE_spec {s : State} {a : EReg} {kinds : List Nat} {e : Entry} {c : Cell} (h : s.checkE a kinds = .ok (e, c)) :
    s.entryOf s.cur.part s.cur.pid (s.rdE a) = some e ∧ s.cell? e.cell = some c ∧ kinds.contains c.kindCode = true := by
  simp only [State.checkE, State.useE] at h
  split at h
  · cases h
  next found =>
    split at found
    · cases found
    next e' named =>
      split at found
      · cases found
      next c' here =>
        cases found
        split at h
        next fits => cases h; exact ⟨named, here, fits⟩
        · cases h

theorem State.entryOf_spec {s : State} {n : Nat} {pid : Pid} {h : Word32} {e : Entry} (found : s.entryOf n pid h = some e) :
    e ∈ s.entries ∧ e.live = true ∧ e.part = n ∧ e.handle = h ∧ e.owner = pid := by
  simp only [State.entryOf] at found
  split at found
  · cases found
  · have here := List.mem_of_find?_eq_some found
    have named := List.find?_some found
    simp only [Bool.and_eq_true, beq_iff_eq] at named
    obtain ⟨⟨⟨live, part⟩, handle⟩, owner⟩ := named
    exact ⟨here, live, part, handle, owner⟩

/-- An arrival leaves who waits at the barrier. -/
theorem State.barWaiters_arriveAt (s : State) (c : Cell) (i id : Nat) : (s.arriveAt c i).barWaiters id = s.barWaiters id := by
  have entries : ∀ (q : Entry → Bool), (∀ e : Entry, q { e with arrived := true } = q e) →
      ((s.arriveAt c i).barEntries id).any q = (s.barEntries id).any q := by
    intro q hq
    simp only [State.arriveAt, State.updEntry, State.updBar, State.updCell, State.barEntries, List.any_filter, List.any_map]
    refine congrArg (fun f => s.entries.any f) (funext fun e => ?_)
    simp only [Function.comp]
    split
    · rw [hq]
    · rfl
  have here : ∀ (p : Proc) (k : Nat), ((s.arriveAt c i).barEntries id).any (fun e => e.part == p.part && e.index == k && e.owner == p.pid)
      = (s.barEntries id).any (fun e => e.part == p.part && e.index == k && e.owner == p.pid) := fun p k => entries _ fun _ => rfl
  simp only [State.barWaiters, here]
  rfl

/-- The cell of a barrier after one arrival. -/
def Cell.arrived (c : Cell) (b : Barrier) : Cell := { c with bar := some { b with arrived := b.arrived + 1 } }

theorem State.cell?_arriveAt {s : State} {c : Cell} {b : Barrier} (here : s.cell? c.id = some c) (bar : c.bar = some b) (i : Nat) :
    (s.arriveAt c i).cell? c.id = some (c.arrived b) := by
  have entry : (s.updEntry c.part i (fun e => { e with arrived := true })).cell? c.id = some c := here
  rw [State.arriveAt, State.updBar, State.cell?_updCell entry (fun _ => by rfl), Cell.arrived, bar]
  rfl

/-- A phase that misses an arrival stays open. -/
theorem State.phaseCheck_open {s : State} {id : Nat} {c : Cell} {b : Barrier} (here : s.cell? id = some c) (bar : c.bar = some b)
    (missing : b.arrived < b.n ∨ b.arrived = 0) (fuel : Nat) : s.phaseCheck id fuel = s := by
  cases fuel with
  | zero => rfl
  | succ fuel =>
    have unmet : ¬ (b.n ≤ b.arrived ∧ 0 < b.arrived) := by omega
    simp only [State.phaseCheck, here, bar, if_neg unmet]

/-- The barrier of the next phase. -/
def Barrier.flipped (b : Barrier) : Barrier := { n := b.n - b.lower, k := b.k, lower := 0, phase := b.phase + 1, arrived := 0 }

/-- The phase of a barrier flipped, its endpoints fresh. -/
def State.flipped (s : State) (id : Nat) : State :=
  let t := s.updBar id (fun b => { b with phase := b.phase + 1, arrived := 0, n := b.n - b.lower, lower := 0 })
  { t with entries := t.entries.map (fun (e : Entry) => if e.live && e.cell == id then { e with arrived := false } else e) }

theorem State.cell?_flipped {s : State} {id : Nat} {c : Cell} {b : Barrier} (here : s.cell? id = some c) (bar : c.bar = some b) :
    (s.flipped id).cell? id = some { c with bar := some b.flipped } := by
  have cell := State.cell?_updCell here (f := fun c => { c with bar := c.bar.map fun b =>
    { b with phase := b.phase + 1, arrived := 0, n := b.n - b.lower, lower := 0 } }) (fun _ => rfl)
  rw [bar] at cell
  exact cell

section

variable {s : State} {id : Nat} {c : Cell} {b : Barrier} (here : s.cell? id = some c) (bar : c.bar = some b)
  (met : b.n ≤ b.arrived ∧ 0 < b.arrived)

include here bar met

/-- The last arrival of a phase where nobody waits. -/
theorem State.phaseCheck_alone (alone : s.barWaiters id = []) (fuel : Nat) : s.phaseCheck id (fuel + 1) = s.flipped id := by
  have closed := State.phaseCheck_open (State.cell?_flipped here bar) rfl (Or.inr rfl) fuel
  rw [State.phaseCheck]
  simp only [here, bar, if_pos met, alone, List.foldl_nil]
  exact closed

/-- The last arrival of a phase where one process awaits it: that process goes on. -/
theorem State.phaseCheck_one {pid : Pid} {i : Nat} (one : s.barWaiters id = [(pid, .barrierAwait i)]) (fuel : Nat)
    (kept : (((s.flipped id).complete pid (.step 4)).acquire pid).cells = (s.flipped id).cells) :
    s.phaseCheck id (fuel + 1) = ((s.flipped id).complete pid (.step 4)).acquire pid := by
  have cell : (((s.flipped id).complete pid (.step 4)).acquire pid).cell? id = some { c with bar := some b.flipped } := by
    rw [State.cell?, kept]
    exact State.cell?_flipped here bar
  have closed := State.phaseCheck_open cell rfl (Or.inr rfl) fuel
  rw [State.phaseCheck]
  simp only [here, bar, if_pos met, one, List.foldl_cons, List.foldl_nil]
  exact closed

end

/-! ### The barrier instructions -/

section

variable {s : State} {a : EReg} {e : Entry} {c : Cell} (checked : s.release.checkE a [2] = .ok (e, c)) (near : s.release.reach e c = .ok ())

include checked near

theorem execArrive_eq : execArrive a s = .next ((if e.arrived then s.release.blockOn (.barrierArrive e.index)
    else (s.release.arriveNow e c).next 4).reached e c) := by
  unfold execArrive
  simp only [checked, near, bind, Except.bind]
  rfl

theorem execAwait_eq : execAwait a s = .next ((if e.arrived then s.release.blockOn (.barrierAwait e.index) else s.release.next 4).reached e c) := by
  unfold execAwait
  simp only [checked, near, bind, Except.bind]
  rfl

theorem execBsync_eq : execBsync a s = .next ((if e.arrived then s.release.blockOn (.barrierSync e.index)
    else (s.release.blockOn (.barrierAwait e.index)).arriveNow e c).reached e c) := by
  unfold execBsync
  simp only [checked, near, bind, Except.bind]
  rfl

end

/-- The L1 goes where an arrival completed its phase; nothing else that an arrival leaves depends on it. -/
theorem State.arriveNow_eq (s : State) (e : Entry) (c : Cell) :
    (s.arriveNow e c).cur = ((s.arriveAt c e.index).phaseCheck c.id 8).cur
      ∧ (s.arriveNow e c).cells = ((s.arriveAt c e.index).phaseCheck c.id 8).cells := by
  simp only [State.arriveNow]
  split
  · exact ⟨rfl, rfl⟩
  · exact ⟨State.flushL1_cur _ _, State.flushL1_cells _ _⟩

theorem State.bar_of_cells {s t : State} {id : Nat} {c : Cell} (same : t.cells = s.cells) (here : s.cell? id = some c) :
    (t.cell? id).bind Cell.bar = c.bar := by
  rw [State.cell?, same, ← State.cell?, here]
  rfl

section

variable {u : State} {e : Entry} {c : Cell} {b : Barrier} (here : u.cell? c.id = some c) (bar : c.bar = some b)

include here bar

theorem State.arriveNow_counts (more : b.arrived + 1 < b.n) : (u.arriveNow e c).cur = u.cur
    ∧ (u.arriveNow e c).cell? c.id = some (c.arrived b) := by
  have arrived := State.cell?_arriveAt here bar e.index
  obtain ⟨cur, cells⟩ := u.arriveNow_eq e c
  rw [State.phaseCheck_open arrived rfl (Or.inl more)] at cur cells
  exact ⟨cur, by rwa [State.cell?, cells, ← State.cell?]⟩

theorem State.arriveNow_completes (last : b.n ≤ b.arrived + 1) (alone : u.barWaiters c.id = []) :
    (u.arriveNow e c).cur = u.cur ∧ ((u.arriveNow e c).cell? c.id).bind Cell.bar = some b.flipped := by
  have arrived := State.cell?_arriveAt here bar e.index
  have nobody : (u.arriveAt c e.index).barWaiters c.id = [] := (u.barWaiters_arriveAt c _ _).trans alone
  obtain ⟨cur, cells⟩ := u.arriveNow_eq e c
  rw [State.phaseCheck_alone arrived rfl ⟨last, Nat.succ_pos _⟩ nobody] at cur cells
  exact ⟨cur, State.bar_of_cells cells (State.cell?_flipped arrived rfl)⟩

/-- The last arrival of a context that itself awaits the phase: it goes on. -/
theorem State.arriveNow_passes (last : b.n ≤ b.arrived + 1) (one : u.barWaiters c.id = [(u.cur.pid, .barrierAwait e.index)])
    (named : u.cur.pid ≠ 0) (resident : u.cur.isResident = true) (runs : u.pausedCore u.cur.pid = none) :
    (u.arriveNow e c).cur = u.cur.completed (.step 4) ∧ ((u.arriveNow e c).cell? c.id).bind Cell.bar = some b.flipped := by
  have arrived := State.cell?_arriveAt here bar e.index
  have waits : (u.arriveAt c e.index).barWaiters c.id = [(u.cur.pid, .barrierAwait e.index)] := (u.barWaiters_arriveAt c _ _).trans one
  let v := (u.arriveAt c e.index).flipped c.id
  have found : v.proc? u.cur.pid = some u.cur := State.proc?_cur (s := v) named
  have clock : v.pausedCore u.cur.pid = none := (State.pausedCore_congr (State.proc?_cur named) found rfl rfl).trans runs
  have done : v.complete u.cur.pid (.step 4) = { v with cur := u.cur.completed (.step 4) } :=
    (State.complete_running found (Proc.out_of_resident resident) clock _).trans (v.updProc_cur _)
  have after : ((v.complete u.cur.pid (.step 4)).acquire u.cur.pid).cur = u.cur.completed (.step 4)
      ∧ ((v.complete u.cur.pid (.step 4)).acquire u.cur.pid).cells = v.cells := by
    rw [done, State.acquire]
    split
    · exact ⟨rfl, rfl⟩
    · split
      · exact ⟨State.flushL1_cur _ _, State.flushL1_cells _ _⟩
      · exact ⟨rfl, rfl⟩
  obtain ⟨cur, cells⟩ := u.arriveNow_eq e c
  rw [State.phaseCheck_one arrived rfl ⟨last, Nat.succ_pos _⟩ waits 7 after.2] at cur cells
  exact ⟨cur.trans after.1, State.bar_of_cells (cells.trans after.2) (State.cell?_flipped arrived rfl)⟩

end

/-- What a process waits in at the open endpoints of a barrier. -/
def State.waitAtBar (s : State) (id : Nat) (p : Proc) : Option (Pid × Wait) :=
  let here := fun i => (s.barEntries id).any (fun e => e.part == p.part && e.index == i && e.owner == p.pid)
  match p.wait with
  | .barrierArrive i => if here i then some (p.pid, p.wait) else none
  | .barrierAwait i => if here i then some (p.pid, p.wait) else none
  | .barrierSync i => if here i then some (p.pid, p.wait) else none
  | _ => none

theorem State.barWaiters_eq (s : State) (id : Nat) : s.barWaiters id = s.allProcs.filterMap (s.waitAtBar id) := rfl

/-- A context that blocks in the AWAIT of its endpoint, where nobody else waits, is the one that waits there. -/
theorem State.barWaiters_block {u : State} {e : Entry} {id : Nat} (named : u.cur.pid ≠ 0) (mem : e ∈ u.entries) (live : e.live = true)
    (cell : e.cell = id) (part : e.part = u.cur.part) (owner : e.owner = u.cur.pid) (alone : u.barWaiters id = []) :
    (u.blockOn (.barrierAwait e.index)).barWaiters id = [(u.cur.pid, .barrierAwait e.index)] := by
  have mine : (u.barEntries id).any (fun x => x.part == u.cur.part && x.index == e.index && x.owner == u.cur.pid) = true := by
    refine List.any_eq_true.mpr ⟨e, List.mem_filter.mpr ⟨mem, ?_⟩, ?_⟩
    · simp [live, cell]
    · simp [part, owner]
  have others : u.procs.filterMap (u.waitAtBar id) = [] := by
    rw [State.barWaiters_eq, State.allProcs, if_neg named, List.filterMap_cons] at alone
    split at alone
    · exact alone
    · cases alone
  have blocked : (u.blockOn (.barrierAwait e.index)).waitAtBar id (u.blockOn (.barrierAwait e.index)).cur
      = some (u.cur.pid, .barrierAwait e.index) := if_pos mine
  rw [State.barWaiters_eq, State.allProcs, if_neg (show (u.blockOn _).cur.pid ≠ 0 from named), List.filterMap_cons_some blocked]
  exact congrArg _ others

/-- Settles O30: an arrival counts in the cell and leaves the phase open until the last one, which flips it and wakes the BSYNC
that made it. -/
theorem barrierResults : Obligations.BarrierResults := by
  unfold Obligations.BarrierResults
  intro s a e c b u checked near bar named resident runs
  obtain ⟨entry, cell, _⟩ := State.checkE_spec checked
  obtain ⟨mem, live, part, _, owner⟩ := State.entryOf_spec entry
  have at_ : e.cell = c.id := (State.cell?_id cell).symm
  have here : u.cell? c.id = some c := by rwa [at_] at cell
  have arrive : exec (.arrive a) s = _ := execArrive_eq checked near
  have await_ : exec (.await a) s = _ := execAwait_eq checked near
  have bsync : exec (.bsync a) s = _ := execBsync_eq checked near
  have curs : ∀ t : State, (t.reached e c).cur = t.cur := fun t => State.cur_of_bare (t.reached_bare e c)
  have cells : ∀ t : State, ((t.reached e c).cell? c.id).bind Cell.bar = (t.cell? c.id).bind Cell.bar := fun t => by
    rw [State.cell?, State.cells_of_bare (t.reached_bare e c), ← State.cell?]
  refine ⟨fun arrived => ?_, fun fresh => ?_⟩
  · simp only [arrived, if_true] at arrive await_ bsync
    exact ⟨arrive, await_, bsync⟩
  simp only [fresh, Bool.false_eq_true, if_false] at arrive await_ bsync
  refine ⟨await_, fun more => ⟨⟨_, arrive, ?_⟩, ⟨_, bsync, ?_⟩⟩, fun last alone idle => ⟨⟨_, arrive, ?_⟩, ⟨_, bsync, ?_⟩⟩⟩
  · obtain ⟨cur, counts⟩ := State.arriveNow_counts (e := e) here bar more
    refine ⟨by rw [curs]; exact congrArg (fun p : Proc => p.ip + 4) cur, by rw [curs]; exact (congrArg Proc.wait cur :), (cells _).trans ?_⟩
    exact congrArg (fun o : Option Cell => o.bind Cell.bar) counts
  · obtain ⟨cur, counts⟩ := State.arriveNow_counts (u := u.blockOn (.barrierAwait e.index)) (e := e) here bar more
    refine ⟨by rw [curs]; exact (congrArg Proc.ip cur :), by rw [curs]; exact (congrArg Proc.wait cur :), (cells _).trans ?_⟩
    exact congrArg (fun o : Option Cell => o.bind Cell.bar) counts
  · obtain ⟨cur, flips⟩ := State.arriveNow_completes (e := e) here bar last alone
    exact ⟨by rw [curs]; exact congrArg (fun p : Proc => p.ip + 4) cur, (cells _).trans flips⟩
  · obtain ⟨cur, flips⟩ := State.arriveNow_passes (u := u.blockOn (.barrierAwait e.index)) here bar last
      (State.barWaiters_block named mem live at_ part owner alone) named resident
      ((State.pausedCore_congr (State.proc?_cur named) (State.proc?_cur (s := u.blockOn _) named) rfl rfl).trans runs)
    refine ⟨?_, ?_, (cells _).trans flips⟩
    · rw [curs, cur]
      exact Proc.completed_ip _ _
    · rw [curs, cur]
      exact Proc.completed_wait _ _

end Sys2Proof.Machine

end

section
/-! A claim where two cells stand under one id: what goes at the one goes at the other. -/

namespace Sys2Proof.Machine
open Sys2Proof Sys2Proof.Claims

/-- Process 1, in slot 0 of core 0, waiting in an ALT whose key is unclaimed. -/
def claimProc : Proc := { Proc.absent with pid := 1, place := .resident 0 0, wait := .alt 0 0 1 0 0 .unclaimed }

/-- Cell 5: arm 0 of that ALT, a receive, at end 0 and a SEND at end 1. -/
def claimCell : Cell :=
  { id := 5, part := 0, chid := 0, dh := false, kind := .chan, bar := none
    end0 := { EndSt.fresh .proc with post := some (.offer 0 false) }, end1 := { EndSt.fresh .proc with post := some (.send 7) } }

/-- A second cell of that id, where end 1 holds an offer. -/
def claimTwin : Cell := { claimCell with end1 := { EndSt.fresh .proc with post := some (.offer 1 false) } }

/-- The entry of an end of cell 5, owned by process 1. -/
def claimEntry (n : Nat) : Entry :=
  { part := 0, dh := false, index := n, gen := 0, cell := 5, number := n, owner := 1, arrived := false, live := true }

/-- The device with process 1 and both cells. -/
def claimState : State := { State.reset with cur := claimProc, cells := [claimCell, claimTwin], entries := [claimEntry 0, claimEntry 1] }

/-- The claim is granted; the offer withdrawn from the second cell takes the SEND of the first with it. -/
theorem claimState_unposted :
    (tryClaim 5 claimState).map (fun t => (t.cell? 5).map (fun n => n.end1.post)) = some (some none) := by
  decide +kernel

/-- Refutes O32: where the id of the cell names a second one whose other end holds an offer of the same ALT, withdrawing that
offer takes the partner's operation too. -/
theorem not_claimChoosesArm : ¬ Obligations.ClaimChoosesArm := by
  unfold Obligations.ClaimChoosesArm
  intro h
  obtain ⟨granted, _⟩ := h claimState claimCell claimProc 0 false (by decide) (by decide) (by decide) (by decide) (by decide) (by decide)
  obtain ⟨t, run, _, _, stays, _⟩ := granted 0 0 1 0 0 (by decide) (by decide) (by decide) (by decide) (by decide)
  have outcome : claimState.occur (tryClaim 5 claimState) = .next t := run
  have lost := claimState_unposted
  cases made : tryClaim 5 claimState with
  | none => rw [made] at lost; cases lost
  | some u =>
    rw [made] at lost outcome
    obtain rfl : u = t := by simpa [State.occur] using outcome
    have gone : (u.cell? 5).map (fun n => n.end1.post) = some none := Option.some.inj lost
    have here : (u.cell? 5).map (fun n => (n.end1.post, n.end0.post)) = some (some (.send 7), none) := stays
    have kept := congrArg (Option.map Prod.fst) here
    rw [Option.map_map] at kept
    have clash : some none = some (some (Posted.send 7)) := gone.symm.trans kept
    cases clash

end Sys2Proof.Machine
end

section
/-! The forms that make, move, describe and close endpoints (R318 to R322, R348, R349). -/

namespace Sys2Proof.Machine

open Sys2Proof Sys2Proof.Claims

/-! ### A fresh place in the tables -/

/-- Where the search ends at a used place, it has seen only used ones. -/
theorem firstFree_used (used : List Nat) : ∀ (fuel start : Nat), firstFree used start fuel ∈ used →
    ∀ k, k < fuel + 1 → start + k ∈ used := by
  intro fuel
  induction fuel with
  | zero =>
    intro start h k hk
    obtain rfl : k = 0 := by omega
    exact h
  | succ fuel ih =>
    intro start h k hk
    rw [firstFree] at h
    split at h
    next here =>
      cases k with
      | zero => exact List.contains_iff_mem.mp here
      | succ k =>
        have := ih (start + 1) h k (by omega)
        rwa [Nat.add_assoc, Nat.add_comm 1 k] at this
    next free => exact absurd (List.contains_iff_mem.mpr h) free

theorem firstFree_fresh (used : List Nat) (start : Nat) : firstFree used start (used.length + 1) ∉ used := by
  intro h
  have run : List.range' start (used.length + 2) ⊆ used := fun n hn => by
    obtain ⟨k, hk, rfl⟩ := List.mem_range'.mp hn
    rw [Nat.one_mul]
    exact firstFree_used used _ _ h k hk
  have := (List.subperm_of_subset List.nodup_range' run).length_le
  rw [List.length_range'] at this
  omega

theorem State.chooseFree_fresh {s : State} {n lo : Nat} {used : List Nat} {i : Nat} (h : s.chooseFree n lo used = some i) : i ∉ used := by
  simp only [State.chooseFree] at h
  split at h
  · obtain rfl := Option.some.inj h
    exact firstFree_fresh used _
  · split at h
    · obtain rfl := Option.some.inj h
      exact firstFree_fresh used _
    · cases h

theorem State.newCell_spec {s u : State} {part : Nat} {dh : Bool} {kind : CellKind} {h0 h1 : Holder} {bar : Option Barrier} {id : Nat}
    (h : s.newCell part dh kind h0 h1 bar = some (u, id)) :
    ∃ n : Cell, u = ({ s with cells := s.cells ++ [n], nextId := s.nextId + 1 } : State).drew
      ∧ n.id = id ∧ n.end0 = EndSt.fresh h0 ∧ n.end1 = EndSt.fresh h1 ∧ n.bar = bar := by
  simp only [State.newCell] at h
  generalize hc : (if dh = true then _ else _ : Option Nat) = chid at h
  cases chid with
  | none => cases h
  | some i =>
    obtain ⟨hu, hid⟩ := Prod.mk.inj (Option.some.inj h)
    exact ⟨_, hu.symm, hid, rfl, rfl, rfl⟩

/-- A new entry of device memory takes an index that no live entry of the partition has; what stood at it goes. -/
theorem State.newEntry_spec {s u : State} {part cell number : Nat} {owner : Pid} {w : Word32}
    (h : s.newEntry part false cell number owner = some (u, w)) :
    ∃ e : Entry, u = ({ s with entries := s.entries.filter (fun (x : Entry) => !(x.part == part && x.index == e.index)) ++ [e] } : State).drew
      ∧ e.handle = w ∧ e.part = part ∧ e.cell = cell ∧ e.number = number ∧ e.owner = owner ∧ e.live = true
      ∧ ∀ x ∈ s.entries, x.live = true → x.part = part → x.index ≠ e.index := by
  simp only [State.newEntry, Bool.false_eq_true, if_false] at h
  split at h
  · cases h
  next i chosen =>
    obtain ⟨hu, hw⟩ := Prod.mk.inj (Option.some.inj h)
    refine ⟨_, hu.symm, hw, rfl, rfl, rfl, rfl, rfl, fun x hx live part_ same => ?_⟩
    split at chosen
    · refine State.chooseFree_fresh chosen (List.mem_map.mpr ⟨x, List.mem_filter.mpr ⟨hx, ?_⟩, same⟩)
      simp [live, part_]
    · cases chosen

theorem State.newEntry_keeps {s u : State} {part cell number : Nat} {owner : Pid} {w : Word32}
    (h : s.newEntry part false cell number owner = some (u, w)) {x : Entry} (hx : x ∈ s.entries) (live : x.live = true) (at_ : x.part = part) :
    x ∈ u.entries := by
  obtain ⟨e, rfl, _, _, _, _, _, _, fresh⟩ := State.newEntry_spec h
  refine List.mem_append_left _ (List.mem_filter.mpr ⟨hx, ?_⟩)
  simp [fresh x hx live at_]

/-- A new entry changes the table of entries alone. -/
theorem State.newEntry_rest {s u : State} {part cell number : Nat} {owner : Pid} {w : Word32}
    (h : s.newEntry part false cell number owner = some (u, w)) :
    u.cur = s.cur ∧ u.cells = s.cells ∧ (Calm s → Calm u)
      ∧ ∃ e ∈ u.entries, e.handle = w ∧ e.number = number ∧ e.cell = cell ∧ e.owner = owner ∧ e.live = true ∧ e.part = part := by
  obtain ⟨e, rfl, handle, at_, cell, number, owner, live, _⟩ := State.newEntry_spec h
  exact ⟨rfl, rfl, fun calm => calm, e, List.mem_append_right _ (List.mem_singleton_self e), handle, number, cell, owner, live, at_⟩

/-- A new channel: an open cell with nothing posted and its two entries, both of the partition's own. -/
theorem State.newChannel_spec {s u : State} {part : Nat} {o0 o1 : Pid} {h0 h1 : Word32} {id : Nat}
    (h : s.newChannel part o0 o1 = .ok (u, h0, h1, id)) :
    u.cur = s.cur ∧ (Calm s → Calm u)
      ∧ (∃ n ∈ u.cells, n.id = id ∧ n.end0 = EndSt.fresh .proc ∧ n.end1 = EndSt.fresh .proc ∧ n.bar = none)
      ∧ ∃ x ∈ u.entries, ∃ y ∈ u.entries, x.handle = h0 ∧ y.handle = h1 ∧ x.number = 0 ∧ y.number = 1 ∧ x.cell = id ∧ y.cell = id
          ∧ x.owner = o0 ∧ y.owner = o1 ∧ x.live = true ∧ y.live = true := by
  simp only [State.newChannel] at h
  split at h
  · cases h
  next s1 i cell =>
    split at h
    · cases h
    next s2 w0 first =>
      split at h
      · cases h
      next s3 w1 second =>
        split at h
        · cases h
        next c here =>
          split at h
          · cases h
          · cases h
          · cases h
          · cases h
            obtain ⟨n, rfl, idn, end0, end1, bar⟩ := State.newCell_spec cell
            obtain ⟨cur1, cells1, calm1, x, hx, xh, xn, xc, xo, xl, xp⟩ := State.newEntry_rest first
            obtain ⟨cur2, cells2, calm2, y, hy, yh, yn, yc, yo, yl, _⟩ := State.newEntry_rest second
            refine ⟨cur2.trans cur1, fun calm => calm2 (calm1 calm), ⟨n, ?_, idn, end0, end1, bar⟩, x, State.newEntry_keeps second hx xl xp,
              y, hy, xh, yh, xn, yn, xc, yc, xo, yo, xl, yl⟩
            rw [cells2, cells1]
            exact List.mem_append_right _ (List.mem_singleton_self n)

/-! ### What each form answers -/

theorem State.emptyE_ok {s : State} {x : EReg} (h : s.rdE x = 0) : s.emptyE x = .ok () := if_pos h

theorem State.emptyE_full {s : State} {x : EReg} (h : s.rdE x ≠ 0) : ∃ a, s.emptyE x = .error (endpointTrap a x) := ⟨_, if_neg h⟩

theorem State.useE_of_checkE {s : State} {x : EReg} {kinds : List Nat} {e : Entry} {c : Cell} (h : s.checkE x kinds = .ok (e, c)) :
    s.rdE x ≠ 0 ∧ s.useE x = .ok (e, c) := by
  obtain ⟨entry, cell, _⟩ := State.checkE_spec h
  refine ⟨fun zero => ?_, ?_⟩
  · rw [State.entryOf, if_pos zero] at entry
    cases entry
  · simp only [State.useE, entry, cell]

section

variable {s u v : State} {d a : EReg} {r : SReg} {h0 h1 : Word32} {id : Nat} {e : Entry} {c : Cell}

theorem execChnew_eq (free0 : s.rdE d = 0) (free1 : s.rdE a = 0) (made : s.newChannel s.cur.part s.cur.pid s.cur.pid = .ok (u, h0, h1, id)) :
    execChnew d a s = .next ((((u.wrE d h0).wrE a h1).next 4).reachedNew s.cur.part id [h0, h1]) := by
  unfold execChnew
  simp only [State.emptyE_ok free0, State.emptyE_ok free1, made, bind, Except.bind]
  rfl

theorem execChnew_full (free0 : s.rdE d = 0) (free1 : s.rdE a = 0) (full : s.newCell s.cur.part false .chan .proc .proc none = none) :
    execChnew d a s = .next (s.takeTrap noEndpoint) := by
  unfold execChnew
  simp only [State.emptyE_ok free0, State.emptyE_ok free1, State.newChannel, full, bind, Except.bind]
  rfl

theorem execEmov_eq (checked : s.checkE a anyKind = .ok (e, c)) (free : s.rdE d = 0) :
    execEmov d a s = .next ((((s.wrE d (s.rdE a)).wrE a 0).next 4).moved) := by
  unfold execEmov
  simp only [checked, State.emptyE_ok free, bind, Except.bind]
  rfl

theorem execEmov_full (checked : s.checkE a anyKind = .ok (e, c)) (full : s.rdE d ≠ 0) :
    ∃ x : Word, execEmov d a s = .next (s.takeTrap { cause := .endpoint, addr := x, detail := BitVec.ofNat 40 d.val }) := by
  obtain ⟨x, traps⟩ := State.emptyE_full full
  refine ⟨x, ?_⟩
  unfold execEmov
  simp only [checked, traps, bind, Except.bind]
  rfl

theorem execEmov_none (none : s.rdE a = 0) :
    execEmov d a s = .next (s.takeTrap { cause := .endpoint, addr := 0, detail := BitVec.ofNat 40 a.val }) := by
  have missing : s.checkE a anyKind = .error (endpointTrap 0 a) := by
    have entry : s.entryOf s.cur.part s.cur.pid (s.rdE a) = .none := if_pos none
    simp only [State.checkE, State.useE, entry]
  unfold execEmov
  simp only [missing, bind, Except.bind]
  rfl

theorem execEinfo_none (none : s.rdE a = 0) : execEinfo r a s = put s r 0 4 := if_pos none

theorem execEinfo_dead (some_ : s.rdE a ≠ 0) (dead : s.entryOf s.cur.part s.cur.pid (s.rdE a) = none) :
    execEinfo r a s = put s r (7 <<< 61) 4 := by
  unfold execEinfo
  rw [if_neg some_]
  simp only [State.useE, dead]
  rfl

theorem execEinfo_eq (checked : s.checkE a anyKind = .ok (e, c)) (near : s.reach e c = .ok ()) :
    execEinfo r a s = .next (((s.wr r (infoWord e c)).next 4).reached e c) := by
  obtain ⟨some_, used⟩ := State.useE_of_checkE checked
  unfold execEinfo
  rw [if_neg some_]
  simp only [used, near, bind, Except.bind]
  rfl

theorem execBrnew_range (free : s.rdE d = 0) (out : (s.rd r).toNat < 2 ∨ 4096 < (s.rd r).toNat) :
    execBrnew d r s = .next (s.takeTrap (.at .illegal 0)) := by
  unfold execBrnew
  have bad : (decide ((s.rd r).toNat < 2) || decide (4096 < (s.rd r).toNat)) = true := by simpa using out
  simp only [State.emptyE_ok free, trapIf, bad, bind, Except.bind]
  rfl

theorem execBrnew_eq (free : s.rdE d = 0) (low : 2 ≤ (s.rd r).toNat) (high : (s.rd r).toNat ≤ 4096)
    (cell : s.newCell s.cur.part false .chan .proc .proc (some { n := (s.rd r).toNat, k := 1, lower := 0, phase := 0, arrived := 0 }) = some (u, id))
    (entry : u.newEntry s.cur.part false id 0 s.cur.pid = some (v, h0)) (here : u.cell? id = some c) (near : v.reachCell c = .ok ())
    (handle : v.reachHandle s.cur.part c h0 = .ok ()) :
    execBrnew d r s = .next (((v.wrE d h0).next 4).reachedNew s.cur.part id [h0]) := by
  unfold execBrnew
  have good : (decide ((s.rd r).toNat < 2) || decide (4096 < (s.rd r).toNat)) = false := by simp; omega
  simp only [State.emptyE_ok free, trapIf, good, cell, entry, here, near, handle, bind, Except.bind]
  rfl

theorem execBrep_full {b : Barrier} (checked : s.checkE a [2] = .ok (e, c)) (free : s.rdE d = 0) (bar : c.bar = some b) (full : b.n - b.lower ≤ b.k) :
    execBrep d a s = .next (s.takeTrap { cause := .endpoint, addr := c.word, detail := BitVec.ofNat 40 a.val }) := by
  unfold execBrep
  simp only [checked, State.emptyE_ok free, bar, if_pos full, bind, Except.bind]
  rfl

theorem execBrep_eq {b : Barrier} (checked : s.checkE a [2] = .ok (e, c)) (free : s.rdE d = 0) (bar : c.bar = some b) (room : b.k < b.n - b.lower)
    (entry : s.newEntry s.cur.part false c.id (s.nextNumber c) s.cur.pid = some (u, h0)) (near : s.reach e c = .ok ())
    (handle : u.reachHandle s.cur.part c h0 = .ok ()) :
    execBrep d a s = .next (((((u.updBar c.id (fun b => { b with k := b.k + 1 })).wrE d h0).next 4).reached e c).reachedNew s.cur.part c.id [h0]) := by
  unfold execBrep
  simp only [checked, State.emptyE_ok free, bar, if_neg (Nat.not_le.mpr room), entry, near, handle, bind, Except.bind]
  rfl

theorem execChclose_eq (checked : s.release.checkE a anyKind = .ok (e, c)) (near : s.release.reach e c = .ok ()) :
    execChclose a s = .next ((((s.release.wrE a 0).closeEntry e).next 4).reached e c) := by
  unfold execChclose
  simp only [checked, near, bind, Except.bind]
  rfl

end

end Sys2Proof.Machine

end

section
/-! The endpoint forms settled: CHNEW, EMOV, EINFO, BRNEW, BREP, CHCLOSE (O26). -/

namespace Sys2Proof.Machine

open Sys2Proof Sys2Proof.Claims

/-! ### Closing an end with nothing posted at the other -/

/-- A process that waits in an ALT, with another key. -/
def Proc.keyed (p : Proc) (k : Key) : Proc :=
  match p.wait with
  | .alt d e a r q _ => { p with wait := .alt d e a r q k }
  | _ => p

theorem State.setKey_eq (s : State) (pid : Pid) (k : Key) : s.setKey pid k = s.updProc pid (fun p => p.keyed k) := rfl

theorem Proc.keyed_rest (p : Proc) (k : Key) : ∃ w, p.keyed k = { p with wait := w } := by
  unfold Proc.keyed
  split
  · exact ⟨_, rfl⟩
  · exact ⟨p.wait, rfl⟩

/-- A key that returns to unclaimed leaves of the context that executes all but what it waits in. -/
theorem State.freeKey_rest (s : State) (c : Cell) (b : Bool) :
    (s.freeKey c b).cells = s.cells ∧ ∃ w, (s.freeKey c b).cur = { s.cur with wait := w } := by
  unfold State.freeKey
  split
  · exact ⟨rfl, s.cur.wait, rfl⟩
  next q owner =>
    split
    · rw [State.setKey_eq, State.updProc]
      split
      · exact ⟨rfl, s.cur.keyed_rest .unclaimed⟩
      · exact ⟨rfl, s.cur.wait, rfl⟩
    · exact ⟨rfl, s.cur.wait, rfl⟩

theorem State.freeCell_cur (s : State) (id : Nat) : (s.freeCell id).cur = s.cur := by
  unfold State.freeCell
  split
  · rfl
  · split <;> rfl

@[simp] theorem Cell.side_setSide (c : Cell) (b : Bool) (e : EndSt) : (c.setSide b e).side b = e := by cases b <;> rfl
@[simp] theorem Cell.side_setSide_other (c : Cell) (b : Bool) (e : EndSt) : (c.setSide b e).side (!b) = c.side (!b) := by cases b <;> rfl
@[simp] theorem Cell.setSide_id (c : Cell) (b : Bool) (e : EndSt) : (c.setSide b e).id = c.id := by cases b <;> rfl

theorem Cell.unposted_of_sides {c : Cell} (b : Bool) (h : (c.side b).post = none) (k : (c.side (!b)).post = none) :
    c.end0.post = none ∧ c.end1.post = none := by
  cases b
  · exact ⟨h, k⟩
  · exact ⟨k, h⟩

theorem State.unbind_cell? {s : State} {c : Cell} (here : s.cell? c.id = some c) :
    ∃ n, (s.unbind c.id).cell? c.id = some n ∧ n.end0.post = c.end0.post ∧ n.end1.post = c.end1.post := by
  have first := State.cell?_updEnd here false (fun e => { e with bound := false })
  have second := State.cell?_updEnd (s := s.updEnd c.id false (fun e => { e with bound := false }))
    (x := c.setSide false { c.side false with bound := false }) first true (fun e => { e with bound := false })
  exact ⟨_, second, rfl, rfl⟩

/-- Closing an end of a channel where nobody waits at the other leaves the context that executes, but for a key. -/
theorem State.closeEnd_rest {s : State} {c : Cell} {b : Bool} (here : s.cell? c.id = some c) (alone : (c.side (!b)).post = none) :
    ∃ w, (s.closeEnd c.id b).cur = { s.cur with wait := w } := by
  obtain ⟨cells, w, cur⟩ := s.freeKey_rest c (!b)
  have kept : (s.freeKey c (!b)).cell? c.id = some c := by rwa [State.cell?, cells]
  let shut := fun e : EndSt => { e with closed := true, held := none, post := none }
  have closed : ((s.freeKey c (!b)).updEnd c.id b shut).cell? (c.setSide b (shut (c.side b))).id = some (c.setSide b (shut (c.side b))) := by
    rw [Cell.setSide_id]
    exact State.cell?_updEnd kept b shut
  obtain ⟨n, found, post0, post1⟩ := State.unbind_cell? closed
  rw [Cell.setSide_id] at found
  obtain ⟨none0, none1⟩ := Cell.unposted_of_sides (c := c.setSide b (shut (c.side b))) b (by rw [Cell.side_setSide])
    (by rw [Cell.side_setSide_other]; exact alone)
  have settled := State.settled_unposted (s := (((s.freeKey c (!b)).updEnd c.id b shut).unbind c.id).dropEntry c b) (x := n) found
    (post0.trans none0) (post1.trans none1)
  refine ⟨w, ?_⟩
  rw [State.closeEnd]
  simp only [here]
  refine (State.freeCell_cur _ _).trans ?_
  rw [settled]
  exact cur

/-! ### The obligation -/

theorem State.release_idle {s : State} (idle : s.cur.stores = []) : s.release = s := by
  unfold State.release State.drain
  split
  · rfl
  next p found =>
    have this : p = s.cur := by
      rw [State.proc?] at found
      split at found
      · cases found
      · exact (Option.some.inj (by rwa [if_pos rfl] at found)).symm
    rw [if_pos (by rw [this, idle]; rfl)]

section

variable {s u v : State} {d a : EReg} {r : SReg} {h0 h1 : Word32} {id : Nat} {e : Entry} {c : Cell}

/-- CHNEW makes an open cell and puts the handles of its two ends into the registers it names. -/
theorem exec_chnew_spec (free0 : s.rdE d = 0) (free1 : s.rdE a = 0) (apart : d ≠ a)
    (made : s.newChannel s.cur.part s.cur.pid s.cur.pid = .ok (u, h0, h1, id)) :
    ∃ t, exec (.chnew d a) s = .next t ∧ t.cur.ip = s.cur.ip + 4 ∧ t.rdE d = h0 ∧ t.rdE a = h1
      ∧ (∀ k, k ≠ d → k ≠ a → t.rdE k = s.rdE k) ∧ (∀ k, t.rd k = s.rd k) ∧ (Calm s → SameBytes s t)
      ∧ (∃ n ∈ t.cells, n.id = id ∧ n.end0.post = none ∧ n.end1.post = none ∧ n.end0.closed = false ∧ n.end1.closed = false ∧ n.bar = none)
      ∧ ∃ x ∈ t.entries, ∃ y ∈ t.entries, x.handle = h0 ∧ y.handle = h1 ∧ x.number = 0 ∧ y.number = 1
          ∧ x.cell = id ∧ y.cell = id ∧ x.owner = s.cur.pid ∧ y.owner = s.cur.pid ∧ x.live = true ∧ y.live = true := by
  obtain ⟨cur, calm, ⟨n, hn, idn, end0, end1, bar⟩, ends⟩ := State.newChannel_spec made
  have bare := State.reachedNew_bare (((u.wrE d h0).wrE a h1).next 4) s.cur.part id [h0, h1]
  have regs : ∀ k, State.rdE _ k = (((u.wrE d h0).wrE a h1).next 4).rdE k := fun k => congrArg (fun p : Proc => p.e[k]) (State.cur_of_bare bare)
  have values : ∀ k, (((u.wrE d h0).wrE a h1).next 4).rdE k = if k = a then h1 else if k = d then h0 else s.rdE k := fun k => by
    refine ((u.wrE d h0).rdE_wrE a k h1).trans ?_
    rw [State.rdE_wrE]
    refine if_congr Iff.rfl rfl (if_congr Iff.rfl rfl ?_)
    exact (congrArg (fun p : Proc => p.e[k]) cur :)
  refine ⟨_, execChnew_eq free0 free1 made, ?_, ?_, ?_, fun k hd ha => ?_, fun k => ?_, fun quiet => ?_, ?_, ?_⟩
  · rw [State.cur_of_bare bare]
    exact (congrArg (fun p : Proc => p.ip + 4) cur :)
  · rw [regs, values, if_neg apart, if_pos rfl]
  · rw [regs, values, if_pos rfl]
  · rw [regs, values, if_neg ha, if_neg hd]
  · rw [State.rd_of_bare bare, State.next_rd, State.wrE_rd, State.wrE_rd]
    exact (congrArg (fun p : Proc => p.rd k) cur :)
  · have here := (State.newChannel_same made).trans (((u.wrE_same d h0).trans (State.wrE_same _ a h1)).trans (State.next_same _ 4))
    exact (here.trans (State.reachedNew_calm (s := ((u.wrE d h0).wrE a h1).next 4) (calm quiet) _ _ _).same).bytes
  · refine ⟨n, by rwa [State.cells_of_bare bare], idn, ?_⟩
    rw [end0, end1]
    exact ⟨rfl, rfl, rfl, rfl, bar⟩
  · rw [State.entries_of_bare bare]
    exact ends

/-- EMOV moves a handle and empties its source. -/
theorem exec_emov_spec (checked : s.checkE a anyKind = .ok (e, c)) (free : s.rdE d = 0) (apart : d ≠ a) :
    ∃ t, exec (.emov d a) s = .next t ∧ t.cur.ip = s.cur.ip + 4 ∧ t.rdE d = s.rdE a ∧ t.rdE a = 0
      ∧ (∀ k, k ≠ d → k ≠ a → t.rdE k = s.rdE k) ∧ t.entries = s.entries ∧ SameBytes s t ∧ t.cur.waitGen = s.cur.waitGen + 1
      ∧ ∀ k, t.rd k = s.rd k := by
  have values : ∀ k, ((((s.wrE d (s.rdE a)).wrE a 0).next 4).moved).rdE k = if k = a then 0 else if k = d then s.rdE a else s.rdE k := fun k =>
    ((s.wrE d (s.rdE a)).rdE_wrE a k 0).trans (by rw [State.rdE_wrE])
  refine ⟨_, execEmov_eq checked free, rfl, ?_, ?_, fun k hd ha => ?_, rfl, ?_, rfl, fun k => rfl⟩
  · rw [values, if_neg apart, if_pos rfl]
  · rw [values, if_pos rfl]
  · rw [values, if_neg ha, if_neg hd]
  · exact fun pa => rfl

theorem exec_einfo_spec (checked : s.checkE a anyKind = .ok (e, c)) (near : s.reach e c = .ok ()) :
    ∃ t, exec (.einfo r a) s = .next t ∧ t.cur = ((s.wr r (infoWord e c)).next 4).cur ∧ t.cells = s.cells ∧ t.entries = s.entries
      ∧ (Calm s → SameBytes s t) := by
  have bare := State.reached_bare ((s.wr r (infoWord e c)).next 4) e c
  refine ⟨_, execEinfo_eq checked near, State.cur_of_bare bare, (State.cells_of_bare bare :), (State.entries_of_bare bare :), fun quiet => ?_⟩
  exact (State.reached_calm (s := (s.wr r (infoWord e c)).next 4) quiet e c).same.bytes

/-- BRNEW makes a barrier and puts the handle of its first endpoint into the register it names. -/
theorem exec_brnew_spec (free : s.rdE d = 0) (low : 2 ≤ (s.rd r).toNat) (high : (s.rd r).toNat ≤ 4096)
    (cell : s.newCell s.cur.part false .chan .proc .proc (some { n := (s.rd r).toNat, k := 1, lower := 0, phase := 0, arrived := 0 }) = some (u, id))
    (entry : u.newEntry s.cur.part false id 0 s.cur.pid = some (v, h0)) (here : u.cell? id = some c) (near : v.reachCell c = .ok ())
    (handle : v.reachHandle s.cur.part c h0 = .ok ()) :
    ∃ t, exec (.brnew d r) s = .next t ∧ t.cur.ip = s.cur.ip + 4 ∧ t.rdE d = h0 ∧ (∀ k, t.rd k = s.rd k)
      ∧ (∃ n ∈ t.cells, n.id = id ∧ n.bar = some { n := (s.rd r).toNat, k := 1, lower := 0, phase := 0, arrived := 0 })
      ∧ ∃ x ∈ t.entries, x.handle = h0 ∧ x.number = 0 ∧ x.cell = id ∧ x.owner = s.cur.pid := by
  obtain ⟨n, rfl, idn, _, _, bar⟩ := State.newCell_spec cell
  obtain ⟨cur, cells, _, x, hx, xh, xn, xc, xo, _, _⟩ := State.newEntry_rest entry
  have bare := State.reachedNew_bare ((v.wrE d h0).next 4) s.cur.part id [h0]
  refine ⟨_, execBrnew_eq free low high cell entry here near handle, ?_, ?_, fun k => ?_, ⟨n, ?_, idn, bar⟩, x, ?_, xh, xn, xc, xo⟩
  · rw [State.cur_of_bare bare]
    exact (congrArg (fun p : Proc => p.ip + 4) cur :)
  · exact (congrArg (fun p : Proc => p.e[d]) (State.cur_of_bare bare)).trans (((v.rdE_wrE d d h0)).trans (if_pos rfl))
  · rw [State.rd_of_bare bare, State.next_rd, State.wrE_rd]
    exact (congrArg (fun p : Proc => p.rd k) cur :)
  · rw [State.cells_of_bare bare]
    exact cells ▸ List.mem_append_right _ (List.mem_singleton_self n)
  · rwa [State.entries_of_bare bare]

/-- BREP makes one more endpoint of a barrier that expects it. -/
theorem exec_brep_spec {b : Barrier} (checked : s.checkE a [2] = .ok (e, c)) (free : s.rdE d = 0) (bar : c.bar = some b) (room : b.k < b.n - b.lower)
    (entry : s.newEntry s.cur.part false c.id (s.nextNumber c) s.cur.pid = some (u, h0)) (near : s.reach e c = .ok ())
    (handle : u.reachHandle s.cur.part c h0 = .ok ()) :
    ∃ t, exec (.brep d a) s = .next t ∧ t.cur.ip = s.cur.ip + 4 ∧ t.rdE d = h0 ∧ (∀ k, t.rd k = s.rd k)
      ∧ (∃ n ∈ t.cells, n.id = c.id ∧ n.bar = some { b with k := b.k + 1 })
      ∧ ∃ x ∈ t.entries, x.handle = h0 ∧ x.cell = c.id ∧ x.owner = s.cur.pid := by
  obtain ⟨_, found, _⟩ := State.checkE_spec checked
  obtain ⟨cur, cells, _, x, hx, xh, _, xc, xo, _, _⟩ := State.newEntry_rest entry
  let w := ((u.updBar c.id (fun b => { b with k := b.k + 1 })).wrE d h0).next 4
  have bare : ((w.reached e c).reachedNew s.cur.part c.id [h0]).bare = w.bare := (State.reachedNew_bare _ _ _ _).trans (w.reached_bare e c)
  refine ⟨_, execBrep_eq checked free bar room entry near handle, ?_, ?_, fun k => ?_, ⟨{ c with bar := some { b with k := b.k + 1 } }, ?_, rfl, rfl⟩,
    x, ?_, xh, xc, xo⟩
  · rw [State.cur_of_bare bare]
    exact (congrArg (fun p : Proc => p.ip + 4) cur :)
  · exact (congrArg (fun p : Proc => p.e[d]) (State.cur_of_bare bare)).trans (((u.updBar c.id _).rdE_wrE d d h0).trans (if_pos rfl))
  · rw [State.rd_of_bare bare]
    exact (congrArg (fun p : Proc => p.rd k) cur :)
  · rw [State.cells_of_bare bare]
    refine List.mem_map.mpr ⟨c, ?_, ?_⟩
    · rw [cells]
      exact List.mem_of_find?_eq_some found
    · rw [if_pos rfl]
      exact congrArg (fun o : Option Barrier => ({ c with bar := o.map fun b => { b with k := b.k + 1 } } : Cell)) bar
  · rwa [State.entries_of_bare bare]

/-- CHCLOSE of a channel's end at whose other end nothing is posted empties the register and goes on. -/
theorem exec_chclose_spec (idle : s.cur.stores = []) (checked : s.checkE a anyKind = .ok (e, c)) (near : s.reach e c = .ok ())
    (chan : c.bar = none) (alone : (c.side (!(e.side c))).post = none) :
    ∃ t, exec (.chclose a) s = .next t ∧ (t.cur.ip = s.cur.ip + 4 ∧ ∀ k, t.rd k = s.rd k) ∧ t.rdE a = 0 := by
  obtain ⟨_, found, _⟩ := State.checkE_spec checked
  have here : (s.wrE a 0).cell? c.id = some c := by rwa [State.cell?_id found]
  have shut : (s.wrE a 0).closeEntry e = (s.wrE a 0).closeEnd c.id (e.side c) := by
    have at_ : (s.wrE a 0).cell? e.cell = some c := found
    simp only [State.closeEntry, at_, chan]
    rfl
  obtain ⟨w, cur⟩ := State.closeEnd_rest here alone
  have eq : exec (.chclose a) s = .next ((((s.wrE a 0).closeEnd c.id (e.side c)).next 4).reached e c) := by
    have := execChclose_eq (s := s) (a := a) (by rwa [State.release_idle idle]) (by rwa [State.release_idle idle])
    rw [State.release_idle idle, shut] at this
    exact this
  have bare := State.reached_bare (((s.wrE a 0).closeEnd c.id (e.side c)).next 4) e c
  refine ⟨_, eq, ⟨?_, fun k => ?_⟩, ?_⟩
  · rw [State.cur_of_bare bare]
    exact (congrArg (fun p : Proc => p.ip + 4) cur :)
  · rw [State.rd_of_bare bare]
    exact (congrArg (fun p : Proc => p.rd k) cur :)
  · refine (congrArg (fun p : Proc => p.e[a]) (State.cur_of_bare bare)).trans (Eq.trans ?_ ((s.rdE_wrE a a 0).trans (if_pos rfl)))
    exact (congrArg (fun p : Proc => p.e[a]) cur :)

end

/-- Settles O26: what each form answers where its checks pass, and the trap where one fails. -/
theorem endpointForms : Obligations.EndpointForms := by
  unfold Obligations.EndpointForms
  refine ⟨?_, ?_⟩
  · intro s u v d a r h0 h1 id e c
    refine ⟨exec_chnew_spec, fun free0 free1 full => execChnew_full free0 free1 full, fun checked => ⟨fun free apart => ?_, fun full _ => ?_, fun near => ?_⟩,
      fun none => ⟨execEinfo_none none, execEmov_none none⟩, fun some_ dead => execEinfo_dead some_ dead,
      fun free => ⟨fun out => execBrnew_range free out, fun low high cell entry here near handle => ?_⟩,
      fun b checked free bar => ⟨fun full => ⟨_, execBrep_full checked free bar full⟩, fun room entry near handle => ?_⟩, ?_⟩
    · obtain ⟨t, run, ip, at_d, at_a, others, entries, bytes, gen, _⟩ := exec_emov_spec checked free apart
      exact ⟨t, run, ip, at_d, at_a, others, entries, bytes, gen⟩
    · exact execEmov_full checked full
    · exact exec_einfo_spec checked near
    · exact exec_brnew_spec free low high cell entry here near handle
    · exact exec_brep_spec checked free bar room entry near handle
    · rintro rfl checked near
      exact execChclose_eq checked near
  · intro s u v d x r h0 h1 id e c b past
    refine ⟨fun free0 free1 apart made => ?_, fun checked free apart => ?_, fun none => execEinfo_none none, fun checked near => ?_,
      fun free low high cell entry here near handle => ?_, fun checked free bar room entry near handle => ?_, exec_chclose_spec⟩
    · obtain ⟨t, run, ip, at_d, at_x, _, regs, _⟩ := exec_chnew_spec free0 free1 apart made
      exact ⟨t, run, ⟨ip, regs⟩, at_d, at_x⟩
    · obtain ⟨t, run, ip, at_d, at_x, _, _, _, _, regs⟩ := exec_emov_spec checked free apart
      exact ⟨t, run, ⟨ip, regs⟩, at_d, at_x⟩
    · obtain ⟨t, run, cur, _⟩ := exec_einfo_spec (r := r) checked near
      refine ⟨t, run, by rw [cur]; simp, fun some_ => ?_, fun k other => ?_⟩
      · exact (congrArg (fun p : Proc => p.rd r) cur).trans (State.rd_wr_same s r _ some_)
      · exact (congrArg (fun p : Proc => p.rd k) cur).trans (State.rd_wr_other s r k _ other)
    · obtain ⟨t, run, ip, at_d, regs, _⟩ := exec_brnew_spec free low high cell entry here near handle
      exact ⟨t, run, ⟨ip, regs⟩, at_d⟩
    · obtain ⟨t, run, ip, at_d, regs, _⟩ := exec_brep_spec checked free bar room entry near handle
      exact ⟨t, run, ⟨ip, regs⟩, at_d⟩

end Sys2Proof.Machine

end

section
/-! What reaching the areas leaves of the stores on their way, and the channel forms that post (O27). -/

namespace Sys2Proof.Machine

open Sys2Proof Sys2Proof.Claims

/-! ### Nothing is handed to a link by a read -/

/-- What is on its way in the second state was on its way in the first. -/
def OutKept (s t : State) : Prop := t.outbox ⊆ s.outbox

theorem OutKept.refl (s : State) : OutKept s s := List.Subset.refl _

theorem OutKept.trans {s t u : State} (h : OutKept s t) (k : OutKept t u) : OutKept s u := List.Subset.trans k h

theorem OutKept.of_eq {s t : State} (h : t.outbox = s.outbox) : OutKept s t := by
  rw [OutKept, h]
  exact List.Subset.refl _

theorem OutKept.foldl {α : Type} (f : State → α → State) (hf : ∀ s a, OutKept s (f s a)) (l : List α) : ∀ s, OutKept s (l.foldl f s) := by
  induction l with
  | nil => exact OutKept.refl
  | cons a l ih => exact fun s => (hf s a).trans (ih _)

theorem CacheKept.outKept {s t : State} (h : CacheKept s t) : OutKept s t := by
  obtain ⟨_, _, _, _, rfl⟩ := h
  exact OutKept.refl s

theorem State.rawPut_outKept (s : State) (pa : Nat) (l : List Byte) : OutKept s (s.rawPut pa l) := by
  unfold State.rawPut
  split <;> exact OutKept.refl s

theorem State.sealSector_outKept (key : Option Nat) (pa n : Nat) (s : State) (sec : Nat) : OutKept s (State.sealSector key pa n s sec) := by
  unfold State.sealSector
  split
  · exact OutKept.refl s
  · dsimp only
    split
    · exact OutKept.refl s
    · exact State.rawPut_outKept s _ _

theorem State.sealFor_outKept (s : State) (key : Option Nat) (pa n : Nat) : OutKept s (s.sealFor key pa n) := by
  unfold State.sealFor
  split
  · exact OutKept.foldl _ (State.sealSector_outKept key pa n) _ s
  · exact OutKept.refl s

theorem State.logEntry_outKept (s : State) (part a b c : Nat) : OutKept s (s.logEntry part a b c) := by
  unfold State.logEntry
  split
  · exact OutKept.refl s
  · extract_lets q at_ s1
    have marks : ∀ t : State, OutKept t (t.wholeMarks at_ 64) := fun t => OutKept.of_eq rfl
    have first : OutKept s s1 := (State.sealFor_outKept s none at_ 64).trans ((marks _).trans (State.rawPut_outKept _ _ _))
    exact first.trans ((State.rawPut_outKept s1 at_ _).trans (OutKept.of_eq (State.updPart_outbox _ _ _)))

theorem State.readSector_outKept (s : State) (sec : Nat) : OutKept s (s.readSector sec) := by
  have logs : ∀ (t : State) (a b c : Nat), OutKept t (t.logMemory a b c) := fun t a b c => by
    unfold State.logMemory
    split
    · exact State.logEntry_outKept _ _ _ _ _
    · exact OutKept.refl _
  unfold State.readSector
  split
  · exact OutKept.refl s
  · split
    · exact OutKept.refl s
    · dsimp only
      split <;> exact logs _ _ _ _

theorem State.readRange_outKept (s : State) (pa n : Nat) : OutKept s (s.readRange pa n) := by
  unfold State.readRange
  split
  · exact OutKept.foldl _ State.readSector_outKept _ s
  · exact OutKept.refl s

theorem State.flushOut_outKept (s : State) (f : OutStore → Bool) : OutKept s (s.flushOut f) := List.drop_subset _ _

theorem State.noteRead_outKept (s : State) (v : Via) (pa n : Nat) : OutKept s (s.noteRead v pa n) := by
  have flushed : OutKept s (s.flushFor pa) := by
    unfold State.flushFor
    split
    · exact OutKept.refl s
    · exact State.flushOut_outKept s _
  exact flushed.trans ((State.readRange_outKept _ pa n).trans ((State.noteKey_cacheKept _ v.key pa n).outKept.trans
    (State.fillL2_l2Kept _ v pa n).cacheKept.outKept))

theorem State.readNodes_outKept (s : State) (p : Part) (va : Word) : OutKept s (s.readNodes p va) := by
  unfold State.readNodes
  split
  · exact OutKept.foldl _ (fun s a => State.noteRead_outKept s _ a 8) _ s
  · exact OutKept.refl s

theorem State.prefetch_outKept (s : State) (p : Part) (level : Nat) (leaf : Word) (x : Prefetch) : OutKept s (s.prefetch p level leaf x) := by
  unfold State.prefetch
  dsimp only
  split
  · exact State.noteRead_outKept _ _ _ _
  · exact OutKept.refl s

theorem State.finishWalk_outKept (s : State) (quad : Nat) (w : Walk) : OutKept s (s.finishWalk quad w) := by
  unfold State.finishWalk
  extract_lets p va s1 s2
  have gone : OutKept s s2 := (State.readNodes_outKept s p va).trans (State.updQuad_cacheKept _ _ _).outKept
  split
  · exact gone
  next level leaf _ =>
    extract_lets e s3
    have cached : OutKept s s3 := by
      unfold s3
      split
      · exact gone
      · exact gone.trans (State.updQuad_cacheKept _ _ _).outKept
    exact cached.trans (OutKept.foldl _ (fun t x => State.prefetch_outKept t _ _ _ x) _ _)

theorem State.noteWalk_outKept (s : State) (core : Nat) (p : Part) (va : Word) : OutKept s (s.noteWalk core p va) := by
  unfold State.noteWalk
  split
  · exact OutKept.refl s
  · extract_lets q s1
    have free : OutKept s s1 := OutKept.foldl _ (fun t w => State.finishWalk_outKept t q w) _ s
    split
    · exact free.trans (State.finishWalk_outKept _ _ _)
    · split
      · exact free
      · exact free.trans (State.readNodes_outKept _ _ _)

theorem State.touchOwn_outKept (s : State) (p : Part) (va : Word) (n : Nat) : OutKept s (s.touchOwn p va n) := by
  unfold State.touchOwn
  split
  · exact ((State.noteWalk_outKept s 0 p va).trans (State.noteRead_outKept _ _ _ _)).trans (State.holdOwn_l2Kept _ _ _).cacheKept.outKept
  · exact OutKept.refl s

theorem State.reached_outKept (s : State) (e : Entry) (c : Cell) : OutKept s (s.reached e c) := by
  have cell : OutKept s (s.reachedCell c) := by
    unfold State.reachedCell
    split
    · exact OutKept.refl s
    · exact State.touchOwn_outKept _ _ _ _
  have entry : ∀ t : State, OutKept t (t.reachedEntry e) := fun t => by
    unfold State.reachedEntry
    split
    · exact OutKept.refl t
    · exact State.touchOwn_outKept _ _ _ _
  exact cell.trans (entry _)

/-! ### Posting -/

/-- Letting a context's stores to the host and the peers arrive leaves all but memory and what is on its way. -/
theorem State.releaseAt_bare (s : State) (c : Cell) : (s.releaseAt c).bare = s.bare := by
  unfold State.releaseAt
  split
  · exact State.foldl_bare State.arrive_bare _ s
  · rfl

theorem State.releaseAt_calm {s : State} (quiet : Calm s) (c : Cell) : SameMem s (s.releaseAt c) ∧ Calm (s.releaseAt c) := by
  unfold State.releaseAt
  split
  · refine ⟨State.flushOut_nothing quiet.2 _, ?_, ?_⟩
    · simp only [State.flushOut, quiet.2, List.take_nil, List.foldl_nil]
      exact quiet.1
    · simp only [State.flushOut, quiet.2, List.drop_nil]
  · exact ⟨SameMem.refl s, quiet⟩

theorem State.releaseAt_sent {s : State} {c : Cell} (far : c.kind = .host ∨ c.kind = .peer) :
    ∀ o ∈ (s.releaseAt c).outbox, o.pid ≠ s.cur.pid := by
  intro o ho
  rw [State.releaseAt, if_pos far] at ho
  simpa using State.flushOut_outbox s _ o ho

section

variable {s : State} {x : EReg} {kinds : List Nat} {e : Entry} {c : Cell}

theorem State.postAt_eq (checked : s.release.checkE x kinds = .ok (e, c)) (near : s.release.reach e c = .ok ()) (op : Posted) :
    s.postAt x kinds op = .next (s.release.postNow e c op) := by
  unfold State.postAt
  simp only [checked, near, bind, Except.bind]
  rfl

theorem State.exchangeAt_eq {a : TGrp} (checked : s.release.checkE x chanKinds = .ok (e, c)) (clean : Clean s.release a)
    (near : s.release.reach e c = .ok ()) (op : Src → Posted) :
    s.exchangeAt x a op = .next (s.release.postNow e c (op (.regs a))) := by
  unfold State.exchangeAt
  simp only [checked, State.readGroup_clean clean, near, bind, Except.bind]
  rfl

/-- A form whose checks pass posts its operation once the older stores have performed. -/
theorem exec_posting {i : Instr} {op : Posted} {g : Option TGrp} (posts : posting s i = some (x, kinds, op, g))
    (checked : s.release.checkE x kinds = .ok (e, c)) (clean : ∀ a, g = some a → Clean s.release a) (near : s.release.reach e c = .ok ()) :
    exec i s = .next (s.release.postNow e c op) := by
  unfold posting at posts
  split at posts
  case h_11 | h_12 | h_13 =>
    cases posts
    exact State.exchangeAt_eq checked (clean _ rfl) near _
  case h_14 => cases posts
  all_goals
    cases posts
    exact State.postAt_eq checked near _

theorem postingFormsPart : PostingFormsPart := by
  unfold PostingFormsPart
  intro i s x kinds op g e c posts u w checked clean near
  have run : exec i s = .next ((w.settled c.id).reached e c) := exec_posting posts checked clean near
  refine ⟨fun t decided => ?_, fun undecided => ⟨_, run, ?_⟩⟩
  · rw [run, State.settled, decided]
    rfl
  have stays : w.settled c.id = w := by rw [State.settled, undecided]; rfl
  rw [stays]
  have cur := State.cur_of_bare (w.reached_bare e c)
  have freed := State.cur_of_bare (u.releaseAt_bare c)
  refine ⟨by rw [cur]; rfl, ?_, fun r => ?_, ?_, fun quiet => ?_, fun far o ho => ?_⟩
  · rw [cur]
    exact (congrArg Proc.ip freed :)
  · rw [State.rd_of_bare (w.reached_bare e c)]
    exact (congrArg (fun p : Proc => p.rd r) freed :)
  · rw [cur]
    exact (congrArg Proc.t freed :)
  · obtain ⟨same, calm⟩ := State.releaseAt_calm quiet c
    have posted : SameMem (u.releaseAt c) w := ⟨rfl, rfl, rfl, rfl⟩
    exact ((same.trans posted).trans (State.reached_calm (s := w) calm e c).same).bytes
  · exact State.releaseAt_sent far o (State.reached_outKept w e c ho)

/-- Settles O27: every form posts, and blocks where its cell decides nothing; SENDE and RECVE check both registers first. -/
theorem postingForms : Obligations.PostingForms := by
  unfold Obligations.PostingForms
  refine ⟨postingFormsPart, ?_⟩
  intro s d a b e c u checked near posted
  refine ⟨fun f k used => ?_, fun none => ?_, fun free => ?_, fun full => ?_⟩
  · change execSende a b s = _
    unfold execSende
    simp only [checked, near, used, bind, Except.bind, u]
    rfl
  · have missing : u.useE b = .error (endpointTrap 0 b) := by
      have entry : u.entryOf u.cur.part u.cur.pid (u.rdE b) = .none := if_pos none
      simp only [State.useE, entry]
    change execSende a b s = _
    unfold execSende
    simp only [checked, missing, bind, Except.bind, u]
    rfl
  · change execRecve d a s = _
    unfold execRecve
    simp only [checked, near, State.emptyE_ok free, bind, Except.bind, u]
    rfl
  · obtain ⟨x, traps⟩ := State.emptyE_full full
    refine ⟨x, ?_⟩
    change execRecve d a s = _
    unfold execRecve
    simp only [checked, traps, bind, Except.bind, u]
    rfl

end

end Sys2Proof.Machine

end

section
/-! ALT: the choice among ready arms (R335), what an ALT that commits leaves (R334, R337), claims between two ALTs (O31). -/

namespace Sys2Proof.Machine

open Sys2Proof Sys2Proof.Claims

/-! ### The rotation among the arms -/

/-- How far behind the arm after the last chosen one an arm stands. -/
def armRank (last : Fin 8) (i : Nat) : Nat := (i + 7 - last.val) % 8

/-- The order in which arms are looked at after the last chosen one. -/
def armOrder (last : Fin 8) : List Nat := (List.range 8).map (fun k => (last.val + 1 + k) % 8)

theorem mem_armOrder (last : Fin 8) {i : Nat} : i ∈ armOrder last ↔ i < 8 := by
  have bound := last.isLt
  rw [armOrder, List.mem_map]
  refine ⟨fun ⟨k, _, h⟩ => by omega, fun h => ⟨armRank last i, List.mem_range.mpr (Nat.mod_lt _ (by decide)), ?_⟩⟩
  unfold armRank
  omega

/-- The first arm in that order with a property has it, and stands before every other that has it. -/
theorem armOrder_find {last : Fin 8} {P : Nat → Bool} {i : Nat} (h : (armOrder last).find? P = some i) :
    P i = true ∧ ∀ j, j < 8 → P j = true → armRank last i ≤ armRank last j := by
  have bound := last.isLt
  rw [armOrder, List.find?_map, Option.map_eq_some_iff] at h
  obtain ⟨k, found, rfl⟩ := h
  obtain ⟨here, hk, before⟩ := List.find?_range_eq_some.mp found
  have rank : armRank last ((last.val + 1 + k) % 8) = k := by
    have := List.mem_range.mp hk
    unfold armRank
    omega
  refine ⟨here, fun j hj holds => ?_⟩
  rw [rank]
  by_contra early
  have at_ : (last.val + 1 + armRank last j) % 8 = j := by
    unfold armRank
    omega
  have := before (armRank last j) (by omega)
  simp [Function.comp, at_, holds] at this

theorem armOrder_find_none {last : Fin 8} {P : Nat → Bool} (h : (armOrder last).find? P = none) {j : Nat} (hj : j < 8) : P j = false := by
  simpa using List.find?_eq_none.mp h j ((mem_armOrder last).mpr hj)

theorem altChoice_eq (last : Fin 8) (prio : BitVec 8) (ready : List Nat) : altChoice last prio ready =
    match (armOrder last).find? (fun i => ready.contains i && prio.getLsbD i) with
    | some i => some i
    | none => (armOrder last).find? (fun i => ready.contains i) := rfl

theorem altChoiceRulePart : AltChoiceRulePart := by
  unfold AltChoiceRulePart
  intro last prio ready small
  rw [altChoice_eq]
  cases high : (armOrder last).find? (fun i => ready.contains i && prio.getLsbD i) with
  | some i =>
    obtain ⟨here, first⟩ := armOrder_find high
    rw [Bool.and_eq_true, List.contains_iff_mem] at here
    obtain ⟨mem, prior⟩ := here
    refine ⟨⟨fun none => by simp [none] at mem, fun h => by cases h⟩, fun k hk => ?_⟩
    obtain rfl := Option.some.inj hk
    refine ⟨mem, fun j hj => ⟨fun _ => prior, fun same => first j (small j hj) ?_⟩⟩
    rw [Bool.and_eq_true, List.contains_iff_mem]
    exact ⟨hj, same.trans prior⟩
  | none =>
    have low : ∀ j ∈ ready, prio.getLsbD j = false := fun j hj => by
      have := armOrder_find_none high (small j hj)
      simpa [hj] using this
    refine ⟨⟨fun none => by simp [none], fun none => ?_⟩, fun i hi => ?_⟩
    · refine List.eq_nil_iff_forall_not_mem.mpr fun j hj => ?_
      have := armOrder_find_none none (small j hj)
      simp [hj] at this
    · obtain ⟨here, first⟩ := armOrder_find hi
      refine ⟨List.contains_iff_mem.mp here, fun j hj => ⟨fun above => ?_, fun _ => first j (small j hj) (List.contains_iff_mem.mpr hj)⟩⟩
      rw [low j hj] at above
      cases above

/-! ### Keys that change -/

theorem Proc.keyed_alt {p : Proc} {d : SReg} {e : EReg} {a r q : BitVec 8} {k : Key} (h : p.wait = .alt d e a r q k) (l : Key) :
    p.keyed l = { p with wait := .alt d e a r q l } := by
  simp only [Proc.keyed, h]

theorem Proc.keyed_other {p : Proc} (h : ∀ d e a r q k, p.wait ≠ .alt d e a r q k) (l : Key) : p.keyed l = p := by
  unfold Proc.keyed
  split
  next waits => exact absurd waits (h _ _ _ _ _ _)
  · rfl

theorem Proc.keyed_idle {p : Proc} (h : p.wait = .none) (l : Key) : p.keyed l = p :=
  Proc.keyed_other (fun _ _ _ _ _ _ waits => by rw [h] at waits; cases waits) l

theorem Proc.keyed_keyed (p : Proc) (k l : Key) : (p.keyed k).keyed l = p.keyed l := by
  by_cases waits : ∃ d e a r q m, p.wait = .alt d e a r q m
  · obtain ⟨d, e, a, r, q, m, h⟩ := waits
    rw [Proc.keyed_alt h k, Proc.keyed_alt h l]
    exact Proc.keyed_alt (k := k) rfl l
  · have other : ∀ n, p.keyed n = p := Proc.keyed_other fun d e a r q m h => waits ⟨d, e, a, r, q, m, h⟩
    rw [other k]

theorem Proc.keyed_self (p : Proc) : ∃ k, p.keyed k = p := by
  by_cases waits : ∃ d e a r q m, p.wait = .alt d e a r q m
  · obtain ⟨d, e, a, r, q, m, h⟩ := waits
    exact ⟨m, by rw [Proc.keyed_alt h, ← h]⟩
  · exact ⟨.spent, Proc.keyed_other (fun d e a r q m h => waits ⟨d, e, a, r, q, m, h⟩) _⟩

@[simp] theorem Proc.keyed_pid (p : Proc) (k : Key) : (p.keyed k).pid = p.pid := by
  obtain ⟨w, h⟩ := p.keyed_rest k
  rw [h]

@[simp] theorem Proc.keyed_place (p : Proc) (k : Key) : (p.keyed k).place = p.place := by
  obtain ⟨w, h⟩ := p.keyed_rest k
  rw [h]

theorem Proc.keyed_completed (p : Proc) (k : Key) (w : Writes) : (p.keyed k).completed w = p.completed w := by
  have woken : (p.keyed k).woken = p.woken := by
    obtain ⟨v, h⟩ := p.keyed_rest k
    rw [h]
    rfl
  rw [Proc.completed, woken, Proc.completed]

/-- Cells and entries apart, only the keys of ALTs and the L1 caches change. -/
structure Rekeyed (s t : State) : Prop where
  procs : ∀ r p, s.proc? r = some p → ∃ k, t.proc? r = some (p.keyed k)
  pause : ∀ c, (t.core c).pause = (s.core c).pause
  same  : SameMem s t
  calm  : Calm s → Calm t
  pid   : t.cur.pid = s.cur.pid

theorem Rekeyed.refl (s : State) : Rekeyed s s where
  procs := fun r p h => by
    obtain ⟨k, keyed⟩ := p.keyed_self
    exact ⟨k, by rw [keyed, h]⟩
  pause := fun _ => rfl
  same := SameMem.refl s
  calm := id
  pid := rfl

theorem Rekeyed.trans {s t u : State} (h : Rekeyed s t) (k : Rekeyed t u) : Rekeyed s u where
  procs := fun r p found => by
    obtain ⟨a, first⟩ := h.procs r p found
    obtain ⟨b, second⟩ := k.procs r _ first
    exact ⟨b, by rw [second, p.keyed_keyed]⟩
  pause := fun c => (k.pause c).trans (h.pause c)
  same := h.same.trans k.same
  calm := fun quiet => k.calm (h.calm quiet)
  pid := k.pid.trans h.pid

theorem Rekeyed.pausedCore {s t : State} (h : Rekeyed s t) {pid : Pid} {p : Proc} (found : s.proc? pid = some p) :
    t.pausedCore pid = s.pausedCore pid := by
  obtain ⟨k, kept⟩ := h.procs pid p found
  simp only [State.pausedCore, found, kept, Option.bind_some, Proc.keyed_place, h.pause]

/-- A state with other cells has the same processes. -/
theorem Rekeyed.of_cells (s : State) (l : List Cell) : Rekeyed s { s with cells := l } :=
  { Rekeyed.refl s with same := ⟨rfl, rfl, rfl, rfl⟩, calm := id }

theorem State.setKey_rekeyed (s : State) (pid : Pid) (k : Key) : Rekeyed s (s.setKey pid k) where
  procs := fun r p found => by
    rw [State.setKey_eq, State.proc?_updProc _ _ _ _ (fun p => p.keyed_pid k), found]
    split
    · exact ⟨k, rfl⟩
    · obtain ⟨l, keyed⟩ := p.keyed_self
      exact ⟨l, by rw [keyed]⟩
  pause := fun c => by rw [State.setKey_eq, State.core, State.updProc_cores, State.core]
  same := State.updProc_same s pid _
  calm := fun quiet => by
    unfold State.setKey State.updProc
    split <;> exact quiet
  pid := by
    rw [State.setKey_eq, State.updProc]
    split
    · exact Proc.keyed_pid _ _
    · rfl

theorem State.freeKey_rekeyed (s : State) (c : Cell) (b : Bool) : Rekeyed s (s.freeKey c b) := by
  unfold State.freeKey
  split
  · exact Rekeyed.refl s
  · split
    · exact State.setKey_rekeyed _ _ _
    · exact Rekeyed.refl s

theorem State.withdraw_rekeyed (s : State) (pid : Pid) : Rekeyed s (s.withdraw pid) := by
  unfold State.withdraw
  refine foldl_keeps (fun t => Rekeyed s t) _ (fun t x h => ?_) _ s (Rekeyed.refl s)
  exact (h.trans (Rekeyed.of_cells t _)).trans (State.freeKey_rekeyed (t.unpost x.1.id x.2) x.1 (!x.2))

/-! ### An ALT that commits -/

/-- What an ALT writes when it commits to an arm. -/
def altWrites (d : SReg) (arm : Nat) : Writes := { Writes.step 8 with s := [(d, BitVec.ofNat 64 arm)], alt := some (Fin.ofNat 8 arm) }

/-- The state after one process has completed its ALT: keys of others apart, every other process is as it was. -/
structure AltReturned (s t : State) (pid : Pid) (p : Proc) (w : Writes) : Prop where
  own    : t.proc? pid = some (p.completed w)
  others : ∀ r q, r ≠ pid → s.proc? r = some q → ∃ k, t.proc? r = some (q.keyed k)
  pause  : ∀ c, (t.core c).pause = (s.core c).pause
  same   : SameMem s t
  calm   : Calm s → Calm t
  pid    : t.cur.pid = s.cur.pid

theorem State.flushL1_bare (s : State) (c : Nat) : (s.flushL1 c).bare = s.bare := State.updCore_bare (fun _ => by rfl) s c

theorem State.core_pause_of_bare {s t : State} (h : t.bare = s.bare) (c : Nat) : (t.core c).pause = (s.core c).pause := by
  change (t.core c).bare.pause = (s.core c).bare.pause
  rw [State.core_of_bare h]

theorem State.acquire_bare (s : State) (pid : Pid) : (s.acquire pid).bare = s.bare := by
  unfold State.acquire
  split
  · rfl
  · split
    · exact State.flushL1_bare s _
    · rfl

theorem State.acquire_calm {s : State} (quiet : Calm s) (pid : Pid) : Calm (s.acquire pid) := by
  unfold State.acquire
  split
  · exact quiet
  · split
    · exact ⟨(State.flushL1_errs _ _).trans quiet.1, (State.flushL1_outbox _ _).trans quiet.2⟩
    · exact quiet

theorem State.altReturn_returns {s : State} {pid : Pid} {p : Proc} {d : SReg} {x : EReg} {arms dirs prio : BitVec 8} {k : Key}
    (found : s.proc? pid = some p) (waits : p.wait = .alt d x arms dirs prio k) (resident : p.isResident = true)
    (runs : s.pausedCore pid = none) (c : Cell) (b : Bool) (arm : Nat) :
    AltReturned s (s.altReturn pid c b arm) pid p (altWrites d arm) := by
  have gone := s.withdraw_rekeyed pid
  let bound := if (c.side (!b)).closed then s.withdraw pid
    else (s.withdraw pid).updEnd c.id b (fun e => { e with bound := true, way := dirs.getLsbD arm })
  have kept : Rekeyed s bound := by
    unfold bound
    split
    · exact gone
    · exact gone.trans (Rekeyed.of_cells _ _)
  have eq : s.altReturn pid c b arm = (bound.complete pid (altWrites d arm)).acquire pid := by
    simp only [State.altReturn, found, waits]
    rfl
  obtain ⟨l, here⟩ := kept.procs pid p found
  have out : (p.keyed l).place ≠ .parked := by rw [p.keyed_place]; exact Proc.out_of_resident resident
  have done := State.complete_running here out ((kept.pausedCore found).trans runs) (altWrites d arm)
  let t := bound.updProc pid (fun p => p.completed (altWrites d arm))
  have bare : (t.acquire pid).bare = t.bare := t.acquire_bare pid
  rw [eq, done]
  refine ⟨?_, fun r q other named => ?_, fun c => ?_, ?_, fun quiet => State.acquire_calm ?_ pid, ?_⟩
  · rw [State.proc?_of_bare bare, State.proc?_completed here, p.keyed_completed]
  · obtain ⟨m, there⟩ := kept.procs r q named
    rw [State.proc?_of_bare bare, State.proc?_updProc _ _ _ _ (fun p => p.completed_pid _), if_neg other]
    exact ⟨m, there⟩
  · rw [State.core_pause_of_bare bare, State.core, State.updProc_cores, ← State.core, kept.pause]
  · exact (kept.same.trans (State.updProc_same bound pid _)).trans (State.acquire_same t pid)
  · have still := kept.calm quiet
    unfold State.updProc
    split <;> exact still
  · rw [State.cur_of_bare bare]
    refine Eq.trans ?_ kept.pid
    unfold t State.updProc
    split
    · exact Proc.completed_pid _ _
    · rfl

theorem AltReturned.wentOn {s t : State} {p : Proc} {d : SReg} {arm : Nat} (h : AltReturned s t p.pid p (altWrites d arm)) :
    WentOn t p 8 (fun r => (d ≠ 0 → r.rd d = BitVec.ofNat 64 arm) ∧ (∀ k, k ≠ d → r.rd k = p.rd k) ∧ r.altLast = Fin.ofNat 8 arm) := by
  obtain ⟨value, others⟩ := p.completed_rd_one (w := altWrites d arm) (d := d) (v := BitVec.ofNat 64 arm) rfl
  exact ⟨_, h.own, p.completed_ip _, p.completed_wait _, value, others, p.completed_altLast _⟩

/-! ### The instruction -/

section

variable {s : State} {d a : SReg} {b : EReg} {arms dirs prio : BitVec 8} {poll : Bool} {l : List (Nat × Bool × Entry × Cell)}

/-- The state in which an ALT chooses: its stores to the host and peers whose ends it names have arrived. -/
def State.altReleased (u : State) (l : List (Nat × Bool × Entry × Cell)) : State := l.foldl (fun s x => s.releaseAt x.2.2.2) u

/-- The arms ready there. -/
def State.altReady (v : State) (l : List (Nat × Bool × Entry × Cell)) : List Nat :=
  (l.filter (fun x => v.armNow x.2.2.2 (x.2.2.1.side x.2.2.2) x.2.1)).map Prod.fst

theorem State.altReleased_bare (u : State) (l : List (Nat × Bool × Entry × Cell)) : (u.altReleased l).bare = u.bare :=
  State.foldl_bare (fun s (x : Nat × Bool × Entry × Cell) => s.releaseAt_bare x.2.2.2) l u

theorem State.altReleased_calm {u : State} (quiet : Calm u) (l : List (Nat × Bool × Entry × Cell)) :
    SameMem u (u.altReleased l) ∧ Calm (u.altReleased l) := by
  refine foldl_keeps (fun t => SameMem u t ∧ Calm t) _ (fun t x h => ?_) l u ⟨SameMem.refl u, quiet⟩
  obtain ⟨same, calm⟩ := State.releaseAt_calm h.2 x.2.2.2
  exact ⟨h.1.trans same, calm⟩

theorem State.altReached_bare (u : State) (l : List (Nat × Bool × Entry × Cell)) : (u.altReached l).bare = u.bare :=
  State.foldl_bare (fun s (x : Nat × Bool × Entry × Cell) => s.reached_bare x.2.2.1 x.2.2.2) l u

theorem State.altReached_calm {u : State} (quiet : Calm u) (l : List (Nat × Bool × Entry × Cell)) : SameMem u (u.altReached l) :=
  (CacheKept.foldl _ (fun _ x h => State.reached_calm h x.2.2.1 x.2.2.2) l quiet).same

theorem State.postOffers_eq (v : State) (l : List (Nat × Bool × Entry × Cell)) : ∃ cells, v.postOffers l = { v with cells := cells } := by
  unfold State.postOffers
  refine foldl_keeps (fun t : State => ∃ cells, t = { v with cells := cells }) _ (fun t x h => ?_) l v ⟨v.cells, rfl⟩
  obtain ⟨cells, rfl⟩ := h
  exact ⟨_, rfl⟩

/-- The state in which an ALT waits, its arms offered. -/
def State.altWaits (v : State) (l : List (Nat × Bool × Entry × Cell)) (w : Wait) : State := (v.postOffers l).blockOn w

theorem execAlt_none (none : altArms b arms dirs ((s.rd a).setWidth 8) = []) :
    exec (.alt d a b arms dirs prio poll) s = put s d 0xFFFFFFFFFFFFFFFF 8 := by
  change execAlt d a b arms dirs prio poll s = _
  unfold execAlt
  simp only [none]
  rfl

/-- What an ALT with posted arms whose checks pass answers. -/
theorem execAlt_eq (some_ : altArms b arms dirs ((s.rd a).setWidth 8) ≠ [])
    (checked : s.release.altChecks (altArms b arms dirs ((s.rd a).setWidth 8)) = .ok l) (near : s.release.altReach l = .ok ()) :
    let v := s.release.altReleased l
    let w := v.altWaits l (.alt d b arms dirs prio .unclaimed)
    exec (.alt d a b arms dirs prio poll) s = .next (match altChoice v.cur.altLast prio (v.altReady l) with
      | none => (if poll then (v.wr d (BitVec.allOnes 64)).next 8 else w).altReached l
      | some i =>
        match l.find? (fun x => x.1 == i) with
        | none => v
        | some x => (w.altCommit w.cur.pid x.2.2.2 (x.2.2.1.side x.2.2.2) i).altReached l) := by
  intro v w
  have full : (altArms b arms dirs ((s.rd a).setWidth 8)).isEmpty = false := List.isEmpty_eq_false_iff.mpr some_
  change execAlt d a b arms dirs prio poll s = _
  unfold execAlt
  simp only [full, checked, near, bind, Except.bind]
  change s.release.finish (match altChoice v.cur.altLast prio (v.altReady l) with
      | none => Except.ok ((if poll then (v.wr d (BitVec.allOnes 64)).next 8 else w).altReached l)
      | some i =>
        match l.find? (fun x => x.1 == i) with
        | none => Except.ok v
        | some x => Except.ok ((w.altCommit w.cur.pid x.2.2.2 (x.2.2.1.side x.2.2.2) i).altReached l)) = _
  split
  · rfl
  · split <;> rfl

end

/-! ### What the three outcomes leave -/

section

variable (u : State) (l : List (Nat × Bool × Entry × Cell))

theorem State.altWaits_cur (v : State) (w : Wait) :
    (v.altWaits l w).cur = { v.cur with wait := w, waitGen := v.cur.waitGen + 1, waitAt := v.cycle } := by
  obtain ⟨cells, offered⟩ := v.postOffers_eq l
  rw [State.altWaits, offered]
  rfl

theorem State.altWaits_rest (v : State) (w : Wait) :
    (v.altWaits l w).cores = v.cores ∧ SameMem v (v.altWaits l w) ∧ (Calm v → Calm (v.altWaits l w)) := by
  obtain ⟨cells, offered⟩ := v.postOffers_eq l
  rw [State.altWaits, offered]
  exact ⟨rfl, ⟨rfl, rfl, rfl, rfl⟩, id⟩

/-- A POLL that finds no arm ready. -/
theorem State.altPolled (d : SReg) :
    let t := (((u.altReleased l).wr d (BitVec.allOnes 64)).next 8).altReached l
    t.cur = ((u.wr d (BitVec.allOnes 64)).next 8).cur ∧ t.cells = u.cells ∧ (Calm u → SameBytes u t) := by
  intro t
  let v := u.altReleased l
  have bare : v.bare = u.bare := u.altReleased_bare l
  have reached := ((v.wr d (BitVec.allOnes 64)).next 8).altReached_bare l
  refine ⟨(State.cur_of_bare reached).trans ?_, (State.cells_of_bare reached).trans (State.cells_of_bare bare :), fun quiet => ?_⟩
  · rw [State.next_cur, State.wr_cur, State.cur_of_bare bare]
    rfl
  · obtain ⟨same, calm⟩ := State.altReleased_calm quiet l
    have written : SameMem v ((v.wr d (BitVec.allOnes 64)).next 8) := ⟨rfl, rfl, rfl, rfl⟩
    exact ((same.trans written).trans (State.altReached_calm (u := (v.wr d (BitVec.allOnes 64)).next 8) calm l)).bytes

/-- An ALT that waits. -/
theorem State.altWaiting (w : Wait) :
    let t := ((u.altReleased l).altWaits l w).altReached l
    t.cur.wait = w ∧ t.cur.ip = u.cur.ip ∧ (∀ r, t.rd r = u.rd r) ∧ (Calm u → SameBytes u t) := by
  intro t
  let v := u.altReleased l
  have cur : v.cur = u.cur := State.cur_of_bare (u.altReleased_bare l)
  obtain ⟨_, posted, still⟩ := v.altWaits_rest l w
  have at_ : t.cur = { u.cur with wait := w, waitGen := u.cur.waitGen + 1, waitAt := v.cycle } := by
    rw [← cur]
    exact (State.cur_of_bare ((v.altWaits l w).altReached_bare l)).trans (v.altWaits_cur l w)
  refine ⟨by rw [at_], by rw [at_], fun r => by rw [State.rd, at_]; rfl, fun quiet => ?_⟩
  obtain ⟨same, calm⟩ := State.altReleased_calm quiet l
  exact ((same.trans posted).trans (State.altReached_calm (still calm) l)).bytes

/-- An ALT that returns an arm at once. -/
theorem State.altCommitted {d : SReg} {b : EReg} {arms dirs prio : BitVec 8} {c : Cell} {side : Bool} {i : Nat}
    (partner : c.offerArm (!side) = none) (named : u.cur.pid ≠ 0) (resident : u.cur.isResident = true) (runs : u.pausedCore u.cur.pid = none) :
    let w := (u.altReleased l).altWaits l (.alt d b arms dirs prio .unclaimed)
    let t := (w.altCommit w.cur.pid c side i).altReached l
    t.cur.ip = u.cur.ip + 8 ∧ t.cur.wait = .none ∧ (d ≠ 0 → t.rd d = BitVec.ofNat 64 i) ∧ (∀ r, r ≠ d → t.rd r = u.rd r)
      ∧ t.cur.altLast = Fin.ofNat 8 i ∧ (Calm u → SameBytes u t) := by
  intro w t
  let v := u.altReleased l
  have bare : v.bare = u.bare := u.altReleased_bare l
  have cur := State.cur_of_bare bare
  obtain ⟨cores, posted, still⟩ := v.altWaits_rest l (.alt d b arms dirs prio .unclaimed)
  have waiting : w.cur = { u.cur with wait := .alt d b arms dirs prio .unclaimed, waitGen := u.cur.waitGen + 1, waitAt := v.cycle } := by
    rw [← cur]
    exact v.altWaits_cur l _
  have same_pid : w.cur.pid = u.cur.pid := by rw [waiting]
  have here : w.cur.pid ≠ 0 := by rwa [same_pid]
  have clock : w.pausedCore w.cur.pid = none := by
    have found : v.proc? w.cur.pid = some u.cur := by
      rw [same_pid, State.proc?_of_bare bare]
      exact State.proc?_cur named
    rw [State.pausedCore_congr found (State.proc?_cur here) (by rw [waiting]) cores, same_pid, State.pausedCore_of_bare bare]
    exact runs
  have returned := State.altReturn_returns (State.proc?_cur here) (by rw [waiting]) (by rw [waiting]; exact resident) clock c side i
  let r := w.altReturn w.cur.pid c side i
  have commits : t = r.altReached l := by
    simp only [t, State.altCommit, partner]
    rfl
  have done : r.cur = w.cur.completed (altWrites d i) := by
    have there : r.proc? r.cur.pid = some r.cur := State.proc?_cur (by rwa [returned.pid])
    rw [returned.pid, returned.own] at there
    exact (Option.some.inj there).symm
  have at_ : t.cur = w.cur.completed (altWrites d i) := by
    rw [commits]
    exact (State.cur_of_bare (r.altReached_bare l)).trans done
  obtain ⟨value, others⟩ := w.cur.completed_rd_one (w := altWrites d i) (d := d) (v := BitVec.ofNat 64 i) rfl
  refine ⟨?_, ?_, fun some_ => ?_, fun k other => ?_, ?_, fun quiet => ?_⟩
  · rw [at_, Proc.completed_ip, waiting]
    rfl
  · rw [at_, Proc.completed_wait]
  · rw [State.rd, at_]
    exact value some_
  · rw [State.rd, at_, others k other, waiting]
    rfl
  · rw [at_, Proc.completed_altLast]
    rfl
  · obtain ⟨same, calm⟩ := State.altReleased_calm quiet l
    rw [commits]
    exact (((same.trans posted).trans returned.same).trans (State.altReached_calm (returned.calm (still calm)) l)).bytes

end

theorem altResultsPart : AltResultsPart := by
  unfold AltResultsPart
  intro s d a b arms dirs prio poll posted u alt
  refine ⟨execAlt_none, ?_⟩
  intro l some_ checked near v ready
  have run : alt = _ := execAlt_eq (d := d) (prio := prio) (poll := poll) some_ checked near
  rw [show (s.release.altReleased l).cur.altLast = u.cur.altLast from congrArg Proc.altLast (State.cur_of_bare (u.altReleased_bare l))] at run
  refine ⟨fun nothing polls => ?_, fun nothing waits => ?_, fun i x chosen names partner named resident runs => ?_⟩
  · rw [show altChoice u.cur.altLast prio ((s.release.altReleased l).altReady l) = none from nothing] at run
    simp only [polls, if_true] at run
    exact ⟨_, run, u.altPolled l d⟩
  · rw [show altChoice u.cur.altLast prio ((s.release.altReleased l).altReady l) = none from nothing] at run
    simp only [waits, Bool.false_eq_true, if_false] at run
    exact ⟨_, run, u.altWaiting l _⟩
  · rw [show altChoice u.cur.altLast prio ((s.release.altReleased l).altReady l) = some i from chosen] at run
    simp only [names] at run
    exact ⟨_, run, u.altCommitted l partner named resident runs⟩

/-! ### Two ALTs that claim one cell -/

/-- A key that only one cell's claim reaches takes that claim. -/
theorem State.claimWinner_alone {s : State} {c : Cell} (alone : ∀ z ∈ s.cells, z.id ≠ c.id → s.claimOf z = none) :
    s.claimWinner c.id = c.id := by
  unfold State.claimWinner
  split
  · rfl
  next p _ _ =>
    extract_lets arms
    have here : ∀ x ∈ arms, x.2 = c.id := by
      intro x hx
      obtain ⟨z, hz, made⟩ := List.mem_filterMap.mp hx
      by_cases named : z.id = c.id
      · split at made
        · split at made
          · cases made
            exact named
          · cases made
        · cases made
      · rw [alone z hz named] at made
        cases made
    split
    · rfl
    · split
      next prio _ _ =>
        cases chosen : (altChoice _ prio (arms.map Prod.fst)).bind (fun i => arms.find? (fun x => x.1 == i)) with
        | none => rfl
        | some x =>
          obtain ⟨i, _, found⟩ := Option.bind_eq_some_iff.mp chosen
          exact here x (List.mem_of_find?_eq_some found)
      · rfl

theorem exec_claim_of {s t : State} {c : Cell} (alone : ∀ z ∈ s.cells, z.id ≠ c.id → s.claimOf z = none)
    (made : s.claimCell c.id = some t) : exec (.claim c.id) s = .next t := by
  change s.occur (s.claimCell (s.claimWinner c.id)) = _
  rw [State.claimWinner_alone alone, made]
  rfl

theorem Cell.offerArm_post {c : Cell} {b isSend : Bool} {a : Fin 8} (h : c.offerArm b = some (a, isSend)) :
    (c.side b).post = some (.offer a isSend) := by
  unfold Cell.offerArm at h
  split at h
  next a' way offers => cases h; exact offers
  · cases h

/-- An offer is ready where the other end holds the opposite offer, unbound. -/
theorem State.armReady_of_offer {s : State} {c : Cell} {b isSend : Bool} {a : Fin 8} (h : c.offerArm (!b) = some (a, !isSend))
    (free : (c.side (!b)).bound = false) : s.armReady c b isSend = true := by
  have post := Cell.offerArm_post h
  have peer : (if isSend then (Posted.offer a (!isSend)).isRecv else (Posted.offer a (!isSend)).isSend) = true := by
    cases isSend <;> rfl
  simp only [State.armReady, post, free, Bool.not_false, Bool.true_and, peer, Bool.true_or]

theorem State.ownerMoving_resident {s : State} {c : Cell} {b : Bool} {p : Proc} (owner : s.endOwner c b = some p.pid)
    (found : s.proc? p.pid = some p) (resident : p.isResident = true) : s.ownerMoving c b = false := by
  have still : p.isMoving = false := by
    unfold Proc.isResident at resident
    unfold Proc.isMoving
    split at resident
    next place => rw [place]
    · cases resident
  simp only [State.ownerMoving, owner, Option.bind_some, found, still]

section

variable {s : State} {c : Cell} {p q : Proc} {a b : Fin 8} {isSend : Bool} {d e : SReg} {x y : EReg}
  {arms dirs prio arms' dirs' prio' : BitVec 8} {k : Key}
  (here : s.cell? c.id = some c) (owner0 : s.endOwner c false = some p.pid) (found0 : s.proc? p.pid = some p)
  (owner1 : s.endOwner c true = some q.pid) (found1 : s.proc? q.pid = some q) (below : p.pid < q.pid)
  (resident0 : p.isResident = true) (resident1 : q.isResident = true)
  (offer0 : c.offerArm false = some (a, isSend)) (offer1 : c.offerArm true = some (b, !isSend))
  (free0 : c.end0.bound = false) (free1 : c.end1.bound = false)
  (waits0 : p.wait = .alt d x arms dirs prio k) (waits1 : q.wait = .alt e y arms' dirs' prio' .unclaimed)

include here owner0 found0 owner1 found1 below resident0 resident1 offer0 offer1 free0 free1 waits0

/-- The claim of a cell that two ALTs offer: the lower PID's key first and for now, then the higher's. -/
theorem State.claimCell_two : s.claimCell c.id =
    if k = .unclaimed then some (s.setKey p.pid (.provisional c.id))
    else if k = .provisional c.id && s.altKey q.pid = .unclaimed then
      some ((s.altReturn p.pid c false a.val).altReturn q.pid c true b.val)
    else none := by
  have still0 := State.ownerMoving_resident owner0 found0 resident0
  have still1 := State.ownerMoving_resident owner1 found1 resident1
  have ready0 : s.armReady c false isSend = true := State.armReady_of_offer (a := b) offer1 free1
  have ready1 : s.armReady c true (!isSend) = true := State.armReady_of_offer (a := a) (by rw [Bool.not_not]; exact offer0) free0
  have key : s.altKey p.pid = k := by simp only [State.altKey, found0, waits0]
  have apart : p.pid ≠ q.pid := fun same => by simp [same] at below
  simp only [State.claimCell, here, still0, still1, offer0, offer1, owner0, owner1, ready0, ready1, Bool.or_false, Bool.false_eq_true, if_false,
    if_true, if_neg apart, if_pos below, key]

end

theorem twoClaimsPart : TwoClaimsPart := by
  unfold TwoClaimsPart
  intro s c p q a b isSend d e x y arms dirs prio arms' dirs' prio' k here owner0 found0 owner1 found1 below resident0 resident1 offer0 offer1
    free0 free1 waits0 waits1 alone
  have claim := State.claimCell_two here owner0 found0 owner1 found1 below resident0 resident1 offer0 offer1 free0 free1 waits0
  have apart : q.pid ≠ p.pid := fun same => by simp [same] at below
  refine ⟨fun first => ?_, fun second runs0 runs1 => ?_⟩
  · rw [if_pos first] at claim
    have others := State.proc?_updProc s p.pid q.pid (fun p => p.keyed (.provisional c.id)) (fun p => p.keyed_pid _)
    have own := State.proc?_updProc s p.pid p.pid (fun p => p.keyed (.provisional c.id)) (fun p => p.keyed_pid _)
    rw [if_neg apart, found1] at others
    rw [if_pos rfl, found0] at own
    refine ⟨_, exec_claim_of alone claim, (State.updProc_same s p.pid _).bytes, State.updProc_cells _ _ _, ?_, others⟩
    exact own.trans (congrArg some (Proc.keyed_alt waits0 _))
  · have key : s.altKey q.pid = .unclaimed := by simp only [State.altKey, found1, waits1]
    rw [second, if_neg (by simp), if_pos (by simp [key])] at claim
    have first := State.altReturn_returns found0 waits0 resident0 runs0 c false a.val
    obtain ⟨l, kept⟩ := first.others q.pid q apart found1
    have place : (q.keyed l).isResident = true := by rw [Proc.isResident, q.keyed_place]; exact resident1
    have clock : (s.altReturn p.pid c false a.val).pausedCore q.pid = none := by
      rw [← runs1]
      simp only [State.pausedCore, kept, found1, Option.bind_some, Proc.keyed_place, first.pause]
    have waiting : (q.keyed l).wait = .alt e y arms' dirs' prio' l := by rw [Proc.keyed_alt waits1]
    have last := State.altReturn_returns kept waiting place clock c true b.val
    obtain ⟨m, own⟩ := last.others p.pid _ apart.symm first.own
    rw [Proc.keyed_idle (p.completed_wait _)] at own
    have theirs := last.own
    rw [q.keyed_completed] at theirs
    obtain ⟨value0, rest0⟩ := p.completed_rd_one (w := altWrites d a.val) (d := d) (v := BitVec.ofNat 64 a.val) rfl
    obtain ⟨value1, rest1⟩ := q.completed_rd_one (w := altWrites e b.val) (d := e) (v := BitVec.ofNat 64 b.val) rfl
    refine ⟨_, exec_claim_of alone claim, (first.same.trans last.same).bytes, ⟨_, own, p.completed_ip _, p.completed_wait _, value0, rest0, ?_⟩,
      _, theirs, q.completed_ip _, q.completed_wait _, value1, rest1, ?_⟩
    · rw [p.completed_altLast]
      exact Fin.ofNat_val_eq_self a
    · rw [q.completed_altLast]
      exact Fin.ofNat_val_eq_self b

/-- Settles O31: ALT and POLL by what is ready, the choice by the rotation, and two ALTs by the claims of their cell. -/
theorem altResults : Obligations.AltResults := ⟨altResultsPart, altChoiceRulePart, twoClaimsPart⟩

end Sys2Proof.Machine

end

section
/-! Rows and elements of groups of pages (R30, R75): what a page made of rows holds, what a row packed of elements holds, and
the element that a form computed element by element writes. -/

namespace Sys2Proof.Machine

open Sys2Proof Sys2Proof.Claims

/-! ### Fields of numbers -/

/-- A field of the low part of a number is that field of the number. -/
theorem Nat.field_mod {x k b l : Nat} (inside : k + b ≤ l) : x % 2 ^ l / 2 ^ k % 2 ^ b = x / 2 ^ k % 2 ^ b := by
  refine field_eq fun i hi => ?_
  rw [Nat.testBit_mod_two_pow, decide_eq_true (by omega), Bool.true_and]

theorem packRow_lt (b : Nat) (l : List Nat) : packRow b l < 2 ^ (b * l.length) := by
  induction l with
  | nil => exact Nat.one_pos
  | cons x l ih =>
    have digit : x % 2 ^ b < 2 ^ b := Nat.mod_lt _ (Nat.two_pow_pos b)
    rw [packRow, List.length_cons, Nat.mul_succ, Nat.add_comm (b * l.length) b, Nat.pow_add]
    calc x % 2 ^ b + 2 ^ b * packRow b l < 2 ^ b + 2 ^ b * packRow b l := Nat.add_lt_add_right digit _
      _ = 2 ^ b * (packRow b l + 1) := by rw [Nat.mul_succ, Nat.add_comm]
      _ ≤ 2 ^ b * 2 ^ (b * l.length) := Nat.mul_le_mul_left _ ih

/-- Element c of a packed row. -/
theorem packRow_field (b : Nat) (l : List Nat) : ∀ c, packRow b l / 2 ^ (b * c) % 2 ^ b = l.getD c 0 % 2 ^ b := by
  induction l with
  | nil => intro c; simp [packRow]
  | cons x l ih =>
    intro c
    have low : x % 2 ^ b / 2 ^ b = 0 := Nat.div_eq_of_lt (Nat.mod_lt _ (Nat.two_pow_pos b))
    cases c with
    | zero => simp [packRow]
    | succ c =>
      have shift : packRow b (x :: l) / 2 ^ (b * (c + 1)) = packRow b l / 2 ^ (b * c) := by
        rw [packRow, Nat.mul_succ, Nat.add_comm (b * c) b, Nat.pow_add, ← Nat.div_div_eq_div_mul,
          Nat.add_mul_div_left _ _ (Nat.two_pow_pos b), low, Nat.zero_add]
      rw [shift, ih c, List.getD_cons_succ]

/-- The elements of a row, each by its place. -/
theorem splitRow_eq (b : Nat) : ∀ (n row : Nat), splitRow b n row = (List.range n).map (fun c => row / 2 ^ (b * c) % 2 ^ b) := by
  intro n
  induction n with
  | zero => exact fun _ => rfl
  | succ n ih =>
    intro row
    rw [splitRow, ih, List.range_succ_eq_map, List.map_cons, List.map_map]
    refine congrArg₂ List.cons (by rw [Nat.mul_zero, Nat.pow_zero, Nat.div_one]) (List.map_congr_left fun c _ => ?_)
    rw [Function.comp, Nat.div_div_eq_div_mul, ← Nat.pow_add, Nat.mul_succ, Nat.add_comm]

/-! ### Types -/

theorem Ty.bits_pos (t : Ty) : 0 < t.bits := by cases t <;> decide

theorem elemsPerRow_mul (t : Ty) (w : Nat) : elemsPerRow t w * t.bits = 512 * w :=
  Nat.div_mul_cancel ((by cases t <;> decide : t.bits ∣ 512).mul_right w)

/-- An element of a row lies inside it. -/
theorem elem_inside {t : Ty} {w c : Nat} (h : c < elemsPerRow t w) : t.bits * c + t.bits ≤ 512 * w := by
  rw [← elemsPerRow_mul t w, ← Nat.mul_succ, Nat.mul_comm]
  exact Nat.mul_le_mul_right _ h

/-- Groups of the same elements (R233). -/
theorem elemsPerRow_of_same {d a : TGrp} {td ta : Ty} (h : sameElems d td a ta = true) :
    elemsPerRow td (TGrp.n d) = elemsPerRow ta (TGrp.n a) := by
  have same : TGrp.n d * ta.bits = TGrp.n a * td.bits := beq_iff_eq.mp h
  have hd := elemsPerRow_mul td (TGrp.n d)
  have ha := elemsPerRow_mul ta (TGrp.n a)
  refine Nat.eq_of_mul_eq_mul_right (Nat.mul_pos (Ty.bits_pos td) (Ty.bits_pos ta)) ?_
  calc elemsPerRow td (TGrp.n d) * (td.bits * ta.bits) = 512 * (TGrp.n d * ta.bits) := by rw [← Nat.mul_assoc, hd, Nat.mul_assoc]
    _ = elemsPerRow ta (TGrp.n a) * ta.bits * td.bits := by rw [same, ha, Nat.mul_assoc]
    _ = elemsPerRow ta (TGrp.n a) * (td.bits * ta.bits) := by rw [Nat.mul_assoc, Nat.mul_comm ta.bits]

theorem elemAt_lt (t : Ty) (g : List Page) (r c : Nat) : elemAt t g r c < 2 ^ t.bits := Nat.mod_lt _ (Nat.two_pow_pos _)

/-! ### Pages made of rows -/

theorem pageRow_lt (p : Page) (r : Nat) : pageRow p r < 2 ^ 512 := by
  unfold pageRow
  split
  · exact (p.rows[r]).isLt
  · exact Nat.two_pow_pos 512

theorem groupRow_lt (g : List Page) (r : Nat) : groupRow g r < 2 ^ (512 * g.length) := by
  induction g with
  | nil => exact Nat.one_pos
  | cons p g ih =>
    rw [groupRow, List.length_cons, Nat.mul_succ, Nat.add_comm (512 * g.length) 512, Nat.pow_add]
    calc pageRow p r + 2 ^ 512 * groupRow g r < 2 ^ 512 + 2 ^ 512 * groupRow g r := Nat.add_lt_add_right (pageRow_lt p r) _
      _ = 2 ^ 512 * (groupRow g r + 1) := by rw [Nat.mul_succ, Nat.add_comm]
      _ ≤ 2 ^ 512 * 2 ^ (512 * g.length) := Nat.mul_le_mul_left _ ih

section

variable (rows : List Nat) (tags : List RowTag) (f w : BitVec 4) (b : Bool) {r : Nat} (hr : r < 64)

include hr

theorem pageRow_mkPage : pageRow (mkPage rows tags f w b) r = rows.getD r 0 % 2 ^ 512 := by
  rw [pageRow, dif_pos hr, mkPage]
  simp only [Vector.getElem_ofFn, BitVec.toNat_ofNat]

theorem pageTag_mkPage : pageTag (mkPage rows tags f w b) r = tags.getD r plainTag := by
  rw [pageTag, dif_pos hr, mkPage]
  simp only [Vector.getElem_ofFn]

end

theorem pageRows_getD (rows : List Nat) (p r : Nat) : (pageRows rows p).getD r 0 = rows.getD r 0 / 2 ^ (512 * p) % 2 ^ 512 := by
  rw [pageRows, List.getD_eq_getElem?_getD, List.getElem?_map, List.getD_eq_getElem?_getD]
  cases rows[r]? with
  | none => simp
  | some x => rfl

/-- The row of a group whose pages hold a number's pieces is that number. -/
theorem groupRow_pieces {page : Nat → Page} {r x : Nat} (h : ∀ p, pageRow (page p) r = x / 2 ^ (512 * p) % 2 ^ 512) :
    ∀ (w s : Nat), groupRow ((List.range' s w).map page) r = x / 2 ^ (512 * s) % 2 ^ (512 * w) := by
  intro w
  induction w with
  | zero => intro s; rw [Nat.mul_zero, Nat.pow_zero, Nat.mod_one]; rfl
  | succ w ih =>
    intro s
    rw [List.range'_succ, List.map_cons, groupRow, h, ih, Nat.mul_succ, Nat.mul_succ, Nat.add_comm (512 * w), Nat.pow_add 2 512, Nat.mod_mul,
      Nat.div_div_eq_div_mul, ← Nat.pow_add]

section

variable (t : Ty) (w : Nat) (rows : List Nat) {r : Nat} (hr : r < 64)

theorem length_typedPages : (typedPages t w rows).length = w := by rw [typedPages, List.length_map, List.length_range]

theorem length_plainPages : (plainPages w rows).length = w := by rw [plainPages, List.length_map, List.length_range]

include hr

theorem groupRow_typedPages : groupRow (typedPages t w rows) r = rows.getD r 0 % 2 ^ (512 * w) := by
  have pieces := groupRow_pieces (page := fun p => mkPage (pageRows rows p) ((pageRows rows p).map (exactTag t)) t.code t.code false)
    (r := r) (x := rows.getD r 0) (fun p => by rw [pageRow_mkPage _ _ _ _ _ hr, pageRows_getD, Nat.mod_mod]) w 0
  rw [Nat.mul_zero, Nat.pow_zero, Nat.div_one, ← List.range_eq_range'] at pieces
  exact pieces

theorem groupRow_plainPages : groupRow (plainPages w rows) r = rows.getD r 0 % 2 ^ (512 * w) := by
  have pieces := groupRow_pieces (page := fun p => mkPage (pageRows rows p) (List.replicate 64 plainTag) noType noType false)
    (r := r) (x := rows.getD r 0) (fun p => by rw [pageRow_mkPage _ _ _ _ _ hr, pageRows_getD, Nat.mod_mod]) w 0
  rw [Nat.mul_zero, Nat.pow_zero, Nat.div_one, ← List.range_eq_range'] at pieces
  exact pieces

/-- Bit i of a row of pages written with no flag type. -/
theorem testBit_plainPages {i : Nat} (hi : i < 512 * w) : (groupRow (plainPages w rows) r).testBit i = (rows.getD r 0).testBit i := by
  rw [groupRow_plainPages w rows hr, Nat.testBit_mod_two_pow, decide_eq_true hi, Bool.true_and]

theorem elemAt_typedPages {c : Nat} (hc : c < elemsPerRow t w) :
    elemAt t (typedPages t w rows) r c = rows.getD r 0 / 2 ^ (t.bits * c) % 2 ^ t.bits := by
  rw [elemAt, groupRow_typedPages t w rows hr, Nat.field_mod (elem_inside hc)]

/-- Element c of pages whose rows are packed of elements. -/
theorem elemAt_packed {f : Nat → List Nat} {c : Nat} (hc : c < elemsPerRow t w) :
    elemAt t (typedPages t w ((List.range 64).map fun r => packRow t.bits (f r))) r c = (f r).getD c 0 % 2 ^ t.bits := by
  have row : ((List.range 64).map fun r => packRow t.bits (f r)).getD r 0 = packRow t.bits (f r) := by
    rw [List.getD_eq_getElem?_getD, List.getElem?_map, List.getElem?_range hr]
    rfl
  rw [elemAt_typedPages t w _ hr hc, row, packRow_field]

end

/-- The elements of a row of a group. -/
theorem rowElems_groupRow (t : Ty) (w : Nat) (g : List Page) (r : Nat) :
    rowElems t w (groupRow g r) = (List.range (elemsPerRow t w)).map (fun c => elemAt t g r c) := splitRow_eq _ _ _

theorem List.getD_map_range {α : Type} (f : Nat → α) (d : α) {n c : Nat} (h : c < n) : ((List.range n).map f).getD c d = f c := by
  rw [List.getD_eq_getElem?_getD, List.getElem?_map, List.getElem?_range h]
  rfl

theorem zip3_map (f : Nat → Nat → Nat → Nat × Flags) (x y z : Nat → Nat) (l : List Nat) :
    zip3 f (l.map x) (l.map y) (l.map z) = l.map (fun c => f (x c) (y c) (z c)) := by
  induction l with
  | nil => rfl
  | cons c l ih => rw [List.map_cons, List.map_cons, List.map_cons, zip3, ih, List.map_cons]

/-! ### Forms computed element by element -/

section

variable {ti out : Ty} {wd wa r c : Nat} (hr : r < 64) (ha : c < elemsPerRow ti wa) (hd : c < elemsPerRow out wd)

include hr hd

/-- Element c of rows of results. -/
theorem elemAt_resultRows (l : Nat → List (Nat × Flags)) :
    elemAt out (resultPages out wd ((List.range 64).map fun r => resultRow out (l r))).1 r c
      = ((l r).map Prod.fst).getD c 0 % 2 ^ out.bits := by
  have rows : ((List.range 64).map fun r => resultRow out (l r)).map Prod.fst
      = (List.range 64).map fun r => packRow out.bits ((l r).map Prod.fst) := by
    rw [List.map_map]
    rfl
  rw [resultPages, rows]
  exact elemAt_packed out wd hr hd

include ha

theorem elemAt_mapOne (a : List Page) (f : Nat → Nat × Flags) :
    elemAt out (mapOne ti out wd wa a f).1 r c = (f (elemAt ti a r c)).1 % 2 ^ out.bits := by
  rw [mapOne, elemAt_resultRows hr hd, rowElems_groupRow, List.map_map, List.map_map, List.getD_map_range _ _ ha]
  rfl

theorem elemAt_mapThree (a b e : List Page) (f : Nat → Nat → Nat → Nat × Flags) :
    elemAt out (mapThree ti out wd wa a b e f).1 r c = (f (elemAt ti a r c) (elemAt ti b r c) (elemAt ti e r c)).1 % 2 ^ out.bits := by
  rw [mapThree, elemAt_resultRows hr hd, rowElems_groupRow, rowElems_groupRow, rowElems_groupRow, zip3_map, List.map_map,
    List.getD_map_range _ _ ha]
  rfl

end

/-! ### The sidecar of typed pages -/

/-- The scale slots of typed pages hold 1.0. -/
theorem scaleAt_typedPage (t : Ty) (rows : List Nat) {r k b : Nat} (hr : r < 64) (hrows : rows.length = 64) (f w : BitVec 4) (z : Bool) (hb : b < k) :
    scaleAt [mkPage rows (rows.map (exactTag t)) f w z] k r b = 0x0FE := by
  have tag : pageTag (mkPage rows (rows.map (exactTag t)) f w z) r = exactTag t rows[r] := by
    rw [pageTag_mkPage _ _ _ _ _ hr, List.getD_eq_getElem?_getD, List.getElem?_map, List.getElem?_eq_getElem (by omega)]
    rfl
  simp only [scaleAt, Nat.div_eq_of_lt hb, List.getElem?_cons_zero, tag, Nat.mod_eq_of_lt hb]
  split <;> rfl

theorem mem_typedPages {t : Ty} {w : Nat} {rows : List Nat} {g : Page} (h : g ∈ typedPages t w rows) :
    ∃ rs, rs.length = rows.length ∧ g = mkPage rs (rs.map (exactTag t)) t.code t.code false := by
  obtain ⟨p, _, rfl⟩ := List.mem_map.mp h
  exact ⟨pageRows rows p, by rw [pageRows, List.length_map], rfl⟩

/-- A typed page has its type, is not poisoned, and its scale slots hold 1.0. -/
theorem typedPage_sidecar {t : Ty} {w : Nat} {rows : List Nat} (hrows : rows.length = 64) {g : Page} (h : g ∈ typedPages t w rows) :
    g.ftype = t.code ∧ g.poison = false ∧ ∀ r, r < 64 → ∀ j, j < t.blocks → scaleAt [g] t.blocks r j = 0x0FE := by
  obtain ⟨rs, len, rfl⟩ := mem_typedPages h
  exact ⟨rfl, rfl, fun r hr j hj => scaleAt_typedPage t rs hr (len.trans hrows) _ _ _ hj⟩

end Sys2Proof.Machine

end

section
/-! A move of a tile group whose rename has decided to copy. -/

namespace Sys2Proof.Machine
open Sys2Proof Sys2Proof.Claims

/-- Process 1, its T1 at pool page 0; the rename of the move at hand has decided to copy the page of place 0. -/
def copyProc : Proc := { Proc.absent with pid := 1, t := Proc.absent.t.set 1 (.pool 0), copies := some [true] }

/-- The device with that process, and 5 the next free page number. -/
def copyState : State := { State.reset with cur := copyProc, nextId := 5 }

/-- The move gives T0 a page of its own. -/
theorem copyState_fresh : ((copyState.shareGroup (single 0) (single 1)).next 8).cur.tref 0 = .pool 5 := by decide +kernel

/-- Refutes O22: TMOV copies a page with one reference where its rename decided to, at a time when the page had 15. -/
theorem not_tileMoveResults : ¬ Obligations.TileMoveResults := by
  unfold Obligations.TileMoveResults
  rintro ⟨moves, _⟩
  obtain ⟨move, _⟩ := moves copyState (single 0) (single 1) 0 0 0 .f32 false (by decide) (by decide)
  obtain ⟨t, run, _, _, _, _, shares⟩ := move (by decide) (by decide)
  have here : (copyState.shareGroup (single 0) (single 1)).next 8 = t := by
    injection (show exec (.tmov (single 0) (single 1)) copyState = .next ((copyState.shareGroup (single 0) (single 1)).next 8) from rfl).symm.trans run
  have fresh : t.cur.tref 0 = .pool 5 := by rw [← here]; exact copyState_fresh
  have source : copyState.cur.tref 1 = .pool 0 := by decide
  obtain same | ⟨id, named, many, _⟩ := shares 0 (by decide)
  · have : TRef.pool 5 = .pool 0 := fresh.symm.trans (same.trans source)
    cases this
  · obtain rfl : 0 = id := by
      injection source.symm.trans named
    exact absurd many (by decide)

end Sys2Proof.Machine
end

section
/-! TRED with an empty latch (11_memory.md R304, R313). -/

namespace Sys2Proof.Machine
open Sys2Proof Sys2Proof.Claims

section
variable {s t : State} (h : t.bare = s.bare)
include h

theorem State.group_of_bare (g : TGrp) : t.group g = s.group g := by
  simp [State.group, State.groupOf, State.refPage, State.pageOf, State.cur_of_bare h, State.pages_of_bare h]

theorem Clean.of_bare {g : TGrp} (clean : Clean s g) : Clean t g := by
  unfold Clean
  rw [State.group_of_bare h]
  exact clean

end

/-! ### The rows of a tile memory form -/

theorem State.rowWalks_of_early {s : State} {e : Early} (early : s.cur.early = some e) (base : Word) (g : Geom) (n : Nat)
    (index : Option TReg) : s.rowWalks base g n index = s := by
  simp [State.rowWalks, early]

theorem State.rowWalks_of_invalid {s : State} {g : Geom} {n : Nat} (h : g.valid n = false) (base : Word) (index : Option TReg) :
    s.rowWalks base g n index = s := by
  simp [State.rowWalks, h]

theorem State.rowsNow_of_fault {s : State} {e : Early} {x : TrapInfo} (early : s.cur.early = some e) (fault : e.fault = some x)
    (base : Word) (g : Geom) (ix : Option (List Page)) (k : Access) (load store : Bool) :
    s.rowsNow base g ix k load store = .error (.trap x) := by
  simp [State.rowsNow, early, fault]

/-- The engine of a tile memory form has reached the dies of its rows. -/
def State.reachRows (s : State) (rows : List (List (Word × Nat × Nat))) : State :=
  rows.flatten.foldl (fun s x => s.noteReach x.2.1) s

theorem State.reachRows_cur (rows : List (List (Word × Nat × Nat))) (s : State) :
    ∃ acc, s.reachRows rows = { s with cur := { s.cur with acc := acc } } := by
  have step (l : List (Word × Nat × Nat)) : ∀ t : State, ∃ acc, l.foldl (fun s x => s.noteReach x.2.1) t
      = { t with cur := { t.cur with acc := acc } } := by
    induction l with
    | nil => exact fun t => ⟨t.cur.acc, rfl⟩
    | cons x rest ih =>
      intro t
      obtain ⟨a, first⟩ := Proc.noteReach_eq t.cur t.cycle t.curCore x.2.1
      obtain ⟨b, later⟩ := ih (t.noteReach x.2.1)
      refine ⟨b, ?_⟩
      rw [List.foldl_cons, later, State.noteReach, first]
  exact step rows.flatten s

theorem rowAddrs_length (base : Word) (g : Geom) : (rowAddrs base (rowOffsets g none)).length = g.rows := by
  simp [rowAddrs, rowOffsets]

theorem State.tredRows_length (s : State) (ti : Ty) (data : List Page) (g : Geom) {addrs : List Word}
    {rows : List (List (Word × Nat × Nat))} (h : addrs.length = rows.length) :
    (s.tredRows ti data g addrs rows).length = rows.length := by
  simp [State.tredRows, h]

/-- A latch that no row of has been done holds all of them. -/
theorem Latch.rowsLeft_arm (l : Latch) (kind : BitVec 2) (va : Word) (ti : Ty) (rows : List TredRow) (span : List (Nat × Nat))
    (h : Hint) (key : Option Nat) (core : Nat) : (l.arm kind va (.tred ti rows span h) key core).rowsLeft = rows := by
  simp [Latch.rowsLeft, Latch.arm]

/-! ### TRED -/

section
variable {s u : State} {a : SReg} {b : GReg} {c : TGrp} {ti : Ty} {h : Hint} {rows : List (List (Word × Nat × Nat))}
  (walked : s.rowWalks (s.rd a) (s.geom b) (TGrp.n c) none = u) (valid : (s.geom b).valid (TGrp.n c) = true)
  (whole : (s.geom b).bytes % (ti.bits / 8) = 0) (clean : Clean u c)
include walked valid whole clean

theorem exec_tred_armed {w : State} (reached : (u.rowCache .modify rows).reachRows rows = w)
    (checks : u.rowsNow (s.rd a) (s.geom b) none .modify true true = .ok rows) (empty : u.cur.latch.sent = false) :
    exec (.tred a b c ti h) s = .next ((w.sendAtomic 3 (s.rd a) (.tred ti
      (w.tredRows ti (u.group c) (s.geom b) (rowAddrs (s.rd a) (rowOffsets (s.geom b) none)) rows)
      (u.spanNow (s.rd a) (s.geom b) false .modify rows) h)).next 8) := by
  subst reached
  change execTred a b c ti h s = _
  simp only [execTred, walked, valid, whole, State.readGroup_clean clean, checks, empty]
  rfl

theorem exec_tred_of_error {x : TrapInfo} (checks : u.rowsNow (s.rd a) (s.geom b) none .modify true true = .error (.trap x)) :
    exec (.tred a b c ti h) s = .next (u.takeTrap x) := by
  change execTred a b c ti h s = _
  simp only [execTred, walked, valid, whole, State.readGroup_clean clean, checks]
  rfl

end

/-- Settles O18: the rows that passed are the entries of the request, and a fault found early is the trap. -/
theorem tredRequest : Obligations.TredRequest := by
  intro s c a b ti h rows g u valid whole clean
  have walked : u.bare = s.bare := State.rowWalks_bare s (s.rd a) g (TGrp.n c) none
  refine ⟨fun checks each empty => ?_, fun e x early fault => ?_⟩
  · have cached : (u.rowCache .modify rows).cur = s.cur := State.cur_of_bare ((State.rowCache_bare u .modify rows).trans walked)
    obtain ⟨acc, reached⟩ := State.reachRows_cur rows (u.rowCache .modify rows)
    refine ⟨_, exec_tred_armed (h := h) rfl valid whole (Clean.of_bare walked clean) reached checks
      (by rw [State.cur_of_bare walked, empty]), ?_, fun r => ?_, ?_, rfl, rfl, rfl, rfl, ?_⟩
    · exact (congrArg (fun q : Proc => q.ip + BitVec.ofNat 64 8) cached :)
    · exact (congrArg (fun q : Proc => q.rd r) cached :)
    · have noted : SameMem u { u.rowCache .modify rows with cur := { (u.rowCache .modify rows).cur with acc := acc } } :=
        (State.rowCache_same u .modify rows).trans (State.setCur_same _ _)
      exact (noted.trans ((State.sendAtomic_same _ _ _ _).trans (State.next_same _ 8))).bytes
    · refine (congrArg List.length (Latch.rowsLeft_arm _ _ _ _ _ _ _ _ _)).trans ?_
      rw [State.tredRows_length _ _ _ _ (by rw [rowAddrs_length, each]), each]
  · have same : u = s := State.rowWalks_of_early early _ _ _ _
    have run := exec_tred_of_error (h := h) (ti := ti) (x := x) same valid whole clean (State.rowsNow_of_fault early fault _ _ _ _ _ _)
    exact run

end Sys2Proof.Machine
end

section
/-! The bytes of tile rows, and the tile loads and stores (11_memory.md R299 to R303, R206, R208, R210, R296). -/

namespace Sys2Proof.Machine
open Sys2Proof Sys2Proof.Claims

/-! ### Bytes of numbers, of rows and of groups -/

theorem bytesOf_eq : ∀ n v : Nat, bytesOf n v = (List.range n).map (fun i => BitVec.ofNat 8 (v / 2 ^ (8 * i)))
  | 0, _ => rfl
  | n + 1, v => by
    rw [bytesOf, bytesOf_eq n (v / 256), List.range_succ_eq_map, List.map_cons, List.map_map]
    congr 1
    · simp
    · refine List.map_congr_left fun i _ => ?_
      rw [Nat.div_div_eq_div_mul, show 256 * 2 ^ (8 * i) = 2 ^ (8 * (i + 1)) by rw [Nat.mul_succ, Nat.pow_add]; ring]
      rfl

theorem ofBytes_byte : ∀ (l : List Byte) (i : Nat), ofBytes l / 2 ^ (8 * i) % 2 ^ 8 = (l.getD i 0).toNat
  | [], i => by simp [ofBytes]
  | b :: rest, 0 => by
    have small := b.isLt
    simp only [ofBytes, Nat.mul_zero, Nat.pow_zero, Nat.div_one, List.getD_cons_zero]
    omega
  | b :: rest, i + 1 => by
    have small := b.isLt
    have first : (b.toNat + 256 * ofBytes rest) / 2 ^ 8 = ofBytes rest := by omega
    rw [ofBytes, Nat.mul_succ, Nat.add_comm (8 * i), Nat.pow_add, ← Nat.div_div_eq_div_mul, first, ofBytes_byte rest i,
      List.getD_cons_succ]

theorem drop_take_map_range {α : Type} (f : Nat → α) {n o z : Nat} (h : o + z ≤ n) :
    (((List.range n).map f).drop o).take z = (List.range z).map (fun i => f (o + i)) := by
  refine List.ext_getElem (by simp; omega) fun i _ _ => ?_
  simp

theorem pageRead_byte (p : Page) {r j : Nat} (h : j < 64) : pageRead p (64 * r + j) 1 = pageRow p r / 2 ^ (8 * j) % 2 ^ 8 := by
  rw [pageRead, show (64 * r + j) / 64 = r by omega, show (64 * r + j) % 64 = j by omega]

theorem pageRow_zeroPage {r : Nat} (h : r < 64) : pageRow zeroPage r = 0 := by
  rw [zeroPage, pageRow_mkPage _ _ _ _ _ h]
  rfl

theorem add_mul_div_of_lt {a b : Nat} (h : a < b) (c : Nat) : (a + b * c) / b = c := by
  rw [Nat.add_mul_div_left _ _ (Nat.zero_lt_of_lt h), Nat.div_eq_of_lt h, Nat.zero_add]

theorem groupRow_byte_rest (p : Page) (rest : List Page) (r j : Nat) :
    groupRow (p :: rest) r / 2 ^ (8 * (j + 64)) = groupRow rest r / 2 ^ (8 * j) := by
  have split : 8 * (j + 64) = 512 + 8 * j := by omega
  rw [split, Nat.pow_add, ← Nat.div_div_eq_div_mul]
  exact congrArg (· / 2 ^ (8 * j)) (add_mul_div_of_lt (pageRow_lt p r) _)

/-- Byte k of a group's row is byte k % 64 of that row of its page k / 64. -/
theorem groupRow_byte {r : Nat} (h : r < 64) : ∀ (g : List Page) (k : Nat),
    groupRow g r / 2 ^ (8 * k) % 2 ^ 8 = pageRead (g.getD (k / 64) zeroPage) (64 * r + k % 64) 1
  | [], k => by
    rw [List.getD_nil, pageRead_byte _ (Nat.mod_lt _ (by decide)), pageRow_zeroPage h]
    simp [groupRow]
  | p :: rest, k => by
    by_cases first : k < 64
    · rw [show k / 64 = 0 by omega, show k % 64 = k by omega, List.getD_cons_zero, pageRead_byte _ first, groupRow,
        ← Nat.field_mod (show 8 * k + 8 ≤ 512 by omega), Nat.add_mul_mod_self_left, Nat.mod_eq_of_lt (pageRow_lt p r)]
    · obtain ⟨j, rfl⟩ : ∃ j, k = j + 64 := ⟨k - 64, by omega⟩
      rw [show (j + 64) / 64 = j / 64 + 1 by omega, show (j + 64) % 64 = j % 64 by omega, List.getD_cons_succ,
        ← groupRow_byte h rest j, groupRow_byte_rest]

/-! ### The stores of a row (R303) -/

theorem rowStores_eq : ∀ (l : List (Word × Nat × Nat)) (bytes : List Byte),
    rowStores bytes l = (List.range l.length).map fun j =>
      let x := l.getD j (0, 0, 0)
      (x.1, x.2.1, (bytes.drop ((l.take j).map (fun x => x.2.2)).sum).take x.2.2)
  | [], _ => rfl
  | x :: rest, bytes => by
    rw [rowStores, rowStores_eq rest, List.length_cons, List.range_succ_eq_map, List.map_cons, List.map_map]
    congr 1
    refine List.map_congr_left fun j _ => ?_
    simp [List.drop_drop]

theorem sum_take_add_le : ∀ (l : List Nat) {j : Nat} (h : j < l.length), (l.take j).sum + l[j] ≤ l.sum
  | x :: rest, 0, _ => by simp
  | x :: rest, j + 1, h => by
    have later := sum_take_add_le rest (Nat.lt_of_succ_lt_succ h)
    simp only [List.take_succ_cons, List.sum_cons, List.getElem_cons_succ]
    omega

/-- A row's pieces take its bytes one after the other. -/
theorem rowStores_groupBytes {r k : Nat} (hr : r < 64) (data : List Page) {l : List (Word × Nat × Nat)}
    (fill : (l.map (fun p => p.2.2)).sum = k) (h : Hint) :
    (rowStores (groupBytes data r k) l).map (fun x => (x.1, x.2.1, x.2.2, h)) = (List.range l.length).map fun j =>
      let o := ((l.take j).map (fun x => x.2.2)).sum
      let x := l.getD j (0, 0, 0)
      (x.1, x.2.1, (List.range x.2.2).map (fun i =>
        BitVec.ofNat 8 (pageRead (data.getD ((o + i) / 64) zeroPage) (64 * r + (o + i) % 64) 1)), h) := by
  rw [rowStores_eq, List.map_map]
  refine List.map_congr_left fun j hj => ?_
  have inside : j < l.length := List.mem_range.mp hj
  have room : ((l.take j).map (fun x => x.2.2)).sum + (l.getD j (0, 0, 0)).2.2 ≤ k := by
    have each := sum_take_add_le (l.map (fun p => p.2.2)) (j := j) (by simpa using inside)
    rw [List.getD_eq_getElem _ _ inside]
    simpa [fill] using each
  simp only [Function.comp, groupBytes, bytesOf_eq, drop_take_map_range _ room, Prod.mk.injEq, true_and, and_true]
  refine List.map_congr_left fun i _ => ?_
  rw [← groupRow_byte hr]
  exact BitVec.eq_of_toNat_eq (by simp)

/-- The pieces of all rows are those of the statement's list. -/
theorem rowStores_all {k : Nat} (data : List Page) {rows : List (List (Word × Nat × Nat))} (few : rows.length ≤ 64)
    (fill : ∀ l ∈ rows, (l.map (fun p => p.2.2)).sum = k) (h : Hint) :
    (((List.range rows.length).zip rows).flatMap (fun x => rowStores (groupBytes data x.1 k) x.2)).map
      (fun x => (x.1, x.2.1, x.2.2, h)) = rowStoreList data h rows := by
  have numbered : (List.range rows.length).zip rows = (List.range rows.length).map (fun r => (r, rows.getD r [])) :=
    List.ext_getElem (by simp) fun r hr _ => by
      have inside : r < rows.length := by simpa using hr
      rw [List.getElem_zip, List.getElem_map, List.getElem_range, List.getD_eq_getElem _ _ inside]
  rw [numbered, rowStoreList, List.map_flatMap, List.flatMap_map]
  refine List.flatMap_congr fun r hr => ?_
  have inside : r < rows.length := List.mem_range.mp hr
  refine rowStores_groupBytes (by omega) data (fill _ ?_) h
  rw [List.getD_eq_getElem _ _ inside]
  exact List.getElem_mem inside

/-- Stores join those that wait, in order, and nothing else changes. -/
theorem State.queueStores_spec (op : Nat) (span : List (Nat × Nat)) (hint : Hint) :
    ∀ (all : List (Word × Nat × List Byte)) (s : State), ∃ l, l.map storeView = all.map (fun x => (x.1, x.2.1, x.2.2, hint))
      ∧ all.foldl (fun t x => t.queueStore x.1 x.2.1 x.2.2 true op span hint) s
        = { s with cur := { s.cur with stores := s.cur.stores ++ l } }
  | [], s => ⟨[], rfl, by simp⟩
  | x :: rest, s => by
    obtain ⟨l, views, later⟩ := State.queueStores_spec op span hint rest (s.queueStore x.1 x.2.1 x.2.2 true op span hint)
    refine ⟨{ va := x.1, pa := x.2.1, key := s.keyAt s.curCore s.curPart x.1, level := s.levelAt s.curCore s.curPart x.1, bytes := x.2.2
              hint := hint, tile := true, core := s.curCore, op := op, span := span } :: l, by simp [views, storeView], ?_⟩
    rw [List.foldl_cons, later, State.queueStore]
    simp only [List.append_assoc, List.singleton_append]

/-! ### The forms -/

theorem State.readIndex_clean {s : State} {ix : Option TReg} (h : ∀ c, ix = some c → Clean s { base := c, w := 0 }) :
    s.readIndex ix = .ok (ix.map (fun c => s.group { base := c, w := 0 })) := by
  cases ix with
  | none => rfl
  | some c => simp only [State.readIndex, State.readGroup_clean (h c rfl), Option.map_some]; rfl

theorem State.tileLoad_eq {s u : State} {d : TGrp} {a : SReg} {b : GReg} {ix : Option TReg} {g : Geom} {x : Word}
    {old : List Page} {index : Option (List Page)} {rows : List (List (Word × Nat × Nat))} (geom : s.geom b = g)
    (walked : s.rowWalks (s.rd a) g (TGrp.n d) ix = u) (base : u.rd a = x) (valid : g.valid (TGrp.n d) = true)
    (before : (if !g.zf && !g.whole (TGrp.n d) then u.readGroup d else pure []) = Except.ok old)
    (indexed : u.readIndex ix = .ok index) (checks : u.rowsNow x g index .read true false = .ok rows) (h : Hint) :
    s.tileLoad d a b ix h = .next (((u.loadNow x g ix.isSome h rows).1.writeGroup d
      (loadPages g (TGrp.n d) old (u.loadNow x g ix.isSome h rows).2)).next 8) := by
  simp only [State.tileLoad, geom, walked, base, valid, indexed]
  generalize (!g.zf && !g.whole (TGrp.n d)) = part at before ⊢
  cases part with
  | false =>
    obtain rfl : [] = old := Except.ok.inj before
    change u.finish (u.rowsNow x g index .read true false >>= _) = _
    rw [checks]
    rfl
  | true =>
    rw [if_pos rfl] at before
    rw [if_pos rfl, before]
    change u.finish (u.rowsNow x g index .read true false >>= _) = _
    rw [checks]
    rfl

theorem tileLoadResults : Claims.TileLoadResultsPart := by
  intro s d a b ix h rows g x n u index old i
  have form : exec i s = s.tileLoad d a b ix h := by cases ix <;> rfl
  rw [form]
  refine ⟨fun invalid => ?_, fun valid clean cleanIndex checks => ?_⟩
  · have still : s.rowWalks x g n ix = s := State.rowWalks_of_invalid invalid x ix
    simp only [State.tileLoad, show s.geom b = g from rfl, show s.rd a = x from rfl, show TGrp.n d = n from rfl, still, invalid]
    rfl
  · have before : (if !g.zf && !g.whole n then u.readGroup d else pure []) = Except.ok old := by
      unfold old
      cases zf : g.zf <;> cases whole : g.whole n
      case false.false => simpa using State.readGroup_clean (clean.resolve_left (by simp [zf]) |>.resolve_left (by simp [whole]))
      all_goals rfl
    exact State.tileLoad_eq rfl rfl (State.rd_of_bare (State.rowWalks_bare s x g n ix) a) valid before
      (State.readIndex_clean cleanIndex) checks h

theorem tileStoreResults : Claims.TileStoreResultsPart := by
  intro s c a b ix h rows g x n u index i
  have form : exec i s = s.tileStore c a b ix h := by cases ix <;> rfl
  rw [form]
  refine ⟨fun invalid => ?_, fun valid clean cleanIndex checks => ?_⟩
  · have still : s.rowWalks x g n ix = s := State.rowWalks_of_invalid invalid x ix
    simp only [State.tileStore, show s.geom b = g from rfl, show s.rd a = x from rfl, show TGrp.n c = n from rfl, still, invalid]
    rfl
  · obtain ⟨l, views, queued⟩ := State.queueStores_spec u.cur.nextOp (u.spanNow x g ix.isSome .write rows) h
      (((List.range rows.length).zip rows).flatMap (fun y => rowStores (groupBytes (u.group c) y.1 g.bytes) y.2))
      (u.rowCache .write rows)
    have run : s.tileStore c a b ix h = .next (State.next { u.rowCache .write rows with
        cur := { (u.rowCache .write rows).cur with stores := (u.rowCache .write rows).cur.stores ++ l } } 8) := by
      rw [← queued]
      have base : u.rd a = x := State.rd_of_bare (State.rowWalks_bare s x g n ix) a
      have result : s.tileStore c a b ix h = u.finish (do
          trapIf (!g.valid n) .illegal 0
          let data ← u.readGroup c
          let i ← u.readIndex ix
          let rows ← u.rowsNow (u.rd a) g i .write false true
          return ((((List.range rows.length).zip rows).flatMap (fun x => rowStores (groupBytes data x.1 g.bytes) x.2)).foldl
            (fun t x => t.queueStore x.1 x.2.1 x.2.2 true u.cur.nextOp (u.spanNow (u.rd a) g ix.isSome .write rows) h)
            (u.rowCache .write rows)).next 8) := rfl
      rw [result, State.readGroup_clean clean, State.readIndex_clean cleanIndex, valid, base]
      change u.finish (u.rowsNow x g index .write false true >>= _) = _
      rw [checks]
      rfl
    have cur : (u.rowCache .write rows).cur = s.cur :=
      State.cur_of_bare ((State.rowCache_bare u .write rows).trans (State.rowWalks_bare s x g n ix))
    refine ⟨_, run, (congrArg (fun q : Proc => q.ip + BitVec.ofNat 64 8) cur :), fun r => (congrArg (fun q : Proc => q.rd r) cur :),
      ((State.rowCache_same u .write rows).trans ((State.setCur_same _ _).trans (State.next_same _ 8))).bytes,
      (congrArg Proc.t cur :), fun each fill => ?_⟩
    have few : rows.length ≤ 64 := by
      have bounds := valid
      simp only [Geom.valid, Bool.and_eq_true, decide_eq_true_eq] at bounds
      omega
    simp only [State.next, List.map_append, cur, views, rowStores_all (u.group c) few fill h]

theorem tileEarly : Claims.TileEarlyPart := by
  intro s base g ix k load store indexed h e rows
  refine ⟨fun early => by simp [State.rowsNow, early], fun early => ⟨fun x fault => State.rowsNow_of_fault early fault _ _ _ _ _ _,
    fun well read => ?_, fun x rest well unread gone away => ?_, fun data read => by simp [State.loadNow, early, read]⟩,
    fun early idle => ?_⟩
  · by_cases done : e.data = none
    · have all := read.resolve_left (by simp [done])
      have none_off : e.rows.flatten.find? (fun x => s.memOff s.curPart x.2.1) = none :=
        List.find?_eq_none.mpr fun x hx => by simp [all x hx]
      simp [State.rowsNow, early, well, done, State.rowMemOff, none_off, Except.map]
    · simp [State.rowsNow, early, well, Option.isSome_iff_ne_none.mpr done]
  · simp [State.rowsNow, early, well, unread, State.rowMemOff, gone, away, Except.map]
  · have cur := State.cur_of_bare (State.rowCache_bare s .read rows)
    intro u
    simp only [State.loadNow, early, Option.bind_none]
    rw [State.awaitStores_idle (by rw [cur, idle])]

/-! ### The bytes of a load (R302) -/

/-- A row of a whole load is the row's bytes as a number, 0 where no row was read. -/
theorem groupRow_loadPages {g : Geom} (zf : g.zf = true) {r : Nat} (hr : r < 64) (n : Nat) (data : List (List (Byte × Bool))) :
    groupRow (loadPages g n [] data) r
      = (match data[r]? with | some l => ofBytes (l.map Prod.fst) | none => 0) % 2 ^ (512 * n) := by
  have rows (res : List (Nat × List Bool)) (tags : List RowTag) (hurt : Nat → Bool) :
      groupRow ((List.range n).map fun p => mkPage (pageRows (res.map Prod.fst) p) tags noType noType (hurt p)) r
        = (res.map Prod.fst).getD r 0 % 2 ^ (512 * n) := by
    have pieces := groupRow_pieces (page := fun p => mkPage (pageRows (res.map Prod.fst) p) tags noType noType (hurt p)) (r := r)
      (x := (res.map Prod.fst).getD r 0) (fun p => by rw [pageRow_mkPage _ _ _ _ _ hr, pageRows_getD, Nat.mod_mod]) n 0
    rw [Nat.mul_zero, Nat.pow_zero, Nat.div_one, ← List.range_eq_range'] at pieces
    exact pieces
  rw [loadPages, rows, List.map_map, List.getD_map_range _ _ hr]
  simp only [Function.comp, zf, if_true]
  cases data[r]? with
  | none => rfl
  | some l => simp [loadRow]

theorem tileLoadBytes : Claims.TileLoadBytesPart := by
  intro s g n pas size zf few width seals garbled key data r i hr hi
  have bytes (pa : Nat) : (s.pieceBytes (0, pa, g.bytes)).map Prod.fst = s.physBytes pa g.bytes := by
    have plain : s.bytesAs none pa g.bytes = s.physBytes pa g.bytes := by simp [State.bytesAs, State.allPlain, seals, garbled]
    simp only [State.pieceBytes, key, plain, List.map_map]
    exact List.map_snd_zip (by simp [State.physBytes_length])
  have read : data[r]? = (pas[r]?).map (fun pa => s.pieceBytes (0, pa, g.bytes)) := by
    simp only [data, State.readRows, List.map_map, List.getElem?_map]
    refine congrArg (Option.map · pas[r]?) (funext fun pa => List.append_nil _)
  rw [← groupRow_byte hr, groupRow_loadPages zf hr, Nat.field_mod (by omega), read]
  by_cases inside : r < pas.length
  · rw [dif_pos inside, List.getElem?_eq_getElem inside]
    simp only [Option.map_some, bytes, ofBytes_byte]
    split
    · next he => rw [List.getD_eq_getElem _ _ (by rwa [State.physBytes_length]), State.physBytes_getElem]
    · next he => rw [List.getD_eq_default _ _ (by rw [State.physBytes_length]; omega)]; rfl
  · rw [dif_neg inside, List.getElem?_eq_none (by omega)]
    simp

end Sys2Proof.Machine
end

section
/-! TPF (11_memory.md R305): what it leaves as it is, and the row that it brings into the L2. -/

namespace Sys2Proof.Machine
open Sys2Proof Sys2Proof.Claims

/-! ### What TPF leaves as it is -/

/-- A prefetch changes of its context where its accesses went, and no byte where no error is marked. -/
def Asked (s t : State) : Prop :=
  (∃ acc, t.cur = { s.cur with acc := acc }) ∧ (s.errs = [] → t.errs = [] ∧ SameMem s t)

theorem Asked.refl (s : State) : Asked s s := ⟨⟨s.cur.acc, rfl⟩, fun h => ⟨h, SameMem.refl s⟩⟩

theorem Asked.trans {s t u : State} (h : Asked s t) (k : Asked t u) : Asked s u := by
  obtain ⟨⟨acc, cur⟩, calm⟩ := h
  obtain ⟨⟨acc', cur'⟩, calm'⟩ := k
  refine ⟨⟨acc', by rw [cur', cur]⟩, fun errs => ?_⟩
  obtain ⟨errs', same⟩ := calm errs
  obtain ⟨errs'', same'⟩ := calm' errs'
  exact ⟨errs'', same.trans same'⟩

theorem Asked.noteReach (s : State) (pa : Nat) : Asked s (s.noteReach pa) := by
  obtain ⟨acc, reached⟩ := Proc.noteReach_eq s.cur s.cycle s.curCore pa
  exact ⟨⟨acc, reached⟩, fun errs => ⟨errs, State.noteReach_same s pa⟩⟩

theorem Asked.prefetch (s : State) (p : Part) (level : Nat) (leaf : Word) (x : Prefetch) : Asked s (s.prefetch p level leaf x) := by
  refine ⟨⟨s.cur.acc, State.cur_of_bare (State.prefetch_bare s p level leaf x)⟩, fun errs => ?_⟩
  obtain ⟨parts, l2, garbled, fetched⟩ := State.prefetch_linesKept errs p level leaf x
  rw [fetched]
  exact ⟨errs, rfl, rfl, rfl, rfl⟩

theorem Asked.updQuad (s : State) (q : Nat) (f : Quad → Quad) : Asked s (s.updQuad q f) :=
  ⟨⟨s.cur.acc, by simp⟩, fun errs => ⟨by simpa using errs, State.updQuad_same s q f⟩⟩

theorem State.askWalks_asked (s : State) (h : Hint) (l : List (Word × Nat)) : Asked s (s.askWalks h l) := by
  refine foldl_keeps (Asked s) _ (fun t x kept => kept.trans ?_) l s (Asked.refl s)
  extract_lets c q page mine row s1
  have reached : Asked t s1 := by
    unfold s1
    split
    · exact Asked.refl t
    · exact Asked.noteReach t _
  refine reached.trans ?_
  split
  · exact Asked.prefetch s1 _ _ _ _
  · split <;> exact Asked.updQuad s1 _ _

/-! ### The lines of a fill -/

/-- The L2 holds a sector, in a line that was brought in under a hint. -/
def State.HeldUnder (s : State) (h : Hint) (sec : Nat) : Prop :=
  (s.line? (sec / 4)).map (fun l => (l.hint, l.sectors.any (fun y => y.sector == sec))) = some (h, true)

theorem State.oweSector_l2 (s : State) (p : Option Part) : (s.oweSector p).l2 = s.l2 := by
  unfold State.oweSector
  split
  · rfl
  · split <;> rfl

section
variable {s : State} {h : Hint} {sec : Nat} (hints : ∀ l ∈ s.l2, l.hint = h)
include hints

theorem State.heldUnder_of_held (held : (s.held? sec).isSome = true) : s.HeldUnder h sec := by
  unfold State.held? at held
  unfold State.HeldUnder
  cases found : s.line? (sec / 4) with
  | none => simp [found] at held
  | some l =>
    have hint := hints l (List.mem_of_find?_eq_some found)
    simp only [found, Option.bind_some, List.find?_isSome] at held
    simpa [hint] using held

variable (room : s.l2.length < 16)
include room

/-- A sector that is brought in stands there under its hint, and what stood there stays. -/
theorem State.holdSector_heldUnder : (∀ l ∈ (s.holdSector h { sector := sec, dirty := none }).l2, l.hint = h)
    ∧ (s.holdSector h { sector := sec, dirty := none }).l2.length ≤ s.l2.length + 1
    ∧ (s.holdSector h { sector := sec, dirty := none }).HeldUnder h sec
    ∧ ∀ k, s.HeldUnder h k → (s.holdSector h { sector := sec, dirty := none }).HeldUnder h k := by
  have found_cons (l : L2Line) (rest : List L2Line) (k : Nat) :
      (l :: rest).find? (fun x => x.line == k) = if l.line = k then some l else rest.find? (fun x => x.line == k) := by
    rw [List.find?_cons]
    split <;> simp_all
  cases found : s.line? (sec / 4) with
  | none =>
    have stays : s.roomInSet h (sec / 4) = s := by simp [State.roomInSet, Config.l2Ways, room]
    have held : (s.holdSector h { sector := sec, dirty := none }).l2
        = { line := sec / 4, hint := h, sectors := [{ sector := sec, dirty := none }] } :: s.l2 := by
      simp only [State.holdSector, found, stays]
    refine ⟨?_, by rw [held]; simp, ?_, fun k hk => ?_⟩
    · rw [held]
      exact List.forall_mem_cons.mpr ⟨rfl, hints⟩
    · simp [State.HeldUnder, State.line?, held]
    · unfold State.HeldUnder State.line? at hk ⊢
      rw [held, found_cons, if_neg]
      · exact hk
      · intro same
        change sec / 4 = k / 4 at same
        rw [← same] at hk
        change (s.line? (sec / 4)).map _ = _ at hk
        simp [found] at hk
  | some l =>
    have line : l.line = sec / 4 := by simpa using List.find?_some found
    have hint : l.hint = h := hints l (List.mem_of_find?_eq_some found)
    have held : (s.holdSector h { sector := sec, dirty := none }).l2
        = { l with sectors := { sector := sec, dirty := none } :: l.sectors.filter (fun y => y.sector != sec) }
            :: s.l2.filter (fun y => y.line != l.line) := by
      simp only [State.holdSector, found]
    refine ⟨?_, ?_, ?_, fun k hk => ?_⟩
    · rw [held]
      exact List.forall_mem_cons.mpr ⟨hint, fun y hy => hints y (List.mem_of_mem_filter hy)⟩
    · rw [held, List.length_cons]
      exact Nat.succ_le_succ (List.length_filter_le _ _)
    · simp [State.HeldUnder, State.line?, held, line, hint]
    · unfold State.HeldUnder State.line? at hk ⊢
      rw [held, found_cons]
      by_cases same : l.line = k / 4
      · rw [if_pos same]
        change (s.line? (k / 4)).map _ = _ at hk
        rw [← same, line, found] at hk
        simp only [Option.map_some, Option.some.injEq, Prod.mk.injEq, hint, true_and, List.any_cons, Bool.or_eq_true,
          List.any_eq_true, beq_iff_eq] at hk ⊢
        obtain ⟨y, hy, rfl⟩ := hk
        by_cases here : sec = y.sector
        · exact .inl here
        · exact .inr ⟨y, List.mem_filter.mpr ⟨hy, by simpa using Ne.symm here⟩, rfl⟩
      · rw [if_neg same, List.find?_filter]
        have others : (fun a : L2Line => decide ((a.line != l.line) = true ∧ (a.line == k / 4) = true)) = fun a => a.line == k / 4 := by
          funext a
          by_cases hk4 : a.line = k / 4 <;> simp [hk4, Ne.symm same]
        rw [others]
        exact hk

end

/-- A fill of an empty L2 with few sectors leaves them there, under its hint. -/
theorem State.fillL2_heldUnder {s : State} (empty : s.l2 = []) {v : Via} {pa n : Nat} (hp : pa < hbmTop)
    (few : (sectorsOf pa n).length ≤ 16) : ∀ sec ∈ sectorsOf pa n, (s.fillL2 v pa n).HeldUnder v.hint sec := by
  have fills : ∀ (l : List Nat) (t : State), (∀ x ∈ t.l2, x.hint = v.hint) → t.l2.length + l.length ≤ 16 →
      ∀ k, k ∈ l ∨ t.HeldUnder v.hint k → (l.foldl (fun s sec => if (s.held? sec).isSome then s
        else (s.oweSector (v.payer.bind s.part?)).holdSector v.hint { sector := sec, dirty := none }) t).HeldUnder v.hint k := by
    intro l
    induction l with
    | nil => exact fun t _ _ k hk => hk.resolve_left List.not_mem_nil
    | cons sec rest ih =>
      intro t hints room k hk
      rw [List.foldl_cons]
      simp only [List.length_cons] at room
      split
      · next held =>
        refine ih t hints (by omega) k ?_
        obtain here | there := hk
        · obtain rfl | later := List.mem_cons.mp here
          · exact .inr (State.heldUnder_of_held hints held)
          · exact .inl later
        · exact .inr there
      · obtain ⟨hints', length, now, before⟩ := State.holdSector_heldUnder (s := t.oweSector (v.payer.bind t.part?)) (sec := sec)
          (by rw [State.oweSector_l2]; exact hints) (by rw [State.oweSector_l2]; omega)
        rw [State.oweSector_l2] at length
        refine ih _ hints' (by omega) k ?_
        obtain here | there := hk
        · obtain rfl | later := List.mem_cons.mp here
          · exact .inr now
          · exact .inl later
        · refine .inr (before k ?_)
          unfold State.HeldUnder State.line?
          rw [State.oweSector_l2]
          exact there
  intro sec hsec
  unfold State.fillL2
  rw [physRegion_hbm hp]
  simpa using fills (sectorsOf pa n) s (by simp [empty]) (by simpa [empty] using few) sec (.inl hsec)

/-! ### The row of a prefetch -/

theorem leafAddr_mod (level : Nat) (leaf va : Word) (h : va.toNat % 32 = 0) : leafAddr level leaf va % 32 = 0 := by
  have frame : leafFrame leaf % 32 = 0 := by
    unfold leafFrame
    omega
  have offset : va.toNat % 2 ^ pageBits level % 32 = 0 := by
    unfold pageBits
    split
    · omega
    · split <;> omega
  unfold leafAddr
  omega

theorem sectorsOf_length_le {pa n k : Nat} (aligned : pa % 32 = 0) (h : n ≤ 32 * k) : (sectorsOf pa n).length ≤ k := by
  unfold sectorsOf
  split
  · simp
  · rw [List.length_range']
    omega

theorem State.noteKey_l2 (s : State) (key : Option Nat) (pa n : Nat) : (s.noteKey key pa n).l2 = s.l2 := by
  unfold State.noteKey
  split
  · refine foldl_keeps (fun t : State => t.l2 = s.l2) _ (fun t sec h => ?_) _ _ rfl
    split <;> exact h
  · rfl

section
variable {s : State} {x : Word} {n : Nat} {e : TEntry} {pa : Nat} (place : leafAddr e.level e.leaf x = pa) (hbm : pa < hbmTop)
  (errs : s.errs = []) (granted : s.curPart.checkLeaf s.cur.sup x n .read pa e.leaf = none) (online : s.offlineAt pa = false)
include place hbm errs granted online

/-- A prefetch that the leaf lets through fills the L2 from what holds the same lines. -/
theorem State.prefetch_fills (h : Hint) : ∃ t, t.l2 = s.l2
    ∧ s.prefetch s.curPart e.level e.leaf { va := x, n := n, sup := s.cur.sup, hint := h }
      = State.fillL2 t { key := s.curPart.leafKey e.leaf, payer := some s.curPart.num, hint := h } pa n := by
  have region := physRegion_hbm hbm
  refine ⟨s.noteKey (s.curPart.leafKey e.leaf) pa n, State.noteKey_l2 _ _ _ _, ?_⟩
  simp [State.prefetch, place, granted, region, State.memOff, online, State.noteRead, State.flushFor_hbm s hbm,
    State.readRange_clean errs]

theorem State.askWalks_cached (cached : s.cachedLeaf s.curCore s.curPart x = some e) (inside : x.toNat < 2 ^ 52) (h : Hint) :
    ∃ t, t.l2 = s.l2 ∧ s.askWalks h [(x, n)]
      = State.fillL2 t { key := s.curPart.leafKey e.leaf, payer := some s.curPart.num, hint := h } pa n := by
  have low : ¬ x.toNat / 2 ^ 52 ≠ 0 := by omega
  have here : s.xlate s.curCore s.curPart s.cur.sup x n .read = .ok { pa := pa, level := e.level, leaf := e.leaf } := by
    simp only [State.xlate, if_neg low, cached, place, granted]
  obtain ⟨acc, reached⟩ := Proc.noteReach_eq s.cur s.cycle s.curCore pa
  have asked : s.askWalks h [(x, n)] = (s.noteReach pa).prefetch (s.noteReach pa).curPart e.level e.leaf
      { va := x, n := n, sup := s.cur.sup, hint := h } := by
    simp only [State.askWalks, List.foldl_cons, List.foldl_nil, here, State.noteReach_curPart]
    have again : (s.noteReach pa).cachedLeaf s.curCore s.curPart x = some e := cached
    simp only [again]
  rw [asked, State.noteReach, reached]
  exact State.prefetch_fills (s := { s with cur := { s.cur with acc := acc } }) place hbm errs granted online h

end

theorem rowOffsets_one {g : Geom} (one : g.rows = 1) : rowOffsets g none = [0] := by
  simp [rowOffsets, one]

theorem pieces_one {x : Word} {n : Nat} (pos : n ≠ 0) (fits : x.toNat % 65536 + n ≤ 65536) : pieces x n = [(x, n)] := by
  have room : n ≤ 65536 - x.toNat % 65536 := by omega
  simp [pieces, splitPages, room, pos]

theorem rowChecks_one {g : Geom} {x : Word} (one : g.rows = 1) (base : x.toNat % 32 = 0) (stride : g.stride % 32 = 0)
    (pos : 1 ≤ g.bytes) (inside : x.toNat + g.bytes ≤ 2 ^ 52) :
    rowAlign x g none (rowOffsets g none) = .ok () ∧ rowAddrs x (rowOffsets g none) = [x] ∧ rowLimits g.bytes [x] = .ok () := by
  have low : x.toNat / 2 ^ 52 = 0 := by omega
  have high : (x.toNat + g.bytes - 1) / 2 ^ 52 = 0 := by omega
  refine ⟨?_, by simp [rowOffsets_one one, rowAddrs], by simp only [rowLimits, rowBeyond, low, high]; rfl⟩
  simp [rowAlign, aligned_eq_true.2 base, stride]

theorem prefetchRule : Claims.PrefetchRulePart := by
  intro s a b h e g x pa
  refine ⟨fun invalid => ?_, fun valid => ?_⟩
  · change execTpf a b h s = _
    simp only [execTpf, show s.geom b = g from rfl, invalid]
    rfl
  · have bounds := valid
    simp only [Geom.valid, Bool.and_eq_true, decide_eq_true_eq] at bounds
    obtain ⟨⟨⟨rows, few⟩, pos⟩, wide⟩ := bounds
    have run : ∃ t : State, exec (.tpf a b h) s = .next (t.next 8) ∧ Asked s t ∧ ∀ l, rowAlign x g none (rowOffsets g none) = .ok () →
        rowAddrs x (rowOffsets g none) = l → rowLimits g.bytes l = .ok () → t = s.askWalks h (l.flatMap (fun va => pieces va g.bytes)) := by
      change ∃ t : State, execTpf a b h s = .next (t.next 8) ∧ _
      simp only [execTpf, show s.geom b = g from rfl, valid, show s.rd a = x from rfl]
      split
      · exact ⟨_, rfl, State.askWalks_asked _ _ _, fun l _ here _ => by rw [← here]⟩
      · next apart => exact ⟨s, rfl, Asked.refl s, fun l align here limit => absurd limit (by
          subst here; exact fun limit => apart align limit)⟩
    obtain ⟨t, run, ⟨⟨acc, cur⟩, calm⟩, walks⟩ := run
    refine ⟨_, run, ?_, fun errs => ((calm errs).2.trans (State.next_same t 8)).bytes,
      fun one base stride fits inside cached granted top online empty errs sec hsec => ?_⟩
    · simp [State.next, cur]
    · obtain ⟨align, addrs, limit⟩ := rowChecks_one one base stride pos inside
      obtain ⟨w, lines, filled⟩ := State.askWalks_cached (pa := pa) rfl (by omega) errs granted online cached (by omega) h
      have asked : t = s.askWalks h [(x, g.bytes)] := by
        rw [walks _ align addrs limit, List.flatMap_cons, List.flatMap_nil, List.append_nil, pieces_one (by omega) fits]
      have held := State.fillL2_heldUnder (s := w) (lines.trans empty)
        (v := { key := s.curPart.leafKey e.leaf, payer := some s.curPart.num, hint := h }) (pa := pa) (n := g.bytes) (by omega)
        (sectorsOf_length_le (leafAddr_mod e.level e.leaf x base) (by omega)) sec hsec
      rw [← filled, ← asked] at held
      exact held

/-- Settles O19: the tile loads and stores, TPF, the bytes of a whole load, and what an engine has done before. -/
theorem tileMemoryResults : Obligations.TileMemoryResults :=
  ⟨tileLoadResults, tileStoreResults, prefetchRule, tileLoadBytes, tileEarly⟩

end Sys2Proof.Machine
end

section
/-! LD (11_memory.md R293, R208, R289, R311): the bytes at its home once older stores have performed, those of a line its core
holds, and those of an open region's copy. -/

namespace Sys2Proof.Machine
open Sys2Proof Sys2Proof.Claims

/-! ### Waiting stores -/

theorem State.drainMarked_none (pid : Pid) (s : State) : ∀ (l : List Bool) (n : Nat), l.contains true = false → s.drainMarked pid n l = s
  | [], _, _ => rfl
  | true :: rest, n, h => by simp at h
  | false :: rest, n, h => State.drainMarked_none pid s rest (n + 1) (by simpa using h)

theorem State.awaitStores_eq {s : State} (named : s.cur.pid ≠ 0) (span : List (Nat × Nat)) :
    s.awaitStores span = s.drainMarked s.cur.pid 0 (neededFor (fun st => spansMeet st.span span) s.cur.stores) := by
  simp only [State.awaitStores, State.drainOver, State.proc?_cur named]
  split
  · rfl
  · next none => exact (State.drainMarked_none _ s _ 0 (by simpa using none)).symm

/-- Once a context has waited for the stores that overlap a span, none of them is left, and nothing else of it is done. -/
theorem State.awaitStores_cur {s : State} (quiet : Quiet s) (named : s.cur.pid ≠ 0) (span : List (Nat × Nat)) :
    ∃ l, LessStores s.cur (s.awaitStores span).cur l ∧ ∀ st ∈ l, spansMeet st.span span = false := by
  rw [State.awaitStores_eq named]
  exact ⟨_, (State.drainNeeded_leaves quiet (State.proc?_cur named) _).cur_eq named, not_of_mem_unmarked _ s.cur.stores⟩

/-! ### A line that an error has left in the L1 -/

/-- The caches of the cores stay, and no error is marked that was not. -/
def CoresKept (s t : State) : Prop := t.cores = s.cores ∧ (s.errs = [] → t.errs = [])

theorem CoresKept.refl (s : State) : CoresKept s s := ⟨rfl, id⟩

theorem CoresKept.trans {s t u : State} (h : CoresKept s t) (k : CoresKept t u) : CoresKept s u :=
  ⟨k.1.trans h.1, fun errs => k.2 (h.2 errs)⟩

theorem State.rawPut_coresKept (s : State) (pa : Nat) (l : List Byte) : CoresKept s (s.rawPut pa l) := by
  unfold State.rawPut
  split <;> exact CoresKept.refl s

theorem State.sealFor_coresKept (s : State) (key : Option Nat) (pa n : Nat) : CoresKept s (s.sealFor key pa n) := by
  unfold State.sealFor
  split
  · refine foldl_keeps (CoresKept s) _ (fun t sec h => h.trans ?_) _ _ (CoresKept.refl s)
    unfold State.sealSector
    split
    · exact CoresKept.refl t
    · extract_lets t1
      have put : CoresKept t t1 := by
        unfold t1
        split
        · exact CoresKept.refl t
        · exact State.rawPut_coresKept t _ _
      exact put.trans ⟨rfl, id⟩
  · exact CoresKept.refl s

theorem State.logEntry_coresKept (s : State) (part a b c : Nat) : CoresKept s (s.logEntry part a b c) := by
  unfold State.logEntry
  split
  · exact CoresKept.refl s
  · extract_lets q at_ s1
    have marks (t : State) : CoresKept t (t.wholeMarks at_ 64) := ⟨rfl, fun errs => by simp [State.wholeMarks, errs]⟩
    have first : CoresKept s s1 := (State.sealFor_coresKept s none at_ 64).trans ((marks _).trans (State.rawPut_coresKept _ _ _))
    exact first.trans ((State.rawPut_coresKept s1 at_ _).trans ⟨State.updPart_cores _ _ _, fun errs => (State.updPart_errs _ _ _).trans errs⟩)

theorem State.noteLine_coresKept (s : State) (c pa : Nat) : CoresKept s (s.noteLine c pa) := by
  unfold State.noteLine
  split
  · unfold State.logMemory
    split
    · exact State.logEntry_coresKept s _ _ _ _
    · exact CoresKept.refl s
  · exact CoresKept.refl s

theorem State.noteLine_bare (s : State) (c pa : Nat) : (s.noteLine c pa).bare = s.bare := by
  unfold State.noteLine
  split
  · exact State.logMemory_bare s _ _ _
  · rfl

theorem State.noteLine_far {s : State} {pa : Nat} (far : ¬ pa < hbmTop) (c : Nat) : s.noteLine c pa = s := by
  have region : ¬ physRegion pa = .hbm := fun h => far ((physRegion_hbm_iff pa).1 h)
  simp [State.noteLine, region]

/-! ### A load from its home -/

theorem State.bytesAs_of_sees {s : State} {key : Option Nat} {pa n : Nat} (h : ∀ sec ∈ sectorsOf pa n, s.sees key sec = true) :
    s.bytesAs key pa n = s.physBytes pa n := by
  unfold State.bytesAs
  split
  · rfl
  · refine List.ext_getElem (by simp [State.physBytes_length]) fun i hi _ => ?_
    rw [List.getElem_map, List.getElem_range, State.physBytes_getElem]
    have sees := h _ (mem_sectorsOf (pa := pa) (show i < n by simpa using hi))
    simp only [State.sees, Bool.and_eq_true, Option.isNone_iff_eq_none, Bool.or_eq_true, beq_iff_eq] at sees
    simp only [State.byteAs, sees.1, if_pos sees.2, ite_self]

/-- A scalar access lies in one sector. -/
theorem sectorsOf_one {pa n : Nat} (pos : 0 < n) (inside : pa % 32 + n ≤ 32) : sectorsOf pa n = [pa / 32] := by
  have last : (pa + n - 1) / 32 - pa / 32 + 1 = 1 := by omega
  rw [sectorsOf, if_neg (by omega), last]
  rfl

theorem State.fillL2_sees {s : State} {key : Option Nat} {sec : Nat} (sees : s.sees key sec = true) (v : Via) {pa n : Nat}
    (one : sectorsOf pa n = [sec]) (hp : pa < hbmTop) : (s.fillL2 v pa n).sees key sec = true := by
  by_cases held : (s.held? sec).isSome = true
  · have same : s.fillL2 v pa n = s := by simp [State.fillL2, physRegion_hbm hp, one, held]
    rwa [same]
  · simp only [State.sees, held, Bool.or_false, Bool.and_eq_true, Option.isNone_iff_eq_none, beq_iff_eq] at sees
    exact State.Fits.sees (State.Fits.of_l2Kept ⟨sees.2, sees.1⟩ (State.fillL2_l2Kept s v pa n))

theorem State.physBytes_line (s : State) {pa n : Nat} (inside : pa % 32 + n ≤ 32) :
    ((s.physBytes (pa / 32 * 32) 32).drop (pa % 32)).take n = s.physBytes pa n := by
  refine List.ext_getElem (by simp [State.physBytes_length]; omega) fun i _ _ => ?_
  rw [List.getElem_take, List.getElem_drop, State.physBytes_getElem, State.physBytes_getElem]
  congr 1
  omega

section
variable {s : State} {key : Option Nat} {pa n : Nat}

/-- What an L1 fill leaves beside the line that it brings: every byte, and the process that executes. -/
theorem State.loadL1_reads (pos : 0 < n) (inside : pa % 32 + n ≤ 32) (c : Nat) (miss : s.hitsL1 c pa = false)
    (near : pa < hbmTop → s.sees key (pa / 32) = true) (far : ¬ pa < hbmTop → s.outbox = []) :
    (s.loadL1 c key pa n).2 = s.physBytes pa n ∧ (s.loadL1 c key pa n).1.bare = s.bare ∧ SameMem s (s.loadL1 c key pa n).1 := by
  by_cases hp : pa < hbmTop
  · have region := physRegion_hbm hp
    have one := sectorsOf_one pos inside
    have sees := near hp
    have keyed : s.noteKey key pa n = s := State.noteKey_fits (by simpa [one] using sees)
    have whole : sectorsOf (pa / 32 * 32) 32 = [pa / 32] := by
      rw [sectorsOf_one (by decide) (by omega)]
      congr 1
      omega
    have filled := State.fillL2_sees sees (Via.of key s.cur.part) one hp
    have line := State.bytesAs_of_sees (s := s.fillL2 (Via.of key s.cur.part) pa n) (key := key) (pa := pa / 32 * 32) (n := 32)
      (by simpa [whole] using filled)
    have none : (s.core c).l1d.find? (fun l => l.line == pa / 32 && !l.err) = none := by
      simpa [State.hitsL1, List.find?_eq_none] using miss
    have same := State.fillL2_same s (Via.of key s.cur.part) pa n
    simp only [State.loadL1, region, if_true, none, keyed, line, same.physBytes, State.physBytes_line s inside, true_and]
    exact ⟨(State.updCore_bare (fun _ => by rfl) _ c).trans (State.fillL2_bare s _ _ _), same.trans (State.updCore_same _ _ _)⟩
  · have region : ¬ physRegion pa = .hbm := fun h => hp ((physRegion_hbm_iff pa).1 h)
    have still : s.flushFor pa = s := by simp [State.flushFor, far hp]
    simp only [State.loadL1, region, if_false, still]
    exact ⟨trivial, trivial, SameMem.refl s⟩

/-- What LD takes where no line of the core holds its bytes: those at its home. -/
theorem State.loadBytes_reads {u w v : State} (awaited : u.awaitStores [(pa, n)] = w) (noted : w.noteLine w.curCore pa = v)
    (pos : 0 < n) (inside : pa % 32 + n ≤ 32) (miss : w.hitsL1 w.curCore pa = false) (errs : w.errs = [])
    (near : pa < hbmTop → v.sees key (pa / 32) = true) (far : pa < hbmTop ∨ w.outbox = []) (good : v.rangeBad pa n = false) :
    ∃ t, u.loadBytes key pa n = (t, some (ofBytes (v.physBytes pa n))) ∧ SameMem v t
      ∧ ∃ acc, t.cur = { w.cur with acc := acc } := by
  have kept : CoresKept w v := noted ▸ State.noteLine_coresKept w _ pa
  have bare : v.bare = w.bare := noted ▸ State.noteLine_bare w _ pa
  obtain ⟨acc, reached⟩ := Proc.noteReach_eq v.cur v.cycle v.curCore pa
  have missed (c : Nat) : (v.noteReach pa).hitsL1 c pa = w.hitsL1 c pa := by
    unfold State.hitsL1 State.core
    rw [show (v.noteReach pa).cores = w.cores from kept.1]
  have core : (v.noteReach pa).curCore = w.curCore := by rw [State.noteReach_curCore, State.curCore_of_bare bare]
  obtain ⟨read, left, same⟩ := State.loadL1_reads (s := v.noteReach pa) (key := key) pos inside w.curCore ((missed _).trans miss) near
    (fun hp => by
      rw [State.noteLine_far hp] at noted
      rw [← noted]
      exact far.resolve_left hp)
  refine ⟨((v.noteReach pa).loadL1 w.curCore key pa n).1, ?_, (State.noteReach_same v pa).trans same, acc, ?_⟩
  · have first : v.readRange pa n = v := State.readRange_clean (kept.2 errs) pa n
    simp only [State.loadBytes, awaited, noted, miss, Bool.and_false, Bool.false_eq_true, if_false, first, missed, core,
      Bool.not_false, show (v.noteReach pa).rangeBad pa n = false from good, read, (State.noteReach_same v pa).physBytes]
  · rw [State.cur_of_bare left, State.noteReach, reached, State.cur_of_bare bare]

end

end Sys2Proof.Machine
end

section
/-! What LD answers (11_memory.md R293, R208, R289, R311). -/

namespace Sys2Proof.Machine
open Sys2Proof Sys2Proof.Claims

/-! ### The place of a scalar access in its sector -/

theorem State.xlate_leafAddr {s : State} {c : Nat} {p : Part} {sup : Bool} {va : Word} {n : Nat} {k : Access} {r : Xlated}
    (h : s.xlate c p sup va n k = .ok r) : ∃ level leaf, r.pa = leafAddr level leaf va := by
  unfold State.xlate at h
  split at h
  · cases h
  · split at h
    · next e _ =>
      dsimp only at h
      split at h
      · cases h
      · cases h
        exact ⟨e.level, e.leaf, rfl⟩
    · split at h
      · cases h
      · next level leaf _ =>
        dsimp only at h
        split at h
        · cases h
        · split at h
          · cases h
          · cases h
            exact ⟨level, leaf, rfl⟩

theorem leafAddr_mod32 (level : Nat) (leaf va : Word) : leafAddr level leaf va % 32 = va.toNat % 32 := by
  have frame : leafFrame leaf % 32 = 0 := by
    unfold leafFrame
    omega
  have offset : va.toNat % 2 ^ pageBits level % 32 = va.toNat % 32 := by
    unfold pageBits
    split
    · omega
    · split <;> omega
  unfold leafAddr
  omega

theorem passes_inside {s u : State} {x : Word} {sz : Size} {k : Access} {pa : Nat} (h : Passes s x (Size.bytes sz) k u pa) :
    pa % 32 + Size.bytes sz ≤ 32 := by
  obtain ⟨-, r, translated, -, -, rfl⟩ := State.scalarXlate_eq_ok.1 h.2
  obtain ⟨level, leaf, place⟩ := State.xlate_leafAddr translated
  have aligned_ := h.1
  rw [place, leafAddr_mod32]
  cases sz <;> simp only [Size.bytes] at * <;> omega

/-! ### The forms of the answer -/

section
variable {s u : State} {d a : SReg} {sz : Size} {off : BitVec 12} {pa : Nat}
  (pass : Passes s (s.effAddr a off) (Size.bytes sz) .read u pa)

include pass in
theorem exec_ld_plain (outside : u.cur.region = none) : exec (.ld d a sz off) s = u.finishLoad (s.effAddr a off) d sz
    (u.loadBytes (u.keyAt u.curCore u.curPart (s.effAddr a off)) pa (Size.bytes sz)) := by
  change execLd d a sz off s = _
  simp only [execLd, passes_scalarXlate pass, outside]

include pass in
theorem exec_ld_region {r : Region} (opened : u.cur.region = some r) :
    exec (.ld d a sz off) s = (noted u (s.effAddr a off) (Size.bytes sz)).finishLoad (s.effAddr a off) d sz
      (if r.covers (s.effAddr a off) (Size.bytes sz) then (noted u (s.effAddr a off) (Size.bytes sz),
          some (ofBytes ((r.copy.drop (r.offset (s.effAddr a off))).take (Size.bytes sz))))
        else (noted u (s.effAddr a off) (Size.bytes sz)).loadBytes (u.keyAt u.curCore u.curPart (s.effAddr a off)) pa (Size.bytes sz)) := by
  change execLd d a sz off s = _
  simp only [execLd, passes_scalarXlate pass, opened, noted]

include pass in
/-- Outside an open region's line, LD takes the bytes that memory gives; the region has counted it. -/
theorem exec_ld_home (away : ∀ r, u.cur.region = some r → r.covers (s.effAddr a off) (Size.bytes sz) = false) :
    exec (.ld d a sz off) s = (noted u (s.effAddr a off) (Size.bytes sz)).finishLoad (s.effAddr a off) d sz
      ((noted u (s.effAddr a off) (Size.bytes sz)).loadBytes (u.keyAt u.curCore u.curPart (s.effAddr a off)) pa (Size.bytes sz)) := by
  cases opened : u.cur.region with
  | none => simp only [exec_ld_plain pass opened, noted, opened]
  | some r => rw [exec_ld_region pass opened, away r opened, if_neg Bool.false_ne_true]

theorem State.finishLoad_goes {u : State} {x : Word} (unwatched : u.watchAt x (Size.bytes sz) true false = .ok ()) (t : State) (v : Nat) :
    u.finishLoad x d sz (t, some v) = .next ((t.wr d (loadValue sz v)).next 4) := by
  simp only [State.finishLoad, unwatched]
  rfl

end

theorem noted_cur (u : State) (x : Word) (z : Nat) : ∃ region, noted u x z = { u with cur := { u.cur with region := region } } := by
  unfold noted
  split
  · exact ⟨u.cur.region, rfl⟩
  · exact ⟨_, rfl⟩

/-! ### The four ways to read -/

/-- What a load's last step leaves, the value apart. -/
structure Loaded (d : SReg) (v : Word) (s t : State) : Prop where
  ip : t.cur.ip = s.cur.ip + 4
  value : d ≠ 0 → t.rd d = v
  others : SameBut d s t
  region : t.cur.region = s.cur.region
  stores : t.cur.stores = s.cur.stores
  bytes : SameBytes s t

theorem Loaded.wr_next (s : State) (d : SReg) (v : Word) : Loaded d v s ((s.wr d v).next 4) where
  ip := by simp [State.next]
  value h := (State.next_rd _ _ _).trans (State.rd_wr_same s d v h)
  others r h := (State.next_rd _ _ _).trans (State.rd_wr_other s d r v h)
  region := by simp [State.next]
  stores := by simp [State.next]
  bytes := ((State.setCur_same s _).trans (State.next_same _ 4)).bytes

theorem loadFromHome : Claims.LoadFromHomePart := by
  intro s u d a sz off pa x z pass away unwatched w errs far miss v readable good
  have inside := passes_inside pass
  obtain ⟨region, counted⟩ := noted_cur u x z
  have sees : pa < hbmTop → v.sees (u.keyAt u.curCore u.curPart x) (pa / 32) = true := fun _ =>
    State.Fits.sees (readable (pa / 32) (by rw [sectorsOf_one (sizeBytes_pos sz) inside]; exact List.mem_singleton_self _))
  obtain ⟨t, loaded, same, acc, cur⟩ := State.loadBytes_reads (u := noted u x z) rfl rfl (sizeBytes_pos sz) inside miss errs sees far
    good
  have shown : (noted u x z).watchHit x.toNat (x.toNat + z - 1) true false = none := by
    rw [counted]
    exact unwatched
  have vcur : v.cur = w.cur := State.cur_of_bare (State.noteLine_bare w _ pa)
  have run : exec (.ld d a sz off) s = .next ((t.wr d (loadValue sz (ofBytes (v.physBytes pa z)))).next 4) :=
    (exec_ld_home pass away).trans ((congrArg (State.finishLoad _ _ d sz) loaded).trans (State.finishLoad_goes (State.watchAt_ok shown) t _))
  obtain ⟨ip, value, others, kept, stores, bytes⟩ := Loaded.wr_next t d (loadValue sz (ofBytes (v.physBytes pa z)))
  have regs : ∀ r, t.rd r = v.rd r := fun r => by rw [State.rd, State.rd, cur, vcur]; rfl
  refine ⟨_, run, by rw [ip, cur], value, fun r h => (others r h).trans (regs r), fun b => (bytes b).trans (same.bytes b),
    by rw [kept, cur], fun named cells entries => ?_⟩
  have quiet : Quiet (noted u x z) := by
    rw [counted]
    exact ⟨cells, entries⟩
  obtain ⟨l, less, apart⟩ := State.awaitStores_cur quiet (by rw [counted]; exact named) [(pa, z)]
  have begun : (noted u x z).cur.ip = s.cur.ip := by
    rw [counted]
    exact (congrArg Proc.ip (State.cur_of_bare (passes_bare pass)) :)
  refine ⟨by rw [ip, cur]; exact congrArg (· + 4) (less.ip.trans begun), ?_⟩
  rw [stores, cur]
  exact less.stores ▸ apart

theorem loadHit : Claims.LoadHitPart := by
  intro s u d a sz off pa l x z pass outside idle hp line unwatched
  have region := physRegion_hbm hp
  have good : (l.line == pa / 32 && !l.err) = true := List.find?_some (p := fun y : L1Line => y.line == pa / 32 && !y.err) line
  have hit : u.hitsL1 u.curCore pa = true := List.any_eq_true.2 ⟨l, List.mem_of_find?_eq_some line, good⟩
  have loaded (key : Option Nat) : u.loadBytes key pa z = (u, some (ofBytes ((l.bytes.drop (pa % 32)).take z))) := by
    simp [State.loadBytes, State.awaitStores_idle idle, region, hit, State.loadL1, line]
  refine (exec_ld_plain pass outside).trans ((congrArg _ (loaded _)).trans ?_)
  exact State.finishLoad_goes (State.watchAt_ok unwatched) u _

theorem loadInRegion : Claims.LoadInRegionPart := by
  intro s u d a sz off pa r x z o pass opened covered unwatched
  have covers : r.covers x z = true := decide_eq_true covered
  have counted : noted u x z
      = { u with cur := { u.cur with region := some { r with access := r.access + 1, hasLoad := true } } } := by
    have inside : (r.outside || !r.covers x z) = r.outside := by simp [covers]
    simp only [noted, opened, Region.note, inside, Bool.or_true]
  refine (exec_ld_region pass opened).trans ((congrArg _ (if_pos covers)).trans ?_)
  refine (State.finishLoad_goes (State.watchAt_ok ?_) _ _).trans ?_
  · rw [show noted u (s.effAddr a off) (Size.bytes sz) = _ from counted]
    exact unwatched
  · rw [show noted u (s.effAddr a off) (Size.bytes sz) = _ from counted]
    rfl

/-! ### A load of what an older store writes -/

theorem State.held?_holdSector (s : State) (h : Hint) (x : L2Sector) : ((s.holdSector h x).held? x.sector).isSome = true := by
  unfold State.holdSector
  split
  · next l found =>
    have line : l.line = x.sector / 4 := by simpa using List.find?_some found
    simp [State.held?, State.line?, line]
  · simp [State.held?, State.line?]

theorem State.held?_of_l2 {s t : State} (h : t.l2 = s.l2) (sec : Nat) : t.held? sec = s.held? sec := by
  simp only [State.held?, State.line?, h]

theorem State.storeMarks_poison {s : State} (errs : s.errs = []) (pa n : Nat) : (s.storeMarks pa n).poison ⊆ s.poison := by
  unfold State.storeMarks
  split
  · refine (foldl_keeps (fun t : State => t.errs = [] ∧ t.poison ⊆ s.poison) _ (fun t sec h => ?_) _ s ⟨errs, List.Subset.refl _⟩).2
    unfold State.storeSector
    split
    · exact ⟨by simp [h.1], fun x hx => h.2 (List.mem_of_mem_filter hx)⟩
    · have same : t.readSector sec = t := by
        unfold State.readSector
        simp [h.1]
      rwa [same]
  · exact List.Subset.refl _

section
variable {s : State} (h : Sound s) {pa : Nat} {l : List Byte} (hp : pa < hbmTop) (pid : Pid) (hint : Hint)
include h hp

theorem State.storeVia_marked : ∃ v, s.storeVia pid hint pa l
    = (s.putHbm (s.storeMarks pa l.length).poison v pa l).touchRegions pid pa l.length := by
  obtain ⟨poison, marked⟩ := State.storeMarks_clean h.errs pa l.length
  have bare := s.putHbm_bare poison (s.viaOf pid none hint) pa l
  simp only [State.storeVia, physRegion_hbm hp, marked]
  exact ⟨s.viaOf pid none hint, State.touchAreas_none
    (s := (s.putHbm poison (s.viaOf pid none hint) pa l).touchRegions pid pa l.length)
    ((State.cells_of_bare bare).trans h.cells) ((State.entries_of_bare bare).trans h.entries) pa l.length⟩

/-- A store into clean memory marks nothing, and leaves the caches of the cores. -/
theorem State.storeVia_leaves : (s.storeVia pid hint pa l).poison ⊆ s.poison ∧ (s.storeVia pid hint pa l).cores = s.cores := by
  obtain ⟨v, stored⟩ := State.storeVia_marked (l := l) h hp pid hint
  obtain ⟨parts, l2, garbled, kept, -⟩ :=
    State.dirtyL2_l2Kept (State.rawPut { s with poison := (s.storeMarks pa l.length).poison } pa l) v pa l.length
  have placed : (State.rawPut { s with poison := (s.storeMarks pa l.length).poison } pa l).poison = (s.storeMarks pa l.length).poison := by
    simp only [State.rawPut, physRegion_hbm hp]
  rw [stored]
  constructor
  · change (s.putHbm (s.storeMarks pa l.length).poison v pa l).poison ⊆ _
    rw [State.putHbm, kept]
    dsimp only
    rw [placed]
    exact State.storeMarks_poison h.errs pa l.length
  · change (s.putHbm (s.storeMarks pa l.length).poison v pa l).cores = _
    rw [State.putHbm, kept]
    exact (State.rawPut_coresKept { s with poison := (s.storeMarks pa l.length).poison } pa l).1

/-- A store into one sector leaves it in the L2. -/
theorem State.storeVia_holds (one : sectorsOf pa l.length = [pa / 32]) :
    ((s.storeVia pid hint pa l).held? (pa / 32)).isSome = true := by
  obtain ⟨v, stored⟩ := State.storeVia_marked (l := l) h hp pid hint
  have held : ((s.putHbm (s.storeMarks pa l.length).poison v pa l).held? (pa / 32)).isSome = true := by
    simp only [State.putHbm, State.dirtyL2, physRegion_hbm hp, if_true, one, List.foldl_cons, List.foldl_nil]
    exact State.held?_holdSector _ _ { sector := pa / 32, dirty := some v.payer }
  rw [stored]
  exact held

end

/-- A store changes bytes of the lines of an L1, not which lines it holds. -/
theorem State.updateL1_lines (s : State) (c pa : Nat) (l : List Byte) (k : Nat) :
    ((s.updateL1 c pa l).core k).l1d.map L1Line.line = (s.core k).l1d.map L1Line.line := by
  unfold State.updateL1
  by_cases here : k = c
  · subst here
    by_cases inside : k < 90
    · rw [State.core_updCore _ _ _ inside, List.map_map]
      refine List.map_congr_left fun x _ => ?_
      simp only [Function.comp]
      split <;> rfl
    · simp [State.updCore, inside]
  · rw [State.core_updCore_other _ _ _ _ here]

section
variable {u : State} {st : PStore} (sound : Sound u) (named : u.cur.pid ≠ 0) (one : u.cur.stores = [st]) (hp : st.pa < hbmTop)
  (fits : Readable u st.key st.pa st.bytes.length)
include sound named one hp fits

/-- The only waiting store of the process that executes, performed into one sector. -/
theorem State.performOnly (sector : sectorsOf st.pa st.bytes.length = [st.pa / 32]) :
    (u.performNth u.cur.pid 0).errs = [] ∧ (u.performNth u.cur.pid 0).poison ⊆ u.poison
      ∧ (∀ key, (u.performNth u.cur.pid 0).sees key (st.pa / 32) = true)
      ∧ (∀ k, ((u.performNth u.cur.pid 0).core k).l1d.map L1Line.line = (u.core k).l1d.map L1Line.line)
      ∧ LessStores u.cur (u.performNth u.cur.pid 0).cur [] := by
  have found : u.proc? u.cur.pid = some u.cur := State.proc?_cur named
  have waiting : u.cur.stores[0]? = some st := by rw [one]; rfl
  have after := State.performNth_stored found waiting fits sound hp
  have begun := sound.updProc u.cur.pid (fun p => p.storeDone 0 st u.cycle)
  obtain ⟨poison, cores⟩ := State.storeVia_leaves (l := st.bytes) begun hp u.cur.pid st.hint
  have held := State.storeVia_holds (l := st.bytes) begun hp u.cur.pid st.hint sector
  have performed := State.performNth_fits found waiting fits
  have less := (State.performNth_leaves ⟨sound.cells, sound.entries⟩ found waiting).cur_eq named
  rw [one] at less
  refine ⟨after.clean.errs, ?_, fun key => ?_, fun k => ?_, less⟩
  · rw [performed]
    simpa [State.updateL1] using poison
  · have clear := (after.readable (key := st.key) (pa := st.pa) (n := st.bytes.length)
      (fun sec hs => State.Fits.of_eq (fits sec hs) (by simp) (by simp)) (st.pa / 32) (by rw [sector]; exact List.mem_singleton_self _)).2
    have there : ((u.performNth u.cur.pid 0).held? (st.pa / 32)).isSome = true := by
      rw [performed]
      exact (congrArg Option.isSome (State.held?_of_l2 (State.updCore_l2 _ _ _) _)).trans held
    simp [State.sees, clear, there]
  · rw [performed, State.updateL1_lines]
    unfold State.core
    rw [cores, State.updProc_cores]

end

theorem loadAfterStore : Claims.LoadAfterStorePart := by
  intro s u d a sz off pa st x z pass outside named one place length span memOk errs cells entries top readable noline good unwatched
  subst place
  have inside := passes_inside pass
  have pos : 0 < z := sizeBytes_pos sz
  have sound : Sound u := ⟨memOk, errs, cells, entries⟩
  have fits : Readable u st.key st.pa st.bytes.length := by rw [length]; exact readable
  have sector : sectorsOf st.pa st.bytes.length = [st.pa / 32] := by rw [length]; exact sectorsOf_one pos inside
  have hp : st.pa < hbmTop := by omega
  have awaited : u.awaitStores [(st.pa, z)] = u.performNth u.cur.pid 0 := by
    have meets : spansMeet st.span [(st.pa, z)] = true := by simp [span, spansMeet, overlaps, pos]
    rw [State.awaitStores_eq named, one]
    simp only [neededFor, meets, Bool.true_or, List.zip_nil_left]
    rfl
  obtain ⟨errs', poison, sees, lines, less⟩ := State.performOnly sound named one hp fits sector
  have waiting : u.cur.stores[0]? = some st := by rw [one]; rfl
  have written := State.physBytes_of_put (State.performNth_physByte (State.proc?_cur named) waiting fits sound hp (by omega))
  have core : (u.performNth u.cur.pid 0).curCore = u.curCore := by
    obtain ⟨acc, cur⟩ := less
    rw [State.curCore, cur]
    rfl
  have apart : ∀ l ∈ ((u.performNth u.cur.pid 0).core u.curCore).l1d, l.line ≠ st.pa / 32 := by
    intro l hl same
    obtain ⟨l', hl', line⟩ := List.mem_map.1 (lines u.curCore ▸ List.mem_map_of_mem (f := L1Line.line) hl)
    exact noline l' hl' (line.trans same)
  have miss : (u.performNth u.cur.pid 0).hitsL1 (u.performNth u.cur.pid 0).curCore st.pa = false := by
    rw [core]
    exact List.any_eq_false.2 fun l hl => by simp [apart l hl]
  have unnoted : (u.performNth u.cur.pid 0).noteLine (u.performNth u.cur.pid 0).curCore st.pa = u.performNth u.cur.pid 0 := by
    have none : ((u.performNth u.cur.pid 0).core u.curCore).l1d.any (fun l => l.line == st.pa / 32 && l.err) = false :=
      List.any_eq_false.2 fun l hl => by simp [apart l hl]
    simp [State.noteLine, core, none]
  have clean : (u.performNth u.cur.pid 0).rangeBad st.pa z = false := by
    have before : st.pa / 32 ∉ u.poison := by
      simpa [State.rangeBad, physRegion_hbm hp, sectorsOf_one pos inside, State.sectorBad, errs] using good
    simpa [State.rangeBad, sectorsOf_one pos inside, State.sectorBad, errs'] using fun _ => fun h => before (poison h)
  obtain ⟨t, loaded, -, acc, cur⟩ := State.loadBytes_reads (key := u.keyAt u.curCore u.curPart x) awaited unnoted pos inside miss errs'
    (fun _ => sees _) (.inl hp) clean
  have run : exec (.ld d a sz off) s = .next ((t.wr d (loadValue sz (ofBytes st.bytes))).next 4) := by
    refine (exec_ld_plain pass outside).trans ((congrArg _ loaded).trans ?_)
    rw [← length, written]
    exact State.finishLoad_goes (State.watchAt_ok unwatched) t _
  obtain ⟨ip, value, -, -, stores, -⟩ := Loaded.wr_next t d (loadValue sz (ofBytes st.bytes))
  refine ⟨_, run, ?_, value, ?_⟩
  · rw [ip, cur, ← State.cur_of_bare (passes_bare pass)]
    exact congrArg (· + 4) less.ip
  · rw [stores, cur]
    exact less.stores

/-- Settles O9: a load reads memory once older overlapping stores have performed, or its core's line, or the region's copy. -/
theorem loadResult : Obligations.LoadResult := ⟨loadFromHome, loadAfterStore, loadHit, loadInRegion⟩

end Sys2Proof.Machine
end

section
/-! A pair at the two ends of an open channel (12_channels.md R326, R327, R331, R348): scalars, handles and exchanged values. -/

namespace Sys2Proof.Machine
open Sys2Proof Sys2Proof.Claims

/-! ### Two contexts that run -/

/-- A process whose waiting instruction completes by its writes alone: it has a context, on a core in no pause. -/
structure Runs (s : State) (p : Proc) : Prop where
  found : s.proc? p.pid = some p
  out : p.place ≠ .parked
  clocked : s.pausedCore p.pid = none

theorem Runs.of_eq {s t : State} {p : Proc} (h : Runs s p) (procs : t.proc? p.pid = s.proc? p.pid) (cores : t.cores = s.cores) : Runs t p :=
  ⟨procs.trans h.found, h.out, (State.pausedCore_congr h.found (procs.trans h.found) rfl cores).trans h.clocked⟩

theorem Runs.of_bare {s t : State} {p : Proc} (h : Runs s p) (bare : t.bare = s.bare) : Runs t p :=
  ⟨(State.proc?_of_bare bare _).trans h.found, h.out, (State.pausedCore_of_bare bare _).trans h.clocked⟩

theorem Runs.complete {s : State} {p : Proc} (h : Runs s p) (w : Writes) :
    s.complete p.pid w = s.updProc p.pid (fun p => p.completed w) :=
  State.complete_running h.found h.out h.clocked w

theorem Runs.completed {s : State} {p : Proc} (h : Runs s p) (w : Writes) : (s.complete p.pid w).proc? p.pid = some (p.completed w) := by
  rw [h.complete w, State.proc?_completed h.found]

theorem Runs.complete_other {s : State} {p q : Proc} (hp : Runs s p) (hq : Runs s q) (apart : p.pid ≠ q.pid) (w : Writes) :
    Runs (s.complete p.pid w) q := by
  rw [hp.complete w]
  refine hq.of_eq ?_ (State.updProc_cores _ _ _)
  rw [State.proc?_updProc _ _ _ _ (fun p => p.completed_pid w), if_neg apart.symm]

theorem Runs.complete_same {s : State} {p : Proc} (h : Runs s p) (w : Writes) : SameMem s (s.complete p.pid w) := by
  rw [h.complete w]
  exact State.updProc_same _ _ _

theorem Runs.complete_rest {s : State} {p : Proc} (h : Runs s p) (w : Writes) :
    (s.complete p.pid w).entries = s.entries ∧ (s.complete p.pid w).pages = s.pages := by
  rw [h.complete w]
  exact ⟨State.updProc_entries _ _ _, State.updProc_pages _ _ _⟩

theorem State.acquire_proc? (s : State) (pid q : Pid) : (s.acquire pid).proc? q = s.proc? q :=
  State.proc?_of_bare (State.acquire_bare s pid) q

/-- What two completions leave, of which the second acquires: both processes with their writes, and all else as it was. -/
structure BothDone (s t : State) (p q : Proc) (w v : Writes) : Prop where
  first : t.proc? p.pid = some (p.completed w)
  second : t.proc? q.pid = some (q.completed v)
  same : SameMem s t
  entries : t.entries = s.entries
  pages : t.pages = s.pages

section
variable {s : State} {p q : Proc} (hp : Runs s p) (hq : Runs s q) (apart : p.pid ≠ q.pid) (w v : Writes)
include hp hq apart

theorem Runs.both_done : BothDone s (((s.complete p.pid w).complete q.pid v).acquire q.pid) p q w v := by
  have later := hp.complete_other hq apart w
  obtain ⟨entries, pages⟩ := hp.complete_rest w
  obtain ⟨entries', pages'⟩ := later.complete_rest v
  have bare := State.acquire_bare ((s.complete p.pid w).complete q.pid v) q.pid
  refine ⟨?_, ?_, (hp.complete_same w).trans ((later.complete_same v).trans (State.acquire_same _ _)), ?_, ?_⟩
  · rw [State.acquire_proc?, later.complete v, State.proc?_updProc _ _ _ _ (fun p => p.completed_pid v), if_neg apart, hp.completed w]
  · rw [State.acquire_proc?, later.completed v]
  · rw [State.entries_of_bare bare, entries', entries]
  · rw [State.pages_of_bare bare, pages', pages]

theorem Runs.both_acquire : BothDone s ((((s.complete p.pid w).acquire p.pid).complete q.pid v).acquire q.pid) p q w v := by
  have later := (hp.complete_other hq apart w).of_bare (State.acquire_bare _ p.pid)
  obtain ⟨entries, pages⟩ := hp.complete_rest w
  obtain ⟨entries', pages'⟩ := later.complete_rest v
  have mid := State.acquire_bare (s.complete p.pid w) p.pid
  have bare := State.acquire_bare (((s.complete p.pid w).acquire p.pid).complete q.pid v) q.pid
  refine ⟨?_, ?_, (hp.complete_same w).trans ((State.acquire_same _ _).trans ((later.complete_same v).trans (State.acquire_same _ _))),
    ?_, ?_⟩
  · rw [State.acquire_proc?, later.complete v, State.proc?_updProc _ _ _ _ (fun p => p.completed_pid v), if_neg apart,
      State.acquire_proc?, hp.completed w]
  · rw [State.acquire_proc?, later.completed v]
  · rw [State.entries_of_bare bare, entries', State.entries_of_bare mid, entries]
  · rw [State.pages_of_bare bare, pages', State.pages_of_bare mid, pages]

end

theorem WentOn.of_completed {t : State} {p : Proc} {w : Writes} (done : t.proc? p.pid = some (p.completed w)) {P : Proc → Prop}
    (h : P (p.completed w)) : WentOn t p w.n P :=
  ⟨_, done, p.completed_ip w, p.completed_wait w, h⟩

/-! ### The rendezvous -/

/-- A cell's change leaves the processes, and what the device reads. -/
theorem State.clearPair_eq (s : State) (c : Cell) : s.clearPair c = { s with cells := (s.clearPair c).cells } := rfl

theorem Runs.clearPair {s : State} {p : Proc} (h : Runs s p) (c : Cell) : Runs (s.clearPair c) p := by
  rw [State.clearPair_eq]
  exact h.of_eq rfl rfl

theorem Posted.loaded_of_held {x : Posted} {l : List Page} (h : x.src = .held l) (same : x.withPages l = x) (s : State) (o : Option Pid) :
    s.loaded o x = .ok (s, x) := by
  simp only [State.loaded, h, State.srcPages, Except.map, same]

section
variable {s : State} {c : Cell} {p q : Proc} {x y : Posted} (face : Facing s c p q x y)
include face

theorem facing_runs : Runs s p ∧ Runs s q :=
  ⟨⟨face.owner0.2, Proc.out_of_resident face.running.1, face.clocked.1⟩, ⟨face.owner1.2, Proc.out_of_resident face.running.2, face.clocked.2⟩⟩

theorem facing_still : s.ownerMoving c false = false ∧ s.ownerMoving c true = false :=
  ⟨State.ownerMoving_resident face.owner0.1 face.owner0.2 face.running.1, State.ownerMoving_resident face.owner1.1 face.owner1.2 face.running.2⟩

theorem facing_holdSend (b : Bool) (op : Posted) : s.holdSend c b op = none := by
  obtain ⟨still0, still1⟩ := facing_still face
  unfold State.holdSend
  cases b <;> cases op <;> simp [still0, still1]

theorem facing_settleEnd (b : Bool) (op : Posted) : s.settleEnd c b op = none := by
  obtain ⟨closed0, held0⟩ := face.open0
  obtain ⟨closed1, held1⟩ := face.open1
  have kind := face.kind.1
  cases b <;> simp [State.settleEnd, kind, Cell.side, held0, held1, State.settleBound, closed0, closed1, facing_holdSend face]

theorem facing_settle {x1 y1 : Posted} (hx : s.loaded (some p.pid) x = .ok (s, x1)) (hy : s.loaded (some q.pid) y = .ok (s, y1)) :
    s.settle c.id = s.pairLoaded c x1 y1 := by
  obtain ⟨post0, post1⟩ := face.posted
  obtain ⟨plain0, plain1⟩ := face.plain
  have none0 : c.hasValue false = false := by simp [Cell.hasValue, Cell.side, face.open0.2]
  have none1 : c.hasValue true = false := by simp [Cell.hasValue, Cell.side, face.open1.2]
  simp [State.settle, face.here, Cell.side, post0, post1, plain0, plain1, facing_settleEnd face, none0, none1, State.pairUp, face.owner0.1,
    face.owner1.1, hx, hy]

theorem facing_exec {x1 y1 : Posted} (hx : s.loaded (some p.pid) x = .ok (s, x1)) (hy : s.loaded (some q.pid) y = .ok (s, y1)) {t : State}
    (done : s.pairLoaded c x1 y1 = some t) : exec (.rendezvous c.id) s = .next t := by
  change s.occur (s.settle c.id) = _
  rw [facing_settle face hx hy, done]
  rfl

theorem facing_pass_first {x1 y1 : Posted} {r : Pairing} (one : pairOne x1 y1 = some r) :
    s.pairLoaded c x1 y1 = s.passOne c r (some p.pid) (some q.pid) true := by
  simp only [State.pairLoaded, one, face.owner0.1, face.owner1.1]

theorem facing_pass_second {x1 y1 : Posted} {r : Pairing} (none_ : pairOne x1 y1 = none) (one : pairOne y1 x1 = some r) :
    s.pairLoaded c x1 y1 = s.passOne c r (some q.pid) (some p.pid) false := by
  simp only [State.pairLoaded, none_, one, face.owner0.1, face.owner1.1]

end

/-! ### A scalar passes -/

section
variable {s : State} {c : Cell} {src dst : Proc} (hs : Runs s src) (hd : Runs s dst) (apart : src.pid ≠ dst.pid) {side : Bool}
  (still : s.ownerMoving c side = false)
include hs hd apart still

theorem State.passScalar_done (v : Word) (d : SReg) : ∃ t, s.passOne c (.scalar v d) (some src.pid) (some dst.pid) side = some t
    ∧ SameBytes s t ∧ WentOn t src 4 (fun r => ∀ k, r.rd k = src.rd k)
    ∧ WentOn t dst 4 (fun r => (d ≠ 0 → r.rd d = v) ∧ ∀ k, k ≠ d → r.rd k = dst.rd k) := by
  obtain ⟨first, second, same, -, -⟩ := (hs.clearPair c).both_done (hd.clearPair c) apart (.step 4) { Writes.step 4 with s := [(d, v)] }
  refine ⟨_, by simp only [State.passOne, State.passScalar, still]; rfl, ((State.clearPair_same s c).trans same).bytes,
    WentOn.of_completed first fun k => src.completed_rd_none rfl k, WentOn.of_completed second (dst.completed_rd_one rfl)⟩

end

/-! ### A handle passes -/

section
variable {s : State} (l : List Cell)

theorem State.walkFrom_setCells (p : Part) (va : Word) (fuel : Nat) :
    ∀ (node level : Nat), State.walkFrom { s with cells := l } p va node level fuel = s.walkFrom p va node level fuel := by
  have bytes (pa n : Nat) : State.bytesAs { s with cells := l } none pa n = s.bytesAs none pa n := by
    unfold State.bytesAs
    rw [SameMem.physBytes (s := s) (t := { s with cells := l }) ⟨rfl, rfl, rfl, rfl⟩]
    rfl
  have checks (node : Nat) : State.nodeCheck { s with cells := l } p va node = s.nodeCheck p va node := rfl
  have bad (pa n : Nat) : State.rangeBad { s with cells := l } pa n = s.rangeBad pa n := rfl
  induction fuel with
  | zero => exact fun _ _ => rfl
  | succ fuel ih =>
    intro node level
    simp only [State.walkFrom, bytes, checks, bad, ih]

theorem State.areaXlate_setCells (p : Part) (va : Word) (n : Nat) (k : Access) :
    State.areaXlate { s with cells := l } p va n k = s.areaXlate p va n k := by
  have walk : State.walk { s with cells := l } p va = s.walk p va := by simp only [State.walk, State.walkFrom_setCells]
  unfold State.areaXlate State.xlate
  rw [walk]
  rfl

/-- Whether the device reaches an entry has nothing to do with what cells hold. -/
theorem State.reachEntry_setCells {e : Entry} {k : Cell} (near : s.reachEntry e k = .ok ()) (k' : Cell) :
    State.reachEntry { s with cells := l } e k' = .ok () := by
  have part (n : Nat) : State.part { s with cells := l } n = s.part n := rfl
  have bad (pa n : Nat) : State.rangeBad { s with cells := l } pa n = s.rangeBad pa n := rfl
  simp only [State.reachEntry, part, bad, State.areaXlate_setCells] at near ⊢
  split
  · rfl
  · next near_ =>
    rw [if_neg near_] at near
    split at near
    · exact near
    · split at near <;> cases near

end

theorem State.updCell_cell? (s : State) (i : Nat) {f : Cell → Cell} (hf : ∀ c, (f c).id = c.id) (id : Nat) :
    (s.updCell i f).cell? id = (s.cell? id).map (fun c => if c.id = i then f c else c) := by
  have same : (fun x : Cell => x.id == id) ∘ (fun c : Cell => if c.id = i then f c else c) = fun x => x.id == id := by
    funext x
    simp only [Function.comp]
    split
    · rw [hf]
    · rfl
  simp only [State.cell?, State.updCell, List.find?_map, same]

theorem State.clearPair_cell? (s : State) (c : Cell) (id : Nat) : ((s.clearPair c).cell? id).isSome = (s.cell? id).isSome := by
  simp only [State.clearPair, State.unpost, State.unbind, State.updEnd,
    State.updCell_cell? _ _ (fun k : Cell => k.setSide_id _ _), Option.isSome_map]

section
variable {s : State} {part : Nat} {pid : Pid} {h : Word32}
  (near : ∀ f k, s.entryOf part pid h = some f → s.cell? f.cell = some k → s.reachEntry f k = .ok ())
include near

theorem State.reachMoved_bare : (s.reachMoved part pid h).bare = s.bare := by
  unfold State.reachMoved
  split
  · rfl
  · next f found =>
    split
    · rfl
    · next k here =>
      rw [near f k found here]
      change (s.reachedEntry f).bare = s.bare
      unfold State.reachedEntry
      split
      · rfl
      · exact State.touchOwn_bare s _ _ _

theorem State.reachMoved_calm (calm : Calm s) : SameMem s (s.reachMoved part pid h) := by
  unfold State.reachMoved
  split
  · exact SameMem.refl s
  · next f found =>
    split
    · exact SameMem.refl s
    · next k here =>
      rw [near f k found here]
      change SameMem s (s.reachedEntry f)
      unfold State.reachedEntry
      split
      · exact SameMem.refl s
      · exact (State.touchOwn_calm calm _ _ _).same

end

/-- The entries once the handle h of a process has a new owner. -/
def handedOver (src dst : Proc) (h : Word32) (l : List Entry) : List Entry :=
  l.map (fun (e : Entry) => if e.live && e.part == src.part && e.handle == h && e.owner == src.pid then { e with owner := dst.pid } else e)

section
variable {s : State} {c : Cell} {src dst : Proc} (hs : Runs s src) (hd : Runs s dst) (apart : src.pid ≠ dst.pid) {side : Bool}
  (still : s.ownerMoving c side = false)
include hs hd apart still

theorem State.passHandle_done {b : EReg} (near : EntryNear s src b) (d : EReg) :
    ∃ t, s.passOne c (.handle b d) (some src.pid) (some dst.pid) side = some t ∧ (Calm s → SameBytes s t)
      ∧ WentOn t src 4 (fun r => r.e[b] = 0) ∧ WentOn t dst 4 (fun r => r.e[d] = src.e[b])
      ∧ t.entries = handedOver src dst src.e[b] s.entries := by
  let u := (s.clearPair c).reachMoved src.part src.pid src.e[b]
  have reach : ∀ f k, (s.clearPair c).entryOf src.part src.pid src.e[b] = some f → (s.clearPair c).cell? f.cell = some k →
      (s.clearPair c).reachEntry f k = .ok () := by
    intro f k found here
    obtain ⟨k', here'⟩ := Option.isSome_iff_exists.1 ((s.clearPair_cell? c f.cell).symm.trans (by rw [here]; rfl))
    exact State.reachEntry_setCells _ (near f k' found here') k
  have bare : u.bare = (s.clearPair c).bare := State.reachMoved_bare reach
  let u1 : State := { u with entries := handedOver src dst src.e[b] u.entries }
  have hs1 : Runs u1 src := ((hs.clearPair c).of_bare bare).of_eq rfl rfl
  have hd1 : Runs u1 dst := ((hd.clearPair c).of_bare bare).of_eq rfl rfl
  obtain ⟨first, second, same, entries, -⟩ := hs1.both_done hd1 apart { Writes.step 4 with e := [(b, 0)] } { Writes.step 4 with e := [(d, src.e[b])] }
  refine ⟨_, ?_, fun calm => ?_, WentOn.of_completed first ?_, WentOn.of_completed second ?_, ?_⟩
  rotate_left 1
  · have reached : SameMem (s.clearPair c) u := State.reachMoved_calm reach calm
    have handed : SameMem u u1 := ⟨rfl, rfl, rfl, rfl⟩
    exact ((State.clearPair_same s c).trans (reached.trans (handed.trans same))).bytes
  · rw [src.completed_e]
    simp
  · rw [dst.completed_e]
    simp
  · rw [entries]
    exact (congrArg (handedOver src dst src.e[b]) (State.entries_of_bare bare) :)
  · simp only [State.passOne, State.passHandle, still, State.giveHandle, (hs.clearPair c).found, (hd.clearPair c).found, if_true]
    rfl

end

/-! ### An exchange -/

theorem Proc.completed_fcsr (p : Proc) (w : Writes) : (p.completed w).fcsr = p.fcsr ||| w.fcsr := by
  obtain ⟨rob, regs, h⟩ := p.woken.take_rest w
  rw [Proc.completed, h]
  rfl

theorem Proc.completed_tcsr (p : Proc) (w : Writes) : (p.completed w).tcsr = p.tcsr ||| w.tcsr := by
  obtain ⟨rob, regs, h⟩ := p.woken.take_rest w
  rw [Proc.completed, h]
  rfl

theorem State.xcol_done {s : State} {c : Cell} {p q : Proc} {x y : Posted} (face : Facing s c p q x y) (f : XFn) (m n : Word) (d e : SReg) :
    ∃ t, s.pairLoaded c (.xcol f m d) (.xcol f n e) = some t ∧ SameBytes s t
      ∧ WentOn t p 4 (fun r => (d ≠ 0 → r.rd d = (exchangeValue f m n).1) ∧ r.fcsr = p.fcsr ||| (exchangeValue f m n).2.fcsr)
      ∧ WentOn t q 4 (fun r => (e ≠ 0 → r.rd e = (exchangeValue f n m).1) ∧ r.fcsr = q.fcsr ||| (exchangeValue f n m).2.fcsr) := by
  obtain ⟨hp, hq⟩ := facing_runs face
  obtain ⟨still0, still1⟩ := facing_still face
  obtain ⟨first, second, same, -, -⟩ := (hp.clearPair c).both_acquire (hq.clearPair c) face.apart
    { Writes.step 4 with s := [(d, (exchangeValue f m n).1)], fcsr := (exchangeValue f m n).2.fcsr }
    { Writes.step 4 with s := [(e, (exchangeValue f n m).1)], fcsr := (exchangeValue f n m).2.fcsr }
  refine ⟨_, ?_, ((State.clearPair_same s c).trans same).bytes,
    WentOn.of_completed first ⟨(p.completed_rd_one rfl).1, p.completed_fcsr _⟩,
    WentOn.of_completed second ⟨(q.completed_rd_one rfl).1, q.completed_fcsr _⟩⟩
  simp only [State.pairLoaded, pairOne, pairBoth, if_true, still0, still1, Bool.or_self, Bool.false_eq_true, if_false, face.owner0.1,
    face.owner1.1, State.giveXcol]

end Sys2Proof.Machine
end

section
/-! Pages that pass at a cell, and operations that form no pair (12_channels.md R326, R329; 07_tiles.md R195). -/

namespace Sys2Proof.Machine
open Sys2Proof Sys2Proof.Claims

/-! ### Pages that are delivered -/

theorem State.sweep_eq {s : State} {pid : Pid} {p : Proc} (found : s.proc? pid = some p) :
    s.sweep pid = { s with pages := s.pages.filter (fun q => q.owner != pid || p.refIds.contains q.id) } := by
  simp only [State.sweep, State.space?, found]

/-- The pool pages that pages become. -/
def freshPool (s : State) (p : Proc) (pages : List Page) : List PoolPage :=
  ((List.range pages.length).zip pages).map fun x =>
    { id := s.nextId + x.1, core := p.core, owner := p.pid, page := x.2, stamp := s.cycle.toNat, hurt := false, err := none }

theorem freshPool_length (s : State) (p : Proc) (pages : List Page) : (freshPool s p pages).length = pages.length := by
  simp [freshPool]

theorem freshPool_getElem (s : State) (p : Proc) (pages : List Page) (k : Nat) (h : k < (freshPool s p pages).length) :
    (freshPool s p pages)[k].page = pages[k]'(freshPool_length s p pages ▸ h) ∧ (freshPool s p pages)[k].owner = p.pid := by
  simp [freshPool]

/-- A process whose group names the given pool pages. -/
def Proc.mapped (p : Proc) (d : TGrp) (news : List PoolPage) : Proc := { p with t := setRefs p.t d.base.val (news.map (fun q => .pool q.id)) }

section
variable {s : State} {q : Proc} (hq : Runs s q) (d : TGrp) (pages : List Page)
include hq

theorem State.mapPages_eq : s.mapPages q.pid d pages =
    { s.updProc q.pid (fun p => p.mapped d (freshPool s q pages)) with
      nextId := s.nextId + pages.length
      pages := (s.pages ++ freshPool s q pages).filter
        (fun f => f.owner != q.pid || (q.mapped d (freshPool s q pages)).refIds.contains f.id) } := by
  let u : State := { s with pages := s.pages ++ freshPool s q pages, nextId := s.nextId + pages.length }
  have found : (u.updProc q.pid (fun p => p.mapped d (freshPool s q pages))).proc? q.pid = some (q.mapped d (freshPool s q pages)) := by
    rw [State.proc?_updProc _ _ _ _ (fun _ => by rfl), if_pos rfl]
    exact congrArg (Option.map _) hq.found
  have mapped : u.mapGroup q.pid d ((freshPool s q pages).map (fun f => .pool f.id))
      = { u.updProc q.pid (fun p => p.mapped d (freshPool s q pages)) with
          pages := u.pages.filter (fun f => f.owner != q.pid || (q.mapped d (freshPool s q pages)).refIds.contains f.id) } := by
    refine (State.sweep_eq found).trans ?_
    rw [State.updProc_pages]
  have image : s.mapPages q.pid d pages
      = (u.mapGroup q.pid d ((freshPool s q pages).map (fun f => .pool f.id))).syncImage q.pid (fun p => p.trefWords d) := by
    simp only [State.mapPages, hq.found]
    rfl
  have still := State.syncImage_resident (l := fun p => p.trefWords d)
    (s := { u.updProc q.pid (fun p => p.mapped d (freshPool s q pages)) with
      pages := u.pages.filter (fun f => f.owner != q.pid || (q.mapped d (freshPool s q pages)).refIds.contains f.id) }) found hq.out
  refine (image.trans (congrArg (fun t : State => t.syncImage q.pid (fun p => p.trefWords d)) mapped)).trans (still.trans ?_)
  unfold State.updProc
  split <;> rfl

theorem Runs.mapPages_proc? (other : Pid) :
    (s.mapPages q.pid d pages).proc? other = if other = q.pid then some (q.mapped d (freshPool s q pages)) else s.proc? other := by
  rw [State.mapPages_eq hq]
  change (s.updProc q.pid (fun p => p.mapped d (freshPool s q pages))).proc? other = _
  rw [State.proc?_updProc _ _ _ _ (fun _ => by rfl)]
  split
  · next same => rw [same, hq.found]; rfl
  · rfl

theorem Runs.mapPages_runs {p : Proc} (hp : Runs s p) (apart : p.pid ≠ q.pid) : Runs (s.mapPages q.pid d pages) p := by
  refine hp.of_eq (by rw [hq.mapPages_proc?, if_neg apart]) ?_
  rw [State.mapPages_eq hq]
  exact State.updProc_cores _ _ _

theorem Runs.mapPages_self : Runs (s.mapPages q.pid d pages) (q.mapped d (freshPool s q pages)) := by
  have found : (s.mapPages q.pid d pages).proc? q.pid = some (q.mapped d (freshPool s q pages)) := by
    rw [hq.mapPages_proc?, if_pos rfl]
  refine ⟨found, hq.out, (State.pausedCore_congr hq.found found rfl ?_).trans hq.clocked⟩
  rw [State.mapPages_eq hq]
  exact State.updProc_cores _ _ _

theorem Runs.mapPages_same : SameMem s (s.mapPages q.pid d pages) := by
  rw [State.mapPages_eq hq]
  exact (State.updProc_same s _ _).trans ⟨rfl, rfl, rfl, rfl⟩

/-- The pages of the others stay. -/
theorem Runs.mapPages_keeps {f : PoolPage} (h : f ∈ s.pages) (other : f.owner ≠ q.pid) : f ∈ (s.mapPages q.pid d pages).pages := by
  rw [State.mapPages_eq hq]
  exact List.mem_filter.2 ⟨List.mem_append_left _ h, by simp [other]⟩

/-- A register of the group names the page that was delivered for it. -/
theorem Runs.mapPages_page (ok : TGrp.ok d = true) (len : pages.length = TGrp.n d) (k : Nat) (h : k < pages.length) :
    ∃ f ∈ (s.mapPages q.pid d pages).pages,
      (q.mapped d (freshPool s q pages)).tref (d.base.val + k) = .pool f.id ∧ f.page = pages[k] ∧ f.owner = q.pid := by
  have inside : k < (freshPool s q pages).length := by rwa [freshPool_length]
  obtain ⟨page, owner⟩ := freshPool_getElem s q pages k inside
  have named : (q.mapped d (freshPool s q pages)).tref (d.base.val + k) = .pool (freshPool s q pages)[k].id := by
    rw [Proc.mapped, Proc.tref_setRefs q ok (by rw [List.length_map, freshPool_length, len]), dif_pos (by
      rw [List.length_map, freshPool_length]
      omega)]
    simp
  refine ⟨(freshPool s q pages)[k], ?_, named, page, owner⟩
  rw [State.mapPages_eq hq]
  exact List.mem_filter.2 ⟨List.mem_append_right _ (List.getElem_mem inside), by
    simpa using .inr (Proc.mem_refIds_of_tref named)⟩

theorem Runs.deliver_some {t : State} (h : s.deliver q.pid d pages = some t) : t = s.mapPages q.pid d pages := by
  simp only [State.deliver, hq.found, hq.clocked] at h
  split at h
  · exact (Option.some.inj h).symm
  · rw [if_neg hq.out] at h
    cases h

theorem Runs.deliver_room (room : s.sharedRoom q.core pages.length = true) : s.deliver q.pid d pages = some (s.mapPages q.pid d pages) := by
  simp only [State.deliver, hq.found, hq.clocked, room, if_true]

end

theorem Proc.completed_tref (p : Proc) (w : Writes) (k : Nat) : (p.completed w).tref k = p.tref k := by
  simp only [Proc.tref, Proc.completed_t]

/-! ### SENDT and RECVT -/

section
variable {s : State} {c : Cell} {src dst : Proc} (hs : Runs s src) (hd : Runs s dst) (apart : src.pid ≠ dst.pid) {side : Bool}
  (still : s.ownerMoving c side = false) {d : TGrp} {pages : List Page} (len : pages.length = TGrp.n d) (ok : TGrp.ok d = true)
  (room : s.sharedRoom dst.core pages.length = true)
include hs hd apart still len ok room

theorem State.passTiles_done : ∃ t, s.passOne c (.tiles pages d) (some src.pid) (some dst.pid) side = some t ∧ SameBytes s t
    ∧ WentOn t src 8 (fun r => r.t = src.t)
    ∧ WentOn t dst 8 (fun r => ∀ k (h : k < pages.length), ∃ f ∈ t.pages,
        r.tref (d.base.val + k) = .pool f.id ∧ f.page = pages[k] ∧ f.owner = dst.pid) := by
  have hs1 := hs.clearPair c
  have hd1 := hd.clearPair c
  obtain ⟨first, second, same, -, kept⟩ := (hd1.mapPages_runs d pages hs1 apart).both_done (hd1.mapPages_self d pages) apart (.step 8) (.step 8)
  refine ⟨_, ?_, ((State.clearPair_same s c).trans ((hd1.mapPages_same d pages).trans same)).bytes,
    WentOn.of_completed first (src.completed_t _), ?_⟩
  · simp only [State.passOne, State.passTiles, still]
    rw [if_neg Bool.false_ne_true, hd1.deliver_room d pages room]
    rfl
  · refine WentOn.of_completed (p := dst.mapped d (freshPool (s.clearPair c) dst pages)) second fun k h => ?_
    obtain ⟨f, mem, named, page, owner⟩ := hd1.mapPages_page d pages ok len k h
    exact ⟨f, by rw [kept]; exact mem, by rw [Proc.completed_tref, named], page, owner⟩

end

/-! ### Tile exchanges -/

/-- A process after its side of a tile exchange. -/
theorem State.giveTx_some {s t : State} {p : Proc} (hp : Runs s p) {g : TGrp} {theirs : List Page} {r : List Page × Flags}
    (h : s.giveTx (some p.pid) g theirs r = some t) :
    t = ((s.mapPages p.pid g (withPoison theirs r.1)).complete p.pid { Writes.step 8 with tcsr := r.2.tcsr }).acquire p.pid := by
  simp only [State.giveTx] at h
  obtain ⟨u, delivered, rfl⟩ := Option.map_eq_some_iff.1 h
  rw [hp.deliver_some g _ delivered]

end Sys2Proof.Machine
end

section
/-! Tile exchanges at a cell, and operations that form no pair (12_channels.md R326, R332). -/

namespace Sys2Proof.Machine
open Sys2Proof Sys2Proof.Claims

/-! ### A tile exchange -/

theorem pairBoth_tx {x y : Posted} {d e : TGrp} {r : List Page × Flags} (h : pairBoth x y = some (.tx d e r)) :
    pairOne x y = none ∧ pairOne y x = none ∧ d.w = e.w ∧ r.1.length = x.pages.length := by
  unfold pairBoth at h
  split at h
  · split at h <;> cases h
  case h_5 => cases h
  all_goals
    split at h
    · next same =>
      cases h
      exact ⟨rfl, rfl, by simp_all, length_typedPages _ _ _⟩
    · cases h

theorem length_withPoison (theirs result : List Page) : (withPoison theirs result).length = min result.length theirs.length :=
  List.length_zipWith

section
variable {s : State} {p q : Proc} (hp : Runs s p) (hq : Runs s q) (apart : p.pid ≠ q.pid) {d : TGrp} (l : List Page) (w : Writes)
  (ok : TGrp.ok d = true) (len : l.length = TGrp.n d)
include hp

/-- The state once a process has its pages and its other writes. -/
def State.txGiven (s : State) (p : Proc) (d : TGrp) (l : List Page) (w : Writes) : State :=
  ((s.mapPages p.pid d l).complete p.pid w).acquire p.pid

theorem Runs.txGiven_found : (s.txGiven p d l w).proc? p.pid = some ((p.mapped d (freshPool s p l)).completed w) := by
  rw [State.txGiven, State.acquire_proc?]
  exact (hp.mapPages_self d l).completed w

theorem Runs.txGiven_pages : (s.txGiven p d l w).pages = (s.mapPages p.pid d l).pages :=
  (State.pages_of_bare (State.acquire_bare _ p.pid)).trans (((hp.mapPages_self d l).complete_rest w).2 :)

theorem Runs.txGiven_same : SameMem s (s.txGiven p d l w) :=
  (hp.mapPages_same d l).trans (((hp.mapPages_self d l).complete_same w :).trans (State.acquire_same _ _))

theorem Runs.txGiven_leaves {other : Pid} (h : other ≠ p.pid) : (s.txGiven p d l w).proc? other = s.proc? other := by
  have complete : (s.mapPages p.pid d l).complete p.pid w = (s.mapPages p.pid d l).updProc p.pid (fun p => p.completed w) := (hp.mapPages_self d l).complete w
  rw [State.txGiven, State.acquire_proc?, complete, State.proc?_updProc _ _ _ _ (fun p => p.completed_pid w), if_neg h,
    hp.mapPages_proc?, if_neg h]

include hq apart in
theorem Runs.txGiven_other : Runs (s.txGiven p d l w) q :=
  ((hp.mapPages_self d l).complete_other (hp.mapPages_runs d l hq apart.symm) apart w :).of_bare (State.acquire_bare _ p.pid)

include ok len in
/-- What the process has in the state, and in any later one that keeps it and its pages. -/
theorem Runs.txGiven_went {t : State} (kept : t.proc? p.pid = (s.txGiven p d l w).proc? p.pid)
    (pages : ∀ f ∈ (s.txGiven p d l w).pages, f.owner = p.pid → f ∈ t.pages) :
    WentOn t p w.n (fun z => z.tcsr = p.tcsr ||| w.tcsr ∧ ∀ k (h : k < l.length), ∃ f ∈ t.pages,
      z.tref (d.base.val + k) = .pool f.id ∧ f.page = l[k]) := by
  refine WentOn.of_completed (p := p.mapped d (freshPool s p l)) (kept.trans (hp.txGiven_found l w)) ⟨Proc.completed_tcsr _ w, fun k h => ?_⟩
  obtain ⟨f, mem, named, page, owner⟩ := hp.mapPages_page d l ok len k h
  exact ⟨f, pages f (by rwa [hp.txGiven_pages]) owner, by rw [Proc.completed_tref, named], page⟩

end

section
variable {s t : State} {c : Cell} {p q : Proc} {x y x1 y1 : Posted} {d e : TGrp} {r : List Page × Flags} (face : Facing s c p q x y)
  (both : pairBoth x1 y1 = some (.tx d e r)) (done : s.pairLoaded c x1 y1 = some t)
include face both done

/-- The writes of an end of a tile exchange. -/
def txWrites (r : List Page × Flags) : Writes := { Writes.step 8 with tcsr := r.2.tcsr }

theorem State.pairLoaded_tx : t = ((s.clearPair c).txGiven p d (withPoison y1.pages r.1) (txWrites r)).txGiven q e
    (withPoison x1.pages r.1) (txWrites r) := by
  obtain ⟨hp, hq⟩ := facing_runs face
  obtain ⟨still0, still1⟩ := facing_still face
  obtain ⟨one, two, -, -⟩ := pairBoth_tx both
  simp only [State.pairLoaded, one, two, both, still0, still1, Bool.or_self, Bool.false_eq_true, if_false, face.owner0.1, face.owner1.1] at done
  obtain ⟨u, first, second⟩ := Option.bind_eq_some_iff.1 done
  have given := State.giveTx_some (hp.clearPair c) first
  have hq1 : Runs u q := by
    rw [given]
    exact (hp.clearPair c).txGiven_other (hq.clearPair c) face.apart _ (txWrites r)
  rw [State.giveTx_some hq1 second, given]
  rfl

theorem State.tx_done (okd : TGrp.ok d = true) (oke : TGrp.ok e = true) (lenx : x1.pages.length = TGrp.n d) (leny : y1.pages.length = TGrp.n e) :
    SameBytes s t
    ∧ WentOn t p 8 (fun z => z.tcsr = p.tcsr ||| r.2.tcsr ∧ ∀ k (h : k < (withPoison y1.pages r.1).length), ∃ f ∈ t.pages,
        z.tref (d.base.val + k) = .pool f.id ∧ f.page = (withPoison y1.pages r.1)[k])
    ∧ WentOn t q 8 (fun z => z.tcsr = q.tcsr ||| r.2.tcsr ∧ ∀ k (h : k < (withPoison x1.pages r.1).length), ∃ f ∈ t.pages,
        z.tref (e.base.val + k) = .pool f.id ∧ f.page = (withPoison x1.pages r.1)[k]) := by
  obtain ⟨hp, hq⟩ := facing_runs face
  obtain ⟨-, -, width, results⟩ := pairBoth_tx both
  have widths : TGrp.n d = TGrp.n e := by rw [TGrp.n, TGrp.n, width]
  have hp1 := hp.clearPair c
  have hq1 := hp1.txGiven_other (d := d) (hq.clearPair c) face.apart (withPoison y1.pages r.1) (txWrites r)
  rw [State.pairLoaded_tx face both done]
  refine ⟨((State.clearPair_same s c).trans ((hp1.txGiven_same _ _).trans (hq1.txGiven_same _ _))).bytes,
    hp1.txGiven_went _ (txWrites r) okd ?_ ?_ ?_, hq1.txGiven_went _ (txWrites r) oke ?_ rfl fun f mem _ => mem⟩
  · rw [length_withPoison, results, lenx, leny, ← widths, min_self]
  · exact hq1.txGiven_leaves _ _ face.apart
  · intro f mem owner
    rw [hq1.txGiven_pages]
    exact hq1.mapPages_keeps e _ mem (by rw [owner]; exact face.apart)
  · rw [length_withPoison, results, min_self, lenx, widths]

end

/-! ### The pairs of an open channel -/

theorem rendezvousResultsPart : Claims.RendezvousResultsPart := by
  intro s c p q x y face
  obtain ⟨hp, hq⟩ := facing_runs face
  obtain ⟨still0, still1⟩ := facing_still face
  have bare {z : Posted} (h : z.src = .held []) (same : z.withPages [] = z) (o : Option Pid) : s.loaded o z = .ok (s, z) :=
    Posted.loaded_of_held h same s o
  have sent {w : Fin 4} {src : Src} {pages : List Page} {o : Pid} (h : s.srcPages (some o) src = .ok (s, pages)) :
      s.loaded (some o) (.sendt w src) = .ok (s, .sendt w (.held pages)) := by
    simp only [State.loaded, Posted.src, h, Except.map, Posted.withPages]
  have fits {w : Fin 4} {d : TGrp} (same : w = d.w) (pages : List Page) :
      pairOne (.sendt w (.held pages)) (.recvt d) = some (.tiles pages d) := if_pos same
  refine ⟨?send, ?recv, ?sende, ?recve, ?sendt, ?recvt, ?xcol, ?tx⟩
  case send =>
    rintro v d rfl rfl
    obtain ⟨t, done, rest⟩ := State.passScalar_done hp hq face.apart still1 v d
    exact ⟨t, facing_exec face (bare rfl rfl _) (bare rfl rfl _) ((facing_pass_first face rfl).trans done), rest⟩
  case recv =>
    rintro v d rfl rfl
    obtain ⟨t, done, rest⟩ := State.passScalar_done hq hp face.apart.symm still0 v d
    exact ⟨t, facing_exec face (bare rfl rfl _) (bare rfl rfl _) ((facing_pass_second face rfl rfl).trans done), rest⟩
  case sende =>
    rintro b d rfl rfl near
    obtain ⟨t, done, rest⟩ := State.passHandle_done hp hq face.apart still1 near d
    exact ⟨t, facing_exec face (bare rfl rfl _) (bare rfl rfl _) ((facing_pass_first face rfl).trans done), rest⟩
  case recve =>
    rintro b d rfl rfl near
    obtain ⟨t, done, rest⟩ := State.passHandle_done hq hp face.apart.symm still0 near d
    exact ⟨t, facing_exec face (bare rfl rfl _) (bare rfl rfl _) ((facing_pass_second face rfl rfl).trans done), rest⟩
  case sendt =>
    rintro w src pages d rfl rfl held width len ok room
    obtain ⟨t, done, rest⟩ := State.passTiles_done hp hq face.apart still1 len ok room
    exact ⟨t, facing_exec face (sent held) (bare rfl rfl _) ((facing_pass_first face (fits width pages)).trans done), rest⟩
  case recvt =>
    rintro w src pages d rfl rfl held width len ok room
    obtain ⟨t, done, rest⟩ := State.passTiles_done hq hp face.apart.symm still0 len ok room
    exact ⟨t, facing_exec face (bare rfl rfl _) (sent held) ((facing_pass_second face rfl (fits width pages)).trans done), rest⟩
  case xcol =>
    rintro f m n d e rfl rfl
    obtain ⟨t, done, rest⟩ := State.xcol_done face f m n d e
    exact ⟨t, facing_exec face (bare rfl rfl _) (bare rfl rfl _) done, rest⟩
  case tx =>
    intro x1 y1 d e r t hx hy both done okd oke lenx leny
    have paired := (facing_settle face hx hy).symm.trans done
    exact ⟨facing_exec face hx hy paired, State.tx_done face both paired okd oke lenx leny⟩

end Sys2Proof.Machine
end

section
/-! Operations that form no pair: both instructions take CHMISMATCH and the cell stands open and empty (12_channels.md R326). -/

namespace Sys2Proof.Machine
open Sys2Proof Sys2Proof.Claims

/-- A state after something befell one process: the other processes, the cells and the clock pauses are as they were. -/
structure Aside (s t : State) (pid : Pid) : Prop where
  others : ∀ r, r ≠ pid → t.proc? r = s.proc? r
  cells : t.cells = s.cells
  pause : ∀ c, (t.core c).pause = (s.core c).pause

namespace Aside
variable {s t u : State} {pid : Pid}

theorem trans (h : Aside s t pid) (g : Aside t u pid) : Aside s u pid :=
  ⟨fun r other => (g.others r other).trans (h.others r other), g.cells.trans h.cells, fun c => (g.pause c).trans (h.pause c)⟩

theorem refl (s : State) (pid : Pid) : Aside s s pid := ⟨fun _ _ => rfl, rfl, fun _ => rfl⟩

theorem updProc (s : State) (pid : Pid) {f : Proc → Proc} (hf : ∀ p, (f p).pid = p.pid) : Aside s (s.updProc pid f) pid :=
  ⟨fun r other => by rw [State.proc?_updProc _ _ _ _ hf, if_neg other], State.updProc_cells _ _ _, fun c => by rw [State.updProc_core]⟩

theorem updCore (s : State) (pid : Pid) (c : Nat) {f : Core → Core} (hf : ∀ k, (f k).pause = k.pause) : Aside s (s.updCore c f) pid :=
  ⟨fun r _ => State.updCore_proc? s c f r, State.updCore_cells _ _ _, fun d => State.core_field_updCore hf s c d⟩

theorem updPart (s : State) (pid : Pid) (n : Nat) (f : Part → Part) : Aside s (s.updPart n f) pid :=
  ⟨fun r _ => State.updPart_proc? s n f r, rfl, fun c => by rw [State.updPart_core]⟩

theorem dequeue (s : State) (pid : Pid) : Aside s (s.dequeue pid) pid := by
  unfold State.dequeue
  split
  · exact refl s pid
  · exact updCore s pid _ fun _ => rfl

theorem runs (h : Aside s t pid) {q : Proc} (hq : Runs s q) (other : q.pid ≠ pid) : Runs t q := by
  have found := (h.others q.pid other).trans hq.found
  refine ⟨found, hq.out, Eq.trans ?_ hq.clocked⟩
  simp only [State.pausedCore, found, hq.found, Option.bind_some]
  split
  · rw [h.pause]
  · rfl

end Aside

section
variable {s : State} {p : Proc} {c k : Nat} (found : s.proc? p.pid = some p) (resident : p.place = .resident c k)
include found resident

theorem State.parkNow_aside : Aside s (s.parkNow p.pid true) p.pid := by
  rw [State.parkNow_resident found resident]
  exact (Aside.updProc s p.pid (fun q => by exact q.squash_pid)).trans (Aside.updCore _ p.pid c fun _ => rfl)

theorem State.trapNow_aside (user : p.sup = false) (well : p.faulted = false) (t : TrapInfo) (w0 w1 : Word32) (cycle : Word) :
    Aside s (s.trapNow p.pid t w0 w1 cycle) p.pid := by
  rw [State.trapNow_user found resident user well]
  exact (State.parkNow_aside found resident).trans ((Aside.dequeue _ p.pid).trans
    ((Aside.updProc _ p.pid (fun _ => by rfl)).trans (Aside.updPart _ p.pid _ _)))

end

/-- A process that has left its wait for a trap. -/
def Proc.unwaited (p : Proc) : Proc := { p with wait := .none, waitGen := p.waitGen + 1 }

section
variable {s : State} {p : Proc} (hp : Runs s p) (resident : p.isResident = true) (user : p.sup = false) (well : p.faulted = false)
  (t : TrapInfo)
include hp resident user well

/-- A posted operation that traps leaves its process parked, faulted and held at its retirement boundary, with the trap's record. -/
theorem State.opTrap_parks : Aside s (s.opTrap p.pid t) p.pid
    ∧ ProcAt (s.opTrap p.pid t) p.pid (fun r => r.faulted = true ∧ r.held = true ∧ r.wait = .none ∧ r.ip = p.rollback.ip
        ∧ r.record.map (fun z => (z.cause, z.addr)) = some (t.cause, t.addr)) := by
  obtain ⟨c, k, place⟩ : ∃ c k, p.place = .resident c k := by
    simp only [Proc.isResident] at resident
    split at resident
    · exact ⟨_, _, by assumption⟩
    · cases resident
  let u := s.updProc p.pid Proc.unwaited
  have found : u.proc? p.pid = some p.unwaited := by
    rw [State.proc?_updProc _ _ _ _ (fun _ => by rfl), if_pos rfl, hp.found]
    rfl
  have placed : p.unwaited.place = .resident c k := place
  have clocked : u.pausedCore p.pid = none :=
    (State.pausedCore_congr hp.found found rfl (State.updProc_cores _ _ _)).trans hp.clocked
  have parked := State.trapNow_proc? found placed user well t p.iw0 p.iw1 u.cycle
  have trapped : s.opTrap p.pid t = u.trapNow p.pid t p.iw0 p.iw1 u.cycle := by
    simp only [State.opTrap, hp.found]
    change (u.trapProc p.pid t p.iw0 p.iw1).syncImage p.pid Proc.recordWords = _
    rw [State.trapProc, clocked]
    simp only [State.syncImage, parked]
    exact if_neg (by simp [Proc.inImage, Proc.trapped, Proc.parkedAt])
  rw [trapped]
  refine ⟨(Aside.updProc s p.pid (fun _ => by rfl)).trans (State.trapNow_aside found placed user well _ _ _ _), _, parked, rfl, rfl, ?_, ?_, rfl⟩
  · simp only [Proc.trapped, Proc.parkedAt, Proc.squash, Proc.rollback, Proc.unwaited]
    split <;> rfl
  · simp only [Proc.trapped, Proc.parkedAt, Proc.squash, Proc.rollback, Proc.unwaited]
    split <;> rfl

end

/-- The cell of a pair that is undone. -/
theorem facing_clear {s : State} {c : Cell} {p q : Proc} {x y : Posted} (face : Facing s c p q x y) :
    ∃ n, (s.clearPair c).cell? c.id = some n ∧ n.end0.post = none ∧ n.end1.post = none ∧ n.end0.closed = false ∧ n.end1.closed = false := by
  refine ⟨{ c with end0 := { c.end0 with post := none, bound := false }, end1 := { c.end1 with post := none, bound := false } },
    ?_, rfl, rfl, face.open0.1, face.open1.1⟩
  simp only [State.clearPair, State.unpost, State.unbind, State.updEnd, State.updCell_cell? _ _ (fun k : Cell => k.setSide_id _ _), face.here,
    Option.map_some, Cell.setSide_id, if_true]
  rfl

theorem mismatchRulePart : Claims.MismatchRulePart := by
  intro s c p q x y x1 y1 face hx hy one two both userp userq wellp wellq
  obtain ⟨hp, hq⟩ := facing_runs face
  have hp1 := hp.clearPair c
  obtain ⟨leftp, donep⟩ := State.opTrap_parks hp1 face.running.1 userp wellp (.at .chmismatch c.word)
  have hq1 := leftp.runs (hq.clearPair c) face.apart.symm
  obtain ⟨leftq, r, foundq, doneq⟩ := State.opTrap_parks hq1 face.running.2 userq wellq (.at .chmismatch c.word)
  have paired : s.pairLoaded c x1 y1 = some (((s.clearPair c).opTrap p.pid (.at .chmismatch c.word)).opTrap q.pid (.at .chmismatch c.word)) := by
    simp only [State.pairLoaded, one, two, both, face.owner0.1, face.owner1.1, State.mismatchTrap]
  obtain ⟨n, here, open_⟩ := facing_clear face
  refine ⟨_, facing_exec face hx hy paired, ⟨n, ?_, open_⟩, List.forall_mem_cons.2 ⟨?_, List.forall_mem_singleton.2 ⟨r, foundq, doneq⟩⟩⟩
  · rw [State.cell?, leftq.cells, leftp.cells]
    exact here
  · obtain ⟨r', foundp, done⟩ := donep
    exact ⟨r', (leftq.others p.pid face.apart).trans foundp, done⟩

end Sys2Proof.Machine
end

section
/-! A rounded float fits its encoding (04_numbers.md R86, R90). -/

namespace Sys2Proof.Machine
open Sys2Proof Sys2Proof.Claims

/-- A magnitude rounded at a weight that leaves n + 1 bits of it is at most 2^(n + 1). -/
theorem roundMag_le {rnd : Rnd} {neg sticky : Bool} {m n : Nat} {e q : Int} (h : (Nat.log2 m : Int) + e - n ≤ q) :
    (roundMag rnd neg m e sticky q).1 ≤ 2 ^ (n + 1) := by
  have below : m < 2 ^ (Nat.log2 m + 1) := Nat.lt_log2_self
  unfold roundMag
  split
  case isTrue le =>
    calc m * 2 ^ (e - q).toNat ≤ 2 ^ (Nat.log2 m + 1) * 2 ^ (e - q).toNat := Nat.mul_le_mul_right _ below.le
      _ = 2 ^ (Nat.log2 m + 1 + (e - q).toNat) := (pow_add _ _ _).symm
      _ ≤ 2 ^ (n + 1) := Nat.pow_le_pow_right (by decide) (by omega)
  case isFalse lt =>
    have kept : m / 2 ^ (q - e).toNat < 2 ^ (n + 1) := by
      refine Nat.div_lt_of_lt_mul (below.trans_le ?_)
      rw [← pow_add]
      exact Nat.pow_le_pow_right (by decide) (by omega)
    have step (up : Bool) : (if up = true then m / 2 ^ (q - e).toNat + 1 else m / 2 ^ (q - e).toNat) ≤ 2 ^ (n + 1) := by
      cases up
      · exact kept.le
      · exact kept
    exact step _

/-- The finite encoding of r units of weight 2^q, r at least 2^man. -/
def encodeNormal (f : Format) (r : Nat) (q : Int) : Nat := (q + f.man + f.bias).toNat * 2 ^ f.man + (r - 2 ^ f.man)

/-- What does not exceed the largest finite value has at most its encoding. -/
theorem encodeNormal_le {f : Format} {r : Nat} {q : Int} (small : r ≤ 2 ^ (f.man + 1)) (normal : 2 ^ f.man ≤ r)
    (top : f.maxM < 2 ^ (f.man + 1)) (full : 2 ^ f.man ≤ f.maxM) (floor : (1 : Int) - f.bias - f.man ≤ q) (h : exceedsMax f r q = false) :
    encodeNormal f r q ≤ encodeNormal f f.maxM f.maxE := by
  have double : 2 ^ (f.man + 1) = 2 * 2 ^ f.man := by rw [pow_succ]; omega
  unfold exceedsMax at h
  split at h
  case isTrue ge =>
    have bound : r * 2 ^ (q - f.maxE).toNat ≤ f.maxM := by simpa using h
    have same : (q - f.maxE).toNat = 0 := by
      by_contra ne
      have two : 2 * r ≤ r * 2 ^ (q - f.maxE).toNat := by
        rw [Nat.mul_comm 2 r]
        exact Nat.mul_le_mul_left r (Nat.le_self_pow ne 2)
      omega
    rw [same] at bound
    have eq : q = f.maxE := by omega
    rw [encodeNormal, encodeNormal, eq]
    omega
  case isFalse lt =>
    have lower : (q + f.man + f.bias).toNat + 1 ≤ (f.maxE + f.man + f.bias).toNat := by omega
    have scaled := Nat.mul_le_mul_right (2 ^ f.man) lower
    rw [Nat.add_mul] at scaled
    rw [encodeNormal, encodeNormal]
    omega

/-- The numbers of a format fit its encoding: the subnormals, and the largest finite value. -/
structure FormatFits (f : Format) (bits : Nat) : Prop where
  top : f.maxM < 2 ^ (f.man + 1)
  full : 2 ^ f.man ≤ f.maxM
  sub : 2 ^ f.man ≤ 2 ^ (bits - 1)
  last : encodeNormal f f.maxM f.maxE < 2 ^ (bits - 1)

theorem Ty.format_fits {t : Ty} (h : t.isFloat = true) : FormatFits t.format t.bits := by
  cases t
  case f32 | bf16 | f16 | e4m3 | e5m2 | e2m1 => constructor <;> decide
  all_goals cases h

theorem signed_lt {bits x : Nat} (pos : 0 < bits) (h : x < 2 ^ (bits - 1)) (neg : Bool) : (if neg then 2 ^ (bits - 1) else 0) + x < 2 ^ bits := by
  have double : 2 ^ bits = 2 * 2 ^ (bits - 1) := by rw [← pow_succ', Nat.sub_add_cancel pos]
  cases neg <;> simp <;> omega

theorem Ty.nan_lt {t : Ty} (h : t.isFloat = true) : t.nan < 2 ^ t.bits := by
  cases t
  case f32 | bf16 | f16 | e4m3 | e5m2 | e2m1 => decide
  all_goals cases h

theorem Ty.inf_lt {t : Ty} (h : t.isFloat = true) (neg : Bool) (inf : t.hasInf = true) : t.inf neg < 2 ^ t.bits := by
  cases t
  case f32 | bf16 | f16 | e5m2 => exact signed_lt (Ty.bits_pos _) (by decide) neg
  case e4m3 | e2m1 => cases inf
  all_goals cases h

theorem Ty.maxFinite_lt {t : Ty} (h : t.isFloat = true) (neg : Bool) : t.maxFinite neg < 2 ^ t.bits := by
  cases t
  case f32 | bf16 | f16 | e4m3 | e5m2 | e2m1 => exact signed_lt (Ty.bits_pos _) (by decide) neg
  all_goals cases h

theorem roundFloat_lt {t : Ty} (h : t.isFloat = true) (rnd : Rnd) (sat : Bool) (x : Exact) : (roundFloat t rnd sat x).1 < 2 ^ t.bits := by
  have pos := Ty.bits_pos t
  obtain ⟨top, full, sub, last⟩ := Ty.format_fits h
  cases x with
  | nan i => exact Ty.nan_lt h
  | inf neg dz =>
    simp only [roundFloat]
    split
    · exact Ty.maxFinite_lt h neg
    · split
      · exact Ty.inf_lt h neg ‹_›
      · exact Ty.nan_lt h
  | num neg m e sticky =>
    simp only [roundFloat]
    split
    · have zero := signed_lt pos (x := 0) (by positivity) neg
      exact zero
    · generalize hq : (if (Nat.log2 m : Int) + e - t.format.man < 1 - (t.format.bias : Int) - t.format.man then
        1 - (t.format.bias : Int) - t.format.man else (Nat.log2 m : Int) + e - t.format.man) = q
      have floor : (1 : Int) - t.format.bias - t.format.man ≤ q ∧ (Nat.log2 m : Int) + e - t.format.man ≤ q := by
        split at hq <;> omega
      have small := roundMag_le (rnd := rnd) (neg := neg) (sticky := sticky) floor.2
      generalize roundMag rnd neg m e sticky q = r at small ⊢
      split
      · split
        · exact Ty.maxFinite_lt h neg
        · split
          · split
            · exact Ty.nan_lt h
            · exact Ty.maxFinite_lt h neg
          · split
            · exact Ty.inf_lt h neg (by simp_all)
            · exact Ty.maxFinite_lt h neg
      · next fits =>
        refine signed_lt pos ?_ neg
        split
        · omega
        · next normal => exact (encodeNormal_le small (by omega) top full floor.1 (by simpa using fits)).trans_lt last

end Sys2Proof.Machine
end

section
/-! Elements of integer types, and the elements of a tile exchange (04_numbers.md R79, R93; 12_channels.md R332). -/

namespace Sys2Proof.Machine
open Sys2Proof Sys2Proof.Claims

/-! ### Integers as exact values -/

theorem Exact.toInt_int (i : Int) : (Exact.int i).toInt = i := by
  simp only [Exact.int, Exact.toInt, Int.toNat_zero, pow_zero, Nat.mul_one]
  split
  · next neg =>
    have := of_decide_eq_true neg
    omega
  · next pos =>
    have : ¬ i < 0 := by simpa using pos
    omega

/-- The value of an integer element is the integer its encoding stands for. -/
theorem elemValue_int {t : Ty} (h : t.isFloat = false) {raw : Nat} (small : raw < 2 ^ t.bits) : elemValue t raw = Exact.int (intOf t raw) := by
  have double : 2 ^ t.bits = 2 * 2 ^ (t.bits - 1) := by rw [← pow_succ', Nat.sub_add_cancel (Ty.bits_pos t)]
  have low := Nat.mod_eq_of_lt small
  simp only [elemValue, h, Bool.false_eq_true, if_false, intOf, low]
  cases signed : t.isSigned
  · simp
  · simp only [Bool.true_and, if_true, BitVec.toInt_eq_msb_cond, BitVec.msb_eq_decide, BitVec.toNat_ofNat, low]
    rcases Nat.lt_or_ge raw (2 ^ (t.bits - 1)) with under | above
    · simp [Nat.div_eq_of_lt under, Nat.not_le.2 under]
    · have one : raw / 2 ^ (t.bits - 1) = 1 := by
        rw [Nat.div_eq_iff (by positivity)]
        omega
      simp [one, above]

theorem wrapBits_intOf {t : Ty} {raw : Nat} (small : raw < 2 ^ t.bits) : wrapBits t.bits (intOf t raw) = raw := by
  unfold wrapBits intOf
  split
  · rw [BitVec.toInt_eq_toNat_bmod, Int.bmod_emod]
    have cast : ((BitVec.ofNat t.bits raw).toNat : Int) % ((2 ^ t.bits : Nat) : Int) = raw := by
      rw [BitVec.toNat_ofNat, Nat.mod_eq_of_lt small]
      exact_mod_cast Nat.mod_eq_of_lt small
    rw [cast]
    rfl
  · exact_mod_cast Nat.mod_eq_of_lt small

theorem wrapBits_lt (bits : Nat) (i : Int) : wrapBits bits i < 2 ^ bits := by
  have pos : (0 : Int) < ((2 ^ bits : Nat) : Int) := by positivity
  have := Int.emod_lt_of_pos i pos
  have := Int.emod_nonneg i pos.ne'
  unfold wrapBits
  omega

/-! ### The elements of a tile exchange -/

section
variable {ti : Ty} {w : Nat} {a b : List Page} {r c : Nat} (la : a.length = w) (hr : r < 64) (hc : c < elemsPerRow ti w)
include la hr hc

theorem exchangeTiles_elem (sum : Bool) : elemAt ti (exchangeTiles ti sum a b).1 r c
    = (elemResult (if sum then { onFloat := fun _ x y _ => exactSum [x, y], onInt := fun x y _ => x + y } else fnMax) ti ti .rne false
        (elemAt ti a r c) (elemAt ti b r c) (elemAt ti b r c)).1 % 2 ^ ti.bits := by
  subst la
  exact elemAt_mapThree hr hc hc a b b _

theorem exchangeTiles_float (float : ti.isFloat = true) (sum : Bool) : elemAt ti (exchangeTiles ti sum a b).1 r c
    = toF ti .rne false (if sum then exactSum [elemValue ti (elemAt ti a r c), elemValue ti (elemAt ti b r c)]
        else (elemValue ti (elemAt ti a r c)).max (elemValue ti (elemAt ti b r c))) := by
  rw [exchangeTiles_elem la hr hc]
  cases sum <;> simp only [elemResult, Exact.toElem, float, toF, fnMax, if_true, Bool.false_eq_true, if_false]

theorem exchangeTiles_int (int : ti.isFloat = false) (sum : Bool) : elemAt ti (exchangeTiles ti sum a b).1 r c
    = wrapBits ti.bits (if sum then intOf ti (elemAt ti a r c) + intOf ti (elemAt ti b r c)
        else max (intOf ti (elemAt ti a r c)) (intOf ti (elemAt ti b r c))) := by
  rw [exchangeTiles_elem la hr hc, ← Nat.mod_eq_of_lt (wrapBits_lt ti.bits (if sum then _ else _))]
  cases sum <;> simp only [elemResult, Exact.toElem, int, fnMax, if_true, Bool.false_eq_true, if_false, intToInt, Bool.not_false,
    elemValue_int int (elemAt_lt ti _ r c), Exact.toInt_int]

end

theorem resultPages_sidecar {t : Ty} {w : Nat} (f : Nat → Nat × Flags) {g : Page} (h : g ∈ (resultPages t w ((List.range 64).map f)).1) :
    g.ftype = t.code ∧ g.poison = false ∧ ∀ r, r < 64 → ∀ j, j < t.blocks → scaleAt [g] t.blocks r j = 0x0FE :=
  typedPage_sidecar (by simp) h

/-! ### TXMRG -/

/-- The first two F32 elements of a row are those of its first page. -/
theorem mergeRow_low (x y : Nat) : mergeRow (x % 2 ^ 512) (y % 2 ^ 512) = mergeRow x y := by
  have low (z : Nat) : z % 2 ^ 512 % 2 ^ 32 = z % 2 ^ 32 := Nat.mod_mod_of_dvd z (pow_dvd_pow 2 (by decide))
  have next (z : Nat) : z % 2 ^ 512 / 2 ^ 32 % 2 ^ 32 = z / 2 ^ 32 % 2 ^ 32 := Nat.field_mod (by decide)
  simp only [mergeRow, low, next]

theorem groupRow_cons_mod (p : Page) (a : List Page) (r : Nat) : groupRow (p :: a) r % 2 ^ 512 = groupRow [p] r % 2 ^ 512 := by
  simp only [groupRow, Nat.add_mul_mod_self_left]

theorem mergeRow_cons (p q : Page) (a b : List Page) (r : Nat) :
    mergeRow (groupRow (p :: a) r) (groupRow (q :: b) r) = mergeRow (groupRow [p] r) (groupRow [q] r) := by
  rw [← mergeRow_low, groupRow_cons_mod p a r, groupRow_cons_mod q b r, mergeRow_low]

theorem mergePair_lt (ma sa mb sb : Nat) : (mergePair ma sa mb sb).1.1 < 2 ^ 32 ∧ (mergePair ma sa mb sb).1.2 < 2 ^ 32 := by
  unfold mergePair
  dsimp only
  split
  · exact ⟨by decide, by decide⟩
  · exact ⟨roundFloat_lt (t := .f32) rfl _ _ _, roundFloat_lt (t := .f32) rfl _ _ _⟩

theorem mergeRow_lt (x y : Nat) : (mergeRow x y).1 < 2 ^ 64 := by
  have := mergePair_lt (x % 2 ^ 32) (x / 2 ^ 32 % 2 ^ 32) (y % 2 ^ 32) (y / 2 ^ 32 % 2 ^ 32)
  simp only [mergeRow]
  omega

theorem resultPages_f32_elem {w r c : Nat} (hr : r < 64) (hc : c < elemsPerRow .f32 w) (f : Nat → Nat × Flags) :
    elemAt .f32 (resultPages .f32 w ((List.range 64).map f)).1 r c = (f r).1 / 2 ^ (32 * c) % 2 ^ 32 := by
  rw [resultPages, elemAt_typedPages _ _ _ hr hc, List.map_map, List.getD_map_range _ _ hr]
  rfl

theorem mergeRow_beyond (x y : Nat) {c : Nat} (beyond : 2 ≤ c) : (mergeRow x y).1 / 2 ^ (32 * c) % 2 ^ 32 = 0 := by
  have small : (mergeRow x y).1 < 2 ^ (32 * c) := (mergeRow_lt x y).trans_le (Nat.pow_le_pow_right (by decide) (by omega))
  rw [Nat.div_eq_of_lt small, Nat.zero_mod]

theorem exchangeMerge_elem (p q : Page) (a b : List Page) {r c : Nat} (hr : r < 64) (hc : c < elemsPerRow .f32 (a.length + 1)) :
    elemAt .f32 (exchangeMerge (p :: a) (q :: b)).1 r c = if c < 2 then elemAt .f32 (vecMerge [p] [q]).1 r c else 0 := by
  have row : elemAt .f32 (exchangeMerge (p :: a) (q :: b)).1 r c = (mergeRow (groupRow [p] r) (groupRow [q] r)).1 / 2 ^ (32 * c) % 2 ^ 32 := by
    rw [← mergeRow_cons p q a b r]
    exact resultPages_f32_elem hr hc _
  rw [row]
  split
  · next first =>
    have inside : c < elemsPerRow .f32 1 := first.trans (by decide)
    rw [vecMerge, resultPages_f32_elem hr inside]
  · next later => exact mergeRow_beyond _ _ (Nat.le_of_not_lt later)

/-! ### The obligation -/

theorem max_eq_later {u v : Int} {x y : Nat} {t : Ty} (hu : intOf t x = u) (hv : intOf t y = v) (sx : x < 2 ^ t.bits) (sy : y < 2 ^ t.bits) :
    wrapBits t.bits (max u v) = if u < v then y else x := by
  subst hu hv
  split
  · next lt => rw [max_eq_right lt.le, wrapBits_intOf sy]
  · next ge => rw [max_eq_left (Int.not_lt.1 ge), wrapBits_intOf sx]

theorem tileExchangePart : Claims.TileExchangePart := by
  refine ⟨fun ti d e a b same => ⟨if_pos ⟨rfl, same⟩, if_pos ⟨rfl, same⟩, if_pos same⟩, ?elements, ?merge⟩
  case elements =>
    intro ti w a b r c la lb hr hc u v got
    refine ⟨fun float => ⟨exchangeTiles_float la hr hc float false, exchangeTiles_float la hr hc float true⟩, fun int => ⟨?_, ?_⟩, ?_⟩
    · exact (exchangeTiles_int la hr hc int false).trans (max_eq_later rfl rfl (elemAt_lt ti a r c) (elemAt_lt ti b r c))
    · exact (exchangeTiles_int la hr hc int true).trans (by rw [wrapBits, Nat.cast_pow]; rfl)
    · intro sum g mem
      obtain ⟨code, clean, scales⟩ := resultPages_sidecar _ mem
      exact ⟨code, clean, scales r hr⟩
  case merge =>
    intro p q a b r c _ hr hc
    refine ⟨exchangeMerge_elem p q a b hr hc, fun g mem => ?_⟩
    obtain ⟨code, clean, scales⟩ := resultPages_sidecar _ mem
    exact ⟨code, clean, scales r hr⟩

/-- Settles O28: at an open cell both ends of a pair complete with what passes, two operations that form no pair both trap there, and
the elements of a tile exchange follow from the elements of both sides. -/
theorem rendezvousResults : Obligations.RendezvousResults := ⟨rendezvousResultsPart, mismatchRulePart, tileExchangePart⟩

end Sys2Proof.Machine
end

section
/-! Exact arithmetic over the rational numbers (04_numbers.md R98, R101, R102). -/

namespace Sys2Proof.Machine
open Sys2Proof Sys2Proof.Claims

/-- The integer m of weight 2^e. -/
def dyadicRat (i e : Int) : Rat := (i : Rat) * (2 : Rat) ^ e

theorem ratOf_num (n : Bool) (m : Nat) (e : Int) (st : Bool) : ratOf (.num n m e st) = dyadicRat (signed n m) e := by
  cases n <;> simp [ratOf, dyadicRat, signed]

theorem dyadicRat_zero (e : Int) : dyadicRat 0 e = 0 := by simp [dyadicRat]

theorem dyadicRat_eq_zero {i e : Int} : dyadicRat i e = 0 ↔ i = 0 := by
  have weight : (2 : Rat) ^ e ≠ 0 := zpow_ne_zero _ two_ne_zero
  simp [dyadicRat, weight]

/-- A weight may be lowered with the integer raised. -/
theorem dyadicRat_lower (i : Int) {e f : Int} (h : f ≤ e) : dyadicRat (i * ((2 ^ (e - f).toNat : Nat) : Int)) f = dyadicRat i e := by
  have shift : (2 : Rat) ^ e = 2 ^ (e - f).toNat * 2 ^ f := by
    rw [← zpow_natCast, ← zpow_add₀ two_ne_zero]
    congr 1
    omega
  rw [dyadicRat, dyadicRat, shift]
  push_cast
  ring

theorem dyadicRat_dyAdd (i e j f : Int) : dyadicRat (dyAdd i e j f).1 (dyAdd i e j f).2 = dyadicRat i e + dyadicRat j f := by
  unfold dyAdd
  split
  · next le =>
    rw [← dyadicRat_lower j le]
    simp only [dyadicRat]
    push_cast
    ring
  · next gt =>
    rw [← dyadicRat_lower i (Int.not_le.1 gt).le]
    simp only [dyadicRat]
    push_cast
    ring

theorem dyadic_num (i e : Int) (z : Bool) : ∃ n m f, Exact.dyadic i e z = .num n m f false := by
  unfold Exact.dyadic
  split
  · exact ⟨_, _, _, rfl⟩
  · exact ⟨_, _, _, rfl⟩

theorem signed_natAbs (i : Int) : signed (decide (i < 0)) i.natAbs = i := by
  by_cases neg : i < 0
  · simp only [signed, neg, decide_true, if_true]
    omega
  · simp only [signed, neg, decide_false, Bool.false_eq_true, if_false]
    omega

theorem ratOf_dyadic (i e : Int) (z : Bool) : ratOf (Exact.dyadic i e z) = dyadicRat i e := by
  unfold Exact.dyadic
  split
  · next zero => simp [zero, Exact.zero, ratOf_num, signed, dyadicRat_zero]
  · rw [ratOf_num, signed_natAbs]

theorem neg_dyadic_zero (e : Int) (z : Bool) : (Exact.dyadic 0 e z).neg? = z := rfl

/-! ### Products -/

theorem Exact.mul_num (n k : Bool) (m l : Nat) (e f : Int) (st st' : Bool) : isNum ((Exact.num n m e st).mul (.num k l f st')) = true
    ∧ ratOf ((Exact.num n m e st).mul (.num k l f st')) = ratOf (.num n m e st) * ratOf (.num k l f st') := by
  have sign : (signed (n != k) (m * l) : Int) = signed n m * signed k l := by
    cases n <;> cases k <;> simp [signed]
  have product : dyadicRat (signed (n != k) (m * l)) (e + f) = ratOf (.num n m e st) * ratOf (.num k l f st') := by
    rw [ratOf_num, ratOf_num, sign]
    simp only [dyadicRat, zpow_add₀ (two_ne_zero : (2 : Rat) ≠ 0)]
    push_cast
    ring
  simp only [Exact.mul]
  split
  · next zero =>
    refine ⟨rfl, ?_⟩
    rw [← product, zero]
    simp [Exact.zero, ratOf_num, signed, dyadicRat_zero]
  · exact ⟨rfl, by rw [ratOf_num, product]⟩

/-! ### Sums -/

theorem num_of_isNum {x : Exact} (h : isNum x = true) : ∃ n m e st, x = .num n m e st := by
  cases x
  case num n m e st => exact ⟨n, m, e, st, rfl⟩
  all_goals cases h

/-- The running sum of finite terms. -/
theorem sumDyadic_rat : ∀ (l : List Exact) (i e : Int), (∀ x ∈ l, isNum x = true) →
    dyadicRat (sumDyadic l i e).1 (sumDyadic l i e).2 = dyadicRat i e + (l.map ratOf).sum
  | [], i, e, _ => by simp [sumDyadic]
  | x :: r, i, e, h => by
    obtain ⟨first, rest⟩ := List.forall_mem_cons.1 h
    obtain ⟨n, m, f, st, rfl⟩ := num_of_isNum first
    simp only [sumDyadic, List.map_cons, List.sum_cons]
    split
    · next zero =>
      rw [sumDyadic_rat r i e rest, ratOf_num, zero]
      cases n <;> simp [signed, dyadicRat_zero]
    · rw [sumDyadic_rat r _ _ rest, ratOf_num, ← add_assoc]
      congr 1
      split
      · next zero => rw [zero, dyadicRat_zero, zero_add]
      · exact dyadicRat_dyAdd _ _ _ _

theorem any_eq_false_of_num {f : Exact → Bool} (hf : ∀ n m e st, f (.num n m e st) = false) {l : List Exact} (h : ∀ x ∈ l, isNum x = true) :
    l.any f = false := by
  refine List.any_eq_false.2 fun x mem => ?_
  obtain ⟨n, m, e, st, rfl⟩ := num_of_isNum (h x mem)
  simp [hf]

theorem exactSum_num {l : List Exact} (h : ∀ x ∈ l, isNum x = true) :
    exactSum l = Exact.dyadic (sumDyadic l 0 0).1 (sumDyadic l 0 0).2 (l.all (fun x => x.isZero && x.neg?)) := by
  simp [exactSum, any_eq_false_of_num (f := Exact.isNan) (fun _ _ _ _ => rfl) h, any_eq_false_of_num (f := Exact.isPosInf) (fun _ _ _ _ => rfl) h,
    any_eq_false_of_num (f := Exact.isNegInf) (fun _ _ _ _ => rfl) h]

theorem ratOf_exactSum {l : List Exact} (h : ∀ x ∈ l, isNum x = true) : ratOf (exactSum l) = (l.map ratOf).sum := by
  rw [exactSum_num h, ratOf_dyadic, sumDyadic_rat l 0 0 h, dyadicRat_zero, zero_add]

theorem exactSum_neg {l : List Exact} (h : ∀ x ∈ l, isNum x = true) (zero : (l.map ratOf).sum = 0) :
    (exactSum l).neg? = l.all (fun x => x.isZero && x.neg?) := by
  have none_ : (sumDyadic l 0 0).1 = 0 := by
    rw [← dyadicRat_eq_zero (e := (sumDyadic l 0 0).2), sumDyadic_rat l 0 0 h, zero, dyadicRat_zero, add_zero]
  rw [exactSum_num h, none_, neg_dyadic_zero]

theorem exactSumPart : Claims.ExactSumPart := by
  refine ⟨?product, fun l h => ⟨?num, ratOf_exactSum h, exactSum_neg h⟩, ?nan, ?clash, ?pos, ?neg⟩
  case product =>
    intro x y hx hy
    obtain ⟨n, m, e, st, rfl⟩ := num_of_isNum hx
    obtain ⟨k, l, f, st', rfl⟩ := num_of_isNum hy
    exact Exact.mul_num n k m l e f st st'
  case num =>
    obtain ⟨n, m, f, same⟩ := dyadic_num (sumDyadic l 0 0).1 (sumDyadic l 0 0).2 (l.all (fun x => x.isZero && x.neg?))
    rw [exactSum_num h, same]
    rfl
  case nan =>
    intro l some_
    have any : l.any Exact.isNan = true := List.any_eq_true.2 some_
    simp [exactSum, any, Exact.isNan]
  case clash =>
    intro l pos neg
    have anyPos : l.any Exact.isPosInf = true := List.any_eq_true.2 pos
    have anyNeg : l.any Exact.isNegInf = true := List.any_eq_true.2 neg
    simp [exactSum, anyPos, anyNeg]
  case pos =>
    intro l none_ some_
    have any : l.any Exact.isPosInf = true := List.any_eq_true.2 some_
    have nan : l.any Exact.isNan = false := List.any_eq_false.2 fun e mem => by simp [(none_ e mem).1]
    have neg : l.any Exact.isNegInf = false := List.any_eq_false.2 fun e mem => by simp [(none_ e mem).2]
    simp [exactSum, any, nan, neg]
  case neg =>
    intro l none_ some_
    have any : l.any Exact.isNegInf = true := List.any_eq_true.2 some_
    have nan : l.any Exact.isNan = false := List.any_eq_false.2 fun e mem => by simp [(none_ e mem).1]
    have pos : l.any Exact.isPosInf = false := List.any_eq_false.2 fun e mem => by simp [(none_ e mem).2]
    simp [exactSum, any, nan, pos]

end Sys2Proof.Machine
end

section
/-! The matrix engine: one pass, and the passes of an output in K order (08_matrix.md R215 to R221). -/

namespace Sys2Proof.Machine
open Sys2Proof Sys2Proof.Claims

/-! ### A pass over integers -/

theorem isNum_int (i : Int) : isNum (Exact.int i) = true := rfl

/-- Exact values of weight 1 that stand for an integer. -/
def IsUnit (x : Exact) (i : Int) : Prop := ∃ n m, x = .num n m 0 false ∧ signed n m = i

theorem IsUnit.int (i : Int) : IsUnit (Exact.int i) i := ⟨_, _, rfl, signed_natAbs i⟩

theorem IsUnit.toInt {x : Exact} {i : Int} (h : IsUnit x i) : x.toInt = i := by
  obtain ⟨n, m, rfl, rfl⟩ := h
  simp [Exact.toInt, signed]

theorem IsUnit.mul {x y : Exact} {i j : Int} (hx : IsUnit x i) (hy : IsUnit y j) : IsUnit (x.mul y) (i * j) := by
  obtain ⟨n, m, rfl, rfl⟩ := hx
  obtain ⟨k, l, rfl, rfl⟩ := hy
  simp only [Exact.mul]
  split
  · next zero =>
    have none_ : signed n m * signed k l = 0 := by
      rcases Nat.mul_eq_zero.1 zero with rfl | rfl <;> simp [signed]
    exact ⟨_, _, rfl, by rw [none_]; simp [signed]⟩
  · exact ⟨_, _, rfl, by cases n <;> cases k <;> simp [signed]⟩

theorem IsUnit.isNum {x : Exact} {i : Int} (h : IsUnit x i) : isNum x = true := by
  obtain ⟨n, m, rfl, -⟩ := h
  rfl

/-- The products of two rows of integers. -/
theorem units_products : ∀ (a b : List Int), a.length = b.length →
    List.Forall₂ IsUnit (List.zipWith Exact.mul (a.map Exact.int) (b.map Exact.int)) (List.zipWith (· * ·) a b)
  | [], [], _ => .nil
  | x :: a, y :: b, h => .cons ((IsUnit.int x).mul (IsUnit.int y)) (units_products a b (Nat.succ.inj h))

theorem units_toInt {l : List Exact} {k : List Int} (h : List.Forall₂ IsUnit l k) : l.map Exact.toInt = k := by
  induction h with
  | nil => rfl
  | cons first _ ih => rw [List.map_cons, first.toInt, ih]

theorem units_num {l : List Exact} {k : List Int} (h : List.Forall₂ IsUnit l k) : ∀ x ∈ l, isNum x = true := by
  induction h with
  | nil => exact List.forall_mem_nil _
  | cons first _ ih => exact List.forall_mem_cons.2 ⟨first.isNum, ih⟩

theorem units_sumDyadic {l : List Exact} {k : List Int} (h : List.Forall₂ IsUnit l k) : ∀ i, sumDyadic l i 0 = (i + k.sum, 0) := by
  induction h with
  | nil => simp [sumDyadic]
  | cons first _ ih =>
    intro i
    obtain ⟨n, m, rfl, rfl⟩ := first
    simp only [sumDyadic, List.sum_cons]
    split
    · next zero => rw [ih, zero]; cases n <;> simp [signed]
    · split
      · next start => rw [ih, start]; simp
      · simp only [dyAdd, le_refl, if_true, sub_self, Int.toNat_zero, pow_zero, Nat.cast_one, mul_one]
        rw [ih, add_assoc]

theorem units_exactSum {l : List Exact} {k : List Int} (h : List.Forall₂ IsUnit l k) (some_ : k.sum ≠ 0) : exactSum l = Exact.int k.sum := by
  rw [exactSum_num (units_num h), units_sumDyadic h, zero_add, Exact.dyadic, if_neg some_, Exact.int]

theorem matrixPassPart : Claims.MatrixPassPart := by
  intro rnd sat a b c len products exact_ terms
  have units : List.Forall₂ IsUnit (Exact.int c :: terms) (c :: products) := by
    refine .cons (IsUnit.int c) ?_
    have flat : terms = List.zipWith Exact.mul (a.map Exact.int) (b.map Exact.int) := List.append_nil _
    rw [flat]
    exact units_products a b len
  have sum : (c :: products).sum = exact_ := by rw [List.sum_cons, List.sum_eq_foldl]
  refine ⟨?_, fun some_ => ?_⟩
  · have total : ((Exact.int c :: terms).map Exact.toInt).foldl (· + ·) 0 = exact_ := by
      rw [units_toInt units, ← List.sum_eq_foldl, sum]
    exact congrArg (intToInt .i32 sat) total
  · have total : exactSum (Exact.int c :: terms) = Exact.int exact_ := by
      rw [units_exactSum units (by rwa [sum]), sum]
    exact congrArg (roundFloat .f32 rnd sat) total

/-! ### The terms of a pass -/

theorem flatten_blocks {α : Type} (f : Nat → α) : ∀ b : Nat,
    ((List.range b).map fun j => (List.range 32).map fun k => f (32 * j + k)).flatten = (List.range (32 * b)).map f
  | 0 => rfl
  | b + 1 => by
    rw [List.range_succ (n := b), List.map_append, List.flatten_append, flatten_blocks f b, Nat.mul_succ, List.range_add, List.map_append, List.map_map]
    simp [Function.comp_def]

theorem zipWith_map_range {α β γ : Type} (g : α → β → γ) (f : Nat → α) (h : Nat → β) (n : Nat) :
    List.zipWith g ((List.range n).map f) ((List.range n).map h) = (List.range n).map (fun k => g (f k) (h k)) := by
  simp [List.zipWith_map, List.zipWith_self]

/-- A type whose elements stand in blocks of 32. -/
structure Blocked (t : Ty) : Prop where
  wide : t.bits ≠ 32
  row : elemsPerRow t 1 = 32 * t.blocks

theorem groupRow_singleton (p : Page) (r : Nat) : groupRow [p] r = pageRow p r := by rw [groupRow, groupRow, Nat.mul_zero, Nat.add_zero]

theorem pageVal_eq (t : Ty) (p : Page) (r k : Nat) : pageVal t p r k = elemValue t (pageRow p r / 2 ^ (t.bits * k) % 2 ^ t.bits) := by
  rw [pageVal, elemAt, groupRow_singleton]

theorem passBlocks_eq {t : Ty} (h : Blocked t) (p : Page) (r : Nat) :
    passBlocks t (pageRow p r) = (List.range t.blocks).map fun j => (List.range 32).map fun k => pageVal t p r (32 * j + k) := by
  generalize hrow : pageRow p r = row
  have block (j : Nat) : (blockElems t row j).map (elemValue t) = (List.range 32).map fun k => pageVal t p r (32 * j + k) := by
    simp only [blockElems, h.wide, if_false, splitRow_eq, List.map_map, pageVal_eq, hrow]
    refine List.map_congr_left fun k _ => ?_
    rw [Function.comp_apply, Nat.div_div_eq_div_mul, ← pow_add, Nat.mul_assoc, ← Nat.mul_add]
  simp only [passBlocks, block]

theorem mmaTypes_blocked {out ta tb : Ty} {scaled : Bool} (h : mmaTypes out ta tb scaled = true) :
    Blocked ta ∧ Blocked tb ∧ tb.blocks = ta.blocks ∧ (out = .f32 ∨ out = .i32) := by
  simp only [mmaTypes, Bool.or_eq_true, Bool.and_eq_true, beq_iff_eq] at h
  obtain ⟨rfl, h⟩ | ⟨⟨rfl, -⟩, h⟩ := h
  · obtain ((⟨ha, hb⟩ | ⟨rfl, rfl⟩) | ⟨rfl, rfl⟩) | ⟨rfl, rfl⟩ := h
    · obtain rfl | rfl := ha <;> obtain rfl | rfl := hb <;> exact ⟨⟨by decide, rfl⟩, ⟨by decide, rfl⟩, rfl, .inl rfl⟩
    all_goals exact ⟨⟨by decide, rfl⟩, ⟨by decide, rfl⟩, rfl, .inl rfl⟩
  · obtain ⟨ha, hb⟩ | ⟨ha, hb⟩ := h
    all_goals obtain rfl | rfl := ha <;> obtain rfl | rfl := hb <;> exact ⟨⟨by decide, rfl⟩, ⟨by decide, rfl⟩, rfl, .inr rfl⟩

/-- The terms of a pass over two pages. -/
theorem passTerms_eq {x : MmaOp} {scaled : Bool} (h : mmaTypes x.out x.ta x.tb scaled = true) (p q : Page) (m n : Nat) :
    passTerms scaled ((List.range x.ta.blocks).map (fun j => scale9 (scaleAt [p] x.ta.blocks m j)))
        ((List.range x.tb.blocks).map (fun j => scale9 (scaleAt [q] x.tb.blocks n j)))
        (passBlocks x.ta (pageRow p m)) (passBlocks x.tb (pageRow q n))
      = passOver x scaled p q m n := by
  obtain ⟨ba, bb, same, -⟩ := mmaTypes_blocked h
  have products : List.zipWith blockProducts (passBlocks x.ta (pageRow p m)) (passBlocks x.tb (pageRow q n))
      = (List.range x.ta.blocks).map fun j => (List.range 32).map fun k =>
          (pageVal x.ta p m (32 * j + k)).mul (pageVal x.tb q n (32 * j + k)) := by
    rw [passBlocks_eq ba, passBlocks_eq bb, same, zipWith_map_range]
    refine List.map_congr_left fun j _ => ?_
    rw [blockProducts, zipWith_map_range]
  simp only [passTerms, passOver, products]
  cases scaled
  · simp only [Bool.false_eq_true, if_false]
    rw [flatten_blocks (fun k => (pageVal x.ta p m k).mul (pageVal x.tb q n k)), ba.row]
  · simp only [if_true, same, List.map_map, zipWith_map_range]
    rfl

/-! ### The passes of an output -/

theorem passGives_eq (x : MmaOp) (acc : Option Nat) (terms : List Exact) :
    (passResult x.out (if x.rtz then .rtz else .rne) x.sat (acc.map (elemValue x.out)) terms).1 = passGives x acc terms := by
  cases acc with
  | none =>
    simp only [passResult, passGives, Option.map_none, List.sum_eq_foldl]
    split <;> rfl
  | some c =>
    simp only [passResult, passGives, Option.map_some, List.sum_eq_foldl]
    split <;> rfl

/-- The passes are one after the other what each gives. -/
theorem passes_eq (x : MmaOp) (scaled : Bool) (m n : Nat) : ∀ (l : List (Page × Page)) (y : Page × Page) (acc : Option Nat) (r : Nat × Flags),
    afterPasses x scaled m n acc (y :: l)
      = some (passes x.out (if x.rtz then .rtz else .rne) x.sat (acc.map (elemValue x.out))
          ((y :: l).map (fun z => passOver x scaled z.1 z.2 m n)) r).1
  | [], y, acc, r => congrArg some (passGives_eq x acc _).symm
  | z :: l, y, acc, r => by
    have next := passes_eq x scaled m n l z (some (passGives x acc (passOver x scaled y.1 y.2 m n)))
      ((passResult x.out (if x.rtz then .rtz else .rne) x.sat (acc.map (elemValue x.out)) (passOver x scaled y.1 y.2 m n)).1,
        r.2.or (passResult x.out (if x.rtz then .rtz else .rne) x.sat (acc.map (elemValue x.out)) (passOver x scaled y.1 y.2 m n)).2)
    refine next.trans ?_
    rw [← passGives_eq]
    rfl

theorem zip_map_range {β : Type} (f : Nat → β) (n : Nat) : (List.range n).zip ((List.range n).map f) = (List.range n).map fun r => (r, f r) := by
  simpa [List.zip] using zipWith_map_range Prod.mk id f n

section
variable {x : MmaOp} {scaled : Bool} (ok : MmaOp.ok x scaled = true) {a b : List Page} (some_ : a.zip b ≠ []) {m n : Nat}
include ok

/-- What an output is from the element that it adds to. -/
def matrixGives (x : MmaOp) (scaled : Bool) (a b : List Page) (m n : Nat) (acc : Option Nat) : Nat :=
  (mmaElem x scaled (acc.map (elemValue x.out)) (operandRow x.ta a m) (operandRow x.tb b n)).1

include some_ in
theorem mmaElem_passes (acc : Option Nat) : afterPasses x scaled m n acc (a.zip b) = some (matrixGives x scaled a b m n acc) := by
  have types : mmaTypes x.out x.ta x.tb scaled = true := by
    simp only [MmaOp.ok, Bool.and_eq_true] at ok
    exact ok.1.2
  have terms : List.zipWith (fun p q => passTerms scaled p.2 q.2 p.1 q.1) (operandRow x.ta a m) (operandRow x.tb b n)
      = (a.zip b).map (fun z => passOver x scaled z.1 z.2 m n) := by
    rw [operandRow, operandRow, List.zipWith_map, ← List.map_uncurry_zip_eq_zipWith]
    exact List.map_congr_left fun z _ => passTerms_eq types z.1 z.2 m n
  obtain ⟨y, l, cons⟩ := List.exists_cons_of_ne_nil some_
  rw [matrixGives, mmaElem, terms, cons]
  exact passes_eq x scaled m n l y acc (0, Flags.none)

theorem out_row : elemsPerRow x.out 4 = 64 ∧ x.out.bits = 32 := by
  have types : mmaTypes x.out x.ta x.tb scaled = true := by
    simp only [MmaOp.ok, Bool.and_eq_true] at ok
    exact ok.1.2
  obtain ⟨-, -, -, out | out⟩ := mmaTypes_blocked types <;> rw [out] <;> exact ⟨rfl, rfl⟩

omit ok in
theorem mmaPages_eq (row : elemsPerRow x.out 4 = 64) (acc : Option (List Page)) :
    mmaPages x scaled acc a b = resultPages x.out 4 ((List.range 64).map fun r => resultRow x.out ((List.range 64).map fun c =>
      mmaElem x scaled ((acc.map fun g => elemAt x.out g r c).map (elemValue x.out)) (operandRow x.ta a r) (operandRow x.tb b c))) := by
  cases acc with
  | none =>
    have fresh : (List.replicate 64 none : List (Option Exact)) = (List.range 64).map fun _ => none := by simp
    simp only [mmaPages, zip_map_range, List.map_map, Function.comp_def, fresh, zipWith_map_range, Option.map_none]
  | some g =>
    simp only [mmaPages, zip_map_range, List.map_map, Function.comp_def, rowElems_groupRow, row, zipWith_map_range, Option.map_some]

/-- Element (m, n) of the quad. -/
theorem elemAt_mmaPages (hm : m < 64) (hn : n < 64) (acc : Option (List Page)) :
    elemAt x.out (mmaPages x scaled acc a b).1 m n
      = matrixGives x scaled a b m n (acc.map fun g => elemAt x.out g m n) % 2 ^ 32 := by
  obtain ⟨row, bits⟩ := out_row ok
  have rows : mmaPages x scaled acc a b = resultPages x.out 4 ((List.range 64).map fun r => resultRow x.out ((List.range 64).map fun c =>
      mmaElem x scaled ((acc.map fun g => elemAt x.out g r c).map (elemValue x.out)) (operandRow x.ta a r) (operandRow x.tb b c))) :=
    mmaPages_eq row acc
  rw [rows, elemAt_resultRows hm (by rw [row]; exact hn), List.map_map, List.getD_map_range _ _ hn, bits]
  rfl

end

theorem matrixResultsPart : Claims.MatrixResultsPart := by
  intro s x quad a b
  refine ⟨fun ha hb => ⟨fun hq => ⟨State.matrix_adds ha hb hq false, State.matrix_adds ha hb hq true⟩, State.matrix_fresh ha hb false,
    State.matrix_fresh ha hb true⟩, fun ha => ?source, fun hq => ?quad, ?elements⟩
  case source =>
    have traps := State.matrix_poisoned_source (s := s) (x := x) fun both => ha both.1
    simp only [List.forall_mem_cons]
    exact ⟨traps false true, traps false false, traps true true, traps true false, List.forall_mem_nil _⟩
  case quad =>
    simp only [List.forall_mem_cons]
    exact ⟨State.matrix_poisoned_quad hq false, State.matrix_poisoned_quad hq true, List.forall_mem_nil _⟩
  case elements =>
    intro scaled m n hm hn ok
    have some_ : a.zip b ≠ [] := by
      have one (g : TGrp) : 1 ≤ (s.group g).length := by
        simp only [State.group, State.groupOf, List.length_map, TGrp.regs, List.length_range', TGrp.n]
        exact Nat.one_le_two_pow
      have first := one x.a
      have second := one x.b
      refine List.ne_nil_of_length_pos ?_
      rw [List.length_zip]
      exact lt_min first second
    refine ⟨fun acc _ => ?_, ?_⟩
    · rw [elemAt_mmaPages ok hm hn, mmaElem_passes ok some_]
      rfl
    · rw [elemAt_mmaPages ok hm hn, mmaElem_passes ok some_]
      rfl

/-- Settles O23: the forms write the quad, each element the passes over the pages in K order, every pass one rounding of an exact
sum, and exact arithmetic is that of the rational numbers. -/
theorem matrixResults : Obligations.MatrixResults := ⟨matrixResultsPart, matrixPassPart, exactSumPart⟩

end Sys2Proof.Machine
end

section
/-! The elements of the elementwise vector forms (09_vector.md R239, R240, R243, R244; 04_numbers.md R105, R107). -/

namespace Sys2Proof.Machine
open Sys2Proof Sys2Proof.Claims

/-! ### One element -/

theorem elemResult_float {ti : Ty} (float : ti.isFloat = true) (fn : ElemFn) (out : Ty) (rnd : Rnd) (sat : Bool) (a b c : Nat) :
    (elemResult fn ti out rnd sat a b c).1 % 2 ^ out.bits
      = toF out rnd sat (fn.onFloat rnd (elemValue ti a) (elemValue ti b) (elemValue ti c)) := by
  simp only [elemResult, float, if_true, Exact.toElem, toF]
  split <;> rfl

theorem elemResult_int {ti : Ty} (int : ti.isFloat = false) (fn : ElemFn) (out : Ty) (rnd : Rnd) (sat : Bool) {a b c : Nat}
    (ha : a < 2 ^ ti.bits) (hb : b < 2 ^ ti.bits) (hc : c < 2 ^ ti.bits) :
    (elemResult fn ti out rnd sat a b c).1 % 2 ^ out.bits = toI out rnd sat (fn.onInt (intOf ti a) (intOf ti b) (intOf ti c)) := by
  simp only [elemResult, int, Bool.false_eq_true, if_false, Exact.toElem, toI, elemValue_int int ha, elemValue_int int hb,
    elemValue_int int hc, Exact.toInt_int]
  split <;> rfl

theorem zero_elem (t : Ty) : 0 < 2 ^ t.bits := Nat.two_pow_pos _

/-! ### Two and three sources -/

section
variable {x : V3} (ok : V3.ok x = true) (a b : List Page) {r c : Nat} (hr : r < 64) (hc : c < elemsPerRow x.ti (TGrp.n x.a))
include ok hr hc

theorem vecTwo_elem (fn : ElemFn) : elemAt x.out (vecTwo fn x a b).1 r c
    = (elemResult fn x.ti x.out x.rnd x.sat (elemAt x.ti a r c) (elemAt x.ti b r c) (elemAt x.ti b r c)).1 % 2 ^ x.out.bits := by
  have same : sameElems x.d x.out x.a x.ti = true := by
    simp only [V3.ok, Bool.and_eq_true] at ok
    exact ok.1.1.2
  exact elemAt_mapThree hr hc (by rwa [elemsPerRow_of_same same]) a b b _

theorem vecTwo_float (float : x.ti.isFloat = true) (fn : ElemFn) : elemAt x.out (vecTwo fn x a b).1 r c
    = toF x.out x.rnd x.sat (fn.onFloat x.rnd (elemValue x.ti (elemAt x.ti a r c)) (elemValue x.ti (elemAt x.ti b r c))
        (elemValue x.ti (elemAt x.ti b r c))) := by
  rw [vecTwo_elem ok a b hr hc, elemResult_float float]

theorem vecTwo_int (int : x.ti.isFloat = false) (fn : ElemFn) : elemAt x.out (vecTwo fn x a b).1 r c
    = toI x.out x.rnd x.sat (fn.onInt (intOf x.ti (elemAt x.ti a r c)) (intOf x.ti (elemAt x.ti b r c))
        (intOf x.ti (elemAt x.ti b r c))) := by
  rw [vecTwo_elem ok a b hr hc, elemResult_int int _ _ _ _ (elemAt_lt _ _ _ _) (elemAt_lt _ _ _ _) (elemAt_lt _ _ _ _)]

end

theorem twoSourceElements : Claims.TwoSourceElements := by
  intro x a b r c ok _ _ hr hc
  exact ⟨fun float => ⟨vecTwo_float ok a b hr hc float fnAdd, vecTwo_float ok a b hr hc float fnSub, vecTwo_float ok a b hr hc float fnMul,
      vecTwo_float ok a b hr hc float fnMin, vecTwo_float ok a b hr hc float fnMax, vecTwo_float ok a b hr hc float fnDiv⟩,
    fun int => ⟨vecTwo_int ok a b hr hc int fnAdd, vecTwo_int ok a b hr hc int fnSub, vecTwo_int ok a b hr hc int fnMul,
      vecTwo_int ok a b hr hc int fnMin, vecTwo_int ok a b hr hc int fnMax⟩⟩

section
variable {x : V4} (ok : V4.ok x = true) (a b d : List Page) {r c : Nat} (hr : r < 64) (hc : c < elemsPerRow x.ti (TGrp.n x.a))
include ok hr hc

theorem vecThree_elem (fn : ElemFn) : elemAt x.out (vecThree fn x a b d).1 r c
    = (elemResult fn x.ti x.out x.rnd x.sat (elemAt x.ti a r c) (elemAt x.ti b r c) (elemAt x.ti d r c)).1 % 2 ^ x.out.bits := by
  have same : sameElems x.d x.out x.a x.ti = true := by
    simp only [V4.ok, Bool.and_eq_true] at ok
    exact ok.1.1.2
  exact elemAt_mapThree hr hc (by rwa [elemsPerRow_of_same same]) a b d _

theorem vecThree_float (float : x.ti.isFloat = true) (fn : ElemFn) : elemAt x.out (vecThree fn x a b d).1 r c
    = toF x.out x.rnd x.sat (fn.onFloat x.rnd (elemValue x.ti (elemAt x.ti a r c)) (elemValue x.ti (elemAt x.ti b r c))
        (elemValue x.ti (elemAt x.ti d r c))) := by
  rw [vecThree_elem ok a b d hr hc, elemResult_float float]

theorem vecThree_int (int : x.ti.isFloat = false) (fn : ElemFn) : elemAt x.out (vecThree fn x a b d).1 r c
    = toI x.out x.rnd x.sat (fn.onInt (intOf x.ti (elemAt x.ti a r c)) (intOf x.ti (elemAt x.ti b r c))
        (intOf x.ti (elemAt x.ti d r c))) := by
  rw [vecThree_elem ok a b d hr hc, elemResult_int int _ _ _ _ (elemAt_lt _ _ _ _) (elemAt_lt _ _ _ _) (elemAt_lt _ _ _ _)]

end

/-! ### A scalar beside the sources -/

theorem scalarElem_lt (t : Ty) (v : Word) : scalarElem t v < 2 ^ t.bits := Nat.mod_lt _ (Nat.two_pow_pos _)

theorem vecScalar_elem {x : VS} (ok : VS.ok x = true) (a : List Page) (s : Word) {r c : Nat} (hr : r < 64)
    (hc : c < elemsPerRow x.ti (TGrp.n x.a)) (fn : ElemFn) : elemAt x.out (vecScalar fn x a s).1 r c
      = (elemResult fn x.ti x.out x.rnd x.sat (elemAt x.ti a r c) (scalarElem x.ti s) (scalarElem x.ti s)).1 % 2 ^ x.out.bits := by
  have same : sameElems x.d x.out x.a x.ti = true := by
    simp only [VS.ok, Bool.and_eq_true] at ok
    exact ok.1.1.2
  exact elemAt_mapOne hr hc (by rwa [elemsPerRow_of_same same]) a _

theorem vecScalarAdd_elem {x : VS3} (ok : VS3.ok x = true) (a d : List Page) (s : Word) {r c : Nat} (hr : r < 64)
    (hc : c < elemsPerRow x.ti (TGrp.n x.a)) (fn : ElemFn) : elemAt x.out (vecScalarAdd fn x a s d).1 r c
      = (elemResult fn x.ti x.out x.rnd x.sat (elemAt x.ti a r c) (scalarElem x.ti s) (elemAt x.ti d r c)).1 % 2 ^ x.out.bits := by
  have same : sameElems x.d x.out x.a x.ti = true := by
    simp only [VS3.ok, Bool.and_eq_true] at ok
    exact ok.1.1.2
  exact elemAt_mapThree hr hc (by rwa [elemsPerRow_of_same same]) a a d _

theorem threeSourceElements : Claims.ThreeSourceElements := by
  refine ⟨?three, ?scalar, ?scalarAdd⟩
  case three =>
    intro x a b d r c ok _ _ _ hr hc
    exact ⟨fun float => ⟨vecThree_float ok a b d hr hc float fnFma, vecThree_float ok a b d hr hc float fnFms,
        vecThree_float ok a b d hr hc float fnClamp⟩,
      fun int => ⟨vecThree_int ok a b d hr hc int fnFma, vecThree_int ok a b d hr hc int fnFms, vecThree_int ok a b d hr hc int fnClamp⟩⟩
  case scalar =>
    intro x a s r c ok _ hr hc
    have float (h : x.ti.isFloat = true) (fn : ElemFn) := (vecScalar_elem ok a s hr hc fn).trans (elemResult_float h fn _ _ _ _ _ _)
    have int (h : x.ti.isFloat = false) (fn : ElemFn) := (vecScalar_elem ok a s hr hc fn).trans
      (elemResult_int h fn _ _ _ (elemAt_lt _ _ _ _) (scalarElem_lt _ _) (scalarElem_lt _ _))
    exact ⟨fun h => ⟨float h fnAdd, float h fnMul⟩, fun h => ⟨int h fnAdd, int h fnMul⟩⟩
  case scalarAdd =>
    intro x a d s r c ok _ _ hr hc
    exact ⟨fun h => (vecScalarAdd_elem ok a d s hr hc fnFma).trans (elemResult_float h fnFma _ _ _ _ _ _),
      fun h => (vecScalarAdd_elem ok a d s hr hc fnFma).trans
        (elemResult_int h fnFma _ _ _ (elemAt_lt _ _ _ _) (scalarElem_lt _ _) (elemAt_lt _ _ _ _))⟩

/-! ### One source -/

section
variable {x : V2} (ok : V2.ok x = true) (a : List Page) {r c : Nat} (hr : r < 64) (hc : c < elemsPerRow x.ti (TGrp.n x.a))
include ok hc

theorem V2.elems_of_ok : c < elemsPerRow x.out (TGrp.n x.d) := by
  have same : sameElems x.d x.out x.a x.ti = true := by
    simp only [V2.ok, Bool.and_eq_true] at ok
    exact ok.1.1.2
  rwa [elemsPerRow_of_same same]

include hr

theorem vecOne_elem (fn : ElemFn) : elemAt x.out (vecOne fn x a).1 r c
    = (elemResult fn x.ti x.out x.rnd x.sat (elemAt x.ti a r c) 0 0).1 % 2 ^ x.out.bits :=
  elemAt_mapOne hr hc (V2.elems_of_ok ok hc) a _

/-- VABS and VNEG of a float type that is kept change the sign bit. -/
theorem vecSign_kept (fn : ElemFn) (onSign : Nat → Nat) (kept : x.ti = x.out) (float : x.ti.isFloat = true) :
    elemAt x.out (vecSign fn onSign x a).1 r c
      = (elemAt x.ti a r c % 2 ^ (x.ti.bits - 1) + 2 ^ (x.ti.bits - 1) * onSign (elemAt x.ti a r c / 2 ^ (x.ti.bits - 1))) % 2 ^ x.out.bits := by
  rw [vecSign, if_pos ⟨kept, float⟩]
  exact elemAt_mapOne hr hc (V2.elems_of_ok ok hc) a _

theorem vecSign_other (fn : ElemFn) (onSign : Nat → Nat) (other : ¬(x.ti = x.out ∧ x.ti.isFloat = true)) :
    elemAt x.out (vecSign fn onSign x a).1 r c
      = (elemResult fn x.ti x.out x.rnd x.sat (elemAt x.ti a r c) 0 0).1 % 2 ^ x.out.bits := by
  rw [vecSign, if_neg other]
  exact vecOne_elem ok a hr hc fn

theorem vecSign_elem {fn : ElemFn} {onSign : Nat → Nat} {kept : Nat} {float : Exact} {int : Int}
    (sign : elemAt x.ti a r c % 2 ^ (x.ti.bits - 1) + 2 ^ (x.ti.bits - 1) * onSign (elemAt x.ti a r c / 2 ^ (x.ti.bits - 1)) = kept)
    (small : kept < 2 ^ x.ti.bits) (onFloat : fn.onFloat x.rnd (elemValue x.ti (elemAt x.ti a r c)) (elemValue x.ti 0) (elemValue x.ti 0) = float)
    (onInt : fn.onInt (intOf x.ti (elemAt x.ti a r c)) (intOf x.ti 0) (intOf x.ti 0) = int) :
    elemAt x.out (vecSign fn onSign x a).1 r c
      = if x.ti.isFloat then (if x.ti = x.out then kept else toF x.out x.rnd x.sat float) else toI x.out x.rnd x.sat int := by
  split
  · next isFloat =>
    split
    · next same => rw [vecSign_kept ok a hr hc fn onSign same isFloat, sign, ← same, Nat.mod_eq_of_lt small]
    · next differ => rw [vecSign_other ok a hr hc fn onSign (fun both => differ both.1), elemResult_float isFloat, onFloat]
  · next notFloat =>
    have isInt : x.ti.isFloat = false := by simpa using notFloat
    rw [vecSign_other ok a hr hc fn onSign (fun both => notFloat both.2),
      elemResult_int isInt _ _ _ _ (elemAt_lt _ _ _ _) (zero_elem _) (zero_elem _), onInt]

end

/-- An element of the source converted once (R244). -/
def convertedOnce (x : V2) (e : Nat) : Nat :=
  if x.ti.isFloat then toF x.out x.rnd (x.sat && x.ti != x.out) (elemValue x.ti e)
  else toI x.out x.rnd (x.sat && x.ti != x.out) (intOf x.ti e)

theorem convertElem_eq (x : V2) {e : Nat} (small : e < 2 ^ x.ti.bits) : (convertElem x e).1 % 2 ^ x.out.bits = convertedOnce x e := by
  unfold convertedOnce
  split
  · next float => exact elemResult_float float fnId _ _ _ _ _ _
  · next notFloat => exact elemResult_int (by simpa using notFloat) fnId _ _ _ small (zero_elem _) (zero_elem _)

theorem sign_cleared {b u : Nat} : u % 2 ^ (b - 1) + 2 ^ (b - 1) * 0 = u % 2 ^ (b - 1) := by rw [Nat.mul_zero, Nat.add_zero]

theorem sign_changed {b u : Nat} (pos : 0 < b) (small : u < 2 ^ b) :
    u % 2 ^ (b - 1) + 2 ^ (b - 1) * (1 - u / 2 ^ (b - 1)) = (if u < 2 ^ (b - 1) then u + 2 ^ (b - 1) else u - 2 ^ (b - 1))
      ∧ (if u < 2 ^ (b - 1) then u + 2 ^ (b - 1) else u - 2 ^ (b - 1)) < 2 ^ b := by
  have double : 2 ^ b = 2 * 2 ^ (b - 1) := by rw [← pow_succ', Nat.sub_add_cancel pos]
  split
  · next low => rw [Nat.mod_eq_of_lt low, Nat.div_eq_of_lt low]; omega
  · next high =>
    have one : u / 2 ^ (b - 1) = 1 := by rw [Nat.div_eq_iff (Nat.two_pow_pos _)]; omega
    have rest : u % 2 ^ (b - 1) = u - 2 ^ (b - 1) := by rw [Nat.mod_eq_sub_mod (by omega), Nat.mod_eq_of_lt (by omega)]
    rw [one, rest]
    omega

theorem unaryElements : Claims.UnaryElements := by
  intro x a r c _ hr u h cv
  have small := elemAt_lt x.ti a r c
  refine ⟨fun ok hc => ⟨?abs, ?neg, ?convert, ?rows⟩, fun ok hc => ?cols⟩
  case abs =>
    have low : u % h < 2 ^ x.ti.bits := (Nat.mod_le _ _).trans_lt small
    exact vecSign_elem ok a hr hc (fn := fnAbs) sign_cleared low rfl (Int.natCast_natAbs _)
  case neg =>
    obtain ⟨sign, low⟩ := sign_changed (Ty.bits_pos x.ti) small
    exact vecSign_elem ok a hr hc (fn := fnNeg) sign low rfl rfl
  case convert => exact (elemAt_mapOne hr hc (V2.elems_of_ok ok hc) a _).trans (convertElem_eq x small)
  case rows =>
    have spread : vecRowSpread x a = resultPages x.out (TGrp.n x.d) ((List.range 64).map fun _ =>
        resultRow x.out ((rowElems x.ti (TGrp.n x.a) (groupRow a 0)).map (convertElem x))) := by
      simp [vecRowSpread]
    rw [spread, elemAt_resultRows hr (V2.elems_of_ok ok hc), rowElems_groupRow, List.map_map, List.map_map, List.getD_map_range _ _ hc]
    exact convertElem_eq x (elemAt_lt _ _ _ _)
  case cols =>
    have spread : vecColSpread x a = resultPages x.out (TGrp.n x.d) ((List.range 64).map fun r =>
        (packRow x.out.bits ((List.range (elemsPerRow x.out (TGrp.n x.d))).map fun _ => (convertElem x (elemAt x.ti a r 0)).1),
          (convertElem x (elemAt x.ti a r 0)).2)) := by
      simp [vecColSpread]
    rw [spread, resultPages, List.map_map]
    refine (elemAt_packed (f := fun r => (List.range (elemsPerRow x.out (TGrp.n x.d))).map fun _ => (convertElem x (elemAt x.ti a r 0)).1)
      x.out (TGrp.n x.d) hr hc).trans ?_
    rw [List.getD_map_range _ _ hc]
    exact convertElem_eq x (elemAt_lt _ _ _ _)

theorem transcend_fst (f : Exact → Exact) (out : Ty) (rnd : Rnd) (sat : Bool) (x : Exact) : (transcend f out rnd sat x).1
    = if out = .f32 then (roundFloat .f32 .rne false (f x)).1
      else (roundFloat out rnd sat (elemValue .f32 (roundFloat .f32 .rne false (f x)).1)).1 := by
  by_cases wide : out = .f32 <;> simp [transcend, wide]

theorem transcendElements : Claims.TranscendElements := by
  intro x a r c ok _ hr hc v f _ wide
  have plain : V2.ok x = true := by
    simp only [V2.okFloat, Bool.and_eq_true] at ok
    exact ok.1.1
  have elem : elemAt x.out (vecTranscend f x a).1 r c = (transcend f x.out x.rnd x.sat v).1 % 2 ^ x.out.bits :=
    elemAt_mapOne hr hc (V2.elems_of_ok plain hc) a _
  rw [elem, transcend_fst]
  split
  · next f32 => rw [f32]; rfl
  · rfl

end Sys2Proof.Machine
end

section
/-! The elements of comparisons and selections (04_numbers.md R90; 09_vector.md R241, R242). -/

namespace Sys2Proof.Machine
open Sys2Proof Sys2Proof.Claims

theorem dyadicRat_neg_iff {i e : Int} : dyadicRat i e < 0 ↔ i < 0 := by
  have weight : (0 : Rat) < (2 : Rat) ^ e := zpow_pos two_pos e
  rw [dyadicRat, mul_neg_iff]
  simp [weight, weight.not_gt]

theorem dyadicRat_negate (i e : Int) : dyadicRat (-i) e = -dyadicRat i e := by
  simp [dyadicRat]

/-- Finite values are ordered as their numbers. -/
theorem Exact.lt_iff_ratOf {x y : Exact} (hx : isNum x = true) (hy : isNum y = true) : x.lt y = true ↔ ratOf x < ratOf y := by
  obtain ⟨n, m, e, st, rfl⟩ := num_of_isNum hx
  obtain ⟨k, l, f, st', rfl⟩ := num_of_isNum hy
  have difference := dyadicRat_dyAdd (signed n m) e (-(signed k l)) f
  rw [dyadicRat_negate, ← sub_eq_add_neg, ← ratOf_num n m e st, ← ratOf_num k l f st'] at difference
  rw [← sub_neg (a := ratOf _), ← difference, dyadicRat_neg_iff]
  exact decide_eq_true_iff

/-- Where a condition holds of two floats (R241). -/
def floatHolds (cond : Cond) (x y : Exact) : Bool :=
  let nan := x.isNan || y.isNan
  match cond with
  | .eq => !nan && !x.lt y && !y.lt x
  | .ne => nan || x.lt y || y.lt x
  | .lt => !nan && x.lt y
  | .le => !nan && !y.lt x
  | .gt => !nan && y.lt x
  | .ge => !nan && !x.lt y
  | .unord => nan

theorem compareVals_fst (cond : Cond) (x y : Exact) : (compareVals cond x y).1 = floatHolds cond x y := by
  cases cond <;> rfl

theorem selectElems_map (x y z : Nat → Nat) (l : List Nat) :
    selectElems (l.map x) (l.map y) (l.map z) = l.map fun c => if z c = 0 then y c else x c := by
  induction l with
  | nil => rfl
  | cons c l ih => simp only [List.map_cons, selectElems, ih]

theorem byte_of_bool (b : Bool) : (if b = true then 0xFF else 0) % 2 ^ Ty.i8.bits = if b = true then 0xFF else 0 := by
  cases b <;> rfl

theorem vecCompare_elem {d a : TGrp} {ti : Ty} (same : sameElems d .i8 a ti = true) (cond : Cond) (p q : List Page) {r c : Nat} (hr : r < 64)
    (hc : c < elemsPerRow ti (TGrp.n a)) : elemAt .i8 (vecCompare ti cond (TGrp.n d) (TGrp.n a) p q).1 r c
      = if (if ti.isFloat then floatHolds cond (elemValue ti (elemAt ti p r c)) (elemValue ti (elemAt ti q r c))
          else compareInts cond (intOf ti (elemAt ti p r c)) (intOf ti (elemAt ti q r c))) = true then 0xFF else 0 := by
  refine (elemAt_mapThree (out := .i8) (wd := TGrp.n d) hr hc (by rwa [elemsPerRow_of_same same]) p q q _).trans ?_
  rw [byte_of_bool]
  cases float : ti.isFloat
  · simp only [Bool.false_eq_true, if_false, elemValue_int float (elemAt_lt ti _ r c), Exact.toInt_int]
  · simp only [if_true, compareVals_fst]

theorem compareElements : Claims.CompareElements := by
  refine ⟨fun x y => Exact.lt_iff_ratOf, ?compare, ?select⟩
  case compare =>
    intro d a b ti cond p q r c wf _ _ hr hc u v x y nan got holds
    have same : sameElems d .i8 a ti = true := by
      change (TGrp.ok d && TGrp.ok a && TGrp.ok b && b.w == a.w && sameElems d .i8 a ti && Ty.any ti) = true at wf
      simp only [Bool.and_eq_true] at wf
      exact wf.1.2
    refine (vecCompare_elem same cond p q hr hc).trans ?_
    cases cond <;> rfl
  case select =>
    intro d a b m ti p q k r c wf _ _ _ hr hc
    change (okSame3 d a b && TGrp.ok m && sameElems m .i8 a ti) = true at wf
    simp only [okSame3, okSame2, Bool.and_eq_true, beq_iff_eq] at wf
    have width : TGrp.n d = TGrp.n a := congrArg (2 ^ ·.val) wf.1.1.1.1.2
    have same : elemsPerRow .i8 (TGrp.n m) = elemsPerRow ti (TGrp.n a) := elemsPerRow_of_same wf.2
    rw [vecSelect, width]
    refine (elemAt_packed (f := fun r => selectElems (rowElems ti (TGrp.n a) (groupRow p r)) (rowElems ti (TGrp.n a) (groupRow q r))
      (rowElems .i8 (TGrp.n m) (groupRow k r))) ti (TGrp.n a) hr hc).trans ?_
    rw [rowElems_groupRow, rowElems_groupRow, rowElems_groupRow, same, selectElems_map, List.getD_map_range _ _ hc]
    split
    · exact Nat.mod_eq_of_lt (elemAt_lt _ _ _ _)
    · exact Nat.mod_eq_of_lt (elemAt_lt _ _ _ _)

end Sys2Proof.Machine
end

section
/-! Quotients, square roots, and the special and exact results of the transcendentals (04_numbers.md R105, R106). -/

namespace Sys2Proof.Machine
open Sys2Proof Sys2Proof.Claims

/-! ### Quotients -/

theorem quotient_ge {m l : Nat} (hm : m ≠ 0) (hl : l ≠ 0) : 2 ^ 64 ≤ m * 2 ^ (66 + Nat.log2 l) / l := by
  have below : l < 2 ^ (Nat.log2 l + 1) := Nat.lt_log2_self
  rw [Nat.le_div_iff_mul_le (Nat.pos_of_ne_zero hl)]
  calc 2 ^ 64 * l ≤ 2 ^ 64 * 2 ^ (Nat.log2 l + 1) := Nat.mul_le_mul_left _ below.le
    _ = 1 * 2 ^ (65 + Nat.log2 l) := by rw [← pow_add, one_mul]; congr 1; omega
    _ ≤ m * 2 ^ (66 + Nat.log2 l) := Nat.mul_le_mul (Nat.one_le_iff_ne_zero.2 hm) (Nat.pow_le_pow_right (by decide) (by omega))

/-- A whole quotient stands to its rational as a floor does. -/
theorem div_floor_rat {a l : Nat} (hl : l ≠ 0) : ((a / l : Nat) : Rat) ≤ (a : Rat) / l ∧ (a : Rat) / l < ((a / l : Nat) : Rat) + 1
    ∧ (a % l = 0 ↔ ((a / l : Nat) : Rat) = (a : Rat) / l) := by
  have pos : (0 : Rat) < l := by exact_mod_cast Nat.pos_of_ne_zero hl
  refine ⟨Nat.cast_div_le, ?_, ?_⟩
  · rw [div_lt_iff₀ pos]
    exact_mod_cast Nat.lt_mul_of_div_lt (Nat.lt_succ_self _) (Nat.pos_of_ne_zero hl)
  · rw [eq_div_iff pos.ne', ← Nat.dvd_iff_mod_eq_zero]
    exact ⟨fun h => by exact_mod_cast Nat.div_mul_cancel h, fun h => ⟨a / l, by rw [Nat.mul_comm]; exact_mod_cast h.symm⟩⟩

theorem quotient_weight (m l : Nat) (e f : Int) (k : Nat) (hl : l ≠ 0) :
    (m : Rat) * 2 ^ e / ((l : Rat) * 2 ^ f) = ((m * 2 ^ k : Nat) : Rat) / l * 2 ^ (e - f + -(k : Int)) := by
  have pos : (l : Rat) ≠ 0 := by exact_mod_cast hl
  rw [zpow_add₀ two_ne_zero, zpow_sub₀ two_ne_zero, zpow_neg, zpow_natCast]
  push_cast
  field_simp

theorem Exact.div_num (n k : Bool) {m l : Nat} (e f : Int) (hm : m ≠ 0) (hl : l ≠ 0) :
    ∃ q g st, Exact.div (.num n m e false) (.num k l f false) = .num (n != k) q g st
      ∧ (q : Rat) * 2 ^ g ≤ (m : Rat) * 2 ^ e / ((l : Rat) * 2 ^ f)
      ∧ (m : Rat) * 2 ^ e / ((l : Rat) * 2 ^ f) < ((q : Rat) + 1) * 2 ^ g ∧ 2 ^ 64 ≤ q
      ∧ (st = false ↔ (q : Rat) * 2 ^ g = (m : Rat) * 2 ^ e / ((l : Rat) * 2 ^ f)) := by
  obtain ⟨low, high, exact_⟩ := div_floor_rat (a := m * 2 ^ (66 + Nat.log2 l)) hl
  have pos : (0 : Rat) < 2 ^ (e - f + -((66 + Nat.log2 l : Nat) : Int)) := zpow_pos two_pos _
  refine ⟨m * 2 ^ (66 + Nat.log2 l) / l, e - f + -((66 + Nat.log2 l : Nat) : Int), m * 2 ^ (66 + Nat.log2 l) % l != 0, ?_, ?_, ?_,
    quotient_ge hm hl, ?_⟩
  · simp only [Exact.div, hm, hl, if_false, quotient]
  · rw [quotient_weight m l e f (66 + Nat.log2 l) hl]
    exact mul_le_mul_of_nonneg_right low pos.le
  · rw [quotient_weight m l e f (66 + Nat.log2 l) hl]
    exact mul_lt_mul_of_pos_right high pos
  · rw [quotient_weight m l e f (66 + Nat.log2 l) hl, mul_left_inj' pos.ne', ← exact_]
    simp

/-! ### Square roots -/

theorem isqrtFrom_spec (n : Nat) : ∀ (i r : Nat), r * r ≤ n → n < (r + 2 ^ i) * (r + 2 ^ i) →
    isqrtFrom n i r * isqrtFrom n i r ≤ n ∧ n < (isqrtFrom n i r + 1) * (isqrtFrom n i r + 1)
  | 0, _, low, high => ⟨low, high⟩
  | i + 1, r, low, high => by
    unfold isqrtFrom
    split
    · next fits =>
      refine isqrtFrom_spec n i _ fits ?_
      have twice : r + 2 ^ i + 2 ^ i = r + 2 ^ (i + 1) := by rw [pow_succ]; omega
      rwa [twice]
    · next exceeds => exact isqrtFrom_spec n i r low (Nat.lt_of_not_le exceeds)

theorem isqrt_spec (n : Nat) : isqrt n * isqrt n ≤ n ∧ n < (isqrt n + 1) * (isqrt n + 1) := by
  refine isqrtFrom_spec n _ 0 (Nat.zero_le _) ?_
  rw [Nat.zero_add, ← pow_add]
  exact (Nat.lt_log2_self (n := n)).trans_le (Nat.pow_le_pow_right (by decide) (by omega))

theorem sqrt_weight (m : Nat) (e : Int) (k : Nat) (even : (e - k) % 2 = 0) :
    (m : Rat) * 2 ^ e = ((m * 2 ^ k : Nat) : Rat) * (2 ^ ((e - k) / 2)) ^ 2 := by
  have halves : (e - k) / 2 + (e - k) / 2 = e - k := by omega
  rw [sq, ← zpow_add₀ two_ne_zero, halves, zpow_sub₀ two_ne_zero, zpow_natCast]
  push_cast
  field_simp

theorem Exact.sqrt_num {m : Nat} (e : Int) (hm : m ≠ 0) :
    ∃ q g st, Exact.sqrt (.num false m e false) = .num false q g st
      ∧ ((q : Rat) * 2 ^ g) ^ 2 ≤ (m : Rat) * 2 ^ e ∧ (m : Rat) * 2 ^ e < (((q : Rat) + 1) * 2 ^ g) ^ 2 ∧ 2 ^ 64 ≤ q
      ∧ (st = false ↔ ((q : Rat) * 2 ^ g) ^ 2 = (m : Rat) * 2 ^ e) := by
  obtain ⟨k, hk⟩ : ∃ k : Nat, k = 140 + (e % 2).toNat := ⟨_, rfl⟩
  obtain ⟨low, high⟩ := isqrt_spec (m * 2 ^ k)
  have even : (e - k) % 2 = 0 := by omega
  have pos : (0 : Rat) < (2 ^ ((e - k) / 2)) ^ 2 := by positivity
  have form : Exact.sqrt (.num false m e false)
      = .num false (isqrt (m * 2 ^ k)) ((e - k) / 2) (isqrt (m * 2 ^ k) * isqrt (m * 2 ^ k) != m * 2 ^ k) := by
    simp only [Exact.sqrt, hm, if_false, Bool.false_eq_true, hk]
  generalize isqrt (m * 2 ^ k) = q at low high form
  refine ⟨q, (e - k) / 2, _, form, ?_, ?_, ?_, ?_⟩
  · rw [sqrt_weight m e k even, mul_pow]
    refine mul_le_mul_of_nonneg_right ?_ pos.le
    rw [sq]
    exact_mod_cast low
  · rw [sqrt_weight m e k even, mul_pow]
    refine mul_lt_mul_of_pos_right ?_ pos
    rw [sq]
    exact_mod_cast high
  · by_contra small
    have bound : (q + 1) * (q + 1) ≤ 2 ^ 64 * 2 ^ 64 := Nat.mul_le_mul (by omega) (by omega)
    have big : 2 ^ 64 * 2 ^ 64 ≤ m * 2 ^ k := by
      calc 2 ^ 64 * 2 ^ 64 = 1 * 2 ^ 128 := rfl
        _ ≤ m * 2 ^ k := Nat.mul_le_mul (Nat.one_le_iff_ne_zero.2 hm) (Nat.pow_le_pow_right (by decide) (by omega))
    omega
  · rw [sqrt_weight m e k even, mul_pow, mul_left_inj' pos.ne', sq]
    simp only [bne_eq_false_iff_eq]
    exact ⟨fun h => by exact_mod_cast h, fun h => by exact_mod_cast h⟩

/-! ### Powers and logarithms of two -/

theorem log2_lt_of_lt {m b : Nat} (h : m < 2 ^ (b + 1)) : Nat.log2 m < b + 1 := by
  rcases Nat.eq_zero_or_pos m with rfl | pos
  · exact Nat.succ_pos _
  · exact (Nat.log2_lt pos.ne').2 h

theorem Exact.exp2_int {k : Int} (low : -4096 < k) (high : k < 4096) : ratOf (Exact.exp2 (Exact.int k)) = (2 : Rat) ^ k := by
  have lead : ¬ 11 < leadBit k.natAbs 0 := by
    have : Nat.log2 k.natAbs < 11 + 1 := log2_lt_of_lt (by omega)
    simp only [leadBit]
    omega
  by_cases zero : k = 0
  · subst zero
    norm_num [Exact.int, Exact.exp2, ratOf]
  · have some_ : k.natAbs ≠ 0 := by omega
    have sign : (if decide (k < 0) = true then -((k.natAbs : Nat) : Int) else k.natAbs) = k := signed_natAbs k
    simp only [Exact.int, Exact.exp2, some_, if_false, lead, whole?, le_refl, if_true, Int.toNat_zero, pow_zero, Nat.mul_one, sign]
    norm_num [ratOf]

theorem Exact.log2_pow (b : Nat) (e : Int) : Exact.log2 (.num false (2 ^ b) e false) = Exact.int (b + e) := by
  have some_ : 2 ^ b ≠ 0 := (Nat.two_pow_pos b).ne'
  simp only [Exact.log2, some_, if_false, Bool.false_eq_true, Nat.log2_two_pow, if_true]

theorem transcendValues : Claims.TranscendValues := by
  refine ⟨?nan, fun d => ⟨rfl, rfl, rfl, rfl, rfl, rfl, rfl, rfl⟩, fun d => ⟨rfl, rfl, rfl, rfl, rfl, rfl, ?one, rfl⟩,
    fun n e => ⟨?pow, ?log, ?recip, ?rsqrt, ?sqrt, ?tanh, ?half, ?erf⟩, ?negative, fun k low high => Exact.exp2_int low high,
    Exact.log2_pow, fun n k m l e f hm hl => Exact.div_num n k e f hm hl, fun x => rfl, fun m e hm => Exact.sqrt_num e hm⟩
  case nan =>
    simp only [List.forall_mem_cons]
    exact ⟨fun _ => ⟨rfl, rfl⟩, fun _ => ⟨rfl, rfl⟩, fun _ => ⟨rfl, rfl⟩, fun _ => ⟨rfl, rfl⟩, fun _ => ⟨rfl, rfl⟩, fun _ => ⟨rfl, rfl⟩,
      fun _ => ⟨rfl, rfl⟩, fun _ => ⟨rfl, rfl⟩, List.forall_mem_nil _⟩
  case one => norm_num [Exact.sigmoid, ratOf]
  case pow => norm_num [Exact.exp2, ratOf]
  case log => simp [Exact.log2]
  case recip => simp [Exact.recip, Exact.div]
  case rsqrt => simp [Exact.rsqrt]
  case sqrt => simp [Exact.sqrt]
  case tanh => simp [Exact.tanh]
  case half => norm_num [Exact.sigmoid, ratOf]
  case erf => simp [Exact.erf]
  case negative => exact fun m e hm => ⟨by simp [Exact.log2, hm], by simp [Exact.rsqrt, hm], by simp [Exact.sqrt, hm]⟩

end Sys2Proof.Machine
end

section
/-! The scale of a quantiser's unit (04_numbers.md R108 to R111). -/

namespace Sys2Proof.Machine
open Sys2Proof Sys2Proof.Claims

/-! ### The larger of two finite values -/

theorem ratOf_of_isZero {x : Exact} (h : x.isZero = true) : ratOf x = 0 := by
  cases x with
  | num n m e st =>
    simp only [Exact.isZero, Bool.and_eq_true, beq_iff_eq] at h
    rw [h.1, ratOf_num]
    cases n <;> simp [signed, dyadicRat_zero]
  | nan | inf => rfl

theorem isNan_of_isNum {x : Exact} (h : isNum x = true) : x.isNan = false := by
  obtain ⟨n, m, e, st, rfl⟩ := num_of_isNum h
  rfl

/-- The larger of two finite values is one of them. -/
theorem Exact.max_num {x y : Exact} (hx : isNum x = true) (hy : isNum y = true) :
    isNum (x.max y) = true ∧ ratOf (x.max y) = Max.max (ratOf x) (ratOf y) := by
  simp only [Exact.max, isNan_of_isNum hx, isNan_of_isNum hy, Bool.or_self, Bool.false_eq_true, if_false]
  split
  · next below =>
    refine ⟨hy, (max_eq_right ?_).symm⟩
    simp only [Exact.below, Bool.or_eq_true, Bool.and_eq_true] at below
    obtain lt | ⟨⟨⟨⟨-, zerox⟩, zeroy⟩, -⟩, -⟩ := below
    · exact ((Exact.lt_iff_ratOf hx hy).1 lt).le
    · rw [ratOf_of_isZero zerox, ratOf_of_isZero zeroy]
  · next above =>
    refine ⟨hx, (max_eq_left ?_).symm⟩
    simp only [Exact.below, Bool.or_eq_true, not_or] at above
    exact le_of_not_gt fun lt => above.1 ((Exact.lt_iff_ratOf hx hy).2 lt)

theorem Exact.abs_num {x : Exact} (h : isNum x = true) : isNum x.abs = true ∧ ratOf x.abs = |ratOf x| := by
  obtain ⟨n, m, e, st, rfl⟩ := num_of_isNum h
  refine ⟨rfl, ?_⟩
  have pos : (0 : Rat) ≤ (m : Rat) * 2 ^ e := by positivity
  cases n <;> simp [Exact.abs, ratOf, abs_mul, abs_zpow]

theorem Exact.max_nan {x y : Exact} (h : x.isNan = true ∨ y.isNan = true) : (x.max y).isNan = true := by
  have either : (x.isNan || y.isNan) = true := Bool.or_eq_true_iff.2 h
  rw [Exact.max, if_pos either]
  rfl

theorem Exact.abs_nan {x : Exact} (h : x.isNan = true) : x.abs.isNan = true := by
  cases x
  case nan => rfl
  all_goals cases h

/-! ### The amax of a unit -/

/-- The running maximum of magnitudes. -/
def amaxFrom (t : Ty) (m : Exact) (l : List Nat) : Exact := l.foldl (fun m e => m.max (elemValue t e).abs) m

theorem amaxFrom_spec (t : Ty) : ∀ (l : List Nat) (m : Exact), isNum m = true → (∀ e ∈ l, isNum (elemValue t e) = true) →
    isNum (amaxFrom t m l) = true ∧ ratOf m ≤ ratOf (amaxFrom t m l) ∧ (∀ e ∈ l, |ratOf (elemValue t e)| ≤ ratOf (amaxFrom t m l))
      ∧ (ratOf (amaxFrom t m l) = ratOf m ∨ ∃ e ∈ l, |ratOf (elemValue t e)| = ratOf (amaxFrom t m l))
  | [], m, hm, _ => ⟨hm, le_rfl, List.forall_mem_nil _, .inl rfl⟩
  | e :: l, m, hm, h => by
    obtain ⟨he, hl⟩ := List.forall_mem_cons.1 h
    obtain ⟨absNum, absRat⟩ := Exact.abs_num he
    obtain ⟨maxNum, maxRat⟩ := Exact.max_num hm absNum
    obtain ⟨num, above, all, found⟩ := amaxFrom_spec t l _ maxNum hl
    rw [maxRat, absRat] at above found
    refine ⟨num, (le_max_left _ _).trans above, List.forall_mem_cons.2 ⟨(le_max_right _ _).trans above, all⟩, ?_⟩
    obtain same | ⟨d, mem, eq⟩ := found
    · rcases max_choice (ratOf m) |ratOf (elemValue t e)| with left | right
      · exact .inl (same.trans left)
      · exact .inr ⟨e, List.mem_cons_self, (same.trans right).symm⟩
    · exact .inr ⟨d, List.mem_cons_of_mem _ mem, eq⟩

theorem amaxFrom_nan (t : Ty) : ∀ (l : List Nat) (m : Exact), (m.isNan = true ∨ ∃ e ∈ l, (elemValue t e).isNan = true) →
    (amaxFrom t m l).isNan = true
  | [], m, h => by
    obtain nan | ⟨e, mem, -⟩ := h
    · exact nan
    · cases mem
  | e :: l, m, h => by
    refine amaxFrom_nan t l _ ?_
    obtain nan | ⟨d, mem, nan⟩ := h
    · exact .inl (Exact.max_nan (.inl nan))
    · rcases List.mem_cons.1 mem with rfl | later
      · exact .inl (Exact.max_nan (.inr (Exact.abs_nan nan)))
      · exact .inr ⟨d, later, nan⟩

theorem amaxOf_spec {t : Ty} {l : List Nat} (h : ∀ e ∈ l, isNum (elemValue t e) = true) :
    isNum (amaxOf t l) = true ∧ (∀ e ∈ l, |ratOf (elemValue t e)| ≤ ratOf (amaxOf t l))
      ∧ (l ≠ [] → ∃ e ∈ l, |ratOf (elemValue t e)| = ratOf (amaxOf t l)) := by
  obtain ⟨num, -, all, found⟩ := amaxFrom_spec t l (Exact.zero false) rfl h
  have none_ : ratOf (Exact.zero false) = 0 := ratOf_of_isZero rfl
  refine ⟨num, all, fun some_ => found.elim (fun zero => ?_) id⟩
  obtain ⟨e, rest, rfl⟩ := List.exists_cons_of_ne_nil some_
  rw [none_] at zero
  have bound := all e List.mem_cons_self
  exact ⟨e, List.mem_cons_self, le_antisymm bound ((zero.trans_le (abs_nonneg _)))⟩

/-! ### The search for the scale -/

/-- The number of a scale code. -/
def scaleRat (k : Nat) : Rat := if k % 2 = 0 then 2 ^ ((k / 2 : Nat) - 127 : Int) else 3 * 2 ^ ((k / 2 : Nat) - 128 : Int)

theorem scale9_num {k : Nat} (h : k < 511) : isNum (scale9 (BitVec.ofNat 9 k)) = true ∧ ratOf (scale9 (BitVec.ofNat 9 k)) = scaleRat k := by
  have value : (BitVec.ofNat 9 k).toNat = k := by
    rw [BitVec.toNat_ofNat]
    omega
  have some_ : BitVec.ofNat 9 k ≠ 0x1FF := fun same => by
    have := congrArg BitVec.toNat same
    rw [value] at this
    simp at this
    omega
  simp only [scale9, some_, if_false, value, scaleRat]
  split <;> simp [isNum, ratOf]

theorem scaleRat_lt {k : Nat} : scaleRat k < scaleRat (k + 1) := by
  rcases Nat.even_or_odd' k with ⟨j, rfl | rfl⟩
  · have weight : (2 : Rat) ^ ((j : Int) - 127) = 2 * 2 ^ ((j : Int) - 128) := by
      rw [← zpow_one_add₀ two_ne_zero]
      congr 1
      omega
    have pos : (0 : Rat) < 2 ^ ((j : Int) - 128) := zpow_pos two_pos _
    have odd : (2 * j + 1) % 2 ≠ 0 := by omega
    have half : (2 * j + 1) / 2 = j := by omega
    simp only [scaleRat, Nat.mul_mod_right, if_true, odd, if_false, half, Nat.mul_div_cancel_left j two_pos]
    linarith
  · have weight : (2 : Rat) ^ (((j + 1 : Nat) : Int) - 127) = 4 * 2 ^ ((j : Int) - 128) := by
      have shift : ((j + 1 : Nat) : Int) - 127 = 2 + ((j : Int) - 128) := by omega
      rw [shift, zpow_add₀ two_ne_zero]
      norm_num
    have pos : (0 : Rat) < 2 ^ ((j : Int) - 128) := zpow_pos two_pos _
    have odd : (2 * j + 1) % 2 ≠ 0 := by omega
    have even : (2 * j + 1 + 1) % 2 = 0 := by omega
    have half : (2 * j + 1) / 2 = j := by omega
    have next : (2 * j + 1 + 1) / 2 = j + 1 := by omega
    simp only [scaleRat, odd, even, if_true, if_false, half, next]
    linarith

theorem scaleRat_mono : StrictMono scaleRat := strictMono_nat_of_lt_succ fun _ => scaleRat_lt

theorem scaleTooSmall_iff (t : Ty) {amax : Exact} (ha : isNum amax = true) {k : Nat} (h : k < 511) :
    scaleTooSmall t amax k = true ↔ scaleRat k * quantMax t < ratOf amax := by
  obtain ⟨num, value⟩ := scale9_num h
  obtain ⟨n, m, e, st, form⟩ := num_of_isNum num
  have product := Exact.mul_num n false m (quantMax t) e 0 st false
  rw [← form, value] at product
  have max : ratOf (.num false (quantMax t) 0 false) = quantMax t := by simp [ratOf]
  rw [scaleTooSmall, Exact.lt_iff_ratOf product.1 ha, product.2, max]

theorem scaleSearch_spec (t : Ty) (amax : Exact) (down : ∀ j k, j ≤ k → k < 511 → scaleTooSmall t amax k = true → scaleTooSmall t amax j = true) :
    ∀ (i r : Nat), r + 2 ^ i ≤ 512 → (∀ k, k < r → scaleTooSmall t amax k = true) →
      (∀ k, r + 2 ^ i ≤ k + 1 → k < 511 → scaleTooSmall t amax k = false) →
      scaleSearch t amax i r < 512 ∧ (∀ k, k < scaleSearch t amax i r → scaleTooSmall t amax k = true)
        ∧ ∀ k, scaleSearch t amax i r ≤ k → k < 511 → scaleTooSmall t amax k = false
  | 0, r, room, low, high => ⟨by rw [scaleSearch]; omega, low, fun k le => high k (Nat.succ_le_succ le)⟩
  | i + 1, r, room, low, high => by
    have pos : 0 < 2 ^ i := Nat.two_pow_pos i
    have twice : r + 2 ^ i + 2 ^ i = r + 2 ^ (i + 1) := by rw [pow_succ]; omega
    unfold scaleSearch
    split
    · next small =>
      refine scaleSearch_spec t amax down i _ (by omega) (fun k lt => ?_) (fun k le => high k (by omega))
      exact down k (r + 2 ^ i - 1) (by omega) (by omega) small
    · next fits =>
      refine scaleSearch_spec t amax down i r (by omega) low fun k le lt => ?_
      by_contra small
      exact fits (down (r + 2 ^ i - 1) k (by omega) lt (by simpa using small))

theorem quantMax_pos (t : Ty) : (1 : Rat) ≤ quantMax t := by
  have : 1 ≤ quantMax t := by cases t <;> decide
  exact_mod_cast this

/-- The scale of a finite amax: the smallest that reaches it. -/
theorem quantScale_finite (t : Ty) {m : Nat} {e : Int} (some_ : m ≠ 0) (bound : (m : Rat) * 2 ^ e < 2 ^ (128 : Nat)) :
    ∃ r, r < 511 ∧ quantScale t (.num false m e false) = BitVec.ofNat 9 r ∧ (m : Rat) * 2 ^ e ≤ scaleRat r * quantMax t
      ∧ ∀ k, k < r → scaleRat k * quantMax t < (m : Rat) * 2 ^ e := by
  have value : ratOf (.num false m e false) = (m : Rat) * 2 ^ e := by simp [ratOf]
  have small {k : Nat} (h : k < 511) : scaleTooSmall t (.num false m e false) k = true ↔ scaleRat k * quantMax t < (m : Rat) * 2 ^ e := by
    rw [scaleTooSmall_iff t rfl h, value]
  have max := quantMax_pos t
  have down (j k : Nat) (le : j ≤ k) (lt : k < 511) (h : scaleTooSmall t (.num false m e false) k = true) :
      scaleTooSmall t (.num false m e false) j = true := by
    refine (small (by omega)).2 (lt_of_le_of_lt ?_ ((small lt).1 h))
    exact mul_le_mul_of_nonneg_right (scaleRat_mono.monotone le) (by linarith)
  obtain ⟨inside, below, above⟩ := scaleSearch_spec t (.num false m e false) down 9 0 (by decide) (fun k lt => absurd lt (Nat.not_lt_zero k))
    (fun k le lt => absurd le (by omega))
  have form : quantScale t (.num false m e false) = BitVec.ofNat 9 (scaleSearch t (.num false m e false) 9 0) := by
    simp [quantScale, Exact.isNan, Exact.isInf, Exact.isZero, some_]
  generalize scaleSearch t (.num false m e false) 9 0 = r at inside below above form
  have last : r < 511 := by
    by_contra full
    have top := (small (k := 510) (by decide)).1 (below 510 (by omega))
    have reach : scaleRat 510 = 2 ^ (128 : Nat) := by norm_num [scaleRat]
    rw [reach] at top
    have : (2 : Rat) ^ (128 : Nat) ≤ 2 ^ (128 : Nat) * quantMax t := le_mul_of_one_le_right (by positivity) max
    linarith
  refine ⟨r, last, form, ?_, fun k lt => (small (by omega)).1 (below k lt)⟩
  have reached := above r le_rfl last
  exact le_of_not_gt fun lt => by simp [(small last).2 lt] at reached

theorem quantScales : Claims.QuantScales := by
  refine ⟨fun t n e => rfl, fun t i n d => ⟨rfl, rfl⟩, ?finite, fun t l h => amaxOf_spec h, fun t l h => amaxFrom_nan t l _ (.inr h)⟩
  intro t m e _ some_ bound max s
  obtain ⟨r, last, form, reach, least⟩ := quantScale_finite t some_ bound
  have same : (max : Rat) = quantMax t := by cases t <;> rfl
  have code : s = BitVec.ofNat 9 r := form
  have value : s.toNat = r := by
    rw [code, BitVec.toNat_ofNat]
    omega
  refine ⟨fun nan => ?_, ?_, fun k lt => ?_⟩
  · rw [nan] at value
    simp at value
    omega
  · rw [code, (scale9_num last).2, same]
    exact reach
  · have less : k.toNat < r := by rwa [← value]
    have back : k = BitVec.ofNat 9 k.toNat := by simp
    rw [back, (scale9_num (less.trans last)).2, same]
    exact least k.toNat less

end Sys2Proof.Machine
end

section
/-! The elements and the scales of VQNT and VDQN (04_numbers.md R109 to R112; 09_vector.md R245, R246). -/

namespace Sys2Proof.Machine
open Sys2Proof Sys2Proof.Claims

/-! ### Lists in blocks -/

/-- An element of lists of n each, one after the other. -/
theorem getD_flatten_blocks {α : Type} {n : Nat} (pos : 0 < n) (d : α) : ∀ (l : List (List α)) (c : Nat), (∀ x ∈ l, x.length = n) →
    l.flatten.getD c d = (l.getD (c / n) []).getD (c % n) d
  | [], c, _ => by simp
  | x :: l, c, h => by
    obtain ⟨first, rest⟩ := List.forall_mem_cons.1 h
    rw [List.flatten_cons, List.getD_eq_getElem?_getD]
    rcases Nat.lt_or_ge c n with inside | beyond
    · rw [List.getElem?_append_left (by omega), Nat.div_eq_of_lt inside, Nat.mod_eq_of_lt inside, List.getD_cons_zero,
        List.getD_eq_getElem?_getD]
    · have later : c / n = (c - n) / n + 1 := by rw [Nat.div_eq_sub_div pos beyond]
      rw [List.getElem?_append_right (by omega), first, ← List.getD_eq_getElem?_getD, getD_flatten_blocks pos d l (c - n) rest, later,
        List.getD_cons_succ, ← Nat.mod_eq_sub_mod beyond]

theorem chunksNat_eq (n : Nat) : ∀ (k : Nat) (l : List Nat),
    quantUnits.chunksNat n k l = (List.range k).map fun j => (l.drop (n * j)).take n
  | 0, _ => rfl
  | k + 1, l => by
    rw [quantUnits.chunksNat, chunksNat_eq n k, List.range_succ_eq_map, List.map_cons, List.map_map, Nat.mul_zero, List.drop_zero]
    refine congrArg _ (List.map_congr_left fun j _ => ?_)
    rw [Function.comp_apply, List.drop_drop, Nat.mul_succ, Nat.add_comm]

/-! ### The units of a row -/

/-- The elements that a unit writes (R110). -/
def unitElems (x : V2) (u : Exact × List Nat) : List Nat :=
  u.2.map fun e => (quantElem x.ti x.out x.rnd u.1 (quantScale x.out u.1) e).1

/-- A unit of the row in which element c stands: its amax, and the place of the element and of the scale among those of the row. -/
structure UnitAt (x : V2) (mode : QMode) (a k : List Page) (r c : Nat) (amax : Exact) : Prop where
  elem : ((quantUnits x mode a k r).flatMap (unitElems x)).getD c 0
    = (quantElem x.ti x.out x.rnd amax (quantScale x.out amax) (elemAt x.ti a r c)).1
  slot : ∀ p j, p * x.out.blocks + j = c / 32 → j < x.out.blocks →
    quantSlots x.out mode ((quantUnits x mode a k r).map (fun u => quantScale x.out u.1)) p j = quantScale x.out amax

section
variable {x : V2} {a k : List Page} {r c : Nat} (hc : c < elemsPerRow x.ti (TGrp.n x.a))
include hc

theorem unitElems_row (amax : Exact) : (unitElems x (amax, rowElems x.ti (TGrp.n x.a) (groupRow a r))).getD c 0
    = (quantElem x.ti x.out x.rnd amax (quantScale x.out amax) (elemAt x.ti a r c)).1 := by
  rw [unitElems, rowElems_groupRow, List.map_map, List.getD_map_range _ _ hc]
  rfl

/-- A row that is one unit. -/
theorem unitAt_row {mode : QMode} {amax : Exact} (one : quantUnits x mode a k r = [(amax, rowElems x.ti (TGrp.n x.a) (groupRow a r))])
    (head : ∀ scales p j, quantSlots x.out mode scales p j = scales.headD scaleOne) : UnitAt x mode a k r c amax := by
  refine ⟨?_, fun p j _ _ => ?_⟩
  · rw [one, List.flatMap_singleton]
    exact unitElems_row hc amax
  · rw [head, one]
    rfl

/-- A row that is units of 32. -/
theorem unitAt_block {mode : QMode} {amax : Nat → Exact} {b : Nat} (whole : elemsPerRow x.ti (TGrp.n x.a) = 32 * b)
    (units : quantUnits x mode a k r = (List.range b).map fun j =>
      (amax j, ((rowElems x.ti (TGrp.n x.a) (groupRow a r)).drop (32 * j)).take 32))
    (slot : ∀ scales p j, j < x.out.blocks → quantSlots x.out mode scales p j = scales.getD (p * x.out.blocks + j) scaleOne) :
    UnitAt x mode a k r c (amax (c / 32)) := by
  have inside : c / 32 < b := by omega
  refine ⟨?_, fun p j place low => ?_⟩
  · have lengths : ∀ l ∈ (quantUnits x mode a k r).map (unitElems x), l.length = 32 := by
      rw [units, List.map_map]
      refine List.forall_mem_map.2 fun j mem => ?_
      have := List.mem_range.1 mem
      simp only [Function.comp_apply, unitElems, List.length_map, rowElems_groupRow, List.length_take, List.length_drop, List.length_range]
      omega
    have place : 32 * (c / 32) + c % 32 = c := Nat.div_add_mod c 32
    have low : c % 32 < 32 := Nat.mod_lt _ (by decide)
    rw [List.flatMap_def, getD_flatten_blocks (by decide) 0 _ c lengths, units, List.map_map, List.getD_map_range _ _ inside,
      Function.comp_apply, unitElems, List.getD_eq_getElem?_getD, List.getElem?_map, List.getElem?_take, if_pos low, List.getElem?_drop, place,
      rowElems_groupRow, List.getElem?_map, List.getElem?_range hc]
    rfl
  · rw [slot _ _ _ low, place, units, List.map_map, List.getD_map_range _ _ inside]
    rfl

end

/-! ### The result -/

/-- The rows that VQNT packs. -/
def quantRows (x : V2) (mode : QMode) (a k : List Page) : List (List (BitVec 9) × Nat × Flags) :=
  (List.range 64).map fun r =>
    let us := (quantUnits x mode a k r).map (fun u => quantUnit x.ti x.out x.rnd u.1 u.2)
    (us.map Prod.fst, packRow x.out.bits (us.flatMap (fun u => u.2.1)), Flags.all (us.map (fun u => u.2.2)))

/-- Page p of the result. -/
def quantPage (x : V2) (mode : QMode) (a k : List Page) (p : Nat) : Page :=
  mkPage (pageRows ((quantRows x mode a k).map (fun y => y.2.1)) p)
    ((quantRows x mode a k).zipWith (fun y row => quantTag x.out mode y.1 row p) (pageRows ((quantRows x mode a k).map (fun y => y.2.1)) p))
    x.out.code x.out.code false

theorem vecQuantise_fst (x : V2) (mode : QMode) (a k : List Page) :
    (vecQuantise x mode a k).1 = (List.range (TGrp.n x.d)).map (quantPage x mode a k) := rfl

section
variable {x : V2} {mode : QMode} {a k : List Page} {r c : Nat} (hr : r < 64)
include hr

theorem quantRows_getElem : (quantRows x mode a k)[r]? = some ((quantUnits x mode a k r).map (fun u => quantScale x.out u.1),
    packRow x.out.bits ((quantUnits x mode a k r).flatMap (unitElems x)),
    Flags.all (((quantUnits x mode a k r).map (fun u => quantUnit x.ti x.out x.rnd u.1 u.2)).map (fun u => u.2.2))) := by
  have elems (u : Exact × List Nat) : (quantUnit x.ti x.out x.rnd u.1 u.2).2.1 = unitElems x u := by
    simp only [quantUnit, unitElems, List.map_map]
    rfl
  have flat : ((quantUnits x mode a k r).map (fun u => quantUnit x.ti x.out x.rnd u.1 u.2)).flatMap (fun u => u.2.1)
      = (quantUnits x mode a k r).flatMap (unitElems x) := by
    rw [List.flatMap_map]
    simp only [elems]
  rw [quantRows, List.getElem?_map, List.getElem?_range hr, Option.map_some]
  simp only [flat, List.map_map]
  rfl

theorem quantRows_packed : ((quantRows x mode a k).map (fun y => y.2.1)).getD r 0
    = packRow x.out.bits ((quantUnits x mode a k r).flatMap (unitElems x)) := by
  rw [List.getD_eq_getElem?_getD, List.getElem?_map, quantRows_getElem hr]
  rfl

/-- The elements of the result are those of the units in order. -/
theorem vecQuantise_elem (hc : c < elemsPerRow x.out (TGrp.n x.d)) : elemAt x.out (vecQuantise x mode a k).1 r c
    = ((quantUnits x mode a k r).flatMap (unitElems x)).getD c 0 % 2 ^ x.out.bits := by
  have pieces := groupRow_pieces (page := quantPage x mode a k) (r := r)
    (x := packRow x.out.bits ((quantUnits x mode a k r).flatMap (unitElems x)))
    (fun p => by rw [quantPage, pageRow_mkPage _ _ _ _ _ hr, pageRows_getD, quantRows_packed hr, Nat.mod_mod]) (TGrp.n x.d) 0
  rw [Nat.mul_zero, Nat.pow_zero, Nat.div_one, ← List.range_eq_range'] at pieces
  rw [elemAt, vecQuantise_fst, pieces, Nat.field_mod (elem_inside hc), packRow_field]

/-- The scale slots of the result. -/
theorem vecQuantise_scale {b : Nat} (hb : b / x.out.blocks < TGrp.n x.d) (four : x.out.blocks ≤ 4) (pos : 0 < x.out.blocks) :
    scaleAt (vecQuantise x mode a k).1 x.out.blocks r b
      = quantSlots x.out mode ((quantUnits x mode a k r).map (fun u => quantScale x.out u.1)) (b / x.out.blocks) (b % x.out.blocks) := by
  have page : (vecQuantise x mode a k).1[b / x.out.blocks]? = some (quantPage x mode a k (b / x.out.blocks)) := by
    rw [vecQuantise_fst, List.getElem?_map, List.getElem?_range hb]
    rfl
  have packed : (pageRows ((quantRows x mode a k).map (fun y => y.2.1)) (b / x.out.blocks))[r]?
      = some (packRow x.out.bits ((quantUnits x mode a k r).flatMap (unitElems x)) / 2 ^ (512 * (b / x.out.blocks)) % 2 ^ 512) := by
    rw [pageRows, List.getElem?_map, List.getElem?_map, quantRows_getElem hr]
    rfl
  have tag : pageTag (quantPage x mode a k (b / x.out.blocks)) r
      = quantTag x.out mode ((quantUnits x mode a k r).map (fun u => quantScale x.out u.1))
          (packRow x.out.bits ((quantUnits x mode a k r).flatMap (unitElems x)) / 2 ^ (512 * (b / x.out.blocks)) % 2 ^ 512) (b / x.out.blocks) := by
    rw [quantPage, pageTag_mkPage _ _ _ _ _ hr, List.getD_eq_getElem?_getD, List.getElem?_zipWith, quantRows_getElem hr, packed]
    rfl
  have low : b % x.out.blocks < 4 := (Nat.mod_lt _ pos).trans_le four
  simp only [scaleAt, page, tag]
  generalize b % x.out.blocks = j at low ⊢
  interval_cases j <;> rfl

end

/-- The integer that a quotient gives is clamped (R112). -/
theorem quantInt_fst (rnd : Rnd) (q : Exact) : (quantInt rnd q).1 % 2 ^ 8 = (match q with
    | .nan _ => 0
    | .inf neg _ => if neg then 0x80 else 0x7F
    | .num neg m e st => ((max (-128) (min 127 (roundInt rnd neg m e st).1)) % 256).toNat) := by
  cases q with
  | nan => rfl
  | inf neg => cases neg <;> rfl
  | num neg m e st =>
    simp only [quantInt]
    generalize (roundInt rnd neg m e st).1 = i
    split
    · next low => rw [min_eq_right (by omega), max_eq_left low.le]; rfl
    · split
      · next high => rw [min_eq_left high.le, max_eq_right (by decide)]; rfl
      · next inside =>
        rw [min_eq_right (by omega), max_eq_right (by omega)]
        exact Nat.mod_eq_of_lt (wrapBits_lt 8 i)

theorem quantElem_eq (x : V2) (amax : Exact) (code : BitVec 9) (e : Nat) :
    (quantElem x.ti x.out x.rnd amax code e).1 % 2 ^ x.out.bits
      = (if code = 0x1FF ∨ amax.isZero = true then 0
         else if x.out = .i8 then
           (match (elemValue x.ti e).div (scale9 code) with
             | .nan _ => 0
             | .inf neg _ => if neg then 0x80 else 0x7F
             | .num neg m e st => ((max (-128) (min 127 (roundInt x.rnd neg m e st).1)) % 256).toNat)
         else (roundFloat x.out x.rnd true ((elemValue x.ti e).div (scale9 code))).1 % 2 ^ x.out.bits) := by
  unfold quantElem
  by_cases nan : code = 0x1FF
  · simp [nan]
  · by_cases zero : amax.isZero = true
    · simp [zero]
    · simp only [nan, zero, or_self, if_false, Bool.false_eq_true]
      split
      · next int =>
        rw [int]
        exact quantInt_fst _ _
      · rfl

/-- The targets of a quantiser have whole blocks in a row. -/
theorem quant_blocks {x : V2} (h : Ty.isQuant x.out = true) : elemsPerRow x.out (TGrp.n x.d) = 32 * (x.out.blocks * TGrp.n x.d)
    ∧ x.out.blocks ≤ 4 ∧ 0 < x.out.blocks := by
  simp only [Ty.isQuant, Bool.or_eq_true, beq_iff_eq] at h
  obtain ((h | h) | h) | h := h
  all_goals
    rw [h]
    refine ⟨?_, by decide, by decide⟩
    simp only [elemsPerRow, Ty.bits, Ty.blocks]
    omega

/-- The unit of an element, by the mode (R109). -/
def unitAmax (x : V2) (mode : QMode) (a k : List Page) (r c : Nat) : Exact :=
  let row := (List.range (elemsPerRow x.ti (TGrp.n x.a))).map (fun j => elemAt x.ti a r j)
  match mode with
  | .block => amaxOf x.ti ((row.drop (c / 32 * 32)).take 32)
  | .row => amaxOf x.ti row
  | .givenRow _ => (elemValue .f32 (elemAt .f32 k r 0)).abs
  | .givenBlock _ => (elemValue .f32 (elemAt .f32 k r (c / 32))).abs

theorem quantUnit_at {x : V2} (ok : V2.ok x = true) (whole : elemsPerRow x.out (TGrp.n x.d) = 32 * (x.out.blocks * TGrp.n x.d)) {a k : List Page}
    {r c : Nat} (hc : c < elemsPerRow x.ti (TGrp.n x.a)) (mode : QMode) : UnitAt x mode a k r c (unitAmax x mode a k r c) := by
  have same : sameElems x.d x.out x.a x.ti = true := by
    simp only [V2.ok, Bool.and_eq_true] at ok
    exact ok.1.1.2
  have length : elemsPerRow x.ti (TGrp.n x.a) = 32 * (x.out.blocks * TGrp.n x.d) := (elemsPerRow_of_same same).symm.trans whole
  have row := rowElems_groupRow x.ti (TGrp.n x.a) a r
  have blocks : quantUnits.chunksNat 32 ((rowElems x.ti (TGrp.n x.a) (groupRow a r)).length / 32) (rowElems x.ti (TGrp.n x.a) (groupRow a r))
      = (List.range (x.out.blocks * TGrp.n x.d)).map fun j => ((rowElems x.ti (TGrp.n x.a) (groupRow a r)).drop (32 * j)).take 32 := by
    rw [chunksNat_eq]
    congr 2
    rw [row, List.length_map, List.length_range, length]
    exact Nat.mul_div_cancel_left _ (by decide)
  cases mode with
  | row => exact unitAt_row hc (by rw [unitAmax, ← row]; rfl) fun _ _ _ => rfl
  | givenRow g => exact unitAt_row hc rfl fun _ _ _ => rfl
  | block =>
    have unit := unitAt_block (a := a) (k := k) (r := r) (mode := .block)
      (amax := fun j => amaxOf x.ti (((rowElems x.ti (TGrp.n x.a) (groupRow a r)).drop (32 * j)).take 32)) hc length
      (by simp only [quantUnits, blocks, List.map_map]; rfl) fun _ _ _ low => if_pos low
    rw [row, Nat.mul_comm 32] at unit
    exact unit
  | givenBlock g =>
    refine unitAt_block (mode := .givenBlock g) (amax := fun j => (elemValue .f32 (elemAt .f32 k r j)).abs) hc length ?_ fun _ _ _ low => if_pos low
    simp only [quantUnits, blocks, List.length_map, List.length_range, zip_map_range, List.map_map]
    rfl

theorem quantElements : Claims.QuantElements := by
  refine ⟨?quantise, ?dequantise⟩
  case quantise =>
    intro x mode a k r c wf _ hr hc row amax code q pages
    change (V2.ok x && Ty.isWideFloat x.ti && Ty.isQuant x.out) = true at wf
    simp only [Bool.and_eq_true] at wf
    obtain ⟨⟨ok, -⟩, quant⟩ := wf
    obtain ⟨whole, four, pos⟩ := quant_blocks quant
    have hd := V2.elems_of_ok ok hc
    have unit : UnitAt x mode a k r c amax := quantUnit_at ok whole hc mode
    have inside : c / 32 < x.out.blocks * TGrp.n x.d := by omega
    refine ⟨?_, ?_⟩
    · rw [vecQuantise_elem hr hd, unit.elem]
      exact quantElem_eq x amax code _
    · rw [vecQuantise_scale hr (Nat.div_lt_of_lt_mul inside) four pos]
      exact unit.slot _ _ (Nat.div_add_mod' _ _) (Nat.mod_lt _ pos)
  case dequantise =>
    intro x a r c wf _ hr hc
    change (V2.ok x && Ty.isQuant x.ti && Ty.isWideFloat x.out) = true at wf
    simp only [Bool.and_eq_true] at wf
    obtain ⟨⟨ok, -⟩, -⟩ := wf
    rw [vecDequantise, elemAt_resultRows hr (V2.elems_of_ok ok hc), rowElems_groupRow, List.length_map, List.length_range, zip_map_range,
      List.map_map, List.map_map, List.getD_map_range _ _ hc]
    rfl

end Sys2Proof.Machine
end

section
/-! The elements of reductions and of the softmax merge (09_vector.md R247 to R249). -/

namespace Sys2Proof.Machine
open Sys2Proof Sys2Proof.Claims

/-! ### Rows of results -/

theorem resultPages_elem {out : Ty} {w r c : Nat} (hr : r < 64) (hc : c < elemsPerRow out w) (f : Nat → Nat × Flags) :
    elemAt out (resultPages out w ((List.range 64).map f)).1 r c = (f r).1 / 2 ^ (out.bits * c) % 2 ^ out.bits := by
  rw [resultPages, elemAt_typedPages _ _ _ hr hc, List.map_map, List.getD_map_range _ _ hr]
  rfl

/-- Beyond a value that fits one element the row is zero. -/
theorem field_beyond {bits v c : Nat} (small : v < 2 ^ bits) (beyond : 0 < c) : v / 2 ^ (bits * c) % 2 ^ bits = 0 := by
  have less : v < 2 ^ (bits * c) := small.trans_le (Nat.pow_le_pow_right (by decide) (Nat.le_mul_of_pos_right bits beyond))
  rw [Nat.div_eq_of_lt less, Nat.zero_mod]

theorem elemsPerRow_pos (t : Ty) {w : Nat} (pos : 0 < w) : 0 < elemsPerRow t w := by
  have mul := elemsPerRow_mul t w
  rcases Nat.eq_zero_or_pos (elemsPerRow t w) with zero | some_
  · rw [zero] at mul
    omega
  · exact some_

theorem intToInt_lt (t : Ty) (sat : Bool) (i : Int) : (intToInt t sat i).1 < 2 ^ t.bits := by
  unfold intToInt
  split
  · exact wrapBits_lt _ _
  · split
    · exact wrapBits_lt _ _
    · split <;> exact wrapBits_lt _ _

theorem Exact.toElem_lt (ti out : Ty) (rnd : Rnd) (sat : Bool) (x : Exact) : (x.toElem ti out rnd sat).1 < 2 ^ out.bits := by
  unfold Exact.toElem
  split
  · next float => exact roundFloat_lt float _ _ _
  · split
    · exact wrapBits_lt _ _
    · exact intToInt_lt _ _ _

/-! ### One reduction -/

theorem reduceElems_lt (red : Reduction) (x : V2) (l : List Nat) : (reduceElems red x l).1 < 2 ^ x.out.bits := by
  unfold reduceElems
  dsimp only
  split <;> exact Exact.toElem_lt _ _ _ _ _

theorem reduceElems_float {x : V2} (float : x.ti.isFloat = true) (red : Reduction) (l : List Nat) :
    (reduceElems red x l).1 % 2 ^ x.out.bits = toF x.out x.rnd x.sat (red.onFloat (l.map (elemValue x.ti))) := by
  simp only [reduceElems, float, if_true, Exact.toElem, toF]
  split <;> rfl

theorem reduceElems_int {x : V2} (int : x.ti.isFloat = false) (red : Reduction) {l : List Nat} (small : ∀ e ∈ l, e < 2 ^ x.ti.bits) :
    (reduceElems red x l).1 % 2 ^ x.out.bits = toI x.out x.rnd x.sat (red.onInt (l.map (intOf x.ti))) := by
  have ints : (l.map (elemValue x.ti)).map Exact.toInt = l.map (intOf x.ti) := by
    rw [List.map_map]
    refine List.map_congr_left fun e mem => ?_
    rw [Function.comp_apply, elemValue_int int (small e mem), Exact.toInt_int]
  simp only [reduceElems, int, Bool.false_eq_true, if_false, Exact.toElem, toI, ints, Exact.toInt_int]
  split <;> rfl

/-- What a reduction of elements gives, by its two functions. -/
theorem reduceElems_gives (x : V2) {red : Reduction} {f : List Exact → Exact} {g : List Int → Int} (onFloat : ∀ l, red.onFloat l = f l)
    (onInt : ∀ l, red.onInt l = g l) {l : List Nat} (small : ∀ e ∈ l, e < 2 ^ x.ti.bits) :
    (reduceElems red x l).1 % 2 ^ x.out.bits = if x.ti.isFloat then toF x.out x.rnd x.sat (f (l.map (elemValue x.ti)))
      else toI x.out x.rnd x.sat (g (l.map (intOf x.ti))) := by
  split
  · next float => rw [reduceElems_float float, onFloat]
  · next int => rw [reduceElems_int (by simpa using int) red small, onInt]

/-! ### Along the rows and down the columns -/

section
variable {x : V2} {a : List Page}

theorem vecRowReduce_elem (red : Reduction) {r c : Nat} (hr : r < 64) (hc : c < elemsPerRow x.out 1) :
    elemAt x.out (vecRowReduce red x a).1 r c
      = (reduceElems red x ((List.range (elemsPerRow x.ti (TGrp.n x.a))).map (fun j => elemAt x.ti a r j))).1 / 2 ^ (x.out.bits * c)
        % 2 ^ x.out.bits := by
  rw [vecRowReduce, resultPages_elem hr hc, rowElems_groupRow]

theorem vecRowReduce_first (red : Reduction) {r : Nat} (hr : r < 64) : elemAt x.out (vecRowReduce red x a).1 r 0
    = (reduceElems red x ((List.range (elemsPerRow x.ti (TGrp.n x.a))).map (fun j => elemAt x.ti a r j))).1 % 2 ^ x.out.bits := by
  rw [vecRowReduce_elem red hr (elemsPerRow_pos _ one_pos), Nat.mul_zero, Nat.pow_zero, Nat.div_one]

/-- The columns' results in row 0. -/
def colRow (red : Reduction) (x : V2) (a : List Page) : Nat × Flags :=
  resultRow x.out ((List.range (elemsPerRow x.ti (TGrp.n x.a))).map fun c =>
    reduceElems red x ((List.range 64).map (fun j => elemAt x.ti a j c)))

theorem vecColReduce_eq (red : Reduction) : vecColReduce red x a
    = resultPages x.out (TGrp.n x.d) ((List.range 64).map fun r => if r = 0 then colRow red x a else (0, Flags.none)) := by
  have col (c : Nat) (hc : c < elemsPerRow x.ti (TGrp.n x.a)) :
      ((groupRows a).map (rowElems x.ti (TGrp.n x.a))).map (fun l => l.getD c 0) = (List.range 64).map fun j => elemAt x.ti a j c := by
    rw [groupRows, List.map_map, List.map_map]
    refine List.map_congr_left fun j _ => ?_
    rw [Function.comp_apply, Function.comp_apply, rowElems_groupRow, List.getD_map_range _ _ hc]
  have rows : (List.range 64).map (fun r => if r = 0 then colRow red x a else (0, Flags.none))
      = colRow red x a :: List.replicate 63 (0, Flags.none) := by
    rw [List.range_succ_eq_map, List.map_cons, List.map_map, if_pos rfl]
    congr 1
  rw [rows, colRow, vecColReduce, List.map_map]
  congr 3
  refine List.map_congr_left fun c mem => ?_
  rw [Function.comp_apply, col c (List.mem_range.1 mem)]

theorem vecColReduce_first (ok : V2.ok x = true) (red : Reduction) {c : Nat} (hc : c < elemsPerRow x.ti (TGrp.n x.a)) :
    elemAt x.out (vecColReduce red x a).1 0 c
      = (reduceElems red x ((List.range 64).map (fun j => elemAt x.ti a j c))).1 % 2 ^ x.out.bits := by
  rw [vecColReduce_eq, resultPages_elem (by decide) (V2.elems_of_ok ok hc), if_pos rfl, colRow, resultRow, packRow_field, List.map_map,
    List.getD_map_range _ _ hc]
  rfl

theorem vecColReduce_below (ok : V2.ok x = true) (red : Reduction) {r c : Nat} (hr : r < 64) (hc : c < elemsPerRow x.ti (TGrp.n x.a))
    (below : 0 < r) : elemAt x.out (vecColReduce red x a).1 r c = 0 := by
  rw [vecColReduce_eq, resultPages_elem hr (V2.elems_of_ok ok hc), if_neg below.ne', Nat.zero_div, Nat.zero_mod]

end

theorem reductionElements : Claims.ReductionElements := by
  intro x a r c _ hr n row col most least got down gives
  have rowSmall : ∀ e ∈ row, e < 2 ^ x.ti.bits := List.forall_mem_map.2 fun _ _ => elemAt_lt _ _ _ _
  have colSmall : ∀ e ∈ col, e < 2 ^ x.ti.bits := List.forall_mem_map.2 fun _ _ => elemAt_lt _ _ _ _
  have sum (l : List Int) : l.foldl (· + ·) 0 = l.sum := (List.sum_eq_foldl).symm
  have abs (l : List Int) : l.foldl (fun m i => max m (i.natAbs : Int)) 0 = l.foldl (fun m i => max m |i|) 0 := by
    simp only [Int.natCast_natAbs]
  refine ⟨fun _ => ⟨?_, ?_, ?_, ?_, fun float => ?_, ?_⟩, fun ok _ hc => ⟨?_, ?_, ?_⟩⟩
  · exact (vecRowReduce_first redMax hr).trans (reduceElems_gives x (fun _ => rfl) (fun _ => rfl) rowSmall)
  · exact (vecRowReduce_first redMin hr).trans (reduceElems_gives x (fun _ => rfl) (fun _ => rfl) rowSmall)
  · exact (vecRowReduce_first redSum hr).trans (reduceElems_gives x (fun _ => rfl) sum rowSmall)
  · exact (vecRowReduce_first redAbsMax hr).trans (reduceElems_gives x (fun _ => rfl) abs rowSmall)
  · exact (vecRowReduce_first redSquares hr).trans (reduceElems_float float redSquares row)
  · intro red _ beyond hc
    rw [vecRowReduce_elem red hr hc, field_beyond (reduceElems_lt red x _) beyond]
  · exact (vecColReduce_first ok redMax hc).trans (reduceElems_gives x (f := most) (g := fun l => l.tail.foldl max (l.headD 0)) (fun _ => rfl) (fun _ => rfl) colSmall)
  · exact (vecColReduce_first ok redSum hc).trans (reduceElems_gives x (f := exactSum) (g := List.sum) (fun _ => rfl) sum colSmall)
  · exact fun red _ below => vecColReduce_below ok red hr hc below

end Sys2Proof.Machine
end

section
/-! The softmax merge (09_vector.md R249). -/

namespace Sys2Proof.Machine
open Sys2Proof Sys2Proof.Claims

/-! ### The two values of a row -/

theorem elemAt_low (g : List Page) (r : Nat) : elemAt .f32 g r 0 = groupRow g r % 2 ^ 32 := by
  simp only [elemAt, Nat.mul_zero, Nat.pow_zero, Nat.div_one]
  rfl

theorem elemAt_next (g : List Page) (r : Nat) : elemAt .f32 g r 1 = groupRow g r / 2 ^ 32 % 2 ^ 32 := rfl

section
variable {p q : List Page} {r : Nat} (hr : r < 64)
include hr

/-- The merged pair of a row. -/
def mergedPair (p q : List Page) (r : Nat) : (Nat × Nat) × Flags :=
  mergePair (elemAt .f32 p r 0) (elemAt .f32 p r 1) (elemAt .f32 q r 0) (elemAt .f32 q r 1)

omit hr in
theorem mergeRow_fst (p q : List Page) (r : Nat) : (mergeRow (groupRow p r) (groupRow q r)).1
    = (mergedPair p q r).1.1 + 2 ^ 32 * (mergedPair p q r).1.2 := by
  rw [mergedPair, elemAt_low, elemAt_low, elemAt_next, elemAt_next, mergeRow]

theorem vecMerge_elem {c : Nat} (hc : c < 16) :
    elemAt .f32 (vecMerge p q).1 r c = (mergeRow (groupRow p r) (groupRow q r)).1 / 2 ^ (32 * c) % 2 ^ 32 :=
  resultPages_f32_elem (w := 1) hr hc _

theorem vecMerge_first : elemAt .f32 (vecMerge p q).1 r 0 = (mergedPair p q r).1.1 := by
  have small : (mergedPair p q r).1.1 < 2 ^ 32 := (mergePair_lt _ _ _ _).1
  rw [vecMerge_elem hr (by decide), mergeRow_fst]
  omega

theorem vecMerge_second : elemAt .f32 (vecMerge p q).1 r 1 = (mergedPair p q r).1.2 := by
  obtain ⟨first, second⟩ : (mergedPair p q r).1.1 < 2 ^ 32 ∧ (mergedPair p q r).1.2 < 2 ^ 32 := mergePair_lt _ _ _ _
  rw [vecMerge_elem hr (by decide), mergeRow_fst]
  omega

end

/-! ### A sum at a whole distance -/

/-- A value times 2 to minus k. -/
def scaledDown (v : Exact) (k : Nat) : Exact :=
  match v with
  | .num n m e _ => .num n m (e - k) false
  | y => y

theorem elemValue_plain {t : Ty} {raw : Nat} {n : Bool} {m : Nat} {e : Int} {st : Bool} (h : elemValue t raw = .num n m e st) : st = false := by
  unfold elemValue at h
  split at h
  · simp only at h
    split at h
    · cases h
    · split at h
      · split at h <;> cases h
      · split at h <;> cases h <;> rfl
  · split at h <;> cases h <;> rfl

/-- The exponent of a zero says nothing in a sum. -/
theorem exactSum_zero (x : Exact) (n : Bool) (e f : Int) : exactSum [x, .num n 0 e false] = exactSum [x, .num n 0 f false] := by
  cases x <;> rfl

theorem whole?_some {m : Nat} {e : Int} {k : Nat} (h : dyadicRat m e = k) : whole? m e = some k := by
  unfold whole?
  split
  · next pos =>
    obtain ⟨n, rfl⟩ := Int.eq_ofNat_of_zero_le pos
    have cast : ((m * 2 ^ n : Nat) : Rat) = k := by
      rw [← h, dyadicRat, zpow_natCast]
      push_cast
      rfl
    exact congrArg some (by exact_mod_cast cast)
  · next neg =>
    obtain ⟨n, rfl⟩ : ∃ n : Nat, e = -(n : Int) := ⟨(-e).toNat, by omega⟩
    have cast : (m : Rat) = ((k * 2 ^ n : Nat) : Rat) := by
      push_cast
      rw [← h, dyadicRat, zpow_neg, zpow_natCast]
      field_simp
      rfl
    have product : m = k * 2 ^ n := by exact_mod_cast cast
    rw [neg_neg, Int.toNat_natCast, product, Nat.mul_mod_left, if_pos rfl, Nat.mul_div_cancel _ (Nat.two_pow_pos _)]

theorem leadBit_lt {m : Nat} {e : Int} {k b : Nat} (some_ : m ≠ 0) (h : dyadicRat m e = k) (small : k < 2 ^ b) : leadBit m e < b := by
  by_contra far
  have lead : (2 : Rat) ^ leadBit m e ≤ dyadicRat m e := by
    rw [leadBit, zpow_add₀ two_ne_zero, dyadicRat, zpow_natCast]
    refine mul_le_mul_of_nonneg_right ?_ (by positivity)
    exact_mod_cast Nat.log2_self_le some_
  have reach : (2 : Rat) ^ (b : Int) ≤ 2 ^ leadBit m e := zpow_le_zpow_right₀ one_le_two (by omega)
  rw [zpow_natCast] at reach
  have bound : (k : Rat) < 2 ^ b := by exact_mod_cast small
  linarith

theorem mergeSum_whole {x y : Exact} (plain : ∀ n m e st, y = .num n m e st → st = false) {m : Nat} {e : Int} {k : Nat}
    (h : dyadicRat m e = k) (small : k < 4096) : mergeSum x y m e = exactSum [x, scaledDown y k] := by
  by_cases none_ : m = 0
  · have zero : k = 0 := by
      rw [none_] at h
      simpa [dyadicRat] using h.symm
    rw [mergeSum, if_pos none_, zero]
    cases y with
    | num n l f st =>
      obtain rfl := plain n l f st rfl
      simp [scaledDown]
    | nan | inf => rfl
  · have near : ¬ 12 ≤ leadBit m e := by
      have := leadBit_lt (b := 12) none_ h small
      omega
    simp only [mergeSum, none_, if_false, near, whole?_some h]
    cases y with
    | num n l f st =>
      obtain rfl := plain n l f st rfl
      simp only [scaledDown]
      split
      · next zero => rw [zero]; exact exactSum_zero x n f _
      · rfl
    | nan | inf => rfl

/-! ### The merged pair -/

/-- The rounded F32 of a value. -/
def roundedF32 (e : Exact) : Nat := (roundFloat .f32 .rne false e).1

section
variable {ma sa mb sb : Nat}

theorem mergePair_nan (nan : ((elemValue .f32 ma).isNan || (elemValue .f32 sa).isNan || (elemValue .f32 mb).isNan || (elemValue .f32 sb).isNan) = true) :
    (mergePair ma sa mb sb).1 = (0x7FC00000, 0x7FC00000) := by
  simp only [mergePair, nan, if_true]
  rfl

variable (clean : ((elemValue .f32 ma).isNan || (elemValue .f32 sa).isNan || (elemValue .f32 mb).isNan || (elemValue .f32 sb).isNan) = false)
include clean

theorem mergePair_max : (mergePair ma sa mb sb).1.1 = roundedF32 ((elemValue .f32 ma).max (elemValue .f32 mb)) := by
  simp only [mergePair, clean, Bool.false_eq_true, if_false]
  rfl

/-- The sum of a pair whose maxima are finite. -/
theorem mergePair_sum (na : isNum (elemValue .f32 ma) = true) (nb : isNum (elemValue .f32 mb) = true) : ∃ i e,
    dyadicRat i e = ratOf (elemValue .f32 ma) - ratOf (elemValue .f32 mb)
      ∧ (mergePair ma sa mb sb).1.2 = roundedF32 (if i < 0 then mergeSum (elemValue .f32 sb) (elemValue .f32 sa) i.natAbs e
          else mergeSum (elemValue .f32 sa) (elemValue .f32 sb) i.natAbs e) := by
  obtain ⟨n, m, e, st, ha⟩ := num_of_isNum na
  obtain ⟨k, l, f, st', hb⟩ := num_of_isNum nb
  refine ⟨(dyAdd (signed n m) e (-(signed k l)) f).1, (dyAdd (signed n m) e (-(signed k l)) f).2, ?_, ?_⟩
  · rw [dyadicRat_dyAdd, dyadicRat_negate, ha, hb, ratOf_num, ratOf_num, sub_eq_add_neg]
  · rw [ha, hb] at clean
    simp only [mergePair, ha, hb, clean, Bool.false_eq_true, if_false]
    rfl

theorem mergePair_ahead (na : isNum (elemValue .f32 ma) = true) (nb : isNum (elemValue .f32 mb) = true) {k : Nat} (small : k < 4096)
    (distance : ratOf (elemValue .f32 ma) - ratOf (elemValue .f32 mb) = k) :
    (mergePair ma sa mb sb).1.2 = roundedF32 (exactSum [elemValue .f32 sa, scaledDown (elemValue .f32 sb) k]) := by
  obtain ⟨i, e, value, sum⟩ := mergePair_sum clean na nb
  have whole : dyadicRat i e = k := value.trans distance
  have pos : ¬ i < 0 := fun neg => by
    have : dyadicRat i e < 0 := dyadicRat_neg_iff.2 neg
    rw [whole] at this
    exact absurd this (not_lt.2 (Nat.cast_nonneg k))
  have same : ((i.natAbs : Nat) : Int) = i := by omega
  rw [sum, if_neg pos, mergeSum_whole (fun _ _ _ _ => elemValue_plain) (by rw [same]; exact whole) small]

theorem mergePair_behind (na : isNum (elemValue .f32 ma) = true) (nb : isNum (elemValue .f32 mb) = true) {k : Nat} (small : k < 4096)
    (some_ : 0 < k) (distance : ratOf (elemValue .f32 mb) - ratOf (elemValue .f32 ma) = k) :
    (mergePair ma sa mb sb).1.2 = roundedF32 (exactSum [elemValue .f32 sb, scaledDown (elemValue .f32 sa) k]) := by
  obtain ⟨i, e, value, sum⟩ := mergePair_sum clean na nb
  have whole : dyadicRat (-i) e = k := by rw [dyadicRat_negate, value, neg_sub, distance]
  have neg : i < 0 := by
    rw [← dyadicRat_neg_iff (e := e), ← neg_neg (dyadicRat i e), ← dyadicRat_negate, whole, neg_lt_zero]
    exact_mod_cast some_
  have same : ((i.natAbs : Nat) : Int) = -i := by omega
  rw [sum, if_pos neg, mergeSum_whole (fun _ _ _ _ => elemValue_plain) (by rw [same]; exact whole) small]

end

theorem mergeElements : Claims.MergeElements := by
  intro p q r _ _ hr at_ got fl scaled nan
  refine ⟨fun c beyond hc => ?_, fun some_ => ?_, fun none_ => ?_, fun k none_ na nb small => ⟨fun distance => ?_, fun some_ distance => ?_⟩⟩
  · exact (vecMerge_elem hr hc).trans (mergeRow_beyond _ _ beyond)
  · have pair := mergePair_nan some_
    exact ⟨(vecMerge_first hr).trans (congrArg Prod.fst pair), (vecMerge_second hr).trans (congrArg Prod.snd pair)⟩
  · exact (vecMerge_first hr).trans (mergePair_max none_)
  · exact (vecMerge_second hr).trans (mergePair_ahead none_ na nb small distance)
  · exact (vecMerge_second hr).trans (mergePair_behind none_ na nb small some_ distance)

end Sys2Proof.Machine
end

section
/-! The elements and bits that permutations move (09_vector.md R251 to R253). -/

namespace Sys2Proof.Machine
open Sys2Proof Sys2Proof.Claims

theorem groupRows_getD (a : List Page) {r : Nat} (hr : r < 64) (f : Nat → Nat) : ((groupRows a).map f).getD r 0 = f (groupRow a r) := by
  rw [groupRows, List.map_map, List.getD_map_range _ _ hr]
  rfl

/-! ### Rows -/

theorem groupRow_permutePages (f : Nat → Nat) (a : List Page) {r : Nat} (hr : r < 64) : groupRow (permutePages f a) r = groupRow a (f r) := by
  induction a with
  | nil => rfl
  | cons p rest ih =>
    have row : pageRow { p with rows := Vector.ofFn (fun i : Fin 64 => BitVec.ofNat 512 (pageRow p (f i.val)))
                                tags := Vector.ofFn (fun i : Fin 64 => pageTag p (f i.val)) } r = pageRow p (f r) := by
      rw [pageRow, dif_pos hr]
      simp only [Vector.getElem_ofFn, BitVec.toNat_ofNat, Nat.mod_eq_of_lt (pageRow_lt p _)]
    rw [permutePages] at ih ⊢
    rw [List.map_cons, groupRow, row, groupRow, ih]

theorem vecRotateRows_row (a : List Page) (k : Nat) {r : Nat} (hr : r < 64) : groupRow (vecRotateRows k a) ((r + k) % 64) = groupRow a r := by
  rw [vecRotateRows, groupRow_permutePages _ _ (Nat.mod_lt _ (by decide))]
  congr 1
  omega

theorem vecPermuteRows_row {ix : List Page} (ok : ∀ i ∈ permIndices ix, 0 ≤ i ∧ i ≤ 63) (a : List Page) {r : Nat} (hr : r < 64) :
    groupRow (vecPermuteRows ix a) r = groupRow a (elemAt .i32 ix r 0) := by
  have small := elemAt_lt .i32 ix r 0
  have index : (permIndices ix).getD r 0 = (BitVec.ofNat 32 (elemAt .i32 ix r 0)).toInt := by
    rw [permIndices, List.getD_map_range _ _ hr]
  have mem : (BitVec.ofNat 32 (elemAt .i32 ix r 0)).toInt ∈ permIndices ix := List.mem_map.2 ⟨r, List.mem_range.2 hr, rfl⟩
  obtain ⟨pos, -⟩ := ok _ mem
  have value : (BitVec.ofNat 32 (elemAt .i32 ix r 0)).toNat = elemAt .i32 ix r 0 := by
    rw [BitVec.toNat_ofNat]
    exact Nat.mod_eq_of_lt small
  rw [vecPermuteRows, groupRow_permutePages _ _ hr]
  simp only [index]
  congr 1
  rw [BitVec.toInt_eq_toNat_cond, value] at pos ⊢
  split
  · exact Int.toNat_natCast _
  · next high =>
    rw [if_neg high] at pos
    have : elemAt .i32 ix r 0 < 2 ^ 32 := small
    omega

/-! ### The transpose -/

theorem transposable_square {t : Ty} {w : Fin 4} (h : transposable t w = true) : elemsPerRow t (2 ^ w.val) = 64 := by
  simp only [transposable, Bool.or_eq_true, Bool.and_eq_true, beq_iff_eq] at h
  obtain (⟨bits, rfl⟩ | ⟨bits, rfl⟩) | ⟨bits, rfl⟩ := h <;> rw [elemsPerRow, bits] <;> rfl

theorem vecTranspose_elem {t : Ty} {w : Fin 4} (h : transposable t w = true) (a : List Page) {r c : Nat} (hr : r < 64) (hc : c < 64) :
    elemAt t (vecTranspose t (2 ^ w.val) a) r c = elemAt t a c r := by
  have square := transposable_square h
  rw [vecTranspose, elemAt_packed _ _ hr (by rwa [square]), List.map_map, groupRows_getD a hc, Function.comp_apply, rowElems_groupRow,
    square, List.getD_map_range _ _ hr]
  exact Nat.mod_eq_of_lt (elemAt_lt _ _ _ _)

/-! ### Rotated rows -/

theorem rotateBits_testBit {l x i : Nat} (k : Nat) (hx : x < 2 ^ l) (hi : i < l) :
    (rotateBits l k x).testBit ((i + k) % l) = x.testBit i := by
  have low : k % l < l := Nat.mod_lt _ (by omega)
  have total : l - k % l + k % l = l := Nat.sub_add_cancel low.le
  have place : (i + k) % l = (i + k % l) % l := (Nat.add_mod_mod i k l).symm
  rw [place, rotateBits]
  generalize k % l = m at low total ⊢
  have upper : x * 2 ^ m % 2 ^ l = 2 ^ m * (x % 2 ^ (l - m)) := by
    rw [← total, pow_add, Nat.mul_mod_mul_right, Nat.mul_comm, total]
  have lower : x / 2 ^ (l - m) < 2 ^ m := by
    refine Nat.div_lt_of_lt_mul ?_
    rwa [← pow_add, total]
  rw [upper, Nat.testBit_two_pow_mul_add _ lower, Nat.testBit_div_two_pow, Nat.testBit_mod_two_pow]
  rcases Nat.lt_or_ge (i + m) l with inside | wraps
  · rw [Nat.mod_eq_of_lt inside, if_neg (by omega)]
    have back : i + m - m = i := by omega
    rw [back, decide_eq_true (by omega), Bool.true_and]
  · rw [Nat.mod_eq_sub_mod wraps, Nat.mod_eq_of_lt (by omega), if_pos (by omega)]
    congr 1
    omega

theorem rotate_place {n b c k j : Nat} (hc : c < n) (hj : j < b) : (b * c + j + k % n * b) % (n * b) = b * ((c + k) % n) + j := by
  have low : k % n < n := Nat.mod_lt _ (by omega)
  have same : (c + k) % n = (c + k % n) % n := (Nat.add_mod_mod c k n).symm
  rw [same]
  generalize k % n = m at low ⊢
  have sum : b * c + j + m * b = b * (c + m) + j := by ring
  have below {s : Nat} (hs : s < n) : b * s + j < n * b := by
    calc b * s + j < b * s + b := by omega
      _ = (s + 1) * b := by ring
      _ ≤ n * b := Nat.mul_le_mul_right _ hs
  rw [sum]
  rcases Nat.lt_or_ge (c + m) n with inside | wraps
  · rw [Nat.mod_eq_of_lt inside, Nat.mod_eq_of_lt (below inside)]
  · obtain ⟨s, split⟩ := Nat.exists_eq_add_of_le wraps
    have less : s < n := by omega
    have wrapped : b * (n + s) + j = n * b + (b * s + j) := by ring
    rw [split, Nat.add_mod_left, Nat.mod_eq_of_lt less, wrapped, Nat.add_mod_left, Nat.mod_eq_of_lt (below less)]

section
variable {a : List Page} {w : Nat} (len : a.length = w) {r : Nat} (hr : r < 64)
include len hr

theorem vecRotateCols_elem (t : Ty) (k : Nat) {c : Nat} (hc : c < elemsPerRow t w) :
    elemAt t (vecRotateCols t w k a) r ((c + k) % elemsPerRow t w) = elemAt t a r c := by
  have row : groupRow a r < 2 ^ (512 * w) := len ▸ groupRow_lt a r
  have width := elemsPerRow_mul t w
  rw [vecRotateCols, elemAt_typedPages _ _ _ hr (Nat.mod_lt _ (by omega)), groupRows_getD a hr, elemAt]
  refine Nat.eq_of_testBit_eq fun j => ?_
  simp only [Nat.testBit_mod_two_pow, Nat.testBit_div_two_pow]
  by_cases hj : j < t.bits
  · have place := rotate_place (k := k) hc hj
    have inside := elem_inside hc
    have moved := rotateBits_testBit (k % elemsPerRow t w * t.bits) row (i := t.bits * c + j) (by omega)
    rw [← width, place, width] at moved
    rw [Nat.add_comm j, moved, Nat.add_comm j]
  · simp [hj]

theorem vecRotateBits_bit (j : Int) {c : Nat} (hc : c < 512 * w) :
    (groupRow (vecRotateBits w j a) r).testBit (((c + j) % ((512 * w : Nat) : Int)).toNat) = (groupRow a r).testBit c := by
  have row : groupRow a r < 2 ^ (512 * w) := len ▸ groupRow_lt a r
  generalize hl : 512 * w = l at *
  have pos : (0 : Int) < l := by omega
  have shift : 0 ≤ j % (l : Int) := Int.emod_nonneg _ pos.ne'
  have place : ((c + j) % (l : Int)).toNat = (c + (j % (l : Int)).toNat) % l := by
    have cast : (((c + (j % (l : Int)).toNat) % l : Nat) : Int) = (c + j) % (l : Int) := by
      rw [Int.natCast_mod, Int.natCast_add, Int.toNat_of_nonneg shift, Int.add_emod_emod]
    rw [← cast, Int.toNat_natCast]
  have inside : (c + (j % (l : Int)).toNat) % l < 512 * w := by
    rw [hl]
    exact Nat.mod_lt _ (by omega)
  rw [place, vecRotateBits, testBit_plainPages _ _ hr inside, groupRows_getD a hr, hl]
  exact rotateBits_testBit _ row hc

end

theorem permuteElements : Claims.PermuteElements := by
  intro w ti a r c k j len hr n l
  exact ⟨fun square hc => vecTranspose_elem square a hr hc, vecRotateRows_row a k hr, vecRotateCols_elem len hr ti k,
    fun ix ok => vecPermuteRows_row ok a hr, vecRotateBits_bit len hr j⟩

end Sys2Proof.Machine
end

section
/-! The bit forms, the shifts and the population count of the vector engines (06_scalar.md R186; 09_vector.md R254 to R257). -/

namespace Sys2Proof.Machine
open Sys2Proof Sys2Proof.Claims

/-! ### Bit by bit -/

section
variable {w : Nat} (a b d : List Page) {r i : Nat} (hr : r < 64) (hi : i < 512 * w)
include hr hi

theorem vecBits2_bit (f : Nat → Nat → Nat) :
    (groupRow (vecBits2 f w a b) r).testBit i = (f (groupRow a r) (groupRow b r)).testBit i := by
  rw [vecBits2, testBit_plainPages _ _ hr hi, List.getD_map_range _ _ hr]

theorem vecNot_bit (len : a.length = w) : (groupRow (vecNot w a) r).testBit i = !(groupRow a r).testBit i := by
  have row : groupRow a r < 2 ^ (512 * w) := len ▸ groupRow_lt a r
  rw [vecNot, testBit_plainPages _ _ hr hi, groupRows_getD a hr, Nat.sub_right_comm, ← Nat.sub_add_eq, Nat.testBit_two_pow_sub_succ row,
    decide_eq_true hi, Bool.true_and]

end

theorem foldl_or_testBit (p : Nat → Bool) (m : Nat → Nat) (b : Nat) : ∀ (l : List Nat) (acc : Nat),
    (l.foldl (fun acc i => if p i then acc ||| m i else acc) acc).testBit b = (acc.testBit b || l.any fun i => p i && (m i).testBit b)
  | [], acc => by simp
  | i :: l, acc => by
    rw [List.foldl_cons, foldl_or_testBit p m b l, List.any_cons, ← Bool.or_assoc]
    congr 1
    cases p i <;> simp

/-- One of a number's bits as wanted. -/
theorem pick_testBit {n x b : Nat} (hx : x < 2 ^ n) (hb : b < n) (want : Bool) :
    (if want = true then x else 2 ^ n - 1 - x).testBit b = (x.testBit b == want) := by
  cases want
  · have complement : 2 ^ n - 1 - x = 2 ^ n - (x + 1) := by omega
    rw [if_neg Bool.false_ne_true, complement, Nat.testBit_two_pow_sub_succ hx, decide_eq_true hb, Bool.true_and]
    cases x.testBit b <;> rfl
  · rw [if_pos rfl, beq_true]

theorem table_bit (table : BitVec 8) (x y z : Bool) :
    ((List.range 8).any fun i => table.getLsbD i && ((x == (i % 2 == 1)) && (y == (i / 2 % 2 == 1)) && (z == (i / 4 == 1))))
      = table.getLsbD (bit x + 2 * bit y + 4 * bit z) := by
  cases x <;> cases y <;> cases z <;> simp [List.range_succ, bit]

theorem bitMap_bit {n a b c i : Nat} (ha : a < 2 ^ n) (hb : b < 2 ^ n) (hc : c < 2 ^ n) (hi : i < n) (table : BitVec 8) :
    (bitMap n table a b c).testBit i = table.getLsbD (bit (a.testBit i) + 2 * bit (b.testBit i) + 4 * bit (c.testBit i)) := by
  rw [← table_bit, bitMap, foldl_or_testBit, Nat.zero_testBit, Bool.false_or]
  simp only [Nat.testBit_and, pick_testBit ha hi, pick_testBit hb hi, pick_testBit hc hi]

theorem vecBitMap_bit {w : Nat} (a b d : List Page) {r i : Nat} (hr : r < 64) (hi : i < 512 * w) (ha : groupRow a r < 2 ^ (512 * w))
    (hb : groupRow b r < 2 ^ (512 * w)) (hd : groupRow d r < 2 ^ (512 * w)) (table : BitVec 8) :
    (groupRow (vecBitMap table w a b d) r).testBit i
      = table.getLsbD (bit ((groupRow a r).testBit i) + 2 * bit ((groupRow b r).testBit i) + 4 * bit ((groupRow d r).testBit i)) := by
  rw [vecBitMap, testBit_plainPages _ _ hr hi, List.getD_map_range _ _ hr, bitMap_bit ha hb hd hi]

/-- The bits that VFSHL takes of two rows side by side. -/
theorem funnelLeft_bit {l x y k i : Nat} (hy : y < 2 ^ l) (hk : k < l) (hi : i < l) :
    ((x * 2 ^ l + y) * 2 ^ k / 2 ^ l % 2 ^ l).testBit i = if k ≤ i then x.testBit (i - k) else y.testBit (l + i - k) := by
  rw [Nat.testBit_mod_two_pow, decide_eq_true hi, Bool.true_and, Nat.testBit_div_two_pow, Nat.mul_comm _ (2 ^ k), Nat.testBit_two_pow_mul,
    decide_eq_true (by omega), Bool.true_and, Nat.mul_comm x, Nat.testBit_two_pow_mul_add _ hy]
  split
  · next low =>
    rw [if_neg (by omega)]
    congr 1
    omega
  · next high =>
    rw [if_pos (by omega)]
    congr 1
    omega

theorem funnelRight_bit {l x y k i : Nat} (hy : y < 2 ^ l) (hi : i < l) :
    ((x * 2 ^ l + y) / 2 ^ k % 2 ^ l).testBit i = if i + k < l then y.testBit (i + k) else x.testBit (i + k - l) := by
  rw [Nat.testBit_mod_two_pow, decide_eq_true hi, Bool.true_and, Nat.testBit_div_two_pow, Nat.mul_comm x, Nat.testBit_two_pow_mul_add _ hy]

section
variable {w : Nat} (a b : List Page) {r i : Nat} (hr : r < 64) (hi : i < 512 * w) (hb : groupRow b r < 2 ^ (512 * w)) (k : Nat)
include hr hi hb

theorem vecFunnelLeft_bit : (groupRow (vecFunnelLeft w k a b) r).testBit i
    = if k % (512 * w) ≤ i then (groupRow a r).testBit (i - k % (512 * w)) else (groupRow b r).testBit (512 * w + i - k % (512 * w)) := by
  have low : k % (512 * w) < 512 * w := Nat.mod_lt _ (by omega)
  rw [vecFunnelLeft, vecBits2_bit _ _ hr hi, funnelLeft_bit hb low hi]

theorem vecFunnelRight_bit : (groupRow (vecFunnelRight w k a b) r).testBit i
    = if i + k % (512 * w) < 512 * w then (groupRow b r).testBit (i + k % (512 * w)) else (groupRow a r).testBit (i + k % (512 * w) - 512 * w) := by
  rw [vecFunnelRight, vecBits2_bit _ _ hr hi, funnelRight_bit hb hi]

end

/-! ### Element by element -/

theorem shiftLeft_eq (b k x : Nat) : shiftLeft b k x % 2 ^ b = (BitVec.ofNat b x <<< k).toNat := by
  rw [BitVec.toNat_shiftLeft, BitVec.toNat_ofNat, Nat.shiftLeft_eq, Nat.mod_mul_mod, shiftLeft]
  split
  · next wide =>
    have none_ : x * 2 ^ k % 2 ^ b = 0 := Nat.mod_eq_zero_of_dvd ((pow_dvd_pow 2 wide).trans (Dvd.intro_left x rfl))
    rw [none_, Nat.zero_mod]
  · exact Nat.mod_mod _ _

theorem shiftRight_eq {b x : Nat} (k : Nat) (hx : x < 2 ^ b) : shiftRight b k x % 2 ^ b = (BitVec.ofNat b x >>> k).toNat := by
  rw [BitVec.toNat_ushiftRight, BitVec.toNat_ofNat, Nat.mod_eq_of_lt hx, Nat.shiftRight_eq_div_pow, shiftRight]
  split
  · next wide => rw [Nat.div_eq_of_lt (hx.trans_le (Nat.pow_le_pow_right (by decide) wide)), Nat.zero_mod]
  · exact Nat.mod_eq_of_lt ((Nat.div_le_self _ _).trans_lt hx)

/-- The ones that an arithmetic shift of a negative number brings in. -/
theorem arith_filled {b k x : Nat} (hx : x < 2 ^ b) (hk : k ≤ b) :
    (x / 2 ^ k + (2 ^ b - 2 ^ (b - k))) % 2 ^ b = 2 ^ b - 1 - (2 ^ b - 1 - x) / 2 ^ k := by
  have split : 2 ^ b = 2 ^ k * 2 ^ (b - k) := by rw [← pow_add, Nat.add_sub_cancel' hk]
  have pos : 0 < 2 ^ k := Nat.two_pow_pos k
  have quotient : x / 2 ^ k < 2 ^ (b - k) := Nat.div_lt_of_lt_mul (by rwa [← split])
  have part : 2 ^ (b - k) ≤ 2 ^ b := Nat.pow_le_pow_right (by decide) (Nat.sub_le _ _)
  have complement : (2 ^ b - 1 - x) / 2 ^ k = 2 ^ (b - k) - (x / 2 ^ k + 1) := by
    have same : 2 ^ b - 1 - x = 2 ^ k * 2 ^ (b - k) - (x + 1) := by rw [← split]; omega
    rw [same, Nat.mul_sub_div _ _ _ (by rwa [← split])]
  rw [complement]
  generalize x / 2 ^ k = q at quotient ⊢
  generalize 2 ^ (b - k) = p at quotient part ⊢
  rw [Nat.mod_eq_of_lt (by omega)]
  omega

theorem shiftArith_eq {b x : Nat} (pos : 0 < b) (k : Nat) (hx : x < 2 ^ b) :
    shiftArith b k x % 2 ^ b = ((BitVec.ofNat b x).sshiftRight k).toNat := by
  have double : 2 ^ b = 2 * 2 ^ (b - 1) := by rw [← pow_succ', Nat.sub_add_cancel pos]
  have value : (BitVec.ofNat b x).toNat = x := by rw [BitVec.toNat_ofNat, Nat.mod_eq_of_lt hx]
  rw [BitVec.toNat_sshiftRight, value, BitVec.msb_eq_decide, value, Nat.shiftRight_eq_div_pow, Nat.shiftRight_eq_div_pow, shiftArith]
  rcases Nat.lt_or_ge x (2 ^ (b - 1)) with plus | minus
  · have top : x / 2 ^ (b - 1) % 2 ≠ 1 := by rw [Nat.div_eq_of_lt plus]; decide
    rw [decide_eq_false (Nat.not_le.2 plus), if_neg Bool.false_ne_true, if_neg top, Nat.add_zero]
    split
    · next wide =>
      rw [Nat.div_eq_of_lt hx, Nat.zero_mod, Nat.div_eq_of_lt (hx.trans_le (Nat.pow_le_pow_right (by decide) wide))]
    · exact Nat.mod_eq_of_lt ((Nat.div_le_self _ _).trans_lt hx)
  · have top : x / 2 ^ (b - 1) % 2 = 1 := by
      have one : x / 2 ^ (b - 1) = 1 := by rw [Nat.div_eq_iff (Nat.two_pow_pos _)]; omega
      rw [one]
    rw [decide_eq_true minus, if_pos rfl, if_pos top]
    split
    · next wide =>
      have none_ : (2 ^ b - 1 - x) / 2 ^ k = 0 := Nat.div_eq_of_lt (lt_of_lt_of_le (by omega) (Nat.pow_le_pow_right (by decide) wide))
      rw [none_, Nat.div_eq_of_lt hx, Nat.sub_self, Nat.pow_zero, Nat.zero_add, Nat.sub_zero]
      exact Nat.mod_eq_of_lt (Nat.sub_lt (Nat.two_pow_pos _) one_pos)
    · next narrow => exact arith_filled hx (by omega)

section
variable {w : Nat} (a : List Page) {r c : Nat} (hr : r < 64)
include hr

theorem vecShift_elem {t : Ty} (hc : c < elemsPerRow t w) (f : Nat → Nat → Nat → Nat) (k : Nat) :
    elemAt t (vecShift f t w k a) r c = f t.bits k (elemAt t a r c) % 2 ^ t.bits := by
  have rows : (groupRows a).map (fun row => packRow t.bits ((rowElems t w row).map (f t.bits k)))
      = (List.range 64).map fun r => packRow t.bits ((List.range (elemsPerRow t w)).map fun c => f t.bits k (elemAt t a r c)) := by
    rw [groupRows, List.map_map]
    refine List.map_congr_left fun r _ => ?_
    rw [Function.comp_apply, rowElems_groupRow, List.map_map]
    rfl
  rw [vecShift, rows, elemAt_packed _ _ hr hc, List.getD_map_range _ _ hc]

theorem vecPopCount_elem {ti out : Ty} {wd : Nat} (same : elemsPerRow out wd = elemsPerRow ti w) (hc : c < elemsPerRow ti w) :
    elemAt out (vecPopCount ti out wd w a) r c
      = (List.range ti.bits).countP (fun j => (elemAt ti a r c).testBit j) % 2 ^ out.bits := by
  have rows : (groupRows a).map (fun row => packRow out.bits ((rowElems ti w row).map (popBits ti.bits)))
      = (List.range 64).map fun r => packRow out.bits ((List.range (elemsPerRow ti w)).map fun c => popBits ti.bits (elemAt ti a r c)) := by
    rw [groupRows, List.map_map]
    refine List.map_congr_left fun r _ => ?_
    rw [Function.comp_apply, rowElems_groupRow, List.map_map]
    rfl
  rw [vecPopCount, rows, elemAt_packed _ _ hr (by rwa [same]), List.getD_map_range _ _ hc, popBits_eq_countP]

end

theorem logicElements : Claims.LogicElements := by
  intro w ti a b d table r c i k lena lenb lend hr n l x y z got
  have bound {g : List Page} (len : g.length = n) : groupRow g r < 2 ^ l := by
    have := groupRow_lt g r
    rwa [len] at this
  have rowa := bound lena
  have rowb := bound lenb
  have rowd := bound lend
  refine ⟨fun hi => ⟨?_, ?_, ?_, ?_, ?_, ?_, ?_⟩, fun _ hc => ⟨?_, ?_, ?_⟩, fun e f out wf width hc => ?_⟩
  · exact (vecBits2_bit a b hr hi _).trans (Nat.testBit_and _ _ _)
  · exact (vecBits2_bit a b hr hi _).trans (Nat.testBit_or _ _ _)
  · exact (vecBits2_bit a b hr hi _).trans (Nat.testBit_xor _ _ _)
  · exact vecNot_bit a hr hi lena
  · exact vecBitMap_bit a b d hr hi rowa rowb rowd table
  · exact vecFunnelLeft_bit a b hr hi rowb k
  · exact vecFunnelRight_bit a b hr hi rowb k
  · exact (vecShift_elem a hr hc _ k).trans (shiftLeft_eq _ _ _)
  · exact (vecShift_elem a hr hc _ k).trans (shiftRight_eq k (elemAt_lt _ _ _ _))
  · exact (vecShift_elem a hr hc _ k).trans (shiftArith_eq (Ty.bits_pos ti) k (elemAt_lt _ _ _ _))
  · change (TGrp.ok e && TGrp.ok f && sameElems e out f ti && Ty.isInt out) = true at wf
    simp only [Bool.and_eq_true] at wf
    obtain ⟨⟨-, same⟩, -⟩ := wf
    exact vecPopCount_elem a hr ((elemsPerRow_of_same same).trans (by rw [width])) hc

end Sys2Proof.Machine
end

section
/-! What the vector forms write (09_vector.md R239 to R257). -/

namespace Sys2Proof.Machine
open Sys2Proof Sys2Proof.Claims

/-- Settles O25: each form's elements follow from the elements it reads, by the form's function on one element, one row or one column,
and the exact arithmetic is that of the rational numbers. -/
theorem vectorElements : Obligations.VectorElements :=
  ⟨twoSourceElements, threeSourceElements, compareElements, unaryElements, transcendElements, transcendValues, quantScales, quantElements,
    reductionElements, mergeElements, permuteElements, logicElements⟩

end Sys2Proof.Machine
end
